-- ==== Sys2Proof/Word.lean ====
section
/-! DEFINITION. The word types of the manual (R44 "word: 32 bits") and their plainest names. -/

namespace Sys2Proof

/-- A word: 32 bits, bit 0 the least significant (00_scope, "Terms used throughout"). -/
abbrev Word := BitVec 32

/-- A byte of a frame or of a memory. -/
abbrev Byte := BitVec 8

/-- A 64-bit quantity: an NT value, an EUI-64, a ledger count. -/
abbrev DWord := BitVec 64

end Sys2Proof
end

