-- ==== Sys2Proof/Syntax.lean ====
section
/-! DEFINITION. The commands of the block: one constructor of `Instr` per row of opcode_table.json, with the
operands the row needs. A row that is a command packet carries the packet; a row that is an event carries what
the outside world contributes to it (a measured value, a pin, a received character). -/

namespace Sys2Proof

/-- The three Plaza ports (R63); numbered as R247 numbers them. -/
inductive PortId where
  | spi | uart | mbx
  deriving DecidableEq, Repr

/-- The wire of an external port's transaction; on the UART, how many of its characters had a framing error (R92). -/
inductive Wire where
  | spi
  | uart (framingErrors : Nat)
  deriving DecidableEq, Repr

def Wire.isUart : Wire → Bool
  | .spi => false
  | .uart _ => true

/-- What the RF and core sensors read at a die temperature sample, in 0.1 °C (R42, R443). -/
structure Sensors where
  rf : Int
  core : Int
  deriving DecidableEq, Repr

/-- A command packet as it reaches the Plaza whole (R66): the port, the TAG of word 0, words 1 to COUNT, and
whether its CRC word matched (external ports only, R68). CODE is the row itself. -/
structure Packet where
  port : PortId
  tag : BitVec 6
  params : List Word
  crcOk : Bool
  deriving DecidableEq, Repr

/-- A reception context: the Alley's one context, or Boulevard context `n` (R13, R197). -/
inductive CtxId where
  | alley
  | blvd (n : Fin 64)
  deriving DecidableEq, Repr

/-- What a detector reports (R195, R196): where, which sweep size (0 for OFDM), the peak's bin and chip timing,
the metric M in 0.25 dB units and the preamble power P_new in 0.25 dB units. `offset` is, in chirp mode, how far the preamble's
peak lies from the middle of that bin, in bins (R144); in OFDM mode the carrier offset at the short sync, in hertz (R187).
`gain` is the step that the Alley path's own gain control has set by the end of the preamble (R102). -/
structure Detect where
  boulevard : Bool
  entry : Fin 16
  k : Nat
  bin : Nat
  offset : Rat
  chip : Int
  metric : Int
  power : Int
  gain : Fin 7
  deriving DecidableEq, Repr

/-- What the samples of one symbol show (R144, R146, R180, R198, R203). Chirp: the position in bins of the dechirped peak after the
loop's corrections (in SYNC, before any), its metric and its power, both in 0.25 dB units, and the weaker peaks in falling order of
power. OFDM: the transform's values on the used subcarriers, in rising order of k. -/
structure SymbolObs where
  peak : Rat
  metric : Int
  power : Int
  others : List (Rat × Int)
  bins : List (Int × Int)
  deriving DecidableEq, Repr, Inhabited

/-- What the path measured over a whole frame: the power at RFIO in 0.5 dB units over the preamble or the long sync, and, in chirp
mode, the SNR over the payload in 0.25 dB units (R152, R187). -/
structure FrameLevel where
  rfioHalfDb : Int
  snr : BitVec 16
  deriving DecidableEq, Repr

/-- What an error-correcting read found (R403, R479). -/
inductive EccFound where
  | none
  | corrected (a : Nat)
  | uncorrectable (a : Nat)
  deriving DecidableEq, Repr

/-- The memories of R479's table, with their MEMORY codes 0 to 4. -/
inductive MemKind where
  | appSram | linkSram | linkTable | frameStore | flash
  deriving DecidableEq, Repr

/-- The five background activities of R475. -/
inductive Activity where
  | scrub | refresh | compaction | calibration | telemetry
  deriving DecidableEq, Repr

/-- What starts a Kerb pass (R447). -/
inductive KerbTrigger where
  | periodic
  | edge (kin : Fin 8) (rising : Bool)
  | marker
  | software
  | start
  | held
  deriving DecidableEq, Repr

/-- Why a rollback happens (R465). -/
inductive RollbackReason where
  | adoption | selfTest | faultRestart | trialElapsed | abort
  deriving DecidableEq, Repr

/-- The commands: every row of opcode_table.json, in its order. -/
inductive Instr where
  -- System (R95, R247, R308, R483)
  | ping (p : Packet)
  | devInfo (p : Packet)
  | softReset (p : Packet)
  | ledgerRead (p : Packet)
  | statsRead (p : Packet)
  | eventMask (p : Packet)
  | telemetryRead (p : Packet)
  -- Power (R418-R437)
  | stopEnter (p : Packet)
  | domainSet (p : Packet)
  | wakeArm (p : Packet)
  | wakeRecordRead (p : Packet)
  | padRelease (p : Packet)
  | oppointSet (p : Packet)
  | bodConfig (p : Packet)
  | retainSet (p : Packet)
  -- Time (R38-R62)
  | ntSet (p : Packet)
  | ntCapture (p : Packet)
  | ppsConfig (p : Packet)
  | ppsStatus (p : Packet)
  | ntSlew (p : Packet)
  | ntJump (p : Packet)
  -- Radio (R115-R120)
  | rfConfig (p : Packet)
  | calRun (p : Packet)
  | calRead (p : Packet)
  | txshapeSet (p : Packet)
  | femSeqSet (p : Packet)
  | regionLoad (p : Packet)
  -- Modem (R188, R189, R216-R218, R242, R243, R78)
  | phyProfileSet (p : Packet)
  | loadmapSet (p : Packet)
  | txSubmit (p : Packet)
  | txCancel (p : Packet)
  | rxStart (p : Packet)
  | rxStop (p : Packet)
  | blvdConfig (p : Packet)
  | laneDrop (p : Packet)
  -- Link (R244-R246, R251-R272)
  | linkAdd (p : Packet)
  | linkDel (p : Packet)
  | linkRead (p : Packet)
  | addrAssign (p : Packet)
  | dirConfig (p : Packet)
  | dirSnapshot (p : Packet)
  | rdvSet (p : Packet)
  | rdvClear (p : Packet)
  | beaconConfig (p : Packet)
  -- Traffic (R275-R297)
  | queueConfig (p : Packet)
  | meterSet (p : Packet)
  | gatelistLoad (p : Packet)
  | gatelistStatus (p : Packet)
  | budgetLoad (p : Packet)
  | budgetRead (p : Packet)
  -- Security (R333-R340)
  | keyLoad (p : Packet)
  | keyDerive (p : Packet)
  | keyZero (p : Packet)
  | cipherRun (p : Packet)
  | attest (p : Packet)
  | lifecycleAdvance (p : Packet)
  | debugUnlock (p : Packet)
  | rngRead (p : Packet)
  | ecdhRun (p : Packet)
  | signRun (p : Packet)
  | verifyRun (p : Packet)
  -- Flash (R397-R416)
  | flashProgram (p : Packet)
  | flashErase (p : Packet)
  | flashSuspend (p : Packet)
  | flashResume (p : Packet)
  | protectSet (p : Packet)
  | protectUnlock (p : Packet)
  | otpRead (p : Packet)
  | otpProgram (p : Packet)
  | flashStatus (p : Packet)
  -- Update (R458-R474)
  | updBegin (p : Packet)
  | updChunk (p : Packet)
  | updVerify (p : Packet)
  | updActivate (p : Packet)
  | updCommit (p : Packet)
  | updAbort (p : Packet)
  | settingsWrite (p : Packet)
  | settingsRead (p : Packet)
  -- Kerb commands (R452, R453)
  | kerbLoad (p : Packet)
  | kerbStart (p : Packet)
  | kerbStop (p : Packet)
  | kerbLogRead (p : Packet)
  -- Test (R481-R487)
  | ctxTest (p : Packet)
  | bistRun (p : Packet)
  | loopback (p : Packet)
  | bgPause (p : Packet)
  | bgConfig (p : Packet)
  -- Packets refused before any owner sees them (R70)
  | badOpcode (p : Packet) (cls : BitVec 4) (code : BitVec 12)
  | badCrc (p : Packet) (code : BitVec 12)
  -- The host ports: `ctrl` is the control word, then the words of the data phase, or how many words are clocked
  | hostWriteTransaction (wire : Wire) (ctrl : Word) (data : List Word)
  | hostReadTransaction (wire : Wire) (ctrl : Word) (clocked : Nat)
  | hostPollTransaction (wire : Wire) (ctrl : Word) (clocked : Nat)
  | hostNopTransaction (wire : Wire) (ctrl : Word) (clocked : Nat)
  | uartBreak (ctrlBytes : Nat)
  | uartRateByte (byte : Byte) (cellsOk : Bool) (bitNs : Nat)
  -- The mailbox and the Lanes
  | mbxCmdWrite (w : Word)
  | mbxCmdHoldExpiry
  | mbxLaneRead (lane : Fin 5)
  | eventBacklogDrain (port : PortId)
  | frameStoreMove (high : Bool)
  -- Resets
  | powerOnReset
  | brownoutReset (mv : Nat)
  | resetn (lowNs : Nat) (strap : Bool)
  | warmReset
  | debugReset
  -- Time events
  | ppsEdge (rising : Bool) (lfCycles : Nat)
  | ppsLost
  | ntSetExpired
  | ntSlewComplete
  | markerFired (n : Fin 16)
  | capture (u : Fin 3)
  | ntcCpLoRead (u : Fin 4)
  | ntcCpHiRead (u : Fin 4)
  | swtrig (u : Fin 4)
  | markerArm (n : Fin 8) (ctrl : Word)
  | ntcPpsGlitchRead
  | ntcCpLostRead (u : Fin 4)
  | btStart (n : Fin 8)
  | btStop (n : Fin 8)
  | btPeriodWrite (n : Fin 8) (period : Word)
  | btEnd (n : Fin 8)
  -- Application core registers
  | cycleLoRead (rd : BitVec 5)
  | cachectlInv
  | cacheMissRead (rd : BitVec 5)
  | intcSwset (w : Word)
  | intcSwclr (w : Word)
  | registerWrite (addr : Word) (value : Word)
  -- GPIO
  | gpioSet (port : Fin 4) (w : Word)
  | gpioClr (port : Fin 4) (w : Word)
  | gpioTgl (port : Fin 4) (w : Word)
  | gpioEdge (pin : Fin 64) (level : Bool) (cycles : Nat)
  -- Serial controllers
  | spicTxWrite (c : Fin 2) (w : Word)
  | spicRxRead (c : Fin 2)
  | csEnd (c : Fin 2)
  | spicFrameEnd (c : Fin 2) (miso : Word)
  | i2cCmdWrite (c : Fin 2) (w : Word)
  | i2cTxWrite (c : Fin 2) (w : Word)
  | i2cRxRead (c : Fin 2)
  | i2cByteEnd (c : Fin 2) (acked : Bool) (rx : Byte)
  | i2cTimeout (c : Fin 2)
  | uartTxWrite (u : Fin 3) (w : Word)
  | uartRxRead (u : Fin 3)
  | uartLostRead (u : Fin 3)
  | uartRxCharacter (u : Fin 3) (data : Byte) (perr ferr brk : Bool)
  | uartTxCharacter (u : Fin 3)
  | rxidle (u : Fin 3)
  -- ADC and DMA
  | adcStart
  | adcDataRead
  | adcLostRead
  | adcConversionEnd (result : BitVec 12) (sensors : Sensors)
  | dmaSwreq (w : Word)
  | dmaChannelEnable (ch : Fin 16) (ctrl : Word)
  | dmaAbort (ch : Fin 16)
  | dmaChStatusRead (ch : Fin 16)
  | dmaBurst
  -- KERB window and PMU page
  | kerbSwtrig
  | kerbTrigRead
  | kerbDecidedRead
  | pmuEventsRead
  -- PB32 (R345)
  | pbAdd (rd ra rb : BitVec 5)
  | pbSub (rd ra rb : BitVec 5)
  | pbAnd (rd ra rb : BitVec 5)
  | pbOr (rd ra rb : BitVec 5)
  | pbXor (rd ra rb : BitVec 5)
  | pbNor (rd ra rb : BitVec 5)
  | pbSlt (rd ra rb : BitVec 5)
  | pbSltu (rd ra rb : BitVec 5)
  | pbSll (rd ra rb : BitVec 5)
  | pbSrl (rd ra rb : BitVec 5)
  | pbSra (rd ra rb : BitVec 5)
  | pbSlli (rd ra sh : BitVec 5)
  | pbSrli (rd ra sh : BitVec 5)
  | pbSrai (rd ra sh : BitVec 5)
  | pbMin (rd ra rb : BitVec 5)
  | pbMax (rd ra rb : BitVec 5)
  | pbMinu (rd ra rb : BitVec 5)
  | pbMaxu (rd ra rb : BitVec 5)
  | pbClz (rd ra : BitVec 5)
  | pbSextb (rd ra : BitVec 5)
  | pbSexth (rd ra : BitVec 5)
  | pbAddi (rd ra : BitVec 5) (imm : BitVec 16)
  | pbAndi (rd ra : BitVec 5) (imm : BitVec 16)
  | pbOri (rd ra : BitVec 5) (imm : BitVec 16)
  | pbXori (rd ra : BitVec 5) (imm : BitVec 16)
  | pbSlti (rd ra : BitVec 5) (imm : BitVec 16)
  | pbSltiu (rd ra : BitVec 5) (imm : BitVec 16)
  | pbLui (rd ra : BitVec 5) (imm : BitVec 16)
  | pbMul (rd ra rb : BitVec 5)
  | pbMulh (rd ra rb : BitVec 5)
  | pbMulhu (rd ra rb : BitVec 5)
  | pbMac (rd ra rb : BitVec 5)
  | pbMsu (rd ra rb : BitVec 5)
  | pbLw (rd ra : BitVec 5) (imm : BitVec 16)
  | pbLh (rd ra : BitVec 5) (imm : BitVec 16)
  | pbLhu (rd ra : BitVec 5) (imm : BitVec 16)
  | pbLb (rd ra : BitVec 5) (imm : BitVec 16)
  | pbLbu (rd ra : BitVec 5) (imm : BitVec 16)
  | pbSw (rs ra : BitVec 5) (imm : BitVec 16)
  | pbSh (rs ra : BitVec 5) (imm : BitVec 16)
  | pbSb (rs ra : BitVec 5) (imm : BitVec 16)
  | pbBeq (ra rb : BitVec 5) (off : BitVec 16)
  | pbBne (ra rb : BitVec 5) (off : BitVec 16)
  | pbBlt (ra rb : BitVec 5) (off : BitVec 16)
  | pbBge (ra rb : BitVec 5) (off : BitVec 16)
  | pbBltu (ra rb : BitVec 5) (off : BitVec 16)
  | pbBgeu (ra rb : BitVec 5) (off : BitVec 16)
  | pbJmp (off : BitVec 26)
  | pbCall (off : BitVec 26)
  | pbJr (ra : BitVec 5)
  | pbCallr (ra : BitVec 5)
  | pbRet
  | pbReti
  | pbLoop (n : BitVec 2) (ra : BitVec 5) (len : BitVec 12)
  | pbLoopi (n : BitVec 2) (cnt len : BitVec 12)
  | pbMoveTo (sr ra : BitVec 5)
  | pbMoveFrom (rd sr : BitVec 5)
  | pbPush (ra : BitVec 5)
  | pbPop (rd : BitVec 5)
  | pbPushl (mask : BitVec 3)
  | pbPopl (mask : BitVec 3)
  | pbTrap (code : BitVec 5)
  | pbWait
  | pbFence
  | pbIcinv
  | pbBreak
  | interruptEntry
  -- Reception (R195-R240)
  | detection (d : Detect) (rival : Option Detect)
  | symbolDecision (c : CtxId) (o : SymbolObs)
  | syncDecision (c : CtxId) (first second : Rat)
  | timingMark (c : CtxId) (first second : Rat)
  | noMark (c : CtxId)
  | headerDecision (c : CtxId)
  | lastPayloadDecision (c : CtxId) (level : FrameLevel)
  | gainChange (up : Bool)
  | decisionPipeline (xspiError : Bool)
  | ack
  -- Transmission (R105, R226-R233, R300-R303)
  | txChoice
  | txAttempt
  | txEnd
  | ackReception (psdu : List Byte) (crc : Word) (stamp : DWord) (rfioHalfDb : Int) (bypass : Bool)
  | ackWindowClose
  | retryDelayExpiry (frame : Nat)
  | expired (frame : Nat)
  | late (frame : Nat)
  -- Radio (R106-R116)
  | settleDone
  | synthLockTimeout (osc : Word)
  | turnRxDone
  | calStep
  | calStepEnd (result : List Word)
  | calRunExpired
  | calPeriodExpiry (tempTenths : Int) (sensors : Sensors)
  -- Rendezvous, beacons, joins (R249-R261)
  | rdvSlot (short : BitVec 24)
  | reacquisitionWindow (short : BitVec 24)
  | scan (short : BitVec 24)
  | beacon
  | joinRequestSend
  | joinPlaceExpiry (place : Fin 8)
  -- Traffic (R286-R295)
  | gateSwapped
  | bucketRoll
  | budgetJournalWrite
  -- Security (R315-R331)
  | openMessageTimeout (ctx : Fin 8)
  | trngHealthFail (test : Fin 3)
  | trngStartUpTest (pass : Bool)
  | unlockChal
  | unlockResp (scope : BitVec 2) (key sig : List Word)
  | extest (select : Bool)
  -- Flash (R396, R411)
  | flashDone (verifyFails : Bool)
  | flashAutoSuspend
  | flashAutoResume
  -- Stop, wake, brown-out, operating point, domains (R418-R441)
  | stopEntry
  | wake (sources : BitVec 8) (detail : BitVec 6) (sealFails : BitVec 16) (tempTenths : Int) (sensors : Sensors)
  | ntToHfxo
  | bodWarn (mv : Nat)
  | bodClear (mv : Nat)
  | oppointSwitch
  | oppointTimeout
  | domainUsable (d : Fin 12)
  -- Kerb steps (R447-R449)
  | kerbPass (t : KerbTrigger)
  | kerbEnd
  | kerbSample (result : BitVec 12) (sensors : Sensors)
  | kerbDin
  | kerbDout
  | kerbWait
  | kerbLoadi
  | kerbAdd
  | kerbSub
  | kerbAbsd
  | kerbIir
  | kerbJgt
  | kerbJle
  | kerbJmp
  | kerbLog
  | kerbDecide
  | kerbMov
  -- Update (R461-R466)
  | handover (adopted : Bool)
  | handoverWaitExpiry
  | trialExpiry
  | rollback (reason : RollbackReason)
  -- Background (R475-R487)
  | scrubQuantum (m : MemKind) (e : EccFound)
  | flashRefreshQuantum (e : EccFound) (marginFails : Bool)
  | journalCompactionQuantum (eraseSector : Option Nat)
  | telemetryQuantum (tempTenths : Int) (sensors : Sensors) (mv : Nat)
  | urgent (a : Activity)
  | bgPauseEnd
  | ctxTestDone (pass : Bool) (corrected : Nat)
  | bistDone (fails : Nat) (first : Word)
  | loopbackEnd (pass : Bool) (snr cfo drift corrected : Word)
  -- Pulses, clocks and supplies (R36, R43, R316-R320, R433, R491-R494)
  | ppsOutRise
  | ppsOutFall
  | wakeDriftSample (freq : Int)
  | sysplllocked
  | keyStoreReady
  | pkaDone
  | inactiveBankErased
  | updVerifyDone
  | dirSnapshotDone
  | rdvWindowClose (short : BitVec 24)
  | vioRemoved
  | vioRestored
  | lfxoRunning
  | vbatSample (mv : Nat)
  | speculativeTurnaround
  deriving DecidableEq, Repr

end Sys2Proof
end

