-- ==== Sys2Proof/Config.lean ====
section
/-! DEFINITION. What an implementation fixes and the manual leaves open: the free values. None has a body, so
no statement can rest on a value of one (log 5). -/

namespace Sys2Proof

/-- What the carrier and timing loops of a reception hold (R144, R180). Chirp: the carrier correction in bins, the timing
correction in chips, and their rates per chip. OFDM: the common phase in turns, the timing offset in samples, and their rates per
symbol. -/
structure Track where
  carrier : Rat := 0
  carrierRate : Rat := 0
  timing : Rat := 0
  timingRate : Rat := 0
  /-- Chirp: the sum of the data symbols' residuals since the last pilot, their number and the sum of their powers (R144, R146). -/
  resid : Rat := 0
  count : Nat := 0
  power : Int := 0
  deriving DecidableEq, Repr

/-- A symbol of the stronger frame of a pair as it is synthesised: elapsed time of its start, its value (none for a down-sweep), its
tracked power in 0.25 dB units and the loop's values (R204). -/
structure Synth where
  start : DWord
  value : Option Nat
  power : Int
  track : Track
  deriving DecidableEq, Repr

end Sys2Proof

namespace Sys2Proof.Config
open Sys2Proof

/-- The n-th open value drawn: random words (R317), undefined register reads (R348), unstated results. -/
opaque freeWord : Nat → Word

/-- The n-th open truth value: whether a cell fails its read-back (R408). -/
opaque freeBool : Nat → Bool

/-- Whether a rising edge of LFXO, or a tick of HFRC, falls in the HFXO tick that ends the given elapsed time, and how many HFRC
ticks fall in an LFXO tick: the oscillators are not locked to each other (R58). -/
opaque lfxoEdge : DWord → Bool
opaque hfrcEdge : DWord → Bool
opaque hfrcPerLfxo : DWord → Nat

/-- Whether link firmware writes a diagnostic record now, and the record: the low byte of its code, its first word and the
rest (R74); the manual gives neither the occasions nor the bodies. -/
opaque diagRecord : Nat → Option (Byte × Word × List Word)

/-- What a drift tracker's BOUND field holds when the deviation is past its 24 bits (R43). -/
opaque driftBound : Nat → BitVec 24

/-- What the boot ROM and the CRYPTO power-up sequence derive from the OTP device seed for a DEVICE slot (R318);
the manual does not give the derivation. -/
opaque deviceKey : Nat → BitVec 256 → BitVec 256

/-- The attestation certificate in DER form, certified at Onamus test (R326); the manual does not give its bytes. -/
opaque certificate : List Byte

/-- The class key common to every part, which the boot ROM unwraps from the OTP TEST record (R457); the manual gives
neither it nor the record's layout. -/
opaque classKey : BitVec 256

/-- SHA-256 of the link firmware part in the factory image's manifest (R324), which the manual does not give. -/
opaque linkDigest : BitVec 256

/-- How many bytes of customer records the settings journal holds after compaction (R473): its records' overhead is the
firmware's own. -/
opaque settingsRoom : Nat

/-- The format number of a device item's record (R469, R474), which the manual does not give. -/
opaque itemFormat : Nat → BitVec 16

/-- The level of a terminal that two pads drive at once (R509): undefined, at any instant for any pin. -/
opaque contended : BitVec 64 → Nat → Bool

/-- A link firmware version knows the format of a device item's record (R470). -/
opaque knowsFormat : Word → Nat → Bool

/-- SHA-256 of the boot ROM (R324). -/
opaque romDigest : BitVec 256

/-- A word of the boot ROM, by its word index (R364); the manual does not give its contents. -/
opaque romWord : Nat → Word

/-- How the radio-tables part (kind 3) or the Kerb program part (kind 4) of an image gives the default of a device
item (R122, R175, R296, R452): the parameter words its load command would carry, or none. The manual does not give
the parts' format. -/
opaque imageItem : Nat → List Byte → Option (List Word)

/-- The gains of the chirp loops (R144): of a data symbol's residual on the carrier and on the timing correction, of a pilot's
carrier and timing error on the corrections and on their rates. The manual gives the loop's order and no gains. -/
opaque dataCarrierGain : Rat
opaque dataTimingGain : Rat
opaque pilotCarrierGain : Rat
opaque pilotTimingGain : Rat
opaque carrierRateGain : Rat
opaque timingRateGain : Rat

/-- The gains of the OFDM loops (R180): of an error of the common phase and of the timing on the estimate and on its rate. -/
opaque phaseGain : Rat
opaque phaseRateGain : Rat
opaque slopeGain : Rat
opaque slopeRateGain : Rat

/-- The argument of a complex number in turns, and the cosine and sine of an angle in turns, as the device computes them: the manual
states no precision (R148, R180, R182). -/
opaque angle : Rat → Rat → Rat
opaque cosine : Rat → Rat
opaque sine : Rat → Rat

/-- What a quotient by a channel estimate of zero gives (R180). -/
opaque deadChannel : Rat → Rat → Rat × Rat

/-- The slope over fewer than two pilots (R180). -/
opaque loneSlope : Rat → Rat

/-- A noise estimate refined by the pilot error over the payload: the estimate, the sum of the squared errors and their number (R177).
The manual does not say how. -/
opaque refinedNoise : Rat → Rat → Nat → Rat

/-- The SNR in 0.25 dB units of a measured signal and noise power of which one is not positive (R177). -/
opaque edgeSnr : Rat → Rat → Int

/-- The strongest peak of a symbol outside the excluded bins, where the operand names none (R203). -/
opaque hiddenPeak : SymbolObs → Nat → Rat

/-- What W's symbol shows after the synthesised symbols that overlap it have been subtracted (R204, R205): the delay line's samples
are no operand of the model. -/
opaque subtracted : List Synth → SymbolObs → SymbolObs

/-- The information bits that come of a codeword that the decoder does not decode (R140): the code, the received bits, the erased
positions; and the bytes of an uncorrectable codeword (R166). -/
opaque undecodedBits : Nat → Nat → List Nat → Nat
opaque undecodedBytes : List Byte → List Byte

/-- The group delay, in samples, of FIR taps whose sum is 0 (R183). -/
opaque tapsDelay : List Int → Rat

end Sys2Proof.Config
end

