-- ==== Sys2Proof/Machine/State.lean ====
section
/-! DEFINITION. The state of the block: every register, queue, buffer, counter, mode and pin the spec gives it,
as plain data; the closed reasons for which a command stops; and the state right after a power-on reset.
Each field's docstring gives its width, the rule that names it and its reset value. -/

namespace Sys2Proof.Machine
open Sys2Proof

/-- Why the block stops with a fault. -/
inductive Fault where
  /-- A transfer, LOOP, LOOPI, TRAP, WAIT or BREAK in a delay slot: R350 calls the result undefined and gives no
  effect. Raised by those PB32 meanings. Safe: the model stops where the hardware goes on somehow. -/
  | undefinedDelaySlot
  /-- A taken or untaken transfer, LOOP or LOOPI that stands at the end of an active loop's body: R353 forbids it
  and gives no effect. Raised by those PB32 meanings. Safe. -/
  | undefinedLoopEnd
  deriving DecidableEq, Repr

/-- Why the block refuses a command. -/
inductive Refusal where
  /-- The command has no meaning in this model yet, named by its mnemonic. Raised by the dispatcher only. Safe. -/
  | notModelled (mnemonic : String)
  deriving DecidableEq, Repr


/-! ### Network time (02_network_time) -/

/-- The servo state of R34, as NTC_STATUS.PPS_STATE numbers it. -/
inductive PpsState where
  | off | acquiring | locked | holdover
  deriving DecidableEq, Repr

/-- One marker MKn (R45, R59): reset values R53, R59. -/
structure Marker where
  /-- NTC_MKn_HI:NTC_MKn_LO, 64 bits, R59, reset 0. -/
  target : DWord := 0
  /-- NTC_MKn_CTRL, 32 bits (bit 0 ARM), R59, reset 0. -/
  ctrl : Word := 0
  /-- NTC_MK_STATUS.FIRED of this marker, 1 bit, R59, reset 0. -/
  fired : Bool := false
  /-- NTC_MK_STATUS.LATE of this marker, 1 bit, R59, reset 0. -/
  late : Bool := false
  /-- NTC_MK_STATUS.DROPPED of this marker, 1 bit, R59, reset 0. -/
  dropped : Bool := false
  /-- A forced jump passed the target: the firing to come is late (R40), reset false. -/
  jumped : Bool := false
  deriving DecidableEq, Repr

/-- One capture unit CPn (R49, R59). -/
structure CaptureUnit where
  /-- NTC_CPn_HI:NTC_CPn_LO, 64 bits, R49, reset 0. -/
  value : DWord := 0
  /-- NEW, 1 bit, R49, reset 0. -/
  new : Bool := false
  /-- FROZEN, 1 bit, R49, reset 0. -/
  frozen : Bool := false
  /-- The pending slot (PEND is its being full), R49, reset empty. -/
  slot : Option DWord := none
  /-- CP_OVR, 1 bit, R49, reset 0. -/
  ovr : Bool := false
  /-- NTC_CP_LOSTn, 16 bits, R59, reset 0. -/
  lost : BitVec 16 := 0
  /-- NTC_CPn_CTRL, 32 bits, R59, reset 0. -/
  ctrl : Word := 0
  /-- A high-word read has consumed the value and the pending one moves in at the next cycle (R50), reset false. -/
  moveDue : Bool := false
  deriving DecidableEq, Repr

/-- One temperature bin of the drift tracker (R42-R44). -/
structure DriftBin where
  /-- NTC_DT_ESTb, 32 bits signed, R59, reset 0. -/
  est : Word := 0
  /-- NTC_DT_INFOb.BOUND, 24 bits, R59, reset 0xA7C5B. -/
  bound : BitVec 24 := 0xA7C5B#24
  /-- NTC_DT_INFOb.SAMPLES, 8 bits, R59, reset 0. -/
  samples : BitVec 8 := 0
  deriving DecidableEq, Repr

/-- A slew in progress (R39). -/
structure Slew where
  /-- DELTA, signed, fraction units (R61). -/
  delta : Int
  /-- RATE, ppm (R61). -/
  rate : Nat
  /-- NTC_ADJ as it stood before the slew, signed (R39). -/
  base : Int
  /-- The correction accumulated so far, in units of 2^-96 s (R39). -/
  done : Nat := 0
  deriving DecidableEq, Repr

/-- An NT_SET waiting for a PPS edge (R38). -/
structure SetPending where
  port : PortId
  tag : BitVec 6
  /-- SECONDS to load (R38, R61). -/
  seconds : Word
  /-- The elapsed time at acceptance: the load expires 1.5 s later, whatever moves NT in between (R38). -/
  since : DWord
  deriving DecidableEq, Repr

/-- The NT counter, the servo, the slew, the drift tracker and the NTC page's interrupt registers. -/
structure TimeState where
  /-- NT, 64 bits, R25, reset 0. -/
  nt : DWord := 0
  /-- The hidden sub-unit accumulator, in units of 2^-64 of a fraction unit, R27, reset 0 (DESIGN CHOICE 0, log 6). -/
  ntSub : DWord := 0
  /-- NT has been set by NT_SET, as at a time-set coordinator (R38, R253), reset false. -/
  isSet : Bool := false
  /-- NTC_STATUS.SRC: true when NT runs on LFXO, 1 bit, R59, reset 0. -/
  onLf : Bool := false
  /-- NTC_STEP_HF_HI:NTC_STEP_HF_LO, Q16.32, R27, reset 0x0086_37BD_05AF. -/
  stepHf : BitVec 48 := 0x008637BD05AF#48
  /-- NTC_STEP_LF_HI:NTC_STEP_LF_LO, Q20.24, R27, reset 0x20000_000000. -/
  stepLf : BitVec 44 := 0x20000000000#44
  /-- NTC_ADJ, 32 bits signed, R28, reset 0. -/
  adj : Word := 0
  /-- NTC_INTEG, 32 bits signed, R59, reset 0. -/
  integ : Word := 0
  /-- NTC_PPS_ERR, 32 bits signed, R59, reset 0. -/
  ppsErr : Word := 0
  /-- NTC_STATUS.PPS_STATE, 2 bits, R34, reset OFF. -/
  ppsState : PpsState := .off
  /-- NTC_STATUS.LOCK_COUNT, 0-4, R34, reset 0. -/
  lockCount : Fin 5 := 0
  /-- NTC_PPS_GLITCH, 16 bits, R31, reset 0. -/
  glitch : BitVec 16 := 0
  /-- PPS_STATUS EDGES: accepted edges since power-on, 32 bits, R61, reset 0. -/
  edges : Word := 0
  /-- PPS_CONFIG.ENABLE, 1 bit, R61, reset 0 (DESIGN CHOICE 0, log 6; PPS_STATE resets to OFF). -/
  enable : Bool := false
  /-- PPS_CONFIG.POL, 1 bit, R61, reset 0 (DESIGN CHOICE 0, log 6). -/
  pol : Bool := false
  /-- PPS_CONFIG.SERVO, 1 bit, R61, reset 0 (DESIGN CHOICE 0, log 6; PPS_STATE resets to OFF). -/
  servo : Bool := false
  /-- PPS_CONFIG.OUT_EN, 1 bit, R61, reset 0 (DESIGN CHOICE 0, log 6). -/
  outEn : Bool := false
  /-- PPS_CONFIG.KP, 5 bits, R61, reset 2. -/
  kp : BitVec 5 := 2#5
  /-- PPS_CONFIG.KI, 5 bits, R61, reset 6. -/
  ki : BitVec 5 := 6#5
  /-- PPS_CONFIG.WIDTH, 16 bits, R61, reset 0 (DESIGN CHOICE 0, log 6). -/
  width : BitVec 16 := 0
  /-- NT of the last accepted PPS edge, if any, R31, reset none. -/
  lastEdge : Option DWord := none
  /-- The instant from which R34's 1.5 s without an edge counts, reset none. -/
  lossFrom : Option DWord := none
  /-- Level of the PPS_OUT pin, R36, reset low. -/
  ppsOut : Bool := false
  /-- Elapsed time at the last rise of PPS_OUT, R36, reset 0 (DESIGN CHOICE 0, log 6). -/
  ppsOutRise : DWord := 0
  /-- The accumulated steps of NT modulo 2^-20 s, which make the NT 2^-20 s tick, R41, reset 0 (DESIGN CHOICE 0, log 6). -/
  acc20 : BitVec 12 := 0
  /-- The slew in progress, R39, reset none. -/
  slew : Option Slew := none
  /-- The NT_SET pending on an edge (SET_PENDING), R38, reset none. -/
  setPending : Option SetPending := none
  /-- NTC_STATUS.TEMP_BIN, the tracker's current bin, 3 bits, R42, reset 0. -/
  tempBin : Fin 8 := 0
  /-- The drift tracker's bins, R42-R44. -/
  bins : Vector DriftBin 8 := Vector.replicate 8 {}
  /-- NTC_INTEN, 13 bits, R59, reset 0. -/
  inten : BitVec 13 := 0
  /-- NTC_INTSTAT, 13 bits, R59, reset 0. -/
  intstat : BitVec 13 := 0
  deriving DecidableEq, Repr

/-- The markers and the captures. -/
structure Compares where
  /-- MK0-MK15, R45. -/
  marks : Vector Marker 16 := Vector.replicate 16 {}
  /-- CP0-CP3, R49. -/
  caps : Vector CaptureUnit 4 := Vector.replicate 4 {}
  deriving DecidableEq, Repr

/-- The elapsed-time base of R276 and what counts on it. -/
structure Elapsed where
  /-- The elapsed time since power-on in units of 2^-32 s, R276, reset 0 (DESIGN CHOICE 0, log 6). -/
  now : DWord := 0
  /-- Its sub-unit accumulator, units of 2^-64 of a fraction unit, R276, reset 0 (DESIGN CHOICE 0, log 6). -/
  sub : DWord := 0
  deriving DecidableEq, Repr

/-- One basic timer BTn (R54-R57, R60). -/
structure BasicTimer where
  /-- BTn_CTRL's RW fields, 32 bits, R60, reset 0. -/
  ctrl : Word := 0
  /-- RUNNING, 1 bit, R60, reset 0. -/
  running : Bool := false
  /-- BTn_PERIOD, 32 bits, R60, reset 0xFFFF_FFFF. -/
  period : Word := 0xFFFFFFFF#32
  /-- BTn_COUNT, 32 bits, R60, reset 0. -/
  count : Word := 0
  /-- BTn_PRESC, Q8.8, R60, reset 0x0100. -/
  presc : BitVec 16 := 0x0100#16
  /-- The prescaler's accumulator, R56, reset 0. -/
  acc : Nat := 0
  /-- ENDED, 1 bit, R60, reset 0. -/
  ended : Bool := false
  /-- SHORT, 1 bit, R60, reset 0. -/
  short : Bool := false
  /-- GATE_OPEN, 1 bit, R60, reset 0. -/
  gateOpen : Bool := false
  /-- The prescaled tick at which the timer ends has come, and its end is still to be performed (BT_END), R54, reset false. -/
  endDue : Bool := false
  /-- That tick found COUNT past PERIOD: the end will set SHORT (R55), reset false. -/
  shortDue : Bool := false
  /-- COUNT before each of the last 3 source ticks, the latest first, as a synchronised read may still give it (R55),
  reset empty. -/
  past : List Word := []
  deriving DecidableEq, Repr

/-! ### The Plaza and its Lanes (03_command_plaza) -/

/-- One of Lanes 1 to 5 of a port (R74-R78). -/
structure Lane where
  /-- The word stages, oldest first, at most 64 (R75), reset empty (R80). -/
  stages : List Word := []
  /-- Words whose producer is stalled behind the full Lane, with the tag that each frees on entering (R71, R77), reset empty. -/
  waiting : List (Word × Option (BitVec 6)) := []
  /-- The producer side's count of words to come of its packet (R75), reset 0. -/
  prod : Nat := 0
  /-- The completion counter, 6 bits in R89 and R93 (R76), reset 0. -/
  complete : Nat := 0
  /-- The consumer's cursor, 10 bits in R93 (R75), reset 0. -/
  cursor : Nat := 0
  /-- The packet being taken through an external port, its words so far, for the CRC word that follows it (R68, R87), reset empty. -/
  taken : List Word := []
  /-- The CRC word of a packet whose last word was taken and which is still to be delivered (R87), reset none. -/
  crcDue : Option Word := none
  /-- Words taken by the consumer since the Lane was last emptied by a reset or a stop, by which a response is known to have been
  taken in full (R95), reset 0. -/
  out : Nat := 0
  deriving DecidableEq, Repr

/-- The warm reset that follows an OK response (R95, R323). -/
structure ResetDue where
  /-- The port of the response. -/
  port : PortId
  /-- The response Lane's count of words taken once this response has been taken in full. -/
  upTo : Nat
  /-- When its last word entered the Lane: the reset follows 1 ms later at the latest. -/
  placed : Option DWord
  deriving DecidableEq, Repr

/-- Lane 0, command-in, with the port logic that frames it (R71, R88, R90). -/
structure CmdIn where
  /-- The word stages, oldest first, at most 64 (R75), reset empty. -/
  stages : List Word := []
  /-- Words of the head packet that the Plaza has begun to take, when it cannot be whole in 64 stages (R76, R77), reset empty. -/
  taken : List Word := []
  /-- Words received so far of the packet that is not yet whole (0: the next word is a word 0), reset 0. -/
  got : Nat := 0
  /-- Words still to come of that packet, its CRC word included, reset 0. -/
  left : Nat := 0
  /-- Words still to be discarded of a packet abandoned by overrun, its CRC word included (R88), reset 0. -/
  discard : Nat := 0
  deriving DecidableEq, Repr

/-- One Plaza port (R63). -/
structure Port where
  /-- Lane 0. -/
  cmd : CmdIn := {}
  /-- Lanes 1 to 5 (index LANE - 1), R74. -/
  lanes : Vector Lane 5 := Vector.replicate 5 {}
  /-- Tags outstanding on the port, R71, reset none. -/
  tags : List (BitVec 6) := []
  /-- The event mask, 256 bits, R81, reset 0 here; every defined code on a host port, set by State.reset (R81). -/
  mask : BitVec 256 := 0
  /-- EVENT_MASK.DIAG_EN, 1 bit, R95, reset 0. -/
  diagEn : Bool := false
  /-- The backlog of events, oldest first (R82), reset empty. -/
  backlog : List (List Word) := []
  /-- Backlog places reserved for completing events (R82), reset 0. -/
  reserved : Nat := 0
  /-- Events discarded since the last EVENTS_LOST (R82), reset 0. -/
  lostCount : Nat := 0
  /-- Code of the first of them, 12 bits (R82), reset 0. -/
  lostFirst : BitVec 12 := 0
  /-- The next handle, 16 bits (R72), reset 1. -/
  nextHandle : BitVec 16 := 1#16
  /-- Handles of the port's unfinished operations (R72), reset none. -/
  handles : List (BitVec 16) := []
  /-- Sticky CRC_ERR of the status word (R86), reset 0. -/
  crcErr : Bool := false
  /-- Sticky OVERRUN of the status word (R86), reset 0. -/
  overrun : Bool := false
  /-- Sticky PROTO_ERR of the status word (R86), reset 0. -/
  protoErr : Bool := false
  /-- STATS_READ: RX frames dropped by the consumer (R78, R247), 32 bits, reset 0. -/
  rxDropped : Word := 0
  /-- STATS_READ: abandoned command packets (R90, R247), 32 bits, reset 0. -/
  abandoned : Word := 0
  /-- STATS_READ: packets refused BAD_CRC (R247), 32 bits, reset 0. -/
  badCrc : Word := 0
  /-- STATS_READ: line errors (R92, R247), 32 bits, reset 0. -/
  lineErr : Word := 0
  /-- The words of the last transaction on the port, status word first (R86): the level of HOST_MISO and HOST_TXD, reset empty. -/
  out : List Word := []
  deriving DecidableEq, Repr

/-- What the external ports and the mailbox hold beside the Lanes. -/
structure PlazaState where
  /-- The SPI, UART and mailbox ports (R63). -/
  ports : Vector Port 3 := Vector.replicate 3 {}
  /-- The UART's measured bit time in ns while the port is aligned (R92), kept in AON, reset none. -/
  uartBitNs : Option Nat := none
  /-- The UART has taken a break and expects 0x55 (R92), reset false. -/
  uartRateDue : Bool := false
  /-- HOST_RDY's own state, VIO apart (R91), reset low. -/
  rdy : Bool := false
  /-- MBX_INTEN, 13 bits, R93, reset 0. -/
  mbxInten : BitVec 13 := 0
  /-- MBX_INTSTAT, 13 bits, R93, reset 0. -/
  mbxIntstat : BitVec 13 := 0
  /-- MBX_ERR.OVERRUN, 1 bit, R93, reset 0. -/
  mbxOverrun : Bool := false
  /-- A store to MBX_CMD holding the bus on a full command-in (R94), reset none. -/
  mbxHold : Option Word := none
  /-- The port whose packet the Plaza takes first when several command-in Lanes hold whole packets (R71), reset 0: the host SPI
  port (DESIGN CHOICE, log 68). -/
  turn : Fin 3 := 0
  /-- Events pending in AON since stop: code and the body of the latest, by increasing code (R83), reset none. -/
  pendingEvents : List (BitVec 12 × List Word) := []
  /-- SOFT_RESET or LIFECYCLE_ADVANCE was answered on a port at an elapsed time: the warm reset follows (R95, R323), reset
  none. -/
  resetDue : Option ResetDue := none
  deriving DecidableEq, Repr

/-! ### Radio front end and calibration (04_radio_front_end) -/

/-- The radio states of R109, in the order of their codes 0 to 7. -/
inductive RadioMode where
  | off | idle | cal | settle | rx | turnTx | tx | turnRx
  deriving DecidableEq, Repr

/-- RF_CONFIG's fields (R115). -/
structure RfConfig where
  /-- REF, 1 bit, reset from OTP (R115): 0 with OTP unprogrammed (log 3). -/
  ref : Bool := false
  /-- EXT_PA, 1 bit, R115, reset 0 (DESIGN CHOICE 0, log 6). -/
  extPa : Bool := false
  /-- EXT_LNA, 1 bit, R115, reset 0 (DESIGN CHOICE 0, log 6). -/
  extLna : Bool := false
  /-- LNA_BYPASS, 1 bit, R115, reset 0 (DESIGN CHOICE 0, log 6). -/
  lnaBypass : Bool := false
  /-- FREQ_CORR, 2 bits, R115, reset 0. -/
  freqCorr : BitVec 2 := 0
  /-- HFXO_TRIM, 8 bits, R115, reset 128. -/
  hfxoTrim : BitVec 8 := 128#8
  /-- FREQ_PPB, 32 bits signed, R115, reset 0 (DESIGN CHOICE 0, log 6). -/
  freqPpb : Word := 0
  /-- EXT_PA_GAIN, 8 bits, R115, reset 0 (DESIGN CHOICE 0, log 6). -/
  extPaGain : BitVec 8 := 0
  /-- TX_LOSS, 8 bits, R115, reset 0 (DESIGN CHOICE 0, log 6). -/
  txLoss : BitVec 8 := 0
  /-- EXT_LNA_GAIN, 8 bits, R115, reset 0 (DESIGN CHOICE 0, log 6). -/
  extLnaGain : BitVec 8 := 0
  /-- RX_LOSS, 8 bits, R115, reset 0 (DESIGN CHOICE 0, log 6). -/
  rxLoss : BitVec 8 := 0
  /-- LATE_TOL, 16 bits, R115, reset 20. -/
  lateTol : BitVec 16 := 20#16
  /-- TEMP_DELTA, 8 bits, R115, reset 5. -/
  tempDelta : BitVec 8 := 5#8
  /-- CAL_PERIOD, 8 bits, R115, reset 60. -/
  calPeriod : BitVec 8 := 60#8
  deriving DecidableEq, Repr

/-- One step of a front-end sequence (R118). -/
structure FemStep where
  mask : BitVec 6 := 0
  level : BitVec 6 := 0
  ramp : Bool := false
  delay : BitVec 8 := 0
  deriving DecidableEq, Repr

/-- The four sequences, the static levels and the pins (R103, R104, R118). -/
structure Fem where
  /-- RX_ON, R118, reset one step with MASK 0 and DELAY 0. -/
  rxOn : List FemStep := [{}]
  /-- RX_OFF, R118, reset one step with MASK 0 and DELAY 0. -/
  rxOff : List FemStep := [{}]
  /-- TX_ON, R118, reset one step with MASK 0, DELAY 0 and RAMP. -/
  txOn : List FemStep := [{ ramp := true }]
  /-- TX_OFF, R118, reset one step with MASK 0 and DELAY 0. -/
  txOff : List FemStep := [{}]
  /-- IDLE_LEVEL, 6 bits, R118, reset 0 (R103: the pins are low until STATIC is loaded). -/
  idleLevel : BitVec 6 := 0
  /-- OFF_LEVEL, 6 bits, R118, reset 0 (R103). -/
  offLevel : BitVec 6 := 0
  /-- DRIVE, 6 bits, R118, reset 0 (R103). -/
  drive : BitVec 6 := 0
  /-- The pins FEM_CTL5-FEM_CTL0, R103, reset low. -/
  pins : BitVec 6 := 0
  deriving DecidableEq, Repr

/-- TXSHAPE_SET's fields (R119). -/
structure TxShape where
  /-- RAMP_US, 5 bits, R119, reset 8. -/
  rampUs : BitVec 5 := 8#5
  /-- OFDM_WIN, 4 bits, R119, reset 4. -/
  ofdmWin : BitVec 4 := 4#4
  /-- CHIRP_TAPER, 5 bits, R119, reset 4. -/
  chirpTaper : BitVec 5 := 4#5
  /-- The 48 FIR taps, 16 bits each, R119, reset tap 23 = 0x7FFF and the others 0. -/
  fir : Vector (BitVec 16) 48 := (Vector.replicate 48 0#16).set 23 0x7FFF#16
  deriving DecidableEq, Repr

/-- The four calibrations of R110, in SELECT bit order. -/
inductive CalKind where
  | filter | osc | offset | image
  deriving DecidableEq, Repr

/-- The stored results of one calibration (R117): its words as CAL_READ returns them from word 5 on, and when it ran. -/
structure CalResult where
  /-- The block's words, R117, reset none. -/
  words : List Word := []
  /-- TEMP, 8 bits signed, R117, reset 0 (DESIGN CHOICE 0, log 6). -/
  temp : BitVec 8 := 0
  /-- NT of the last run, 64 bits, R117, reset 0 (DESIGN CHOICE 0, log 6). -/
  nt : DWord := 0
  /-- This calibration holds results (a bit of VALID), R117, reset 0. -/
  valid : Bool := false
  deriving DecidableEq, Repr

/-- A CAL_RUN that is not complete (R116). -/
structure CalRunOp where
  port : PortId
  handle : BitVec 16
  select : BitVec 4
  /-- Selected calibrations completed in full so far. -/
  done : BitVec 4 := 0
  /-- Elapsed time at acceptance. -/
  since : DWord
  /-- WAIT_MAX, ms. -/
  waitMax : BitVec 16
  deriving DecidableEq, Repr

/-- Calibration: results, what is due, what runs (R110-R112). -/
structure CalState where
  /-- Results of FILTER, OSC, OFFSET, IMAGE (R117). -/
  results : Vector CalResult 4 := Vector.replicate 4 {}
  /-- The RF sensor's temperature at the last OSC calibration, in 0.1 °C, R111, R112, reset 0. -/
  oscTemp : Int := 0
  /-- Calibrations due, in SELECT bit order (R112), reset 0. -/
  due : BitVec 4 := 0
  /-- Those of them made due by the periodic set, R476's deferral bound counting from `dueSince`; reset 0. -/
  periodic : BitVec 4 := 0
  /-- Elapsed time at which the periodic set became due (R112), reset 0. -/
  dueSince : DWord := 0
  /-- Steps done of the calibrations in progress (R110), reset 0. -/
  progress : Vector Nat 4 := Vector.replicate 4 0
  /-- Results of the steps done of the calibrations in progress (R110), reset empty. -/
  partials : Vector (List Word) 4 := Vector.replicate 4 []
  /-- The step that runs (R110), reset none. -/
  running : Option (CalKind × Nat) := none
  /-- The radio state from which CAL was entered (R109), reset IDLE. -/
  enteredFrom : RadioMode := .idle
  /-- A full calibration of R111 is under way, reset false. -/
  full : Bool := false
  /-- A full calibration must run when RFFE comes on (R111: after any reset and after RET_LOST), reset true. -/
  mustFull : Bool := true
  /-- REF and the region table are unchanged since the results (R111), reset false. -/
  unchanged : Bool := false
  /-- Time of run with RFFE on since the last periodic set became due, in 2^-32 s (R112), reset 0. -/
  periodCount : DWord := 0
  /-- The unfinished CAL_RUN (R116), reset none. -/
  calRun : Option CalRunOp := none
  deriving DecidableEq, Repr

/-- One sub-band of the region table (R120). -/
structure SubBand where
  lowHz : Nat
  highHz : Nat
  /-- MAXPWR, signed, 0.5 dBm units. -/
  maxPwr : Int
  waveforms : BitVec 4
  guardKhz : Nat
  deriving DecidableEq, Repr

/-- A region table (R120). -/
structure Region where
  id : BitVec 16
  bands : List SubBand
  /-- CENTRE_HZ and WIDTH_HZ of each notch. -/
  notches : List (Nat × Nat)
  deriving DecidableEq, Repr

/-- What a settling is for (R109, R113). -/
inductive SettleFor where
  | rx
  | ack
  | tx (fid : Nat)
  | back   -- the return of a transmission to its receptions (R106)
  deriving DecidableEq, Repr

/-- A value carried on a used subcarrier: position u of W1 (R154) and X = (i + jq) / sqrt norm (R158, R159, R171, R172). -/
structure Tone where
  u : Nat
  i : Int
  q : Int
  norm : Nat
  deriving DecidableEq, Repr

/-- One symbol that RFIO sends: a chirp sweep with its value (R126, R127), or an OFDM symbol by its subcarriers (R155). -/
inductive AirSym where
  | up (v : Nat)
  | down
  | shortSync (pts : List Tone)
  | longSync (pts : List Tone)
  | ofdm (cp8 : Bool) (pts : List Tone)
  deriving DecidableEq, Repr

/-- The radio front end (R98-R122). -/
structure RadioState where
  /-- The radio state, R109, reset OFF. -/
  mode : RadioMode := .off
  /-- RF_CONFIG, R115. -/
  rf : RfConfig := {}
  /-- RF_CONFIG's fields in effect since the last settling (R115), reset values as RF_CONFIG's. -/
  rfNow : RfConfig := {}
  /-- REF in effect since the last HFXO start (R115), reset 0 with OTP unprogrammed (log 3). -/
  refInUse : Bool := false
  /-- HFXO_TRIM in effect since the last HFXO start (R115), reset 128. -/
  trimInUse : BitVec 8 := 128#8
  /-- The front-end sequencer, R103. -/
  fem : Fem := {}
  /-- TXSHAPE, R119. -/
  shape : TxShape := {}
  /-- TXSHAPE as loaded for the next transmission (R119), reset none. -/
  shapeNext : Option TxShape := none
  /-- Calibration. -/
  cal : CalState := {}
  /-- The region table in force, R120, R122, reset none. -/
  region : Option Region := none
  /-- The local oscillator's programmed frequency in hertz (R98, R99), reset 0: not settled (DESIGN CHOICE 0, log 6). -/
  lo : Nat := 0
  /-- The frequency asked of the settling in progress (R99), reset 0. -/
  loAsked : Nat := 0
  /-- The frequencies, uncorrected, of `lo` and `loAsked` (R99), reset 0. -/
  loNominal : Nat := 0
  askedHz : Nat := 0
  /-- A reception has begun or moved in a state that cannot settle: SETTLE follows (R109), reset false. -/
  moved : Bool := false
  /-- What the settling in progress is for (R109), reset none. -/
  settleFor : Option SettleFor := none
  /-- A lock failure has already been met in this settling (R114), reset false. -/
  lockFailed : Bool := false
  /-- The symbols of the transmission on the air, in order (R129, R157), reset none. -/
  air : List AirSym := []
  /-- Chips (or, in OFDM mode, samples) per second of that transmission, fixed at its start instant (R128, R153), reset 0. -/
  airRate : Rat := 0
  /-- Receive samples are blanked (R108), reset false. -/
  blanked : Bool := false
  /-- The turnaround in progress is the speculative one of R105, reset false. -/
  speculative : Bool := false
  /-- Where TURN_RX leads: true RX, false IDLE (R109), reset false. -/
  backToRx : Bool := false
  /-- The Alley path's gain step: 0 to 5 G0-G5, 6 the bypass step (R102), reset 5 (DESIGN CHOICE, log 6). -/
  alleyGain : Nat := 5
  deriving DecidableEq, Repr

/-! ### Profiles, loading maps (05_chirp_phy, 06_ofdm_phy) -/

/-- One of the 16 PHY profiles (R123, R188). Both modes' fields are held; `ofdm` selects. -/
structure Profile where
  /-- MODE, 1 bit, R188, reset chirp. -/
  ofdm : Bool := false
  /-- CARRIER_HZ, 32 bits, R188, reset 869,525,000. -/
  carrier : Nat := 869525000
  /-- K, 6-14, R188, reset 9. -/
  k : Nat := 9
  /-- BW, 2 bits (0 100 kHz, 1 200, 2 400, 3 800), R188, reset 1. -/
  bw : BitVec 2 := 1#2
  /-- CODE, 2 bits (0 C1 to 3 C4), R188, reset 1. -/
  code : BitVec 2 := 1#2
  /-- P, 6-64, R188, reset 10. -/
  p : Nat := 10
  /-- NETID, 12 bits, R124, R188, reset 0x041. -/
  netid : BitVec 12 := 0x041#12
  /-- WIDTH, 2 bits (1 W1, 2 W2, 3 W3), R188, reset 1 (DESIGN CHOICE, log 6: none given). -/
  width : BitVec 2 := 1#2
  /-- CP, 1 bit, R188, reset 0. -/
  cp : Bool := false
  /-- RS, 2 bits, R188, reset 1. -/
  rs : BitVec 2 := 1#2
  /-- DEFAULT_MAP, 1 bit, R188, reset 1. -/
  defaultMap : Bool := true
  /-- BCAST_MAP, 1 bit, R188, reset 0. -/
  bcastMap : Bool := false
  /-- ADAPT, 1 bit, R188, reset 1. -/
  adapt : Bool := true
  /-- HYST, 4 bits, R188, reset 4. -/
  hyst : BitVec 4 := 4#4
  /-- FALLBACK, 4 bits, R188, reset 2. -/
  fallback : BitVec 4 := 2#4
  /-- MARGIN, 8 bits, R188, reset 12. -/
  margin : BitVec 8 := 12#8
  deriving DecidableEq, Repr

/-- The profiles, the map library and the scrambler's SEED counter. -/
structure PhyState where
  /-- Profiles 0 to 15, R188. -/
  profiles : Vector Profile 16 := Vector.replicate 16 {}
  /-- Library maps present among 2-1,023, by rising index, 288 bits each (R174, R189), reset none (log 3: no image). -/
  maps : List (Nat × BitVec 288) := []
  /-- LIBRARY_ID, 16 bits, R174, reset 0. -/
  libraryId : BitVec 16 := 0
  /-- SEED counter in AON, 7 bits, 1-127, R169, reset 1. -/
  seed : BitVec 7 := 1#7
  deriving DecidableEq, Repr

/-! ### Reception (07_boulevard_reception) -/

/-- A plan entry (R190, R216). -/
inductive PlanEntry where
  | chirp (bw : BitVec 2) (kmask : BitVec 9) (anyNet : Bool) (netid : BitVec 12) (offset : Int)
  | ofdm (width : BitVec 2) (grid : Nat)
  deriving DecidableEq, Repr

/-- The Boulevard's window plan (R190, R216). -/
structure Plan where
  entries : List PlanEntry
  /-- POLICY: true capture (R202). -/
  capture : Bool
  cancelMin : Nat
  cancelMax : Nat
  captureDb : Nat
  centre : Nat
  detThresh : Nat
  gain : Nat
  gainFixed : Bool
  deriving DecidableEq, Repr

/-- Context states (R197), in the order of their codes. -/
inductive CtxState where
  | free | sync | header | committed | offline
  deriving DecidableEq, Repr

/-- A frame's header as decided (R132, R161). -/
structure RxHeader where
  /-- LENGTH, PSDU bytes. -/
  length : Nat := 0
  /-- Chirp: the payload code; OFDM: the RS option. -/
  code : BitVec 2 := 0
  /-- Chirp: the header ACK flag (R132). -/
  ackFlag : Bool := false
  /-- OFDM: WIDTH. -/
  width : BitVec 2 := 0
  /-- OFDM: CP. -/
  cp : Bool := false
  /-- OFDM: MAP. -/
  map : BitVec 10 := 0
  /-- OFDM: SEED. -/
  seed : BitVec 7 := 0
  /-- The named map's codes, fixed at the header (R189). -/
  mapBits : BitVec 288 := 0
  deriving DecidableEq, Repr

/-- What a reception's descriptor reports beside its header (R152, R187, R213): signed fields as their words' bits; `snrs` are the
SNR_k of the data subcarriers in 0.25 dB units (R177). -/
structure Meas where
  snr : BitVec 16
  cfo : Word
  drift : Word := 0
  sfo : Word
  corrected : Nat
  uncorrectable : Nat := 0
  worstSnr : BitVec 16 := 0
  worstK : BitVec 8 := 0
  snrs : List Int := []
  deriving DecidableEq, Repr

/-- One reception context (R197). -/
structure Context where
  /-- The state, R197, reset FREE. -/
  st : CtxState := .free
  /-- Plan entry (0 on the Alley path), R213. -/
  entry : Fin 16 := 0
  /-- OFDM reception. -/
  ofdm : Bool := false
  /-- Sweep size K (0 for OFDM), R195. -/
  k : Nat := 0
  /-- Detected bin and chip timing, R195. -/
  bin : Nat := 0
  chip : Int := 0
  /-- The detection's metric M, and the sum and number of those of the symbols decided since, 0.25 dB units (R195, R198). -/
  detMetric : Int := 0
  metricSum : Int := 0
  metricN : Nat := 0
  /-- The preamble's peak position in bins, from −N/2 (R144). -/
  preamble : Rat := 0
  /-- The gain step at the end of the preamble (R102, R514). -/
  gain : Nat := 5
  /-- Powers of the last at most 8 decided symbols, newest first, 0.25 dB units (R200). -/
  powers : List Int := []
  /-- P_new of the detection, 0.25 dB units (R195). -/
  pNew : Int := 0
  /-- The pair and whether this is its weaker context W (R201, R204). -/
  pair : Option (Fin 8 × Bool) := none
  /-- Was W or S of a pair (R208). -/
  wasWeak : Bool := false
  wasStrong : Bool := false
  /-- Symbols decided since detection (R197). -/
  symbols : Nat := 0
  /-- The sync symbols have been decided and matched (R130). -/
  synced : Bool := false
  /-- NETID found (R213). -/
  netid : BitVec 12 := 0
  /-- Timestamp: NT of the timing mark or of the end of the long training (R131, R160). -/
  stamp : DWord := 0
  /-- The header, once decided. -/
  hdr : RxHeader := {}
  /-- Symbols decided of the present block (R141, R212). -/
  blockPos : Nat := 0
  /-- Erasures in the present block (R212). -/
  blockErased : Nat := 0
  /-- Erased symbols of the frame (R213). -/
  erased : Nat := 0
  /-- Pilots lost (R146). -/
  pilotsLost : Nat := 0
  /-- The bin excluded under R203. -/
  excluded : Option Nat := none
  /-- A strong bin seen on the last symbol (R203). -/
  strongBin : Option Nat := none
  /-- Frame Store bytes reserved at the header (R213). -/
  reserved : Nat := 0
  /-- The present symbol overlaps a blank or a gain change (R108, R194). -/
  touched : Bool := false
  /-- W reads the pair's delay line: its symbols are decided 2 × Ts late (R204). -/
  late : Bool := false
  /-- Elapsed time at which the symbol to be decided next began at RFIO (R204). -/
  symAt : DWord := 0
  /-- On the delay line: blanks and gain changes by elapsed time, from and, once over, to (R147, R194, R205). -/
  hits : List (DWord × Option DWord) := []
  /-- The carrier and timing loops (R144, R180). -/
  track : Track := {}
  /-- The carrier correction at the timing mark, in bins (R152). -/
  markCarrier : Rat := 0
  /-- Columns of the present block as decided, none for an erasure (R141, R142, R147). -/
  cols : List (Option Nat) := []
  /-- Bits of the header, or of the payload before descrambling, decided so far (R134, R137, R170). -/
  bits : List Bool := []
  /-- Bits corrected so far (R152). -/
  corrected : Nat := 0
  /-- OFDM: the transforms of the two long symbols (R177, R180). -/
  long1 : List (Int × Int) := []
  long2 : List (Int × Int) := []
  /-- OFDM: each header bit's copies combined (R162). -/
  soft : List Rat := []
  /-- OFDM: samples by which the FFT window has moved (R180). -/
  window : Int := 0
  /-- OFDM: the sum of squared pilot errors over the payload and their number (R177). -/
  pilotErr : Rat := 0
  pilotN : Nat := 0
  /-- Frame control and destination, once known to the pipeline, show that no ack is due (R233). -/
  noAck : Bool := false
  /-- NT of the detection (R195, R260). -/
  since : DWord := 0
  /-- The waveform being received: the Alley path's profile, fixed at detection (R125), or what the plan entry gives. -/
  profile : Profile := {}
  deriving DecidableEq, Repr

/-- A reception in force on a path (R217). -/
structure Reception where
  /-- The port that issued RX_START (R79). -/
  port : PortId
  profile : Fin 16
  anyNet : Bool
  monitor : Bool
  /-- Opened by link firmware for a rendezvous, a beacon window or a scan (R258-R261). -/
  byLink : Bool := false
  /-- RX_STOP with DRAIN waits for committed contexts: its port, tag, ABANDONED and DRAINED (R218). -/
  draining : Option (PortId × BitVec 6 × Nat × Nat) := none
  deriving DecidableEq, Repr

/-- A frame in the receive decision pipeline (R234): its descriptor and its decoded bytes. -/
structure PipeFrame where
  /-- NT of the ack instant that R228 would give it. -/
  ackAt : DWord
  /-- NT of its last decision t_d (R235). -/
  decidedAt : DWord
  boulevard : Bool
  entry : Fin 16
  context : Nat
  ofdm : Bool
  pairWeak : Bool
  pairStrong : Bool
  stamp : DWord
  rssi : BitVec 16
  /-- Chirp fields for the ack (R228): K, bandwidth code and NETID; the carrier in hertz. -/
  k : Nat
  bw : BitVec 2
  netid : BitVec 12
  carrier : Nat
  hdr : RxHeader
  erased : Nat
  pilotsLost : Nat
  meas : Meas
  psdu : List Byte
  crcOk : Bool
  /-- Frame Store bytes reserved (R213). -/
  reserved : Nat
  port : PortId
  monitor : Bool
  /-- The profile of the Alley reception that heard it, with its content at detection (R125, R177); none on the Boulevard. -/
  listened : Option (Fin 16 × Profile) := none
  deriving DecidableEq, Repr

/-- A decided frame in the Frame Store, waiting for or being moved into its RX Lane (R79). -/
structure StoredFrame where
  port : PortId
  high : Bool
  /-- The packet's words (R213). -/
  words : List Word
  /-- Accepted for delivery (R10), not a CRC_BAD monitor delivery. -/
  delivered : Bool
  /-- Bytes of the Frame Store it holds. -/
  bytes : Nat
  /-- Its words have been handed to the Lane. -/
  moved : Bool := false
  deriving DecidableEq, Repr

/-- Reception: paths, contexts, pairs, plan, gain, counters, Frame Store. -/
structure RxState where
  /-- The reception in force on the Alley path, R217, reset none. -/
  alley : Option Reception := none
  /-- The reception in force on the Boulevard, R217, reset none. -/
  blvd : Option Reception := none
  /-- The Alley path's context, R210, reset FREE. -/
  alleyCtx : Context := {}
  /-- The Boulevard's contexts (those the variant has), R197, reset FREE. -/
  ctxs : Vector Context 64 := Vector.replicate 64 {}
  /-- The plan, R216, reset none. -/
  plan : Option Plan := none
  /-- The Boulevard's gain step: 0-5 G0-G5, 6 bypass (R194), reset 5 (DESIGN CHOICE, log 6). -/
  gain : Nat := 5
  /-- Each pair's delay line: the symbols of S that overlap what it holds, newest first (R204), reset none. -/
  lines : Vector (List Synth) 8 := Vector.replicate 8 []
  /-- Frames passed to the decision pipeline and not decided yet, R236, reset none. -/
  pipe : List PipeFrame := []
  /-- Decided frames in the Frame Store, oldest first, R79, reset none. -/
  store : List StoredFrame := []
  /-- Counters of the Alley path: R215 in table order, then STORE_FULL and MONITOR_DROP (R247), reset 0. -/
  alleyCnt : Vector Word 19 := Vector.replicate 19 0#32
  /-- Counters of the Boulevard, likewise, reset 0. -/
  blvdCnt : Vector Word 19 := Vector.replicate 19 0#32
  /-- The decision pipeline's counters, group 2 of R247, reset 0. -/
  pipeCnt : Vector Word 20 := Vector.replicate 20 0#32
  /-- Radio and maps, group 4 of R247: synthesiser unlocks, map-update frames ignored, reset 0. -/
  radioCnt : Vector Word 2 := Vector.replicate 2 0#32
  deriving DecidableEq, Repr

/-! ### Links, transmit frames, acks (08_link_frames) -/

/-- A token bucket pair of a meter, in 2^-16 byte units (R277). -/
structure Buckets where
  tc : Nat := 0
  tp : Nat := 0
  /-- Elapsed time of the last refill. -/
  last : DWord := 0
  deriving DecidableEq, Repr

/-- One link-table entry (R225, R237, R244, R246, R259, R261). -/
structure LinkEntry where
  /-- Short address, 24 bits (0xFFFFFE none, 0xFFFFFF the group link), R244. -/
  short : BitVec 24
  /-- EUI-64, R244. -/
  eui : DWord
  /-- KEYLEN: true AES-256, R244. -/
  key256 : Bool := false
  /-- The link key, most significant byte first; an AES-128 key in the high half, R244. -/
  key : BitVec 256 := 0
  /-- MAP, none when unset (0x3FF), R178. -/
  map : Option (BitVec 10) := none
  /-- METER, 8 bits, R244. -/
  meter : BitVec 8 := 0
  /-- ACK_POWER, 8 bits signed, R244. -/
  ackPower : BitVec 8 := 0
  /-- OUT_CTR, R225. -/
  outCtr : Word := 0
  /-- The mirrored ceiling of OUT_CTR, R19. -/
  ceiling : Word := 0
  /-- Counter values reserved, R227. -/
  reserved : Nat := 0
  /-- IN_CTR, R225. -/
  inCtr : Word := 0
  /-- IN_BCAST_CTR, R225. -/
  inBcast : Word := 0
  /-- The first 4 MIC bytes held for IN_CTR, R237. -/
  mic : Option Word := none
  /-- The first 4 MIC bytes held for IN_BCAST_CTR, R237. -/
  micBcast : Option Word := none
  /-- ACK_HELD, R237. -/
  ackHeld : Bool := false
  /-- ACK_MARGIN, R237. -/
  ackMargin : BitVec 8 := 0
  /-- ACK_PENDING, R237. -/
  ackPending : Bool := false
  /-- LAST_HEARD, R246. -/
  lastHeard : DWord := 0
  /-- LAST_RSSI, R246. -/
  lastRssi : BitVec 16 := 0
  /-- LAST_SNR, R246. -/
  lastSnr : BitVec 16 := 0
  /-- LAST_MARGIN, R246. -/
  lastMargin : BitVec 8 := 0
  /-- Marked stale, R261. -/
  stale : Bool := false
  /-- Consecutive NO_ACK outcomes, R178. -/
  noAcks : Nat := 0
  /-- Parent short address, R259. -/
  parent : BitVec 24 := 0
  /-- Inbound meter buckets, R280. -/
  buckets : Buckets := {}
  /-- R177: the best map found on consecutive frames and their number. -/
  bestMap : Option (BitVec 10 × Nat) := none
  /-- R177: the map proposed and the frames since that did not name it. -/
  proposed : Option (BitVec 10 × Nat) := none
  /-- Changed and not yet written back to the directory, R266. -/
  dirty : Bool := false
  /-- The clock policy's reference bit, R266. -/
  ref : Bool := true
  /-- Set aside for removal by LINK_DEL with FLUSH: port and tag of its response, R245. -/
  deleting : Option (PortId × BitVec 6) := none
  /-- The OFDM profile used on the link: that of the last OFDM frame formed for it, R178. -/
  profile : Option (Fin 16) := none
  deriving DecidableEq, Repr

/-- A link entry as the link save area holds it (R18, R19): its key is wrapped under the storage key (R321), the rest as it stands. -/
structure SavedLink where
  /-- The entry, its key field 0. -/
  entry : LinkEntry
  wrapped : List Byte
  deriving DecidableEq, Repr

/-- What queued a frame. -/
inductive FrameKind where
  | data | beacon | join | mapUpdate | linkControl | attestReport
  deriving DecidableEq, Repr

/-- Where a pending frame stands between submission and its outcome (R226, R300). -/
inductive FrameStage where
  | queued      -- in its queue, attempt to be chosen
  | prepared    -- chosen, radio being prepared
  | onAir       -- PA ramp started
  | awaitAck    -- sent, ack window open
  | backOff     -- between attempts, not yet eligible
  deriving DecidableEq, Repr

/-- A frame that has been accepted and has no outcome yet (R242, R306). -/
structure TxFrame where
  /-- The model's own number of the frame. -/
  fid : Nat
  kind : FrameKind
  /-- Issuing port and handle; data frames only (R72). -/
  port : PortId := .spi
  handle : BitVec 16 := 0
  queue : Fin 32
  /-- The profile it names (R188) and its content, fixed when chosen (R125). -/
  profile : Fin 16
  prof : Profile := {}
  ackReq : Bool := false
  /-- START, absolute NT, if TIMED. -/
  start : Option DWord := none
  dstLong : Bool := false
  /-- Destination: short address in the low 24 bits, or EUI-64. -/
  dst : DWord := 0
  srcLong : Bool := false
  enc : Bool := false
  miclen : BitVec 2 := 0
  more : Bool := false
  retries : Nat := 0
  retryMs : Nat := 1
  /-- Late tolerance in µs (R113). -/
  lateTol : Nat := 0
  /-- POWER, signed, 0.5 dBm units. -/
  power : Int := 0
  /-- Elapsed time at which the TTL ends (R303). -/
  ttlEnd : Option DWord := none
  payload : List Byte := []
  stage : FrameStage := .queued
  /-- First chosen and not ended: in flight (R226). -/
  inFlight : Bool := false
  /-- The link entry whose counter it uses (short address and EUI), if secured. -/
  link : Option (BitVec 24 × DWord) := none
  /-- Counter assigned at first choice (R226). -/
  counter : Option Word := none
  /-- The PSDU formed at first choice (R226). -/
  psdu : List Byte := []
  /-- Map and SEED of an OFDM frame (R169, R176). -/
  map : BitVec 10 := 0
  seed : BitVec 7 := 0
  mapBits : BitVec 288 := 0
  /-- COLOUR fixed at first choice: true yellow (R279). -/
  yellow : Bool := false
  coloured : Bool := false
  /-- Attempts made (R241). -/
  attempts : Nat := 0
  /-- µs on the air over all attempts (R241). -/
  airtime : Nat := 0
  /-- Timestamp of the last attempt (R241). -/
  stamp : DWord := 0
  /-- NT of the projected or actual start instant and of the end instant of the present attempt. -/
  startAt : DWord := 0
  endAt : DWord := 0
  /-- Aerial power used, signed (R101). -/
  powerUsed : Int := 0
  /-- Internal PA setting of the attempt in 0.5 dB units (R101). -/
  paSetting : Int := 0
  /-- Sub-band charged and the airtime charged of the present attempt (R293), with its bucket number. -/
  charged : Option (Fin 16 × Nat × Nat) := none
  /-- Elapsed time from which a failed attempt is eligible again (R231). -/
  eligibleAt : DWord := 0
  /-- Ack results (R241). -/
  ackPending : Bool := false
  ackMargin : BitVec 8 := 0
  ackRssi : BitVec 16 := 0
  /-- End after the present attempt: FLUSHED unless ACKED (R245). -/
  flushing : Bool := false
  /-- A map proposal not yet sent: the map of the frame that it answers (R179). -/
  measured : Option Nat := none
  /-- Counted under R288 as stranded. -/
  stranded : Bool := false
  /-- Held under R294. -/
  held : Bool := false
  deriving DecidableEq, Repr

/-- What the pipeline has decided of a due ack (R233, R293): why it is not sent, or the sub-band, airtime and bucket charged. -/
inductive AckVerdict where
  | late | suppressed | collided
  | send (band : Fin 16) (airtime bucket : Nat)
  deriving DecidableEq, Repr

/-- A due ack that the pipeline has decided and whose instant has not come (R228, R233). -/
structure AckDue where
  /-- NT of the ack instant and of the ack's end. -/
  at_ : DWord
  ends : DWord
  /-- The ack's waveform (R228). -/
  prof : Profile
  psdu : List Byte
  /-- Signed aerial power asked, 0.5 dBm units (R228). -/
  power : Int
  /-- Whether it is sent. -/
  verdict : AckVerdict
  /-- What its end does to a rendezvous (R258): frames to the child are then eligible until an instant; none: the child's own
  listening closes. -/
  child : Option (BitVec 24 × Option DWord) := none
  /-- The SEED that an OFDM ack took at its decision (R169). -/
  seed : BitVec 7 := 0
  /-- The sender's link entry, which the ack holds in the link table (R266). -/
  link : BitVec 24 × DWord := (0, 0)
  deriving DecidableEq, Repr

/-- The link table and the frames. -/
structure LinkState where
  /-- Own short address, 24 bits (R222), reset 0xFFFFFE, a device that has none; kept across a warm reset on KR9620 and KR9640 (R19). -/
  own : BitVec 24 := 0xFFFFFE#24
  /-- The open-frame counter, 32 bits, R224, reset 0 (DESIGN CHOICE 0, log 6). -/
  openCtr : Word := 0
  /-- The link table, R225, reset empty (R19). -/
  links : List LinkEntry := []
  /-- KR9620, KR9640: the entries in the link save area while the link table has no power, R18, R422, reset none. -/
  saved : List SavedLink := []
  /-- The mirror in the save area no longer matches its seal, R19, reset false. -/
  sealBroken : Bool := false
  /-- The clock hand of R266, reset 0. -/
  hand : Nat := 0
  /-- Frames accepted and without an outcome, oldest first, R306, reset none. -/
  frames : List TxFrame := []
  /-- The model's number for the next frame, reset 0. -/
  nextFid : Nat := 0
  /-- Acks decided and due, R233, reset none. -/
  acks : List AckDue := []
  /-- An ack is on the air, R109, reset none. -/
  ackOnAir : Option AckDue := none
  deriving DecidableEq, Repr

/-! ### Joining, beacons, rendezvous, directory (09_rendezvous_directory) -/

/-- A place of the join table (R250). -/
structure JoinPlace where
  eui : DWord
  /-- The request's 136 payload bytes (R249). -/
  request : List Byte
  rssi : BitVec 16
  /-- Elapsed time of the request. -/
  since : DWord
  deriving DecidableEq, Repr

/-- BEACON_CONFIG (R272). -/
structure BeaconConfig where
  send : Bool := false
  secured : Bool := false
  joinOpen : Bool := false
  joinEn : Bool := false
  profile : Fin 16 := 0
  queue : Fin 32 := 0
  joinSignSlot : Fin 32 := 0
  scanProfile : Fin 16 := 0
  slewRate : Nat := 1
  /-- INTERVAL, ms. -/
  interval : Nat := 1000
  bOffset : Word := 0
  timeSource : BitVec 24 := 0xFFFFFF#24
  jumpMin : Nat := 1
  scanMs : Nat := 100
  scanPeriod : Nat := 1
  trustRoot : DWord := 0
  /-- X then Y, none while JOIN_EN = 0. -/
  trustKey : Option (List Byte) := none
  deriving DecidableEq, Repr

/-- A beacon source that has been heard (R254, R255). -/
structure BeaconSource where
  src : BitVec 24
  rootEui : DWord
  depth : Nat
  timeErr : Nat
  /-- INTERVAL, ms. -/
  interval : Nat
  flags : BitVec 8
  /-- Timestamp of the last beacon. -/
  last : DWord
  /-- Timestamp and error e of an earlier beacon, the base of the rate measurement (R255). -/
  base : DWord × Int
  deriving DecidableEq, Repr

/-- The node side of a join (R259). -/
structure JoinNode where
  /-- A beacon with JOIN_OPEN from an accepted root: the root, and elapsed time at which the request is sent. -/
  due : Option (DWord × DWord) := none
  /-- A request sent: its ephemeral private and public keys, NT_SEC, the root, elapsed time of sending. -/
  sent : Option (BitVec 256 × List Byte × Word × DWord × DWord) := none
  /-- The retry's doubling, 1 to 8 beacon intervals. -/
  backoff : Nat := 1
  deriving DecidableEq, Repr

/-- Where a child or a parent stands (R261). -/
inductive RdvStage where
  | slots | windows | scan
  deriving DecidableEq, Repr

/-- One rendezvous (R258-R261, R270). -/
structure Rdv where
  short : BitVec 24
  /-- The port that issued RDV_SET, which takes what its windows receive (DEDUCED, log 33). -/
  port : PortId
  /-- ROLE: true parent. -/
  parent : Bool
  maxMiss : Nat
  profile : Fin 16
  period : DWord
  offset : DWord
  listenMs : Nat
  /-- PEER_BOUND in 0.1 ppm units, replaced by the BOUND of the latest POLL. -/
  peerBound : Nat
  misses : Nat := 0
  /-- NT of the last contact t_c. -/
  lastContact : DWord
  stage : RdvStage := .slots
  /-- k of the re-acquisition window. -/
  k : Nat := 0
  /-- The guard at the first beacon window, of which W_0 is the double (R261), reset 0. -/
  guard0 : Nat := 0
  /-- NT of the last slot taken, so that no slot is taken twice. -/
  lastSlot : Option DWord := none
  /-- The window that is open: its slot or centre, its end, whether the peer was heard in it. -/
  window : Option (DWord × DWord × Bool) := none
  /-- Frames to the child are eligible until this NT (R258). -/
  eligibleUntil : Option DWord := none
  /-- The frame that the child sends at the present slot (R258), reset none. -/
  slotFrame : Option Nat := none
  /-- That frame has been on the air (R258), reset false. -/
  slotSent : Bool := false
  deriving DecidableEq, Repr

/-- DIR_CONFIG (R268). -/
structure DirConfig where
  enable : Bool
  volatile : Bool
  dual : Bool
  log2cap : Nat
  ext : Bool
  base : Nat
  clkMhz : Nat
  dummy : Nat
  deriving DecidableEq, Repr

/-- Joining, beacons and rendezvous. -/
structure RdvState where
  /-- The join table, R250, reset empty. -/
  joins : Vector (Option JoinPlace) 8 := Vector.replicate 8 none
  /-- Requests discarded since the last JOIN_REQUEST, R250, saturating at 255, reset 0. -/
  joinDiscarded : Nat := 0
  /-- ADDR_ASSIGN waiting for the PKA, none otherwise: kept in `Pka`. BEACON_CONFIG, R272, reset values DESIGN CHOICE (log 6): nothing sent, nothing joined. -/
  cfg : BeaconConfig := {}
  /-- Beacon sources heard, R255, reset none. -/
  sources : List BeaconSource := []
  /-- Last time taken under R255: elapsed time, TIME_ERR, DEPTH, FLAGS and ROOT_EUI of the source's beacon, R256, reset none. -/
  timeTaken : Option (DWord × Nat × Nat × BitVec 8 × DWord) := none
  /-- Instant t_n of the last beacon queued, R254, reset none. -/
  lastBeacon : Option DWord := none
  /-- The node side of a join, R259. -/
  node : JoinNode := {}
  /-- The rendezvous, R258, reset none. -/
  rdvs : List Rdv := []
  deriving DecidableEq, Repr

/-- A DIR_SNAPSHOT in progress (R269): the restore's entries are checked and written when it completes. -/
structure SnapshotOp where
  port : PortId
  tag : BitVec 6
  restore : Bool
  first : Nat
  num : Nat
  /-- The restore's entry words. -/
  words : List Word
  deriving DecidableEq, Repr

/-- The directory (R263-R269). -/
structure DirState where
  /-- The configuration in use and journalled, R268, reset none. -/
  cfg : Option DirConfig := none
  /-- The high-water mark, journalled, R251, reset 0. -/
  highWater : Nat := 0
  /-- EPOCH, journalled, R264, reset 0 (DESIGN CHOICE, log 6). -/
  epoch : Word := 0
  /-- SEQ, R264, reset 0 (DESIGN CHOICE, log 6). -/
  seq : Word := 0
  /-- EPOCH must advance before the next entry write, R264, reset true. -/
  epochDue : Bool := true
  /-- Faults since power-on, R267, saturating, reset 0. -/
  faults : Word := 0
  /-- The LIBRARY_ID under which the MAPs of the directory stand, and the version up to which entries were written under another one,
  whose MAP is unset (R178; DEDUCED, log 70), reset 0. -/
  libraryId : BitVec 16 := 0
  mapVersion : DWord := 0
  /-- External memory behind the xSPI port (R263), reset: nothing listed (log 4). -/
  mem : List Host.Cell := []
  /-- A DIR_SNAPSHOT in progress: R269, reset none. -/
  snapshot : Option SnapshotOp := none
  deriving DecidableEq, Repr

/-! ### Traffic (10_traffic_shaping) -/

/-- One transmit queue (R274, R275, R282). -/
structure TxQueue where
  /-- CLASS, 3 bits, R275, reset q >> 2. -/
  cls : Fin 8
  /-- WEIGHT, 8 bits, R275, reset 16. -/
  weight : BitVec 8 := 16#8
  /-- RED_ACTION, 2 bits, R275, reset 0. -/
  redAction : BitVec 2 := 0
  /-- PRECOLOUR: true yellow, R275, reset 0. -/
  preYellow : Bool := false
  /-- DEPTH, 7 bits, R275, reset 0. -/
  depth : BitVec 7 := 0
  /-- The finish tag of the previous attempt, 48 bits, R282, reset 0. -/
  fPrev : BitVec 48 := 0
  /-- The head's frame, attempt number, S and F, R282, reset none. -/
  tag : Option (Nat × Nat × BitVec 48 × BitVec 48) := none
  deriving DecidableEq, Repr

/-- A meter's rates and bursts (R277, R281). -/
structure MeterConfig where
  aware : Bool := false
  cir : Word := 0xFFFFFFFF#32
  cbs : Nat := 1
  pir : Word := 0xFFFFFFFF#32
  pbs : Nat := 1
  deriving DecidableEq, Repr

/-- One transmit meter (R278). -/
structure TxMeter where
  cls : Fin 8
  /-- The destination bound, none for any. -/
  dst : Option (BitVec 24)
  cfg : MeterConfig
  buckets : Buckets
  deriving DecidableEq, Repr

/-- A gate list (R284). -/
structure GateList where
  base : DWord
  cycle : DWord
  entries : List (BitVec 8 × Word)
  deriving DecidableEq, Repr

/-- An administrative list that waits (R286); no entries with CLEAR. -/
structure AdminList where
  list : GateList
  clear : Bool
  x : DWord
  k : Nat
  /-- A forced jump carried NT past X (R286). -/
  late : Bool := false
  deriving DecidableEq, Repr

/-- One sub-band's airtime account (R292). -/
structure Account where
  /-- LIMIT_PPM, R296, reset 1,000,000. -/
  limit : Nat := 1000000
  /-- RESERVE_PPM, R296, reset 0. -/
  reserve : Nat := 0
  /-- LOW, R296, reset 0. -/
  low : Nat := 0
  /-- Use in µs of the current bucket and the preceding ones, newest first, R292, reset empty (all 0). -/
  buckets : List Nat := []
  /-- BUDGET_LOW is raised and the credit has not risen since, R298, reset false. -/
  lowRaised : Bool := false
  deriving DecidableEq, Repr

/-- The budget journal's last write (R295). -/
structure BudgetJournal where
  n : Nat
  s : Nat
  /-- Allowance A and buckets of each sub-band. -/
  accounts : List (Nat × List Nat)
  nt : DWord
  elapsed : DWord
  /-- The bucket number current at the write. -/
  number : Nat
  deriving DecidableEq, Repr

/-- One scope of the ledger (R306): frames of TX_SUBMIT, or of link firmware. -/
structure LedgerScope where
  /-- SUBMITTED, 64 bits, R306, reset 0. -/
  submitted : DWord := 0
  /-- PENDING, 64 bits, R306, reset 0. -/
  pending : DWord := 0
  /-- IN_FLIGHT, 64 bits, R306, reset 0. -/
  inFlight : DWord := 0
  /-- Outcome counts 0-8, 64 bits each, R305, reset 0. -/
  outcomes : Vector DWord 9 := Vector.replicate 9 0#64
  deriving DecidableEq, Repr

/-- The transmit ledger in AON (R306, R308). -/
structure Ledger where
  app : LedgerScope := {}
  fw : LedgerScope := {}
  deriving DecidableEq, Repr

/-- Queues, meters, gates and budgets. -/
structure TrafficState where
  /-- The 32 queues, R274. -/
  queues : Vector TxQueue 32 := Vector.ofFn fun q => { cls := ⟨q.val / 4, by omega⟩ }
  /-- The 256 transmit meters by index, R278, reset none bound. -/
  meters : List (Fin 256 × TxMeter) := []
  /-- Inbound profiles 1-255 that METER_SET has loaded, by number, R280, reset none. -/
  profiles : List (Fin 256 × MeterConfig) := []
  /-- Virtual time V, 48 bits, R282, reset 0. -/
  v : BitVec 48 := 0
  /-- The operational list and its swap instant, R284, reset none. -/
  oper : Option (GateList × DWord) := none
  /-- The administrative list waiting, R286, reset none. -/
  admin : Option AdminList := none
  /-- STRANDED, R288, reset 0. -/
  stranded : Nat := 0
  /-- N, buckets, R292, reset 60. -/
  n : Nat := 60
  /-- S, seconds, R292, reset 60. -/
  s : Nat := 60
  /-- The number of the current bucket: elapsed time divided by S at the last roll, R292, reset 0. -/
  bucketNo : Nat := 0
  /-- The sub-bands' accounts, R292. -/
  accounts : Vector Account 16 := Vector.replicate 16 {}
  /-- The budget journal in flash, R295, reset none. -/
  journal : Option BudgetJournal := none
  /-- Elapsed time of the last periodic journal write, R295, reset 0. -/
  journalAt : DWord := 0
  /-- A journal write deferred by a brown-out warning, R295, reset false. -/
  journalDue : Bool := false
  deriving DecidableEq, Repr

/-! ### Security (11_security) -/

/-- Lifecycle states (R85, R322), in the order of their codes. -/
inductive Lifecycle where
  | blank | develop | secured | retired
  deriving DecidableEq, Repr

/-- Types of a key slot (R319). -/
inductive KeyType where
  | aes128 | aes256 | p256 | secret256
  deriving DecidableEq, Repr

/-- A key slot in use (R318-R320). -/
structure KeySlot where
  type : KeyType
  /-- USAGE bits 0-4: CIPHER, MAC, WRAP, KDF, SIGN (R319). -/
  usage : BitVec 5
  /-- The secret: 256 bits; an AES-128 key in the high half. -/
  key : BitVec 256
  /-- The public key X, Y of a slot generated by ECDH_RUN, or derivable from a P-256 private key (R319). -/
  pub : Option (BitVec 256 × BitVec 256) := none
  /-- Kept as a record wrapped under the storage key (R320). -/
  persist : Bool := false
  /-- Sealed by a debug unlock (R329). -/
  sealed_ : Bool := false
  /-- The 48-bit invocation counter (R312). -/
  nonceCtr : BitVec 48 := 0
  /-- Its journalled ceiling for a persistent slot (R312). -/
  nonceCeil : BitVec 48 := 0
  /-- The secret comes from ECDH_RUN, so KEY_LOAD SOURCE 2 may use it (R333), with the public key of its PRIV_SLOT. -/
  fromEcdh : Bool := false
  deriving DecidableEq, Repr

/-- An open message on a cipher context 0 to 4 (R313-R315, R336). -/
structure CipherMsg where
  port : PortId
  slot : Nat
  mode : BitVec 3
  decrypt : Bool
  stream : Bool
  priority : BitVec 3
  autoNonce : Bool
  msgBytes : Nat
  aadBytes : Nat
  tagLen : Nat
  /-- Invocation counter used. -/
  nonceCtr : BitVec 48
  /-- Bytes of the stream consumed so far, additional data first. -/
  consumed : Nat
  /-- The key of its key schedule, R314; empty for SHA-256. -/
  key : List Byte
  /-- Feedback of CBC, CFB and OFB or the counter block of CTR; the MAC state of CCM and CMAC, as bytes. -/
  chain : List Byte
  /-- Bytes buffered for the MAC, R314. -/
  mac : List Byte
  /-- SHA-256 state words. -/
  hash : List Word
  /-- The nonce of CCM. -/
  nonce : List Byte
  /-- Elapsed time of the last command of the message. -/
  last : DWord
  deriving DecidableEq, Repr

/-- What a P-256 request in the PKA will answer when it completes (R316). -/
inductive PkaJob where
  /-- ECDH_RUN OP 0: slot, usage, persist. -/
  | genKey (slot : Nat) (usage : BitVec 5) (persist : Bool)
  /-- ECDH_RUN OP 1: slot, private slot, peer. -/
  | agree (slot priv : Nat) (peer : BitVec 256 × BitVec 256)
  /-- SIGN_RUN: slot and digest. -/
  | sign (slot : Nat) (digest : BitVec 256)
  /-- VERIFY_RUN: root check passed, key, digest, r, s. -/
  | verify (rootOk : Bool) (key : BitVec 256 × BitVec 256) (digest r s : BitVec 256)
  /-- Another command whose meaning rests on P-256 operations: KEY_LOAD with SOURCE 2, ADDR_ASSIGN, ATTEST, LIFECYCLE_ADVANCE,
  DEBUG_UNLOCK; its code and its parameter words. -/
  | command (code : BitVec 12) (params : List Word)
  /-- Link firmware's own: a join request to sign (R259), a join response to verify, as its MAC frame, and a report to a radio request
  of a link (R327). -/
  | joinRequest
  | joinResponse (psdu : List Byte)
  | remoteReport (link : BitVec 24 × DWord) (challenge : List Byte)
  deriving DecidableEq, Repr

/-- A waiting or running request of the PKA (R316). -/
structure PkaReq where
  port : PortId
  tag : BitVec 6
  job : PkaJob
  /-- Operations still to come, the running one included: the PKA does one at a time. -/
  left : Nat := 1
  deriving DecidableEq, Repr

/-- A command waiting for a cipher context or for the key store (R13, R310, R320). -/
structure WaitingCmd where
  packet : Packet
  op : BitVec 12
  deriving DecidableEq, Repr

/-- Debug states (R328), in the order of their codes. -/
inductive DebugMode where
  | closed | app | full
  deriving DecidableEq, Repr

/-- A debug request that AON holds in stop (R330): the JTAG instruction and what it shifted in. -/
inductive HeldDebug where
  | chal
  | resp (scope : BitVec 2) (key sig : List Word)
  deriving DecidableEq, Repr

/-- The CRYPTO domain and what depends on it. -/
structure SecState where
  /-- Key slots 0 to 31, R318, reset empty until CRYPTO comes on. -/
  slots : Vector (Option KeySlot) 32 := Vector.replicate 32 none
  /-- Persistent records in the certificates area (R320), reset none. -/
  records : Vector (Option KeySlot) 32 := Vector.replicate 32 none
  /-- Slots sealed until the next reset (R329), reset none. -/
  sealedSlots : BitVec 32 := 0
  /-- The key store is ready, R320, reset false. -/
  ready : Bool := false
  /-- Elapsed time at which CRYPTO came on (R317, R320), reset 0. -/
  onAt : DWord := 0
  /-- Cipher contexts 0 to 4, R310, reset free. -/
  ctxs : Vector (Option CipherMsg) 5 := Vector.replicate 5 none
  /-- The operation the PKA runs, R316, reset none. -/
  pka : Option PkaReq := none
  /-- Commands waiting for it, in arrival order, R316, reset none. -/
  pkaQueue : List PkaReq := []
  /-- Requests of link firmware waiting for it, which go before them, R316, reset none. -/
  pkaFirst : List PkaReq := []
  /-- Commands waiting for the key store or a cipher context, R310, R320, reset none. -/
  waiting : List WaitingCmd := []
  /-- The start-up test has passed since CRYPTO came on and since the last failure, R317, reset false. -/
  trngOk : Bool := false
  /-- Elapsed time of the last TRNG failure, R317, reset none. -/
  trngFailAt : Option DWord := none
  /-- TRNG failures since power-on, saturating, R341, reset 0. -/
  trngFails : Word := 0
  /-- DRBG requests since it was seeded, R317, reset 0. -/
  drbgCount : Nat := 0
  /-- The last random value drawn (R317), reset 0 (DESIGN CHOICE, log 6). -/
  lastRandom : Word := 0
  /-- A lifecycle challenge: value and elapsed time of issue, R338, reset none. -/
  lifeChal : Option (BitVec 256 × DWord) := none
  /-- A debug challenge, R339, reset none. -/
  debugChal : Option (BitVec 256 × DWord) := none
  /-- MR0 to MR3, 256 bits each, R324, reset 32 zero bytes. -/
  mrs : Vector (BitVec 256) 4 := Vector.replicate 4 0#256
  /-- The measurement log: MR index, ET and d, oldest first, at most 256, R325, reset empty. -/
  log : List (BitVec 2 × Byte × BitVec 256) := []
  /-- LOG_FULL, R325, reset false. -/
  logFull : Bool := false
  /-- The debug state, R328, reset CLOSED. -/
  debug : DebugMode := .closed
  /-- Failed unlock signatures since reset, R328, reset 0. -/
  failedSigs : Nat := 0
  /-- A debug request held in stop, R330, reset none. -/
  debugHeld : Option HeldDebug := none
  /-- The access status of the last JTAG exchange, R330, reset 0 (DESIGN CHOICE, log 6). -/
  dapStatus : BitVec 16 := 0
  /-- REMOTE_EN, R337, reset 0. -/
  remoteEn : Bool := false
  /-- The remote policy's QUEUE, PROFILE and RATE, kept in the settings journal, R337, reset 0, 0, 1 (DESIGN CHOICE, log 6). -/
  remoteQueue : Fin 32 := 0
  remoteProfile : Fin 16 := 0
  remoteRate : Nat := 1
  /-- Elapsed times of the replies of the last minute, R327, reset none. -/
  remoteServed : List DWord := []
  /-- EXTEST is selected, R331, reset false. -/
  extest : Bool := false
  deriving DecidableEq, Repr

/-! ### Application core (12_application_core) -/

/-- A write still to come true at a distance (R348): a register that reads undefined, for so many more instructions. -/
structure Hazard where
  reg : BitVec 5
  left : Nat
  deriving DecidableEq, Repr

/-- A special-register write whose value is old or new for so many more instructions (R348, R352). -/
structure SpecialHazard where
  sr : BitVec 5
  old : Word
  left : Nat
  deriving DecidableEq, Repr

/-- An interrupt source that a store has cleared and that the interrupt controller may still show (R358). -/
structure StaleIrq where
  vector : Nat
  level : Nat
  /-- The register page stored to, whose load orders the two. -/
  page : Nat
  left : Nat
  deriving DecidableEq, Repr

/-- The PB32 application core and the interrupt controller. -/
structure CoreState where
  /-- The core executes instructions: APP on, an image present, not in reset, not parked, R367, reset held. -/
  running : Bool := false
  /-- WAIT has stopped the clock, R359, reset false. -/
  waiting : Bool := false
  /-- A debugger has halted the core (BREAK), R345, reset false. -/
  halted : Bool := false
  /-- g0 to g31, 32 bits each, R342, R367; g0 reads 0. -/
  regs : Vector Word 32 := Vector.replicate 32 0#32
  /-- Address of the instruction being executed, 32 bits, R355, R367, reset 0 (DESIGN CHOICE, log 6: the core is held). -/
  pc : Word := 0
  /-- The pc is a delay slot: where execution goes after it (R350), reset none. -/
  slot : Option Word := none
  /-- The transfer whose slot this is was taken (R353), reset false. -/
  slotTaken : Bool := false
  /-- The transfer whose slot this is was RETI: the STATUS to load after the slot (R357), reset none. -/
  slotStatus : Option Word := none
  /-- LS0-LS2, 32 bits, R343, reset 0. -/
  ls : Vector Word 3 := Vector.replicate 3 0#32
  /-- LE0-LE2, 32 bits, R343, reset 0. -/
  le : Vector Word 3 := Vector.replicate 3 0#32
  /-- LC0-LC2, 32 bits, R343, reset 0. -/
  lc : Vector Word 3 := Vector.replicate 3 0#32
  /-- STATUS, 32 bits (IE, IPL, EXC), R343, reset 0. -/
  status : Word := 0
  /-- VBASE, 32 bits, R343, reset 0x0800_0000. -/
  vbase : Word := 0x08000000#32
  /-- CAUSE, 32 bits, R343, reset 0. -/
  cause : Word := 0
  /-- FADDR, 32 bits, R343, reset 0. -/
  faddr : Word := 0
  /-- FPC, 32 bits, R343, reset 0. -/
  fpc : Word := 0
  /-- The cycle counter behind CYCLE_LO, 64 bits, R343, reset 0. -/
  cycles : DWord := 0
  /-- CYCLE_HI as latched, 32 bits, R343, reset 0. -/
  cycleHi : Word := 0
  /-- CACHECTL.EN, 1 bit, R343, reset 1. -/
  cacheEn : Bool := true
  /-- Tags of the cached lines by set: line addresses, most recently used first, at most 2 a set, R361, reset empty. -/
  cache : List Nat := []
  /-- CACHE_MISS, 32 bits, R343, reset 0. -/
  cacheMiss : Word := 0
  /-- General registers that a load or a multiply has still to write (R348), reset none. -/
  hazards : List Hazard := []
  /-- Special registers whose last write is not yet certain (R348), reset none. -/
  specHazards : List SpecialHazard := []
  /-- Sources cleared by a store at most 3 instructions ago (R358), reset none. -/
  stale : List StaleIrq := []
  /-- INTC_EN, 32 bits, R360, reset 0. -/
  intcEn : Word := 0
  /-- INTC_LVL_A, 32 bits, R360, reset 0. -/
  lvlA : Word := 0
  /-- INTC_LVL_B, 16 bits, R360, reset 0. -/
  lvlB : BitVec 16 := 0
  /-- SWI0-SWI7 pending, 8 bits, R360, reset 0. -/
  swi : BitVec 8 := 0
  /-- The application image part of the active bank is present, R367, reset false (log 3: BLANK part). -/
  imagePresent : Bool := false
  /-- The word that the last register read by a command or by a load delivered (the data bus), reset 0 (DESIGN CHOICE, log 6). -/
  busRead : Word := 0
  deriving DecidableEq, Repr

/-! ### Peripherals and DMA (13_peripherals_dma) -/

/-- One GPIO port (R373). -/
structure GpioPort where
  /-- Pad levels as the world drives them, 16 bits, R373, reset 0. -/
  level : BitVec 16 := 0
  /-- GPIOp_OUT, 16 bits, R373, reset 0. -/
  out : BitVec 16 := 0
  /-- GPIOp_DIR, 16 bits, R373, reset 0. -/
  dir : BitVec 16 := 0
  /-- GPIOp_IMODE, 32 bits, R373, reset 0. -/
  imode : Word := 0
  /-- GPIOp_IEN, 16 bits, R373, reset 0. -/
  ien : BitVec 16 := 0
  /-- GPIOp_ISTAT, 16 bits, R373, reset 0. -/
  istat : BitVec 16 := 0
  deriving DecidableEq, Repr

/-- One SPI controller (R375). -/
structure Spic where
  /-- SPIC_CTRL, 32 bits, R375, reset 0. -/
  ctrl : Word := 0
  /-- SPIC_CLK, 32 bits, R375, reset 15. -/
  clk : Word := 15
  /-- The TX FIFO, at most 8 frames, oldest first, R375, reset empty. -/
  tx : List Word := []
  /-- The RX FIFO, at most 8 frames, oldest first, R375, reset empty. -/
  rx : List Word := []
  /-- The frame on the wire (BUSY), R375, reset none. -/
  wire : Option Word := none
  /-- RXOVR, 1 bit, R375, reset 0. -/
  rxovr : Bool := false
  /-- DONE, 1 bit, R375, reset 0. -/
  done : Bool := false
  /-- CS_ACTIVE, 1 bit, R375, reset 0. -/
  csActive : Bool := false
  /-- CS_END waits for the last waiting frame, R375, reset false. -/
  csEnd : Bool := false
  /-- SPIC_IEN, 4 bits, R375, reset 0. -/
  ien : BitVec 4 := 0
  deriving DecidableEq, Repr

/-- A command in progress on an I2C controller (R376). -/
structure I2cCmd where
  addr : BitVec 7
  read : Bool
  count : Nat
  stop : Bool
  /-- The address byte has been acknowledged. -/
  addressed : Bool := false
  deriving DecidableEq, Repr

/-- One I2C controller (R376). -/
structure I2c where
  /-- I2C_CTRL, 32 bits, R376, reset 0. -/
  ctrl : Word := 0
  /-- The command in progress (BUSY), R376, reset none. -/
  cmd : Option I2cCmd := none
  /-- The TX FIFO, at most 8 bytes, R376, reset empty. -/
  tx : List Byte := []
  /-- The RX FIFO, at most 8 bytes, R376, reset empty. -/
  rx : List Byte := []
  /-- NACK_ADDR, R376, reset 0. -/
  nackAddr : Bool := false
  /-- NACK_DATA, R376, reset 0. -/
  nackData : Bool := false
  /-- TIMEOUT, R376, reset 0. -/
  timeout : Bool := false
  /-- DONE_BYTES, 8 bits, R376, reset 0. -/
  doneBytes : Nat := 0
  /-- I2C_IEN, 2 bits, R376, reset 0. -/
  ien : BitVec 2 := 0
  /-- I2C_ISTAT.DONE, R376, reset 0. -/
  done : Bool := false
  /-- I2C_ISTAT.ERR, R376, reset 0. -/
  err : Bool := false
  /-- The bus is held after a command without STOP (a repeated START follows), R376, reset false. -/
  held : Bool := false
  deriving DecidableEq, Repr

/-- One UART (R378). -/
structure Uart where
  /-- UART_CTRL, 32 bits, R378, reset 0. -/
  ctrl : Word := 0
  /-- UART_BAUD.DIV, 16 bits, R378, reset 3,333. -/
  div : BitVec 16 := 3333#16
  /-- The TX FIFO, at most 16, R378, reset empty. -/
  tx : List Byte := []
  /-- The RX FIFO, at most 16: DATA, PERR, FERR, BREAK as UART_RX gives them, R378, reset empty. -/
  rx : List (BitVec 11) := []
  /-- The character on the wire (TXBUSY), R378, reset none. -/
  wire : Option Byte := none
  /-- RXOVR, R378, reset 0. -/
  rxovr : Bool := false
  /-- RXIDLE, R378, reset 0. -/
  rxidle : Bool := false
  /-- ERR, R378, reset 0. -/
  err : Bool := false
  /-- UART_TIMEOUT, 8 bits, R378, reset 32. -/
  timeout : BitVec 8 := 32#8
  /-- UART_IEN, 5 bits, R378, reset 0. -/
  ien : BitVec 5 := 0
  /-- UART_LOST, 16 bits, R378, reset 0. -/
  lost : BitVec 16 := 0
  /-- A character has been received since the line was last found idle, R378, reset false. -/
  active : Bool := false
  deriving DecidableEq, Repr

/-- The ADC page (R379, R380). -/
structure Adc where
  /-- ADC_CTRL, 32 bits, R379, reset SAMPLE 4. -/
  ctrl : Word := 0x400
  /-- ADC_SEQ, 32 bits, R379, reset 0. -/
  seq : Word := 0
  /-- The result FIFO, at most 8: RESULT, CHANNEL, VALID, DELAYED as ADC_DATA gives them, R379, reset empty. -/
  fifo : List (BitVec 18) := []
  /-- The channel index of the sequence in progress (BUSY), R379, reset none. -/
  busy : Option Nat := none
  /-- The sequence has waited for the Kerb, R380, reset false. -/
  delayed : Bool := false
  /-- PEND, R379, reset 0. -/
  pend : Bool := false
  /-- TRIG_LOST, 16 bits, R379, reset 0. -/
  trigLost : BitVec 16 := 0
  /-- RES_LOST, 16 bits, R379, reset 0. -/
  resLost : BitVec 16 := 0
  /-- ADC_IEN, 2 bits, R379, reset 0. -/
  ien : BitVec 2 := 0
  /-- A count rose since ADC_LOST was read: the LOST source of vector 20, R379, reset false. -/
  lostSeen : Bool := false
  deriving DecidableEq, Repr

/-- One DMA channel (R385). -/
structure DmaCh where
  /-- CHn_CTRL's RW fields, 32 bits (bit 0 EN), R385, reset 0. -/
  ctrl : Word := 0
  /-- CHn_DESC, 32 bits, R385, reset 0. -/
  desc : Word := 0
  /-- CHn_CUR, 32 bits, R385, reset 0. -/
  cur : Word := 0
  /-- CHn_SRC, 32 bits, R385, reset 0. -/
  src : Word := 0
  /-- CHn_DST, 32 bits, R385, reset 0. -/
  dst : Word := 0
  /-- CHn_LEFT, 16 bits, R385, reset 0. -/
  left : BitVec 16 := 0
  /-- Words 2 and 3 of the descriptor in progress (R383), reset 0. -/
  word2 : Word := 0
  next : Word := 0
  /-- The event being served, R382, reset false. -/
  serving : Bool := false
  /-- Items left of a burst that a channel of higher PRIO interrupted (R386), reset 0. -/
  burstLeft : Nat := 0
  /-- PEND, R385, reset 0. -/
  pend : Bool := false
  /-- HALTED, R385, reset 0. -/
  halted : Bool := false
  /-- ERR, 3 bits, R385, reset 0. -/
  err : BitVec 3 := 0
  /-- LOST, 16 bits, R385, reset 0. -/
  lost : BitVec 16 := 0
  /-- CHn_TOTAL, 32 bits, R385, reset 0. -/
  total : Word := 0
  deriving DecidableEq, Repr

/-- The PERI domain. -/
structure PeriState where
  /-- GPIO ports 0 to 3, R373. -/
  gpio : Vector GpioPort 4 := Vector.replicate 4 {}
  /-- SPIC0, SPIC1, R375. -/
  spic : Vector Spic 2 := Vector.replicate 2 {}
  /-- I2C0, I2C1, R376. -/
  i2c : Vector I2c 2 := Vector.replicate 2 {}
  /-- UART0-UART2, R378. -/
  uart : Vector Uart 3 := Vector.replicate 3 {}
  /-- The ADC page, R379. -/
  adc : Adc := {}
  /-- DMA_CTRL.EN, R385, reset 0. -/
  dmaEn : Bool := false
  /-- DMA_DONE, 16 bits, R385, reset 0. -/
  dmaDone : BitVec 16 := 0
  /-- DMA_ERR, 16 bits, R385, reset 0. -/
  dmaErr : BitVec 16 := 0
  /-- DMA_IEN, 32 bits, R385, reset 0. -/
  dmaIen : Word := 0
  /-- The 16 channels, R385. -/
  dma : Vector DmaCh 16 := Vector.replicate 16 {}
  /-- The channel served last, for the turns of equal priority (R386), reset 0. -/
  dmaLast : Fin 16 := 0
  /-- BT0-BT7, R54. -/
  bt : Vector BasicTimer 8 := Vector.replicate 8 {}
  deriving DecidableEq, Repr

/-- The pads in AON (R372). -/
structure PadState where
  /-- PAD_0 to PAD_63 without LATCHED, 32 bits each, R372, reset INEN = 1 and the rest 0. -/
  regs : Vector Word 64 := Vector.replicate 64 0x80#32
  /-- The pads that are latched, R372, reset 0. -/
  latched : BitVec 64 := 0
  /-- The configuration each latched pad is held at (R424), reset as the pads. -/
  held : Vector Word 64 := Vector.replicate 64 0x80#32
  /-- The output level each latched pad is held at, and whether it is driven (R424), reset 0. -/
  heldOut : BitVec 64 := 0
  heldDir : BitVec 64 := 0
  deriving DecidableEq, Repr

/-! ### Flash and OTP (14_flash_otp) -/

/-- A command flash operation in progress or suspended (R394). -/
structure FlashOp where
  port : PortId
  handle : BitVec 16
  erase : Bool
  /-- Units still to program, oldest first, with their F; empty for an erase. -/
  units : List (Nat × List Byte) := []
  /-- Next sector to erase and how many are left. -/
  sector : Nat := 0
  left : Nat := 0
  /-- Units programmed or sectors erased. -/
  done : Nat := 0
  deriving DecidableEq, Repr

/-- A region of the protection table (R404). -/
structure ProtRegion where
  first : BitVec 9 := 0
  last : BitVec 9 := 0
  en : Bool := false
  wp : Bool := false
  rp : Bool := false
  deriving DecidableEq, Repr

/-- The flash array, its controller and the OTP row. -/
structure FlashState where
  /-- The bytes of the flash, by F, other than 0xFF (R389, R392), reset none. -/
  cells : List Host.Cell := []
  /-- The erase-in-progress flags by sector (R401), reset none. -/
  flags : BitVec 512 := 0
  /-- The command operation in progress or suspended, R394, reset none. -/
  op : Option FlashOp := none
  /-- A program accepted during an explicitly suspended erase (R399), reset none. -/
  inner : Option FlashOp := none
  /-- FLASH_RESUME was given while that program runs (R399), reset false. -/
  resumeAfter : Bool := false
  /-- When the erase in progress began or last resumed, R396, reset 0. -/
  eraseSince : DWord := 0
  /-- SUSP_AUTO, R396, reset 0. -/
  suspAuto : Bool := false
  /-- SUSP_CMD, R397, reset 0. -/
  suspCmd : Bool := false
  /-- SUSP_BOD, R400, reset 0. -/
  suspBod : Bool := false
  /-- Corrected errors, 32 bits, R403, reset 0. -/
  corrected : Word := 0
  /-- Uncorrectable errors, 32 bits, R403, reset 0. -/
  uncorrectable : Word := 0
  /-- The protection table, R404, reset all disabled (DESIGN CHOICE, log 6). -/
  prot : Vector ProtRegion 8 := Vector.replicate 8 {}
  /-- Ports that PROTECT_UNLOCK has unlocked, R405, reset none. -/
  unlocked : Vector Bool 3 := Vector.replicate 3 false
  /-- Wrong passwords since reset, R406, reset 0. -/
  wrongPw : Nat := 0
  /-- OTP bits by word, other than 0 (R407), 512 words; reset unprogrammed but for VARIANT (log 3). -/
  otp : List (Nat × Word) := [(1, 0x80#32)]
  /-- HOST_SEL as taken at the last reset: the application core is host (R5, R407), reset false. -/
  hostApp : Bool := false
  /-- Sectors that the boot scan found flagged: sector and whether erased again (R402), reset none. -/
  found : List (Nat × Bool) := []
  /-- The attestation certificate, DER bytes (R326), reset empty (log 3). -/
  certificate : List Byte := []
  /-- The boot count, journalled, R326, reset 0 (DESIGN CHOICE, log 6). -/
  bootCount : Word := 0
  deriving DecidableEq, Repr

/-! ### Power, domains, Kerb (15_power_kerb) -/

/-- Where the device stands between reset, run and stop (R417, R428, R433). -/
inductive Phase where
  | booting    -- out of reset, BOOTED not placed yet (R91, R494)
  | run
  | entering   -- STOP_ENTER answered; entry not complete (R427)
  | stop
  deriving DecidableEq, Repr

/-- A DOMAIN_SET switch-on whose domains are not all usable yet (R422). -/
structure DomainSetOp where
  port : PortId
  tag : BitVec 6
  /-- Domains still to become usable. -/
  waitFor : BitVec 12
  deriving DecidableEq, Repr

/-- The wake record (R434). -/
structure WakeRecord where
  /-- SOURCE, 4 bits, R434, reset 0. -/
  source : BitVec 4 := 0
  /-- DETAIL, 6 bits, R434, reset 0. -/
  detail : BitVec 6 := 0
  /-- DURING_ENTRY, R434, reset 0. -/
  duringEntry : Bool := false
  /-- SOURCES, 8 bits, R434, reset 0. -/
  sources : BitVec 8 := 0
  /-- NT_WAKE, 64 bits, R434, reset 0. -/
  ntWake : DWord := 0
  /-- ENTRIES, 32 bits, R434, reset 0. -/
  entries : Word := 0
  /-- RET_FAIL, 16 bits, R434, reset 0. -/
  retFail : BitVec 16 := 0
  /-- SAVE_AREA, R434, reset 0. -/
  saveArea : Bool := false
  /-- RESTORED, 12 bits, R434, reset 0. -/
  restored : BitVec 12 := 0
  /-- NT_ENTRY, 64 bits, R434, reset 0. -/
  ntEntry : DWord := 0
  deriving DecidableEq, Repr

/-- Power management, brown-out, wake. -/
structure PowerState where
  /-- The variant of the part: 0x20, 0x40 or 0x80 (R2, R95), reset 0x80 (DESIGN CHOICE, log 3). -/
  variant : BitVec 8 := 0x80#8
  /-- The phase, R417. -/
  phase : Phase := .booting
  /-- Domains on, 12 bits, numbered as R420, reset 0x00D (R444). -/
  domains : BitVec 12 := 0x00D#12
  /-- Domains on that are usable (R422), reset 0x00D. -/
  usable : BitVec 12 := 0x00D#12
  /-- DOMAIN_SET commands whose domains are not usable yet, R422, reset none. -/
  domainOps : List DomainSetOp := []
  /-- RUN-LP in force (PMU_STATUS.OPPOINT), R418, reset 0. -/
  lp : Bool := false
  /-- An OPPOINT_SET waiting or switching: port, tag, point, elapsed time of its arrival or of the change's beginning, R418, R419,
  reset none. -/
  oppWait : Option (PortId × BitVec 6 × Bool × DWord) := none
  /-- PMU_STATUS.SWITCHING, R444, reset 0. -/
  switching : Bool := false
  /-- The SYSCLK cycle in progress when the last HFXO tick came was half over (R417: 1.5 cycles per tick at RUN-LP), reset
  false. -/
  sysHalf : Bool := false
  /-- BOD_CONFIG LEVEL, 5 bits, R437, reset 4. -/
  bodLevel : BitVec 5 := 4#5
  /-- A brown-out warning is in force, R437, reset false. -/
  bodWarn : Bool := false
  /-- Elapsed time of its declaration, R440, reset 0. -/
  bodSince : DWord := 0
  /-- The lowest VBAT sampled in it, mV, R440, reset 0. -/
  bodLowest : Nat := 0
  /-- PMU_VBAT, 12 bits, R444, reset 0. -/
  vbat : BitVec 12 := 0
  /-- PMU_EVENTS, 4 bits, R444, reset 0. -/
  pmuEvents : BitVec 4 := 0
  /-- WAKE_ARM word 1 [13:0], R431, reset 0. -/
  wakeArm : BitVec 14 := 0
  /-- WAKE_ARM KERB_CODES, R431, reset 0. -/
  kerbCodes : BitVec 16 := 0
  /-- RETAIN_SET BANKS, 16 bits, R430, reset every present bank. -/
  retain : BitVec 16 := 0xFFFF#16
  /-- Banks sealed at the last entry, each with a seal of its number and ENTRIES (R435), reset 0. -/
  sealedBanks : BitVec 16 := 0
  /-- The wake record, R434. -/
  wake : WakeRecord := {}
  /-- Domains on at stop entry, R433, reset 0. -/
  atEntry : BitVec 12 := 0
  /-- Elapsed time at stop entry, from which times that do not run in stop resume (R480), reset 0. -/
  stopAt : DWord := 0
  /-- HFXO is running and NT has returned to it since wake (R29, R433), reset true. -/
  hfxo : Bool := true
  /-- SYSPLL has locked since wake (R433), reset true. -/
  pll : Bool := true
  /-- The wake drift sample is being taken (R43), reset false. -/
  driftDue : Bool := false
  /-- The die temperature last sampled by the AON sensor, the RF sensor and the core sensor, in 0.1 °C signed, R42, R443, reset
  250 (DESIGN CHOICE, log 6). -/
  dieTemp : Int := 250
  rfTemp : Int := 250
  coreTemp : Int := 250
  /-- The AON temperature of the Kerb ADC's last trim and the core temperature of the flash read reference's last trim, in 0.1 °C,
  R443, reset 250 (DESIGN CHOICE, log 6). -/
  adcTrim : Int := 250
  flashTrim : Int := 250
  /-- VIO is within range, R491, reset true. -/
  vio : Bool := true
  /-- LOST_AT_RESET in AON, 32 bits, R10, reset 0. -/
  lostAtReset : Word := 0
  /-- The cause of the last reset as BOOTED reports it, R85, reset 0. -/
  cause : BitVec 4 := 0
  /-- What the last power-on or brown-out reset still waits for, the LFXO (R494), reset true. -/
  lfxoDue : Bool := true
  /-- STOP_ENTER: the port whose OK response must be taken before entry begins (R428), reset none. -/
  stopPort : Option PortId := none
  /-- Wake edges seen between the acceptance of STOP_ENTER and the end of entry: SOURCES, and the DETAIL of the lowest of them
  (R429), reset 0. -/
  heldWake : BitVec 8 := 0
  heldDetail : BitVec 6 := 0
  /-- Elapsed time from which a domain that is on and not usable yet counts its time of R422, reset 0. -/
  onAt : Vector DWord 12 := Vector.replicate 12 0
  deriving DecidableEq, Repr

/-- The Kerb (R445-R453). -/
structure KerbState where
  /-- The program's steps, R452, reset none. -/
  prog : List Word := []
  /-- AUTOSTART, R452, reset 0. -/
  autostart : Bool := false
  /-- AUTOSTART's start of this start of the device is still to come, when KERB comes on, R452, reset true. -/
  autoDue : Bool := true
  /-- PERIOD, 24 bits, R452, reset 0. -/
  period : BitVec 24 := 0
  /-- KINk modes, R446, 2 bits each, reset 0. -/
  mode : Vector (BitVec 2) 8 := Vector.replicate 8 0#2
  /-- KINk trigger edges, R452, 2 bits each, reset 0. -/
  edge : Vector (BitVec 2) 8 := Vector.replicate 8 0#2
  /-- RUNNING, R451, reset 0. -/
  running : Bool := false
  /-- IN_PASS, R451, reset 0. -/
  inPass : Bool := false
  /-- STEP, 6 bits, R451, reset 0. -/
  step : Nat := 0
  /-- Steps executed in this pass (R447), reset 0. -/
  executed : Nat := 0
  /-- OVERRUN, 8 bits, R451, reset 0. -/
  overrun : BitVec 8 := 0
  /-- PASSES, 16 bits, R451, reset 0. -/
  passes : BitVec 16 := 0
  /-- TRIG_LOST, 16 bits, R451, reset 0. -/
  trigLost : BitVec 16 := 0
  /-- A trigger held during a pass (R447), reset false. -/
  held : Bool := false
  /-- V0-V7 as the program sees them, 16 bits signed, R447, reset 0. -/
  vars : Vector (BitVec 16) 8 := Vector.replicate 8 0#16
  /-- KERB_Vv: the values at the end of the last pass, R451, reset 0. -/
  shown : Vector (BitVec 16) 8 := Vector.replicate 8 0#16
  /-- The log, oldest first, at most 256 words, R450, reset empty. -/
  log : List Word := []
  /-- LOST, 16 bits, R451, reset 0. -/
  lost : BitVec 16 := 0
  /-- The pass has not yet written its time word (R450), reset false. -/
  timeDue : Bool := false
  /-- KERB_DECIDED, 16 bits, R451, reset 0. -/
  decided : BitVec 16 := 0
  /-- KERB_INTEN, 16 bits, R451, reset 0. -/
  inten : BitVec 16 := 0
  /-- Elapsed time until which the last write of the window has not taken effect (SYNC_BUSY), R442, R451, reset 0. -/
  syncUntil : DWord := 0
  /-- Synchronised levels of KIN0-KIN7, R451, reset 0. -/
  kin : BitVec 8 := 0
  /-- Pins driven by DOUT, R451, reset 0. -/
  driven : BitVec 8 := 0
  /-- Levels DOUT drives, R448, reset 0. -/
  driveLevel : BitVec 8 := 0
  /-- Decisions by code since KERB_START, 32 bits each, R449, reset 0. -/
  counts : Vector Word 16 := Vector.replicate 16 0#32
  /-- KERB_STOP commands waiting for the pass to end: port and tag, R453, reset none. -/
  stopWait : List (PortId × BitVec 6) := []
  /-- LOOPBACK gives analogue inputs their substitutes (R487), reset none. -/
  bypass : Option (Fin 8 × BitVec 12) := none
  deriving DecidableEq, Repr

/-! ### Update and settings (16_update) -/

/-- A settings record of the map library: maps present, LIBRARY_ID, and the parameter words where one load gave the whole (R189). -/
structure LibraryItem where
  maps : List (Nat × BitVec 288)
  id : BitVec 16
  words : Option (List Word)
  deriving DecidableEq, Repr

/-- One sub-band's limits (R296). -/
structure BandLimit where
  limit : Nat
  reserve : Nat
  low : Nat
  deriving DecidableEq, Repr

/-- A settings record of the budget load: N, S, the limits by sub-band, and the parameter words where one load gave the whole
(R296). -/
structure BudgetItem where
  n : Nat
  s : Nat
  limits : List BandLimit
  words : Option (List Word)
  deriving DecidableEq, Repr

/-- What PROVISIONING_REQUIRED reports (R471). -/
structure Provisioning where
  items : BitVec 8
  customer : Bool
  oldVersion : Word
  newVersion : Word
  deriving DecidableEq, Repr

/-- The device items of a settings generation and the customer records (R469). -/
structure Settings where
  /-- Item 0, region table: REGION_LOAD's parameter words. -/
  region : Option (List Word) := none
  /-- Item 1, map library. -/
  library : Option LibraryItem := none
  /-- Item 2, gate list. -/
  gate : Option GateList := none
  /-- Item 3, budget load. -/
  budget : Option BudgetItem := none
  /-- Item 4, directory configuration. -/
  dir : Option DirConfig := none
  /-- Item 5, attestation policy: QUEUE, PROFILE, RATE. -/
  attest : Option (Fin 32 × Fin 16 × Nat) := none
  /-- Item 6, Kerb program: KERB_LOAD's parameter words. -/
  kerb : Option (List Word) := none
  /-- Item 7, background schedules. -/
  bg : Option (BitVec 8 × BitVec 8 × BitVec 8) := none
  /-- Customer records: KEY, VERSION, bytes. -/
  customer : List (BitVec 16 × BitVec 16 × List Byte) := []
  deriving DecidableEq, Repr

/-- A part of an image (R456). -/
structure ImagePart where
  kind : Nat
  offset : Nat
  size : Nat
  iv : List Byte
  digest : BitVec 256
  deriving DecidableEq, Repr

/-- What the manifest of a bank says (R455), with its unwrapped section keys in the decryptor (R457). -/
structure Image where
  /-- LINK_VERSION, reset 0 (log 3). -/
  linkVersion : Word := 0
  linkArb : Nat := 0
  /-- APP_VERSION, 0 if none. -/
  appVersion : Word := 0
  appArb : Nat := 0
  parts : List ImagePart := []
  vendorKey : BitVec 256 := 0
  ownerKey : BitVec 256 := 0
  /-- O_WRAP 1: the owner section key is wrapped under this slot. -/
  ownerSlot : Option Nat := none
  /-- The image extent in bytes from the start of the bank (R391), reset one sector (log 3). -/
  extent : Nat := 8192
  deriving DecidableEq, Repr

/-- An update session (R458). -/
structure UpdSession where
  port : PortId
  bytes : Nat
  ownerSlot : Nat
  /-- UPD_BEGIN's tag while the erase runs. -/
  erasing : Option (BitVec 6)
  deriving DecidableEq, Repr

/-- An activation that waits for its gap (R461). -/
structure Activation where
  port : PortId
  handle : BitVec 16
  since : DWord
  waitMax : Nat
  trialS : Nat
  rollbackOnFault : Bool
  deriving DecidableEq, Repr

/-- Where a handover stands (R462): link firmware writes its record; both cores are parked in the boot ROM stub; the new link firmware
adopts the record. -/
inductive HandPhase where
  | record | parked | adopting
  deriving DecidableEq, Repr

/-- A handover in progress (R462). -/
structure Handover where
  phase : HandPhase
  /-- Elapsed time of t0. -/
  t0 : DWord
  /-- LINK_VERSION before the flip, and NT of the flip (R464). -/
  old : Word := 0
  flipNt : DWord := 0
  /-- The application core took the handover entry (R464). -/
  entry : Bool := false
  /-- DOMAIN_SET commands that wait for the end of adoption (R12): port, tag and word 1, in arrival order. -/
  domainSets : List (PortId × BitVec 6 × Word) := []
  deriving DecidableEq, Repr

/-- A trial (R465). -/
structure Trial where
  since : DWord
  trialS : Nat
  rollbackOnFault : Bool
  /-- A reason of R465 has arisen whose warm reset is still to come. -/
  due : Option Nat := none
  deriving DecidableEq, Repr

/-- Update, banks and settings. -/
structure UpdState where
  /-- The active bank: true B (R391, R462), reset A (DESIGN CHOICE, log 3). -/
  activeB : Bool := false
  /-- What bank A holds as an image, R455; reset link firmware alone (log 3). -/
  bankA : Option Image := some {}
  /-- What bank B holds as an image, R455, reset none. -/
  bankB : Option Image := none
  /-- The update session, R458, reset none. -/
  session : Option UpdSession := none
  /-- UPD_VERIFY in progress: port and tag, R460, reset none. -/
  verifying : Option (PortId × BitVec 6) := none
  /-- The staged package's image, R460, reset none. -/
  staged : Option Image := none
  /-- The activation that waits for a gap, R461, reset none. -/
  act : Option Activation := none
  /-- The handover in progress, R462, reset none. -/
  hand : Option Handover := none
  /-- The trial, R465, reset none. -/
  trial : Option Trial := none
  /-- A rollback to be reported after BOOTED: reason and rolled-back LINK_VERSION, R466, reset none. -/
  rolledBack : Option (Nat × Word) := none
  /-- R471 applies, reset none. -/
  provisioning : Option Provisioning := none
  /-- The settings journal's current generation, R469, reset empty. -/
  settings : Settings := {}
  /-- The pre-activation generation, R469, with what R471 said of it, reset none. -/
  preSettings : Option (Settings × Option Provisioning) := none
  deriving DecidableEq, Repr

/-! ### Background activities and tests (17_background_test) -/

/-- An unfinished CTX_TEST (R485). -/
structure CtxTestOp where
  port : PortId
  handle : BitVec 16
  ctx : Fin 64
  waitMax : Nat
  since : DWord
  /-- Elapsed time at which the context went OFFLINE. -/
  offAt : DWord := 0
  deriving DecidableEq, Repr

/-- An unfinished BIST_RUN (R486). -/
structure BistOp where
  port : PortId
  handle : BitVec 16
  bank : Fin 16
  since : DWord
  deriving DecidableEq, Repr

/-- An unfinished LOOPBACK (R487): what it tests and, for a Kerb input, the Kerb's counts at its start. -/
structure LoopOp where
  port : PortId
  tag : BitVec 6
  kerb : Bool
  /-- Passes and decisions of the Kerb at the start. -/
  passes : BitVec 16 := 0
  decisions : Nat := 0
  since : DWord
  /-- How long the test lasts: the looped frame's airtime or DURATION, in µs. -/
  durationUs : Nat := 0
  deriving DecidableEq, Repr

/-- Background schedules, telemetry and tests. -/
structure BgState where
  /-- SCRUB_S, 8 bits, R482, reset 8. -/
  scrubS : BitVec 8 := 8#8
  /-- REFRESH_H, 8 bits, R482, reset 24. -/
  refreshH : BitVec 8 := 24#8
  /-- TELEM_S, 8 bits, R482, reset 10. -/
  telemS : BitVec 8 := 10#8
  /-- SCRUB_S and REFRESH_H as the pass in progress uses them: BG_CONFIG applies from the next pass, R482, reset 8 and 24. -/
  scrubNow : BitVec 8 := 8#8
  refreshNow : BitVec 8 := 24#8
  /-- Elapsed time at which the next quantum is due of scrub, refresh, compaction, calibration and telemetry, R475, R477, reset 0; that
  of calibration is unused (R112 keeps its own). -/
  dueAt : Vector DWord 5 := Vector.replicate 5 0
  /-- The scrub position, in words of the pass, R480, reset 0. -/
  scrubPos : Nat := 0
  /-- The refresh position, sector, R480, reset 0. -/
  refreshPos : Nat := 0
  /-- A pause in force: elapsed time of its start and its length in ms, R481, reset none. -/
  pause : Option (DWord × Nat) := none
  /-- The last pause ended: elapsed time and its length in ms, R481, reset none. -/
  lastPause : Option (DWord × Nat) := none
  /-- Activities that are urgent: scrub, refresh, compaction, calibration, telemetry, R477, reset 0. -/
  urgent : BitVec 5 := 0
  /-- A calibration drain in progress since this elapsed time, R477, reset none. -/
  drain : Option DWord := none
  /-- SCRUB_PASSES, R483, reset 0. -/
  scrubPasses : Word := 0
  /-- SCRUB_CORRECTED, R483, reset 0. -/
  scrubCorrected : Word := 0
  /-- REFRESH_MARGIN, R483, reset 0. -/
  refreshMargin : Word := 0
  /-- URGENT, R483, reset 0. -/
  urgentCount : Word := 0
  /-- DRAINS, R483, reset 0. -/
  drains : Word := 0
  /-- DRAIN_MS, R483, reset 0. -/
  drainMs : Word := 0
  /-- PAUSE_MS, R483, reset 0. -/
  pauseMs : Word := 0
  /-- TEMP, 16 bits signed, 0.1 °C, R483, reset 0. -/
  temp : BitVec 16 := 0
  /-- VBAT, 16 bits, mV, R483, reset 0. -/
  vbat : BitVec 16 := 0
  /-- Uncorrectable errors since power-on, R479, reset 0. -/
  uncorrectable : Word := 0
  /-- The unfinished CTX_TEST, R485, reset none. -/
  ctxTest : Option CtxTestOp := none
  /-- The unfinished BIST_RUN, R486, reset none. -/
  bist : Option BistOp := none
  /-- The unfinished LOOPBACK, R484, R487, reset none. -/
  loop : Option LoopOp := none
  deriving DecidableEq, Repr


/-! ### The block -/

/-- The block's state. -/
structure State where
  /-- The commands waiting, first in first out (the model's own), reset empty. -/
  pending : List Instr := []
  time : TimeState := {}
  cmps : Compares := {}
  elapsed : Elapsed := {}
  plaza : PlazaState := {}
  radio : RadioState := {}
  phy : PhyState := {}
  rx : RxState := {}
  link : LinkState := {}
  rdv : RdvState := {}
  dir : DirState := {}
  traffic : TrafficState := {}
  ledger : Ledger := {}
  sec : SecState := {}
  core : CoreState := {}
  peri : PeriState := {}
  pads : PadState := {}
  flash : FlashState := {}
  power : PowerState := {}
  kerb : KerbState := {}
  upd : UpdState := {}
  bg : BgState := {}
  /-- Application SRAM, by offset from 0x2000_0000, bytes other than 0 (R364), reset: nothing listed (log 4). -/
  sram : List Host.Cell := []
  /-- The number of free values drawn so far (the model's own, log 5), reset 0. -/
  free : Nat := 0
  deriving DecidableEq, Repr

/-- The event mask of a host port after a reset: every defined code (R81, R84). -/
def definedEvents : BitVec 256 :=
  [0x001, 0x002, 0x003, 0x004, 0x010, 0x020, 0x021, 0x030, 0x031, 0x040, 0x050, 0x051, 0x060, 0x070, 0x080, 0x081,
   0x090, 0x0A0, 0x0B0, 0x0C0, 0x0C1, 0x0C2, 0x0C3, 0x0C4, 0x0C5, 0x0C6, 0x0C7, 0x0C8, 0x0C9, 0x0CA, 0x0CB, 0x0CC].foldl
    (fun m c => m ||| (1#256 <<< (c : Nat))) 0#256

/-- The machine right after a power-on reset, the LFXO not running yet (R91, R494): the external processor is host
(R407 HOST_SEL 0), so its two ports have every defined event enabled (R81). -/
def State.reset : State :=
  { plaza := { ports := (Vector.replicate 3 {}).set 0 { mask := definedEvents } |>.set 1 { mask := definedEvents } } }

end Sys2Proof.Machine
end

