-- ==== Sys2Proof/Machine/Operands.lean ====
section
/-! DEFINITION. Fields of words, parameter words, byte orders, saturating counts and the memories: the operand forms
that every family uses. -/

namespace Sys2Proof.Machine
open Sys2Proof

/-! ### Fields of a word -/

/-- Bits [hi:lo] of a word as a number. -/
def fld (w : Word) (hi lo : Nat) : Nat := (w.toNat >>> lo) % 2 ^ (hi + 1 - lo)

/-- Bit n of a word. -/
def bitAt (w : Word) (n : Nat) : Bool := w.getLsbD n

/-- Bits [hi:lo] of a word as a signed number. -/
def sfld (w : Word) (hi lo : Nat) : Int :=
  let v := fld w hi lo
  if v < 2 ^ (hi - lo) then (v : Int) else (v : Int) - 2 ^ (hi + 1 - lo)

/-- A word from a number. -/
def W (n : Nat) : Word := BitVec.ofNat 32 n

/-- A word from a signed number, two's complement. -/
def WI (n : Int) : Word := BitVec.ofInt 32 n

/-- A truth value as 0 or 1. -/
def b2n (b : Bool) : Nat := if b then 1 else 0

/-- Whether every bit of a word outside `mask` is 0: the reserved-field test of R8. -/
def onlyBits (w mask : Word) : Bool := w &&& ~~~mask == 0#32

/-- Parameter word n of a packet, numbered from 1 (R66). -/
def param (ps : List Word) (n : Nat) : Word := ps.getD (n - 1) 0#32

/-- The low word of a 64-bit value. -/
def lo32 (d : DWord) : Word := d.setWidth 32

/-- The high word of a 64-bit value. -/
def hi32 (d : DWord) : Word := (d >>> 32).setWidth 32

/-- A 64-bit value from its low and high words. -/
def mk64 (lo hi : Word) : DWord := hi ++ lo

/-- The two words of a 64-bit value, low word first. -/
def words64 (d : DWord) : List Word := [lo32 d, hi32 d]

/-! ### Bytes and words -/

/-- The bytes of a word, least significant first. -/
def bytesLE (w : Word) : List Byte :=
  [w.extractLsb' 0 8, w.extractLsb' 8 8, w.extractLsb' 16 8, w.extractLsb' 24 8]

/-- The bytes of a word, most significant first (R69). -/
def bytesBE (w : Word) : List Byte :=
  [w.extractLsb' 24 8, w.extractLsb' 16 8, w.extractLsb' 8 8, w.extractLsb' 0 8]

/-- Bytes of a list of words, least significant byte of each word first (R213). -/
def unpackLE (ws : List Word) : List Byte := ws.flatMap bytesLE

/-- Bytes of a list of words, most significant byte of each word first. -/
def unpackBE (ws : List Word) : List Byte := ws.flatMap bytesBE

/-- Words from bytes, least significant byte first, the last padded with zero bytes (R213). -/
def packLE : List Byte → List Word
  | [] => []
  | [a] => [0#8 ++ 0#8 ++ 0#8 ++ a]
  | [a, b] => [0#8 ++ 0#8 ++ b ++ a]
  | [a, b, c] => [0#8 ++ c ++ b ++ a]
  | a :: b :: c :: d :: rest => (d ++ c ++ b ++ a) :: packLE rest

/-- Words from bytes, most significant byte first, the last padded with zero bytes. -/
def packBE : List Byte → List Word
  | [] => []
  | [a] => [a ++ 0#8 ++ 0#8 ++ 0#8]
  | [a, b] => [a ++ b ++ 0#8 ++ 0#8]
  | [a, b, c] => [a ++ b ++ c ++ 0#8]
  | a :: b :: c :: d :: rest => (a ++ b ++ c ++ d) :: packBE rest

/-- The number that bytes spell, most significant first. -/
def natBE (bs : List Byte) : Nat := bs.foldl (fun acc b => acc * 256 + b.toNat) 0

/-- The number that bytes spell, least significant first. -/
def natLE (bs : List Byte) : Nat := bs.foldr (fun b acc => b.toNat + 256 * acc) 0

/-- n bytes of a number, least significant first. -/
def bytesOfLE : Nat → Nat → List Byte
  | 0, _ => []
  | n + 1, v => BitVec.ofNat 8 v :: bytesOfLE n (v / 256)

/-- n bytes of a number, most significant first. -/
def bytesOfBE (n v : Nat) : List Byte := (bytesOfLE n v).reverse

/-- A 256-bit value from eight words, most significant word first. -/
def mk256 (ws : List Word) : BitVec 256 := BitVec.ofNat 256 (ws.foldl (fun acc w => acc * 2 ^ 32 + w.toNat) 0)

/-- The eight words of a 256-bit value, most significant word first. -/
def words256 (v : BitVec 256) : List Word :=
  (List.range 8).map fun i => (v >>> (32 * (7 - i))).setWidth 32

/-- The 32 bytes of a 256-bit value, most significant first. -/
def bytes256 (v : BitVec 256) : List Byte := bytesOfBE 32 v.toNat

/-! ### Counts -/

/-- A saturating increment of a 32-bit counter. -/
def satInc (w : Word) : Word := if w = 0xFFFFFFFF#32 then w else w + 1

/-- A saturating increment of a 16-bit counter. -/
def satInc16 (w : BitVec 16) : BitVec 16 := if w = 0xFFFF#16 then w else w + 1

/-- A saturating addition to a 32-bit counter. -/
def satAdd (w : Word) (n : Nat) : Word := if w.toNat + n ≥ 2 ^ 32 then 0xFFFFFFFF#32 else W (w.toNat + n)

/-- A signed value clamped to an interval. -/
def clampI (lo hi x : Int) : Int := if x < lo then lo else if x > hi then hi else x

/-- ceil(a / b). -/
def ceilDiv (a b : Nat) : Nat := (a + b - 1) / b

/-! ### Memories in canonical form -/

/-- What a memory holds at an address; `d` is what an unlisted address reads as. -/
def memRead (d : Byte) : List Host.Cell → Nat → Byte
  | [], _ => d
  | (k, v) :: rest, a => if k = a then v else if k > a then d else memRead d rest a

/-- A byte written to a memory, which keeps its canonical form: addresses rising, no entry equal to `d`. -/
def memWrite (d : Byte) : List Host.Cell → Nat → Byte → List Host.Cell
  | [], a, b => if b = d then [] else [(a, b)]
  | (k, v) :: rest, a, b =>
    if k < a then (k, v) :: memWrite d rest a b
    else if k = a then (if b = d then rest else (a, b) :: rest)
    else (if b = d then (k, v) :: rest else (a, b) :: (k, v) :: rest)

/-- Every listed address is at least `lo`, the addresses rise strictly, and no entry equals `d`. -/
def memWfFrom (d : Byte) : Nat → List Host.Cell → Bool
  | _, [] => true
  | lo, (k, v) :: rest => decide (lo ≤ k) && v != d && memWfFrom d (k + 1) rest

/-- The canonical form of a memory. -/
def Memory.wf (d : Byte) (m : List Host.Cell) : Bool := memWfFrom d 0 m

/-- Bytes written at rising addresses from a. -/
def memWriteList (d : Byte) (m : List Host.Cell) : Nat → List Byte → List Host.Cell
  | _, [] => m
  | a, b :: bs => memWriteList d (memWrite d m a b) (a + 1) bs

/-- n bytes read at rising addresses from a. -/
def memReadList (d : Byte) (m : List Host.Cell) (a : Nat) : Nat → List Byte
  | 0 => []
  | n + 1 => memRead d m a :: memReadList d m (a + 1) n

/-- Addresses a to a + n - 1 returned to what an unlisted address reads as. -/
def memClear (m : List Host.Cell) (a n : Nat) : List Host.Cell :=
  m.filter fun c => decide (c.1 < a) || decide (a + n ≤ c.1)

/-! ### CRC-32 of R68 and R136 -/

/-- One bit of the reflected CRC-32 register with polynomial 0x04C1_1DB7. -/
def crcBit (r : BitVec 32) : BitVec 32 :=
  if r.getLsbD 0 then (r >>> 1) ^^^ 0xEDB88320#32 else r >>> 1

/-- One byte through the CRC-32 register. -/
def crcByte (r : BitVec 32) (b : Byte) : BitVec 32 :=
  crcBit (crcBit (crcBit (crcBit (crcBit (crcBit (crcBit (crcBit (r ^^^ b.setWidth 32))))))))

/-- CRC-32 of bytes: reflected, initial value and final exclusive-or 0xFFFF_FFFF (R68). -/
def crc32 (bs : List Byte) : Word := bs.foldl crcByte 0xFFFFFFFF#32 ^^^ 0xFFFFFFFF#32

/-- The CRC word of a packet on an external port: over its bytes in wire order (R68, R69). -/
def crcOfWords (ws : List Word) : Word := crc32 (unpackBE ws)

/-! ### Times in units of 2^-32 s -/

/-- Milliseconds in fraction units, rounded down. -/
def msU (ms : Nat) : Nat := ms * 2 ^ 32 / 1000

/-- Microseconds in fraction units, rounded down. -/
def usU (us : Nat) : Nat := us * 2 ^ 32 / 1000000

/-- Microseconds in fraction units, rounded up. -/
def usUp (us : Nat) : Nat := ceilDiv (us * 2 ^ 32) 1000000

/-- Fraction units in µs, rounded down. -/
def inUs (u : Nat) : Nat := u * 1000000 / 2 ^ 32

/-- Seconds in fraction units. -/
def secU (sec : Nat) : Nat := sec * 2 ^ 32

/-- Whether a 64-bit time `since` lies at least `d` units before `now`. -/
def elapsedBy (since now : DWord) (d : Nat) : Bool := decide (since.toNat + d ≤ now.toNat)

/-- x / d rounded to the nearest integer. -/
def roundDiv (x : Int) (d : Nat) : Int := (2 * x + d) / (2 * d)

end Sys2Proof.Machine
end

