-- ==== Sys2Proof/Machine/Crypto.lean ====
section
/-! DEFINITION. The standard algorithms of the security blocks (R309, R316, R334): AES (FIPS 197) and its modes,
CMAC, CCM, key wrap, the KDF, SHA-256 (FIPS 180-4), HMAC, and ECDSA and ECDH over P-256 (FIPS 186-5, RFC 6979). -/

namespace Sys2Proof.Machine
open Sys2Proof

/-- The S-box of FIPS 197, by row. -/
def sboxTable : List Byte :=
  [0x63#8, 0x7C#8, 0x77#8, 0x7B#8, 0xF2#8, 0x6B#8, 0x6F#8, 0xC5#8, 0x30#8, 0x01#8, 0x67#8, 0x2B#8, 0xFE#8, 0xD7#8, 0xAB#8, 0x76#8] ++
  [0xCA#8, 0x82#8, 0xC9#8, 0x7D#8, 0xFA#8, 0x59#8, 0x47#8, 0xF0#8, 0xAD#8, 0xD4#8, 0xA2#8, 0xAF#8, 0x9C#8, 0xA4#8, 0x72#8, 0xC0#8] ++
  [0xB7#8, 0xFD#8, 0x93#8, 0x26#8, 0x36#8, 0x3F#8, 0xF7#8, 0xCC#8, 0x34#8, 0xA5#8, 0xE5#8, 0xF1#8, 0x71#8, 0xD8#8, 0x31#8, 0x15#8] ++
  [0x04#8, 0xC7#8, 0x23#8, 0xC3#8, 0x18#8, 0x96#8, 0x05#8, 0x9A#8, 0x07#8, 0x12#8, 0x80#8, 0xE2#8, 0xEB#8, 0x27#8, 0xB2#8, 0x75#8] ++
  [0x09#8, 0x83#8, 0x2C#8, 0x1A#8, 0x1B#8, 0x6E#8, 0x5A#8, 0xA0#8, 0x52#8, 0x3B#8, 0xD6#8, 0xB3#8, 0x29#8, 0xE3#8, 0x2F#8, 0x84#8] ++
  [0x53#8, 0xD1#8, 0x00#8, 0xED#8, 0x20#8, 0xFC#8, 0xB1#8, 0x5B#8, 0x6A#8, 0xCB#8, 0xBE#8, 0x39#8, 0x4A#8, 0x4C#8, 0x58#8, 0xCF#8] ++
  [0xD0#8, 0xEF#8, 0xAA#8, 0xFB#8, 0x43#8, 0x4D#8, 0x33#8, 0x85#8, 0x45#8, 0xF9#8, 0x02#8, 0x7F#8, 0x50#8, 0x3C#8, 0x9F#8, 0xA8#8] ++
  [0x51#8, 0xA3#8, 0x40#8, 0x8F#8, 0x92#8, 0x9D#8, 0x38#8, 0xF5#8, 0xBC#8, 0xB6#8, 0xDA#8, 0x21#8, 0x10#8, 0xFF#8, 0xF3#8, 0xD2#8] ++
  [0xCD#8, 0x0C#8, 0x13#8, 0xEC#8, 0x5F#8, 0x97#8, 0x44#8, 0x17#8, 0xC4#8, 0xA7#8, 0x7E#8, 0x3D#8, 0x64#8, 0x5D#8, 0x19#8, 0x73#8] ++
  [0x60#8, 0x81#8, 0x4F#8, 0xDC#8, 0x22#8, 0x2A#8, 0x90#8, 0x88#8, 0x46#8, 0xEE#8, 0xB8#8, 0x14#8, 0xDE#8, 0x5E#8, 0x0B#8, 0xDB#8] ++
  [0xE0#8, 0x32#8, 0x3A#8, 0x0A#8, 0x49#8, 0x06#8, 0x24#8, 0x5C#8, 0xC2#8, 0xD3#8, 0xAC#8, 0x62#8, 0x91#8, 0x95#8, 0xE4#8, 0x79#8] ++
  [0xE7#8, 0xC8#8, 0x37#8, 0x6D#8, 0x8D#8, 0xD5#8, 0x4E#8, 0xA9#8, 0x6C#8, 0x56#8, 0xF4#8, 0xEA#8, 0x65#8, 0x7A#8, 0xAE#8, 0x08#8] ++
  [0xBA#8, 0x78#8, 0x25#8, 0x2E#8, 0x1C#8, 0xA6#8, 0xB4#8, 0xC6#8, 0xE8#8, 0xDD#8, 0x74#8, 0x1F#8, 0x4B#8, 0xBD#8, 0x8B#8, 0x8A#8] ++
  [0x70#8, 0x3E#8, 0xB5#8, 0x66#8, 0x48#8, 0x03#8, 0xF6#8, 0x0E#8, 0x61#8, 0x35#8, 0x57#8, 0xB9#8, 0x86#8, 0xC1#8, 0x1D#8, 0x9E#8] ++
  [0xE1#8, 0xF8#8, 0x98#8, 0x11#8, 0x69#8, 0xD9#8, 0x8E#8, 0x94#8, 0x9B#8, 0x1E#8, 0x87#8, 0xE9#8, 0xCE#8, 0x55#8, 0x28#8, 0xDF#8] ++
  [0x8C#8, 0xA1#8, 0x89#8, 0x0D#8, 0xBF#8, 0xE6#8, 0x42#8, 0x68#8, 0x41#8, 0x99#8, 0x2D#8, 0x0F#8, 0xB0#8, 0x54#8, 0xBB#8, 0x16#8]

/-- The inverse S-box, by row. -/
def invSboxTable : List Byte :=
  [0x52#8, 0x09#8, 0x6A#8, 0xD5#8, 0x30#8, 0x36#8, 0xA5#8, 0x38#8, 0xBF#8, 0x40#8, 0xA3#8, 0x9E#8, 0x81#8, 0xF3#8, 0xD7#8, 0xFB#8] ++
  [0x7C#8, 0xE3#8, 0x39#8, 0x82#8, 0x9B#8, 0x2F#8, 0xFF#8, 0x87#8, 0x34#8, 0x8E#8, 0x43#8, 0x44#8, 0xC4#8, 0xDE#8, 0xE9#8, 0xCB#8] ++
  [0x54#8, 0x7B#8, 0x94#8, 0x32#8, 0xA6#8, 0xC2#8, 0x23#8, 0x3D#8, 0xEE#8, 0x4C#8, 0x95#8, 0x0B#8, 0x42#8, 0xFA#8, 0xC3#8, 0x4E#8] ++
  [0x08#8, 0x2E#8, 0xA1#8, 0x66#8, 0x28#8, 0xD9#8, 0x24#8, 0xB2#8, 0x76#8, 0x5B#8, 0xA2#8, 0x49#8, 0x6D#8, 0x8B#8, 0xD1#8, 0x25#8] ++
  [0x72#8, 0xF8#8, 0xF6#8, 0x64#8, 0x86#8, 0x68#8, 0x98#8, 0x16#8, 0xD4#8, 0xA4#8, 0x5C#8, 0xCC#8, 0x5D#8, 0x65#8, 0xB6#8, 0x92#8] ++
  [0x6C#8, 0x70#8, 0x48#8, 0x50#8, 0xFD#8, 0xED#8, 0xB9#8, 0xDA#8, 0x5E#8, 0x15#8, 0x46#8, 0x57#8, 0xA7#8, 0x8D#8, 0x9D#8, 0x84#8] ++
  [0x90#8, 0xD8#8, 0xAB#8, 0x00#8, 0x8C#8, 0xBC#8, 0xD3#8, 0x0A#8, 0xF7#8, 0xE4#8, 0x58#8, 0x05#8, 0xB8#8, 0xB3#8, 0x45#8, 0x06#8] ++
  [0xD0#8, 0x2C#8, 0x1E#8, 0x8F#8, 0xCA#8, 0x3F#8, 0x0F#8, 0x02#8, 0xC1#8, 0xAF#8, 0xBD#8, 0x03#8, 0x01#8, 0x13#8, 0x8A#8, 0x6B#8] ++
  [0x3A#8, 0x91#8, 0x11#8, 0x41#8, 0x4F#8, 0x67#8, 0xDC#8, 0xEA#8, 0x97#8, 0xF2#8, 0xCF#8, 0xCE#8, 0xF0#8, 0xB4#8, 0xE6#8, 0x73#8] ++
  [0x96#8, 0xAC#8, 0x74#8, 0x22#8, 0xE7#8, 0xAD#8, 0x35#8, 0x85#8, 0xE2#8, 0xF9#8, 0x37#8, 0xE8#8, 0x1C#8, 0x75#8, 0xDF#8, 0x6E#8] ++
  [0x47#8, 0xF1#8, 0x1A#8, 0x71#8, 0x1D#8, 0x29#8, 0xC5#8, 0x89#8, 0x6F#8, 0xB7#8, 0x62#8, 0x0E#8, 0xAA#8, 0x18#8, 0xBE#8, 0x1B#8] ++
  [0xFC#8, 0x56#8, 0x3E#8, 0x4B#8, 0xC6#8, 0xD2#8, 0x79#8, 0x20#8, 0x9A#8, 0xDB#8, 0xC0#8, 0xFE#8, 0x78#8, 0xCD#8, 0x5A#8, 0xF4#8] ++
  [0x1F#8, 0xDD#8, 0xA8#8, 0x33#8, 0x88#8, 0x07#8, 0xC7#8, 0x31#8, 0xB1#8, 0x12#8, 0x10#8, 0x59#8, 0x27#8, 0x80#8, 0xEC#8, 0x5F#8] ++
  [0x60#8, 0x51#8, 0x7F#8, 0xA9#8, 0x19#8, 0xB5#8, 0x4A#8, 0x0D#8, 0x2D#8, 0xE5#8, 0x7A#8, 0x9F#8, 0x93#8, 0xC9#8, 0x9C#8, 0xEF#8] ++
  [0xA0#8, 0xE0#8, 0x3B#8, 0x4D#8, 0xAE#8, 0x2A#8, 0xF5#8, 0xB0#8, 0xC8#8, 0xEB#8, 0xBB#8, 0x3C#8, 0x83#8, 0x53#8, 0x99#8, 0x61#8] ++
  [0x17#8, 0x2B#8, 0x04#8, 0x7E#8, 0xBA#8, 0x77#8, 0xD6#8, 0x26#8, 0xE1#8, 0x69#8, 0x14#8, 0x63#8, 0x55#8, 0x21#8, 0x0C#8, 0x7D#8]

/-- The constants of SHA-256 (FIPS 180-4). -/
def shaK : List Word :=
  [0x428A2F98#32, 0x71374491#32, 0xB5C0FBCF#32, 0xE9B5DBA5#32, 0x3956C25B#32, 0x59F111F1#32, 0x923F82A4#32, 0xAB1C5ED5#32] ++
  [0xD807AA98#32, 0x12835B01#32, 0x243185BE#32, 0x550C7DC3#32, 0x72BE5D74#32, 0x80DEB1FE#32, 0x9BDC06A7#32, 0xC19BF174#32] ++
  [0xE49B69C1#32, 0xEFBE4786#32, 0x0FC19DC6#32, 0x240CA1CC#32, 0x2DE92C6F#32, 0x4A7484AA#32, 0x5CB0A9DC#32, 0x76F988DA#32] ++
  [0x983E5152#32, 0xA831C66D#32, 0xB00327C8#32, 0xBF597FC7#32, 0xC6E00BF3#32, 0xD5A79147#32, 0x06CA6351#32, 0x14292967#32] ++
  [0x27B70A85#32, 0x2E1B2138#32, 0x4D2C6DFC#32, 0x53380D13#32, 0x650A7354#32, 0x766A0ABB#32, 0x81C2C92E#32, 0x92722C85#32] ++
  [0xA2BFE8A1#32, 0xA81A664B#32, 0xC24B8B70#32, 0xC76C51A3#32, 0xD192E819#32, 0xD6990624#32, 0xF40E3585#32, 0x106AA070#32] ++
  [0x19A4C116#32, 0x1E376C08#32, 0x2748774C#32, 0x34B0BCB5#32, 0x391C0CB3#32, 0x4ED8AA4A#32, 0x5B9CCA4F#32, 0x682E6FF3#32] ++
  [0x748F82EE#32, 0x78A5636F#32, 0x84C87814#32, 0x8CC70208#32, 0x90BEFFFA#32, 0xA4506CEB#32, 0xBEF9A3F7#32, 0xC67178F2#32]

/-- The initial hash value of SHA-256. -/
def shaInit : List Word :=
  [0x6A09E667#32, 0xBB67AE85#32, 0x3C6EF372#32, 0xA54FF53A#32, 0x510E527F#32, 0x9B05688C#32, 0x1F83D9AB#32, 0x5BE0CD19#32]

/-! ### Lists of bytes -/

/-- The exclusive-or of two byte strings, as long as the shorter. -/
def xorBytes : List Byte → List Byte → List Byte
  | a :: as, b :: bs => (a ^^^ b) :: xorBytes as bs
  | _, _ => []

/-- Pieces of n items, the last perhaps shorter; `fuel` is at least the number of items. -/
def chunksAux {α : Type} (n : Nat) : Nat → List α → List (List α)
  | 0, _ => []
  | _ + 1, [] => []
  | fuel + 1, xs => xs.take n :: chunksAux n fuel (xs.drop n)

def chunks {α : Type} (n : Nat) (xs : List α) : List (List α) := chunksAux n xs.length xs

/-- Zero bytes. -/
def zeros (n : Nat) : List Byte := List.replicate n 0#8

/-- Bytes padded with zeros to a multiple of 16. -/
def pad16 (bs : List Byte) : List Byte := bs ++ zeros ((16 - bs.length % 16) % 16)

/-! ### AES (FIPS 197) -/

def sbox (b : Byte) : Byte := sboxTable.getD b.toNat 0#8
def invSbox (b : Byte) : Byte := invSboxTable.getD b.toNat 0#8

/-- Multiplication by x in GF(2^8). -/
def xtime (b : Byte) : Byte := if b.getLsbD 7 then (b <<< 1) ^^^ 0x1B#8 else b <<< 1

/-- Multiplication in GF(2^8) by a small constant. -/
def gmul (k : Nat) (b : Byte) : Byte :=
  let b2 := xtime b
  let b4 := xtime b2
  let b8 := xtime b4
  (if k % 2 = 1 then b else 0) ^^^ (if k / 2 % 2 = 1 then b2 else 0) ^^^ (if k / 4 % 2 = 1 then b4 else 0)
    ^^^ (if k / 8 % 2 = 1 then b8 else 0)

/-- A column times a circulant matrix whose first row is given. -/
def mixColumn (m : List Nat) (col : List Byte) : List Byte :=
  (List.range 4).map fun r =>
    (List.range 4).foldl (fun acc c => acc ^^^ gmul (m.getD ((c + 4 - r) % 4) 0) (col.getD c 0#8)) 0#8

/-- The block permuted by an index function. -/
def permute (f : Nat → Nat) (blk : List Byte) : List Byte := (List.range 16).map fun i => blk.getD (f i) 0#8

def shiftRows : List Byte → List Byte := permute fun i => (i + 4 * (i % 4)) % 16
def invShiftRows : List Byte → List Byte := permute fun i => (i + 12 * (i % 4)) % 16

/-- The key schedule's words, newest first (FIPS 197, 5.2). -/
def expandWords (nk : Nat) : Nat → Nat → Byte → List (List Byte) → List (List Byte)
  | 0, _, _, acc => acc
  | fuel + 1, i, rcon, acc =>
    let t := acc.headD []
    let old := acc.getD (nk - 1) []
    if i % nk = 0 then
      let u := (t.drop 1 ++ t.take 1).map sbox
      expandWords nk fuel (i + 1) (xtime rcon) (xorBytes old (xorBytes u [rcon, 0, 0, 0]) :: acc)
    else if 6 < nk && i % nk = 4 then expandWords nk fuel (i + 1) rcon (xorBytes old (t.map sbox) :: acc)
    else expandWords nk fuel (i + 1) rcon (xorBytes old t :: acc)

/-- The round keys, first to last: 11 for a 16-byte key, 15 for a 32-byte key. -/
def roundKeys (key : List Byte) : List (List Byte) :=
  let nk := key.length / 4
  let ws := expandWords nk (4 * (nk + 7) - nk) nk 0x01#8 (chunks 4 key).reverse
  (chunks 4 ws.reverse).map List.flatten

/-- One block encrypted. -/
def aesEnc (key blk : List Byte) : List Byte :=
  match roundKeys key with
  | [] => blk
  | k0 :: ks =>
    let mid := ks.dropLast.foldl (fun st k =>
      xorBytes ((chunks 4 (shiftRows (st.map sbox))).flatMap (mixColumn [2, 3, 1, 1])) k) (xorBytes blk k0)
    xorBytes (shiftRows (mid.map sbox)) (ks.getLastD [])

/-- One block decrypted. -/
def aesDec (key blk : List Byte) : List Byte :=
  match (roundKeys key).reverse with
  | [] => blk
  | k0 :: ks =>
    let mid := ks.dropLast.foldl (fun st k =>
      (chunks 4 (xorBytes ((invShiftRows st).map invSbox) k)).flatMap (mixColumn [14, 11, 13, 9])) (xorBytes blk k0)
    xorBytes ((invShiftRows mid).map invSbox) (ks.getLastD [])

/-! ### Modes (SP 800-38A) -/

/-- The block-wise modes: CBC encrypting and decrypting. -/
def cbcEnc (key : List Byte) : List (List Byte) → List Byte → List Byte × List Byte
  | [], iv => ([], iv)
  | b :: bs, iv =>
    let c := aesEnc key (xorBytes b iv)
    let r := cbcEnc key bs c
    (c ++ r.1, r.2)

def cbcDec (key : List Byte) : List (List Byte) → List Byte → List Byte × List Byte
  | [], iv => ([], iv)
  | b :: bs, iv =>
    let r := cbcDec key bs b
    (xorBytes (aesDec key b) iv ++ r.1, r.2)

/-- CFB-128; the feedback is the ciphertext. -/
def cfb (key : List Byte) (dec : Bool) : List (List Byte) → List Byte → List Byte × List Byte
  | [], iv => ([], iv)
  | b :: bs, iv =>
    let o := xorBytes b (aesEnc key iv)
    let r := cfb key dec bs (if dec then b else o)
    (o ++ r.1, r.2)

/-- OFB; the feedback is the cipher's output. -/
def ofb (key : List Byte) : List (List Byte) → List Byte → List Byte × List Byte
  | [], iv => ([], iv)
  | b :: bs, iv =>
    let k := aesEnc key iv
    let r := ofb key bs k
    (xorBytes b k ++ r.1, r.2)

/-- The counter block after this one: bytes 12 to 15 as a big-endian number (R312). -/
def nextCtr (blk : List Byte) : List Byte := blk.take 12 ++ bytesOfBE 4 ((natBE (blk.drop 12) + 1) % 2 ^ 32)

/-- CTR. -/
def ctr (key : List Byte) : List (List Byte) → List Byte → List Byte × List Byte
  | [], cb => ([], cb)
  | b :: bs, cb =>
    let r := ctr key bs (nextCtr cb)
    (xorBytes b (aesEnc key cb) ++ r.1, r.2)

/-! ### CMAC (SP 800-38B) -/

/-- Doubling in GF(2^128). -/
def dbl128 (blk : List Byte) : List Byte :=
  let n := natBE blk * 2
  bytesOfBE 16 (if 2 ^ 128 ≤ n then (n - 2 ^ 128) ^^^ 0x87 else n)

/-- CBC-MAC of whole blocks from a chaining value. -/
def cbcMac (key : List Byte) (bs : List (List Byte)) (x : List Byte) : List Byte :=
  bs.foldl (fun x b => aesEnc key (xorBytes x b)) x

/-- The last block of a CMAC, of 0 to 16 bytes, from the chaining value of those before it. -/
def cmacLast (key : List Byte) (x last : List Byte) : List Byte :=
  let k1 := dbl128 (aesEnc key (zeros 16))
  let b := if last.length = 16 then xorBytes last k1
    else xorBytes (pad16 (last ++ [0x80#8])) (dbl128 k1)
  aesEnc key (xorBytes x b)

/-- AES-CMAC of a message, 16 bytes. -/
def cmac (key msg : List Byte) : List Byte :=
  let n := (msg.length - 1) / 16
  cmacLast key (cbcMac key (chunks 16 (msg.take (16 * n))) (zeros 16)) (msg.drop (16 * n))

/-! ### CCM (SP 800-38C) -/

/-- The length encoding before the additional data. -/
def ccmPrefix (n : Nat) : List Byte :=
  if n = 0 then [] else if n < 0xFF00 then bytesOfBE 2 n else [0xFF#8, 0xFE#8] ++ bytesOfBE 4 n

/-- B0: flags, nonce and message length. -/
def ccmB0 (nonce : List Byte) (aad msg tag : Nat) : List Byte :=
  let q := 15 - nonce.length
  BitVec.ofNat 8 ((if aad = 0 then 0 else 64) + (tag - 2) / 2 * 8 + (q - 1)) :: nonce ++ bytesOfBE q msg

/-- Counter block i. -/
def ccmCtr (nonce : List Byte) (i : Nat) : List Byte :=
  let q := 15 - nonce.length
  BitVec.ofNat 8 (q - 1) :: nonce ++ bytesOfBE q i

/-- The keystream bytes from index j, n of them. -/
def ccmStream (key nonce : List Byte) (j n : Nat) : List Byte :=
  let b0 := j / 16
  (((List.range ((j + n + 15) / 16 - b0)).flatMap fun k => aesEnc key (ccmCtr nonce (b0 + k + 1))).drop (j % 16)).take n

/-- The whole tag of a message. -/
def ccmTag (key nonce aad msg : List Byte) (tag : Nat) : List Byte :=
  let a := if aad.isEmpty then [] else pad16 (ccmPrefix aad.length ++ aad)
  let x := cbcMac key (chunks 16 (ccmB0 nonce aad.length msg.length tag ++ a ++ pad16 msg)) (zeros 16)
  (xorBytes x (aesEnc key (ccmCtr nonce 0))).take tag

/-- CCM encryption: ciphertext and tag. -/
def ccmEnc (key nonce aad msg : List Byte) (tag : Nat) : List Byte × List Byte :=
  (xorBytes msg (ccmStream key nonce 0 msg.length), ccmTag key nonce aad msg tag)

/-- CCM decryption: the plaintext if the tag verifies. -/
def ccmDec (key nonce aad ct tag : List Byte) : Option (List Byte) :=
  let msg := xorBytes ct (ccmStream key nonce 0 ct.length)
  if ccmTag key nonce aad msg tag.length = tag then some msg else none

/-! ### Key wrap (SP 800-38F) -/

/-- One of the 6n steps of wrapping: the register A and the n half-blocks. -/
def wrapStep (kek : List Byte) (n : Nat) (st : List Byte × List (List Byte)) (t : Nat) : List Byte × List (List Byte) :=
  let i := (t - 1) % n
  let b := aesEnc kek (st.1 ++ st.2.getD i [])
  (bytesOfBE 8 (natBE (b.take 8) ^^^ t), st.2.set i (b.drop 8))

def keyWrap (kek key : List Byte) : List Byte :=
  let n := key.length / 8
  let r := (List.range (6 * n)).foldl (fun st k => wrapStep kek n st (k + 1)) (List.replicate 8 0xA6#8, chunks 8 key)
  r.1 ++ r.2.flatten

def unwrapStep (kek : List Byte) (n : Nat) (st : List Byte × List (List Byte)) (t : Nat) : List Byte × List (List Byte) :=
  let i := (t - 1) % n
  let b := aesDec kek (bytesOfBE 8 (natBE st.1 ^^^ t) ++ st.2.getD i [])
  (b.take 8, st.2.set i (b.drop 8))

/-- The unwrapped key, if the integrity check value is right. -/
def keyUnwrap (kek ct : List Byte) : Option (List Byte) :=
  let n := ct.length / 8 - 1
  let r := (List.range (6 * n)).foldl (fun st k => unwrapStep kek n st (6 * n - k)) (ct.take 8, chunks 8 (ct.drop 8))
  if r.1 = List.replicate 8 0xA6#8 then some r.2.flatten else none

/-- The counter-mode KDF of SP 800-108 with AES-CMAC (R334): `bytes` is 16 or 32. -/
def kdf (key label context : List Byte) (bytes : Nat) : List Byte :=
  let blk (i : Nat) := cmac key (bytesOfBE 4 i ++ label ++ [0#8] ++ context ++ bytesOfBE 4 (8 * bytes))
  (blk 1 ++ blk 2).take bytes

/-! ### SHA-256 (FIPS 180-4) -/

def rotr (n : Nat) (w : Word) : Word := w.rotateRight n

/-- The message schedule, newest first. -/
def shaSchedule : Nat → List Word → List Word
  | 0, ws => ws
  | n + 1, ws =>
    let w15 := ws.getD 14 0#32
    let w2 := ws.getD 1 0#32
    let s0 := rotr 7 w15 ^^^ rotr 18 w15 ^^^ (w15 >>> 3)
    let s1 := rotr 17 w2 ^^^ rotr 19 w2 ^^^ (w2 >>> 10)
    shaSchedule n ((ws.getD 15 0#32 + s0 + ws.getD 6 0#32 + s1) :: ws)

/-- One round on the working variables a to h. -/
def shaRound (v : List Word) (kw : Word × Word) : List Word :=
  match v with
  | [a, b, c, d, e, f, g, h] =>
    let t1 := h + (rotr 6 e ^^^ rotr 11 e ^^^ rotr 25 e) + ((e &&& f) ^^^ (~~~e &&& g)) + kw.1 + kw.2
    let t2 := (rotr 2 a ^^^ rotr 13 a ^^^ rotr 22 a) + ((a &&& b) ^^^ (a &&& c) ^^^ (b &&& c))
    [t1 + t2, a, b, c, d + t1, e, f, g]
  | _ => v

/-- One 64-byte block. -/
def shaBlock (h : List Word) (blk : List Byte) : List Word :=
  let ws := (shaSchedule 48 (packBE blk).reverse).reverse
  List.zipWith (fun a b => a + b) h ((List.zip shaK ws).foldl shaRound h)

/-- The end of a hash of `total` bytes: the bytes after the last whole block, padded. -/
def shaEnd (h : List Word) (rest : List Byte) (total : Nat) : BitVec 256 :=
  let p := rest ++ [0x80#8] ++ zeros ((119 - rest.length % 64) % 64) ++ bytesOfBE 8 (8 * total)
  mk256 ((chunks 64 p).foldl shaBlock h)

/-- SHA-256 of bytes. -/
def sha256 (msg : List Byte) : BitVec 256 :=
  let n := msg.length / 64 * 64
  shaEnd ((chunks 64 (msg.take n)).foldl shaBlock shaInit) (msg.drop n) msg.length

/-- HMAC-SHA-256. -/
def hmac (key msg : List Byte) : List Byte :=
  let k := key ++ zeros (64 - key.length)
  bytes256 (sha256 (k.map (fun b => b ^^^ 0x5C#8) ++ bytes256 (sha256 (k.map (fun b => b ^^^ 0x36#8) ++ msg))))

/-! ### P-256 -/

/-- The field's prime, the group's order, the curve's b and the base point. -/
def p256P : Nat := 0xFFFFFFFF00000001000000000000000000000000FFFFFFFFFFFFFFFFFFFFFFFF
def p256N : Nat := 0xFFFFFFFF00000000FFFFFFFFFFFFFFFFBCE6FAADA7179E84F3B9CAC2FC632551
def p256B : Nat := 0x5AC635D8AA3A93E7B3EBBD55769886BC651D06B0CC53B0F63BCE3C3E27D2604B
def p256G : Nat × Nat :=
  (0x6B17D1F2E12C4247F8BCE6E563A440F277037D812DEB33A0F4A13945D898C296,
   0x4FE342E2FE1A7F9B8EE7EB4A7C0F9E162BCE33576B315ECECBB6406837BF51F5)

/-- b^e mod m, square and multiply from the highest of n bits. -/
def powModBits (m b e : Nat) : Nat → Nat → Nat
  | 0, acc => acc
  | n + 1, acc => powModBits m b e n (if e.testBit n then acc * acc % m * b % m else acc * acc % m)

/-- The inverse modulo a prime m. -/
def invMod (m a : Nat) : Nat := powModBits m a (m - 2) 256 1

/-- A point of the curve, or the point at infinity. -/
abbrev Point := Option (Nat × Nat)

/-- The third point of the line of slope l through two points with these coordinates, reflected. -/
def chord (l x1 y1 x2 : Nat) : Nat × Nat :=
  let x := (l * l + 2 * p256P - x1 - x2) % p256P
  (x, (l * (x1 + p256P - x) + p256P - y1) % p256P)

/-- The sum of two points. -/
def addPt (a b : Point) : Point :=
  match a, b with
  | none, q => q
  | q, none => q
  | some (x1, y1), some (x2, y2) =>
    if x1 = x2 then
      (if (y1 + y2) % p256P = 0 then none
       else some (chord ((3 * x1 * x1 + 3 * p256P - 3) % p256P * invMod p256P (2 * y1 % p256P) % p256P) x1 y1 x2))
    else some (chord ((y2 + p256P - y1) * invMod p256P ((x2 + p256P - x1) % p256P) % p256P) x1 y1 x2)

/-- k times a point, from the highest of n bits. -/
def mulPt (k : Nat) (p : Point) : Nat → Point → Point
  | 0, acc => acc
  | n + 1, acc =>
    let d := addPt acc acc
    mulPt k p n (if k.testBit n then addPt d p else d)

/-- k times a point. -/
def scalarMul (k : Nat) (p : Point) : Point := mulPt k p 256 none

/-- A public key lies on the curve; the coordinates of the point at infinity cannot be given (R316). -/
def onCurve (x y : Nat) : Bool :=
  decide (x < p256P) && decide (y < p256P) &&
  decide (y * y % p256P = (x * x % p256P * x + (p256P - 3) * x + p256B) % p256P)

/-- The public key of a private key. -/
def publicOf (d : BitVec 256) : BitVec 256 × BitVec 256 :=
  match scalarMul d.toNat (some p256G) with
  | some (x, y) => (BitVec.ofNat 256 x, BitVec.ofNat 256 y)
  | none => (0, 0)

/-- The ECDH shared secret: the x-coordinate (R316). -/
def ecdh (d : BitVec 256) (peer : BitVec 256 × BitVec 256) : BitVec 256 :=
  match scalarMul d.toNat (some (peer.1.toNat, peer.2.toNat)) with
  | some (x, _) => BitVec.ofNat 256 x
  | none => 0

/-- An ECDSA signature with a given k, if k serves. -/
def signWith (d z k : Nat) : Option (BitVec 256 × BitVec 256) :=
  match scalarMul k (some p256G) with
  | none => none
  | some (x, _) =>
    let r := x % p256N
    let sg := invMod p256N k * ((z + r * d) % p256N) % p256N
    if r = 0 || sg = 0 then none else some (BitVec.ofNat 256 r, BitVec.ofNat 256 sg)

/-- The candidates for k of RFC 6979, tried in turn. -/
def signTry (d z : Nat) : Nat → List Byte → List Byte → BitVec 256 × BitVec 256
  | 0, _, _ => (0, 0)
  | n + 1, key, v =>
    let v1 := hmac key v
    let k := natBE v1
    match (if 0 < k && k < p256N then signWith d z k else none) with
    | some rs => rs
    | none =>
      let key' := hmac key (v1 ++ [0#8])
      signTry d z n key' (hmac key' v1)

/-- ECDSA over a digest with k per RFC 6979 (R316). -/
def ecdsaSign (d : BitVec 256) (digest : BitVec 256) : BitVec 256 × BitVec 256 :=
  let z := digest.toNat % p256N
  let x := bytes256 d ++ bytesOfBE 32 z
  let v0 := List.replicate 32 0x01#8
  let k1 := hmac (zeros 32) (v0 ++ [0x00#8] ++ x)
  let v1 := hmac k1 v0
  let k2 := hmac k1 (v1 ++ [0x01#8] ++ x)
  signTry d.toNat z 64 k2 (hmac k2 v1)

/-- ECDSA verification. -/
def ecdsaVerify (q : BitVec 256 × BitVec 256) (digest r sg : BitVec 256) : Bool :=
  let r' := r.toNat
  let s' := sg.toNat
  if r' = 0 || p256N ≤ r' || s' = 0 || p256N ≤ s' then false
  else
    let w := invMod p256N s'
    match addPt (scalarMul (digest.toNat * w % p256N) (some p256G))
        (scalarMul (r' * w % p256N) (some (q.1.toNat, q.2.toNat))) with
    | some (x, _) => decide (x % p256N = r')
    | none => false

/-- A signature over a digest by a public key that lies on the curve. -/
def verifies (q : BitVec 256 × BitVec 256) (digest r sg : BitVec 256) : Bool :=
  onCurve q.1.toNat q.2.toNat && ecdsaVerify q digest r sg

/-- The owner key's hash: SHA-256 of X then Y (R407). -/
def keyHash (q : BitVec 256 × BitVec 256) : BitVec 256 := sha256 (bytes256 q.1 ++ bytes256 q.2)

/-- Two 256-bit values from 16 words. -/
def pair256 (ws : List Word) : BitVec 256 × BitVec 256 := (mk256 (ws.take 8), mk256 ((ws.drop 8).take 8))

/-- The 16 words of two 256-bit values. -/
def words512 (q : BitVec 256 × BitVec 256) : List Word := words256 q.1 ++ words256 q.2

end Sys2Proof.Machine
end

