-- ==== Sys2Proof/Machine/Ops.lean ====
section
/-! DEFINITION. The operations that every family uses: ports and Lanes (R63-R79), events (R81-R85), responses and
handles (R66-R73), the acceptance of commands (R70, R71), free values and the facts of a variant (R2). -/

namespace Sys2Proof.Machine
open Sys2Proof

/-- The outcome type of the meanings. -/
abbrev Out := Host.Outcome State Fault Refusal

/-! ### Status codes (R97) -/

/-- The status codes: these and no others (R97). -/
inductive Status where
  | ok | accepted | badOpcode | badLength | badParam | badCrc | badState | busy | domainOff | domainBusy
  | brownoutHold | late | budgetExhausted | gateNeverOpen | meterRed | queueFull | authFail | replay
  | counterExhausted | locked | denied | keyAbsent | flashProtected | flashBusy | verifyFail | noAck | expired
  | noEntry | tableFull | directoryFault | updateRejected | rollbackRefused
  deriving DecidableEq, Repr

/-- The number of a status code (R97). -/
def statusCode : Status → Nat
  | .ok => 0x0000 | .accepted => 0x0001 | .badOpcode => 0x0100 | .badLength => 0x0101 | .badParam => 0x0102
  | .badCrc => 0x0103 | .badState => 0x0104 | .busy => 0x0200 | .domainOff => 0x0201 | .domainBusy => 0x0202
  | .brownoutHold => 0x0203 | .late => 0x0300 | .budgetExhausted => 0x0301 | .gateNeverOpen => 0x0302
  | .meterRed => 0x0303 | .queueFull => 0x0304 | .authFail => 0x0400 | .replay => 0x0401
  | .counterExhausted => 0x0402 | .locked => 0x0403 | .denied => 0x0404 | .keyAbsent => 0x0405
  | .flashProtected => 0x0500 | .flashBusy => 0x0501 | .verifyFail => 0x0502 | .noAck => 0x0600
  | .expired => 0x0601 | .noEntry => 0x0602 | .tableFull => 0x0603 | .directoryFault => 0x0604
  | .updateRejected => 0x0700 | .rollbackRefused => 0x0701

/-! ### The variant (R2) -/

/-- The part is a KR9620. -/
def State.is20 (s : State) : Bool := s.power.variant = 0x20#8

/-- The part is a KR9640. -/
def State.is40 (s : State) : Bool := s.power.variant = 0x40#8

/-- The part is a KR9680. -/
def State.is80 (s : State) : Bool := !s.is20 && !s.is40

/-- Choose by variant: KR9620, KR9640, KR9680. -/
def State.byVariant {α : Type} (s : State) (a b c : α) : α := if s.is20 then a else if s.is40 then b else c

/-- Application SRAM banks present (R2). -/
def State.banks (s : State) : Nat := s.byVariant 6 12 16

/-- Domains present on the part: the KR9620 lacks BLVD (R2, R3, R444). -/
def State.present (s : State) : BitVec 12 := s.byVariant 0xBFF#12 0xFFF#12 0xFFF#12

/-- Link-table entries (R2). -/
def State.linkCapacity (s : State) : Nat := s.byVariant 256 2048 16384

/-- Bytes of the Frame Store (R2). -/
def State.storeSize (s : State) : Nat := s.byVariant 32768 131072 262144

/-- Boulevard contexts and cancellation pairs (R13). -/
def State.ctxCount (s : State) : Nat := s.byVariant 0 16 64
def State.pairCount (s : State) : Nat := s.byVariant 0 2 8

/-- Offset of the link save area in application SRAM and its first bank (R18). -/
def State.saveArea (s : State) : Nat := s.byVariant 0x58000 0x9C000 0xFC000
def State.saveBanks (s : State) : BitVec 16 := s.byVariant 0x0020#16 0x0E00#16 0x8000#16

/-- The banks present, as RETAIN_SET numbers them (R430). -/
def State.bankMask (s : State) : BitVec 16 := s.byVariant 0x003F#16 0x0FFF#16 0xFFFF#16

/-- Flash sectors in all, and in one bank (R389). -/
def State.sectors (s : State) : Nat := s.byVariant 256 512 512
def State.bankSectors (s : State) : Nat := s.byVariant 120 248 248

/-- Domain numbers (R420). -/
def dKERB : Nat := 1
def dFLASH : Nat := 2
def dLINK : Nat := 3
def dAPP : Nat := 4
def dPERI : Nat := 5
def dCRYPTO : Nat := 6
def dXMEM : Nat := 7
def dRFFE : Nat := 8
def dALLEY : Nat := 9
def dBLVD : Nat := 10
def dOFDM : Nat := 11

/-- Domain n is on. -/
def State.on (s : State) (n : Nat) : Bool := s.power.domains.getLsbD n

/-- Domain n is on and usable (R422). -/
def State.isUsable (s : State) (n : Nat) : Bool := s.power.domains.getLsbD n && s.power.usable.getLsbD n

/-- The device is in run, BOOTED placed (R417), with the Plaza open to commands. -/
def State.inRun (s : State) : Bool := s.power.phase = .run

/-- The device runs: from BOOTED until t0 of a stop entry, when the host has taken the OK of STOP_ENTER (R80, R428).
Between that acceptance and t0 the Plaza takes no command and link firmware begins nothing (R427), and all else runs on. -/
def State.awake (s : State) : Bool := s.inRun || s.power.phase = .entering

/-- Link firmware is parked, or the new one is adopting the record (R12, R462). -/
def State.parked (s : State) : Bool := match s.upd.hand with | some h => h.phase ≠ .record | none => false

/-- Link firmware runs. -/
def State.fwRun (s : State) : Bool := s.inRun && !s.parked

/-- Opcodes that the Plaza executes in hardware; it forwards every other one to link firmware (R12). -/
def inHardware (code : Nat) : Bool :=
  code = 0x001 || code = 0x004 || code / 256 = 1 || code / 256 = 2 || code = 0x40A || code / 256 = 8 ||
  [0x701, 0x703, 0x704, 0x708, 0x709, 0x70A, 0x70B].contains code

/-- The lifecycle state: the number of OTP bits set, each by majority of its three copies (R322, R407). -/
def otpWord (s : State) (i : Nat) : Word := ((s.flash.otp.find? fun e => e.1 = i).map Prod.snd).getD 0#32

def majority (w : Word) (i : Nat) : Bool :=
  (bitAt w i && bitAt w (8 + i)) || (bitAt w i && bitAt w (16 + i)) || (bitAt w (8 + i) && bitAt w (16 + i))

def State.lifecycle (s : State) : Lifecycle :=
  let w := otpWord s 0
  match b2n (majority w 0) + b2n (majority w 1) + b2n (majority w 2) with
  | 0 => .blank | 1 => .develop | 2 => .secured | _ => .retired

def lifecycleCode : Lifecycle → Nat
  | .blank => 0 | .develop => 1 | .secured => 2 | .retired => 3

/-- The part's EUI-64 (R407). -/
def State.eui (s : State) : DWord := mk64 (otpWord s 4) (otpWord s 5)

/-- A 256-bit OTP field that begins at word i, its first byte in [7:0] of that word (R407): DEVICE_SEED 8,
VENDOR_ROOT_HASH 16, OWNER_ROOT_HASH 24, PASSWORD_HASH 32. -/
def otpHash (s : State) (i : Nat) : BitVec 256 :=
  BitVec.ofNat 256 (natBE (unpackLE ((List.range 8).map fun k => otpWord s (i + k))))

/-! ### Free values -/

/-- The next free word (log 5). -/
def drawWord (s : State) : Word × State := (Config.freeWord s.free, { s with free := s.free + 1 })

/-- The next n free words. -/
def drawWords : Nat → State → List Word × State
  | 0, s => ([], s)
  | n + 1, s =>
    let r := drawWord s
    let q := drawWords n r.2
    (r.1 :: q.1, q.2)

/-- The next free truth value. -/
def drawBool (s : State) : Bool × State := (Config.freeBool s.free, { s with free := s.free + 1 })

/-- n words of DRBG output: one request, reseeded after every 2^16 (R317). -/
def drbgWords (n : Nat) (s : State) : List Word × State :=
  let r := drawWords n s
  (r.1, { r.2 with sec.drbgCount := if s.sec.drbgCount + 1 < 65536 then s.sec.drbgCount + 1 else 0,
                   sec.lastRandom := r.1.getLastD s.sec.lastRandom })

/-! ### Ports -/

/-- The number of a port (R247): 0 host SPI, 1 host UART, 2 mailbox. -/
def portIdx : PortId → Fin 3
  | .spi => 0 | .uart => 1 | .mbx => 2

/-- The port. -/
def State.port (s : State) (p : PortId) : Port := s.plaza.ports[portIdx p]

/-- The state with a port replaced. -/
def State.setPort (s : State) (p : PortId) (q : Port) : State :=
  { s with plaza.ports := s.plaza.ports.set (portIdx p) q }

/-- An external port carries CRC words (R68). -/
def isExternal (p : PortId) : Bool := p ≠ .mbx

/-- Whether a port is a host port: the external ports, or the mailbox when the application core is host (R64). -/
def State.isHostPort (s : State) (p : PortId) : Bool :=
  match p with
  | .mbx => s.flash.hostApp
  | _ => !s.flash.hostApp

/-- HOST_RDY (R91): the ports are initialised and VIO is present. -/
def State.hostRdy (s : State) : Bool := s.plaza.rdy && s.power.vio

/-- COUNT of a packet's word 0 (R66). -/
def countOf (w : Word) : Nat := fld w 9 0

/-! ### Lanes (R75, R76) -/

/-- Word 0 of a packet (R66). -/
def header (cls code tag count : Nat) : Word := W (cls * 2 ^ 28 + code * 2 ^ 16 + tag * 2 ^ 10 + count)

/-- A Lane after its stalled words have moved into the free stages, with the tags they freed and the end-of-packet
strobes (R75-R77). -/
def fillLane : List (Word × Option (BitVec 6)) → Lane → Lane × List (BitVec 6) × Nat
  | [], l => ({ l with waiting := [] }, [], 0)
  | (w, t) :: rest, l =>
    if l.stages.length < 64 then
      let left := if l.prod = 0 then countOf w else l.prod - 1
      let l' := { l with stages := l.stages ++ [w], prod := left,
                         complete := if left = 0 then l.complete + 1 else l.complete }
      let r := fillLane rest l'
      (r.1, t.toList ++ r.2.1, r.2.2 + (if left = 0 then 1 else 0))
    else ({ l with waiting := (w, t) :: rest }, [], 0)

/-- The Lane is ready: a whole packet, or 64 words (R76). -/
def Lane.ready (l : Lane) : Bool := decide (0 < l.complete) || decide (64 ≤ l.stages.length)

/-- The head word taken by the consumer, and whether it ended a packet (R75, R76). -/
def takeLane (l : Lane) : Option (Word × Lane × Bool) :=
  match l.stages with
  | [] => none
  | w :: ws =>
    let cur := if l.cursor = 0 then countOf w else l.cursor - 1
    let ended := decide (cur = 0)
    some (w, { l with stages := ws, cursor := cur, out := l.out + 1, complete := if ended then l.complete - 1 else l.complete },
      ended)

/-- The mailbox notices of Lane index i, which held `before` words: bit i per strobe, bit 8 + i when it reaches 64 words with
no whole packet (R93). -/
def mbxNotice (i : Nat) (strobes before : Nat) (l : Lane) (stat : BitVec 13) : BitVec 13 :=
  let a := if 0 < strobes then stat ||| (1#13 <<< i) else stat
  if before < 64 && l.stages.length = 64 && l.complete = 0 then a ||| (1#13 <<< (8 + i)) else a

/-! ### Command-in (R71, R75) -/

/-- Words of command-in not yet taken by the Plaza. -/
def CmdIn.have (c : CmdIn) : List Word := c.taken ++ c.stages

/-- CMD_FREE (R86). -/
def CmdIn.free (c : CmdIn) : Nat := 64 - c.stages.length

/-- Commands outstanding on all ports (R71). -/
def outstanding (s : State) : Nat :=
  (s.port .spi).tags.length + (s.port .uart).tags.length + (s.port .mbx).tags.length

/-- A packet that cannot be whole in 64 stages is begun by the Plaza as its words arrive (R13, R71). -/
def beginLong (ext : Bool) (room : Bool) (c : CmdIn) : CmdIn :=
  match c.have with
  | [] => c
  | w :: _ =>
    if room && decide (64 < countOf w + 1 + b2n ext) then
      let n := (countOf w + 1 + b2n ext) - c.taken.length
      { c with taken := c.taken ++ c.stages.take n, stages := c.stages.drop n }
    else c

/-- One word enters command-in, and the packet it belongs to advances (R66, R71, R75). `crc`: a CRC word follows each
packet; `room`: the Plaza takes packets of the port. -/
def CmdIn.accept (crc room : Bool) (w : Word) (c : CmdIn) : CmdIn :=
  let left := if c.got = 0 then countOf w + b2n crc else c.left - 1
  beginLong crc room { c with stages := c.stages ++ [w], got := if left = 0 then 0 else c.got + 1, left }

/-- Whether the Plaza takes packets of a port at all: in run, HOST_RDY high for an external port, APP on for the mailbox, and
fewer than 64 commands outstanding (R71, R91, R427). -/
def plazaRoom (p : PortId) (s : State) : Bool :=
  s.inRun && decide (outstanding s < 64) && (if isExternal p then s.hostRdy else s.on dAPP)

/-- A store to MBX_CMD that holds the bus completes once a stage is free (R94). -/
def settleHold (s : State) : State :=
  match s.plaza.mbxHold with
  | some w =>
    let q := s.port .mbx
    if q.cmd.stages.length < 64 then
      { s.setPort .mbx { q with cmd := q.cmd.accept false (plazaRoom .mbx s) w } with plaza.mbxHold := none }
    else s
  | none => s

/-- A long packet at the head of a port's command-in is begun once the Plaza can take it, which frees stages (R13, R71). -/
def beginPort (p : PortId) (s : State) : State :=
  let q := s.port p
  s.setPort p { q with cmd := beginLong (isExternal p) (plazaRoom p s) q.cmd }

/-- A command has completed: packets that waited for one of the 64 places begin (R13, R71). -/
def beginPorts (s : State) : State := settleHold (beginPort .mbx (beginPort .uart (beginPort .spi s)))

/-- The time at which the OK response that a warm reset follows was placed (R95). -/
def stampReset (p : PortId) (l : Lane) (s : State) : State :=
  match s.plaza.resetDue with
  | some d =>
    if d.port = p && d.placed.isNone && decide (d.upTo ≤ l.out + l.stages.length) then
      { s with plaza.resetDue := some { d with placed := some s.elapsed.now } }
    else s
  | none => s

/-- Let the stalled words of Lane index i of a port move in; a tag that they free lets a waiting packet begin. -/
def settleLane (p : PortId) (i : Fin 5) (s : State) : State :=
  let q := s.port p
  let before := q.lanes[i].stages.length
  let r := fillLane q.lanes[i].waiting q.lanes[i]
  let s1 := s.setPort p { q with lanes := q.lanes.set i r.1, tags := q.tags.filter fun t => !(r.2.1.contains t) }
  let s2 := if p = .mbx then { s1 with plaza.mbxIntstat := mbxNotice i.val r.2.2 before r.1 s1.plaza.mbxIntstat } else s1
  let s3 := if i.val = 0 then stampReset p r.1 s2 else s2
  if r.2.1.isEmpty then s3 else beginPorts s3

/-- A producer writes words to Lane index i of a port; words that find it full wait (R77). -/
def produce (p : PortId) (i : Fin 5) (ws : List (Word × Option (BitVec 6))) (s : State) : State :=
  let q := s.port p
  let l := q.lanes[i]
  settleLane p i (s.setPort p { q with lanes := q.lanes.set i { l with waiting := l.waiting ++ ws } })

/-- Lane indexes: LANE - 1 (R74). -/
def laneResp : Fin 5 := 0
def laneEvt : Fin 5 := 1
def laneRxHigh : Fin 5 := 2
def laneRxLow : Fin 5 := 3
def laneDiag : Fin 5 := 4

/-! ### Events (R81-R84) -/

/-- An EVENTS_LOST packet, whose place is held apart from the 256 (R82). -/
def isEventsLost (pkt : List Word) : Bool := fld (pkt.getD 0 0#32) 27 16 = 0x0C2

/-- Backlog places that are free and not reserved (R82). -/
def freePlaces (q : Port) : Nat := 256 - q.backlog.countP (fun pkt => !isEventsLost pkt) - q.reserved

/-- EVENTS_LOST is placed ahead of later events once a place is free; it takes none of the 256 (R82). -/
def placeLost (p : PortId) (s : State) : State :=
  let q := s.port p
  if 0 < q.lostCount && 0 < freePlaces q then
    let pkt := [header 2 0x0C2 0 2, W q.lostCount, q.lostFirst.setWidth 32]
    let q' := { q with lostCount := 0, lostFirst := 0 }
    if q.backlog.isEmpty && q.lanes[laneEvt].waiting.isEmpty && decide (q.lanes[laneEvt].stages.length + 3 ≤ 64) then
      produce p laneEvt (pkt.map fun w => (w, none)) (s.setPort p q')
    else s.setPort p { q' with backlog := q.backlog ++ [pkt] }
  else s

/-- An event packet enters a port's event Lane if it finds room there and no earlier event waits; otherwise it waits in
the backlog, or is discarded and counted (R82). `due`: a place is held for it. An event that finds some free stages but too few
waits whole in the backlog (DESIGN CHOICE, log 68). -/
def placeEvent (p : PortId) (pkt : List Word) (due : Bool) (s : State) : State :=
  let q := s.port p
  if q.backlog.isEmpty && q.lanes[laneEvt].waiting.isEmpty
      && decide (q.lanes[laneEvt].stages.length + pkt.length ≤ 64) then
    produce p laneEvt (pkt.map fun w => (w, none)) s
  else if due || 0 < freePlaces q then s.setPort p { q with backlog := q.backlog ++ [pkt] }
  else
    let code : BitVec 12 := BitVec.ofNat 12 (fld (pkt.getD 0 0#32) 27 16)
    s.setPort p { q with lostFirst := if q.lostCount = 0 then code else q.lostFirst, lostCount := q.lostCount + 1 }

/-- The packet of an event (R66). -/
def eventPacket (code : Nat) (body : List Word) : List Word := header 2 code 0 body.length :: body

/-- The latest body of a code that is pending over stop, kept by rising code (R83). -/
def setPending (code : BitVec 12) (body : List Word) : List (BitVec 12 × List Word) → List (BitVec 12 × List Word)
  | [] => [(code, body)]
  | (c, b) :: rest =>
    if c = code then (code, body) :: rest
    else if code.toNat < c.toNat then (code, body) :: (c, b) :: rest
    else (c, b) :: setPending code body rest

/-- Whether a port takes events: the mailbox takes none while APP is off (R65). -/
def takesEvents (s : State) (p : PortId) : Bool := p ≠ .mbx || s.on dAPP

/-- An event placed on a port whose mask enables it (R81). -/
def raiseOn (p : PortId) (code : Nat) (body : List Word) (s : State) : State :=
  if takesEvents s p && (s.port p).mask.getLsbD code then placeEvent p (eventPacket code body) false s else s

/-- An event is raised: on each port that enables it in run, as a pending bit from stop entry to wake (R81, R83). -/
def raise (code : Nat) (body : List Word) (s : State) : State :=
  if s.power.phase = .stop || s.power.phase = .entering then
    { s with plaza.pendingEvents := setPending (BitVec.ofNat 12 code) body s.plaza.pendingEvents }
  else raiseOn .mbx code body (raiseOn .uart code body (raiseOn .spi code body s))

/-- An event that goes to every port and cannot be masked (R81). -/
def raiseAll (code : Nat) (body : List Word) (s : State) : State :=
  let one (p : PortId) (s : State) := if takesEvents s p then placeEvent p (eventPacket code body) false s else s
  one .mbx (one .uart (one .spi s))

/-! ### Responses and handles (R66, R67, R72) -/

/-- A command being executed: where it came from, its code and its parameter words. -/
structure Cmd where
  port : PortId
  tag : BitVec 6
  code : Nat
  ps : List Word
  deriving DecidableEq, Repr

/-- A response packet (R66, R67). -/
def responsePacket (code : Nat) (tag : BitVec 6) (st : Status) (more clash : Bool) (res : List Word) : List Word :=
  header 1 code tag.toNat (1 + res.length) :: W (statusCode st + b2n more * 2 ^ 16 + b2n clash * 2 ^ 17) :: res

/-- Words with a tag that the last of them frees. -/
def freeing (t : BitVec 6) : List Word → List (Word × Option (BitVec 6))
  | [] => []
  | [w] => [(w, some t)]
  | w :: ws => (w, none) :: freeing t ws

/-- The final response of an outstanding command, which frees its tag when it is placed (R70, R71). -/
def finish (c : Cmd) (st : Status) (res : List Word) (s : State) : State :=
  produce c.port laneResp (freeing c.tag (responsePacket c.code c.tag st false false res)) s

/-- A response that does not end its command: a segment (R73). -/
def segment (c : Cmd) (res : List Word) (s : State) : State :=
  produce c.port laneResp ((responsePacket c.code c.tag .ok true false res).map fun w => (w, none)) s

/-- A refusal of a packet that is not outstanding (R70 steps 1 to 5, R88). -/
def refuseUnseen (p : PortId) (code : Nat) (tag : BitVec 6) (st : Status) (clash : Bool) (s : State) : State :=
  produce p laneResp ((responsePacket code tag st false clash []).map fun w => (w, none)) s

/-- The first handle from h on that is neither 0 nor held (R72). -/
def freeHandle (used : List (BitVec 16)) : Nat → BitVec 16 → BitVec 16
  | 0, h => h
  | n + 1, h => if h = 0#16 || used.contains h then freeHandle used n (h + 1) else h

/-- Whether an operation can be accepted: a backlog place is free for its completing event (R82). -/
def canAccept (p : PortId) (s : State) : Bool := decide (0 < freePlaces (s.port p))

/-- A handle is assigned and a backlog place reserved (R72, R82). -/
def takeHandle (p : PortId) (s : State) : BitVec 16 × State :=
  let q := s.port p
  let h := freeHandle q.handles (q.handles.length + 2) q.nextHandle
  (h, s.setPort p { q with handles := h :: q.handles, nextHandle := h + 1, reserved := q.reserved + 1 })

/-- The ACCEPTED response with its handle (R72). -/
def respondAccepted (c : Cmd) (h : BitVec 16) (s : State) : State := finish c .accepted [h.setWidth 32] s

/-- A completing event on the issuing port only; its handle and its reserved place are freed (R72, R81, R82). While APP is off the
mailbox is given none (R65). -/
def completeEvent (p : PortId) (code : Nat) (h : BitVec 16) (body : List Word) (s : State) : State :=
  let q := s.port p
  let s1 := s.setPort p { q with handles := q.handles.erase h, reserved := q.reserved - 1 }
  placeLost p (if takesEvents s p then placeEvent p (eventPacket code body) true s1 else s1)

/-- The words of a command packet as they lie in command-in, CRC word apart (R66). -/
def cmdWords (cls code : Nat) (p : Packet) : List Word :=
  header cls code p.tag.toNat p.params.length :: p.params

/-- The port after p in the Plaza's rotation (R71). -/
def afterPort (p : PortId) : Fin 3 := portIdx p + 1

/-- The packet as the Plaza takes it. From a command-in Lane that holds words, it must be the packet at its head, whole;
at an empty one it arrives directly. Answers the state with it taken and whether its CRC word matched (log 8). -/
def arrive (cls code : Nat) (p : Packet) (s : State) : Option (State × Bool) :=
  let q := s.port p.port
  let c := q.cmd
  let ext := isExternal p.port
  if c.have.isEmpty then
    if c.got = 0 && c.discard = 0 then some ({ s with plaza.turn := afterPort p.port }, !ext || p.crcOk) else none
  else
    let ws := cmdWords cls code p
    let n := ws.length + b2n ext
    if c.have.take ws.length = ws && decide (n ≤ c.have.length) then
      let rest := c.have.drop n
      let ok := !ext || c.have.getD ws.length 0#32 = crcOfWords ws
      let c' := beginLong ext (plazaRoom p.port s) { c with taken := [], stages := rest }
      some (settleHold { s.setPort p.port { q with cmd := c' } with plaza.turn := afterPort p.port }, ok)
    else none

/-- The radio commands, which wait in their Lanes during a full calibration (R98, R111). -/
def radioCodes : List Nat := [0x301, 0x302, 0x303, 0x306]

/-- A port whose command-in has a whole packet at its head that the Plaza can take (R71). -/
def holdsWhole (p : PortId) (s : State) : Bool :=
  plazaRoom p s &&
  (match (s.port p).cmd.have with
   | [] => false
   | w :: ws => decide (countOf w + b2n (isExternal p) ≤ ws.length)
      && !(s.radio.cal.full && radioCodes.contains (fld w 27 16)))

/-- How many turns lie before port p's in the rotation (R71). -/
def turnsBefore (p : PortId) (s : State) : Nat := (portIdx p - s.plaza.turn).val

/-- It is port p's turn: no other port that holds a whole packet comes first in the rotation (R71). -/
def isTurn (p : PortId) (s : State) : Bool :=
  [PortId.spi, .uart, .mbx].all fun q => !(q ≠ p && holdsWhole q s && decide (turnsBefore q s < turnsBefore p s))

/-- Whether the Plaza takes a packet of a port now (R71). -/
def plazaOpen (p : PortId) (s : State) : Bool := plazaRoom p s && isTurn p s

/-- The opcodes of the index (R96). -/
def opcodes : List Nat :=
  [0x001, 0x002, 0x003, 0x004, 0x005, 0x006, 0x007, 0x101, 0x102, 0x103, 0x104, 0x105, 0x106, 0x107, 0x108,
   0x201, 0x202, 0x203, 0x204, 0x205, 0x206, 0x301, 0x302, 0x303, 0x304, 0x305, 0x306,
   0x401, 0x402, 0x403, 0x404, 0x405, 0x406, 0x407, 0x40A] ++
  [0x501, 0x502, 0x503, 0x504, 0x505, 0x506, 0x507, 0x508, 0x509, 0x601, 0x602, 0x603, 0x604, 0x605, 0x606,
   0x701, 0x702, 0x703, 0x704, 0x705, 0x706, 0x707, 0x708, 0x709, 0x70A, 0x70B,
   0x801, 0x802, 0x803, 0x804, 0x805, 0x806, 0x807, 0x808, 0x809] ++
  [0x901, 0x902, 0x903, 0x904, 0x905, 0x906, 0x907, 0x908, 0xA01, 0xA02, 0xA03, 0xA04,
   0xB01, 0xB02, 0xB03, 0xB04, 0xB05]

/-- Opcodes that only a host port may issue (R64). -/
def hostOnly (code : Nat) : Bool := decide (0x101 ≤ code && code ≤ 0x108) || decide (code = 0x003)

/-- A BAD_CRC refusal (R70 step 1): counted, and CRC_ERR set (R86, R247). -/
def refuseCrc (p : Packet) (code : Nat) (s : State) : State :=
  let q := s.port p.port
  refuseUnseen p.port code p.tag .badCrc false (s.setPort p.port { q with crcErr := true, badCrc := satInc q.badCrc })

/-- A command is outstanding from the tag check on (R71). -/
def markOutstanding (p : Packet) (s : State) : State :=
  let q := s.port p.port
  s.setPort p.port { q with tags := q.tags ++ [p.tag] }

/-- The Plaza takes a command packet: the checks of R70 in their order, then its owner's meaning. A packet that the
Plaza does not take now leaves the state unchanged (log 2), as one for link firmware does while that is parked (R12). -/
def plazaRun (code : Nat) (lenOk : List Word → Bool) (owner : Cmd → State → State) (p : Packet) (s : State) : State :=
  if !plazaOpen p.port s || (s.parked && !inHardware code) then s
  else match arrive 0 code p s with
    | none => s
    | some (s1, crc) =>
      if !crc then refuseCrc p code s1
      else if hostOnly code && !s.isHostPort p.port then refuseUnseen p.port code p.tag .denied false s1
      else if (s.port p.port).tags.contains p.tag then refuseUnseen p.port code p.tag .busy true s1
      else
        let s2 := markOutstanding p s1
        let c : Cmd := ⟨p.port, p.tag, code, p.params⟩
        if !lenOk p.params then finish c .badLength [] s2
        else owner c s2

/-- An owner that answers at once: a refusal with its status and no effect, or OK with results. -/
def immediate (f : Cmd → State → Except Status (List Word × State)) (c : Cmd) (s : State) : State :=
  match f c s with
  | .error st => finish c st [] s
  | .ok (res, s') => finish c .ok res s'

/-- The first check that fails decides the refusal. -/
def firstFail : List (Bool × Status) → Option Status
  | [] => none
  | (bad, st) :: rest => if bad then some st else firstFail rest

/-- COUNT equals n. -/
def lenIs (n : Nat) (ps : List Word) : Bool := decide (ps.length = n)

/-! ### The PKA's requests (R316) -/

/-- A command joins the PKA: it runs if the PKA is free, else waits in arrival order. -/
def pkaPut (c : Cmd) (j : PkaJob) (s : State) : State :=
  let r : PkaReq := { port := c.port, tag := c.tag, job := j }
  if s.sec.pka.isNone then { s with sec.pka := some r } else { s with sec.pkaQueue := s.sec.pkaQueue ++ [r] }

/-- A request of link firmware of n operations: it goes before every waiting command. -/
def pkaFirst (r : PkaReq) (s : State) : State :=
  if s.sec.pka.isNone then { s with sec.pka := some r } else { s with sec.pkaFirst := s.sec.pkaFirst ++ [r] }

/-- Link firmware's own request of n operations. -/
def pkaOwn (j : PkaJob) (n : Nat) (s : State) : State := pkaFirst { port := .spi, tag := 0, job := j, left := n } s

/-- A job has been asked for and is not done. -/
def pkaHas (p : PkaJob → Bool) (s : State) : Bool :=
  (match s.sec.pka with | some r => p r.job | none => false) || s.sec.pkaFirst.any fun r => p r.job

/-- A command whose P-256 work is in front of it. -/
def pkaCommand (c : Cmd) (s : State) : State := pkaPut c (.command (BitVec.ofNat 12 c.code) c.ps) s

end Sys2Proof.Machine
end

