-- ==== Sys2Proof/Machine/Time.lean ====
section
/-! DEFINITION. Network time (R25-R53): the tick, the servo, slews and jumps, the drift tracker, the capture units, and
the time commands. -/

namespace Sys2Proof.Machine
open Sys2Proof

/-! ### The step (R27, R28, R39, R276) -/

/-- The largest |NTC_ADJ|: 200 ppm (R28). -/
def adjMax : Int := 858993

/-- NTC_ADJ clamped (R28). -/
def clampAdj (x : Int) : Int := clampI (-adjMax) adjMax x

/-- The correction that a slew must accumulate has been reached (R39). -/
def Slew.reached (sl : Slew) : Bool := decide (sl.delta.natAbs * 2 ^ 64 ≤ sl.done)

/-- One HFXO step in units of 2^-64 of a fraction unit, with an adjustment (R27, R28). -/
def hfStep (step : BitVec 48) (adj : Int) : Nat := step.toNat * ((2 : Int) ^ 32 + adj).toNat

/-- One LFXO step in the same units (R27, R30). -/
def lfStep (step : BitVec 44) : Nat := step.toNat * 2 ^ 40

/-- The adjustment of NT at this tick: NTC_ADJ, which a slew keeps raised until its correction is reached (R39). -/
def TimeState.ntAdj (t : TimeState) : Int :=
  match t.slew with
  | some sl => if sl.reached then sl.base else t.adj.toInt
  | none => t.adj.toInt

/-- The adjustment of the elapsed-time base: without the slew's part (R276). -/
def TimeState.baseAdj (t : TimeState) : Int :=
  match t.slew with
  | some sl => sl.base
  | none => t.adj.toInt

/-- The sum of a 64-bit count with its sub-unit accumulator and a step. -/
def addStep (hi sub : DWord) (step : Nat) : DWord × DWord :=
  let x := hi.toNat * 2 ^ 64 + sub.toNat + step
  (BitVec.ofNat 64 (x / 2 ^ 64), BitVec.ofNat 64 x)

/-- What a tick adds to a slew's correction (R39). -/
def Slew.tick (sl : Slew) (step : BitVec 48) (adj : Int) : Slew :=
  if sl.reached then sl else { sl with done := sl.done + step.toNat * (adj - sl.base).natAbs }

/-! ### Basic timers at a tick (R54-R56) -/

/-- BTn_CTRL fields (R60). -/
def BasicTimer.src (b : BasicTimer) : Nat := fld b.ctrl 5 3
def BasicTimer.smode (b : BasicTimer) : Nat := fld b.ctrl 10 8
def BasicTimer.trig (b : BasicTimer) : Nat := fld b.ctrl 14 11

/-- A prescaled tick: COUNT increments, and the timer is to end if COUNT ≥ PERIOD (R54), SHORT if it exceeds the PERIOD
that stands at this tick (R55). -/
def BasicTimer.count1 (b : BasicTimer) : BasicTimer :=
  let c := b.count + 1
  { b with count := c, endDue := decide (b.period.toNat ≤ c.toNat), shortDue := decide (b.period.toNat < c.toNat) }

/-- A source tick of a running timer (R56): the prescaler advances whatever the gate, and a prescaled tick is counted
while the gate is open (R57). -/
def BasicTimer.sourceTick (gate : Bool) (b0 : BasicTimer) : BasicTimer :=
  let b := { b0 with past := (b0.count :: b0.past).take 3 }
  let a := b.acc + 256
  if b.presc.toNat ≤ a then
    let b1 := { b with acc := a - b.presc.toNat }
    if gate then b1.count1 else b1
  else { b with acc := a }

/-- n source ticks: a timer that does not run takes none, and one that has reached its end takes no further one. -/
def BasicTimer.feed (gate : Bool) : Nat → BasicTimer → BasicTimer
  | 0, b => b
  | n + 1, b => if b.running && !b.endDue then BasicTimer.feed gate n (b.sourceTick gate) else b

/-- Whether the gate of timer n lets it count (R57): SMODE 1 with a timer trigger follows that timer's RUNNING. -/
def gateOf (bts : Vector BasicTimer 8) (b : BasicTimer) : Bool :=
  if b.smode = 1 then
    (if h : b.trig < 8 then bts[b.trig].running else b.gateOpen)
  else true

/-- GATE_OPEN of a timer (R60): the present gate in GATE mode; outside it the gate that marker triggers have left
(DESIGN CHOICE, log 67). -/
def gateShown (bts : Vector BasicTimer 8) (b : BasicTimer) : Bool := if b.smode = 1 then gateOf bts b else b.gateOpen

/-- What a tick of NT's source clock brings the basic timers: ticks of HFXO, LFXO, HFRC and SYSCLK, and NT 2^-20 s ticks
(R54, R58, R60). -/
structure SourceTicks where
  hfxo : Nat
  lfxo : Nat
  hfrc : Nat
  sysclk : Nat
  nt : Nat
  deriving DecidableEq, Repr

/-- The ticks of a SRC code; a reserved one has none (DESIGN CHOICE, log 67), and pin ticks come with their edges. -/
def SourceTicks.of (k : SourceTicks) : Nat → Nat
  | 0 => k.hfxo
  | 1 => k.lfxo
  | 2 => k.hfrc
  | 3 => k.sysclk
  | 4 => k.nt
  | _ => 0

/-- The timers at a tick (R54, R58): each counts its own source's ticks, but for one in CLOCK mode (R57). -/
def tickTimers (k : SourceTicks) (bts : Vector BasicTimer 8) : Vector BasicTimer 8 :=
  bts.map fun b => if b.smode = 3 then b else b.feed (gateOf bts b) (k.of b.src)

/-- Half cycles of SYSCLK in one tick of the 32 MHz HFXO: 128 MHz at RUN-HP, 48 MHz at RUN-LP (R417). -/
def sysHalves (lp : Bool) : Nat := if lp then 3 else 8

/-- The source ticks that a tick of NT's source clock brings (R58). Those of LFXO beside HFXO and of HFRC have an open place, since
the oscillators are not locked to each other (log 11); SYSCLK is fixed to HFXO while SYSPLL is locked and runs from HFRC
otherwise (R419, R433). -/
def sourceTicks (s : State) (ntTicks : Nat) : SourceTicks :=
  let rc := if s.time.onLf then Config.hfrcPerLfxo s.elapsed.now else b2n (Config.hfrcEdge s.elapsed.now)
  { hfxo := b2n !s.time.onLf
    lfxo := if s.time.onLf then 1 else b2n (Config.lfxoEdge s.elapsed.now)
    hfrc := rc
    sysclk := if s.power.pll && !s.power.switching then (b2n s.power.sysHalf + sysHalves s.power.lp) / 2 else rc
    nt := ntTicks }

/-! ### Capture units (R49-R53) -/

/-- A pending value moves into the readable register (R50). -/
def CaptureUnit.settle (c : CaptureUnit) : CaptureUnit :=
  if c.moveDue then
    match c.slot with
    | some v => { c with value := v, new := true, slot := none, moveDue := false }
    | none => { c with moveDue := false }
  else c

/-- A capture event is placed (R49). -/
def CaptureUnit.place (v : DWord) (c0 : CaptureUnit) : CaptureUnit :=
  let c := c0.settle
  if !c.new && !c.frozen then { c with value := v, new := true }
  else if c.slot.isNone then { c with slot := some v }
  else { c with ovr := true, lost := satInc16 c.lost }

/-- An NTC interrupt cause is set (R59). -/
def ntcIrq (bit : Nat) (s : State) : State := { s with time.intstat := s.time.intstat ||| (1#13 <<< bit) }

/-- The NTC_INTSTAT bit of a capture unit (R59). -/
def capBit (u : Nat) : Nat := if u = 0 then 11 else 7 + u

/-- Unit u captures a value (R49). A capture that is lost sets the unit's NTC_INTSTAT bit too (DESIGN CHOICE, log 67). -/
def captureAt (u : Fin 4) (v : DWord) (s : State) : State :=
  ntcIrq (capBit u.val) { s with cmps.caps := s.cmps.caps.set u (s.cmps.caps[u].place v) }

/-- Unit u captures NT (R49). -/
def captureNow (u : Fin 4) (s : State) : State := captureAt u s.time.nt s

/-- CP1 to CP3 capture where NTC_CPn_CTRL enables the unit and selects this source (R52). -/
def captureFrom (selects : Word → Bool) (s : State) : State :=
  let one (u : Fin 4) (s : State) : State :=
    let c := s.cmps.caps[u].ctrl
    if bitAt c 0 && selects c then captureNow u s else s
  one 3 (one 2 (one 1 s))

/-! ### The tick -/

/-- The counters that a tick of NT's source clock advances. -/
def tickClocks (s : State) : State :=
  let t := s.time
  let step := if t.onLf then lfStep t.stepLf else hfStep t.stepHf t.ntAdj
  let baseStep := if t.onLf then lfStep t.stepLf else hfStep t.stepHf t.baseAdj
  let nt := addStep t.nt t.ntSub step
  let el := addStep s.elapsed.now s.elapsed.sub baseStep
  let units := t.acc20.toNat + (nt.1 - t.nt).toNat
  let ran := (el.1 - s.elapsed.now).toNat
  { s with
    time := { t with nt := nt.1, ntSub := nt.2, acc20 := BitVec.ofNat 12 units,
                     slew := if t.onLf then t.slew else t.slew.map fun sl => sl.tick t.stepHf t.adj.toInt }
    elapsed := { now := el.1, sub := el.2 }
    cmps.caps := s.cmps.caps.map CaptureUnit.settle
    power.sysHalf := decide ((b2n s.power.sysHalf + sysHalves s.power.lp) % 2 = 1)
    radio.cal.periodCount :=
      if s.awake && s.on dRFFE then s.radio.cal.periodCount + BitVec.ofNat 64 ran else s.radio.cal.periodCount
    peri.bt := if s.awake && s.on dPERI then tickTimers (sourceTicks s (units / 4096)) s.peri.bt else s.peri.bt }

/-- Link firmware may trace on a port's diagnostic Lane while EVENT_MASK enables it, a stalled record apart (R74, R77, R95): when
and what is its own (log 68). -/
def diagTrace (p : PortId) (s : State) : State :=
  let q := s.port p
  if q.diagEn && s.inRun && takesEvents s p && q.lanes[laneDiag].waiting.isEmpty then
    let s1 := { s with free := s.free + 1 }
    match Config.diagRecord s.free with
    | some (code, w, ws) =>
      let body := w :: ws.take 1022
      produce p laneDiag ((header 2 (0x800 + code.toNat) 0 body.length :: body).map fun x => (x, none)) s1
    | none => s1
  else s

/-- What happens on an empty queue: one tick of NT's source clock (log 1), in which link firmware may write diagnostic records.
Every other event has a row of its own. -/
def tick (s : State) : State := diagTrace .mbx (diagTrace .uart (diagTrace .spi (tickClocks s)))

/-! ### Armed compares (R37, R40) -/

/-- The first slot of a rendezvous after an instant (R258): OFFSET is the NT of any slot (R270), so there are slots before it too. -/
def Rdv.slotAfter (r : Rdv) (t : DWord) : Nat :=
  let p := max 1 r.period.toNat
  let first := r.offset.toNat % p
  if t.toNat < first then first else first + ((t.toNat - first) / p + 1) * p

/-- A timed frame that waits for its first attempt (R37, R302). -/
def TxFrame.timedQueued (f : TxFrame) : Bool := f.start.isSome && !f.inFlight

/-- Whether any compare is armed (R37). -/
def anyArmed (s : State) : Bool :=
  (s.cmps.marks.toList.any fun m => bitAt m.ctrl 0) || !s.rdv.rdvs.isEmpty || s.traffic.oper.isSome ||
  s.traffic.admin.isSome || (s.link.frames.any fun f => f.timedQueued)

/-- A target in the interval (before, after] (R40). -/
def passed (before after target : Nat) : Bool := decide (before < target) && decide (target ≤ after)

/-- The compares that a jump from `a` to `b` fires late (R40). -/
def lateCount (a b : DWord) (s : State) : Nat :=
  let p := passed a.toNat b.toNat
  s.cmps.marks.toList.countP (fun m => bitAt m.ctrl 0 && p m.target.toNat) +
  s.rdv.rdvs.countP (fun r => p (r.slotAfter a)) +
  (match s.traffic.admin with | some l => b2n (p l.x.toNat) | none => 0) +
  s.link.frames.countP (fun f => f.timedQueued && (match f.start with | some t => p t.toNat | none => false))

/-- A rendezvous after a jump from a to b (R257): its last contact moves with NT, and a slot that the jump passes is skipped, its
frame not sent for it and its window closed without a miss; the next slot is the first one after b. -/
def Rdv.jumped (a b off : DWord) (r : Rdv) : Rdv :=
  let p := passed a.toNat b.toNat
  let again := match r.lastSlot with | some l => decide (b.toNat < l.toNat) | none => false
  let moved := p (r.slotAfter a) || (decide (b.toNat < a.toNat) && again)
  { r with lastContact := r.lastContact + off, lastSlot := if moved then some b else r.lastSlot,
           slotFrame := if moved && !r.slotSent then none else r.slotFrame,
           window := r.window.map fun w => if p w.1.toNat then (w.1, b, true) else w }

/-- A jump of NT by `off` (R40, R257, R286): markers passed are to fire late, a waiting swap is late, a rendezvous slot
passed is skipped, and the last contacts move with NT. -/
def jumpNt (off : DWord) (s : State) : State :=
  let a := s.time.nt
  let b := a + off
  let p := passed a.toNat b.toNat
  { s with
    time.nt := b
    cmps.marks := s.cmps.marks.map fun m =>
      if bitAt m.ctrl 0 && p m.target.toNat then { m with jumped := true } else m
    traffic.admin := s.traffic.admin.map fun l => if p l.x.toNat then { l with late := true } else l
    rdv.lastBeacon := if b.toNat < a.toNat then none else s.rdv.lastBeacon
    rdv.rdvs := s.rdv.rdvs.map (Rdv.jumped a b off) }

/-! ### The drift tracker (R42-R44) -/

/-- The bins by distance from b, the lower first (R44). -/
def nearBins (b : Fin 8) : List (Fin 8) :=
  (List.range 8).flatMap fun d =>
    (if h : d ≤ b.val then [⟨b.val - d, by omega⟩] else []) ++
    (if h : 0 < d ∧ b.val + d < 8 then [⟨b.val + d, h.2⟩] else [])

/-- EST of a bin, borrowed from the nearest bin with samples when it has none, 0 when no bin has any (R44). -/
def effEst (t : TimeState) (b : Fin 8) : Int :=
  match (nearBins b).find? fun k => t.bins[k].samples ≠ 0 with
  | some k => t.bins[k].est.toInt
  | none => 0

/-- BOUND of a bin (R44). -/
def effBound (t : TimeState) (b : Fin 8) : Nat :=
  if t.bins[b].samples = 0 then 687195 else t.bins[b].bound.toNat

/-- A BOUND as the 24-bit field holds it; the manual states none for a value past the field (R43, log 67). -/
def boundField (x : Nat) : BitVec 24 := if x < 2 ^ 24 then BitVec.ofNat 24 x else Config.driftBound x

/-- The tracker takes a sample in the current bin (R43). -/
def driftSample (sv : Int) (t : TimeState) : TimeState :=
  let b := t.tempBin
  let est := effEst t b
  let bound := effBound t b
  let dev := sv - est
  let nb : DriftBin :=
    { est := WI (est + dev / 8),
      bound := boundField (max 2147 (max dev.natAbs (bound - bound / 16))),
      samples := if t.bins[b].samples = 255 then 255 else t.bins[b].samples + 1 }
  { t with bins := t.bins.set b nb }

/-- NTC_STEP_LF for an estimate: 131,072 × (1 − EST) in Q20.24 (R30). -/
def stepLfOf (est : Int) : BitVec 44 := BitVec.ofInt 44 ((2 : Int) ^ 41 - est * 512)

/-- NTC_STEP_LF is loaded for the current bin (R30). -/
def reloadStepLf (t : TimeState) : TimeState := { t with stepLf := stepLfOf (effEst t t.tempBin) }

/-- The bin of a die temperature in tenths of a degree (R42). -/
def binOf (tenths : Int) : Fin 8 :=
  if tenths < -200 then 0 else if tenths < -50 then 1 else if tenths < 100 then 2 else if tenths < 200 then 3
  else if tenths < 300 then 4 else if tenths < 450 then 5 else if tenths < 600 then 6 else 7

/-- The temperature trigger of R112, judged in run at each sample on the RF sensor (R443): all four calibrations become due. -/
def tempTrigger (s : State) : State :=
  let c := s.radio.cal
  if s.awake && c.results[1].valid && decide (10 * s.radio.rfNow.tempDelta.toNat ≤ (s.power.rfTemp - c.oscTemp).natAbs) then
    { s with radio.cal.due := 15#4 }
  else s

/-- The temperature of a block's last trim: a move by `delta` since makes a new one (R443). -/
def trimAt (delta last now : Int) : Int := if delta ≤ (now - last).natAbs then now else last

/-- The die temperature is sampled, the AON sensor's reading and the others' (R42, R443): the bin follows it, in stop NTC_STEP_LF
follows the bin (R30), the Kerb ADC and the flash trim themselves, and in run the temperature trigger of R112 is judged. -/
def sampleTemp (tenths : Int) (o : Sensors) (s : State) : State :=
  let b := binOf tenths
  let t := { s.time with tempBin := b }
  let t1 := if s.time.onLf && decide (b ≠ s.time.tempBin) then reloadStepLf t else t
  tempTrigger { s with
    time := t1
    power.dieTemp := tenths
    power.rfTemp := o.rf
    power.coreTemp := o.core
    power.adcTrim := trimAt 50 s.power.adcTrim tenths
    power.flashTrim := trimAt 100 s.power.flashTrim o.core }

/-! ### The servo (R31-R35) -/

/-- The code of PPS_STATE (R59). -/
def ppsCode : PpsState → Nat
  | .off => 0 | .acquiring => 1 | .locked => 2 | .holdover => 3

/-- NTC_STATUS (R59). -/
def ntcStatus (t : TimeState) : Word :=
  W (b2n t.onLf + ppsCode t.ppsState * 2 + t.lockCount.val * 8 + b2n t.slew.isSome * 64
    + b2n t.setPending.isSome * 128 + t.tempBin.val * 256)

/-- PPS_STATE changes, which is an interrupt cause (R59). -/
def setPps (st : PpsState) (s : State) : State :=
  if s.time.ppsState = st then s else ntcIrq 12 { s with time.ppsState := st }

/-- An edge lies in the lock window of ±1 µs (R34). -/
def inWindow (e : Int) : Bool := decide (e.natAbs ≤ 4295)

/-- The equations of R32 and R33 at an edge with phase error e. -/
def servoAct (e : Int) (t : TimeState) : TimeState :=
  if 2 ^ 22 < e.natAbs then { t with adj := WI (if 0 < e then -adjMax else adjMax) }
  else
    let i := clampI (-(2 ^ 31 - 1)) (2 ^ 31 - 1) (t.integ.toInt + e)
    { t with integ := WI i, adj := WI (clampAdj (-(e >>> t.kp.toNat) - (i >>> t.ki.toNat))) }

/-- The judgement of an edge by the servo state (R34). HOLDOVER keeps LOCK_COUNT, which counts consecutive edges whatever
lies between them, so the first edge after it can complete the lock (DEDUCED, log 67). -/
def judgeEdge (e : Int) (c : DWord) (s0 : State) : State :=
  let s1 := if s0.time.ppsState = .holdover then setPps .acquiring s0 else s0
  let s := { s1 with time := servoAct e s1.time }
  let n : Fin 5 := if inWindow e then (if s.time.lockCount = 4 then 4 else s.time.lockCount + 1) else 0
  let s2 := { s with time.lockCount := n }
  match s2.time.ppsState with
  | .acquiring =>
    if n = 4 then raise 0x021 (WI e :: words64 c) (setPps .locked s2) else s2
  | .locked => if inWindow e then s2 else raise 0x020 [1#32] (setPps .acquiring s2)
  | _ => s2

/-- The drift tracker's sample from the LFXO cycles between accepted edges (R43). A quotient that is not exact is rounded
down (DESIGN CHOICE, log 67). -/
def edgeSample (cycles : Nat) (t : TimeState) : TimeState :=
  let n := (cycles + 16384) / 32768
  if n = 0 || 64 < n then t
  else driftSample ((cycles : Int) * 2 ^ 32 / (32768 * (n : Int)) - 2 ^ 32) t

/-- A pending AT_PPS load at an accepted edge (R38): the armed compares are checked again. -/
def loadAtEdge (s : State) : State :=
  match s.time.setPending with
  | none => s
  | some q =>
    let c : Cmd := ⟨q.port, q.tag, 0x201, []⟩
    let s1 := { s with time.setPending := none }
    if anyArmed s then finish c .badState [] s1
    else finish c .ok [] { s1 with time.nt := mk64 0#32 q.seconds, time.isSet := true }

/-- PPS_CONFIG.POL makes this edge of PPS_IN the active one (R36, R61). -/
def TimeState.activeEdge (t : TimeState) (rising : Bool) : Bool := rising != t.pol

/-- An edge of PPS_IN with `lfCycles` LFXO cycles since the previous accepted edge (R31-R35, R38, R43): only the edge that POL
selects is one (R61). An edge before the NT of the previous one, after NT was moved back, is accepted (DESIGN CHOICE, log 67). -/
def ppsEdge (rising : Bool) (lfCycles : Nat) (s : State) : State :=
  if !s.time.enable || !s.power.vio || !s.time.activeEdge rising then s
  else
    let near := match s.time.lastEdge with
      | some l => decide ((s.time.nt - l).toNat < 2 ^ 31)
      | none => false
    if near then { s with time.glitch := satInc16 s.time.glitch }
    else
      let first := s.time.lastEdge.isNone
      let s1 := loadAtEdge s
      let c := s1.time.nt
      let e := (lo32 c).toInt
      let s2 := captureAt 0 c { s1 with time.lastEdge := some c, time.edges := s1.time.edges + 1, time.ppsErr := WI e }
      let s3 := if first then s2 else { s2 with time := edgeSample lfCycles s2.time }
      let s4 := if s3.time.servo && s3.awake && !s3.time.onLf then judgeEdge e c s3 else s3
      { s4 with time.lossFrom := some c }

def execPpsEdge (rising : Bool) (lfCycles : Nat) (s : State) : Out := .next (ppsEdge rising lfCycles s)

/-- 1.5 s of NT (R34, R38). -/
def lossUnits : Nat := 3 * 2 ^ 31

/-- No accepted edge within 1.5 s: HOLDOVER (R34). -/
def ppsLost (s : State) : State :=
  match s.time.lossFrom with
  | some t =>
    if (s.time.ppsState = .acquiring || s.time.ppsState = .locked) && elapsedBy t s.time.nt lossUnits then
      raise 0x020 [0#32] (setPps .holdover { s with time.lossFrom := none })
    else s
  | none => s

def execPpsLost (s : State) : Out := .next (ppsLost s)

/-- A pending load that met no edge within 1.5 s is answered EXPIRED (R38). -/
def ntSetExpired (s : State) : State :=
  match s.time.setPending with
  | some q =>
    if elapsedBy q.since s.elapsed.now lossUnits then
      finish ⟨q.port, q.tag, 0x201, []⟩ .expired [] { s with time.setPending := none }
    else s
  | none => s

def execNtSetExpired (s : State) : Out := .next (ntSetExpired s)

/-! ### PPS_OUT (R36) -/

/-- NT[31:0] passed 0 at the last HFXO tick: it is below the largest step. -/
def secondPassed (s : State) : Bool := decide ((lo32 s.time.nt).toNat ≤ 134)

def ppsOutRise (s : State) : State :=
  if s.time.outEn && !s.time.onLf && s.awake && s.power.pll && !s.time.ppsOut && secondPassed s then
    { s with time.ppsOut := true, time.ppsOutRise := s.elapsed.now }
  else s

def execPpsOutRise (s : State) : Out := .next (ppsOutRise s)

def ppsOutFall (s : State) : State :=
  if s.time.ppsOut && elapsedBy s.time.ppsOutRise s.elapsed.now (usU s.time.width.toNat) then
    { s with time.ppsOut := false }
  else s

def execPpsOutFall (s : State) : Out := .next (ppsOutFall s)

/-! ### Slews (R39) -/

/-- The uncorrected part of a slew, with the sign of its DELTA (R39). -/
def Slew.remainder (sl : Slew) : Int :=
  let left : Nat := (sl.delta.natAbs * 2 ^ 64 - sl.done) / 2 ^ 64
  if sl.delta < 0 then -(left : Int) else (left : Int)

/-- A slew ends: NTC_ADJ returns to its base value (R39). -/
def endSlew (t : TimeState) : TimeState :=
  match t.slew with
  | some sl => { t with adj := WI sl.base, slew := none }
  | none => t

/-- A slew of `delta` at `rate` ppm starts (R39). -/
def startSlew (delta : Int) (rate : Nat) (t0 : TimeState) : TimeState :=
  let t := endSlew t0
  if delta = 0 then t
  else
    let base := t.adj.toInt
    let d : Int := (rate : Int) * 4295
    { t with adj := WI (clampAdj (base + if delta < 0 then -d else d)), slew := some { delta, rate, base } }

def ntSlewComplete (s : State) : State :=
  match s.time.slew with
  | some sl => if sl.reached then { s with time := endSlew s.time } else s
  | none => s

def execNtSlewComplete (s : State) : Out := .next (ntSlewComplete s)

/-! ### Switching (R29, R30, R43) -/

/-- NT switches to LFXO (R29, R30). -/
def toLfxo (s : State) : State := { s with time := reloadStepLf { s.time with onLf := true } }

/-- NT switches back to HFXO after a wake, and the wake drift sample begins (R29, R43). -/
def ntToHfxo (s : State) : State :=
  if s.time.onLf && s.awake then
    { s with time.onLf := false, power.hfxo := true, power.driftDue := true }
  else s

def execNtToHfxo (s : State) : Out := .next (ntToHfxo s)

/-- The wake drift sample is taken (R43); `sv` is the measured s. -/
def wakeDriftSample (sv : Int) (s : State) : State :=
  if s.power.driftDue && !s.time.onLf then
    { s with power.driftDue := false, time := driftSample sv s.time }
  else s

def execWakeDriftSample (sv : Int) (s : State) : Out := .next (wakeDriftSample sv s)

/-! ### Commands (R61) -/

def ntSetRun (c : Cmd) (s : State) : State :=
  let w3 := param c.ps 3
  let at_ := bitAt w3 0
  match firstFail [(!onlyBits w3 1#32, .badParam), (at_ && param c.ps 2 != 0#32, .badParam),
      (anyArmed s, .badState), (at_ && !s.time.enable, .badState), (s.time.setPending.isSome, .busy)] with
  | some st => finish c st [] s
  | none =>
    if at_ then { s with time.setPending := some ⟨c.port, c.tag, param c.ps 1, s.elapsed.now⟩ }
    else finish c .ok [] { s with time.nt := mk64 (param c.ps 2) (param c.ps 1), time.isSet := true }

def execNtSet (p : Packet) (s : State) : Out := .next (plazaRun 0x201 (lenIs 3) ntSetRun p s)

def ntCaptureRun (_c : Cmd) (s : State) : Except Status (List Word × State) :=
  .ok (words64 s.time.nt ++ [ntcStatus s.time], s)

def execNtCapture (p : Packet) (s : State) : Out := .next (plazaRun 0x202 (lenIs 0) (immediate ntCaptureRun) p s)

/-- PPS_CONFIG's effect on the servo state (R62). On entering ACQUIRING the loss of R34 is measured from the previous
accepted edge, whatever the state was at it. -/
def ppsRestate (s : State) : State :=
  if !(s.time.enable && s.time.servo) then setPps .off { s with time.integ := 0#32, time.lockCount := 0 }
  else if s.time.ppsState = .off then setPps .acquiring { s with time.lossFrom := s.time.lastEdge }
  else s

def ppsConfigRun (c : Cmd) (s : State) : Except Status (List Word × State) :=
  let w1 := param c.ps 1
  let w2 := param c.ps 2
  match firstFail [(!onlyBits w1 0x001F1F0F#32, .badParam), (!onlyBits w2 0xFFFF#32, .badParam),
      (bitAt w1 3 && fld w2 15 0 = 0, .badParam)] with
  | some st => .error st
  | none =>
    let t := if bitAt w1 2 then endSlew s.time else s.time
    let t' := { t with enable := bitAt w1 0, pol := bitAt w1 1, servo := bitAt w1 2, outEn := bitAt w1 3,
                       kp := w1.extractLsb' 8 5, ki := w1.extractLsb' 16 5, width := w2.setWidth 16,
                       ppsOut := t.ppsOut && bitAt w1 3 }
    .ok ([], ppsRestate { s with time := t' })

def execPpsConfig (p : Packet) (s : State) : Out := .next (plazaRun 0x203 (lenIs 2) (immediate ppsConfigRun) p s)

def ppsStatusRun (_c : Cmd) (s : State) : Except Status (List Word × State) :=
  let t := s.time
  .ok ([ntcStatus t, t.ppsErr, t.adj, t.integ, t.edges, t.glitch.setWidth 32], s)

def execPpsStatus (p : Packet) (s : State) : Out := .next (plazaRun 0x204 (lenIs 0) (immediate ppsStatusRun) p s)

def ntSlewRun (c : Cmd) (s : State) : Except Status (List Word × State) :=
  let w2 := param c.ps 2
  let rate := fld w2 7 0
  match firstFail [(!onlyBits w2 0xFF#32, .badParam), (rate = 0 || decide (200 < rate), .badParam),
      (s.time.servo, .badState)] with
  | some st => .error st
  | none =>
    let rem : Int := match s.time.slew with | some sl => sl.remainder | none => 0
    .ok ([WI rem], { s with time := startSlew (param c.ps 1).toInt rate s.time })

def execNtSlew (p : Packet) (s : State) : Out := .next (plazaRun 0x205 (lenIs 2) (immediate ntSlewRun) p s)

def ntJumpRun (c : Cmd) (s : State) : State :=
  let w3 := param c.ps 3
  match firstFail [(!onlyBits w3 1#32, .badParam), (!bitAt w3 0 && anyArmed s, .badState)] with
  | some st => finish c st [] s
  | none =>
    let a := s.time.nt
    let s1 := jumpNt (mk64 (param c.ps 1) (param c.ps 2)) s
    let b := s1.time.nt
    raise 0x0C0 (words64 a ++ words64 b ++ [W (lateCount a b s)]) (finish c .ok (words64 a ++ words64 b) s1)

def execNtJump (p : Packet) (s : State) : Out := .next (plazaRun 0x206 (lenIs 3) ntJumpRun p s)

end Sys2Proof.Machine
end

