-- ==== Sys2Proof/Machine/Periph.lean ====
section
/-! DEFINITION. Pads, GPIO, the serial controllers, the ADC in run, the basic timers and the triggers between them
(R47, R54-R58, R369-R382). -/

namespace Sys2Proof.Machine
open Sys2Proof

/-! ### Pads and pins (R371-R374, R511) -/

/-- Pin number k is present on the part (R371). -/
def pinPresent (s : State) (k : Nat) : Bool := decide (k < s.byVariant 32 40 64)

/-- The pins of port p that the part has (R371). -/
def portMask (s : State) (p : Nat) : BitVec 16 :=
  if p < 2 then 0xFFFF#16 else if s.is80 then 0xFFFF#16 else if s.is40 && p = 2 then 0x00FF#16 else 0#16

/-- The pin table gives pin k this function (R511). -/
def funcListed (k f : Nat) : Bool :=
  if f = 0 then true
  else if k ≤ 3 then f = 1 || f = 2
  else if k ≤ 6 then f = 1 || f = 2 || f = 4
  else if k = 7 then f = 1 || f = 4
  else if k ≤ 11 then f = 1 || f = 2
  else if k ≤ 14 then f = 2 || f = 3
  else if k = 15 then f = 3
  else false

/-- FUNC of a pad configuration, an unlisted value acting as 7 (R372). -/
def padFunc (k : Nat) (w : Word) : Nat := let f := fld w 2 0; if funcListed k f then f else 7

/-- The configuration that reaches pad k: the held one while it is latched (R372, R424). -/
def padConfig (s : State) (k : Fin 64) : Word :=
  if s.pads.latched.getLsbD k then s.pads.held[k] else s.pads.regs[k]

/-- The GPIO port and the bit of pin k. -/
def portOf (k : Fin 64) : Fin 4 := ⟨k.val / 16, by omega⟩
def bitOf (k : Fin 64) : Nat := k.val % 16

/-- The KIN input that shares its terminal with pin k in a QFN package, P1_08 to P1_15 (R509). -/
def kinOfPin (s : State) (k : Nat) : Option (Fin 8) :=
  if !s.is80 && 24 ≤ k && k < 32 then some (Fin.ofNat 8 (k - 24)) else none

/-- What stands at the terminal of pin k when its GPIO pad does not drive it: DOUT's level where the KIN pad drives it (R509), or the
world's. -/
def outerLevel (s : State) (k : Fin 64) : Bool :=
  let ext := s.peri.gpio[portOf k].level.getLsbD (bitOf k)
  match kinOfPin s k.val with
  | some i => if s.isUsable dKERB && s.kerb.driven.getLsbD i.val then s.kerb.driveLevel.getLsbD i.val else ext
  | none => ext

/-- The GPIO pad of pin k drives its terminal now (R373, R423). -/
def padDrives (s : State) (k : Fin 64) : Bool :=
  if s.pads.latched.getLsbD k then s.pads.heldDir.getLsbD k
  else
    let w := padConfig s k
    let g := s.peri.gpio[portOf k]
    padFunc k.val w = 0 && g.dir.getLsbD (bitOf k) && s.on dPERI && !(bitAt w 8 && g.out.getLsbD (bitOf k))

/-- Two pads of one terminal drive it: its level is undefined (R509). -/
def contends (s : State) (k : Fin 64) : Bool :=
  match kinOfPin s k.val with | some i => padDrives s k && s.isUsable dKERB && s.kerb.driven.getLsbD i.val | none => false

/-- The level of pad k: driven by the part, or by the world (R373). -/
def padLevel (s : State) (k : Fin 64) : Bool :=
  if contends s k then Config.contended s.elapsed.now k.val
  else
  let g := s.peri.gpio[portOf k]
  let ext := outerLevel s k
  if s.pads.latched.getLsbD k then (if s.pads.heldDir.getLsbD k then s.pads.heldOut.getLsbD k else ext)
  else
    let w := padConfig s k
    let out := g.out.getLsbD (bitOf k)
    if padFunc k.val w = 0 && g.dir.getLsbD (bitOf k) && s.on dPERI && !(bitAt w 8 && out) then out else ext

/-- GPIOp_IN's bit of pin k (R373): the input buffer must be on; without VIO every input reads 0 (R491). -/
def gpioIn (s : State) (k : Fin 64) : Bool :=
  let w := padConfig s k
  s.power.vio && pinPresent s k.val && bitAt w 7 && padFunc k.val w ≠ 7 && padLevel s k

/-- All pin numbers. -/
def allPins : List (Fin 64) := List.finRange 64

/-! ### Events for DMA, ADC and Kerb -/

/-- A DMA event on a channel (R382): served, pending, or discarded and counted. -/
def dmaEvent (ch : Fin 16) (s : State) : State :=
  let c := s.peri.dma[ch]
  let c' : DmaCh :=
    if !bitAt c.ctrl 0 then { c with lost := satInc16 c.lost }
    else if !c.serving then { c with serving := true }
    else if !c.pend then { c with pend := true }
    else { c with lost := satInc16 c.lost }
  { s with peri.dma := s.peri.dma.set ch c' }

/-- A marker or timer names a DMA channel (R381): one whose REQ is not 1 makes no request and counts LOST. -/
def dmaNamed (ch : Fin 16) (s : State) : State :=
  if fld s.peri.dma[ch].ctrl 7 2 = 1 then dmaEvent ch s
  else
    let c := s.peri.dma[ch]
    { s with peri.dma := s.peri.dma.set ch { c with lost := satInc16 c.lost } }

/-- An ADC trigger (R379, R380). A disabled ADC takes none (DEDUCED, log 20). -/
def adcTrigger (s : State) : State :=
  let a := s.peri.adc
  if !bitAt a.ctrl 0 then s
  else if !s.isUsable dKERB then { s with peri.adc := { a with trigLost := satInc16 a.trigLost, lostSeen := true } }
  else if a.busy.isNone then { s with peri.adc := { a with busy := some 0, delayed := false } }
  else if !a.pend then { s with peri.adc := { a with pend := true } }
  else { s with peri.adc := { a with trigLost := satInc16 a.trigLost, lostSeen := true } }

/-- A trigger reaches the Kerb: a pass is to start, or it is held, or it is lost (R447). -/
def kerbTrigger (s : State) : State :=
  if !s.kerb.running then s
  else if s.kerb.held then { s with kerb.trigLost := satInc16 s.kerb.trigLost }
  else { s with kerb.held := true }

/-! ### Basic timers (R54-R58) -/

/-- A timer starts: COUNT and the accumulator are cleared (R54). -/
def BasicTimer.restart (b : BasicTimer) : BasicTimer :=
  { b with count := 0, acc := 0, running := true, endDue := false, shortDue := false }

/-- START mode: ignored while running (R57). -/
def BasicTimer.start (b : BasicTimer) : BasicTimer := if b.running then b else b.restart

/-- What trigger `t` (0 to 7 timer ends, 8 to 15 markers) does to a timer (R57). A marker's gate starts closed at reset, and
neither a start nor a change of SMODE closes it again; a reserved SMODE does nothing (DESIGN CHOICE, log 67). -/
def BasicTimer.triggered (t : Nat) (b : BasicTimer) : BasicTimer :=
  if b.trig ≠ t then b
  else match b.smode with
    | 1 => if 8 ≤ t then { b with gateOpen := !b.gateOpen } else b
    | 2 => b.restart
    | 3 => b.feed true 1
    | 4 => b.start
    | _ => b

/-- A timer end or a marker firing triggers the slave timers (R57). -/
def btTrigger (t : Nat) (s : State) : State := { s with peri.bt := s.peri.bt.map (BasicTimer.triggered t) }

/-- A source tick of pin TINi reaches the timers that count it (R60 SRC 5). -/
def tinTick (i : Nat) (s : State) : State :=
  { s with peri.bt := s.peri.bt.map fun b =>
      if b.src = 5 && fld b.ctrl 7 6 = i && b.smode ≠ 3 then b.feed (gateOf s.peri.bt b) 1 else b }

/-- The end of timer n with its end event, actions, captures and slave triggers (R52, R54, R57). -/
def btEnd (n : Fin 8) (s : State) : State :=
  let b := s.peri.bt[n]
  if s.isUsable dPERI && b.running && b.endDue then
    let b' : BasicTimer := { b with running := false, ended := true, endDue := false, shortDue := false,
                                    short := b.short || b.shortDue }
    let s1 := { s with peri.bt := s.peri.bt.set n b' }
    let s2 := if bitAt b.ctrl 17 then adcTrigger s1 else s1
    let s3 := if bitAt b.ctrl 18 then dmaNamed (Fin.ofNat 16 (fld b.ctrl 22 19)) s2 else s2
    btTrigger n.val (captureFrom (fun w => fld w 4 2 = 2 && fld w 14 12 = n.val) s3)
  else s

def execBtEnd (n : Fin 8) (s : State) : Out := .next (btEnd n s)

/-- Application code reaches the register pages: until stop entry, with APP and the page's domain on (R364, R365, R428). -/
def pageOpen (s : State) (d : Nat) : Bool := s.awake && s.on dAPP && (d = 0 || s.isUsable d)

/-- A change of one timer by application code. -/
def setBt (n : Fin 8) (f : BasicTimer → BasicTimer) (s : State) : State :=
  if pageOpen s dPERI then { s with peri.bt := s.peri.bt.set n (f s.peri.bt[n]) } else s

def btStop (b : BasicTimer) : BasicTimer := { b with running := false, endDue := false, shortDue := false }

def execBtStart (n : Fin 8) (s : State) : Out := .next (setBt n BasicTimer.start s)
def execBtStop (n : Fin 8) (s : State) : Out := .next (setBt n btStop s)
def execBtPeriodWrite (n : Fin 8) (period : Word) (s : State) : Out := .next (setBt n (fun b => { b with period }) s)

/-! ### Pin edges (R52, R373, R374) -/

/-- An edge of pin k is seen: ISTAT, the captures that select it, and a TIN source tick. -/
def pinEdge (k : Fin 64) (rising : Bool) (s : State) : State :=
  let g := s.peri.gpio[portOf k]
  let m := fld g.imode (2 * bitOf k + 1) (2 * bitOf k)
  let g' : GpioPort := if m = 3 || m = (if rising then 1 else 2) then { g with istat := g.istat ||| (1#16 <<< bitOf k) } else g
  let s1 := { s with peri.gpio := s.peri.gpio.set (portOf k) g' }
  let s2 := captureFrom (fun w => fld w 4 2 = 1 && fld w 11 6 = k.val && bitAt w 5 = !rising) s1
  if rising && 4 ≤ k.val && k.val ≤ 7 && padFunc k.val (padConfig s k) = 4 then tinTick (k.val - 4) s2 else s2

/-- A change `f` of the pins is followed by the edges that it makes at the synchronised inputs. -/
def withEdges (f : State → State) (s : State) : State :=
  let s' := f s
  if s.isUsable dPERI && s'.isUsable dPERI then
    allPins.foldl (fun acc k => if gpioIn s k ≠ gpioIn s' k then pinEdge k (gpioIn s' k) acc else acc) s'
  else s'

/-- OUT of a port written. -/
def setOut (p : Fin 4) (f : BitVec 16 → BitVec 16) (s : State) : State :=
  withEdges (fun s =>
    let g : GpioPort := { s.peri.gpio[p] with out := f s.peri.gpio[p].out &&& portMask s p.val }
    { s with peri.gpio := s.peri.gpio.set p g }) s

/-- A marker's GPIO toggle; an absent pin drops it (R59, R374). -/
def gpioToggle (k : Fin 64) (s : State) : State := setOut (portOf k) (fun o => o ^^^ (1#16 <<< bitOf k)) s

def gpioWrite (p : Fin 4) (f : BitVec 16 → BitVec 16) (s : State) : State :=
  if pageOpen s dPERI then setOut p f s else s

def execGpioSet (port : Fin 4) (w : Word) (s : State) : Out := .next (gpioWrite port (fun o => o ||| w.setWidth 16) s)
def execGpioClr (port : Fin 4) (w : Word) (s : State) : Out := .next (gpioWrite port (fun o => o &&& ~~~(w.setWidth 16)) s)
def execGpioTgl (port : Fin 4) (w : Word) (s : State) : Out := .next (gpioWrite port (fun o => o ^^^ w.setWidth 16) s)

/-- The world drives a pin to a level for so many SYSCLK cycles: an edge needs 2 (R374). A KIN pad of the same terminal sees the level
too; the Kerb takes an edge of it by its own row, under its own filter (R447, R509). -/
def gpioEdge (k : Fin 64) (level : Bool) (cycles : Nat) (s : State) : State :=
  if cycles < 2 || !pinPresent s k.val then s
  else
    let set (s : State) : State :=
      let g := s.peri.gpio[portOf k]
      let b := 1#16 <<< bitOf k
      let g' : GpioPort := { g with level := if level then g.level ||| b else g.level &&& ~~~b }
      let kin (i : Fin 8) : BitVec 8 := if level then s.kerb.kin ||| (1#8 <<< i.val) else s.kerb.kin &&& ~~~(1#8 <<< i.val)
      { s with peri.gpio := s.peri.gpio.set (portOf k) g'
               kerb.kin := match kinOfPin s k.val with | some i => kin i | none => s.kerb.kin }
    withEdges set s

def execGpioEdge (pin : Fin 64) (level : Bool) (cycles : Nat) (s : State) : Out := .next (gpioEdge pin level cycles s)

/-! ### Markers and captures (R45-R53) -/

/-- What an action of a firing marker does, or that it is dropped since its domain is off (R47). -/
def markerAct (sel : Bool) (ok : Bool) (f : State → State) (x : State × Bool) : State × Bool :=
  if sel then (if ok then (f x.1, x.2) else (x.1, true)) else x

/-- MARKER_FIRED: a marker whose target is reached fires with its actions (R45, R47, R48, R52). Its W1C bits LATE and DROPPED are
set and never cleared by a firing (R59); the toggle of an absent pin is dropped. -/
def markerFired (n : Fin 16) (s : State) : State :=
  let m := s.cmps.marks[n]
  if bitAt m.ctrl 0 && decide (m.target.toNat ≤ s.time.nt.toNat) then
    let m1 : Marker := { m with ctrl := m.ctrl &&& ~~~1#32, fired := true, late := m.late || m.jumped, jumped := false }
    let s1 := { s with cmps.marks := s.cmps.marks.set n m1 }
    let peri := s.isUsable dPERI && s.awake
    let w := m.ctrl
    let x0 := (if bitAt w 2 && 8 ≤ n.val then ntcIrq (n.val - 8) s1 else s1, false)
    let x1 := markerAct (bitAt w 3) (peri && s.isUsable dKERB) adcTrigger x0
    let x2 := markerAct (bitAt w 4) peri (dmaNamed (Fin.ofNat 16 (fld w 11 8))) x1
    let x3 := markerAct (bitAt w 5) peri
      (fun s => { s with peri.bt := s.peri.bt.set (Fin.ofNat 8 (fld w 14 12)) s.peri.bt[Fin.ofNat 8 (fld w 14 12)].start }) x2
    let x4 := markerAct (bitAt w 6) (peri && pinPresent s (fld w 21 16)) (gpioToggle (Fin.ofNat 64 (fld w 21 16))) x3
    let x5 := markerAct (bitAt w 7) (s.isUsable dKERB) kerbTrigger x4
    let s2 := if 8 ≤ n.val then
        let s3 := if peri then btTrigger n.val x5.1 else x5.1
        captureFrom (fun c => fld c 4 2 = 3 && fld c 17 15 = n.val - 8) s3
      else x5.1
    let s4 := { s2 with cmps.marks := s2.cmps.marks.set n { m1 with dropped := m.dropped || x5.2 } }
    if bitAt w 1 then raise 0x0C1 (W (n.val + b2n m.jumped * 16 + b2n x5.2 * 32) :: words64 m.target) s4 else s4
  else s

def execMarkerFired (n : Fin 16) (s : State) : Out := .next (markerFired n s)

/-- A write of NTC_MKn_CTRL (R45, R46, R59): arming with a target not later than NT makes the firing late. A write of ARM = 0
to a marker that is due falls in the cycle of its firing, which takes place first. -/
def writeMkCtrl (n : Fin 8) (w : Word) (s0 : State) : State :=
  let i : Fin 16 := ⟨n.val + 8, by omega⟩
  let s := if bitAt w 0 then s0 else markerFired i s0
  let m := s.cmps.marks[i]
  let late := if bitAt w 0 && !bitAt m.ctrl 0 then decide (m.target.toNat ≤ s.time.nt.toNat) else m.jumped && bitAt w 0
  { s with cmps.marks := s.cmps.marks.set i { m with ctrl := w &&& 0x003F7FFF#32, jumped := late } }

def execMarkerArm (n : Fin 8) (ctrl : Word) (s : State) : Out :=
  .next (if pageOpen s 0 then writeMkCtrl n ctrl s else s)

/-- CAPTURE: a capture event on CP1 to CP3 (u = 0 to 2) from its selected hardware source (R49, R52). A reserved SRC selects
none (DESIGN CHOICE, log 67). -/
def captureEvent (u : Fin 3) (s : State) : State :=
  let k : Fin 4 := ⟨u.val + 1, by omega⟩
  let w := s.cmps.caps[k].ctrl
  if bitAt w 0 && 1 ≤ fld w 4 2 && fld w 4 2 ≤ 4 then captureNow k s else s

def execCapture (u : Fin 3) (s : State) : Out := .next (captureEvent u s)

/-- A read leaves its word on the data bus. -/
def busOut (w : Word) (s : State) : State := { s with core.busRead := w }

/-- A read of NTC_CPn_LO (R50): a pending value freed by an earlier high-word read has moved in, a cycle after it. -/
def readCpLo (u : Fin 4) (s : State) : Word × State :=
  let c := s.cmps.caps[u].settle
  (lo32 c.value, { s with cmps.caps := s.cmps.caps.set u { c with frozen := true } })

/-- A read of NTC_CPn_HI (R50): while frozen it consumes the value, and a pending one moves in at the next cycle. -/
def readCpHi (u : Fin 4) (s : State) : Word × State :=
  let c := s.cmps.caps[u].settle
  (hi32 c.value,
   if c.frozen then
     { s with cmps.caps := s.cmps.caps.set u { c with frozen := false, new := false, moveDue := c.slot.isSome } }
   else s)

/-- A read by application code through an open page. -/
def pageReadAs (d : Nat) (f : State → Word × State) (s : State) : State :=
  if pageOpen s d then busOut (f s).1 (f s).2 else s

def execNtcCpLoRead (u : Fin 4) (s : State) : Out := .next (pageReadAs 0 (readCpLo u) s)
def execNtcCpHiRead (u : Fin 4) (s : State) : Out := .next (pageReadAs 0 (readCpHi u) s)

/-- SWTRIG written: the unit captures now (R52, R59); CP1 to CP3 must be enabled, CP0 by PPS_CONFIG. -/
def swtrig (u : Fin 4) (s : State) : State :=
  let en := if u.val = 0 then s.time.enable else bitAt s.cmps.caps[u].ctrl 0
  if en then captureNow u s else s

def execSwtrig (u : Fin 4) (s : State) : Out := .next (if pageOpen s 0 then swtrig u s else s)

def readGlitch (s : State) : Word × State := (s.time.glitch.setWidth 32, { s with time.glitch := 0 })

def readCpLost (u : Fin 4) (s : State) : Word × State :=
  let c := s.cmps.caps[u]
  (c.lost.setWidth 32, { s with cmps.caps := s.cmps.caps.set u { c with lost := 0 } })

def execNtcPpsGlitchRead (s : State) : Out := .next (pageReadAs 0 readGlitch s)
def execNtcCpLostRead (u : Fin 4) (s : State) : Out := .next (pageReadAs 0 (readCpLost u) s)

/-! ### SPI controllers (R375) -/

/-- The bits of a frame of the selected SIZE; a reserved SIZE gives an open value (log 5). -/
def spicMask (c : Spic) (w : Word) (s : State) : Word × State :=
  match fld c.ctrl 5 4 with
  | 0 => (w &&& 0xFF#32, s)
  | 1 => (w &&& 0xFFFF#32, s)
  | 2 => (w, s)
  | _ => drawWord s

/-- The low SIZE bits of a frame, which are sent (R375). -/
def spicSent (c : Spic) (w : Word) : Word :=
  match fld c.ctrl 5 4 with | 0 => w &&& 0xFF#32 | 1 => w &&& 0xFFFF#32 | _ => w

/-- The next waiting frame goes onto the wire, or the controller rests and chip select falls (R375). -/
def Spic.advance (c : Spic) : Spic :=
  if !bitAt c.ctrl 0 || c.wire.isSome then c
  else match c.tx with
    | f :: rest => { c with wire := some (spicSent c f), tx := rest, csActive := true }
    | [] => if c.csActive && (!bitAt c.ctrl 8 || c.csEnd) then { c with csActive := false, csEnd := false } else c

def setSpic (i : Fin 2) (f : Spic → Spic) (s : State) : State :=
  { s with peri.spic := s.peri.spic.set i (f s.peri.spic[i]) }

/-- A write of SPIC_TX: one frame is appended; a full FIFO ignores it (DEDUCED, log 20). -/
def spicTx (w : Word) (c : Spic) : Spic := if c.tx.length < 8 then Spic.advance { c with tx := c.tx ++ [w] } else c

/-- A read of SPIC_RX takes a frame, 0 when empty. -/
def spicRx (i : Fin 2) (s : State) : Word × State :=
  let c := s.peri.spic[i]
  (c.rx.headD 0#32, setSpic i (fun c => { c with rx := c.rx.tail }) s)

/-- CS_END: chip select falls after the last waiting frame. -/
def spicCsEnd (c : Spic) : Spic :=
  if c.wire.isNone && c.tx.isEmpty then { c with csActive := false, csEnd := false } else { c with csEnd := true }

/-- A frame on the wire ends with `miso` received. -/
def spicFrameEnd (i : Fin 2) (miso : Word) (s : State) : State :=
  let c := s.peri.spic[i]
  if s.isUsable dPERI && c.wire.isSome then
    let r := spicMask c miso s
    let full := decide (8 ≤ c.rx.length)
    let c1 : Spic := { c with wire := none, rx := if full then c.rx else c.rx ++ [r.1], rxovr := c.rxovr || full,
                              done := c.done || c.tx.isEmpty }
    setSpic i (fun _ => c1.advance) r.2
  else s

def execSpicTxWrite (c : Fin 2) (w : Word) (s : State) : Out :=
  .next (if pageOpen s dPERI then setSpic c (spicTx w) s else s)
def execSpicRxRead (c : Fin 2) (s : State) : Out := .next (pageReadAs dPERI (spicRx c) s)
def execCsEnd (c : Fin 2) (s : State) : Out := .next (if pageOpen s dPERI then setSpic c spicCsEnd s else s)
def execSpicFrameEnd (c : Fin 2) (miso : Word) (s : State) : Out := .next (spicFrameEnd c miso s)

/-! ### I²C controllers (R376, R377) -/

def setI2c (i : Fin 2) (f : I2c → I2c) (s : State) : State :=
  { s with peri.i2c := s.peri.i2c.set i (f s.peri.i2c[i]) }

/-- A write of I2C_CMD: ignored while BUSY, and by a disabled controller (DEDUCED, log 20). The manual gives no effect
for a COUNT of 0: the number of bytes is then a free value (log 5). -/
def i2cCmd (i : Fin 2) (w : Word) (s : State) : State :=
  let c := s.peri.i2c[i]
  if c.cmd.isSome || !bitAt c.ctrl 0 then s
  else
    let n := fld w 15 8
    let r := if n = 0 then drawWord s else (0#32, s)
    let count := if n = 0 then r.1.toNat % 255 + 1 else n
    setI2c i (fun c => { c with cmd := some { addr := w.setWidth 7, read := bitAt w 7, count, stop := bitAt w 16 },
                                doneBytes := 0, held := false }) r.2

def i2cTx (w : Word) (c : I2c) : I2c := if c.tx.length < 8 then { c with tx := c.tx ++ [w.setWidth 8] } else c

def i2cRx (i : Fin 2) (s : State) : Word × State :=
  ((s.peri.i2c[i].rx.headD 0#8).setWidth 32, setI2c i (fun c => { c with rx := c.rx.tail }) s)

/-- The command ends by NACK or timeout, with STOP and ERR (R377). -/
def I2c.fail (c : I2c) : I2c := { c with cmd := none, done := true, err := true, held := false }

/-- A data byte is complete: the command goes on or ends (R376). -/
def I2c.stepData (c : I2c) (k : I2cCmd) : I2c :=
  let n := c.doneBytes + 1
  if k.count ≤ n then { c with doneBytes := n, cmd := none, done := true, held := !k.stop }
  else { c with doneBytes := n }

/-- A byte ends on the bus: the address byte, a byte written (acknowledged or not) or a byte read (R376, R377). SCL is
held, and no byte ends, while a write finds I2C_TX empty or a read finds I2C_RX full. -/
def I2c.byteEnd (acked : Bool) (rx : Byte) (c : I2c) : I2c :=
  match c.cmd with
  | none => c
  | some k =>
    if !k.addressed then
      (if acked then { c with cmd := some { k with addressed := true } } else { c.fail with nackAddr := true })
    else if k.read then
      (if c.rx.length < 8 then I2c.stepData { c with rx := c.rx ++ [rx] } k else c)
    else match c.tx with
      | [] => c
      | _ :: rest =>
        let c1 := { c with tx := rest }
        if acked then c1.stepData k else { c1.fail with nackData := true }

/-- SCL has been low for 25 ms (R377). -/
def I2c.timedOut (c : I2c) : I2c := if c.cmd.isSome then { c.fail with timeout := true } else c

def execI2cCmdWrite (c : Fin 2) (w : Word) (s : State) : Out := .next (if pageOpen s dPERI then i2cCmd c w s else s)
def execI2cTxWrite (c : Fin 2) (w : Word) (s : State) : Out :=
  .next (if pageOpen s dPERI then setI2c c (i2cTx w) s else s)
def execI2cRxRead (c : Fin 2) (s : State) : Out := .next (pageReadAs dPERI (i2cRx c) s)
def execI2cByteEnd (c : Fin 2) (acked : Bool) (rx : Byte) (s : State) : Out :=
  .next (if s.isUsable dPERI then setI2c c (I2c.byteEnd acked rx) s else s)
def execI2cTimeout (c : Fin 2) (s : State) : Out := .next (if s.isUsable dPERI then setI2c c I2c.timedOut s else s)

/-! ### UARTs (R378) -/

def setUart (u : Fin 3) (f : Uart → Uart) (s : State) : State :=
  { s with peri.uart := s.peri.uart.set u (f s.peri.uart[u]) }

/-- The next waiting character goes onto the wire while the transmitter is on. -/
def Uart.advance (u : Uart) : Uart :=
  if bitAt u.ctrl 0 && bitAt u.ctrl 2 && u.wire.isNone then
    match u.tx with
    | b :: rest => { u with wire := some b, tx := rest }
    | [] => u
  else u

/-- A write of UART_TX: ignored when full. -/
def uartTx (w : Word) (u : Uart) : Uart :=
  if u.tx.length < 16 then Uart.advance { u with tx := u.tx ++ [w.setWidth 8] } else u

/-- A read of UART_RX takes a character; EMPTY when there is none. -/
def uartRx (i : Fin 3) (s : State) : Word × State :=
  match s.peri.uart[i].rx with
  | [] => (0x800#32, s)
  | c :: rest => (c.setWidth 32, setUart i (fun u => { u with rx := rest }) s)

def uartLost (i : Fin 3) (s : State) : Word × State :=
  (s.peri.uart[i].lost.setWidth 32, setUart i (fun u => { u with lost := 0 }) s)

/-- A character arrives: into the FIFO, or discarded and counted when it is full. -/
def uartChar (d : Byte) (perr ferr brk : Bool) (u : Uart) : Uart :=
  if bitAt u.ctrl 0 && bitAt u.ctrl 1 then
    let p := perr && fld u.ctrl 4 3 ≠ 0
    let u1 := { u with err := u.err || p || ferr || brk, active := true }
    if u.rx.length < 16 then
      let c : BitVec 11 := BitVec.ofNat 11 (d.toNat + b2n p * 256 + b2n ferr * 512 + b2n brk * 1024)
      { u1 with rx := u.rx ++ [c] }
    else { u1 with rxovr := true, lost := satInc16 u.lost }
  else u

/-- The character on the wire ends. -/
def uartSent (u : Uart) : Uart := if u.wire.isSome then Uart.advance { u with wire := none } else u

/-- The line has been idle for TIMEOUT bit times after a character. -/
def uartIdle (u : Uart) : Uart :=
  if u.active && bitAt u.ctrl 0 && bitAt u.ctrl 1 then { u with rxidle := true, active := false } else u

def execUartTxWrite (u : Fin 3) (w : Word) (s : State) : Out :=
  .next (if pageOpen s dPERI then setUart u (uartTx w) s else s)
def execUartRxRead (u : Fin 3) (s : State) : Out := .next (pageReadAs dPERI (uartRx u) s)
def execUartLostRead (u : Fin 3) (s : State) : Out := .next (pageReadAs dPERI (uartLost u) s)
def execUartRxCharacter (u : Fin 3) (data : Byte) (perr ferr brk : Bool) (s : State) : Out :=
  .next (if s.isUsable dPERI && s.awake then setUart u (uartChar data perr ferr brk) s else s)
def execUartTxCharacter (u : Fin 3) (s : State) : Out :=
  .next (if s.isUsable dPERI && s.awake && s.power.hfxo then setUart u uartSent s else s)
def execRxidle (u : Fin 3) (s : State) : Out :=
  .next (if s.isUsable dPERI && s.awake then setUart u uartIdle s else s)

/-! ### ADC in run (R379, R380) -/

/-- The channel of entry i of the sequence. -/
def adcChannel (a : Adc) (i : Nat) : Nat := fld a.seq (4 * i + 3) (4 * i)

/-- A read of ADC_DATA takes one result; VALID 0 when there is none. -/
def adcData (s : State) : Word × State :=
  match s.peri.adc.fifo with
  | [] => (0#32, s)
  | r :: rest => (r.setWidth 32, { s with peri.adc.fifo := rest })

/-- A read of ADC_LOST clears both counts. -/
def adcLost (s : State) : Word × State :=
  (W (s.peri.adc.trigLost.toNat + s.peri.adc.resLost.toNat * 65536),
   { s with peri.adc := { s.peri.adc with trigLost := 0, resLost := 0, lostSeen := false } })

/-- A conversion of the sequence in progress ends (R379, R380); channel 8 is also a die-temperature sample (R42, R445). -/
def adcConversionEnd (result : BitVec 12) (sensors : Sensors) (s : State) : State :=
  match s.peri.adc.busy with
  | none => s
  | some i =>
    if !(s.isUsable dPERI && s.isUsable dKERB && s.awake) then s
    else
      let a := s.peri.adc
      let ch := adcChannel a i
      let r : BitVec 18 := BitVec.ofNat 18 (result.toNat + ch * 4096 + 65536 + b2n a.delayed * 131072)
      let a1 : Adc := if a.fifo.length < 8 then { a with fifo := a.fifo ++ [r] }
        else { a with resLost := satInc16 a.resLost, lostSeen := true }
      let a2 : Adc :=
        if i < fld a.seq 17 16 then { a1 with busy := some (i + 1) }
        else if a1.pend then { a1 with busy := some 0, pend := false, delayed := false }
        else { a1 with busy := none, delayed := false }
      let s1 := { s with peri.adc := a2 }
      if ch = 8 then sampleTemp ((result.toNat : Int) * 10 / 16 - 640) sensors s1 else s1

def execAdcStart (s : State) : Out := .next (if pageOpen s dPERI then adcTrigger s else s)
def execAdcDataRead (s : State) : Out := .next (pageReadAs dPERI adcData s)
def execAdcLostRead (s : State) : Out := .next (pageReadAs dPERI adcLost s)
def execAdcConversionEnd (result : BitVec 12) (sensors : Sensors) (s : State) : Out := .next (adcConversionEnd result sensors s)

end Sys2Proof.Machine
end

