-- ==== Sys2Proof/Machine/Plaza.lean ====
section
/-! DEFINITION. The ports: SPI and UART transactions, the mailbox registers, the Lanes' consumers, the events' backlog
and the system commands (R63-R95). -/

namespace Sys2Proof.Machine
open Sys2Proof

/-! ### Reading a Lane (R75, R76, R79, R87) -/

/-- Frame Store space of the frame whose packet has been taken or dropped is released (R79). -/
def releaseFrame (p : PortId) (high : Bool) (s : State) : State :=
  { s with rx.store := s.rx.store.eraseP fun f => f.moved && f.port = p && f.high = high }

/-- A packet of Lane index i has ended at its consumer: RX packets release their frame. -/
def packetTaken (p : PortId) (i : Fin 5) (s : State) : State :=
  if i = laneRxHigh then releaseFrame p true s else if i = laneRxLow then releaseFrame p false s else s

/-- One word delivered through an external port: the CRC word still due, or the head word (R87). Answers the word, the
Lane and whether a packet's last word was taken. -/
def readOne (l : Lane) : Option (Word × Lane × Bool) :=
  match l.crcDue with
  | some c => some (c, { l with crcDue := none }, false)
  | none =>
    match takeLane l with
    | none => none
    | some (w, l', ended) =>
      let tk := l.taken ++ [w]
      some (if ended then (w, { l' with taken := [], crcDue := some (crcOfWords tk) }, true)
        else (w, { l' with taken := tk }, false))

/-- AVAIL of a read: what the Lane can deliver, CRC words included (R86, R87). -/
def availOf : Nat → Lane → Nat
  | 0, _ => 0
  | n + 1, l =>
    match readOne l with
    | none => 0
    | some (_, l', _) => 1 + availOf n l'

/-- At most n words delivered from a Lane, and how many packets ended. -/
def readMany : Nat → Lane → List Word × Lane × Nat
  | 0, l => ([], l, 0)
  | n + 1, l =>
    match readOne l with
    | none => ([], l, 0)
    | some (w, l', ended) =>
      let r := readMany n l'
      (w :: r.1, r.2.1, r.2.2 + b2n ended)

/-- A function repeated. -/
def iterate {α : Type} (f : α → α) : Nat → α → α
  | 0, x => x
  | n + 1, x => iterate f n (f x)

/-- The idle word (R66). -/
def idleWord : Word := 0x7E7E7E7E#32

/-! ### The status word (R86) -/

def typeOf (ctrl : Word) : Nat := fld ctrl 31 30
def laneOf (ctrl : Word) : Nat := fld ctrl 26 24
def wordsOf (ctrl : Word) : Nat := fld ctrl 6 0

/-- The read names no Lane 1 to 5. -/
def badLane (ctrl : Word) : Bool := typeOf ctrl = 2 && (laneOf ctrl = 0 || decide (5 < laneOf ctrl))

/-- A control word is malformed (R86). -/
def malformed (ctrl : Word) : Bool := badLane ctrl || fld ctrl 28 27 ≠ 0 || fld ctrl 23 7 ≠ 0

/-- What of this shows in bits [31:24], when AVAIL is decided (R86; DEDUCED, log 21). -/
def malformedEarly (ctrl : Word) : Bool := badLane ctrl || fld ctrl 28 27 ≠ 0

/-- The Lane a read names. -/
def laneIdx (ctrl : Word) : Fin 5 := Fin.ofNat 5 (laneOf ctrl - 1)

/-- READY flags of Lanes 1 to 5. -/
def readyBits (q : Port) : Nat :=
  b2n q.lanes[0].ready + b2n q.lanes[1].ready * 2 + b2n q.lanes[2].ready * 4 + b2n q.lanes[3].ready * 8
    + b2n q.lanes[4].ready * 16

/-- AVAIL for a control word. -/
def availFor (q : Port) (ctrl : Word) : Nat :=
  if malformedEarly ctrl then 0
  else match typeOf ctrl with
    | 1 => q.cmd.free
    | 2 => availOf 130 q.lanes[laneIdx ctrl]
    | _ => 0

/-- The status word for a control word. -/
def statusWord (q : Port) (ctrl : Word) : Word :=
  W (availFor q ctrl + readyBits q * 256 + b2n q.crcErr * 2 ^ 13 + b2n q.overrun * 2 ^ 14 + b2n q.protoErr * 2 ^ 15
    + 0xA5 * 2 ^ 24)

/-- The port after its status word: the sticky flags cleared, and PROTO_ERR set again by a malformed control word. -/
def afterStatus (ctrl : Word) (q : Port) : Port :=
  { q with crcErr := false, overrun := false, protoErr := malformed ctrl }

/-- HOST_IRQ (R91). -/
def hostIrq (s : State) : Bool :=
  let any (q : Port) := q.lanes[0].ready || q.lanes[1].ready || q.lanes[2].ready || q.lanes[3].ready
  s.hostRdy && (any (s.port .spi) || any (s.port .uart))

/-! ### Command-in (R88, R90) -/

/-- The words of the packet that is not yet whole leave command-in. -/
def CmdIn.dropPartial (c : CmdIn) : CmdIn :=
  let keep := c.have.length - c.got
  { c with stages := c.stages.take (keep - c.taken.length), taken := c.taken.take keep, got := 0, left := 0 }

/-- Word 0 of the packet that is not yet whole. -/
def CmdIn.word0 (c : CmdIn) : Word := c.have.getD (c.have.length - c.got) 0#32

/-- A partially received packet is abandoned without a response and counted; an overrun discard ends (R90). -/
def resync (q : Port) : Port :=
  let c := q.cmd
  if 0 < c.got then { q with cmd := { c.dropPartial with discard := 0 }, abandoned := satInc q.abandoned }
  else { q with cmd := { c with discard := 0 } }

/-- The packet that a discarded word belongs to is abandoned and answered BAD_LENGTH; the rest of it is discarded as it
arrives (R88). -/
def overrunAt (p : PortId) (crc : Bool) (w : Word) (s : State) : State :=
  let q := s.port p
  let c := q.cmd
  let w0 := if c.got = 0 then w else c.word0
  let rest := if c.got = 0 then countOf w + b2n crc else c.left - 1
  let c' := if c.got = 0 then { c with discard := rest } else { c.dropPartial with discard := rest }
  refuseUnseen p (fld w0 27 16) (w0.extractLsb' 10 6) .badLength false (s.setPort p { q with cmd := c' })

/-- The words of a write: those past `free` are discarded with OVERRUN (R88). -/
def writeWords (p : PortId) : Nat → List Word → State → State
  | _, [], s => s
  | free, w :: ws, s =>
    let q := s.port p
    let exc := decide (free = 0)
    let s1 :=
      if 0 < q.cmd.discard then
        s.setPort p { q with cmd := { q.cmd with discard := q.cmd.discard - 1 }, overrun := q.overrun || exc }
      else if exc then overrunAt p true w (s.setPort p { q with overrun := true })
      else s.setPort p { q with cmd := q.cmd.accept true (plazaRoom p s) w }
    writeWords p (free - 1) ws s1

/-! ### Transactions of the external ports (R86-R92) -/

def extPort (uart : Bool) : PortId := if uart then .uart else .spi

/-- The port takes transactions: HOST_RDY is high, and the UART has a rate (R91, R92). -/
def portLive (uart : Bool) (s : State) : Bool := s.hostRdy && (!uart || s.plaza.uartBitNs.isSome)

/-- RESYNC of a well-formed control word (R86); a malformed one has no other effect than PROTO_ERR, and its RESYNC bit none
(DESIGN CHOICE, log 68). -/
def applyResync (ctrl : Word) (q : Port) : Port := if bitAt ctrl 29 && !malformed ctrl then resync q else q

/-- n line errors of the host UART port are counted (R92, R247). -/
def lineErrors (n : Nat) (s : State) : State :=
  s.setPort .uart { s.port .uart with lineErr := satAdd (s.port .uart).lineErr n }

/-- The characters of a UART transaction that had a framing error are counted as they arrive (R92). -/
def onWire (wire : Wire) (s : State) : State :=
  match wire with
  | .spi => s
  | .uart n => if n = 0 || !portLive true s then s else lineErrors n s

/-- A transaction ignored while HOST_RDY is low: HOST_MISO returns zero words (R91). -/
def deadPort (uart : Bool) (n : Nat) (s : State) : State :=
  if uart then s else s.setPort .spi { s.port .spi with out := List.replicate (n + 1) 0#32 }

/-- A write transaction (R86, R88). -/
def hostWrite (uart : Bool) (ctrl : Word) (data : List Word) (s : State) : State :=
  let p := extPort uart
  if typeOf ctrl ≠ 1 then s
  else if !portLive uart s then deadPort uart data.length s
  else
    let q := s.port p
    let q1 := applyResync ctrl (afterStatus ctrl q)
    let idle := if uart then [] else data.map fun _ => idleWord
    let s1 := s.setPort p { q1 with out := statusWord q ctrl :: idle }
    if malformed ctrl then s1 else writeWords p q.cmd.free (data.take (wordsOf ctrl)) s1

def execHostWriteTransaction (wire : Wire) (ctrl : Word) (data : List Word) (s : State) : Out :=
  .next (hostWrite wire.isUart ctrl data (onWire wire s))

/-- A read transaction (R86, R87): on SPI the host clocks words; on the UART the device sends what it delivers. -/
def hostRead (uart : Bool) (ctrl : Word) (clocked : Nat) (s : State) : State :=
  let p := extPort uart
  if typeOf ctrl ≠ 2 then s
  else if !portLive uart s then deadPort uart clocked s
  else
    let q := s.port p
    let q1 := applyResync ctrl (afterStatus ctrl q)
    if malformed ctrl then
      s.setPort p { q1 with out := statusWord q ctrl :: (if uart then [] else List.replicate clocked idleWord) }
    else
      let i := laneIdx ctrl
      let asked := if uart then wordsOf ctrl else min (wordsOf ctrl) clocked
      let n := min asked (availFor q ctrl)
      let r := readMany n q.lanes[i]
      let pad := if uart then [] else List.replicate (clocked - r.1.length) idleWord
      let s1 := s.setPort p { q1 with lanes := q1.lanes.set i r.2.1, out := statusWord q ctrl :: (r.1 ++ pad) }
      settleLane p i (iterate (packetTaken p i) r.2.2 s1)

def execHostReadTransaction (wire : Wire) (ctrl : Word) (clocked : Nat) (s : State) : Out :=
  .next (hostRead wire.isUart ctrl clocked (onWire wire s))

/-- The completion counters of a poll (R89). -/
def pollWords (q : Port) : List Word :=
  [W (q.lanes[0].complete % 64 + q.lanes[1].complete % 64 * 2 ^ 8 + q.lanes[2].complete % 64 * 2 ^ 16
      + q.lanes[3].complete % 64 * 2 ^ 24), W (q.lanes[4].complete % 64)]

/-- A poll transaction (R89). -/
def hostPoll (uart : Bool) (ctrl : Word) (clocked : Nat) (s : State) : State :=
  let p := extPort uart
  if typeOf ctrl ≠ 3 then s
  else if !portLive uart s then deadPort uart clocked s
  else
    let q := s.port p
    let q1 := applyResync ctrl (afterStatus ctrl q)
    let data :=
      if malformed ctrl then (if uart then [] else List.replicate clocked idleWord)
      else if uart then pollWords q
      else (pollWords q ++ List.replicate clocked idleWord).take clocked
    s.setPort p { q1 with out := statusWord q ctrl :: data }

def execHostPollTransaction (wire : Wire) (ctrl : Word) (clocked : Nat) (s : State) : Out :=
  .next (hostPoll wire.isUart ctrl clocked (onWire wire s))

/-- A transaction of type no operation (R86). -/
def hostNop (uart : Bool) (ctrl : Word) (clocked : Nat) (s : State) : State :=
  let p := extPort uart
  if typeOf ctrl ≠ 0 then s
  else if !portLive uart s then deadPort uart clocked s
  else
    let q := s.port p
    let q1 := applyResync ctrl (afterStatus ctrl q)
    s.setPort p { q1 with out := statusWord q ctrl :: (if uart then [] else List.replicate clocked idleWord) }

def execHostNopTransaction (wire : Wire) (ctrl : Word) (clocked : Nat) (s : State) : Out :=
  .next (hostNop wire.isUart ctrl clocked (onWire wire s))

/-- A break on HOST_RXD after `ctrlBytes` bytes of a control word (R92): alignment is lost, a partial control word counts one line
error, a partial packet is abandoned, a discard ends, and 0x55 is expected. In stop the port is off, and its rate and alignment
stay. -/
def uartBreak (ctrlBytes : Nat) (s : State) : State :=
  if !s.awake || !s.power.vio then s
  else
    let s0 := if 0 < ctrlBytes && s.plaza.uartBitNs.isSome then lineErrors 1 s else s
    let s1 := s0.setPort .uart (resync (s0.port .uart))
    { s1 with plaza.uartBitNs := none, plaza.uartRateDue := true }

def execUartBreak (ctrlBytes : Nat) (s : State) : Out := .next (uartBreak ctrlBytes s)

/-- The byte after a break (R92): the rate is taken, or a line error is counted and the port stays unaligned. -/
def uartRateByte (byte : Byte) (cellsOk : Bool) (bitNs : Nat) (s : State) : State :=
  if !s.plaza.uartRateDue then s
  else
    let s1 := { s with plaza.uartRateDue := false }
    if byte = 0x55#8 && cellsOk then { s1 with plaza.uartBitNs := some bitNs }
    else lineErrors 1 s1

def execUartRateByte (byte : Byte) (cellsOk : Bool) (bitNs : Nat) (s : State) : Out :=
  .next (uartRateByte byte cellsOk bitNs s)

/-! ### The mailbox (R93, R94) -/

/-- A store to MBX_CMD (R88, R94): the word enters command-in, is discarded with an abandoned packet, or holds the bus. -/
def mbxStore (w : Word) (s : State) : State :=
  let q := s.port .mbx
  if s.plaza.mbxHold.isSome then s
  else if 0 < q.cmd.discard then
    { s.setPort .mbx { q with cmd := { q.cmd with discard := q.cmd.discard - 1 } } with plaza.mbxOverrun := true }
  else if q.cmd.stages.length < 64 then s.setPort .mbx { q with cmd := q.cmd.accept false (plazaRoom .mbx s) w }
  else { s with plaza.mbxHold := some w }

def execMbxCmdWrite (w : Word) (s : State) : Out := .next (if pageOpen s dLINK then mbxStore w s else s)

/-- The hold of a store ends after 4,096 cycles: its word is discarded (R94). -/
def mbxHoldExpiry (s : State) : State :=
  match s.plaza.mbxHold with
  | some w => overrunAt .mbx false w { s with plaza.mbxHold := none, plaza.mbxOverrun := true }
  | none => s

def execMbxCmdHoldExpiry (s : State) : Out := .next (mbxHoldExpiry s)

/-- A read of a Lane register: the head word, or the idle word (R75, R93). -/
def mbxLane (i : Fin 5) (s : State) : Word × State :=
  let q := s.port .mbx
  match takeLane q.lanes[i] with
  | none => (idleWord, s)
  | some (w, l, ended) =>
    let s1 := s.setPort .mbx { q with lanes := q.lanes.set i l }
    (w, settleLane .mbx i (if ended then packetTaken .mbx i s1 else s1))

def execMbxLaneRead (lane : Fin 5) (s : State) : Out := .next (pageReadAs dLINK (mbxLane lane) s)

/-- MBX registers other than the Lane registers, by offset (R93). -/
def mbxRead (off : Nat) (s : State) : Word :=
  let q := s.port .mbx
  let lvl (i : Fin 5) := q.lanes[i].stages.length
  let pk (i : Fin 5) := q.lanes[i].complete % 64
  let cur (i : Fin 5) := q.lanes[i].cursor
  match off with
  | 0x020 => W (q.cmd.free + lvl 0 * 2 ^ 8 + lvl 1 * 2 ^ 16 + lvl 2 * 2 ^ 24)
  | 0x024 => W (lvl 3 + lvl 4 * 2 ^ 8)
  | 0x028 => W (pk 0 + pk 1 * 2 ^ 8 + pk 2 * 2 ^ 16 + pk 3 * 2 ^ 24)
  | 0x02C => W (pk 4)
  | 0x030 => W (cur 0 + cur 1 * 2 ^ 16)
  | 0x034 => W (cur 2 + cur 3 * 2 ^ 16)
  | 0x038 => W (cur 4)
  | 0x040 => s.plaza.mbxInten.setWidth 32
  | 0x044 => s.plaza.mbxIntstat.setWidth 32
  | 0x048 => W (b2n s.plaza.mbxOverrun)
  | _ => 0#32

/-- Writes to MBX registers other than MBX_CMD (R93). -/
def mbxWrite (off : Nat) (w : Word) (s : State) : State :=
  match off with
  | 0x040 => { s with plaza.mbxInten := w.setWidth 13 &&& 0x1F1F#13 }
  | 0x044 => { s with plaza.mbxIntstat := s.plaza.mbxIntstat &&& ~~~(w.setWidth 13) }
  | 0x048 => { s with plaza.mbxOverrun := s.plaza.mbxOverrun && !bitAt w 0 }
  | _ => s

/-! ### Events and the Frame Store mover -/

/-- EVENT_BACKLOG_DRAIN: the oldest backlogged event enters the event Lane when it finds room (R82). -/
def backlogDrain (p : PortId) (s : State) : State :=
  let q := s.port p
  match q.backlog with
  | [] => s
  | pkt :: rest =>
    let l := q.lanes[laneEvt]
    if s.inRun && l.waiting.isEmpty && decide (l.stages.length + pkt.length ≤ 64) then
      placeLost p (produce p laneEvt (pkt.map fun w => (w, none)) (s.setPort p { q with backlog := rest }))
    else s

def execEventBacklogDrain (port : PortId) (s : State) : Out := .next (backlogDrain port s)

/-- The first frame of the Frame Store that can enter its RX Lane (R77, R79). -/
def nextMove (high : Bool) (s : State) : Option StoredFrame :=
  let i := if high then laneRxHigh else laneRxLow
  s.rx.store.find? fun f =>
    let l := (s.port f.port).lanes[i]
    f.high = high && !f.moved && l.waiting.isEmpty && decide (l.stages.length < 64)

/-- FRAME_STORE_MOVE: the mover hands the oldest frame's words to its Lane (R74, R79). -/
def frameStoreMove (high : Bool) (s : State) : State :=
  if !s.inRun then s
  else match nextMove high s with
    | none => s
    | some f =>
      let s1 := { s with rx.store := s.rx.store.replace f { f with moved := true } }
      produce f.port (if high then laneRxHigh else laneRxLow) (f.words.map fun w => (w, none)) s1

def execFrameStoreMove (high : Bool) (s : State) : Out := .next (frameStoreMove high s)

/-! ### System commands (R78, R95, R70) -/

def pingRun (c : Cmd) (s : State) : Except Status (List Word × State) := .ok (c.ps, s)

def execPing (p : Packet) (s : State) : Out :=
  .next (plazaRun 0x001 (fun ps => decide (ps.length ≤ 1022)) (immediate pingRun) p s)

/-- The image in the active bank (R391). -/
def activeImage (s : State) : Option Image := if s.upd.activeB then s.upd.bankB else s.upd.bankA

def devInfoRun (_c : Cmd) (s : State) : Except Status (List Word × State) :=
  let v (f : Image → Word) : Word := match activeImage s with | some i => f i | none => 0#32
  .ok ([W (s.power.variant.toNat + 0x0B * 2 ^ 8 + lifecycleCode s.lifecycle * 2 ^ 16 + b2n s.flash.hostApp * 2 ^ 18),
        lo32 s.eui, hi32 s.eui, v (fun i => i.linkVersion), v (fun i => i.appVersion)], s)

def execDevInfo (p : Packet) (s : State) : Out := .next (plazaRun 0x002 (lenIs 0) (immediate devInfoRun) p s)

/-- A warm reset is to follow the two words of an OK response that is about to be placed on a port (R95). -/
def oweReset (p : PortId) (s : State) : State :=
  let l := (s.port p).lanes[laneResp]
  { s with plaza.resetDue := some ⟨p, l.out + l.stages.length + l.waiting.length + 2, none⟩ }

def softResetRun (c : Cmd) (s : State) : Except Status (List Word × State) := .ok ([], oweReset c.port s)

def execSoftReset (p : Packet) (s : State) : Out := .next (plazaRun 0x003 (lenIs 0) (immediate softResetRun) p s)

/-- The event mask that eight words spell (R95). -/
def maskOf (ps : List Word) : BitVec 256 :=
  BitVec.ofNat 256 ((List.range 8).foldl (fun acc i => acc + (ps.getD i 0#32).toNat * 2 ^ (32 * i)) 0)

def eventMaskRun (c : Cmd) (s : State) : Except Status (List Word × State) :=
  let m := maskOf c.ps
  let w9 := param c.ps 9
  if m &&& ~~~definedEvents != 0#256 || !onlyBits w9 1#32 then .error .badParam
  else .ok ([], s.setPort c.port { s.port c.port with mask := m, diagEn := bitAt w9 0 })

def execEventMask (p : Packet) (s : State) : Out := .next (plazaRun 0x006 (lenIs 9) (immediate eventMaskRun) p s)

/-- One word of the packet in which the consumer stands is discarded. -/
def dropWord (p : PortId) (i : Fin 5) (s : State) : State :=
  let q := s.port p
  match takeLane q.lanes[i] with
  | none => s
  | some (_, l, ended) =>
    let s1 := s.setPort p { q with lanes := q.lanes.set i { l with taken := [] } }
    settleLane p i (if ended then packetTaken p i s1 else s1)

def laneDropRun (c : Cmd) (s : State) : Except Status (List Word × State) :=
  let w1 := param c.ps 1
  let lane := fld w1 2 0
  if !onlyBits w1 7#32 || lane = 0 || decide (5 < lane) then .error .badParam
  else
    let i : Fin 5 := Fin.ofNat 5 (lane - 1)
    let n := (s.port c.port).lanes[i].cursor
    if n = 0 then .ok ([0#32], s)
    else
      let s1 := iterate (dropWord c.port i) n s
      let q := s1.port c.port
      let s2 := if i = laneRxHigh || i = laneRxLow then s1.setPort c.port { q with rxDropped := satInc q.rxDropped } else s1
      .ok ([W (n + 2 ^ 16)], s2)

def execLaneDrop (p : Packet) (s : State) : Out := .next (plazaRun 0x40A (lenIs 1) (immediate laneDropRun) p s)

/-- A packet whose CLASS is not 0 or whose CODE is not in the index (R70 steps 2 and 3). -/
def badOpcode (p : Packet) (cls : BitVec 4) (code : BitVec 12) (s : State) : State :=
  if !plazaOpen p.port s || (cls = 0#4 && opcodes.contains code.toNat) then s
  else match arrive cls.toNat code.toNat p s with
    | none => s
    | some (s1, crc) =>
      if !crc then refuseCrc p code.toNat s1 else refuseUnseen p.port code.toNat p.tag .badOpcode false s1

def execBadOpcode (p : Packet) (cls : BitVec 4) (code : BitVec 12) (s : State) : Out := .next (badOpcode p cls code s)

/-- A packet on an external port whose CRC word does not match (R70 step 1). -/
def badCrc (p : Packet) (code : BitVec 12) (s : State) : State :=
  if !plazaOpen p.port s then s
  else match arrive 0 code.toNat p s with
    | some (s1, false) => refuseCrc p code.toNat s1
    | _ => s

def execBadCrc (p : Packet) (code : BitVec 12) (s : State) : Out := .next (badCrc p code s)

end Sys2Proof.Machine
end

