-- ==== Sys2Proof/Machine/Flash.lean ====
section
/-! DEFINITION. The flash controller, protection and the OTP row (R389-R416). -/

namespace Sys2Proof.Machine
open Sys2Proof

/-! ### Layout (R389, R391) -/

/-- Bytes of the flash. -/
def State.flashSize (s : State) : Nat := s.sectors * 8192

/-- The array of a sector: 0 bank A, 1 bank B, 2 the common region (R389, R390). -/
def arrayOf (s : State) (sector : Nat) : Nat :=
  if sector < s.bankSectors then 0 else if sector < 2 * s.bankSectors then 1 else 2

/-- The array index of the active bank. -/
def activeArray (s : State) : Nat := b2n s.upd.activeB

/-- F of the first byte of a bank. -/
def bankBase (s : State) (bank : Nat) : Nat := bank * s.bankSectors * 8192

/-- E: the image extent of the active bank, as F, a multiple of a sector (R391). -/
def imageEnd (s : State) : Nat :=
  bankBase s (activeArray s) + (match activeImage s with | some i => ceilDiv i.extent 8192 * 8192 | none => 0)

/-- The inactive bank is free (R391). -/
def inactiveFree (s : State) : Bool :=
  s.upd.session.isNone && s.upd.staged.isNone && s.upd.act.isNone && s.upd.trial.isNone

/-- A sector lies in a data area (R391). -/
def inDataArea (s : State) (sector : Nat) : Bool :=
  if arrayOf s sector = activeArray s then decide (imageEnd s ≤ sector * 8192)
  else arrayOf s sector ≠ 2 && inactiveFree s

/-- A protection password is programmed (R405). -/
def passwordSet (s : State) : Bool := otpHash s 32 ≠ 0#256

/-- A region with a given protection bit covers a sector, and binds this port (R404, R405). -/
def protectedFor (s : State) (p : PortId) (bit : ProtRegion → Bool) (sector : Nat) : Bool :=
  !(passwordSet s && s.flash.unlocked[portIdx p]) &&
  s.flash.prot.toList.any fun r => r.en && bit r && decide (r.first.toNat ≤ sector) && decide (sector ≤ r.last.toNat)

/-- The sectors from one to another. -/
def sectorRange (first n : Nat) : List Nat := (List.range n).map (first + ·)

/-- A byte of the flash as a read sees it: 0xFF throughout a flagged sector (R401, R402). -/
def flashByte (s : State) (f : Nat) : Byte :=
  if s.flash.flags.getLsbD (f / 8192) then 0xFF#8 else memRead 0xFF#8 s.flash.cells f

/-- A word of the flash, least significant byte first. -/
def flashWord (s : State) (f : Nat) : Word :=
  flashByte s (f + 3) ++ flashByte s (f + 2) ++ flashByte s (f + 1) ++ flashByte s f

/-! ### Operations (R392-R399) -/

/-- A sector's flag set or cleared (R401). -/
def setFlag (sector : Nat) (on : Bool) (s : State) : State :=
  let b := 1#512 <<< sector
  { s with flash.flags := if on then s.flash.flags ||| b else s.flash.flags &&& ~~~b }

/-- A sector erased: every byte reads 0xFF and its flag is clear (R401). -/
def eraseSector (sector : Nat) (s : State) : State :=
  setFlag sector false { s with flash.cells := memClear s.flash.cells (sector * 8192) 8192 }

/-- A unit is blank (R392). -/
def unitBlank (s : State) (f : Nat) : Bool := (memReadList 0xFF#8 s.flash.cells f 16).all (· = 0xFF#8)

/-- A unit written. -/
def writeUnit (f : Nat) (bs : List Byte) (s : State) : State :=
  { s with flash.cells := memWriteList 0xFF#8 s.flash.cells f bs }

/-- How a run of units or sectors went: how many were done, and F of the one that failed. -/
structure FlashEnd where
  done : Nat
  failed : Option Nat
  deriving DecidableEq, Repr

/-- The remaining units programmed in order (R392). `bad`: the number of units that still verify before one whose
read-back mismatches; that unit's content is then open. -/
def programUnits : List (Nat × List Byte) → Option Nat → Nat → State → FlashEnd × State
  | [], _, n, s => (⟨n, none⟩, s)
  | (f, bs) :: rest, bad, n, s =>
    if !unitBlank s f then (⟨n, some f⟩, s)
    else match bad with
      | some 0 =>
        let r := drawWords 4 s
        (⟨n, some f⟩, writeUnit f (unpackLE r.1) r.2)
      | some (k + 1) => programUnits rest (some k) (n + 1) (writeUnit f bs s)
      | none => programUnits rest none (n + 1) (writeUnit f bs s)

/-- The remaining sectors erased in order (R401, R411); a sector that fails its verify keeps its flag. -/
def eraseSectors : Nat → Nat → Option Nat → Nat → State → FlashEnd × State
  | 0, _, _, n, s => (⟨n, none⟩, s)
  | k + 1, sector, bad, n, s =>
    match bad with
    | some 0 => (⟨n, some (sector * 8192)⟩, setFlag sector true s)
    | some (j + 1) => eraseSectors k (sector + 1) (some j) (n + 1) (eraseSector sector s)
    | none => eraseSectors k (sector + 1) none (n + 1) (eraseSector sector s)

/-- FLASH_DONE of an operation (R411). -/
def flashDoneEvent (o : FlashOp) (e : FlashEnd) (s : State) : State :=
  let st := if e.failed.isSome then Status.verifyFail else .ok
  completeEvent o.port 0x050 o.handle
    [o.handle.setWidth 32, W (statusCode st + b2n o.erase * 2 ^ 16), W e.done, W (e.failed.getD 0)] s

/-- The unit or sector of an operation at which a read-back fails is open: any that is left (log 5). -/
def pickBad (fails : Bool) (n : Nat) (s : State) : Option Nat × State :=
  if fails then let r := drawWord s; (some (r.1.toNat % max 1 n), r.2) else (none, s)

/-- An operation runs to its end. -/
def runFlashOp (o : FlashOp) (fails : Bool) (s : State) : State :=
  let b := pickBad fails (if o.erase then o.left else o.units.length) s
  let r := if o.erase then eraseSectors o.left o.sector b.1 o.done b.2 else programUnits o.units b.1 o.done b.2
  flashDoneEvent o r.1 r.2

/-- An operation with `k` of its units or sectors done, fewer than are left; none where a unit was not blank and ended it (R392). -/
def stepOp (k : Nat) (o : FlashOp) (s : State) : Option FlashOp × State :=
  if o.erase then
    let r := eraseSectors k o.sector none o.done s
    (some { o with sector := o.sector + k, left := o.left - k, done := o.done + k }, setFlag (o.sector + k) true r.2)
  else
    let r := programUnits (o.units.take k) none o.done s
    if r.1.failed.isSome then (none, flashDoneEvent o r.1 r.2)
    else (some { o with units := o.units.drop k, done := o.done + k }, r.2)

/-- How far an operation that runs has come when it is looked at or stopped is open: any number of units or sectors short of all
(R393, log 5). -/
def progressed (o : FlashOp) (s : State) : Option FlashOp × State :=
  let n := if o.erase then o.left else o.units.length
  if n ≤ 1 then (some o, s) else let r := drawWord s; stepOp (r.1.toNat % n) o r.2

/-- An operation may advance: no automatic, explicit or brown-out suspension (R396, R397, R400). -/
def flashRuns (s : State) : Bool := !s.flash.suspAuto && !s.flash.suspCmd && !s.flash.suspBod

/-- The erase in progress goes on from now (R396). -/
def resumeErase (s : State) : State := { s with flash.eraseSince := s.elapsed.now }

/-- The operation that runs has come so far (R393). -/
def flashProgress (s : State) : State :=
  match s.flash.inner with
  | some o =>
    if s.flash.suspBod then s
    else
      let r := progressed o s
      if r.1.isSome then { r.2 with flash.inner := r.1 }
      else resumeErase { r.2 with flash.inner := none, flash.suspCmd := s.flash.suspCmd && !s.flash.resumeAfter,
                                  flash.resumeAfter := false }
  | none =>
    match s.flash.op with
    | some o => if flashRuns s then let r := progressed o s; { r.2 with flash.op := r.1 } else s
    | none => s

/-- FLASH_DONE: the operation in progress ends (R392, R399, R401, R411). A program accepted during an explicit
suspension ends first, and the erase resumes if FLASH_RESUME has been given. -/
def flashDone (fails : Bool) (s : State) : State :=
  if !s.awake then s
  else match s.flash.inner with
    | some o =>
      if s.flash.suspBod then s
      else
        let s1 := resumeErase { s with flash.inner := none, flash.suspCmd := s.flash.suspCmd && !s.flash.resumeAfter,
                                       flash.resumeAfter := false }
        runFlashOp o fails s1
    | none =>
      match s.flash.op with
      | some o => if flashRuns s then runFlashOp o fails { s with flash.op := none } else s
      | none => s

def execFlashDone (verifyFails : Bool) (s : State) : Out := .next (flashDone verifyFails s)

/-- FLASH_AUTO_SUSPEND: a read of another sector of the array suspends the erase, which has made 1 ms of progress since it began
or last resumed (R396). -/
def flashAutoSuspend (s : State) : State :=
  match s.flash.op with
  | some o =>
    if o.erase && flashRuns s && elapsedBy s.flash.eraseSince s.elapsed.now (msU 1) then
      { flashProgress s with flash.suspAuto := true }
    else s
  | none => s

def execFlashAutoSuspend (s : State) : Out := .next (flashAutoSuspend s)

/-- FLASH_AUTO_RESUME: the idle interval has passed (R393, R396). -/
def flashAutoResume (s : State) : State := if s.flash.suspAuto then resumeErase { s with flash.suspAuto := false } else s

def execFlashAutoResume (s : State) : Out := .next (flashAutoResume s)

/-! ### Commands (R409-R416) -/

/-- The sectors that an erase has still to erase. -/
def FlashOp.remaining (o : FlashOp) : List Nat := if o.erase then sectorRange o.sector o.left else []

/-- UPD_BEGIN's erase of the inactive bank is in progress, the one command erase (R401, R458). -/
def bankErasing (s : State) : Bool := match s.upd.session with | some u => u.erasing.isSome | none => false

/-- FLASH_BUSY (R394), but for a program outside an explicitly suspended erase (R399). -/
def flashBusy (s : State) (program : Option (List Nat)) : Bool :=
  bankErasing s || match s.flash.op with
  | none => false
  | some o =>
    match program with
    | some secs => !(o.erase && s.flash.suspCmd && s.flash.inner.isNone && secs.all fun x => !o.remaining.contains x)
    | none => true

/-- A flagged sector to which no erase is now being made (R402). -/
def staleFlag (s : State) (sector : Nat) : Bool :=
  s.flash.flags.getLsbD sector && !(match s.flash.op with | some o => o.remaining.contains sector | none => false)

/-- The units of a program: F and bytes. -/
def unitsOf : Nat → List (List Byte) → List (Nat × List Byte)
  | _, [] => []
  | f, b :: bs => (f, b) :: unitsOf (f + 16) bs

def flashProgramRun (c : Cmd) (s : State) : State :=
  let addr := (param c.ps 1).toNat
  let w2 := param c.ps 2
  let n := fld w2 8 0
  let first := addr / 8192
  let last := (addr + 16 * n - 1) / 8192
  let secs := sectorRange first (last + 1 - first)
  match firstFail [
      (!onlyBits w2 0x1FF#32 || addr % 16 ≠ 0 || n = 0 || decide (252 < n) || decide (s.flashSize < addr + 16 * n)
        || arrayOf s first ≠ arrayOf s last, .badParam),
      (secs.any fun x => !inDataArea s x || protectedFor s c.port (·.wp) x, .flashProtected),
      (secs.any (staleFlag s), .badState), (s.power.bodWarn, .brownoutHold),
      (flashBusy s (some secs), .flashBusy), (!canAccept c.port s, .busy)] with
  | some st => finish c st [] s
  | none =>
    let r := takeHandle c.port s
    let o : FlashOp := { port := c.port, handle := r.1, erase := false,
                         units := unitsOf addr (chunks 16 (unpackLE (c.ps.drop 2))) }
    let s1 := if s.flash.op.isSome then { r.2 with flash.inner := some o } else { r.2 with flash.op := some o }
    respondAccepted c r.1 s1

def execFlashProgram (p : Packet) (s : State) : Out :=
  .next (plazaRun 0x801 (fun ps => decide (2 ≤ ps.length) && ps.length = 2 + 4 * fld (param ps 2) 8 0) flashProgramRun p s)

def flashEraseRun (c : Cmd) (s : State) : State :=
  let addr := (param c.ps 1).toNat
  let w2 := param c.ps 2
  let n := fld w2 8 0
  let first := addr / 8192
  let secs := sectorRange first n
  match firstFail [
      (!onlyBits w2 0x1FF#32 || addr % 8192 ≠ 0 || n = 0 || decide (248 < n) || decide (s.sectors < first + n)
        || arrayOf s first ≠ arrayOf s (first + n - 1), .badParam),
      (secs.any fun x => !inDataArea s x || protectedFor s c.port (·.wp) x, .flashProtected),
      (s.power.bodWarn, .brownoutHold), (flashBusy s none, .flashBusy), (!canAccept c.port s, .busy)] with
  | some st => finish c st [] s
  | none =>
    let r := takeHandle c.port s
    let o : FlashOp := { port := c.port, handle := r.1, erase := true, sector := first, left := n }
    respondAccepted c r.1 (setFlag first true { r.2 with flash.op := some o, flash.eraseSince := s.elapsed.now + BitVec.ofNat 64 (usU 20) })

def execFlashErase (p : Packet) (s : State) : Out := .next (plazaRun 0x802 (lenIs 2) flashEraseRun p s)

/-- FLASH_SUSPEND: the operation in progress is suspended as far as it has come; while an explicit suspension is in force it has no
further effect, but that it takes back a FLASH_RESUME that still waits for a program (R397, R399; DEDUCED, log 74). -/
def flashSuspendRun (c : Cmd) (s : State) : State :=
  let s1 := if s.flash.suspCmd then s else flashProgress s
  if s1.flash.op.isNone then finish c .badState [] s1
  else finish c .ok [] { s1 with flash.suspCmd := true, flash.resumeAfter := false }

def execFlashSuspend (p : Packet) (s : State) : Out := .next (plazaRun 0x803 (lenIs 0) flashSuspendRun p s)

def flashResumeRun (_c : Cmd) (s : State) : Except Status (List Word × State) :=
  match firstFail [(!s.flash.suspCmd || s.flash.resumeAfter || s.flash.op.isNone, .badState), (s.power.bodWarn, .brownoutHold)] with
  | some st => .error st
  | none =>
    if s.flash.inner.isSome then .ok ([], { s with flash.resumeAfter := true })
    else .ok ([], resumeErase { s with flash.suspCmd := false })

def execFlashResume (p : Packet) (s : State) : Out := .next (plazaRun 0x804 (lenIs 0) (immediate flashResumeRun) p s)

def protectSetRun (c : Cmd) (s : State) : Except Status (List Word × State) :=
  let w1 := param c.ps 1
  let w2 := param c.ps 2
  let first := fld w2 8 0
  let last := fld w2 24 16
  match firstFail [
      (!onlyBits w1 0x3F#32 || !onlyBits w2 0x01FF01FF#32 || decide (last < first) || decide (2 * s.bankSectors ≤ last), .badParam),
      (passwordSet s && !s.flash.unlocked[portIdx c.port], .denied), (s.power.bodWarn, .brownoutHold)] with
  | some st => .error st
  | none =>
    let r : ProtRegion := { first := BitVec.ofNat 9 first, last := BitVec.ofNat 9 last, en := bitAt w1 3, wp := bitAt w1 4,
                            rp := bitAt w1 5 }
    .ok ([], { s with flash.prot := s.flash.prot.set (Fin.ofNat 8 (fld w1 2 0)) r })

def execProtectSet (p : Packet) (s : State) : Out := .next (plazaRun 0x805 (lenIs 2) (immediate protectSetRun) p s)

def setUnlocked (p : PortId) (b : Bool) (s : State) : State :=
  { s with flash.unlocked := s.flash.unlocked.set (portIdx p) b }

def protectUnlockRun (c : Cmd) (s : State) : State :=
  let w1 := param c.ps 1
  if !onlyBits w1 1#32 then finish c .badParam [] s
  else if bitAt w1 0 then finish c .ok [] (setUnlocked c.port false s)
  else if !passwordSet s then finish c .badState [] s
  else if 3 ≤ s.flash.wrongPw then finish c .locked [] s
  else if sha256 (unpackLE (c.ps.drop 1)) = otpHash s 32 then finish c .ok [] (setUnlocked c.port true s)
  else finish c .authFail [] { s with flash.wrongPw := s.flash.wrongPw + 1 }

def execProtectUnlock (p : Packet) (s : State) : Out :=
  .next (plazaRun 0x806 (fun ps => decide (1 ≤ ps.length) && ps.length = (if bitAt (param ps 1) 0 then 1 else 5))
    protectUnlockRun p s)

/-- A word of the OTP row as it reads: the device seed and the password hash read as 0 (R407). -/
def otpRead (s : State) (i : Nat) : Word := if (8 ≤ i && i < 16) || (32 ≤ i && i < 40) then 0#32 else otpWord s i

/-- A word of the OTP row written; words of 0 are not listed. -/
def otpSet (i : Nat) (w : Word) : List (Nat × Word) → List (Nat × Word)
  | [] => if w = 0#32 then [] else [(i, w)]
  | (k, v) :: rest =>
    if k < i then (k, v) :: otpSet i w rest
    else
      let tail := if k = i then rest else (k, v) :: rest
      if w = 0#32 then tail else (i, w) :: tail

def otpReadRun (c : Cmd) (s : State) : Except Status (List Word × State) :=
  let w1 := param c.ps 1
  let first := fld w1 8 0
  let n := fld w1 24 16
  if !onlyBits w1 0x01FF01FF#32 || n = 0 || decide (256 < n) || decide (512 < first + n) then .error .badParam
  else .ok ((List.range n).map fun k => otpRead s (first + k), s)

def execOtpRead (p : Packet) (s : State) : Out := .next (plazaRun 0x807 (lenIs 1) (immediate otpReadRun) p s)

/-- The fields of the OTP row: first word and words (R407). -/
def otpFields : List (Nat × Nat) :=
  [(0, 1), (1, 1), (2, 1), (4, 2), (8, 8), (16, 8), (24, 8), (32, 8), (40, 24), (64, 32), (96, 32), (128, 128), (256, 256)]

/-- Words lie within one field. -/
def inOneField (first n : Nat) : Bool := otpFields.any fun f => decide (f.1 ≤ first) && decide (first + n ≤ f.1 + f.2)

/-- Words ORed in one by one; whether a word's read-back fails is open, and then so is its content (R408, log 5). -/
def otpProgramWords : Nat → List Word → Nat → State → Nat × Bool × State
  | _, [], n, s => (n, true, s)
  | i, w :: ws, n, s =>
    let d := drawBool s
    let v := otpWord s i ||| w
    if d.1 then
      let r := drawWord d.2
      (n, false, { r.2 with flash.otp := otpSet i (otpWord s i ||| (r.1 &&& w)) s.flash.otp })
    else otpProgramWords (i + 1) ws (n + 1) { d.2 with flash.otp := otpSet i v s.flash.otp }

def otpProgramRun (c : Cmd) (s : State) : State :=
  let w1 := param c.ps 1
  let first := fld w1 8 0
  let n := fld w1 19 16
  let data := c.ps.drop 1
  let cfg := first = 2 && (!onlyBits (data.getD 0 0#32) 7#32 || fld (otpWord s 2 ||| data.getD 0 0#32) 1 0 = 3)
  let target := first = 2 || (24 ≤ first && first < 40)
  match firstFail [
      (!onlyBits w1 0x000F01FF#32 || n = 0 || decide (8 < n) || !inOneField first n || cfg, .badParam),
      (!target || !(s.lifecycle = .blank || s.lifecycle = .develop) || !s.isHostPort c.port, .denied),
      (s.power.bodWarn, .brownoutHold)] with
  | some st => finish c st [] s
  | none =>
    let r := otpProgramWords first data 0 s
    finish c (if r.2.1 then .ok else .verifyFail) [W r.1] r.2.2

def execOtpProgram (p : Packet) (s : State) : Out :=
  .next (plazaRun 0x808 (fun ps => decide (1 ≤ ps.length) && ps.length = 1 + fld (param ps 1) 19 16) otpProgramRun p s)

/-- A protection region as FLASH_STATUS reports it (R416). -/
def protWord (r : ProtRegion) : Word :=
  W (r.first.toNat + r.last.toNat * 2 ^ 9 + b2n r.en * 2 ^ 18 + b2n r.wp * 2 ^ 19 + b2n r.rp * 2 ^ 20)

/-- Response words 2 to 16 of FLASH_STATUS (R416). -/
def flashStatusWords (p : PortId) (s : State) : List Word :=
  let susp := s.flash.suspAuto || s.flash.suspCmd || s.flash.suspBod
  let cur := if s.flash.inner.isSome then s.flash.inner else s.flash.op
  let state := match cur with
    | none => 0
    | some o => if (if s.flash.inner.isSome then s.flash.suspBod else susp) then 3 else if o.erase then 2 else 1
  let w2 := W (state + b2n s.flash.suspAuto * 4 + b2n s.flash.suspCmd * 8 + b2n s.flash.suspBod * 16
    + b2n s.upd.activeB * 32 + b2n (inactiveFree s) * 64 + b2n (passwordSet s) * 128
    + b2n s.flash.unlocked[portIdx p] * 256 + s.flash.wrongPw * 512)
  let h : Word := match cur with | some o => o.handle.setWidth 32 | none => 0#32
  let nextF := match cur with
    | some o => if o.erase then o.sector * 8192 else (match o.units with | u :: _ => u.1 | [] => 0)
    | none => 0
  let left := match cur with | some o => (if o.erase then o.left else o.units.length) | none => 0
  [w2, h, W nextF, W left, W (imageEnd s), s.flash.corrected, s.flash.uncorrectable]
    ++ s.flash.prot.toList.map protWord

/-- A read-back of another sector of the array under erase suspends that erase (R396, R416). -/
def readSuspends (secs : List Nat) (s : State) : State :=
  match s.flash.op with
  | some o =>
    if o.erase && flashRuns s && secs.any (fun x => arrayOf s x = arrayOf s o.sector && x ≠ o.sector) then
      { s with flash.suspAuto := true }
    else s
  | none => s

def flashStatusRun (c : Cmd) (s0 : State) : Except Status (List Word × State) :=
  let w1 := param c.ps 1
  let n := fld w1 8 0
  let addr := (param c.ps 2).toNat
  let s := flashProgress s0
  let secs := sectorRange (addr / 8192) ((addr + 4 * n - 1) / 8192 + 1 - addr / 8192)
  match firstFail [
      (!onlyBits w1 0x1FF#32 || decide (256 < n) || addr % 4 ≠ 0 || (n = 0 && addr ≠ 0), .badParam),
      (n ≠ 0 && (decide (s.flashSize < addr + 4 * n) || secs.any fun x => !inDataArea s x || protectedFor s c.port (·.rp) x), .flashProtected)] with
  | some st => .error st
  | none => .ok (flashStatusWords c.port s ++ (List.range n).map fun k => flashWord s (addr + 4 * k),
      if n = 0 then s else readSuspends secs s)

def execFlashStatus (p : Packet) (s : State) : Out := .next (plazaRun 0x809 (lenIs 2) (immediate flashStatusRun) p s)

end Sys2Proof.Machine
end

