-- ==== Sys2Proof/Machine/Measure.lean ====
section
/-! DEFINITION. The measurement registers and their log (R324, R325). -/

namespace Sys2Proof.Machine
open Sys2Proof

/-- MRn ← SHA-256(MRn ‖ ET ‖ d), and a record in the log while it has room (R324, R325). -/
def extendMr (n : Fin 4) (et : Byte) (d : BitVec 256) (s : State) : State :=
  let v := sha256 (bytes256 s.sec.mrs[n] ++ [et] ++ bytes256 d)
  let full := decide (256 ≤ s.sec.log.length)
  { s with sec.mrs := s.sec.mrs.set n v,
           sec.log := if full then s.sec.log else s.sec.log ++ [(BitVec.ofNat 2 n.val, et, d)],
           sec.logFull := s.sec.logFull || full }

/-- The digest of parameter words: their bytes in order, least significant byte of each word first (R213; DEDUCED,
log 22). -/
def digestWords (ws : List Word) : BitVec 256 := sha256 (unpackLE ws)

end Sys2Proof.Machine
end

