-- ==== Sys2Proof/Machine/Kerb.lean ====
section
/-! DEFINITION. The Kerb: passes, steps, decisions, log and commands (R445-R453). -/

namespace Sys2Proof.Machine
open Sys2Proof

/-! ### Steps (R448) -/

def kOp (w : Word) : Nat := fld w 31 28
def kD (w : Word) : Fin 8 := Fin.ofNat 8 (fld w 27 25)
def kS (w : Word) : Fin 8 := Fin.ofNat 8 (fld w 24 22)
def kTarget (w : Word) : Nat := fld w 21 16
def kImm (w : Word) : Nat := fld w 15 0

/-- Saturation at 16 bits signed (R448). -/
def sat16 (x : Int) : BitVec 16 := BitVec.ofInt 16 (clampI (-32768) 32767 x)

/-- The step at the present position. A position past the program holds END (DEDUCED, log 23). -/
def kerbWord (k : KerbState) : Word := k.prog.getD k.step 0#32

/-- Driven pins return to input and the program stands still (R453). -/
def kerbHalt (k : KerbState) : KerbState := { k with running := false, held := false, driven := 0, inPass := false }

/-- The answers to the KERB_STOP commands that waited for the pass. -/
def kerbAnswerStops : List (PortId × BitVec 6) → State → State
  | [], s => s
  | (p, t) :: rest, s => kerbAnswerStops rest (finish ⟨p, t, 0xA03, []⟩ .ok [] s)

/-- The end of a pass (R447, R451): KERB_Vv show the variables, and a waiting KERB_STOP takes effect. -/
def kerbPassEnd (overrun : Bool) (s : State) : State :=
  let k := s.kerb
  let k1 := { k with inPass := false, passes := k.passes + 1, shown := k.vars,
                     overrun := if overrun && k.overrun ≠ 0xFF#8 then k.overrun + 1 else k.overrun }
  if k.stopWait.isEmpty then { s with kerb := k1 }
  else kerbAnswerStops k.stopWait { s with kerb := { kerbHalt k1 with stopWait := [] } }

/-- After a step: the next one, or the pass ends at 256 steps (R447). -/
def kerbNext (nextStep : Nat) (s : State) : State :=
  let n := s.kerb.executed + 1
  if 256 ≤ n then kerbPassEnd true { s with kerb.executed := n }
  else { s with kerb.executed := n, kerb.step := nextStep % 64 }

/-- A step of the given operation executes if it is the one at the present position of a pass. -/
def kerbRow (op : Nat) (f : Word → State → State) (s : State) : State :=
  if s.kerb.running && s.kerb.inPass && s.isUsable dKERB && kOp (kerbWord s.kerb) = op then f (kerbWord s.kerb) s else s

/-- VD written, and the next step. -/
def kerbSet (w : Word) (v : BitVec 16) (s : State) : State :=
  kerbNext (s.kerb.step + 1) { s with kerb.vars := s.kerb.vars.set (kD w) v }

def kV (s : State) (i : Fin 8) : Int := s.kerb.vars[i].toInt

/-! ### Passes (R447) -/

/-- A pass begins at step 0. -/
def kerbBegin (k : KerbState) : KerbState := { k with inPass := true, step := 0, executed := 0, timeDue := true }

/-- A pin of mode 1 or 2 whose trigger edge is this one. -/
def kerbEdgeSelected (k : KerbState) (pin : Fin 8) (rising : Bool) : Bool :=
  let m := k.mode[pin]
  let e := k.edge[pin]
  (m = 1#2 || m = 2#2) && (e = 3#2 || e = (if rising then 1#2 else 2#2))

/-- The level of a KIN terminal follows an edge; in a QFN package the GPIO pad of the same terminal sees it too (R509). -/
def kerbLevel (pin : Fin 8) (rising : Bool) (s : State) : State :=
  let set (s : State) : State :=
    let k := s.kerb
    let g := s.peri.gpio[1]
    let b := 1#16 <<< (8 + pin.val)
    let g' : GpioPort := if s.is80 then g else { g with level := if rising then g.level ||| b else g.level &&& ~~~b }
    { s with kerb.kin := (if rising then k.kin ||| (1#8 <<< pin.val) else k.kin &&& ~~~(1#8 <<< pin.val))
             peri.gpio := s.peri.gpio.set 1 g' }
  withEdges set s

/-- LOOPBACK has disconnected a pin (R487). -/
def kinBypassed (k : KerbState) (pin : Fin 8) : Bool := match k.bypass with | some (p, _) => p = pin | none => false

/-- The pins in a digital mode (R446). -/
def digitalPins (k : KerbState) : BitVec 8 :=
  BitVec.ofNat 8 (((List.finRange 8).map fun (i : Fin 8) => b2n (k.mode[i] = 1#2 || k.mode[i] = 2#2) * 2 ^ i.val).sum)

/-- The levels that KIN0 to KIN7 read: driven or outer levels of the pins in a digital mode, 0 for another, whose input buffer is off
(R446; log 23), and without VIO (R491); LOOPBACK's substitute for a digital input (R487). -/
def kinLevels (s : State) : BitVec 8 :=
  let k := s.kerb
  let gpio := if s.is80 then 0#8 else BitVec.ofNat 8 (((List.finRange 8).map fun (i : Fin 8) =>
    b2n (padDrives s (Fin.ofNat 64 (24 + i.val))) * 2 ^ i.val).sum)
  let out := BitVec.ofNat 8 (((List.finRange 8).map fun (i : Fin 8) => b2n (padLevel s (Fin.ofNat 64 (24 + i.val))) * 2 ^ i.val).sum)
  let pins := if s.power.vio then
      digitalPins k &&& ((k.kin &&& ~~~k.driven &&& ~~~gpio) ||| (k.driveLevel &&& k.driven &&& ~~~gpio) ||| (out &&& gpio))
    else 0#8
  match k.bypass with
  | some (p, v) =>
    if k.mode[p] = 1#2 || k.mode[p] = 2#2 then (if v.getLsbD 0 then pins ||| (1#8 <<< p.val) else pins &&& ~~~(1#8 <<< p.val)) else pins
  | none => pins

/-- A trigger of the Kerb's own: a pass starts, or the trigger is held or lost. -/
def kerbStartOr (s : State) : State :=
  if s.kerb.inPass then kerbTrigger s else { s with kerb := kerbBegin s.kerb }

/-- The edge triggers that a change of the levels read makes, as LOOPBACK substitutes one (R447, R487). -/
def kerbLevelEdge (before after : State) : State :=
  (List.finRange 8).foldl (fun s (k : Fin 8) =>
    let was := (kinLevels before).getLsbD k
    let now := (kinLevels after).getLsbD k
    if was ≠ now && s.isUsable dKERB && s.kerb.running && kerbEdgeSelected s.kerb k now then kerbStartOr s else s) after

/-- KERB_PASS. -/
def kerbPass (t : KerbTrigger) (s : State) : State :=
  if !s.isUsable dKERB then s
  else match t with
    | .periodic => if s.kerb.running && s.kerb.period ≠ 0 then kerbStartOr s else s
    | .edge pin rising =>
      let s1 := kerbLevel pin rising s
      if s.kerb.running && s.power.vio && !kinBypassed s.kerb pin && kerbEdgeSelected s.kerb pin rising then kerbStartOr s1 else s1
    | .marker | .software | .start | .held =>
      if s.kerb.running && s.kerb.held && !s.kerb.inPass then
        { s with kerb := kerbBegin { s.kerb with held := false } }
      else s

def execKerbPass (t : KerbTrigger) (s : State) : Out := .next (kerbPass t s)

/-! ### The log (R450) -/

/-- A record, with the time word that the first record of a pass needs; without room the words are counted in LOST. -/
def kerbRecord (w : Word) (s : State) : State :=
  let k := s.kerb
  let ws := if k.timeDue then [W (2 * 2 ^ 30 + s.time.nt.toNat / 2 ^ 18 % 2 ^ 30), w] else [w]
  if k.log.length + ws.length ≤ 256 then { s with kerb.log := k.log ++ ws, kerb.timeDue := false }
  else { s with kerb.lost := BitVec.ofNat 16 (min 0xFFFF (k.lost.toNat + ws.length)), kerb.timeDue := false }

/-! ### The steps -/

def kerbEnd (s : State) : State := kerbRow 0 (fun _ s => kerbPassEnd false s) s

/-- SAMPLE: the converter's result; an application sequence in progress is delayed (R380), channel 8 is a
die-temperature sample (R42, R445), and a LOOPBACK replaces its pin's result (R487). -/
def kerbSample (result : BitVec 12) (sensors : Sensors) (s : State) : State :=
  kerbRow 1 (fun w s =>
    let ch := fld w 3 0
    let r := match s.kerb.bypass with
      | some (p, v) => if p.val = ch then v else result
      | none => result
    let s1 := if s.peri.adc.busy.isSome then { s with peri.adc.delayed := true } else s
    let s2 := if ch = 8 then sampleTemp ((r.toNat : Int) * 10 / 16 - 640) sensors s1 else s1
    kerbSet w (r.setWidth 16) s2) s

def kerbDin (s : State) : State :=
  kerbRow 2 (fun w s =>
    kerbSet w ((kinLevels s &&& w.setWidth 8).setWidth 16) s) s

/-- DOUT; a GPIO pad of the same terminal sees the level (R509). -/
def kerbDout (s : State) : State :=
  kerbRow 3 (fun w => withEdges fun s =>
    let m : BitVec 8 := w.setWidth 8
    let lv : BitVec 8 := w.extractLsb' 8 8
    let k := s.kerb
    let k1 := if bitAt w 25 then { k with driven := k.driven &&& ~~~m }
      else { k with driven := k.driven ||| m, driveLevel := (k.driveLevel &&& ~~~m) ||| (lv &&& m) }
    kerbNext (k.step + 1) { s with kerb := k1 }) s

def kerbWait (s : State) : State := kerbRow 4 (fun _ s => kerbNext (s.kerb.step + 1) s) s
def kerbLoadi (s : State) : State := kerbRow 5 (fun w s => kerbSet w (w.setWidth 16) s) s
def kerbAdd (s : State) : State := kerbRow 6 (fun w s => kerbSet w (sat16 (kV s (kD w) + kV s (kS w))) s) s
def kerbSub (s : State) : State := kerbRow 7 (fun w s => kerbSet w (sat16 (kV s (kD w) - kV s (kS w))) s) s
def kerbAbsd (s : State) : State :=
  kerbRow 8 (fun w s => kerbSet w (sat16 ((kV s (kD w) - kV s (kS w)).natAbs : Int)) s) s
def kerbIir (s : State) : State :=
  kerbRow 9 (fun w s => kerbSet w (sat16 (kV s (kD w) + ((kV s (kS w) - kV s (kD w)) >>> fld w 3 0))) s) s
def kerbJgt (s : State) : State :=
  kerbRow 10 (fun w s => kerbNext (if kV s (kD w) > kV s (kS w) then kTarget w else s.kerb.step + 1) s) s
def kerbJle (s : State) : State :=
  kerbRow 11 (fun w s => kerbNext (if kV s (kD w) ≤ kV s (kS w) then kTarget w else s.kerb.step + 1) s) s
def kerbJmp (s : State) : State := kerbRow 12 (fun w s => kerbNext (kTarget w) s) s

def kerbLog (s : State) : State :=
  kerbRow 13 (fun w s =>
    let v := s.kerb.vars[kD w]
    kerbNext (s.kerb.step + 1)
      (kerbRecord (W (s.kerb.step * 2 ^ 24 + (kD w).val * 2 ^ 21 + v.toNat)) s)) s

/-- A wake source's edge between the acceptance of STOP_ENTER and the end of entry is held, with its DETAIL if no lower source is
held (R429). -/
def holdWake (code detail : Nat) (s : State) : State :=
  if s.power.phase = .entering then
    let lower := (List.range (code + 1)).any fun c => s.power.heldWake.getLsbD c
    { s with power.heldWake := s.power.heldWake ||| (1#8 <<< code),
             power.heldDetail := if lower then s.power.heldDetail else BitVec.ofNat 6 detail }
  else s

/-- DECIDE (R449). -/
def kerbDecide (s : State) : State :=
  kerbRow 14 (fun w s =>
    let c : Fin 16 := Fin.ofNat 16 (fld w 3 0)
    let v := s.kerb.vars[kD w]
    let step := s.kerb.step
    let s1 := kerbRecord (W (2 ^ 30 + step * 2 ^ 24 + c.val * 2 ^ 16 + v.toNat)) s
    let n := s1.kerb.counts[c] + 1
    let s2 := { s1 with kerb.decided := s1.kerb.decided ||| (1#16 <<< c.val), kerb.counts := s1.kerb.counts.set c n }
    let s3 := raise 0x090 ([W (c.val + step * 16 + v.toNat * 2 ^ 16)] ++ words64 s2.time.nt ++ [n]) s2
    let s4 := captureFrom (fun x => fld x 4 2 = 4) s3
    let s5 := if s4.power.wakeArm.getLsbD 10 && s4.power.kerbCodes.getLsbD c.val then holdWake 4 c.val s4 else s4
    kerbNext (step + 1) s5) s

def kerbMov (s : State) : State := kerbRow 15 (fun w s => kerbSet w s.kerb.vars[kS w] s) s

def execKerbEnd (s : State) : Out := .next (kerbEnd s)
def execKerbSample (result : BitVec 12) (sensors : Sensors) (s : State) : Out := .next (kerbSample result sensors s)
def execKerbDin (s : State) : Out := .next (kerbDin s)
def execKerbDout (s : State) : Out := .next (kerbDout s)
def execKerbWait (s : State) : Out := .next (kerbWait s)
def execKerbLoadi (s : State) : Out := .next (kerbLoadi s)
def execKerbAdd (s : State) : Out := .next (kerbAdd s)
def execKerbSub (s : State) : Out := .next (kerbSub s)
def execKerbAbsd (s : State) : Out := .next (kerbAbsd s)
def execKerbIir (s : State) : Out := .next (kerbIir s)
def execKerbJgt (s : State) : Out := .next (kerbJgt s)
def execKerbJle (s : State) : Out := .next (kerbJle s)
def execKerbJmp (s : State) : Out := .next (kerbJmp s)
def execKerbLog (s : State) : Out := .next (kerbLog s)
def execKerbDecide (s : State) : Out := .next (kerbDecide s)
def execKerbMov (s : State) : Out := .next (kerbMov s)

/-! ### The KERB window (R451) -/

/-- SYNC_BUSY shows a write for the worst latency of R442, 3 LFXO clocks (log 12). -/
def kerbSync (s : State) : State := { s with kerb.syncUntil := s.elapsed.now + BitVec.ofNat 64 (usU 92) }

def readTrig (s : State) : Word × State := (s.kerb.trigLost.setWidth 32, { s with kerb.trigLost := 0 })
def readDecided (s : State) : Word × State := (s.kerb.decided.setWidth 32, { s with kerb.decided := 0 })

def execKerbTrigRead (s : State) : Out := .next (pageReadAs dKERB readTrig s)
def execKerbDecidedRead (s : State) : Out := .next (pageReadAs dKERB readDecided s)
def execKerbSwtrig (s : State) : Out := .next (if pageOpen s dKERB then kerbSync (kerbTrigger s) else s)

/-- The KERB window's registers without side effects (R451). -/
def kerbRead (off : Nat) (s : State) : Word :=
  let k := s.kerb
  match off with
  | 0x000 => W (b2n k.running + b2n k.inPass * 2 + k.step * 4 + k.overrun.toNat * 2 ^ 8 + k.passes.toNat * 2 ^ 16)
  | 0x008 => W (k.log.length + k.lost.toNat * 2 ^ 16)
  | 0x010 => W (k.inten.toNat + b2n (decide (s.elapsed.now.toNat < k.syncUntil.toNat)) * 2 ^ 31)
  | 0x018 => W ((kinLevels s).toNat + k.driven.toNat * 2 ^ 8)
  | _ =>
    if 0x020 ≤ off && off < 0x040 && off % 4 = 0 then (k.shown[Fin.ofNat 8 ((off - 0x020) / 4)]).signExtend 32 else 0#32

/-- Writes to the KERB window (R451). -/
def kerbWrite (off : Nat) (w : Word) (s : State) : State :=
  match off with
  | 0x010 => kerbSync { s with kerb.inten := w.setWidth 16 }
  | 0x014 => kerbSync (if bitAt w 0 then kerbTrigger s else s)
  | _ => s

/-! ### Commands (R452, R453) -/

/-- The fields that a step's operation uses, as a mask of its word (R448). -/
def kerbFields (op : Nat) : Word :=
  match op with
  | 0 => 0xF0000000#32
  | 1 => 0xFE000FFF#32
  | 2 => 0xFE0000FF#32
  | 3 => 0xF200FFFF#32
  | 4 => 0xF000FFFF#32
  | 5 => 0xFE00FFFF#32
  | 9 => 0xFFC0000F#32
  | 10 | 11 => 0xFFFF0000#32
  | 12 => 0xF03F0000#32
  | 13 => 0xFE000000#32
  | 14 => 0xFE00000F#32
  | _ => 0xFFC00000#32

/-- Pin k's mode in KERB_LOAD's word 3. -/
def modeIn (w3 : Word) (k : Nat) : Nat := fld w3 (4 * k + 1) (4 * k)

/-- A step is refused at load (R448). -/
def badStep (w3 : Word) (n : Nat) (w : Word) : Bool :=
  let op := kOp w
  !onlyBits w (kerbFields op) ||
  (op = 1 && (decide (11 < fld w 3 0) || (fld w 3 0 < 8 && modeIn w3 (fld w 3 0) ≠ 3))) ||
  (op = 3 && (List.range 8).any fun k => bitAt w k && modeIn w3 k ≠ 1) ||
  (op = 4 && kImm w = 0) ||
  ((op = 10 || op = 11 || op = 12) && decide (n ≤ kTarget w))

/-- KERB_LOAD's fields out of range (R452). -/
def badKerbLoad (ps : List Word) : Bool :=
  let w1 := param ps 1
  let w3 := param ps 3
  let w4 := param ps 4
  !onlyBits w1 0xFF#32 || fld w1 6 0 = 0 || decide (64 < fld w1 6 0) || !onlyBits (param ps 2) 0x00FFFFFF#32 ||
  !onlyBits w3 0x33333333#32 || !onlyBits w4 0xFFFF#32 ||
  ((List.range 8).any fun k => fld w4 (2 * k + 1) (2 * k) ≠ 0 && modeIn w3 k ≠ 1 && modeIn w3 k ≠ 2) ||
  (ps.drop 4).any (badStep w3 (fld w1 6 0))

/-- A program and its input configuration taken from KERB_LOAD's parameter words. -/
def kerbTake (ps : List Word) (k : KerbState) : KerbState :=
  { k with prog := ps.drop 4, autostart := bitAt (param ps 1) 7, period := (param ps 2).setWidth 24,
           mode := Vector.ofFn fun i => BitVec.ofNat 2 (modeIn (param ps 3) i.val),
           edge := Vector.ofFn fun i => BitVec.ofNat 2 (fld (param ps 4) (2 * i.val + 1) (2 * i.val)) }

def kerbLoadRun (c : Cmd) (s : State) : Except Status (List Word × State) :=
  match firstFail [(!s.isUsable dKERB, .domainOff), (badKerbLoad c.ps, .badParam), (s.kerb.running, .busy),
      (s.power.bodWarn, .brownoutHold)] with
  | some st => .error st
  | none =>
    .ok ([], extendMr 3 0x34#8 (digestWords (c.ps.drop 4))
      { s with kerb := kerbTake c.ps s.kerb, upd.settings.kerb := some c.ps })

def execKerbLoad (p : Packet) (s : State) : Out :=
  .next (plazaRun 0xA01 (fun ps => decide (4 ≤ ps.length) && ps.length = 4 + fld (param ps 1) 6 0) (immediate kerbLoadRun) p s)

/-- The program starts, and KERB_START's own trigger is due (R447, R453). -/
def kerbGo (clear : Bool) (k : KerbState) : KerbState :=
  { k with running := true, held := true, passes := 0, counts := Vector.replicate 16 0#32,
           vars := if clear then Vector.replicate 8 0#16 else k.vars }

def kerbStartRun (c : Cmd) (s : State) : Except Status (List Word × State) :=
  let w1 := param c.ps 1
  match firstFail [(!s.isUsable dKERB, .domainOff), (!onlyBits w1 1#32, .badParam), (s.kerb.prog.isEmpty, .badState),
      (s.kerb.running, .busy)] with
  | some st => .error st
  | none => .ok ([], { s with kerb := kerbGo (bitAt w1 0) s.kerb })

def execKerbStart (p : Packet) (s : State) : Out := .next (plazaRun 0xA02 (lenIs 1) (immediate kerbStartRun) p s)

def kerbStopRun (c : Cmd) (s : State) : State :=
  if !s.kerb.running then finish c .badState [] s
  else if s.kerb.inPass then { s with kerb.stopWait := s.kerb.stopWait ++ [(c.port, c.tag)] }
  else finish c .ok [] { s with kerb := kerbHalt s.kerb }

def execKerbStop (p : Packet) (s : State) : Out := .next (plazaRun 0xA03 (lenIs 0) kerbStopRun p s)

def kerbLogReadRun (c : Cmd) (s : State) : Except Status (List Word × State) :=
  let w1 := param c.ps 1
  let n := fld w1 8 0
  if !s.isUsable dKERB then .error .domainOff
  else if !onlyBits w1 0x1FF#32 || n = 0 || decide (256 < n) then .error .badParam
  else
    let ws := s.kerb.log.take n
    .ok (W (ws.length + s.kerb.lost.toNat * 2 ^ 16) :: ws, { s with kerb.log := s.kerb.log.drop n, kerb.lost := 0 })

def execKerbLogRead (p : Packet) (s : State) : Out := .next (plazaRun 0xA04 (lenIs 1) (immediate kerbLogReadRun) p s)

end Sys2Proof.Machine
end

