-- ==== Sys2Proof/Machine/Bus.lean ====
section
/-! DEFINITION. The memory map of the application core and the DMA engine: SRAM, ROM, the image window, the common
region, the OTP window and the register pages with their read and write effects (R7, R8, R59, R60, R360, R364, R365,
R369-R388, R444, R451), and the DMA engine. -/

namespace Sys2Proof.Machine
open Sys2Proof

/-! ### Interrupt sources (R355, R360) -/

/-- Vectors 8 to 23 that are pending, as bits of INTC_PEND; a source whose domain is off reads 0. -/
def irqSources (s : State) : List (Nat × Bool) :=
  let peri (b : Bool) : Bool := s.isUsable dPERI && b
  let sp (i : Fin 2) : Bool :=
    let c := s.peri.spic[i]
    peri ((c.ien.getLsbD 0 && decide (c.tx.length ≤ 4)) || (c.ien.getLsbD 1 && !c.rx.isEmpty) || (c.ien.getLsbD 2 && c.done)
      || (c.ien.getLsbD 3 && c.rxovr))
  let ic (i : Fin 2) : Bool :=
    let c := s.peri.i2c[i]
    peri ((c.ien.getLsbD 0 && c.done) || (c.ien.getLsbD 1 && c.err))
  let ua (i : Fin 3) : Bool :=
    let u := s.peri.uart[i]
    peri ((u.ien.getLsbD 0 && !u.rx.isEmpty) || (u.ien.getLsbD 1 && decide (u.tx.length ≤ 8)) || (u.ien.getLsbD 2 && u.rxovr)
      || (u.ien.getLsbD 3 && u.rxidle) || (u.ien.getLsbD 4 && u.err))
  let a := s.peri.adc
  [(8, s.plaza.mbxInten &&& s.plaza.mbxIntstat != 0#13),
   (9, s.time.inten &&& s.time.intstat != 0#13),
   (10, peri (s.peri.bt.toList.any fun b => b.ended && bitAt b.ctrl 16)),
   (11, peri (s.peri.dmaDone &&& s.peri.dmaIen.setWidth 16 != 0#16 || s.peri.dmaErr &&& s.peri.dmaIen.extractLsb' 16 16 != 0#16)),
   (12, peri (s.peri.gpio.toList.any fun g => g.istat &&& g.ien != 0#16)),
   (13, sp 0), (14, sp 1), (15, ic 0), (16, ic 1), (17, ua 0), (18, ua 1), (19, ua 2),
   (20, peri ((a.ien.getLsbD 0 && !a.fifo.isEmpty) || (a.ien.getLsbD 1 && a.lostSeen))),
   (21, s.isUsable dKERB && (s.kerb.decided &&& s.kerb.inten != 0#16)),
   (22, s.power.pmuEvents != 0#4)]

/-- INTC_PEND (R360). -/
def intcPend (s : State) : Word :=
  let hw := (irqSources s).foldl (fun acc p => if p.2 then acc ||| (1#32 <<< p.1) else acc) 0#32
  hw ||| (s.core.swi.setWidth 32 <<< (24 : Nat))

/-- The level of vector v, 1 to 4 (R360). -/
def vectorLevel (s : State) (v : Nat) : Nat :=
  if v < 24 then fld s.core.lvlA (2 * (v - 8) + 1) (2 * (v - 8)) + 1
  else fld (s.core.lvlB.setWidth 32) (2 * (v - 24) + 1) (2 * (v - 24)) + 1

/-- The highest pending enabled vector with its level: highest level first, then lowest vector (R356, R360). -/
def intcTop (s : State) : Option (Nat × Nat) :=
  let act := intcPend s &&& s.core.intcEn
  ((List.range 24).map (· + 8)).foldl
    (fun best v =>
      if bitAt act v then
        match best with
        | some (_, l) => if l < vectorLevel s v then some (v, vectorLevel s v) else best
        | none => some (v, vectorLevel s v)
      else best) none

/-! ### Register pages: reads -/

/-- GPIOp_IN of port p. -/
def gpioInWord (s : State) (p : Fin 4) : Word :=
  (List.finRange 16).foldl
    (fun acc (b : Fin 16) => if gpioIn s (Fin.ofNat 64 (16 * p.val + b.val)) then acc ||| (1#32 <<< b.val) else acc) 0#32

def readGpio (off : Nat) (s : State) : Word :=
  if off < 0x100 then
    let p : Fin 4 := Fin.ofNat 4 (off / 0x40)
    let g := s.peri.gpio[p]
    match off % 0x40 with
    | 0x00 => gpioInWord s p
    | 0x04 => g.out.setWidth 32
    | 0x14 => g.dir.setWidth 32
    | 0x18 => g.imode
    | 0x1C => g.ien.setWidth 32
    | 0x20 => g.istat.setWidth 32
    | _ => 0#32
  else if off = 0x100 then
    W ((List.finRange 4).foldl (fun acc (p : Fin 4) =>
      acc + b2n (s.peri.gpio[p].istat &&& s.peri.gpio[p].ien != 0#16) * 2 ^ p.val) 0)
  else 0#32

def readSpic (i : Fin 2) (off : Nat) (s : State) : Word × State :=
  let c := s.peri.spic[i]
  match off with
  | 0x000 => (c.ctrl, s)
  | 0x004 => (c.clk, s)
  | 0x00C => spicRx i s
  | 0x010 => (W (c.tx.length + c.rx.length * 16 + b2n c.wire.isSome * 256 + b2n c.rxovr * 512 + b2n c.csActive * 1024), s)
  | 0x018 => (c.ien.setWidth 32, s)
  | 0x01C => (W (b2n (decide (c.tx.length ≤ 4)) + b2n (!c.rx.isEmpty) * 2 + b2n c.done * 4 + b2n c.rxovr * 8), s)
  | _ => (0#32, s)

def readI2c (i : Fin 2) (off : Nat) (s : State) : Word × State :=
  let c := s.peri.i2c[i]
  match off with
  | 0x000 => (c.ctrl, s)
  | 0x00C => i2cRx i s
  | 0x010 => (W (b2n c.cmd.isSome + b2n c.nackAddr * 2 + b2n c.nackData * 4 + b2n c.timeout * 8 + c.tx.length * 16
      + c.rx.length * 256 + c.doneBytes * 4096), s)
  | 0x014 => (c.ien.setWidth 32, s)
  | 0x018 => (W (b2n c.done + b2n c.err * 2), s)
  | _ => (0#32, s)

def readUart (i : Fin 3) (off : Nat) (s : State) : Word × State :=
  let u := s.peri.uart[i]
  match off with
  | 0x000 => (u.ctrl, s)
  | 0x004 => (u.div.setWidth 32, s)
  | 0x00C => uartRx i s
  | 0x010 => (W (u.tx.length + u.rx.length * 2 ^ 8 + b2n u.wire.isSome * 2 ^ 16 + b2n u.rxovr * 2 ^ 17
      + b2n u.rxidle * 2 ^ 18 + b2n u.err * 2 ^ 19), s)
  | 0x014 => (u.timeout.setWidth 32, s)
  | 0x018 => (u.ien.setWidth 32, s)
  | 0x01C => uartLost i s
  | _ => (0#32, s)

def readAdc (off : Nat) (s : State) : Word × State :=
  let a := s.peri.adc
  match off with
  | 0x000 => (a.ctrl, s)
  | 0x004 => (a.seq, s)
  | 0x00C => adcData s
  | 0x010 => (W (a.fifo.length + b2n a.busy.isSome * 16 + b2n a.pend * 32), s)
  | 0x014 => adcLost s
  | 0x018 => (a.ien.setWidth 32, s)
  | _ => (0#32, s)

/-- CHn_STATUS (R385). -/
def dmaStatus (c : DmaCh) : Word :=
  W (b2n c.serving + b2n c.pend * 2 + b2n c.halted * 4 + c.err.toNat * 8 + c.lost.toNat * 2 ^ 16)

/-- A read of CHn_STATUS clears LOST. -/
def readDmaStatus (ch : Fin 16) (s : State) : Word × State :=
  let c := s.peri.dma[ch]
  (dmaStatus c, { s with peri.dma := s.peri.dma.set ch { c with lost := 0 } })

def readDma (off : Nat) (s : State) : Word × State :=
  if 0x100 ≤ off && off < 0x300 then
    let ch : Fin 16 := Fin.ofNat 16 ((off - 0x100) / 0x20)
    let c := s.peri.dma[ch]
    match off % 0x20 with
    | 0x00 => (c.ctrl, s)
    | 0x04 => (c.desc, s)
    | 0x08 => (c.cur, s)
    | 0x0C => (c.src, s)
    | 0x10 => (c.dst, s)
    | 0x14 => (c.left.setWidth 32, s)
    | 0x18 => readDmaStatus ch s
    | 0x1C => (c.total, s)
    | _ => (0#32, s)
  else match off with
    | 0x000 => (W (b2n s.peri.dmaEn), s)
    | 0x004 => (W ((List.finRange 16).foldl (fun acc (n : Fin 16) => acc + b2n (bitAt s.peri.dma[n].ctrl 0) * 2 ^ n.val) 0), s)
    | 0x008 => (s.peri.dmaDone.setWidth 32, s)
    | 0x00C => (s.peri.dmaErr.setWidth 32, s)
    | 0x010 => (s.peri.dmaIen, s)
    | _ => (0#32, s)

/-- COUNT as a read gives it (R55): exact for SYSCLK, and for another source the value of at most 3 source ticks ago, an open
number of them (log 11). -/
def btCount (n : Fin 8) (s : State) : Word × State :=
  let b := s.peri.bt[n]
  if b.src = 3 then (b.count, s)
  else
    let r := drawWord s
    (((b.count :: b.past)[r.1.toNat % 4]?).getD b.count, r.2)

def readBtim (off : Nat) (s : State) : Word × State :=
  if off < 0x100 then
    let n : Fin 8 := Fin.ofNat 8 (off / 0x20)
    let b := s.peri.bt[n]
    match off % 0x20 with
    | 0x00 => (b.ctrl ||| W (b2n b.running * 4), s)
    | 0x04 => (b.period, s)
    | 0x08 => btCount n s
    | 0x0C => (b.presc.setWidth 32, s)
    | 0x10 => (W (b2n b.ended + b2n b.short * 2 + b2n (gateShown s.peri.bt b) * 4), s)
    | _ => (0#32, s)
  else if off = 0x100 then
    (W ((List.finRange 8).foldl (fun acc (n : Fin 8) =>
      acc + b2n s.peri.bt[n].ended * 2 ^ n.val + b2n s.peri.bt[n].running * 2 ^ (8 + n.val)) 0), s)
  else (0#32, s)

/-- PPS_STATE's code (R59). -/
def ppsStateCode : PpsState → Nat
  | .off => 0 | .acquiring => 1 | .locked => 2 | .holdover => 3

/-- NTC_MK_STATUS (R59). -/
def mkStatus (s : State) : Word :=
  W ((List.finRange 8).foldl (fun acc (k : Fin 8) =>
    let m := s.cmps.marks[k.val + 8]
    acc + b2n m.fired * 2 ^ k.val + b2n m.late * 2 ^ (8 + k.val) + b2n m.dropped * 2 ^ (16 + k.val)) 0)

/-- A read of the NTC page (R59). NTC_DT_ESTb reads the bin's own EST, 0 while it has no samples, and not the one that R44
borrows for it (DESIGN CHOICE, log 67). -/
def readNtc (off : Nat) (s : State) : Word × State :=
  let t := s.time
  if 0x100 ≤ off && off < 0x180 then
    let n : Fin 8 := Fin.ofNat 8 ((off - 0x100) / 0x10)
    let m := s.cmps.marks[n.val + 8]
    match off % 0x10 with
    | 0x0 => (lo32 m.target, s)
    | 0x4 => (hi32 m.target, s)
    | 0x8 => (m.ctrl, s)
    | _ => (0#32, s)
  else if 0x300 ≤ off && off < 0x380 then
    let u : Fin 4 := Fin.ofNat 4 ((off - 0x300) / 0x20)
    let c := s.cmps.caps[u]
    match off % 0x20 with
    | 0x00 => readCpLo u s
    | 0x04 => readCpHi u s
    | 0x08 => (if u.val = 0 then W (b2n t.enable) else c.ctrl, s)
    | 0x0C => (W (b2n c.new + b2n c.frozen * 2 + b2n c.slot.isSome * 4 + b2n c.ovr * 8), s)
    | 0x10 => readCpLost u s
    | _ => (0#32, s)
  else if 0x400 ≤ off && off < 0x440 then
    let b := t.bins[(Fin.ofNat 8 ((off - 0x400) / 8))]
    (if off % 8 = 0 then b.est else if off % 8 = 4 then b.samples ++ b.bound else 0#32, s)
  else match off with
    | 0x000 => (W (b2n t.onLf + ppsStateCode t.ppsState * 2 + t.lockCount.val * 8 + b2n t.slew.isSome * 64
        + b2n t.setPending.isSome * 128 + t.tempBin.val * 256), s)
    | 0x004 => (t.adj, s)
    | 0x008 => (t.integ, s)
    | 0x00C => (t.ppsErr, s)
    | 0x010 => (t.stepHf.setWidth 32, s)
    | 0x014 => ((t.stepHf >>> 32).setWidth 32, s)
    | 0x018 => (t.stepLf.setWidth 32 &&& 0x00FFFFFF#32, s)
    | 0x01C => ((t.stepLf >>> 24).setWidth 32, s)
    | 0x020 => readGlitch s
    | 0x024 => (t.inten.setWidth 32, s)
    | 0x028 => (t.intstat.setWidth 32, s)
    | 0x200 => (mkStatus s, s)
    | _ => (0#32, s)

def readIntc (off : Nat) (s : State) : Word :=
  match off with
  | 0x000 => intcPend s
  | 0x004 => s.core.intcEn
  | 0x008 => s.core.lvlA
  | 0x00C => s.core.lvlB.setWidth 32
  | 0x018 => match intcTop s with
    | some (v, l) => W (v + l * 32 + 256)
    | none => 0#32
  | _ => 0#32

def readPad (off : Nat) (s : State) : Word :=
  if off < 0x100 && off % 4 = 0 && pinPresent s (off / 4) then
    let k : Fin 64 := Fin.ofNat 64 (off / 4)
    s.pads.regs[k] ||| W (b2n (s.pads.latched.getLsbD k) * 2 ^ 16)
  else 0#32

/-- PMU_STATUS (R444). -/
def pmuStatus (s : State) : Word :=
  W (b2n s.power.lp + b2n s.power.switching * 2 + b2n s.power.bodWarn * 4 + s.power.bodLevel.toNat * 8 + b2n s.flash.hostApp * 256)

/-- A read of PMU_EVENTS clears them (R444). -/
def readPmuEvents (s : State) : Word × State := (s.power.pmuEvents.setWidth 32, { s with power.pmuEvents := 0 })

def readPmu (off : Nat) (s : State) : Word × State :=
  let w := s.power.wake
  match off with
  | 0x000 => (pmuStatus s, s)
  | 0x004 => (W (s.power.domains.toNat + s.present.toNat * 2 ^ 16), s)
  | 0x008 => (s.power.vbat.setWidth 32, s)
  | 0x00C => readPmuEvents s
  | 0x010 => (W (w.source.toNat + w.detail.toNat * 16 + b2n w.duringEntry * 1024 + w.retFail.toNat * 2 ^ 16), s)
  | 0x014 => (w.entries, s)
  | _ => (0#32, s)

def execPmuEventsRead (s : State) : Out := .next (pageReadAs 0 readPmuEvents s)

def readKerb (off : Nat) (s : State) : Word × State :=
  match off with
  | 0x004 => readTrig s
  | 0x00C => readDecided s
  | _ => (kerbRead off s, s)

/-- A read of the mailbox page (R93). -/
def readMbx (off : Nat) (s : State) : Word × State :=
  match off with
  | 0x004 => mbxLane 0 s
  | 0x008 => mbxLane 1 s
  | 0x00C => mbxLane 2 s
  | 0x010 => mbxLane 3 s
  | 0x014 => mbxLane 4 s
  | _ => (mbxRead off s, s)

/-! ### Register pages: writes (R7) -/

/-- The mask that keeps two bits for each pin present. -/
def modeMask (m : BitVec 16) : Word :=
  (List.range 16).foldl (fun acc i => if m.getLsbD i then acc ||| (3#32 <<< (2 * i)) else acc) 0#32

def setGpio (p : Fin 4) (f : GpioPort → GpioPort) (s : State) : State :=
  withEdges (fun s => { s with peri.gpio := s.peri.gpio.set p (f s.peri.gpio[p]) }) s

def writeGpio (off : Nat) (w : Word) (s : State) : State :=
  if 0x100 ≤ off then s
  else
    let p : Fin 4 := Fin.ofNat 4 (off / 0x40)
    let m := portMask s p.val
    let h : BitVec 16 := w.setWidth 16
    match off % 0x40 with
    | 0x04 => setOut p (fun _ => h) s
    | 0x08 => setOut p (fun o => o ||| h) s
    | 0x0C => setOut p (fun o => o &&& ~~~h) s
    | 0x10 => setOut p (fun o => o ^^^ h) s
    | 0x14 => setGpio p (fun g => { g with dir := h &&& m }) s
    | 0x18 => setGpio p (fun g => { g with imode := w &&& modeMask m }) s
    | 0x1C => setGpio p (fun g => { g with ien := h &&& m }) s
    | 0x20 => setGpio p (fun g => { g with istat := g.istat &&& ~~~h }) s
    | _ => s

def writeSpic (i : Fin 2) (off : Nat) (w : Word) (s : State) : State :=
  match off with
  | 0x000 => setSpic i (fun c => Spic.advance { c with ctrl := w &&& 0x1FF#32 }) s
  | 0x004 => setSpic i (fun c => { c with clk := w &&& 0x1FFF#32 }) s
  | 0x008 => setSpic i (spicTx w) s
  | 0x010 => setSpic i (fun c => { c with rxovr := c.rxovr && !bitAt w 9 }) s
  | 0x014 => if bitAt w 0 then setSpic i spicCsEnd s else s
  | 0x018 => setSpic i (fun c => { c with ien := w.setWidth 4 }) s
  | 0x01C => setSpic i (fun c => { c with done := c.done && !bitAt w 2, rxovr := c.rxovr && !bitAt w 3 }) s
  | _ => s

def writeI2c (i : Fin 2) (off : Nat) (w : Word) (s : State) : State :=
  match off with
  | 0x000 => setI2c i (fun c => { c with ctrl := w &&& 7#32 }) s
  | 0x004 => i2cCmd i w s
  | 0x008 => setI2c i (i2cTx w) s
  | 0x010 => setI2c i (fun c => { c with nackAddr := c.nackAddr && !bitAt w 1, nackData := c.nackData && !bitAt w 2,
                                         timeout := c.timeout && !bitAt w 3 }) s
  | 0x014 => setI2c i (fun c => { c with ien := w.setWidth 2 }) s
  | 0x018 => setI2c i (fun c => { c with done := c.done && !bitAt w 0, err := c.err && !bitAt w 1 }) s
  | _ => s

def writeUart (i : Fin 3) (off : Nat) (w : Word) (s : State) : State :=
  match off with
  | 0x000 => setUart i (fun u => Uart.advance { u with ctrl := w &&& 0x7F#32 }) s
  | 0x004 => setUart i (fun u => { u with div := if fld w 15 0 < 16 then 16#16 else w.setWidth 16 }) s
  | 0x008 => setUart i (uartTx w) s
  | 0x010 => setUart i (fun u => { u with rxovr := u.rxovr && !bitAt w 17, rxidle := u.rxidle && !bitAt w 18,
                                          err := u.err && !bitAt w 19 }) s
  | 0x014 => setUart i (fun u => { u with timeout := w.setWidth 8 }) s
  | 0x018 => setUart i (fun u => { u with ien := w.setWidth 5 }) s
  | _ => s

def writeAdc (off : Nat) (w : Word) (s : State) : State :=
  match off with
  | 0x000 =>
    let v := if fld w 15 8 = 0 then (w &&& 1#32) ||| 0x100#32 else w &&& 0xFF01#32
    { s with peri.adc.ctrl := v }
  | 0x004 => { s with peri.adc.seq := w &&& 0x3FFFF#32 }
  | 0x008 => if bitAt w 0 then adcTrigger s else s
  | 0x018 => { s with peri.adc.ien := w.setWidth 2 }
  | _ => s

/-- A write of BTn_CTRL (R60): its RW fields, then START or STOP. With both the manual gives no order: either (log 5). -/
def writeBtCtrl (n : Fin 8) (w : Word) (s : State) : State :=
  let r := if bitAt w 0 && bitAt w 1 then drawBool s else (bitAt w 1, s)
  let b : BasicTimer := { s.peri.bt[n] with ctrl := w &&& 0x007F7FF8#32 }
  let b1 := if bitAt w 0 && bitAt w 1 then (if r.1 then btStop b.start else (btStop b).start)
    else if bitAt w 0 then b.start else if bitAt w 1 then btStop b else b
  { r.2 with peri.bt := r.2.peri.bt.set n b1 }

def writeBtim (off : Nat) (w : Word) (s : State) : State :=
  if 0x100 ≤ off then s
  else
    let n : Fin 8 := Fin.ofNat 8 (off / 0x20)
    let set (f : BasicTimer → BasicTimer) : State := { s with peri.bt := s.peri.bt.set n (f s.peri.bt[n]) }
    match off % 0x20 with
    | 0x00 => writeBtCtrl n w s
    | 0x04 => set fun b => { b with period := w }
    | 0x0C => set fun b => { b with presc := if fld w 15 0 < 0x100 then 0x100#16 else w.setWidth 16 }
    | 0x10 => set fun b => { b with ended := b.ended && !bitAt w 0, short := b.short && !bitAt w 1 }
    | _ => s

/-- A marker's target word written while it is not armed (R46). -/
def writeTarget (n : Fin 8) (high : Bool) (w : Word) (s : State) : State :=
  let i : Fin 16 := ⟨n.val + 8, by omega⟩
  let m := s.cmps.marks[i]
  if bitAt m.ctrl 0 then s
  else { s with cmps.marks := s.cmps.marks.set i
                  { m with target := if high then mk64 (lo32 m.target) w else mk64 w (hi32 m.target) } }

/-- A write of NTC_MK_STATUS (W1C). -/
def clearMkStatus (w : Word) (s : State) : State :=
  { s with cmps.marks := Vector.ofFn fun i =>
      let m := s.cmps.marks[i]
      if 8 ≤ i.val then
        let k := i.val - 8
        { m with fired := m.fired && !bitAt w k, late := m.late && !bitAt w (8 + k), dropped := m.dropped && !bitAt w (16 + k) }
      else m }

def writeNtc (off : Nat) (w : Word) (s : State) : State :=
  if 0x100 ≤ off && off < 0x180 then
    let n : Fin 8 := Fin.ofNat 8 ((off - 0x100) / 0x10)
    match off % 0x10 with
    | 0x0 => writeTarget n false w s
    | 0x4 => writeTarget n true w s
    | 0x8 => writeMkCtrl n w s
    | _ => s
  else if 0x300 ≤ off && off < 0x380 then
    let u : Fin 4 := Fin.ofNat 4 ((off - 0x300) / 0x20)
    let c := s.cmps.caps[u]
    match off % 0x20 with
    | 0x08 =>
      let s1 := if u.val = 0 then s else { s with cmps.caps := s.cmps.caps.set u { c with ctrl := w &&& 0x3FFFD#32 } }
      if bitAt w 1 then swtrig u s1 else s1
    | 0x0C => { s with cmps.caps := s.cmps.caps.set u { c with ovr := c.ovr && !bitAt w 3 } }
    | _ => s
  else match off with
    | 0x024 => { s with time.inten := w.setWidth 13 }
    | 0x028 => { s with time.intstat := s.time.intstat &&& ~~~(w.setWidth 13) }
    | 0x200 => clearMkStatus w s
    | _ => s

/-- INTC_SWSET and INTC_SWCLR (R360). -/
def swSet (w : Word) (s : State) : State := { s with core.swi := s.core.swi ||| w.extractLsb' 24 8 }
def swClr (w : Word) (s : State) : State := { s with core.swi := s.core.swi &&& ~~~(w.extractLsb' 24 8) }

def execIntcSwset (w : Word) (s : State) : Out := .next (if pageOpen s dAPP then swSet w s else s)
def execIntcSwclr (w : Word) (s : State) : Out := .next (if pageOpen s dAPP then swClr w s else s)

def writeIntc (off : Nat) (w : Word) (s : State) : State :=
  match off with
  | 0x004 => { s with core.intcEn := w &&& 0xFFFFFF00#32 }
  | 0x008 => { s with core.lvlA := w }
  | 0x00C => { s with core.lvlB := w.setWidth 16 }
  | 0x010 => swSet w s
  | 0x014 => swClr w s
  | _ => s

/-- A write of PAD_k (R372): OD is forced to 1 for an I²C function. -/
def writePad (off : Nat) (w : Word) (s : State) : State :=
  if off < 0x100 && off % 4 = 0 && pinPresent s (off / 4) then
    let k : Fin 64 := Fin.ofNat 64 (off / 4)
    let v := w &&& 0xFFF#32
    let v1 := if 12 ≤ k.val && padFunc k.val v = 3 then v ||| 0x100#32 else v
    withEdges (fun s => { s with pads.regs := s.pads.regs.set k v1 }) s
  else s

/-- A write of the mailbox page by the core (R93, R94). -/
def writeMbx (off : Nat) (w : Word) (s : State) : State := if off = 0 then mbxStore w s else mbxWrite off w s

/-! ### DMA channels (R382-R387) -/

def setCh (ch : Fin 16) (f : DmaCh → DmaCh) (s : State) : State :=
  { s with peri.dma := s.peri.dma.set ch (f s.peri.dma[ch]) }

/-- Fields of a channel's control word and of word 2 of its descriptor. -/
def DmaCh.req (c : DmaCh) : Nat := fld c.ctrl 7 2
def DmaCh.prio (c : DmaCh) : Nat := fld c.ctrl 9 8
def DmaCh.burst (c : DmaCh) : Nat := 2 ^ fld c.ctrl 11 10
def DmaCh.block (c : DmaCh) : Bool := bitAt c.ctrl 12
def DmaCh.size (c : DmaCh) : Nat := match fld c.word2 17 16 with | 0 => 4 | 1 => 2 | _ => 1

/-- Bytes of application SRAM (R2). -/
def State.sramSize (s : State) : Nat := s.banks * 65536

/-- An address in application SRAM. -/
def inSram (s : State) (a : Nat) : Bool := decide (0x20000000 ≤ a) && decide (a < 0x20000000 + s.sramSize)

/-- An address in the link save area (R18). -/
def inSaveArea (s : State) (a : Nat) : Bool := inSram s a && decide (0x20000000 + s.saveArea ≤ a)

/-- An address in a register page that DMA may name (R383). -/
def inDmaPages (a : Nat) : Bool :=
  (decide (0x40000000 ≤ a) && decide (a ≤ 0x4000FFFF)) || (decide (0x50000000 ≤ a) && decide (a ≤ 0x50000FFF))

/-- The domain of a register page (R364). -/
def pageDomain (a : Nat) : Nat :=
  if 0x50000000 ≤ a then dLINK
  else
    let n := a / 4096 % 16
    if n ≤ 0xA then dPERI else if n = 0xC then dAPP else if n = 0xE then dKERB else 0

/-- n bytes of SRAM at a, least significant first. -/
def sramRead (s : State) (a n : Nat) : Word :=
  W (natLE (memReadList 0#8 s.sram (a - 0x20000000) n))

/-- n bytes of a word stored in SRAM at a. -/
def sramWrite (a n : Nat) (w : Word) (s : State) : State :=
  { s with sram := memWriteList 0#8 s.sram (a - 0x20000000) ((bytesLE w).take n) }

/-- The application SRAM bank at an address is under BIST_RUN (R486). -/
def underBist (s : State) (a : Nat) : Bool :=
  match s.bg.bist with | some b => inSram s a && decide ((a - 0x20000000) / 65536 = b.bank.val) | none => false

/-- A descriptor endpoint is allowed (R383). -/
def dmaAddrOk (s : State) (write : Bool) (size a : Nat) : Bool :=
  (inSram s a && !(write && inSaveArea s a) && a % size = 0) || (inDmaPages a && a % 4 = 0)

/-- A descriptor is well formed (R383). -/
def descriptorOk (s : State) (src dst word2 : Word) : Bool :=
  let size := match fld word2 17 16 with | 0 => 4 | 1 => 2 | _ => 1
  fld word2 17 16 ≠ 3 && fld word2 31 23 = 0 && fld word2 15 0 ≠ 0 &&
  dmaAddrOk s false size src.toNat && dmaAddrOk s true size dst.toNat

/-- A channel stops (R385): EN clears; what is served and pending goes. -/
def DmaCh.stop (c : DmaCh) : DmaCh := { c with ctrl := c.ctrl &&& ~~~1#32, serving := false, pend := false, burstLeft := 0 }

/-- A channel stops with an ERR code; DMA_ERR is set for one that is not 0. -/
def dmaStop (ch : Fin 16) (err : Nat) (halted : Bool) (s : State) : State :=
  let s1 := setCh ch (fun c => { c.stop with err := BitVec.ofNat 3 err, halted := halted || c.halted }) s
  if err = 0 then s1 else { s1 with peri.dmaErr := s1.peri.dmaErr ||| (1#16 <<< ch.val) }

/-- The descriptor at an address is loaded; a bad one ends the channel with ERR 3 (R383). -/
def dmaLoad (ch : Fin 16) (d : Word) (s : State) : State :=
  let a := d.toNat
  if a % 4 ≠ 0 || !inSram s a || !inSram s (a + 19) || underBist s a then dmaStop ch 3 false (setCh ch (fun c => { c with cur := d }) s)
  else
    let src := sramRead s a 4
    let dst := sramRead s (a + 4) 4
    let w2 := sramRead s (a + 8) 4
    let s1 := setCh ch (fun c => { c with cur := d, src, dst, word2 := w2, next := sramRead s (a + 12) 4,
                                          left := w2.setWidth 16 }) s
    if descriptorOk s src dst w2 then s1 else dmaStop ch 3 false s1

/-- Word 4 written back with END where the descriptor asks for it (R383). -/
def dmaWriteBack (ch : Fin 16) (code : Nat) (s : State) : State :=
  let c := s.peri.dma[ch]
  if bitAt c.word2 22 && !inSaveArea s (c.cur.toNat + 16) then sramWrite (c.cur.toNat + 16) 4 (W (fld c.word2 15 0 - c.left.toNat + code * 2 ^ 16)) s else s

/-- A channel halts with END and ERR (R385, R387, R388). -/
def dmaHalt (code err : Nat) (ch : Fin 16) (s : State) : State :=
  if bitAt s.peri.dma[ch].ctrl 0 then dmaStop ch err true (dmaWriteBack ch code s) else s

/-- A write of CHn_CTRL (R385): ABORT stops the channel; EN arms it from CHn_DESC; EN written 0 stops it
(DEDUCED, log 24). -/
def writeChCtrl (ch : Fin 16) (w : Word) (s : State) : State :=
  let armed := bitAt s.peri.dma[ch].ctrl 0
  let set (en : Bool) (s : State) : State :=
    setCh ch (fun c => { c with ctrl := (w &&& 0x1FFC#32) ||| W (b2n en) }) s
  if bitAt w 1 then set false (if armed then dmaHalt 3 0 ch s else s)
  else if bitAt w 0 then
    if armed then set true s
    else dmaLoad ch s.peri.dma[ch].desc (setCh ch (fun c => { c with halted := false, err := 0, total := 0 }) (set true s))
  else setCh ch DmaCh.stop (set false s)

/-- DMA_SWREQ: an event on each channel named (R381). -/
def dmaSwreq (w : Word) (s : State) : State :=
  (List.finRange 16).foldl (fun acc (n : Fin 16) => if bitAt w n.val then dmaEvent n acc else acc) s

def execDmaSwreq (w : Word) (s : State) : Out := .next (if pageOpen s dPERI then dmaSwreq w s else s)
def execDmaChannelEnable (ch : Fin 16) (ctrl : Word) (s : State) : Out :=
  .next (if pageOpen s dPERI then writeChCtrl ch (ctrl ||| 1#32) s else s)
def execDmaAbort (ch : Fin 16) (s : State) : Out :=
  .next (if pageOpen s dPERI then writeChCtrl ch (s.peri.dma[ch].ctrl ||| 2#32) s else s)
def execDmaChStatusRead (ch : Fin 16) (s : State) : Out := .next (pageReadAs dPERI (readDmaStatus ch) s)

def writeDma (off : Nat) (w : Word) (s : State) : State :=
  if 0x100 ≤ off && off < 0x300 then
    let ch : Fin 16 := Fin.ofNat 16 ((off - 0x100) / 0x20)
    match off % 0x20 with
    | 0x00 => writeChCtrl ch w s
    | 0x04 => if bitAt s.peri.dma[ch].ctrl 0 then s else setCh ch (fun c => { c with desc := w }) s
    | _ => s
  else match off with
    | 0x000 => { s with peri.dmaEn := bitAt w 0 }
    | 0x008 => { s with peri.dmaDone := s.peri.dmaDone &&& ~~~(w.setWidth 16) }
    | 0x00C => { s with peri.dmaErr := s.peri.dmaErr &&& ~~~(w.setWidth 16) }
    | 0x010 => { s with peri.dmaIen := w }
    | 0x014 => dmaSwreq w s
    | _ => s

/-! ### A register page as a whole -/

/-- A word read from a register page whose domain is on. -/
def pageRead (a : Nat) (s : State) : Word × State :=
  let off := a % 4096
  if 0x50000000 ≤ a then readMbx off s
  else match a / 4096 % 16 with
    | 0 => (readGpio off s, s)
    | 1 => readSpic 0 off s
    | 2 => readSpic 1 off s
    | 3 => readI2c 0 off s
    | 4 => readI2c 1 off s
    | 5 => readUart 0 off s
    | 6 => readUart 1 off s
    | 7 => readUart 2 off s
    | 8 => readAdc off s
    | 9 => readDma off s
    | 10 => readBtim off s
    | 11 => readNtc off s
    | 12 => (readIntc off s, s)
    | 13 => (readPad off s, s)
    | 14 => readKerb off s
    | _ => readPmu off s

/-- A word written to a register page whose domain is on; the PMU page is read-only and its caller refuses it. -/
def pageWrite (a : Nat) (w : Word) (s : State) : State :=
  let off := a % 4096
  if 0x50000000 ≤ a then writeMbx off w s
  else match a / 4096 % 16 with
    | 0 => writeGpio off w s
    | 1 => writeSpic 0 off w s
    | 2 => writeSpic 1 off w s
    | 3 => writeI2c 0 off w s
    | 4 => writeI2c 1 off w s
    | 5 => writeUart 0 off w s
    | 6 => writeUart 1 off w s
    | 7 => writeUart 2 off w s
    | 8 => writeAdc off w s
    | 9 => writeDma off w s
    | 10 => writeBtim off w s
    | 11 => writeNtc off w s
    | 12 => writeIntc off w s
    | 13 => writePad off w s
    | 14 => kerbWrite off w s
    | _ => s

/-- A page is a read-only one (R364). -/
def pageReadOnly (a : Nat) : Bool := a / 4096 = 0x4000F

/-! ### The image window (R362, R454) -/

/-- A part of the active image by its KIND (R456). -/
def activePart (s : State) (kind : Nat) : Option (Image × ImagePart) :=
  match activeImage s with
  | some i => (i.parts.find? fun p => p.kind = kind).map fun p => (i, p)
  | none => none

/-- S: bytes of the application image part (R364). -/
def imageSize (s : State) : Nat := match activePart s 2 with | some (_, p) => p.size | none => 0

/-- A byte of a part as its decryption gives it: unit u under the IV with u added to its bytes 12 to 15 (R454). -/
def plainByte (key : BitVec 256) (p : ImagePart) (raw : Nat → Byte) (o : Nat) : Byte :=
  let blk := p.iv.take 12 ++ bytesOfBE 4 ((natBE (p.iv.drop 12) + o / 16) % 2 ^ 32)
  raw o ^^^ (aesEnc (bytes256 key) blk).getD (o % 16) 0#8

/-- A byte of the application image at an offset in the window. -/
def imageByte (s : State) (o : Nat) : Byte :=
  match activePart s 2 with
  | some (i, p) => plainByte i.ownerKey p (fun o => flashByte s (bankBase s (activeArray s) + p.offset + o)) o
  | none => 0xFF#8

/-- n bytes of the image window, least significant first. -/
def imageRead (s : State) (o n : Nat) : Word := W (natLE ((List.range n).map fun k => imageByte s (o + k)))

/-! ### The core's bus (R364, R365) -/

/-- The application image window covers what a bank can hold (DEDUCED, log 25). -/
def inImageWindow (s : State) (a : Nat) : Bool :=
  decide (0x08000000 ≤ a) && decide (a < 0x08000000 + s.bankSectors * 8192)

/-- A read of n bytes of application SRAM: in the save area, what link firmware keeps there, whose layout the manual does not give, is
an open value (R18; log 5). -/
def sramOrSaved (a n : Nat) (s : State) : Word × State :=
  if inSaveArea s a then
    let r := drawWord s
    (W (r.1.toNat % 2 ^ (8 * n)), r.2)
  else (sramRead s a n, s)

/-- An aligned load of n bytes by the core: the value, or the kind of its bus error (R365). -/
def busRead (a n : Nat) (s : State) : Except Nat (Word × State) :=
  if a < 0x10000 then .ok (W (((Config.romWord (a / 4)).toNat >>> (8 * (a % 4))) % 2 ^ (8 * n)), s)
  else if inImageWindow s a then
    if a - 0x08000000 + n ≤ imageSize s then .ok (imageRead s (a - 0x08000000) n, s) else .error 4
  else if 0x0C000000 ≤ a && a < 0x0C020000 then
    -- the journals' layout is not given: an open value (log 5)
    let r := drawWord s
    .ok (W (r.1.toNat % 2 ^ (8 * n)), r.2)
  else if underBist s a then .error 1
  else if inSram s a then .ok (sramOrSaved a n s)
  else if inDmaPages a then
    if n ≠ 4 then .error 3
    else if pageDomain a ≠ 0 && !s.isUsable (pageDomain a) then .error 1
    else .ok (pageRead a s)
  else if 0x70000000 ≤ a && a < 0x70000800 then
    if n ≠ 4 then .error 3 else .ok (otpRead s ((a - 0x70000000) / 4), s)
  else .error 0

/-- An aligned store of n bytes by the core (R364, R365). -/
def busWrite (a n : Nat) (w : Word) (s : State) : Except Nat State :=
  if underBist s a then .error 1
  else if inSram s a then
    if inSaveArea s a then .error 2 else .ok (sramWrite a n w s)
  else if inDmaPages a then
    if n ≠ 4 then .error 3
    else if pageReadOnly a then .error 0
    else if pageDomain a ≠ 0 && !s.isUsable (pageDomain a) then .error 1
    else .ok (pageWrite a w s)
  else if 0x70000000 ≤ a && a < 0x70000800 && n ≠ 4 then .error 3
  else .error 0

/-- The kind of bus error that a fetch at an aligned address meets, if any (R364, R365). -/
def fetchError (s : State) (a : Nat) : Option Nat :=
  if underBist s a then some 1
  else if a < 0x10000 || inSram s a then none
  else if inImageWindow s a then (if a - 0x08000000 + 4 ≤ imageSize s then none else some 4)
  else some 0

/-- REGISTER_WRITE: a word stored to a register page by application code (R7). -/
def registerWrite (a w : Word) (s : State) : State :=
  if s.awake && s.on dAPP && inDmaPages a.toNat && a.toNat % 4 = 0 then
    match busWrite a.toNat 4 w s with
    | .ok s' => s'
    | .error _ => s
  else s

def execRegisterWrite (addr value : Word) (s : State) : Out := .next (registerWrite addr value s)

/-! ### The DMA engine (R381-R386) -/

/-- The level request of a channel holds (R381). -/
def levelHolds (s : State) (req : Nat) : Bool :=
  let u (i : Fin 3) := s.peri.uart[i]
  let sp (i : Fin 2) := s.peri.spic[i]
  let ic (i : Fin 2) := s.peri.i2c[i]
  let lane (i : Fin 5) := !(s.port .mbx).lanes[i].stages.isEmpty
  match req with
  | 2 => !(u 0).rx.isEmpty | 4 => !(u 1).rx.isEmpty | 6 => !(u 2).rx.isEmpty
  | 3 => decide ((u 0).tx.length < 16) | 5 => decide ((u 1).tx.length < 16) | 7 => decide ((u 2).tx.length < 16)
  | 8 => !(sp 0).rx.isEmpty | 10 => !(sp 1).rx.isEmpty
  | 9 => decide ((sp 0).tx.length < 8) | 11 => decide ((sp 1).tx.length < 8)
  | 12 => !(ic 0).rx.isEmpty | 14 => !(ic 1).rx.isEmpty
  | 13 => decide ((ic 0).tx.length < 8) | 15 => decide ((ic 1).tx.length < 8)
  | 16 => !s.peri.adc.fifo.isEmpty
  | 17 => decide (0 < (s.port .mbx).cmd.free)
  | 18 => lane 0 | 19 => lane 1 | 20 => lane 2 | 21 => lane 3
  | _ => false

/-- An item's read: SRAM at its own size, a register page as a word whose low bits it takes (R383). -/
def dmaRead (size a : Nat) (s : State) : Option (Word × State) :=
  if underBist s a then none
  else if inSram s a then some (sramOrSaved a size s)
  else if inDmaPages a && (pageDomain a = 0 || s.isUsable (pageDomain a)) then
    let r := pageRead a s
    some (W (r.1.toNat % 2 ^ (8 * size)), r.2)
  else none

/-- An item's write; none is a bus error or a discarded MBX_CMD word, with what it leaves (R384). -/
def dmaWrite (size a : Nat) (w : Word) (s : State) : State × Bool :=
  if underBist s a then (s, false)
  else if inSram s a then (if inSaveArea s a then (s, false) else (sramWrite a size w s, true))
  else if a = 0x50000000 && (s.port .mbx).cmd.stages.length = 64 && (s.port .mbx).cmd.discard = 0 then
    (overrunAt .mbx false w { s with plaza.mbxOverrun := true }, false)
  else if inDmaPages a && !pageReadOnly a && (pageDomain a = 0 || s.isUsable (pageDomain a)) then (pageWrite a w s, true)
  else (s, false)

/-- The end of a descriptor (R386). -/
def dmaDescEnd (ch : Fin 16) (s : State) : State :=
  let c := s.peri.dma[ch]
  let s1 := dmaWriteBack ch 0 s
  let s2 := if bitAt c.word2 20 then { s1 with peri.dmaDone := s1.peri.dmaDone ||| (1#16 <<< ch.val) } else s1
  if bitAt c.word2 21 then dmaStop ch 0 false s2 else dmaLoad ch c.next s2

/-- One item of a channel (R384): true if the channel goes on within its descriptor, false at a descriptor's end or a stop. -/
def dmaItem (ch : Fin 16) (s : State) : State × Bool :=
  let c := s.peri.dma[ch]
  match dmaRead c.size c.src.toNat s with
  | none => (dmaStop ch 1 false (dmaWriteBack ch 4 s), false)
  | some (w, s1) =>
    match dmaWrite c.size c.dst.toNat w s1 with
    | (s2, false) => (dmaStop ch 2 false (dmaWriteBack ch 4 s2), false)
    | (s2, true) =>
      let s3 := setCh ch (fun k => { k with
        src := if bitAt c.word2 18 then c.src + W c.size else c.src,
        dst := if bitAt c.word2 19 then c.dst + W c.size else c.dst,
        left := c.left - 1, total := c.total + 1 }) s2
      if c.left = 1#16 then (dmaDescEnd ch s3, false) else (s3, true)

/-- A channel has work (R386). -/
def dmaWork (s : State) (ch : Fin 16) : Bool :=
  let c := s.peri.dma[ch]
  bitAt c.ctrl 0 && (c.serving || levelHolds s c.req)

/-- A channel of higher PRIO has work: it takes over at the item boundary (R386). -/
def dmaOutranked (ch : Fin 16) (s : State) : Bool :=
  (List.finRange 16).any fun k => dmaWork s k && decide (s.peri.dma[ch].prio < s.peri.dma[k].prio)

/-- Items of one burst, n at most, with how many are left where a channel of higher PRIO takes over; a level burst stops when its
request falls, a block at its descriptor's end. -/
def dmaItems (ch : Fin 16) (event : Bool) : Nat → State → State × Nat
  | 0, s => (s, 0)
  | n + 1, s =>
    let c := s.peri.dma[ch]
    if !bitAt c.ctrl 0 || (!event && !levelHolds s c.req) then (s, 0)
    else
      let r := dmaItem ch s
      if !r.2 && event && c.block then (r.1, 0)
      else if dmaOutranked ch r.1 then (r.1, n)
      else dmaItems ch event n r.1

/-- The channel to serve among some: of the highest PRIO that has work, one in the midst of a burst, else the next in turn after the
one served last (R386). -/
def dmaPick (among : Fin 16 → Bool) (s : State) : Option (Fin 16) :=
  let order := (List.finRange 16).map fun (i : Fin 16) => s.peri.dmaLast + i + 1
  let ws := order.filter fun ch => among ch && dmaWork s ch
  let top := ws.foldl (fun m ch => max m s.peri.dma[ch].prio) 0
  let best := ws.filter fun ch => s.peri.dma[ch].prio = top
  match best.find? fun ch => 0 < s.peri.dma[ch].burstLeft with
  | some ch => some ch
  | none => best.head?

/-- DMA_BURST: one burst of the channel whose turn it is, or the rest of one that a channel of higher PRIO interrupted (R382,
R386). -/
def dmaBurst (s : State) : State :=
  if !(s.awake && s.isUsable dPERI && s.peri.dmaEn) then s
  else match dmaPick (fun _ => true) s with
    | none => s
    | some ch =>
      let c := s.peri.dma[ch]
      let n := if 0 < c.burstLeft then c.burstLeft else if c.serving && c.block then c.left.toNat else c.burst
      let r := dmaItems ch c.serving n { s with peri.dmaLast := ch }
      let s1 := setCh ch (fun k => { k with burstLeft := if bitAt k.ctrl 0 then r.2 else 0 }) r.1
      if r.2 = 0 && c.serving && bitAt s1.peri.dma[ch].ctrl 0 then
        setCh ch (fun k => { k with serving := k.pend, pend := false }) s1
      else s1

/-- SYSCLK cycles of one access: 1 in SRAM, the load stall of R369 on a register page (R386). -/
def accessCycles (a : Nat) : Nat :=
  if !inDmaPages a then 1
  else if a / 4096 = 0x4000B || a / 4096 = 0x4000D || a / 4096 = 0x4000E || a / 4096 = 0x4000F then 8
  else 2

/-- A channel is within a descriptor: some of its items are moved (R388). -/
def dmaBegun (s : State) (ch : Fin 16) : Bool :=
  let c := s.peri.dma[ch]
  bitAt c.ctrl 0 && c.left ≠ c.word2.setWidth 16

/-- The drain at stop entry: channels within a descriptor go on to its end, item by item, in at most so many cycles (R388, R428). -/
def dmaDrain : Nat → Nat → State → State
  | 0, _, s => s
  | fuel + 1, cycles, s =>
    if !(s.isUsable dPERI && s.peri.dmaEn) then s
    else match dmaPick (dmaBegun s) s with
      | none => s
      | some ch =>
        let c := s.peri.dma[ch]
        let cost := accessCycles c.src.toNat + accessCycles c.dst.toNat
        if cycles < cost then s else dmaDrain fuel (cycles - cost) (dmaItem ch { s with peri.dmaLast := ch }).1

def execDmaBurst (s : State) : Out := .next (dmaBurst s)

/-- A channel with EN = 1 uses a domain (R387): PERI, the pages that its descriptor names, and its request source. -/
def dmaUses (s : State) (d : Nat) (ch : Fin 16) : Bool :=
  let c := s.peri.dma[ch]
  let page (a : Word) : Bool := inDmaPages a.toNat && pageDomain a.toNat = d
  let r := c.req
  let source := if r = 16 then dKERB else if 17 ≤ r && r ≤ 21 then dLINK else if 2 ≤ r && r ≤ 15 then dPERI else 0
  bitAt c.ctrl 0 && (d = dPERI || page c.src || page c.dst || (d ≠ 0 && source = d))

end Sys2Proof.Machine
end

