-- ==== Sys2Proof/Machine/AppCore.lean ====
section
/-! DEFINITION. The PB32 application core (R342-R368): registers and their distances, hardware loops, delay slots,
exceptions, interrupts and starting. Each instruction row is one decoded instruction executed at the present pc. -/

namespace Sys2Proof.Machine
open Sys2Proof

/-! ### Starting (R367) -/

/-- The core starts with STARTCAUSE `cause`; a fault restart keeps VECTOR, BUSERR, FADDR and FPC. It is held in reset while
no application image is present. -/
def coreStart (cause : Nat) (s : State) : State :=
  let c := s.core
  let sp : Word := W (0x20000000 + s.saveArea)
  let kept := if cause = 3 then c.cause &&& 0x71F#32 else 0#32
  let base : CoreState :=
    { running := c.imagePresent
      regs := (Vector.replicate 32 0#32).set 30 sp
      cause := kept ||| W (cause * 32)
      faddr := if cause = 3 then c.faddr else 0#32
      fpc := if cause = 3 then c.fpc else 0#32
      intcEn := c.intcEn
      lvlA := c.lvlA
      lvlB := c.lvlB
      swi := c.swi
      imagePresent := c.imagePresent
      busRead := c.busRead }
  let s1 := { s with core := base }
  match busRead 0x08000000 4 s1 with
  | .ok (w, s2) => { s2 with core.pc := w }
  | .error _ => s1

/-- APP goes off or the core is held: nothing runs, and the INTC page returns to its reset values (R360). -/
def coreHold (s : State) : State :=
  { s with core := { imagePresent := s.core.imagePresent, busRead := s.core.busRead } }

/-! ### Registers and their distances (R342, R348, R349) -/

/-- A load or a multiply has still to write register r. -/
def hasHazard (s : State) (r : BitVec 5) : Bool := s.core.hazards.any fun h => h.reg = r

/-- A general register as an instruction reads it: g0 reads 0; a result used before its distance is open. -/
def rg (r : BitVec 5) (s : State) : Word × State :=
  if r = 0#5 then (0#32, s)
  else if hasHazard s r then drawWord s
  else (s.core.regs[r.toNat], s)

/-- A general register written; one that is still to be written by a load or multiply ends up open (R349). -/
def wr (r : BitVec 5) (w : Word) (s : State) : State :=
  if r = 0#5 then s
  else if hasHazard s r then
    let d := drawWord s
    { d.2 with core.regs := d.2.core.regs.set r.toNat d.1 }
  else { s with core.regs := s.core.regs.set r.toNat w }

/-- A register whose result is usable at distance d (R348). -/
def hazard (r : BitVec 5) (d : Nat) (s : State) : State :=
  if r = 0#5 then s else { s with core.hazards := { reg := r, left := d } :: s.core.hazards }

/-- One instruction further from every producer. -/
def age (s : State) : State :=
  { s with core.hazards := (s.core.hazards.map fun h => { h with left := h.left - 1 }).filter fun h => 0 < h.left
           core.specHazards := (s.core.specHazards.map fun h => { h with left := h.left - 1 }).filter fun h => 0 < h.left
           core.stale := (s.core.stale.map fun h => { h with left := h.left - 1 }).filter fun h => 0 < h.left }

/-- A special register before its distance acts as its old or its new value (R348, R352). -/
def settled (sr : Nat) (new : Word) (s : State) : Word × State :=
  match s.core.specHazards.find? fun h => h.sr.toNat = sr with
  | some h =>
    let r := drawBool s
    (if r.1 then h.old else new, r.2)
  | none => (new, s)

/-! ### Fetch and cache (R361) -/

/-- The cache after a fetch at offset o of the image window, and whether the line was filled: 256 sets of 2 lines, the least
recently used replaced. -/
def cacheFetch (lines : List Nat) (line : Nat) : List Nat × Bool :=
  let others := lines.filter (· ≠ line)
  let mates := others.filter fun l => l % 256 = line % 256
  (line :: (others.filter fun l => l % 256 ≠ line % 256) ++ mates.take 1, !lines.contains line)

/-- The instruction at the pc is fetched. -/
def fetchAt (s : State) : State :=
  let a := s.core.pc.toNat
  if inImageWindow s a then
    let e := settled 23 (W (b2n s.core.cacheEn)) s
    if bitAt e.1 0 then
      let r := cacheFetch s.core.cache ((a - 0x08000000) / 32)
      { e.2 with core.cache := r.1, core.cacheMiss := if r.2 then satInc s.core.cacheMiss else s.core.cacheMiss }
    else e.2
  else s

/-! ### Exceptions (R355-R357) -/

/-- What an exception reports. -/
structure Exc where
  vector : Nat
  /-- FADDR, where an access or a fetch failed. -/
  addr : Option Word := none
  /-- BUSERR (R365). -/
  kind : Option Nat := none
  /-- TRAPCODE. -/
  trap : Option (BitVec 5) := none
  /-- TRAP and BREAK resume at the next instruction (R356). -/
  next : Bool := false
  deriving DecidableEq, Repr

/-- STATUS fields (R343). -/
def ieOf (st : Word) : Bool := bitAt st 0
def iplOf (st : Word) : Nat := fld st 3 1
def excOf (st : Word) : Bool := bitAt st 4

/-- An access failed during entry: FADDR and BUSERR say where and how (R343). -/
def entryFailed (a : Word) (kind : Option Nat) (s : State) : State × Option Word :=
  let c := s.core.cause
  let cause := match kind with | some k => (c &&& ~~~0x700#32) ||| W (k * 2 ^ 8) | none => c
  ({ s with core.faddr := a, core.cause := cause }, none)

/-- The frame of an entry: g30 less 8, the resume address and STATUS stored, and the address in vector word v read. none: a
fault during entry (R357). -/
def entryFrame (v : Nat) (resume status : Word) (s : State) : State × Option Word :=
  let sp := s.core.regs[30] - 8
  let va := s.core.vbase + W (4 * v)
  if sp.toNat % 4 ≠ 0 then entryFailed sp none s
  else match busWrite (sp + 4).toNat 4 resume s with
    | .error k => entryFailed (sp + 4) (some k) s
    | .ok s1 => match busWrite sp.toNat 4 status s1 with
      | .error k => entryFailed sp (some k) s1
      | .ok s2 =>
        let s3 := { s2 with core.regs := s2.core.regs.set 30 sp, core.hazards := [], core.specHazards := [] }
        match busRead va.toNat 4 s3 with
        | .error k => entryFailed va (some k) s3
        | .ok (w, s4) => if w.toNat % 4 = 0 then (s4, some w) else entryFailed w none s4

/-- CAUSE after an exception (R343, R356). -/
def causeOf (e : Exc) (slot : Bool) (old : Word) : Word :=
  W (e.vector + fld old 7 5 * 2 ^ 5 + (e.kind.getD (fld old 10 8)) * 2 ^ 8
     + (match e.trap with | some t => t.toNat | none => fld old 15 11) * 2 ^ 11 + b2n slot * 2 ^ 16)

/-- The loop decision after the instruction at the pc (R352): the next address, and the set whose count falls. A set whose
registers were written too late acts as under either value. `n` counts the sets still to look at. -/
def loopNext : Nat → State → Word × State
  | 0, s => (s.core.pc + 4, s)
  | k + 1, s =>
    let n : Fin 3 := Fin.ofNat 3 (2 - k)
    let e := settled (3 * n.val + 1) s.core.le[n] s
    let c := settled (3 * n.val + 2) s.core.lc[n] e.2
    if e.1 = s.core.pc && c.1 ≠ 0#32 then
      let b := settled (3 * n.val) s.core.ls[n] c.2
      let s1 := { b.2 with core.lc := b.2.core.lc.set n (c.1 - 1),
                           core.specHazards := b.2.core.specHazards.filter fun h => h.sr.toNat ≠ 3 * n.val + 2 }
      (if c.1 = 1#32 then s.core.pc + 4 else b.1, s1)
    else loopNext k c.2

/-- The pc is at the end of an active loop's body. -/
def atLoopEnd (s : State) : Bool :=
  (List.finRange 3).any fun (n : Fin 3) => s.core.le[n] = s.core.pc && s.core.lc[n] ≠ 0#32

/-- The core alone is reset after a fault that cannot be entered (R357, R367). -/
def faultRestart (s : State) : State :=
  coreStart 3 { s with upd.trial := s.upd.trial.map fun t => if t.rollbackOnFault && t.due.isNone then { t with due := some 3 } else t }

/-- FPC, FADDR and CAUSE as an exception leaves them. -/
def noteExc (e : Exc) (slot : Bool) (s : State) : State :=
  { s with core.fpc := s.core.pc, core.faddr := e.addr.getD s.core.faddr, core.cause := causeOf e slot s.core.cause }

/-- An exception is taken at the instruction that raises it (R356); a second one while EXC = 1, or a fault during entry, is a
fault restart (R357). An exception in a delay slot resumes after the slot; in the slot of a RETI the restored STATUS is the
one stacked (DEDUCED, log 26). -/
def takeExc (e : Exc) (s : State) : State :=
  let c := s.core
  let inSlot := c.slot.isSome
  let st := settled 16 c.status s
  let after := if e.next then loopNext 3 st.2 else (c.pc, st.2)
  let resume := match c.slot with | some t => t | none => after.1
  let status := match c.slotStatus with | some w => w | none => c.status
  let s1 := { noteExc e inSlot after.2 with core.slot := none, core.slotStatus := none, core.slotTaken := false }
  if excOf st.1 then faultRestart s1
  else match entryFrame e.vector resume status s1 with
    | (s2, none) => faultRestart s2
    | (s2, some w) => { s2 with core.status := (status &&& ~~~1#32) ||| 0x10#32, core.pc := w }

/-! ### One instruction -/

/-- How an instruction ends. -/
inductive Ended where
  /-- The next instruction in sequence follows. -/
  | seq (s : State)
  /-- The next instruction is at an address, without a delay slot: a LOOP whose count is 0 (R351). -/
  | goto (a : Word) (s : State)
  /-- A transfer: its delay slot follows, then the address; whether it is taken, and the STATUS that RETI restores. -/
  | transfer (a : Word) (taken : Bool) (status : Option Word) (s : State)
  /-- The instruction raises an exception and has no other effect than the state given. -/
  | exc (e : Exc) (s : State)

/-- Application interrupts that end a WAIT (R359): pending and enabled at a level above IPL. -/
def wakesWait (s : State) : Bool :=
  match intcTop s with
  | some (_, l) => decide (iplOf s.core.status < l)
  | none => false

/-- The core waits in the boot ROM stub while the banks switch (R368, R462). -/
def coreParked (s : State) : Bool := match s.upd.hand with | some h => h.phase = .parked | none => false

/-- The core executes instructions now: in run with APP on, not parked, halted, waiting, or held on a store. -/
def coreRuns (s : State) : Bool :=
  s.awake && s.isUsable dAPP && s.core.running && !s.core.halted && s.plaza.mbxHold.isNone && !coreParked s &&
  (!s.core.waiting || wakesWait s)

/-- After an instruction that completed: the slot's transfer, or the loop decision (R350, R352, R353). -/
def advance (s : State) : State :=
  let c := s.core
  match c.slot with
  | some t =>
    if c.slotTaken then
      let status := match c.slotStatus with | some w => w | none => c.status
      age { s with core.pc := t, core.status := status, core.slot := none, core.slotStatus := none, core.slotTaken := false }
    else
      let r := loopNext 3 s
      age { r.2 with core.pc := r.1, core.slot := none, core.slotStatus := none, core.slotTaken := false }
  | none =>
    let r := loopNext 3 s
    age { r.2 with core.pc := r.1 }

/-- What an instruction's end does. -/
def conclude : Ended → State
  | .seq s => advance s
  | .goto a s => age { s with core.pc := a }
  | .transfer a taken status s =>
    age { s with core.pc := s.core.pc + 4, core.slot := some a, core.slotTaken := taken, core.slotStatus := status }
  | .exc e s => takeExc e s

/-- One instruction at the pc, with `f` its own effect. A core that does not run leaves the state unchanged; a fetch that
fails raises a bus error (R365). One cycle at least passes (log 27). -/
def pbRow (f : State → Ended) (s : State) : State :=
  if !coreRuns s then s
  else
    let s0 := { s with core.waiting := false, core.cycles := s.core.cycles + 1 }
    match fetchError s s.core.pc.toNat with
    | some k => takeExc { vector := 2, addr := some s.core.pc, kind := some k } s0
    | none => conclude (f (fetchAt s0))

/-- An instruction that may stand in a delay slot and at a loop's end. -/
def pb (f : State → Ended) (s : State) : Out := .next (pbRow f s)

/-- An instruction is executed now: the core runs and its fetch succeeds. -/
def coreFetches (s : State) : Bool := coreRuns s && (fetchError s s.core.pc.toNat).isNone

/-- A TRAP, WAIT or BREAK: undefined in a delay slot (R350). -/
def pbNoSlot (f : State → Ended) (s : State) : Out :=
  if coreFetches s && s.core.slot.isSome then .fault .undefinedDelaySlot else .next (pbRow f s)

/-- A transfer, LOOP or LOOPI: undefined in a delay slot (R350), and not allowed at the end of an active loop's body
(R353). -/
def pbTransfer (f : State → Ended) (s : State) : Out :=
  if coreFetches s && s.core.slot.isSome then .fault .undefinedDelaySlot
  else if coreFetches s && atLoopEnd s then .fault .undefinedLoopEnd
  else .next (pbRow f s)

/-! ### Arithmetic, logic, immediates (R345) -/

/-- rd ← op ra rb. -/
def alu2 (op : Word → Word → Word) (rd ra rb : BitVec 5) (s : State) : Ended :=
  let a := rg ra s
  let b := rg rb a.2
  .seq (wr rd (op a.1 b.1) b.2)

/-- rd ← op ra. -/
def alu1 (op : Word → Word) (rd ra : BitVec 5) (s : State) : Ended :=
  let a := rg ra s
  .seq (wr rd (op a.1) a.2)

def ofBool (b : Bool) : Word := if b then 1#32 else 0#32

/-- Leading zeros, 0 to 32. -/
def clz (w : Word) : Word := W ((List.range 32).foldl (fun acc i => if bitAt w i then 31 - i else acc) 32)

def zext (imm : BitVec 16) : Word := imm.setWidth 32
def sext (imm : BitVec 16) : Word := imm.signExtend 32

def execPbAdd (rd ra rb : BitVec 5) (s : State) : Out := pb (alu2 (· + ·) rd ra rb) s
def execPbSub (rd ra rb : BitVec 5) (s : State) : Out := pb (alu2 (· - ·) rd ra rb) s
def execPbAnd (rd ra rb : BitVec 5) (s : State) : Out := pb (alu2 (· &&& ·) rd ra rb) s
def execPbOr (rd ra rb : BitVec 5) (s : State) : Out := pb (alu2 (· ||| ·) rd ra rb) s
def execPbXor (rd ra rb : BitVec 5) (s : State) : Out := pb (alu2 (· ^^^ ·) rd ra rb) s
def execPbNor (rd ra rb : BitVec 5) (s : State) : Out := pb (alu2 (fun a b => ~~~(a ||| b)) rd ra rb) s
def execPbSlt (rd ra rb : BitVec 5) (s : State) : Out := pb (alu2 (fun a b => ofBool (a.slt b)) rd ra rb) s
def execPbSltu (rd ra rb : BitVec 5) (s : State) : Out := pb (alu2 (fun a b => ofBool (a.ult b)) rd ra rb) s
def execPbSll (rd ra rb : BitVec 5) (s : State) : Out := pb (alu2 (fun a b => a <<< fld b 4 0) rd ra rb) s
def execPbSrl (rd ra rb : BitVec 5) (s : State) : Out := pb (alu2 (fun a b => a >>> fld b 4 0) rd ra rb) s
def execPbSra (rd ra rb : BitVec 5) (s : State) : Out := pb (alu2 (fun a b => a.sshiftRight (fld b 4 0)) rd ra rb) s
def execPbSlli (rd ra sh : BitVec 5) (s : State) : Out := pb (alu1 (fun a => a <<< sh.toNat) rd ra) s
def execPbSrli (rd ra sh : BitVec 5) (s : State) : Out := pb (alu1 (fun a => a >>> sh.toNat) rd ra) s
def execPbSrai (rd ra sh : BitVec 5) (s : State) : Out := pb (alu1 (fun a => a.sshiftRight sh.toNat) rd ra) s
def execPbMin (rd ra rb : BitVec 5) (s : State) : Out := pb (alu2 (fun a b => if a.slt b then a else b) rd ra rb) s
def execPbMax (rd ra rb : BitVec 5) (s : State) : Out := pb (alu2 (fun a b => if a.slt b then b else a) rd ra rb) s
def execPbMinu (rd ra rb : BitVec 5) (s : State) : Out := pb (alu2 (fun a b => if a.ult b then a else b) rd ra rb) s
def execPbMaxu (rd ra rb : BitVec 5) (s : State) : Out := pb (alu2 (fun a b => if a.ult b then b else a) rd ra rb) s
def execPbClz (rd ra : BitVec 5) (s : State) : Out := pb (alu1 clz rd ra) s
def execPbSextb (rd ra : BitVec 5) (s : State) : Out := pb (alu1 (fun a => (a.setWidth 8).signExtend 32) rd ra) s
def execPbSexth (rd ra : BitVec 5) (s : State) : Out := pb (alu1 (fun a => (a.setWidth 16).signExtend 32) rd ra) s
def execPbAddi (rd ra : BitVec 5) (imm : BitVec 16) (s : State) : Out := pb (alu1 (fun a => a + sext imm) rd ra) s
def execPbAndi (rd ra : BitVec 5) (imm : BitVec 16) (s : State) : Out := pb (alu1 (fun a => a &&& zext imm) rd ra) s
def execPbOri (rd ra : BitVec 5) (imm : BitVec 16) (s : State) : Out := pb (alu1 (fun a => a ||| zext imm) rd ra) s
def execPbXori (rd ra : BitVec 5) (imm : BitVec 16) (s : State) : Out := pb (alu1 (fun a => a ^^^ zext imm) rd ra) s
def execPbSlti (rd ra : BitVec 5) (imm : BitVec 16) (s : State) : Out :=
  pb (alu1 (fun a => ofBool (a.slt (sext imm))) rd ra) s
def execPbSltiu (rd ra : BitVec 5) (imm : BitVec 16) (s : State) : Out :=
  pb (alu1 (fun a => ofBool (a.ult (sext imm))) rd ra) s

/-- ILLEGAL (R346). -/
def illegal (s : State) : Ended := .exc { vector := 1 } s

/-- LUI: the ra field must be 0 (R345, R346). -/
def execPbLui (rd ra : BitVec 5) (imm : BitVec 16) (s : State) : Out :=
  pb (fun s => if ra = 0#5 then .seq (wr rd (zext imm <<< 16) s) else illegal s) s

/-! ### Multiplies: usable at distance 3 (R345, R348) -/

def mul2 (op : Word → Word → Word → Word) (acc : Bool) (rd ra rb : BitVec 5) (s : State) : Ended :=
  let a := rg ra s
  let b := rg rb a.2
  let d := if acc then rg rd b.2 else (0#32, b.2)
  .seq (hazard rd 3 (wr rd (op d.1 a.1 b.1) d.2))

def execPbMul (rd ra rb : BitVec 5) (s : State) : Out := pb (mul2 (fun _ a b => a * b) false rd ra rb) s
def execPbMulh (rd ra rb : BitVec 5) (s : State) : Out :=
  pb (mul2 (fun _ a b => WI (a.toInt * b.toInt / 2 ^ 32)) false rd ra rb) s
def execPbMulhu (rd ra rb : BitVec 5) (s : State) : Out :=
  pb (mul2 (fun _ a b => W (a.toNat * b.toNat / 2 ^ 32)) false rd ra rb) s
def execPbMac (rd ra rb : BitVec 5) (s : State) : Out := pb (mul2 (fun d a b => d + a * b) true rd ra rb) s
def execPbMsu (rd ra rb : BitVec 5) (s : State) : Out := pb (mul2 (fun d a b => d - a * b) true rd ra rb) s

/-! ### Loads and stores (R345, R365, R366) -/

def alignExc (a : Word) (s : State) : Ended := .exc { vector := 3, addr := some a } s
def busExc (a : Word) (k : Nat) (s : State) : Ended := .exc { vector := 2, addr := some a, kind := some k } s

/-- Sources that a store to a register page cleared, which the interrupt controller may still show until distance 3 (R358). -/
def noteCleared (a : Nat) (old s : State) : State :=
  if inDmaPages a then
    let gone := intcPend old &&& old.core.intcEn &&& ~~~(intcPend s)
    let new := ((List.range 24).map (· + 8)).filterMap fun v =>
      if bitAt gone v then some { vector := v, level := vectorLevel old v, page := a / 4096, left := 4 : StaleIrq } else none
    if new.isEmpty then s else { s with core.stale := new ++ s.core.stale }
  else s

/-- A load from a page orders the stores to it (R358). -/
def orderPage (a : Nat) (s : State) : State :=
  if s.core.stale.isEmpty then s else { s with core.stale := s.core.stale.filter fun h => h.page ≠ a / 4096 }

/-- A load of n bytes into rd, `ext` extending what is read: usable at distance 2. -/
def load (n : Nat) (ext : Word → Word) (rd ra : BitVec 5) (imm : BitVec 16) (s : State) : Ended :=
  let b := rg ra s
  let a := b.1 + sext imm
  if a.toNat % n ≠ 0 then alignExc a b.2
  else match busRead a.toNat n b.2 with
    | .error k => busExc a k b.2
    | .ok (w, s1) => .seq (hazard rd 2 (wr rd (ext w) (orderPage a.toNat { s1 with core.busRead := w })))

/-- A store of the low n bytes of rs. -/
def store (n : Nat) (rs ra : BitVec 5) (imm : BitVec 16) (s : State) : Ended :=
  let b := rg ra s
  let v := rg rs b.2
  let a := b.1 + sext imm
  if a.toNat % n ≠ 0 then alignExc a v.2
  else match busWrite a.toNat n v.1 v.2 with
    | .error k => busExc a k v.2
    | .ok s1 => .seq (noteCleared a.toNat v.2 s1)

def execPbLw (rd ra : BitVec 5) (imm : BitVec 16) (s : State) : Out := pb (load 4 id rd ra imm) s
def execPbLh (rd ra : BitVec 5) (imm : BitVec 16) (s : State) : Out :=
  pb (load 2 (fun w => (w.setWidth 16).signExtend 32) rd ra imm) s
def execPbLhu (rd ra : BitVec 5) (imm : BitVec 16) (s : State) : Out := pb (load 2 (fun w => w &&& 0xFFFF#32) rd ra imm) s
def execPbLb (rd ra : BitVec 5) (imm : BitVec 16) (s : State) : Out :=
  pb (load 1 (fun w => (w.setWidth 8).signExtend 32) rd ra imm) s
def execPbLbu (rd ra : BitVec 5) (imm : BitVec 16) (s : State) : Out := pb (load 1 (fun w => w &&& 0xFF#32) rd ra imm) s
def execPbSw (rs ra : BitVec 5) (imm : BitVec 16) (s : State) : Out := pb (store 4 rs ra imm) s
def execPbSh (rs ra : BitVec 5) (imm : BitVec 16) (s : State) : Out := pb (store 2 rs ra imm) s
def execPbSb (rs ra : BitVec 5) (imm : BitVec 16) (s : State) : Out := pb (store 1 rs ra imm) s

/-! ### Branches and jumps (R344, R345, R350) -/

/-- A branch: to the target if the comparison holds, after its delay slot. -/
def branch (cond : Word → Word → Bool) (ra rb : BitVec 5) (off : BitVec 16) (s : State) : Ended :=
  let a := rg ra s
  let b := rg rb a.2
  if cond a.1 b.1 then .transfer (s.core.pc + (sext off <<< 2)) true none b.2
  else .transfer (s.core.pc + 8) false none b.2

def execPbBeq (ra rb : BitVec 5) (off : BitVec 16) (s : State) : Out := pbTransfer (branch (fun a b => a == b) ra rb off) s
def execPbBne (ra rb : BitVec 5) (off : BitVec 16) (s : State) : Out := pbTransfer (branch (fun a b => a != b) ra rb off) s
def execPbBlt (ra rb : BitVec 5) (off : BitVec 16) (s : State) : Out := pbTransfer (branch (fun a b => a.slt b) ra rb off) s
def execPbBge (ra rb : BitVec 5) (off : BitVec 16) (s : State) : Out := pbTransfer (branch (fun a b => !a.slt b) ra rb off) s
def execPbBltu (ra rb : BitVec 5) (off : BitVec 16) (s : State) : Out := pbTransfer (branch (fun a b => a.ult b) ra rb off) s
def execPbBgeu (ra rb : BitVec 5) (off : BitVec 16) (s : State) : Out := pbTransfer (branch (fun a b => !a.ult b) ra rb off) s

/-- A transfer to an address: misaligned, it raises the alignment exception (R365). -/
def toAddr (a : Word) (f : State → Ended) (s : State) : Ended := if a.toNat % 4 ≠ 0 then alignExc a s else f s

/-- The target of a J-format transfer. -/
def jTarget (off : BitVec 26) (s : State) : Word := s.core.pc + (off.signExtend 32 <<< 2)

/-- A word pushed (R354): g30 less 4, then the store; `k` goes on with the new g30 in place. -/
def pushed (w : Word) (k : State → Ended) (s : State) : Ended :=
  let p := rg 30#5 s
  let a := p.1 - 4
  if a.toNat % 4 ≠ 0 then alignExc a p.2
  else match busWrite a.toNat 4 w p.2 with
    | .error e => busExc a e p.2
    | .ok s1 => k (wr 30#5 a s1)

/-- A word popped (R354): the word at g30, then g30 plus 4. -/
def popped (k : Word → State → Ended) (s : State) : Ended :=
  let p := rg 30#5 s
  if p.1.toNat % 4 ≠ 0 then alignExc p.1 p.2
  else match busRead p.1.toNat 4 p.2 with
    | .error e => busExc p.1 e p.2
    | .ok (w, s1) => k w (wr 30#5 (p.1 + 4) s1)

def execPbJmp (off : BitVec 26) (s : State) : Out := pbTransfer (fun s => .transfer (jTarget off s) true none s) s
def execPbCall (off : BitVec 26) (s : State) : Out :=
  pbTransfer (fun s => pushed (s.core.pc + 8) (.transfer (jTarget off s) true none) s) s
def execPbJr (ra : BitVec 5) (s : State) : Out :=
  pbTransfer (fun s => let a := rg ra s; toAddr a.1 (.transfer a.1 true none) a.2) s
def execPbCallr (ra : BitVec 5) (s : State) : Out :=
  pbTransfer (fun s => let a := rg ra s; toAddr a.1 (pushed (s.core.pc + 8) (.transfer a.1 true none)) a.2) s

/-- RET: a misaligned return address raises the exception with g30 unchanged. -/
def execPbRet (s : State) : Out :=
  pbTransfer (fun s => popped (fun w s1 => if w.toNat % 4 ≠ 0 then alignExc w s else .transfer w true none s1) s) s

/-- STATUS as it is stored: IPL at most 4, reserved bits 0 (R343). -/
def statusOf (w : Word) : Word :=
  W (fld w 0 0 + min 4 (fld w 3 1) * 2 + fld w 4 4 * 16)

/-- RETI (R357): STATUS from g30, the resume address from g30 + 4, g30 plus 8; STATUS applies after the delay slot. -/
def execPbReti (s : State) : Out :=
  pbTransfer (fun s =>
    popped (fun st s1 =>
      popped (fun w s2 => if w.toNat % 4 ≠ 0 then alignExc w s else .transfer w true (some (statusOf st)) s2) s1) s) s

/-! ### Loops (R351) -/

/-- Loop n starts with a count: LEN below 2 or a set that does not exist is illegal (R346). A count of 0 costs 2 cycles. -/
def startLoop (n : BitVec 2) (count : Word) (len : BitVec 12) (s : State) : Ended :=
  if h : n.toNat < 3 then
    if len.toNat < 2 then illegal s
    else
      let le := s.core.pc + (len.setWidth 32 <<< 2)
      let s1 := { s with core.ls := s.core.ls.set n.toNat (s.core.pc + 4), core.le := s.core.le.set n.toNat le,
                         core.lc := s.core.lc.set n.toNat count,
                         core.specHazards := s.core.specHazards.filter fun h => h.sr.toNat / 3 ≠ n.toNat }
      if count = 0#32 then .goto (le + 4) { s1 with core.cycles := s1.core.cycles + 1 } else .goto (s.core.pc + 4) s1
  else illegal s

def execPbLoop (n : BitVec 2) (ra : BitVec 5) (len : BitVec 12) (s : State) : Out :=
  pbTransfer (fun s => let c := rg ra s; startLoop n c.1 len c.2) s
def execPbLoopi (n : BitVec 2) (cnt len : BitVec 12) (s : State) : Out :=
  pbTransfer (fun s => startLoop n (cnt.setWidth 32) len s) s

/-! ### Special registers (R343) -/

/-- A special-register number that is not used (R343). -/
def badSr (n : Nat) : Bool := (decide (9 ≤ n) && decide (n ≤ 15)) || decide (26 ≤ n)

/-- The value of a special register without side effects. -/
def srValue (n : Nat) (s : State) : Word :=
  let c := s.core
  if n < 9 then
    let i : Fin 3 := Fin.ofNat 3 (n / 3)
    match n % 3 with
    | 0 => c.ls[i]
    | 1 => c.le[i]
    | _ => c.lc[i]
  else match n with
    | 16 => c.status
    | 17 => c.vbase
    | 18 => c.cause
    | 19 => c.faddr
    | 20 => c.fpc
    | 21 => lo32 c.cycles
    | 22 => c.cycleHi
    | 23 => W (b2n c.cacheEn)
    | 24 => c.cacheMiss
    | 25 => 0x010B#32
    | _ => 0#32

/-- A read of CYCLE_LO: the cycles that stalls took are open (log 27); CYCLE_HI is latched. -/
def readCycle (s : State) : Word × State :=
  let r := drawWord s
  let c := s.core.cycles + r.1.setWidth 64
  (lo32 c, { r.2 with core.cycles := c, core.cycleHi := hi32 c })

/-- A read of CACHE_MISS clears it. -/
def readMiss (s : State) : Word × State := (s.core.cacheMiss, { s with core.cacheMiss := 0 })

/-- LCn within the last 2 instructions of an active body reads as before or after the pass's decrement (R352). -/
def readLc (i : Fin 3) (s : State) : Word × State :=
  let c := s.core
  if c.lc[i] ≠ 0#32 && (c.pc = c.le[i] || c.pc + 4 = c.le[i]) then
    let r := drawBool s
    (if r.1 then c.lc[i] else c.lc[i] - 1, r.2)
  else (c.lc[i], s)

/-- A read of a special register with its side effects. -/
def readSr (n : Nat) (s : State) : Word × State :=
  if n = 21 then readCycle s
  else if n = 24 then readMiss s
  else if n < 9 && n % 3 = 2 then readLc (Fin.ofNat 3 (n / 3)) s
  else if n < 9 then (srValue n s, s)
  else settled n (srValue n s) s

/-- The cache invalidated (R361). -/
def invalidate (s : State) : State := { s with core.cache := [] }

/-- A write of a special register; a register that only reads ignores it (R7). -/
def writeSr (n : Nat) (w : Word) (s : State) : State :=
  let old := srValue n s
  let note (d : Nat) (s : State) : State :=
    { s with core.specHazards := { sr := BitVec.ofNat 5 n, old, left := d } :: s.core.specHazards.filter fun h => h.sr.toNat ≠ n }
  if n < 9 then
    let i : Fin 3 := Fin.ofNat 3 (n / 3)
    match n % 3 with
    | 0 => note 2 { s with core.ls := s.core.ls.set i w }
    | 1 => note 2 { s with core.le := s.core.le.set i w }
    | _ => note 2 { s with core.lc := s.core.lc.set i w }
  else match n with
    | 16 => note 3 { s with core.status := statusOf w }
    | 17 => note 3 { s with core.vbase := w &&& 0xFFFFFF80#32 }
    | 23 => note 3 { (if bitAt w 1 then invalidate s else s) with core.cacheEn := bitAt w 0 }
    | _ => s

def execPbMoveTo (sr ra : BitVec 5) (s : State) : Out :=
  pb (fun s => if badSr sr.toNat then illegal s else let a := rg ra s; .seq (writeSr sr.toNat a.1 a.2)) s
def execPbMoveFrom (rd sr : BitVec 5) (s : State) : Out :=
  pb (fun s => if badSr sr.toNat then illegal s else let r := readSr sr.toNat s; .seq (wr rd r.1 r.2)) s

/-- MOVE from CYCLE_LO. -/
def execCycleLoRead (rd : BitVec 5) (s : State) : Out := pb (fun s => let r := readCycle s; .seq (wr rd r.1 r.2)) s
/-- MOVE from CACHE_MISS. -/
def execCacheMissRead (rd : BitVec 5) (s : State) : Out := pb (fun s => let r := readMiss s; .seq (wr rd r.1 r.2)) s
/-- MOVE to CACHECTL with INV, EN kept. -/
def execCachectlInv (s : State) : Out := pb (fun s => .seq (writeSr 23 (W (2 + b2n s.core.cacheEn)) s)) s

/-! ### Stack (R354) -/

def execPbPush (ra : BitVec 5) (s : State) : Out := pb (fun s => let a := rg ra s; pushed a.1 .seq a.2) s

/-- POP. Into g30 the manual gives no order between the word and the increment: open (log 5). -/
def execPbPop (rd : BitVec 5) (s : State) : Out :=
  pb (popped fun w s1 =>
    let r := if rd = 30#5 then drawWord s1 else (w, s1)
    .seq (hazard rd 2 (wr rd r.1 { r.2 with core.busRead := w }))) s

/-- The words that PUSHL stores, in order: LSn, LEn and LCn of each set of the mask, n ascending. -/
def loopWords (mask : BitVec 3) (s : State) : List Word :=
  (List.finRange 3).flatMap fun (n : Fin 3) => if mask.getLsbD n.val then [s.core.ls[n], s.core.le[n], s.core.lc[n]] else []

/-- Words pushed one after the other. -/
def pushAll : List Word → (State → Ended) → State → Ended
  | [], k, s => k s
  | w :: ws, k, s => pushed w (pushAll ws k) s

/-- PUSHL: the sets stored, then deactivated. -/
def execPbPushl (mask : BitVec 3) (s : State) : Out :=
  pb (fun s0 => pushAll (loopWords mask s0)
    (fun s => .seq { s with core.lc := Vector.ofFn fun n => if mask.getLsbD n.val then 0#32 else s.core.lc[n] }) s0) s

/-- Set n restored: LCn, LEn, LSn in that order. -/
def popSet (n : Nat) (k : State → Ended) (s : State) : Ended :=
  popped (fun c => popped (fun e => popped (fun l s1 =>
    k (writeSr (3 * n) l (writeSr (3 * n + 1) e (writeSr (3 * n + 2) c s1)))))) s

/-- The sets of a mask restored, n descending. -/
def popSets (mask : BitVec 3) : Nat → State → Ended
  | 0, s => .seq s
  | n + 1, s => if mask.getLsbD n then popSet n (popSets mask n) s else popSets mask n s

def execPbPopl (mask : BitVec 3) (s : State) : Out := pb (popSets mask 3) s

/-! ### System (R345, R359, R361, R363) -/

def execPbTrap (code : BitVec 5) (s : State) : Out :=
  pbNoSlot (fun s => .exc { vector := 4, trap := some code, next := true } s) s

/-- WAIT: the clock stops until a source is pending and enabled above IPL (R359). -/
def execPbWait (s : State) : Out := pbNoSlot (fun s => .seq { s with core.waiting := true }) s

/-- FENCE: accesses are performed in order and at once, so it only takes its place (R363, R366). -/
def execPbFence (s : State) : Out := pb .seq s
/-- ICINV takes 260 cycles (R361). -/
def execPbIcinv (s : State) : Out := pb (fun s => .seq { invalidate s with core.cycles := s.core.cycles + 259 }) s

/-- BREAK: a debug halt while a debug session has opened the core, else the exception (R345; DEDUCED, log 28). -/
def execPbBreak (s : State) : Out :=
  pbNoSlot (fun s =>
    if s.sec.debug = .closed then .exc { vector := 5, next := true } s else .seq { s with core.halted := true }) s

/-! ### Interrupts (R356) -/

/-- STATUS allows an interrupt of level l (R356). -/
def admitsIrq (st : Word) (l : Nat) : Bool := ieOf st && decide (iplOf st < l) && !excOf st

/-- The interrupt of vector v and level l is entered (R356). -/
def takeIrq (v l : Nat) (s : State) : State :=
  match entryFrame v s.core.pc s.core.status { s with core.waiting := false } with
  | (s2, none) => faultRestart s2
  | (s2, some w) =>
    { s2 with core.status := (s.core.status &&& ~~~0xE#32) ||| W (l * 2),
              core.cause := (s2.core.cause &&& ~~~0x1F#32) ||| W v, core.pc := w }

/-- A source that a store has just cleared may be entered once more: which, the manual leaves open (R358). -/
def staleEntry (st : Word) (s : State) : State :=
  match s.core.stale.find? fun h => admitsIrq st h.level with
  | none => s
  | some h =>
    let r := drawBool { s with core.stale := s.core.stale.filter fun k => k.vector ≠ h.vector }
    if r.1 then takeIrq h.vector h.level r.2 else r.2

/-- INTERRUPT_ENTRY: an eligible interrupt is taken between two instructions. -/
def interruptEntry (s : State) : State :=
  if !coreRuns s || s.core.slot.isSome then s
  else
    let st := settled 16 s.core.status s
    match intcTop s with
    | none => if s.core.stale.isEmpty then s else staleEntry st.1 st.2
    | some (v, l) => if admitsIrq st.1 l then takeIrq v l st.2 else staleEntry st.1 st.2

def execInterruptEntry (s : State) : Out := .next (interruptEntry s)

/-! ### Handover (R368) -/

/-- The core goes on under a new image: at its vector word 6, or as a start with STARTCAUSE 2. Answers whether the handover
entry was taken (R464). -/
def coreHandover (s : State) : Bool × State :=
  if !s.core.imagePresent then (false, coreHold s)
  else if !s.core.running then (false, coreStart 2 s)
  else match busRead 0x08000018 4 s with
    | .ok (w, s0) =>
      if w = 0#32 then (false, coreStart 2 s0)
      else
        let resume := match s.core.slot with | some t => t | none => s.core.pc
        let s1 := { s0 with core.vbase := 0x08000000#32, core.slot := none, core.slotStatus := none, core.slotTaken := false }
        match entryFrame 6 resume s.core.status s1 with
        | (s2, none) => (false, faultRestart s2)
        | (s2, some v) =>
          (true, invalidate { s2 with core.status := s.core.status &&& ~~~1#32, core.lc := Vector.replicate 3 0#32, core.pc := v,
                                      core.waiting := false, core.cause := (s2.core.cause &&& ~~~0x1F#32) ||| 6#32 })
    | .error _ => (false, coreStart 2 s)

end Sys2Proof.Machine
end

