-- ==== Sys2Proof/Machine/Phy.lean ====
section
/-! DEFINITION. The two waveforms: profiles, coding, symbols, headers, maps and airtimes (R98, R123-R189). -/

namespace Sys2Proof.Machine
open Sys2Proof

/-! ### Bits -/

/-- The bits of a byte, least significant first (R136). -/
def bitsOf (b : Byte) : List Bool := (List.range 8).map fun i => b.getLsbD i

/-- The bits of bytes in order, each least significant first. -/
def bitsLE (bs : List Byte) : List Bool := bs.flatMap bitsOf

/-- The number that bits spell, the first the most significant. -/
def natMsb (bs : List Bool) : Nat := bs.foldl (fun a b => 2 * a + b2n b) 0

/-- n bits of a number, the least significant first. -/
def bitsNat (n v : Nat) : List Bool := (List.range n).map fun i => v.testBit i

/-- Bits padded with zeros to a length. -/
def padBits (n : Nat) (bs : List Bool) : List Bool := bs ++ List.replicate (n - bs.length) false

/-- The message bytes of a frame: the PSDU and its CRC-32, least significant byte first (R136, R165). -/
def withCrc (psdu : List Byte) : List Byte := psdu ++ bytesLE (crc32 psdu)

/-! ### Chirp: numerology and airtime (R123, R129, R149) -/

/-- Chip time in ns: 10,000 at 100 kHz. -/
def chipNs (bw : BitVec 2) : Nat := 10000 / 2 ^ bw.toNat

/-- Symbol time in µs: every value is whole. -/
def symbolUs (k : Nat) (bw : BitVec 2) : Nat := 2 ^ k * chipNs bw / 1000

/-- Information bits of a payload code (R138). -/
def codeBits (c : BitVec 2) : Nat := 26 - 5 * c.toNat

/-- Correctable errors of a code (R138). -/
def codeT (c : BitVec 2) : Nat := match c.toNat with | 0 => 1 | 1 => 2 | 2 => 3 | _ => 5

/-- Payload blocks of a PSDU of L bytes (R129). -/
def chirpBlocks (k : Nat) (c : BitVec 2) (L : Nat) : Nat := ceilDiv (8 * (L + 4)) (k * codeBits c)

/-- Airtime in µs (R149). -/
def chirpAirtime (p : Profile) (L : Nat) : Nat :=
  symbolUs p.k p.bw * (p.p + 4 + 33 * (1 + chirpBlocks p.k p.code L))

/-- Bandwidth in hertz. -/
def chirpHz (bw : BitVec 2) : Nat := 100000 * 2 ^ bw.toNat

/-- The phase of chip n of an up-sweep with value v, in units of 1/(2N) turn (R126). -/
def sweepPhase (k v n : Nat) : Nat := (n * n + n * (2 * v) + n * 2 ^ k) % (2 * 2 ^ k)

/-- The phase of chip n of a down-sweep: the conjugate of the up-sweep with value 0 (R127). -/
def downPhase (k n : Nat) : Nat := (2 * 2 ^ k - sweepPhase k 0 n) % (2 * 2 ^ k)

/-! ### Chirp: header (R132-R135) -/

/-- One bit of the CRC-8 register with polynomial 0x07 (R133). -/
def crc8Bit (r : BitVec 8) (b : Bool) : BitVec 8 :=
  if (r.getLsbD 7).xor b then (r <<< 1) ^^^ 0x07#8 else r <<< 1

/-- A byte, most significant bit first. -/
def crc8Byte (r b : BitVec 8) : BitVec 8 := (bitsOf b).reverse.foldl crc8Bit r

/-- HCRC of a chirp header's bits [23:0] (R133). -/
def chirpHcrc (w : Word) : BitVec 8 :=
  crc8Byte (crc8Byte (crc8Byte 0xFF#8 (w.extractLsb' 0 8)) (w.extractLsb' 8 8)) (w.extractLsb' 16 8)

/-- The header word of a frame (R132). -/
def chirpHeader (L : Nat) (c : BitVec 2) (ack : Bool) : Word :=
  let w := W (L + c.toNat * 2 ^ 10 + b2n ack * 2 ^ 12)
  w ||| ((chirpHcrc w).setWidth 32 <<< 24)

/-- A received chirp header passes (R135). -/
def chirpHeaderOk (w : Word) (fillZero : Bool) : Bool :=
  w.extractLsb' 24 8 = chirpHcrc w && fld w 9 0 ≠ 0 && fld w 23 13 = 0 && fillZero

/-! ### Chirp: scrambling, codes, interleaving (R137-R143) -/

/-- The payload scrambler over bits (R137). -/
def scramble15 : BitVec 15 → List Bool → List Bool
  | _, [] => []
  | r, b :: bs =>
    let n := (r.getLsbD 14).xor (r.getLsbD 13)
    (b.xor n) :: scramble15 ((r <<< 1) ||| (if n then 1#15 else 0#15)) bs

/-- The scrambler's load value (R137). -/
def scrambleSeed (netid : BitVec 12) : BitVec 15 := 0b111#3 ++ netid

/-- Generator polynomials (R138). -/
def bchGen (c : BitVec 2) : Nat :=
  match c.toNat with | 0 => 0x25 | 1 => 0x769 | 2 => 0x8FAF | _ => 0x1626D5

/-- Remainder of a polynomial over GF(2) by g of degree d: bits from n + d down are cleared. -/
def polyMod (g d : Nat) : Nat → Nat → Nat
  | 0, v => v
  | n + 1, v => polyMod g d n (if v.testBit (n + d) then v ^^^ (g <<< n) else v)

/-- The 31-bit codeword of information bits, the first the highest coefficient (R139). -/
def bchEncode (c : BitVec 2) (info : List Bool) : Nat :=
  let k := codeBits c
  let m := natMsb info <<< (31 - k)
  m ||| polyMod (bchGen c) (31 - k) k m

/-- Column j of a block: the interleaved value v_j (R141). -/
def column (rows : List Nat) (j : Nat) : Nat :=
  let R := rows.length
  ((List.range R).map fun r => b2n ((rows.getD r 0).testBit (30 - j)) * 2 ^ (R - 1 - (r + j) % R)).sum

/-- The Gray code (R142). -/
def gray (v : Nat) : Nat := v ^^^ (v / 2)

/-- The 33 slots of a block with its pilots (R143). -/
def blockSlots (scale : Nat) (rows : List Nat) : List AirSym :=
  let col (j : Nat) : AirSym := .up (scale * gray (column rows j))
  (List.range 15).map col ++ [.down] ++ (List.range 16).map (fun j => col (j + 15)) ++ [.down]

/-- Bits cut into pieces of n. -/
def pieces (n : Nat) : Nat → List Bool → List (List Bool)
  | 0, _ => []
  | m + 1, bs => bs.take n :: pieces n m (bs.drop n)

/-- Blocks of R codewords of a code over bits. -/
def codeBlocks (c : BitVec 2) (R scale : Nat) : Nat → List Bool → List AirSym
  | 0, _ => []
  | n + 1, bs =>
    blockSlots scale ((pieces (codeBits c) R bs).map (bchEncode c)) ++ codeBlocks c R scale n (bs.drop (R * codeBits c))

/-- The symbols of a chirp frame (R129-R143). -/
def chirpFrame (p : Profile) (ack : Bool) (psdu : List Byte) : List AirSym :=
  let hb := padBits (16 * (p.k - 2)) (bitsNat 32 (chirpHeader psdu.length p.code ack).toNat)
  let nb := chirpBlocks p.k p.code psdu.length
  let body := scramble15 (scrambleSeed p.netid) (padBits (nb * (p.k * codeBits p.code)) (bitsLE (withCrc psdu)))
  List.replicate p.p (.up 0)
    ++ [.up (fld (p.netid.setWidth 32) 11 6 * 2 ^ (p.k - 6)), .up (fld (p.netid.setWidth 32) 5 0 * 2 ^ (p.k - 6)), .down, .down]
    ++ codeBlocks 2#2 (p.k - 2) 4 1 hb
    ++ codeBlocks p.code p.k 1 nb body

/-! ### OFDM: numerology (R153, R154) -/

/-- The largest |k| of a width. -/
def widthHalf (w : BitVec 2) : Nat := match w.toNat with | 1 => 48 | 2 => 24 | _ => 12

/-- k of the used position u of W1 (R154). -/
def kOf (u : Nat) : Int := if u < 48 then (u : Int) - 48 else (u : Int) - 47

/-- The used position u of subcarrier k. -/
def uOf (k : Int) : Nat := if k < 0 then (k + 48).toNat else (k + 47).toNat

/-- A pilot subcarrier (R154). -/
def isPilot (k : Int) : Bool := k.natAbs = 6 || k.natAbs = 18 || k.natAbs = 30 || k.natAbs = 42

/-- Used positions of a width in order of k. -/
def usedPos (w : BitVec 2) : List Nat := (List.range 96).filter fun u => decide ((kOf u).natAbs ≤ widthHalf w)

/-- Positions of the data subcarriers and of the pilots of a width, in order. -/
def dataPos (w : BitVec 2) : List Nat := (usedPos w).filter fun u => !isPilot (kOf u)
def pilotPos (w : BitVec 2) : List Nat := (usedPos w).filter fun u => isPilot (kOf u)

/-- The 7-bit generator of R156: n outputs from a seed. -/
def gen7 : Nat → BitVec 7 → List Bool
  | 0, _ => []
  | n + 1, r =>
    let b := (r.getLsbD 6).xor (r.getLsbD 3)
    b :: gen7 n ((r <<< 1) ||| (if b then 1#7 else 0#7))

/-- 1 − 2x. -/
def sgn (b : Bool) : Int := if b then -1 else 1

/-- A subcarrier lies in a notch of the region table (R183). -/
def notched (r : Option Region) (carrier u : Nat) : Bool :=
  match r with
  | none => false
  | some r => r.notches.any fun n =>
      decide (2 * ((carrier : Int) + kOf u * 15625 - (n.1 : Int)).natAbs ≤ n.2)

/-! ### Maps (R173-R176) -/

/-- Uniform map of a code: the code at every data position. -/
def uniformMap (code : Nat) : BitVec 288 :=
  BitVec.ofNat 288 (((List.range 96).map fun u => if isPilot (kOf u) then 0 else code * 2 ^ (3 * u)).sum)

/-- The content of a map, if present (R173, R174). -/
def mapContent (s : State) (i : Nat) : Option (BitVec 288) :=
  if i = 0 then some (uniformMap 1) else if i = 1 then some (uniformMap 2)
  else (s.phy.maps.find? fun m => m.1 = i).map Prod.snd

/-- The code of position u in a map (R189). -/
def mapCode (m : BitVec 288) (u : Nat) : Nat := (m.extractLsb' (3 * u) 3).toNat

/-- Bits of a code (R171). -/
def bitsPer : Nat → Nat
  | 1 => 1 | 2 => 2 | 3 => 4 | 4 => 6 | 5 => 8 | _ => 0

/-- The effective codes of the data subcarriers (R170). -/
def effCodes (r : Option Region) (carrier : Nat) (w : BitVec 2) (m : BitVec 288) : List (Nat × Nat) :=
  (dataPos w).map fun u => (u, if notched r carrier u then 0 else mapCode m u)

/-- B_sym (R170). -/
def bSym (es : List (Nat × Nat)) : Nat := (es.map fun e => bitsPer e.2).sum

/-! ### OFDM: payload coding (R165-R170) -/

/-- Parity bytes and information bytes of an RS option (R166). -/
def rsT (rs : BitVec 2) : Nat := match rs.toNat with | 0 => 4 | 1 => 8 | _ => 16
def rsK (rs : BitVec 2) : Nat := 255 - 2 * rsT rs

/-- Multiplication in GF(256) with 0x11D (R166), n bits of a. -/
def gf256Mul : Nat → Byte → Byte → Byte
  | 0, _, _ => 0
  | n + 1, a, b =>
    let rest := gf256Mul n (a >>> 1) (if b.getLsbD 7 then (b <<< 1) ^^^ 0x1D#8 else b <<< 1)
    if a.getLsbD 0 then b ^^^ rest else rest

def gfMul (a b : Byte) : Byte := gf256Mul 8 a b

/-- Powers of α = 2. -/
def alphaPow : Nat → Byte
  | 0 => 1
  | n + 1 => gfMul 2 (alphaPow n)

/-- The generator polynomial, highest coefficient first: product of (x + α^i) for i below n (R166). -/
def rsGen : Nat → List Byte
  | 0 => [1]
  | n + 1 =>
    let g := rsGen n
    List.zipWith (· ^^^ ·) (g ++ [0]) (0 :: g.map (gfMul (alphaPow n)))

/-- Remainder register after one more information byte; g without its leading 1. -/
def rsStep (g reg : List Byte) (m : Byte) : List Byte :=
  let fb := m ^^^ reg.headD 0
  List.zipWith (fun r c => r ^^^ gfMul fb c) (reg.tail ++ [0]) g

/-- A codeword: information bytes, then parity from the highest degree down (R166). -/
def rsEncode (t : Nat) (m : List Byte) : List Byte :=
  let g := (rsGen (2 * t)).tail
  m ++ m.foldl (rsStep g) (List.replicate (2 * t) 0)

/-- Codewords of a message of M bytes (R167). -/
def rsCount (rs : BitVec 2) (M : Nat) : Nat := ceilDiv M (rsK rs)

/-- The message cut into codewords as equal as possible (R167): `big` of size `sz` + 1 first. -/
def rsSplit (t : Nat) : Nat → Nat → Nat → List Byte → List (List Byte)
  | 0, _, _, _ => []
  | n + 1, big, sz, bs =>
    let c := if 0 < big then sz + 1 else sz
    rsEncode t (bs.take c) :: rsSplit t n (big - 1) sz (bs.drop c)

/-- Byte j of each codeword of a group, in turn (R168). -/
def rsInterleave (g : List (List Byte)) : List Byte :=
  (List.range 255).flatMap fun j => g.flatMap fun w => (w[j]?).toList

/-- Groups of 8 codewords sent in turn (R168). -/
def rsGroups : Nat → List (List Byte) → List Byte
  | 0, _ => []
  | n + 1, cs => if cs.isEmpty then [] else rsInterleave (cs.take 8) ++ rsGroups n (cs.drop 8)

/-- Coded length C in bytes (R167). -/
def codedLen (rs : BitVec 2) (L : Nat) : Nat := L + 4 + 2 * rsT rs * rsCount rs (L + 4)

/-- Payload symbols (R170). -/
def ofdmSymbols (rs : BitVec 2) (L b : Nat) : Nat := ceilDiv (8 * codedLen rs L) b

/-- Airtime in µs (R184). -/
def ofdmAirtime (rs : BitVec 2) (cp8 : Bool) (L b : Nat) : Nat :=
  448 + ofdmSymbols rs L b * (if cp8 then 72 else 80)

/-- The coded, interleaved and scrambled payload bits (R165-R169). -/
def ofdmBits (rs : BitVec 2) (seed : BitVec 7) (b : Nat) (psdu : List Byte) : List Bool :=
  let msg := withCrc psdu
  let n := rsCount rs msg.length
  let cs := rsSplit (rsT rs) n (msg.length % n) (msg.length / n) msg
  let bits := padBits (ofdmSymbols rs psdu.length b * b) (bitsLE (rsGroups n cs))
  List.zipWith Bool.xor bits (gen7 bits.length seed)

/-! ### OFDM: symbols (R158-R163, R171, R172) -/

/-- The level that m bits select on an axis (R171). -/
def axisLevel (bs : List Bool) : Int :=
  let v := natMsb bs
  let u := v ^^^ (v / 2) ^^^ (v / 4) ^^^ (v / 8)
  2 ^ bs.length - 1 - 2 * u

/-- The value that bits select under a code (R171). -/
def constellation (u code : Nat) (bs : List Bool) : Tone :=
  match code with
  | 1 => ⟨u, sgn (bs.headD false), 0, 1⟩
  | 2 | 3 | 4 | 5 =>
    let m := bitsPer code / 2
    let norm := match code with | 2 => 2 | 3 => 10 | 4 => 42 | _ => 170
    ⟨u, axisLevel (bs.take m), axisLevel (bs.drop m), norm⟩
  | _ => ⟨u, 0, 0, 1⟩

/-- P_k (R172). -/
def pilotSign (k : Int) : Int := if k = -18 || k = 18 || k = 42 then -1 else 1

/-- The pilots of symbol l; a notched pilot carries 0 (R172). -/
def pilots (r : Option Region) (p : Profile) (l : Nat) : List Tone :=
  let pl := sgn ((gen7 (l % 127 + 1) 0x7F#7).getLastD false)
  (pilotPos p.width).map fun u => ⟨u, if notched r p.carrier u then 0 else pilotSign (kOf u) * pl, 0, 1⟩

/-- The HCRC register over bits (R163). -/
def ofdmHcrc (bs : List Bool) : BitVec 8 := bs.foldl crc8Bit 0xFF#8

/-- The 44 header bits (R161, R163). -/
def ofdmHeader (L map : Nat) (rs : BitVec 2) (seed : BitVec 7) (cp : Bool) : List Bool :=
  let h := bitsNat 11 L ++ bitsNat 10 map ++ bitsNat 2 rs.toNat ++ bitsNat 7 seed.toNat ++ [cp] ++ List.replicate 5 false
  let c := ofdmHcrc h
  h ++ (List.range 8).map fun j => c.getLsbD (7 - j)

/-- A notched position carries 0 in every part of the frame (R183). -/
def quiet (r : Option Region) (carrier : Nat) (pt : Tone) : Tone :=
  if notched r carrier pt.u then { pt with i := 0, q := 0 } else pt

/-- The short and long symbols of a width (R158, R159). -/
def shortPoints (r : Option Region) (p : Profile) : List Tone :=
  let x := gen7 48 0x2A#7
  let ks := (usedPos 1#2).filter fun u => (kOf u) % 4 = 0
  let pts := (List.range 24).map fun v =>
    (⟨ks.getD v 0, 2 * sgn (x.getD (2 * v) false), 2 * sgn (x.getD (2 * v + 1) false), 2⟩ : Tone)
  (pts.filter fun pt => decide ((kOf pt.u).natAbs ≤ widthHalf p.width)).map (quiet r p.carrier)

def longPoints (r : Option Region) (p : Profile) : List Tone :=
  let x := gen7 96 0x55#7
  (usedPos p.width).map fun u => quiet r p.carrier ⟨u, sgn (x.getD u false), 0, 1⟩

/-- Header symbol q (R162). -/
def headerSymbol (r : Option Region) (p : Profile) (h : List Bool) (q : Nat) : AirSym :=
  let data := (dataPos p.width).mapIdx fun d u =>
    quiet r p.carrier ⟨u, sgn (h.getD ((d + 22 * q) % 44) false), 0, 1⟩
  .ofdm false (data ++ pilots r p q)

/-- The bits of one symbol laid onto its data subcarriers (R170). -/
def layBits : List (Nat × Nat) → List Bool → List Tone
  | [], _ => []
  | (u, c) :: es, bs => constellation u c (bs.take (bitsPer c)) :: layBits es (bs.drop (bitsPer c))

/-- Payload symbols l = 2 onwards. -/
def payloadSymbols (r : Option Region) (p : Profile) (es : List (Nat × Nat)) : Nat → Nat → List Bool → List AirSym
  | 0, _, _ => []
  | n + 1, l, bs => .ofdm p.cp (layBits es bs ++ pilots r p l) :: payloadSymbols r p es n (l + 1) (bs.drop (bSym es))

/-- The symbols of an OFDM frame (R157). -/
def ofdmFrame (r : Option Region) (p : Profile) (map : Nat) (mapBits : BitVec 288) (seed : BitVec 7) (psdu : List Byte) :
    List AirSym :=
  let es := effCodes r p.carrier p.width mapBits
  let h := ofdmHeader psdu.length map p.rs seed p.cp
  [.shortSync (shortPoints r p), .longSync (longPoints r p), headerSymbol r p h 0, headerSymbol r p h 1]
    ++ payloadSymbols r p es (ofdmSymbols p.rs psdu.length (bSym es)) 2 (ofdmBits p.rs seed (bSym es) psdu)

/-- Fields of a received OFDM header, bit i being h_i (R161). -/
def hfld (h : BitVec 44) (lo n : Nat) : Nat := (h.toNat >>> lo) % 2 ^ n

/-- A received OFDM header passes (R164). -/
def ofdmHeaderOk (h : BitVec 44) : Bool :=
  let bs := (List.range 36).map fun i => h.getLsbD i
  let c := ofdmHcrc bs
  (List.range 8).all (fun j => h.getLsbD (36 + j) = c.getLsbD (7 - j)) &&
  hfld h 0 11 ≠ 0 && hfld h 21 2 ≠ 3 && hfld h 23 7 ≠ 0 && hfld h 31 5 = 0

/-! ### Admission by the region table (R98, R121, R183) -/

/-- Bandwidth occupied in hertz (R121). -/
def occupiedHz (p : Profile) : Nat :=
  if p.ofdm then (match p.width.toNat with | 1 => 1500000 | 2 => 750000 | _ => 375000) else chirpHz p.bw

/-- The waveform's bit in WAVEFORMS (R120). -/
def waveBit (p : Profile) : Nat := if p.ofdm then 4 - p.width.toNat else 0

/-- The occupied band of a carrier lies within the device's range (R98). -/
def inRange (carrier hz : Nat) : Bool := decide (410000000 + hz / 2 ≤ carrier) && decide (carrier + hz / 2 ≤ 1020000000)

/-- The index of the sub-band that admits a transmission (R121). -/
def admitBand (r : Region) (p : Profile) : Option (Fin 16) :=
  let half := occupiedHz p / 2
  (List.finRange 16).find? fun (i : Fin 16) =>
    match r.bands[i.val]? with
    | some b => b.waveforms.getLsbD (waveBit p) && decide (b.lowHz + half + b.guardKhz * 1000 ≤ p.carrier)
        && decide (p.carrier + half + b.guardKhz * 1000 ≤ b.highHz)
    | none => false

/-- Notching leaves every header bit a copy and at least 2 pilots (R183). -/
def notchOk (r : Region) (p : Profile) : Bool :=
  let n (u : Nat) : Bool := notched (some r) p.carrier u
  let ds := dataPos p.width
  let copies (h : Nat) : Bool := (List.range ds.length).any fun d =>
    ((d % 44 = h) || ((d + 22) % 44 = h)) && !n (ds.getD d 0)
  (List.range 44).all copies && decide (2 ≤ ((pilotPos p.width).filter fun u => !n u).length)

/-- The map of a frame is usable in a profile (R176): present, and at least 8 bits per symbol after notching. -/
def mapUsable (s : State) (p : Profile) (i : Nat) : Bool :=
  match mapContent s i with
  | some m => decide (8 ≤ bSym (effCodes s.radio.region p.carrier p.width m))
  | none => false

/-- Airtime in µs of a frame of L PSDU bytes under a profile and a map's content. -/
def airtimeOf (s : State) (p : Profile) (m : BitVec 288) (L : Nat) : Nat :=
  if p.ofdm then ofdmAirtime p.rs p.cp L (bSym (effCodes s.radio.region p.carrier p.width m)) else chirpAirtime p L

/-! ### Map measurement (R177, R230) -/

/-- Thresholds in 0.25 dB units (R177). -/
def threshold : Nat → Int
  | 1 => 20 | 2 => 36 | 3 => 66 | 4 => 100 | 5 => 136 | _ => 0

/-- The worst margin of a map over its data subcarriers, with SNRs in the order of d; none if all are off. -/
def worstMargin (es : List (Nat × Nat)) (snrs : List Int) : Option Int :=
  ((List.zip es snrs).filter fun x => x.1.2 ≠ 0).foldl
    (fun acc x =>
      let m := x.2 - threshold x.1.2
      match acc with | some a => some (min a m) | none => some m) none

/-- The best map of a frame (R177): qualifying, largest B_sym, then larger worst margin, then lower index; map 0 if none. -/
def bestMap (s : State) (p : Profile) (snrs : List Int) : Nat × Int :=
  let cand := (0 :: 1 :: s.phy.maps.map Prod.fst).filterMap fun i =>
    (mapContent s i).bind fun m =>
      let es := effCodes s.radio.region p.carrier p.width m
      match worstMargin es snrs with
      | some wm => if (p.margin.toNat : Int) ≤ wm then some (i, bSym es, wm) else none
      | none => none
  match cand with
  | [] => (0, (worstMargin (effCodes s.radio.region p.carrier p.width (uniformMap 1)) snrs).getD 0)
  | c :: cs =>
    let b := cs.foldl (fun (a x : Nat × Nat × Int) =>
      if a.2.1 < x.2.1 || (a.2.1 = x.2.1 && a.2.2 < x.2.2) then x else a) c
    (b.1, b.2.2)

/-! ### Carrier correction (R99) -/

/-! ### PHY_PROFILE_SET (R188) -/

/-- A profile from the words of PHY_PROFILE_SET over the one it replaces; none where a field is out of range. -/
def profileOf (old : Profile) (w1 w2 w3 : Word) : Option Profile :=
  if !onlyBits w1 0x1F#32 then none
  else if bitAt w1 4 then
    let p := { old with ofdm := true, carrier := w2.toNat, width := BitVec.ofNat 2 (fld w3 1 0), cp := bitAt w3 2,
                        rs := BitVec.ofNat 2 (fld w3 4 3), defaultMap := bitAt w3 5, bcastMap := bitAt w3 6,
                        adapt := bitAt w3 7, hyst := BitVec.ofNat 4 (fld w3 11 8),
                        fallback := BitVec.ofNat 4 (fld w3 15 12), margin := BitVec.ofNat 8 (fld w3 23 16) }
    if fld w3 1 0 = 0 || fld w3 4 3 = 3 || fld w3 11 8 = 0 || fld w3 15 12 = 0 || decide (80 < fld w3 23 16)
        || fld w3 31 24 ≠ 0 || !inRange p.carrier (occupiedHz p) then none else some p
  else
    let p := { old with ofdm := false, carrier := w2.toNat, k := fld w3 3 0, bw := BitVec.ofNat 2 (fld w3 5 4),
                        code := BitVec.ofNat 2 (fld w3 7 6), p := fld w3 14 8, netid := BitVec.ofNat 12 (fld w3 27 16) }
    if p.k < 6 || decide (14 < p.k) || p.p < 6 || decide (64 < p.p) || bitAt w3 15 || fld w3 31 28 ≠ 0
        || fld w3 21 16 = 0 || fld w3 27 22 = 0 || !inRange p.carrier (occupiedHz p) then none else some p

/-- A reception in force uses profile n (R188): the Alley path names one; a Boulevard reception uses its plan (R217). -/
def profileInUse (s : State) (n : Fin 16) : Bool :=
  match s.rx.alley with | some r => r.profile = n | none => false

def phyProfileSetRun (c : Cmd) (s : State) : Except Status (List Word × State) :=
  let w1 := param c.ps 1
  let n : Fin 16 := Fin.ofNat 16 (fld w1 3 0)
  let old := s.phy.profiles[n]
  match profileOf old w1 (param c.ps 2) (param c.ps 3) with
  | none => .error .badParam
  | some p =>
    if profileInUse s n && (p.ofdm ≠ old.ofdm || p.carrier ≠ old.carrier || (p.ofdm && p.width ≠ old.width)) then .error .busy
    else .ok ([], { s with phy.profiles := s.phy.profiles.set n p })

def execPhyProfileSet (p : Packet) (s : State) : Out :=
  .next (plazaRun 0x401 (lenIs 3) (immediate phyProfileSetRun) p s)

/-! ### LOADMAP_SET (R189) -/

/-- The 288 bits of a map from its nine words. -/
def mapOfWords (ws : List Word) : BitVec 288 :=
  BitVec.ofNat 288 ((List.range 9).foldl (fun a i => a + (ws.getD i 0#32).toNat * 2 ^ (32 * i)) 0)

/-- A map holds only codes 0 to 5, and 0 at pilot positions (R189). -/
def mapOk (m : BitVec 288) : Bool :=
  (List.range 96).all fun u => decide (mapCode m u ≤ 5) && (!isPilot (kOf u) || mapCode m u = 0)

/-- A map put into the library, in rising order of index. -/
def putMap (i : Nat) (m : BitVec 288) : List (Nat × BitVec 288) → List (Nat × BitVec 288)
  | [] => [(i, m)]
  | (k, v) :: rest =>
    if k < i then (k, v) :: putMap i m rest
    else if k = i then (i, m) :: rest
    else (i, m) :: (k, v) :: rest

/-- A LIBRARY_ID that changes sets every link's map to unset: those in the link table, to be written back, and those that the
directory holds (R178). -/
def setLibraryId (id : BitVec 16) (s : State) : State :=
  let forget (e : LinkEntry) : LinkEntry := { e with map := none, noAcks := 0, dirty := true }
  let s1 := if id = s.dir.libraryId then s else { s with dir.libraryId := id, dir.mapVersion := mk64 s.dir.seq s.dir.epoch }
  if id = s.phy.libraryId then s1 else { s1 with phy.libraryId := id, link.links := s1.link.links.map forget }

/-- The maps and identifier that LOADMAP_SET's parameter words load, or none where a field is out of range. -/
def loadMaps (ps : List Word) (maps : List (Nat × BitVec 288)) : Option (List (Nat × BitVec 288) × BitVec 16) :=
  let w1 := param ps 1
  let w2 := param ps 2
  let first := fld w1 9 0
  let n := fld w1 20 16
  let clear := bitAt w2 16
  let new := (List.range n).map fun i => (first + i, mapOfWords ((ps.drop (2 + 9 * i)).take 9))
  if !onlyBits w1 0x001F03FF#32 || !onlyBits w2 0x1FFFF#32 || first < 2 || decide (16 < n) || decide (1023 < first + n - 1)
      || (n = 0 && !clear) || fld w2 15 0 = 0 || !new.all (fun m => mapOk m.2) then none
  else some (new.foldl (fun a m => putMap m.1 m.2 a) (if clear then [] else maps), BitVec.ofNat 16 (fld w2 15 0))

def loadmapSetRun (c : Cmd) (s : State) : Except Status (List Word × State) :=
  match loadMaps c.ps s.phy.maps with
  | none => .error .badParam
  | some (maps, id) =>
    if s.power.bodWarn then .error .brownoutHold
    else
      let s1 := setLibraryId id { s with phy.maps := maps }
      let item : LibraryItem := { maps, id, words := if bitAt (param c.ps 2) 16 || s.phy.maps.isEmpty then some c.ps else none }
      let s2 := extendMr 3 0x32#8 (digestWords c.ps) { s1 with upd.settings.library := some item }
      .ok ([W (id.toNat + maps.length * 2 ^ 16)], s2)

def execLoadmapSet (p : Packet) (s : State) : Out :=
  .next (plazaRun 0x407 (fun ps => decide (2 ≤ ps.length) && ps.length = 2 + 9 * fld (param ps 1) 20 16)
    (immediate loadmapSetRun) p s)

/-! ### The Boulevard's bands (R100, R192, R193) -/

/-- A plan entry's band in hertz relative to the window centre (R190). -/
def entryBand : PlanEntry → Int × Int
  | .chirp bw _ _ _ off => (off - chirpHz bw / 2, off + chirpHz bw / 2)
  | .ofdm w g =>
    let n : Int := match w.toNat with | 1 => 4 | 2 => 2 | _ => 1
    (((g : Int) - 8) * 400000, ((g : Int) + n - 8) * 400000)

/-- Two bands overlap; a shared edge is no overlap (R191). -/
def bandsMeet (a b : Int × Int) : Bool := decide (a.1 < b.2) && decide (b.1 < a.2)

/-- The Alley channel fits beside the Boulevard's plan (R100, R193). -/
def alleyFits (pr : Profile) (pl : Plan) : Bool :=
  let half : Int := (occupiedHz pr / 2 : Nat)
  let off : Int := (pr.carrier : Int) - pl.centre
  let b := (off - half, off + half)
  decide (-3200000 ≤ b.1) && decide (b.2 ≤ 3200000) && (pl.entries.all fun e => !bandsMeet b (entryBand e))

end Sys2Proof.Machine
end

