-- ==== Sys2Proof/Machine/Demod.lean ====
section
/-! DEFINITION. The receiver's arithmetic: the fields and decoders of the block codes (R138-R142, R166), the chirp loops (R144, R146),
and the OFDM channel estimate, tracking and decisions (R162, R171, R177, R180, R187). -/

namespace Sys2Proof.Machine
open Sys2Proof

/-! ### Fields of characteristic 2 (R138, R166) -/

/-- A field GF(2^m) of polynomials modulo `poly`. -/
structure BinField where
  m : Nat
  poly : Nat
  deriving DecidableEq, Repr

def gf32 : BinField := ⟨5, 0x25⟩
def gf256 : BinField := ⟨8, 0x11D⟩

/-- The product by the low n bits of a. -/
def BinField.mulBits (f : BinField) : Nat → Nat → Nat → Nat
  | 0, _, _ => 0
  | n + 1, a, b =>
    (if a.testBit 0 then b else 0) ^^^ f.mulBits n (a / 2) (if b.testBit (f.m - 1) then (2 * b) ^^^ f.poly else 2 * b)

def BinField.mul (f : BinField) (a b : Nat) : Nat := f.mulBits f.m a b

def BinField.pow (f : BinField) (a : Nat) : Nat → Nat
  | 0 => 1
  | n + 1 => f.mul a (f.pow a n)

/-- The inverse of a non-zero element: its power 2^m − 2. -/
def BinField.inv (f : BinField) (a : Nat) : Nat := f.pow a (2 ^ f.m - 2)

/-- A polynomial, its constant coefficient first, at a point. -/
def BinField.eval (f : BinField) (p : List Nat) (x : Nat) : Nat := p.foldr (fun c a => c ^^^ f.mul x a) 0

/-- Coefficient i of the product of two polynomials. -/
def BinField.conv (f : BinField) (p q : List Nat) (i : Nat) : Nat :=
  (List.range (i + 1)).foldl (fun a j => a ^^^ f.mul (p.getD j 0) (q.getD (i - j) 0)) 0

/-- The sum of two polynomials. -/
def polyAdd (p q : List Nat) : List Nat :=
  (List.range (max p.length q.length)).map fun i => p.getD i 0 ^^^ q.getD i 0

/-- The state of the search for the shortest recurrence of some syndromes. -/
structure Recurrence where
  cur : List Nat := [1]
  prev : List Nat := [1]
  len : Nat := 0
  gap : Nat := 1
  last : Nat := 1
  deriving DecidableEq, Repr

/-- One more syndrome, the n-th. -/
def BinField.recur (f : BinField) (syn : List Nat) (r : Recurrence) (n : Nat) : Recurrence :=
  let d := f.conv r.cur syn n
  let next := polyAdd r.cur (List.replicate r.gap 0 ++ r.prev.map (f.mul (f.mul d (f.inv r.last))))
  if d = 0 then { r with gap := r.gap + 1 }
  else if 2 * r.len ≤ n then { cur := next, prev := r.cur, len := n + 1 - r.len, gap := 1, last := d }
  else { r with cur := next, gap := r.gap + 1 }

/-- The error locator of some syndromes. -/
def BinField.locator (f : BinField) (syn : List Nat) : List Nat :=
  ((List.range syn.length).foldl (f.recur syn) {}).cur

/-- α^e, and α^−e, for e below the length 2^m − 1. -/
def BinField.root (f : BinField) (e : Nat) : Nat := f.pow 2 e
def BinField.rootInv (f : BinField) (e : Nat) : Nat := f.pow 2 ((2 ^ f.m - 1 - e) % (2 ^ f.m - 1))

/-! ### BCH decoding (R138-R140) -/

/-- The syndromes of 31 received bits. -/
def bchSyndromes (t r : Nat) : List Nat :=
  (List.range (2 * t)).map fun i =>
    (List.range 31).foldl (fun a e => if r.testBit e then a ^^^ gf32.root (((i + 1) * e) % 31) else a) 0

/-- Received bits with the located errors turned. -/
def bchFix (t r : Nat) : Nat :=
  let loc := gf32.locator (bchSyndromes t r)
  (List.range 31).foldl (fun a e => if gf32.eval loc (gf32.rootInv e) = 0 then a ^^^ 2 ^ e else a) r

/-- 31 bits are a codeword of a code. -/
def bchIsCode (c : BitVec 2) (r : Nat) : Bool := polyMod (bchGen c) (31 - codeBits c) (codeBits c) r = 0

/-- Positions of a codeword in which two words differ, those in `erased` left out (R139). -/
def bchErrors (erased : List Nat) (a b : Nat) : Nat :=
  (List.range 31).countP fun j => (a ^^^ b).testBit (30 - j) && !erased.contains j

/-- The codeword of received bits with ε errors and e erased positions where 2ε + e ≤ 2t, and ε (R140): sought with the erased
positions read as 0 and as 1, since one of the two adds at most e/2 errors. -/
def bchDecode (c : BitVec 2) (r : Nat) (erased : List Nat) : Option (Nat × Nat) :=
  let mask := erased.foldl (fun a j => a ||| 2 ^ (30 - j)) 0
  let ones := r ||| mask
  let try_ (w : Nat) : Option (Nat × Nat) :=
    let x := bchFix (codeT c) w
    let n := bchErrors erased x r
    if bchIsCode c x && decide (2 * n + erased.length ≤ 2 * codeT c) then some (x, n) else none
  match try_ (ones ^^^ mask) with
  | some a => some a
  | none => try_ ones

/-! ### Blocks (R141, R142, R146) -/

/-- The nearest whole number, a half upwards. -/
def nearest (x : Rat) : Int := (x + 1 / 2).floor

/-- The nearest multiple of a step to a peak's position, as a symbol value below 2^K (R130, R142). -/
def nearestValue (k step : Nat) (peak : Rat) : Nat := (((step : Int) * nearest (peak / step)) % 2 ^ k).toNat

/-- How far a peak lies from a symbol value, in bins, the shorter way round the sweep (R144). -/
def residual (k v : Nat) (peak : Rat) : Rat :=
  let d := peak - v
  d - 2 ^ k * nearest (d / 2 ^ k)

/-- The inverse of the Gray code on n bits (R142). -/
def ungray : Nat → Nat → Nat
  | 0, v => v
  | n + 1, v => v ^^^ ungray n (v / 2)

/-- Codeword r of a block of R rows: its bits, and its erased positions (R141, R147). -/
def blockRow (R : Nat) (cols : List (Option Nat)) (r : Nat) : Nat × List Nat :=
  (((List.range 31).map fun j => match cols[j]? with
      | some (some v) => b2n (v.testBit (R - 1 - (r + j) % R)) * 2 ^ (30 - j)
      | _ => 0).sum,
    (List.range 31).filter fun j => match cols[j]? with | some (some _) => false | _ => true)

/-- The information bits of one codeword and the bits corrected in it (R139, R140). -/
def rowBits (c : BitVec 2) (row : Nat × List Nat) : List Bool × Nat :=
  let w := match bchDecode c row.1 row.2 with
    | some (x, n) => (x, n)
    | none => (Config.undecodedBits c.toNat row.1 row.2, 0)
  ((List.range (codeBits c)).map fun i => w.1.testBit (30 - i), w.2)

/-- The information bits of a block and the bits corrected in it. -/
def blockBits (c : BitVec 2) (R : Nat) (cols : List (Option Nat)) : List Bool × Nat :=
  let rows := (List.range R).map fun r => rowBits c (blockRow R cols r)
  (rows.flatMap Prod.fst, (rows.map Prod.snd).sum)

/-- The word that header bits spell, bit 0 first, and whether the fill bits are 0 (R134, R135). -/
def headerWord (bits : List Bool) : Word × Bool :=
  (W (natMsb (bits.take 32).reverse), (bits.drop 32).all (!·))

/-- Bytes of bits, each byte's least significant bit first (R136). -/
def bytesOfBits : Nat → List Bool → List Byte
  | 0, _ => []
  | n + 1, bs => BitVec.ofNat 8 (natMsb (bs.take 8).reverse) :: bytesOfBits n (bs.drop 8)

/-- The PSDU and CRC-32 of a message of L + 4 bytes (R136, R165). -/
def splitMessage (L : Nat) (msg : List Byte) : List Byte × Word :=
  (msg.take L, W (((msg.drop L).take 4).foldr (fun b a => b.toNat + 256 * a) 0))

/-! ### The chirp loops (R144) -/

/-- The corrections advance at their rates over n chips. -/
def trackAdvance (n : Nat) (t : Track) : Track :=
  { t with carrier := t.carrier + n * t.carrierRate, timing := t.timing + n * t.timingRate }

/-- The initial corrections: the preamble's up-sweeps show Δ − τ and the mark's down-sweeps Δ + τ (R128, R144). -/
def trackMark (preamble mark : Rat) : Track :=
  { carrier := (preamble + mark) / 2, timing := (mark - preamble) / 2 }

/-- A data symbol's decision-directed correction, and its residual and power taken into the segment. -/
def trackData (r : Rat) (power : Int) (t : Track) : Track :=
  { t with carrier := t.carrier + Config.dataCarrierGain * r, timing := t.timing - Config.dataTimingGain * r,
           resid := t.resid + r, count := t.count + 1, power := t.power + power }

/-- The carrier error Δ in bins and the timing error τ in chips that a pilot shows: δ_p against the mean residual δ_d (R144). -/
def pilotErrors (deltaP : Rat) (t : Track) : Rat × Rat :=
  let deltaD := t.resid / t.count
  ((deltaD + deltaP) / 2, (deltaP - deltaD) / 2)

/-- A pilot splits the error and updates both rates; a segment without a data symbol has no residual to split. -/
def trackPilot (deltaP : Rat) (t : Track) : Track :=
  let e := pilotErrors deltaP t
  if t.count = 0 then t
  else { carrier := t.carrier + Config.pilotCarrierGain * e.1, carrierRate := t.carrierRate + Config.carrierRateGain * e.1,
         timing := t.timing + Config.pilotTimingGain * e.2, timingRate := t.timingRate + Config.timingRateGain * e.2 }

/-- A pilot is lost: more than 6 dB weaker than the data symbols of its segment (R146). -/
def pilotWeak (power : Int) (t : Track) : Bool := decide (0 < t.count) && decide (24 * (t.count : Int) < t.power - power * t.count)

/-- A carrier correction in hertz, and a carrier rate in Hz/s, from bins and bins per chip (R128, R144, R152). -/
def binsHz (k : Nat) (bw : BitVec 2) (bins : Rat) : Rat := bins * chirpHz bw / 2 ^ k
def rateHz (k : Nat) (bw : BitVec 2) (rate : Rat) : Rat := binsHz k bw rate * chirpHz bw

/-- A number as a signed word, rounded to the nearest. -/
def wordOf (x : Rat) : Word := BitVec.ofInt 32 (nearest x)

/-- The chirp results of R152. -/
def chirpMeas (x : Context) (snr : BitVec 16) : Meas :=
  { snr, cfo := wordOf (binsHz x.k x.profile.bw x.markCarrier), drift := wordOf (rateHz x.k x.profile.bw x.track.carrierRate),
    sfo := wordOf (x.track.timingRate * 1000000000), corrected := x.corrected }

/-! ### OFDM: channel, pilots and decisions (R162, R171, R177, R180) -/

/-- A transform value, from the place of its subcarrier among those of the width. -/
def binAt (w : BitVec 2) (ys : List (Int × Int)) (u : Nat) : Rat × Rat :=
  let y := ys.getD ((usedPos w).idxOf u) (0, 0)
  (y.1, y.2)

def cmul (a b : Rat × Rat) : Rat × Rat := (a.1 * b.1 - a.2 * b.2, a.1 * b.2 + a.2 * b.1)
def cnorm (a : Rat × Rat) : Rat := a.1 * a.1 + a.2 * a.2

/-- A quotient; what a channel of zero gives is open. -/
def cdiv (a h : Rat × Rat) : Rat × Rat :=
  if cnorm h = 0 then Config.deadChannel a.1 a.2
  else let n := cmul a (h.1, -h.2); (n.1 / cnorm h, n.2 / cnorm h)

/-- A value turned by an angle in turns. -/
def cturn (a : Rat) (z : Rat × Rat) : Rat × Rat := cmul z (Config.cosine a, Config.sine a)

/-- L_u of the long symbol (R159). -/
def longSign (u : Nat) : Int := sgn ((gen7 (u + 1) 0x55#7).getLastD false)

/-- H_k: the mean of the two long symbols over what was sent (R180). -/
def channel (x : Context) (u : Nat) : Rat × Rat :=
  let a := binAt x.hdr.width x.long1 u
  let b := binAt x.hdr.width x.long2 u
  ((a.1 + b.1) / 2 * longSign u, (a.2 + b.2) / 2 * longSign u)

/-- p_l of symbol l (R172). -/
def polarity (l : Nat) : Int := sgn ((gen7 (l % 127 + 1) 0x7F#7).getLastD false)

/-- Z_k of symbol l's pilots that are not notched, with their k (R180). -/
def pilotZ (r : Option Region) (x : Context) (ys : List (Int × Int)) (l : Nat) : List (Int × (Rat × Rat)) :=
  ((pilotPos x.hdr.width).filter fun u => !notched r x.profile.carrier u).map fun u =>
    let h := channel x u
    let p : Int := pilotSign (kOf u) * polarity l
    (kOf u, cdiv (binAt x.hdr.width ys u) (h.1 * p, h.2 * p))

/-- The common phase φ_l in turns: the argument of the sum of Z_k (R180). -/
def commonPhase (zs : List (Int × (Rat × Rat))) : Rat :=
  Config.angle (zs.map fun z => z.2.1).sum (zs.map fun z => z.2.2).sum

/-- The slope σ_l in turns per subcarrier: the least-squares slope of arg Z_k against k (R180). -/
def phaseSlope (zs : List (Int × (Rat × Rat))) : Rat :=
  let n : Rat := zs.length
  let pts := zs.map fun z => ((z.1 : Rat), Config.angle z.2.1 z.2.2)
  let mk := (pts.map Prod.fst).sum / n
  let ma := (pts.map Prod.snd).sum / n
  if zs.length < 2 then Config.loneSlope n
  else (pts.map fun p => (p.1 - mk) * (p.2 - ma)).sum / (pts.map fun p => (p.1 - mk) * (p.1 - mk)).sum

/-- The loops take a symbol's common phase and its timing offset τ = −σ × 128 samples, σ in turns (R180). -/
def trackOfdm (phase slope : Rat) (t : Track) : Track :=
  let p := t.carrier + t.carrierRate
  let q := t.timing + t.timingRate
  let d := phase - p
  let e := d - nearest d
  let f := -slope * 128 - q
  { t with carrier := p + Config.phaseGain * e, carrierRate := t.carrierRate + Config.phaseRateGain * e,
           timing := q + Config.slopeGain * f, timingRate := t.timingRate + Config.slopeRateGain * f }

/-- The FFT window moves by a sample once the timing offset reaches half of one, and the offset falls by 1 (R180). -/
def windowMove (x : Context) : Context :=
  let m : Int := if 1 / 2 ≤ x.track.timing then 1 else if x.track.timing ≤ -(1 / 2) then -1 else 0
  { x with window := x.window + m, track := { x.track with timing := x.track.timing - m } }

/-- The value of a data subcarrier after the channel and the rotation by −(φ_l + σ_l k) (R180). -/
def equalised (x : Context) (ys : List (Int × Int)) (phase slope : Rat) (u : Nat) : Rat × Rat :=
  cturn (-(phase + slope * kOf u)) (cdiv (binAt x.hdr.width ys u) (channel x u))

/-- The value × √norm lies at or above b. -/
def reaches (v : Rat) (norm : Nat) (b : Int) : Bool :=
  if 0 ≤ b then decide (0 ≤ v) && decide ((b * b : Rat) ≤ v * v * norm)
  else decide (0 ≤ v) || decide (v * v * norm ≤ (b * b : Rat))

/-- The m bits of an axis whose level is nearest to a value: u counts the levels above (R171). -/
def axisBits (m norm : Nat) (v : Rat) : List Bool :=
  let u := (List.range (2 ^ m - 1)).countP fun i => !reaches v norm (2 ^ m - 2 - 2 * (i : Int))
  let g := gray u
  (List.range m).map fun i => g.testBit (m - 1 - i)

/-- The bits decided on a subcarrier under a code (R171). -/
def decideBits (code : Nat) (z : Rat × Rat) : List Bool :=
  match code with
  | 1 => [decide (z.1 < 0)]
  | 2 => axisBits 1 2 z.1 ++ axisBits 1 2 z.2
  | 3 => axisBits 2 10 z.1 ++ axisBits 2 10 z.2
  | 4 => axisBits 3 42 z.1 ++ axisBits 3 42 z.2
  | 5 => axisBits 4 170 z.1 ++ axisBits 4 170 z.2
  | _ => []

/-- The copies of header bit i in header symbol q, each weighted by its channel's power (R162). -/
def headerSoft (r : Option Region) (x : Context) (ys : List (Int × Int)) (phase slope : Rat) (q i : Nat) : Rat :=
  let ds := dataPos x.hdr.width
  (((List.range ds.length).filter fun d => (d + 22 * q) % 44 = i && !notched r x.profile.carrier (ds.getD d 0)).map fun d =>
    let u := ds.getD d 0
    (equalised x ys phase slope u).1 * cnorm (channel x u)).sum

/-- The squared error of a symbol's pilots after the rotation, and their number (R177). -/
def pilotError (zs : List (Int × (Rat × Rat))) (phase slope : Rat) : Rat × Nat :=
  ((zs.map fun z =>
      let v := cturn (-(phase + slope * z.1)) z.2
      cnorm (v.1 - 1, v.2)).sum, zs.length)

/-- One more symbol of an OFDM reception: the two long symbols, the two header symbols (l = 0, 1), then the payload (R157, R180). -/
def ofdmSymbol (r : Option Region) (ys : List (Int × Int)) (x : Context) : Context :=
  match x.symbols with
  | 0 => { x with long1 := ys }
  | 1 => { x with long2 := ys }
  | n + 2 =>
    let zs := pilotZ r x ys n
    let phase := commonPhase zs
    let slope := phaseSlope zs
    let x1 := windowMove { x with track := trackOfdm phase slope x.track }
    if n < 2 then
      { x1 with soft := (List.range 44).map fun i => x.soft.getD i 0 + headerSoft r x ys phase slope n i }
    else
      let e := pilotError zs phase slope
      let bits := (effCodes r x.profile.carrier x.hdr.width x.hdr.mapBits).flatMap fun c =>
        decideBits c.2 (equalised x ys phase slope c.1)
      { x1 with bits := x.bits ++ bits, pilotErr := x.pilotErr + e.1, pilotN := x.pilotN + e.2 }

/-- The 44 header bits, h_i at bit i (R162). -/
def softHeader (x : Context) : BitVec 44 :=
  BitVec.ofNat 44 ((List.range 44).map fun i => b2n (decide (x.soft.getD i 0 < 0)) * 2 ^ i).sum

/-! ### SNR (R177, R187) -/

/-- The largest power of 10 not above n, as its exponent. -/
def log10 : Nat → Nat → Nat
  | 0, _ => 0
  | f + 1, n => if n < 10 then 0 else log10 f (n / 10) + 1

/-- A positive ratio in 0.25 dB units, rounded down: the largest q with 10^q ≤ ratio^40. -/
def quarterDb (x : Rat) : Int :=
  let a := x.num.natAbs ^ 40
  let b := x.den ^ 40
  if b ≤ a then log10 (Nat.log2 (a / b)) (a / b)
  else
    let c := ceilDiv b a
    let n := log10 (Nat.log2 c) c
    Int.neg (if 10 ^ n = c then n else n + 1 : Nat)

/-- |Y1_k − Y2_k|² / 2 of position u. -/
def noiseAt (x : Context) (u : Nat) : Rat :=
  let a := binAt x.hdr.width x.long1 u
  let b := binAt x.hdr.width x.long2 u
  cnorm (a.1 - b.1, a.2 - b.2) / 2

/-- The five used positions nearest to one by k, the lower k first. -/
def nearestFive (w : BitVec 2) (u : Nat) : List Nat :=
  ((List.range 97).flatMap fun d => (usedPos w).filter fun v => (kOf v - kOf u).natAbs = d).take 5

/-- SNR_k of a data subcarrier in 0.25 dB units (R177). -/
def snrAt (x : Context) (u : Nat) : Int :=
  let five := nearestFive x.hdr.width u
  let sigma := Config.refinedNoise ((five.map (noiseAt x)).sum / five.length) x.pilotErr x.pilotN
  let signal := cnorm (channel x u) - sigma / 2
  if 0 < sigma ∧ 0 < signal then quarterDb (signal / sigma) else Config.edgeSnr signal sigma

/-- The worst data subcarrier: its SNR_k less its code's threshold is the lowest, the lower k on a tie (R187). -/
def worstOf (es : List (Nat × Nat)) (snrs : List Int) : Option (Nat × Int) :=
  (((List.zip es snrs).filter fun e => e.1.2 ≠ 0).foldl (fun (acc : Option (Nat × Int × Int)) e =>
    let m := e.2 - threshold e.1.2
    match acc with
    | some (_, _, a) => if m < a then some (e.1.1, e.2, m) else acc
    | none => some (e.1.1, e.2, m)) none).map fun a => (a.1, a.2.1)

/-- Received codewords out of the payload's bytes: lengths as R167, order as R168. -/
def rsLengths (t n M : Nat) : List Nat :=
  (List.range n).map fun i => M / n + b2n (decide (i < M % n)) + 2 * t

/-- One byte given to each codeword of a group that still lacks one, in order (R168). -/
def rsDeal : List (Nat × List Byte) → List Byte → List (Nat × List Byte) × List Byte
  | [], bs => ([], bs)
  | (n, w) :: rest, bs =>
    if n ≤ w.length then let r := rsDeal rest bs; ((n, w) :: r.1, r.2)
    else let r := rsDeal rest bs.tail; ((n, w ++ [bs.headD 0]) :: r.1, r.2)

/-- A group of codewords filled from the bytes. -/
def rsFill : Nat → List (Nat × List Byte) → List Byte → List (Nat × List Byte) × List Byte
  | 0, ws, bs => (ws, bs)
  | f + 1, ws, bs => let r := rsDeal ws bs; rsFill f r.1 r.2

/-- The codewords of some lengths, in groups of 8 (R168). -/
def rsUngroup : Nat → List Nat → List Byte → List (List Byte)
  | 0, _, _ => []
  | f + 1, ls, bs =>
    if ls.isEmpty then []
    else
      let r := rsFill 255 ((ls.take 8).map fun n => (n, [])) bs
      r.1.map Prod.snd ++ rsUngroup f (ls.drop 8) r.2

/-- The error value at the locator's root X⁻¹ = α^−e: X · Ω(X⁻¹) / σ'(X⁻¹). -/
def rsValue (syn loc : List Nat) (e : Nat) : Nat :=
  let x := gf256.rootInv e
  let omega := (List.range syn.length).map fun i => gf256.conv syn loc i
  let slope := loc.mapIdx fun i c => if i % 2 = 1 then c else 0
  gf256.mul (gf256.mul (gf256.root e) (gf256.eval omega x)) (gf256.inv (gf256.eval (slope.drop 1) x))

/-- A received codeword with at most t byte errors corrected, and their number; none where it is uncorrectable (R166). -/
def rsDecode (t : Nat) (w : List Byte) : Option (List Byte × Nat) :=
  let n := w.length
  let rev := w.reverse.map BitVec.toNat
  let syn := (List.range (2 * t)).map fun i => gf256.eval rev (gf256.root i)
  let loc := gf256.locator syn
  let fixed := (rev.mapIdx fun e b => if gf256.eval loc (gf256.rootInv e) = 0 then b ^^^ rsValue syn loc e else b).reverse.map
    (BitVec.ofNat 8)
  let errs := (List.zip fixed w).countP fun p => p.1 ≠ p.2
  if rsEncode t (fixed.take (n - 2 * t)) = fixed ∧ errs ≤ t then some (fixed, errs) else none

/-- The message of received payload bits: its bytes, the bytes corrected and the codewords that could not be (R166-R169). -/
def ofdmMessage (h : RxHeader) (bits : List Bool) : List Byte × Nat × Nat :=
  let t := rsT h.code
  let M := h.length + 4
  let n := rsCount h.code M
  let clear := List.zipWith Bool.xor bits (gen7 bits.length h.seed)
  let ws := (rsUngroup n (rsLengths t n M) (bytesOfBits (codedLen h.code h.length) clear)).map fun w => (w, rsDecode t w)
  (ws.flatMap fun w => match w.2 with
      | some (c, _) => c.take (c.length - 2 * t)
      | none => (Config.undecodedBytes w.1 ++ w.1).take (w.1.length - 2 * t),
    (ws.map fun w => match w.2 with | some (_, e) => e | none => 0).sum,
    ws.countP fun w => w.2.isNone)

/-- The OFDM results of R187. -/
def ofdmMeas (r : Option Region) (x : Context) (corrected bad : Nat) : Meas :=
  let es := effCodes r x.profile.carrier x.hdr.width x.hdr.mapBits
  let snrs := es.map fun e => snrAt x e.1
  let worst := worstOf es snrs
  let samples : Rat := if x.hdr.cp then 144 else 160
  { snr := BitVec.ofInt 16 (snrs.sum / snrs.length), cfo := wordOf x.preamble,
    sfo := wordOf (x.track.timingRate / samples * 1000000000), corrected, uncorrectable := bad,
    worstSnr := BitVec.ofInt 16 (match worst with | some w => w.2 | none => 0),
    worstK := BitVec.ofInt 8 (match worst with | some w => kOf w.1 | none => 0), snrs }

end Sys2Proof.Machine
end

