-- ==== Sys2Proof/Machine/Contexts.lean ====
section
/-! DEFINITION. Reception contexts (R197): their counters, release, pairs, the Frame Store's space, and the end of a
reception (R217, R218). -/

namespace Sys2Proof.Machine
open Sys2Proof

/-- The reception counters of a path (R215, R247), in the order that STATS_READ returns them. -/
inductive RxCount where
  | foreign | noMark | headerFail | evicted | poolFull | captured | kept | pairBusy | restarted | pairsFormed
  | pairsRefused | blanked | gain | calibration | stopped | ofdmNoDemod | mapAbsent | storeFull | monitorDrop
  deriving DecidableEq, Repr

/-- The place of a counter in its group (R215, R247). -/
def RxCount.idx : RxCount → Fin 19
  | .foreign => 0 | .noMark => 1 | .headerFail => 2 | .evicted => 3 | .poolFull => 4 | .captured => 5 | .kept => 6
  | .pairBusy => 7 | .restarted => 8 | .pairsFormed => 9 | .pairsRefused => 10 | .blanked => 11 | .gain => 12
  | .calibration => 13 | .stopped => 14 | .ofdmNoDemod => 15 | .mapAbsent => 16 | .storeFull => 17 | .monitorDrop => 18

/-- A reception counter of a path incremented, saturating (R215). -/
def bumpRx (boulevard : Bool) (r : RxCount) (s : State) : State :=
  if boulevard then { s with rx.blvdCnt := s.rx.blvdCnt.set r.idx (satInc s.rx.blvdCnt[r.idx]) }
  else { s with rx.alleyCnt := s.rx.alleyCnt.set r.idx (satInc s.rx.alleyCnt[r.idx]) }

/-- The decision pipeline's counters (R240, R247), in their order. -/
inductive PipeCount where
  | crcFail | malformed | notForMe | openDiscarded | openDelivered | noLink | dirMiss | dirFault | authFail | replay
  | duplicate | red | yellowRefused | deliveredGreen | deliveredYellow | lateDecision | ackSent | ackSuppressed
  | ackCollided | ackRxBad
  deriving DecidableEq, Repr

/-- The place of a counter in group 2 (R247). -/
def PipeCount.idx : PipeCount → Fin 20
  | .crcFail => 0 | .malformed => 1 | .notForMe => 2 | .openDiscarded => 3 | .openDelivered => 4 | .noLink => 5
  | .dirMiss => 6 | .dirFault => 7 | .authFail => 8 | .replay => 9 | .duplicate => 10 | .red => 11 | .yellowRefused => 12
  | .deliveredGreen => 13 | .deliveredYellow => 14 | .lateDecision => 15 | .ackSent => 16 | .ackSuppressed => 17
  | .ackCollided => 18 | .ackRxBad => 19

/-- A pipeline counter incremented, saturating. -/
def bumpPipe (r : PipeCount) (s : State) : State :=
  { s with rx.pipeCnt := s.rx.pipeCnt.set r.idx (satInc s.rx.pipeCnt[r.idx]) }

/-! ### Contexts -/

/-- Whether a context number is one that the variant has (R13, R197). -/
def ctxPresent (id : CtxId) (s : State) : Bool :=
  match id with | .alley => true | .blvd n => decide (n.val < s.ctxCount)

/-- A context. -/
def ctxOf (id : CtxId) (s : State) : Context :=
  match id with | .alley => s.rx.alleyCtx | .blvd n => s.rx.ctxs[n]

/-- A context replaced. -/
def setCtx (id : CtxId) (x : Context) (s : State) : State :=
  match id with
  | .alley => { s with rx.alleyCtx := x }
  | .blvd n => { s with rx.ctxs := s.rx.ctxs.set n x }

/-- Every context. -/
def allCtxs : List CtxId := .alley :: (List.finRange 64).map .blvd

/-- Whether an identifier is of the Boulevard. -/
def isBlvd : CtxId → Bool
  | .alley => false
  | .blvd _ => true

/-- Provisional: SYNC or HEADER (R197). -/
def Context.provisional (x : Context) : Bool := x.st = .sync || x.st = .header

/-- A frame is being received in the context. -/
def Context.busy (x : Context) : Bool := x.provisional || x.st = .committed

/-- The context's partner in its pair, if any (R201). -/
def partner (id : CtxId) (s : State) : Option CtxId :=
  match (ctxOf id s).pair with
  | some (p, w) => allCtxs.find? fun j => j ≠ id && (ctxOf j s).pair = some (p, !w)
  | none => none

/-- The unfinished CTX_TEST names this context (R485). -/
def underTest (id : CtxId) (s : State) : Bool :=
  match id, s.bg.ctxTest with | .blvd n, some t => t.ctx = n | _, _ => false

/-- A context becomes FREE, or OFFLINE where CTX_TEST waits for it (R485). A pair stays formed until W ends (R206); when W
ends, S goes on alone and the delay line is free. -/
def freeCtx (id : CtxId) (s : State) : State :=
  let s1 := match (ctxOf id s).pair with
    | some (p, true) =>
      let s0 := { s with rx.lines := s.rx.lines.set p [] }
      (match partner id s with | some j => setCtx j { ctxOf j s0 with pair := none } s0 | none => s0)
    | _ => s
  if underTest id s then
    setCtx id { st := .offline } { s1 with bg.ctxTest := s1.bg.ctxTest.map fun t => { t with offAt := s.elapsed.now } }
  else setCtx id { st := .free } s1

/-- A context is released before its frame's end: FREE at once, its reservation released, counted under its reason
(R197, R215). -/
def release (id : CtxId) (r : RxCount) (s : State) : State := bumpRx (isBlvd id) r (freeCtx id s)

/-- Some contexts of a path released under one reason. -/
def releaseWhere (sel : CtxId → Context → Bool) (r : RxCount) (s : State) : State :=
  allCtxs.foldl (fun s id => if sel id (ctxOf id s) then release id r s else s) s

/-- OFDM demodulators in use, of two (R14, R209). -/
def demodsUsed (s : State) : Nat := allCtxs.countP fun id => (ctxOf id s).busy && (ctxOf id s).ofdm

/-- Some context is COMMITTED (R112, R418). -/
def anyCommitted (s : State) : Bool := allCtxs.any fun id => (ctxOf id s).st = .committed

/-- Bytes of the Frame Store in use or reserved (R79, R213). -/
def storeUsed (s : State) : Nat :=
  (allCtxs.map fun id => (ctxOf id s).reserved).sum + (s.rx.pipe.map fun f => f.reserved).sum
    + (s.rx.store.map fun f => f.bytes).sum

/-- Bytes of the Frame Store that are free. -/
def storeFree (s : State) : Nat := s.storeSize - storeUsed s

/-! ### Receptions -/

/-- A reception is in force on some path (R109). -/
def receptionInForce (s : State) : Bool := s.rx.alley.isSome || s.rx.blvd.isSome

/-- The reception of a path. -/
def pathReception (boulevard : Bool) (s : State) : Option Reception := if boulevard then s.rx.blvd else s.rx.alley

/-- The frequency to which the radio is tuned for reception (R100): the window centre, else the Alley carrier. -/
def rxFrequency (s : State) : Nat :=
  match s.rx.blvd, s.rx.plan, s.rx.alley with
  | some _, some p, _ => p.centre
  | _, _, some a => s.phy.profiles[a.profile].carrier
  | _, _, none => 0

/-- The front-end pins at given levels; a pin not driven stays low (R103). -/
def femPins (levels : BitVec 6) (s : State) : State := { s with radio.fem.pins := levels &&& s.radio.fem.drive }

/-- The programmed frequency of a carrier (R99). -/
def programmed (s : State) (f : Nat) : Nat :=
  let base := match s.time.slew with | some sl => sl.base | none => s.time.adj.toInt
  match s.radio.rf.freqCorr.toNat with
  | 1 =>
    if s.time.ppsState = .locked || s.time.ppsState = .holdover then
      (roundDiv ((f : Int) * (2 ^ 32 + base)) (2 ^ 32)).toNat
    else f
  | 2 => (roundDiv ((f : Int) * (1000000000 - s.radio.rf.freqPpb.toInt)) 1000000000).toNat
  | _ => f

/-- The synthesiser begins to settle to a frequency; RF_CONFIG's fields take effect (R99, R115). -/
def startSettle (hz : Nat) (for_ : SettleFor) (s : State) : State :=
  { s with radio.loAsked := programmed s hz, radio.askedHz := hz, radio.settleFor := some for_, radio.lockFailed := false,
           radio.rfNow := s.radio.rf }

/-- The radio settles toward its receptions (R109). -/
def settleRx (s : State) : State :=
  { startSettle (rxFrequency s) .rx s with radio.mode := .settle, radio.moved := false }

/-- The radio becomes IDLE (R103, R109). -/
def toIdle (s : State) : State :=
  femPins s.radio.fem.idleLevel { s with radio.mode := .idle, radio.settleFor := none, radio.backToRx := false, radio.moved := false }

/-- The frame whose ack is awaited, if any (R231). -/
def awaiting (s : State) : Option TxFrame := s.link.frames.find? fun f => f.stage = .awaitAck

/-- A path's reception ends; with the last the radio becomes IDLE at once, and a reception that stays moves with the
frequency that it then has (R109, R218). -/
def endReception (boulevard : Bool) (s : State) : State :=
  let s1 := if boulevard then { s with rx.blvd := none } else { s with rx.alley := none }
  if receptionInForce s1 then
    if rxFrequency s1 = rxFrequency s then s1
    else if (s1.radio.mode = .rx && (awaiting s1).isNone) || (s1.radio.mode = .settle && s1.radio.settleFor = some .rx) then settleRx s1
    else { s1 with radio.moved := true }
  else
    let s2 := { s1 with radio.backToRx := false, radio.cal.enteredFrom := .idle }
    match s1.radio.mode with
    | .rx => femPins s2.radio.fem.idleLevel { s2 with radio.mode := .idle }
    | .settle =>
      if s1.radio.settleFor = some .rx then
        femPins s2.radio.fem.idleLevel { s2 with radio.mode := .idle, radio.settleFor := none }
      else s2
    | _ => s2

/-- A draining RX_STOP answers once the last committed context of its path has ended (R218). -/
def checkDrain (boulevard : Bool) (s : State) : State :=
  match (pathReception boulevard s).bind fun r => r.draining with
  | none => s
  | some (p, t, abandoned, drained) =>
    if allCtxs.any fun id => isBlvd id = boulevard && (ctxOf id s).st = .committed then s
    else finish ⟨p, t, 0x405, []⟩ .ok [W (abandoned + drained * 2 ^ 8)] (endReception boulevard s)

/-- Both paths' drains. -/
def checkDrains (s : State) : State := checkDrain true (checkDrain false s)

/-! ### Blanking (R108, R212) -/

/-- A busy context loses the symbol that is on the air (R147, R194, R212). A pair's weaker context decides it 2 × Ts later, so it
keeps the interval, which is open where `ends` is none (R204, R205). -/
def loseSymbol (now : DWord) (ends : Option DWord) (x : Context) : Context :=
  { x with touched := x.touched || (x.busy && !x.late),
           hits := match x.pair with | some (_, true) => (now, ends) :: x.hits | _ => x.hits }

/-- Every context loses the symbol that is on the air. -/
def loseSymbols (ends : Option DWord) (s : State) : State :=
  { s with rx.alleyCtx := loseSymbol s.elapsed.now ends s.rx.alleyCtx, rx.ctxs := s.rx.ctxs.map (loseSymbol s.elapsed.now ends) }

/-- A blank begins: contexts in SYNC and OFDM receptions are released, and every chirp context takes the symbol that overlaps it
as an erasure (R108, R212). -/
def startBlank (s : State) : State :=
  checkDrains (loseSymbols none
    (releaseWhere (fun _ x => x.st = .sync || (x.busy && x.ofdm)) .blanked { s with radio.blanked := true }))

/-- An interval still open is over. -/
def closeHits (now : DWord) (x : Context) : Context :=
  { x with hits := x.hits.map fun h => (h.1, match h.2 with | none => some now | some t => some t) }

/-- The blank ends. -/
def endBlank (s : State) : State :=
  { s with radio.blanked := false, rx.ctxs := s.rx.ctxs.map (closeHits s.elapsed.now) }

end Sys2Proof.Machine
end

