-- ==== Sys2Proof/Machine/Dir.lean ====
section
/-! DEFINITION. The link table as a cache of the directory, and the directory in external memory (R225, R263-R267). -/

namespace Sys2Proof.Machine
open Sys2Proof

/-! ### The link table (R225, R244) -/

/-- What names an entry: its short address and its EUI-64. -/
def LinkEntry.id (e : LinkEntry) : BitVec 24 × DWord := (e.short, e.eui)

/-- The group link's short address, which is also the broadcast address (R222, R225). -/
def groupShort : BitVec 24 := 0xFFFFFF#24

/-- The short address of a device that has none (R222). -/
def noShort : BitVec 24 := 0xFFFFFE#24

/-- The entry of a short address in the link table. -/
def linkByShort (a : BitVec 24) (s : State) : Option LinkEntry :=
  if a = noShort then none else s.link.links.find? fun e => e.short = a

/-- The entry of an EUI-64 in the link table; the group link has none. -/
def linkByEui (u : DWord) (s : State) : Option LinkEntry :=
  s.link.links.find? fun e => e.short ≠ groupShort && e.eui = u

/-- The entry of that name. -/
def linkById (i : BitVec 24 × DWord) (s : State) : Option LinkEntry := s.link.links.find? fun e => e.id = i

/-- The entry of that name changed. -/
def updateLink (i : BitVec 24 × DWord) (f : LinkEntry → LinkEntry) (s : State) : State :=
  { s with link.links := s.link.links.map fun e => if e.id = i then f e else e }

/-- The entry of that name removed. -/
def removeLink (i : BitVec 24 × DWord) (s : State) : State :=
  { s with link.links := s.link.links.filter fun e => e.id ≠ i }

/-- The bytes of a link key (R223). -/
def LinkEntry.keyBytes (e : LinkEntry) : List Byte := if e.key256 then bytes256 e.key else (bytes256 e.key).take 16

/-- Raise the mirrored ceiling before OUT_CTR can reach it (R19). -/
def LinkEntry.withCeiling (e : LinkEntry) : LinkEntry :=
  if e.outCtr.toNat < e.ceiling.toNat then e else { e with ceiling := W (min (e.outCtr.toNat + 65536) 0xFFFFFFFF) }

/-- The domain of the link table is usable (R15, R17). -/
def tableOn (s : State) : Bool := s.isUsable dXMEM

/-! ### Inbound meters (R277, R280) -/

/-- Both buckets full (R277). -/
def fullBuckets (m : MeterConfig) (now : DWord) : Buckets := ⟨m.cbs * 65536, m.pbs * 65536, now⟩

/-- An inbound profile: 0 is fixed unmetered, and so is any that METER_SET has not loaded (R280). -/
def inboundProfile (n : Nat) (s : State) : MeterConfig :=
  if n = 0 then {} else match s.traffic.profiles.find? fun p => p.1.val = n with | some p => p.2 | none => {}

/-! ### The link save area (R18, R19, R321) -/

/-- The storage key, slot 2, under which link keys are wrapped in the save area (R318, R321). -/
def storageKey (s : State) : List Byte := bytes256 (Config.deviceKey 2 (otpHash s 8))

/-- An entry as the save area holds it. -/
def saveLink (s : State) (e : LinkEntry) : SavedLink := ⟨{ e with key := 0 }, keyWrap (storageKey s) e.keyBytes⟩

/-- An entry taken back from the save area, if its key unwraps. -/
def loadLink (s : State) (m : SavedLink) : Option LinkEntry :=
  (keyUnwrap (storageKey s) m.wrapped).map fun k => { m.entry with key := BitVec.ofNat 256 (natBE ((k ++ zeros 16).take 32)) }

/-- The entries that the mirror holds: those of the link table, and those it alone keeps. -/
def mirrorLinks (s : State) : List LinkEntry := s.link.links ++ s.link.saved.filterMap (loadLink s)

/-! ### The directory (R263-R267) -/

/-- The directory in use: only the KR9680 has one (R3, R268). -/
def dirCfg (s : State) : Option DirConfig :=
  if s.is80 then s.dir.cfg.filter fun c => c.enable else none

/-- The capacity C (R248, R268). -/
def dirCapacity (s : State) : Nat := match dirCfg s with | some c => 2 ^ c.log2cap | none => 16384

/-- What unlisted bytes of the external memory read as (log 4). -/
def dirFill : Byte := 0#8

/-- Where the entry of an address lies, and its extension record (R263). -/
def dirAt (c : DirConfig) (a : Nat) : Nat := c.base + 64 * (a - 1)
def dirExtAt (c : DirConfig) (a : Nat) : Nat := c.base + 64 * (2 ^ c.log2cap + a - 1)

/-- The directory key (R263, R318): slot 1, derived from the OTP device seed. -/
def dirKey (s : State) : List Byte := bytes256 (Config.deviceKey 1 (otpHash s 8))

/-- The nonce of an entry, or of an extension record (R263). -/
def dirNonce (a : Nat) (ext : Bool) (version : DWord) : List Byte :=
  bytesOfBE 4 (a + b2n ext * 2 ^ 31) ++ bytesOfBE 8 version.toNat ++ [0xD1#8]

/-- The body of an entry (R263). `state`: 0 free, 1 active, 2 stale. -/
def dirBody (e : LinkEntry) (state : Nat) : List Byte :=
  let map := match e.map with | some m => m.toNat | none => 0x3FF
  bytesOfLE 8 e.eui.toNat ++ (bytes256 e.key).take 16 ++ bytesLE e.outCtr ++ bytesLE e.inCtr ++ bytesLE e.inBcast
    ++ bytesOfLE 3 e.parent.toNat ++ [if e.ackHeld then e.ackMargin else 0] ++ bytesLE (hi32 e.lastHeard) ++ [e.meter]
    ++ bytesOfLE 2 (map + state * 2 ^ 10 + b2n e.ackHeld * 2 ^ 12 + b2n e.ackPending * 2 ^ 13 + b2n e.key256 * 2 ^ 14)
    ++ [e.ackPower]

/-- 64 bytes as stored: VERSION, ciphertext, tag (R263; VERSION least significant byte first, DEDUCED, log 30). -/
def dirRecord (key : List Byte) (a : Nat) (ext : Bool) (version : DWord) (body : List Byte) : List Byte :=
  let v := bytesOfLE 8 version.toNat
  let r := ccmEnc key (dirNonce a ext version) v body 8
  v ++ r.1 ++ r.2

/-- The body that a stored record holds, if its tag verifies, with its version. -/
def dirOpen (key : List Byte) (a : Nat) (ext : Bool) (rec : List Byte) : Option (DWord × List Byte) :=
  let v := BitVec.ofNat 64 (natLE (rec.take 8))
  (ccmDec key (dirNonce a ext v) (rec.take 8) ((rec.drop 8).take 48) ((rec.drop 56).take 8)).map fun b => (v, b)

/-- The bytes of an address's record, or of its extension record. -/
def dirBytes (s : State) (at_ : Nat) : List Byte := memReadList dirFill s.dir.mem at_ 64

/-- The epoch against which entries are judged: the one the next write will carry (R264, R265; DEDUCED, log 30). -/
def currentEpoch (s : State) : Nat := s.dir.epoch.toNat + b2n s.dir.epochDue

/-- The version of the next write (R264). -/
def nextVersion (s : State) : DWord × State :=
  let wrap := s.dir.seq = 0xFFFFFFFF#32
  let s1 := if s.dir.epochDue || wrap then
    { s with dir.epoch := s.dir.epoch + 1, dir.seq := 1#32, dir.epochDue := false } else { s with dir.seq := s.dir.seq + 1 }
  (mk64 s1.dir.seq s1.dir.epoch, s1)

/-- An entry written under a new version, with its extension record where the directory keeps them (R263, R264). -/
def dirWrite (c : DirConfig) (e : LinkEntry) (state : Nat) (s : State) : State :=
  let a := e.short.toNat
  let r := nextVersion s
  let m1 := memWriteList dirFill r.2.dir.mem (dirAt c a) (dirRecord (dirKey s) a false r.1 (dirBody e state))
  let m2 := if c.ext then
    memWriteList dirFill m1 (dirExtAt c a) (dirRecord (dirKey s) a true r.1 ((bytes256 e.key).drop 16 ++ zeros 32)) else m1
  { r.2 with dir.mem := m2 }

/-- DIR_FAULT (R267). -/
def dirFault (a reason : Nat) (s : State) : State :=
  let n := satInc s.dir.faults
  raise 0x0C6 [W (a + reason * 2 ^ 24), n] { s with dir.faults := n }

/-- Whether the external memory fails an access now: nothing in the manual says when it does (log 30). -/
def xspiFails (s : State) : Bool × State := drawBool s

/-- A link entry from a body; the flags of bytes 45-46 beside it (R263). -/
def dirEntry (a : Nat) (body ext : List Byte) : LinkEntry × Nat :=
  let f := natLE ((body.drop 45).take 2)
  let map := f % 1024
  let k1 := (body.drop 8).take 16
  let k256 := f.testBit 14
  ({ short := BitVec.ofNat 24 a, eui := BitVec.ofNat 64 (natLE (body.take 8)), key256 := k256,
     key := BitVec.ofNat 256 (natBE (k1 ++ (if k256 then ext.take 16 else zeros 16))),
     map := if map = 0x3FF then none else some (BitVec.ofNat 10 map), meter := body.getD 44 0,
     ackPower := body.getD 47 0, outCtr := W (natLE ((body.drop 24).take 4)), inCtr := W (natLE ((body.drop 28).take 4)),
     inBcast := W (natLE ((body.drop 32).take 4)), ackHeld := f.testBit 12, ackMargin := body.getD 39 0,
     ackPending := f.testBit 13, lastHeard := mk64 0#32 (W (natLE ((body.drop 40).take 4))),
     parent := BitVec.ofNat 24 (natLE ((body.drop 36).take 3)), stale := (f / 1024) % 4 = 2 }, (f / 1024) % 4)

/-- What reading an address of the directory finds. -/
inductive DirRead where
  | entry (e : LinkEntry)
  | free
  | fault (reason : Nat)
  deriving DecidableEq, Repr

/-- The advance of R265, with the mark of a change. -/
def advanceCtr (old : Bool) (e : LinkEntry) : LinkEntry :=
  if old then { e with outCtr := W (min (e.outCtr.toNat + 2 ^ 20) 0xFFFFFFFE), dirty := true } else e

/-- An entry written under another LIBRARY_ID has its map unset (R178). -/
def forgetMap (old : Bool) (e : LinkEntry) : LinkEntry := if old then { e with map := none, dirty := true } else e

/-- An entry as its record of version v gives it now (R178, R265); free unless its STATE is active or stale (R263). -/
def entryRead (v : DWord) (r : LinkEntry × Nat) (s : State) : DirRead :=
  if r.2 = 1 || r.2 = 2 then
    .entry (forgetMap (decide (v.toNat ≤ s.dir.mapVersion.toNat)) (advanceCtr (decide ((hi32 v).toNat < currentEpoch s)) r.1))
  else .free

/-- An address read from the directory (R263, R265-R267); `err`: the external memory fails the read. Addresses start at 1 (R248,
R263): 0x000000 has no entry there. -/
def dirRead (c : DirConfig) (a : Nat) (err : Bool) (s : State) : DirRead :=
  if a = 0 then .free
  else if s.dir.highWater < a then .fault 4
  else if err then .fault 2
  else match dirOpen (dirKey s) a false (dirBytes s (dirAt c a)) with
    | none => .fault 0
    | some (v, body) =>
      let f := natLE ((body.drop 45).take 2)
      let ext := if c.ext then dirOpen (dirKey s) a true (dirBytes s (dirExtAt c a)) else some (v, [])
      match ext with
      | none => if f.testBit 14 then .fault 0 else entryRead v (dirEntry a body []) s
      | some (_, x) => entryRead v (dirEntry a body x) s

/-- Entries that the clock policy never takes (R266). -/
def pinned (s : State) (e : LinkEntry) : Bool :=
  e.short = groupShort || e.key256 || s.rdv.rdvs.any fun r => r.short = e.short

/-- Entries that outstanding frames or an ack hold (R266), and entries that lie beyond the directory. -/
def busyEntry (s : State) (e : LinkEntry) : Bool :=
  (s.link.frames.any fun f => f.link = some e.id) || (s.link.acks.any fun a => a.link = e.id)
    || (match s.link.ackOnAir with | some a => decide (a.link = e.id) | none => false) || e.deleting.isSome || e.short = noShort ||
  decide (dirCapacity s < e.short.toNat) || e.short = 0#24

/-- The clock hand, with fuel: the place of the victim, the hand beyond it (R266). The hand skips pinned and busy entries and clears
every reference bit that it passes. A dirty victim is written back; a failed write leaves it and raises DIR_FAULT. -/
def clockHand (c : DirConfig) : Nat → State → Option Nat × State
  | 0, s => (none, s)
  | n + 1, s =>
    let h := if s.link.hand < s.link.links.length then s.link.hand else 0
    match s.link.links[h]? with
    | none => (none, s)
    | some e =>
      let s1 := { s with link.hand := h + 1 }
      if pinned s e || busyEntry s e || e.ref then clockHand c n (updateLink e.id (fun e => { e with ref := false }) s1)
      else if e.dirty then
        let x := xspiFails s1
        if x.1 then clockHand c n (dirFault e.short.toNat 3 x.2)
        else (some h, dirWrite c e (if e.stale then 2 else 1) x.2)
      else (some h, s1)

/-- An entry put into the link table: into a free slot, or on the KR9680 with a directory into the victim's (R13, R266). -/
def placeLink (e : LinkEntry) (s : State) : Bool × State :=
  if s.link.links.length < s.linkCapacity then (true, { s with link.links := s.link.links ++ [e] })
  else match dirCfg s with
    | none => (false, s)
    | some c =>
      let r := clockHand c (2 * s.link.links.length + 2) s
      match r.1 with
      | some h => (true, { r.2 with link.links := r.2.link.links.set h e })
      | none => (false, r.2)

/-- An entry as it comes from the directory: its inbound meter starts full (R280), and the counter values that frames waiting for the
link have reserved stay reserved (R227). -/
def cachedEntry (e : LinkEntry) (s : State) : LinkEntry :=
  { e with buckets := fullBuckets (inboundProfile e.meter.toNat s) s.elapsed.now,
           reserved := s.link.frames.countP fun f => f.link = some e.id && f.miclen ≠ 0 && !f.inFlight }

/-- What looking up a short address finds: an entry that the link table now holds, none, or a fault, which has been
raised (R266, R267). A fetch counts DIR_MISS (R247). `eui`: the address the sender gave, which must match. -/
def fetchShort (a : BitVec 24) (eui : Option DWord) (err : Bool) (s : State) : DirRead × State :=
  match linkByShort a s with
  | some e =>
    if eui.getD e.eui = e.eui then (.entry { e with ref := true }, updateLink e.id (fun e => { e with ref := true }) s)
    else (.free, s)
  | none =>
    match dirCfg s with
    | none => (.free, s)
    | some c =>
      if a = groupShort || a = noShort then (.free, s)
      else match dirRead c a.toNat err s with
        | .fault r => (.fault r, dirFault a.toNat r s)
        | .free => (.free, s)
        | .entry e =>
          if eui.getD e.eui ≠ e.eui then (.fault 1, dirFault a.toNat 1 s)
          else
            let e := cachedEntry e s
            let p := placeLink e s
            if p.1 then (.entry e, { p.2 with rx.pipeCnt := p.2.rx.pipeCnt.set 6 (satInc p.2.rx.pipeCnt[6]) })
            else (.fault 2, dirFault a.toNat 2 p.2)

/-- The same for a command, with the memory's own failures. -/
def lookupShort (a : BitVec 24) (s : State) : DirRead × State :=
  if (linkByShort a s).isSome || (dirCfg s).isNone then fetchShort a none false s
  else
    let x := xspiFails s
    fetchShort a none x.1 x.2

/-- An entry written through to the directory, where there is one for its address (R244, R252); a failed write leaves it
dirty and raises DIR_FAULT. -/
def writeThrough (i : BitVec 24 × DWord) (s : State) : State :=
  match dirCfg s, linkById i s with
  | some c, some e =>
    if e.short = groupShort || e.short = noShort || e.short = 0#24 || decide (2 ^ c.log2cap < e.short.toNat) then s
    else
      let x := xspiFails s
      if x.1 then dirFault e.short.toNat 3 (updateLink i (fun e => { e with dirty := true }) x.2)
      else updateLink i (fun e => { e with dirty := false }) (dirWrite c e (if e.stale then 2 else 1) x.2)
  | _, _ => s

/-- A node leaves the directory (R245): its entry is written free. -/
def dirForget (e : LinkEntry) (s : State) : State :=
  match dirCfg s with
  | some c =>
    if e.short = groupShort || e.short = noShort || e.short = 0#24 || decide (2 ^ c.log2cap < e.short.toNat) then s
    else
      let x := xspiFails s
      if x.1 then dirFault e.short.toNat 3 x.2
      else dirWrite c { e with key := 0, eui := 0, outCtr := 0, inCtr := 0, inBcast := 0 } 0 x.2
  | none => s

/-- Every dirty entry whose address lies in [lo, hi) written back (R18, R266, R269). -/
def flushDirty (lo hi : Nat) (s : State) : State :=
  s.link.links.foldl (fun s e =>
    if e.dirty && decide (lo ≤ e.short.toNat) && decide (e.short.toNat < hi) then writeThrough e.id s else s) s

end Sys2Proof.Machine
end

