-- ==== Sys2Proof/Machine/Frames.lean ====
section
/-! DEFINITION. Transmit frames: the MAC frame (R219-R225), a frame's map, airtime and occupancy (R176, R184, R287), the
ledger (R305, R306) and how a frame is accepted and ends (R226, R227, R245, R307). -/

namespace Sys2Proof.Machine
open Sys2Proof

/-! ### The MAC frame (R219-R223) -/

/-- TYPE of a frame that the device sends (R220). -/
def macType : FrameKind → Nat
  | .data => 0 | .attestReport => 0 | .beacon => 2 | .mapUpdate => 3 | .join => 4 | .linkControl => 5

/-- Bytes of a MIC (R220). -/
def micBytes (miclen : Nat) : Nat := match miclen with | 0 => 0 | 1 => 4 | 2 => 8 | _ => 16

/-- The security byte of the nonce (R223). -/
def securityByte (miclen : Nat) (enc ack : Bool) : Byte := BitVec.ofNat 8 (miclen + 4 * b2n enc + 128 * b2n ack)

/-- The nonce of a frame (R223). -/
def macNonce (eui : DWord) (counter : Word) (sec : Byte) : List Byte :=
  bytesOfBE 8 eui.toNat ++ bytesBE counter ++ [sec]

/-- The broadcast address, short (R222). -/
def TxFrame.bcast (f : TxFrame) : Bool := !f.dstLong && f.dst.setWidth 24 = groupShort

/-- A join response: its source is 0x000000 (R249). -/
def TxFrame.joinResponse (f : TxFrame) : Bool := f.kind = .join && f.dstLong

/-- SRC_LONG as sent: forced while the own short address is 0xFFFFFE (R242). -/
def sendsLong (f : TxFrame) (s : State) : Bool := !f.joinResponse && (f.srcLong || s.link.own = noShort)

/-- An address field (R219). -/
def addrBytes (long : Bool) (a : DWord) : List Byte := if long then bytesOfLE 8 a.toNat else bytesOfLE 3 (a.setWidth 24).toNat

/-- The header of a frame (R219, R220). -/
def macHeader (f : TxFrame) (counter : Word) (s : State) : List Byte :=
  let long := sendsLong f s
  let fc := macType f.kind + b2n f.enc * 16 + f.miclen.toNat * 32 + b2n f.ackReq * 128 + b2n f.dstLong * 256
    + b2n long * 512 + b2n f.more * 1024
  bytesOfLE 2 fc ++ bytesLE counter ++ addrBytes f.dstLong f.dst
    ++ addrBytes long (if long then s.eui else if f.joinResponse then 0 else s.link.own.setWidth 64)

/-- The PSDU: the header, the payload encrypted if ENC, and the MIC (R219, R223). -/
def macSeal (key : List Byte) (eui : DWord) (hdr payload : List Byte) (counter : Word) (enc : Bool) (miclen : Nat) :
    List Byte :=
  let n := macNonce eui counter (securityByte miclen enc false)
  if miclen = 0 then hdr ++ payload
  else if enc then
    let r := ccmEnc key n hdr payload (micBytes miclen)
    hdr ++ r.1 ++ r.2
  else
    let r := ccmEnc key n (hdr ++ payload) [] (micBytes miclen)
    hdr ++ payload ++ r.2

/-- LENGTH of the frame's PSDU (R219). -/
def frameLen (f : TxFrame) (s : State) : Nat :=
  if f.psdu.isEmpty then
    6 + (if f.dstLong then 8 else 3) + (if sendsLong f s then 8 else 3) + f.payload.length + micBytes f.miclen.toNat
  else f.psdu.length

/-! ### A received MAC frame (R219-R222) -/

/-- A received MAC frame taken apart (R219, R220). -/
structure MacFrame where
  type : Nat
  enc : Bool
  miclen : Nat
  ackReq : Bool
  dstLong : Bool
  srcLong : Bool
  more : Bool
  counter : Word
  dst : DWord
  src : DWord
  hdr : List Byte
  body : List Byte
  mic : List Byte
  deriving DecidableEq, Repr

/-- A MAC frame's fields, or none where R221 calls it malformed. -/
def parseMac (psdu : List Byte) : Option MacFrame :=
  let fc := natLE (psdu.take 2)
  let type := fc % 16
  let miclen := (fc / 32) % 4
  let enc := fc.testBit 4
  let dl := fc.testBit 8
  let sl := fc.testBit 9
  let nd := if dl then 8 else 3
  let ns := if sl then 8 else 3
  let h := 6 + nd + ns
  let n := micBytes miclen
  if psdu.length < 2 || decide (2048 ≤ fc) || decide (5 < type) || (enc && miclen = 0) then none
  else if type = 1 then
    if psdu.length = 10 then some ⟨1, enc, miclen, false, false, false, false, 0, 0, 0, psdu.take 6, [], psdu.drop 6⟩ else none
  else if psdu.length < h + n then none
  else
    let num (bs : List Byte) : DWord := BitVec.ofNat 64 (natLE bs)
    some { type, enc, miclen, ackReq := fc.testBit 7, dstLong := dl, srcLong := sl, more := fc.testBit 10,
           counter := W (natLE ((psdu.drop 2).take 4)), dst := num ((psdu.drop 6).take nd),
           src := num ((psdu.drop (6 + nd)).take ns), hdr := psdu.take h,
           body := (psdu.drop h).take (psdu.length - h - n), mic := psdu.drop (psdu.length - n) }

/-- A broadcast (R222). -/
def MacFrame.bcast (m : MacFrame) : Bool := !m.dstLong && m.dst = 0xFFFFFF#64

/-- A frame addressed to the device (R222); an ack carries no address. -/
def forMe (m : MacFrame) (s : State) : Bool :=
  m.type ≠ 1 && (if m.dstLong then m.dst = s.eui
    else m.bcast || (s.link.own ≠ noShort && m.dst.setWidth 24 = s.link.own))

/-- A source that R222 calls never valid. -/
def MacFrame.srcBad (m : MacFrame) : Bool := !m.srcLong && decide (0xFFFFFE ≤ m.src.toNat)

/-- ACK_REQ as it counts: ignored on a broadcast (R222). -/
def MacFrame.wantsAck (m : MacFrame) : Bool := m.ackReq && !m.bcast

/-- Whether a frame in the decision pipeline may still turn out to be acknowledged (R233). -/
def mayAck (f : PipeFrame) (s : State) : Bool :=
  f.crcOk && (match parseMac f.psdu with | some m => forMe m s && m.wantsAck && m.miclen ≠ 0 | none => false)

/-! ### Links of frames -/

/-- The link entry whose key and counter a frame uses, if it is still there. -/
def frameLink (f : TxFrame) (s : State) : Option LinkEntry := f.link.bind fun i => linkById i s

/-- The frame of that number. -/
def frameById (fid : Nat) (s : State) : Option TxFrame := s.link.frames.find? fun f => f.fid = fid

/-- The frame of that number changed. -/
def updateFrame (fid : Nat) (g : TxFrame → TxFrame) (s : State) : State :=
  { s with link.frames := s.link.frames.map fun f => if f.fid = fid then g f else f }

/-- A frame returned unchanged to the head of its queue (R114, R293, R439). -/
def returnFrame (fid : Nat) (s : State) : State :=
  match frameById fid s with
  | some f => { s with link.frames := { f with stage := .queued } :: s.link.frames.filter fun x => x.fid ≠ fid }
  | none => s

/-- The destination as a short address: that of the frame, or of its link entry. -/
def shortOf (f : TxFrame) (s : State) : BitVec 24 :=
  if f.dstLong then match frameLink f s with | some e => e.short | none => noShort else f.dst.setWidth 24

/-! ### Map, airtime, occupancy (R176, R184, R228, R287) -/

/-- The map that a link with an index, or an unset one, uses on a profile (R176). -/
def usedMap (m : Option (BitVec 10)) (p : Profile) (s : State) : Nat :=
  match m with
  | some m => if mapUsable s p m.toNat then m.toNat else b2n p.defaultMap
  | none => b2n p.defaultMap

/-- The map of a frame chosen now (R176). -/
def frameMap (f : TxFrame) (p : Profile) (s : State) : Nat :=
  if f.kind = .mapUpdate then 0
  else if f.bcast then b2n p.bcastMap
  else if f.dstLong then b2n p.defaultMap
  else usedMap ((frameLink f s).bind fun e => e.map) p s

/-- The content of a map index; an absent one is never used. -/
def mapBitsOf (i : Nat) (s : State) : BitVec 288 := (mapContent s i).getD 0

/-- The content of a frame's map: fixed once it has been chosen (R176). -/
def frameMapBits (f : TxFrame) (p : Profile) (s : State) : BitVec 288 :=
  if f.inFlight then f.mapBits else mapBitsOf (frameMap f p s) s

/-- The profile that a frame names (R188). -/
def profileFor (f : TxFrame) (s : State) : Profile := s.phy.profiles[f.profile]

/-- Airtime in µs of the next attempt (R149, R184). -/
def frameAirtime (f : TxFrame) (s : State) : Nat :=
  let p := profileFor f s
  airtimeOf s p (frameMapBits f p s) (frameLen f s)

/-- The parameters of the ack of a frame (R228). -/
def ackProfile (p : Profile) : Profile := if p.ofdm then p else { p with code := 2#2, p := 8 }

/-- The ack gap in µs (R228). -/
def ackGap (p : Profile) : Nat := if p.ofdm then 200 else 2 * symbolUs p.k p.bw + 500

/-- Airtime of the 10-byte ack in µs (R229). -/
def ackAirtime (p : Profile) (s : State) : Nat := airtimeOf s (ackProfile p) (uniformMap 1) 10

/-- The occupancy of R287 in µs. -/
def occupancy (f : TxFrame) (s : State) : Nat :=
  let p := profileFor f s
  frameAirtime f s + (if f.ackReq then ackGap p + ackAirtime p s else 0)

/-- From the start instant to the timestamp instant, in µs (R131, R160). -/
def stampOffset (p : Profile) : Nat := if p.ofdm then 288 else (p.p + 2) * symbolUs p.k p.bw

/-! ### The ledger (R305, R306) -/

/-- The outcomes of R305. -/
inductive TxResult where
  | acked | sent | noAck | expired | droppedRed | budgetExhausted | late | cancelled | flushed
  deriving DecidableEq, Repr

/-- The code of an outcome (R305). -/
def outcomeCode : TxResult → Fin 9
  | .acked => 0 | .sent => 1 | .noAck => 2 | .expired => 3 | .droppedRed => 4 | .budgetExhausted => 5 | .late => 6
  | .cancelled => 7 | .flushed => 8

/-- A change of the ledger's scope that counts a frame (R308). -/
def inLedger (k : FrameKind) (g : LedgerScope → LedgerScope) (s : State) : State :=
  if k = .data then { s with ledger.app := g s.ledger.app } else { s with ledger.fw := g s.ledger.fw }

/-- A frame is accepted (R306). -/
def LedgerScope.submit (l : LedgerScope) : LedgerScope :=
  { l with submitted := l.submitted + 1, pending := l.pending + 1 }

/-- A frame is first chosen (R226, R306). -/
def LedgerScope.fly (l : LedgerScope) : LedgerScope := { l with inFlight := l.inFlight + 1 }

/-- A frame ends (R306). -/
def LedgerScope.close (flying : Bool) (o : Fin 9) (l : LedgerScope) : LedgerScope :=
  { l with pending := l.pending - 1, inFlight := if flying then l.inFlight - 1 else l.inFlight,
           outcomes := l.outcomes.set o (l.outcomes[o] + 1) }

/-! ### Acceptance (R227, R242, R306) -/

/-- A frame enters its queue: numbered, counted, and with a counter value reserved if it is secured (R227, R306). -/
def submitFrame (f : TxFrame) (s : State) : State :=
  let s1 := match f.link with
    | some i => if f.miclen = 0 then s else updateLink i (fun e => { e with reserved := e.reserved + 1, ref := true }) s
    | none => s
  inLedger f.kind LedgerScope.submit
    { s1 with link.frames := s1.link.frames ++ [{ f with fid := s.link.nextFid }], link.nextFid := s.link.nextFid + 1 }

/-! ### The end of a frame (R178, R227, R241, R245, R305, R307) -/

/-- The transmit descriptor D0 to D5 (R241). -/
def txDescriptor (f : TxFrame) (acked : Bool) : List Word :=
  words64 f.stamp ++
  [W ((BitVec.ofInt 8 f.powerUsed).toNat + f.attempts * 2 ^ 8 + b2n (acked && f.ackPending) * 2 ^ 12
      + (if acked then f.ackMargin.toNat else 0) * 2 ^ 16),
   f.counter.getD 0#32, W (min f.airtime 0xFFFFFFFF), if acked then f.ackRssi.setWidth 32 else 0#32]

/-- Word 1 of TX_OUTCOME (R307). -/
def outcomeWord (f : TxFrame) (o : TxResult) (s : State) : Word :=
  W (f.handle.toNat + (outcomeCode o).val * 2 ^ 16 + f.queue.val * 2 ^ 20 + s.traffic.queues[f.queue].cls.val * 2 ^ 25
    + b2n (f.coloured && f.yellow) * 2 ^ 28)

/-- LOADMAP_PROPOSED (R179). -/
def loadmapEvent (short : BitVec 24) (cause old new : Nat) (margin : Byte) (s : State) : State :=
  raise 0x0C5 [W (short.toNat + cause * 2 ^ 24), W (old + new * 2 ^ 16), margin.setWidth 32] s

/-- Consecutive NO_ACK outcomes of OFDM frames to a link, and the return of its map to unset (R178). -/
def mapFallback (f : TxFrame) (o : TxResult) (s : State) : State :=
  match f.link, frameLink f s with
  | some i, some e =>
    if !f.prof.ofdm || e.short = groupShort then s
    else if o = .acked then updateLink i (fun e => { e with noAcks := 0 }) s
    else if o = .noAck then
      let n := e.noAcks + 1
      match e.map with
      | some m =>
        if decide (f.prof.fallback.toNat ≤ n) && decide (1 < m.toNat) then
          loadmapEvent e.short 1 (usedMap e.map f.prof s) 0x3FF 0 (updateLink i (fun e => { e with noAcks := 0, map := none, dirty := true }) s)
        else updateLink i (fun e => { e with noAcks := n }) s
      | none => updateLink i (fun e => { e with noAcks := n }) s
    else s
  | _, _ => s

/-- A link leaves: its entry, its rendezvous, and on the KR9680 its place in the directory (R245; the rendezvous,
DEDUCED, log 31). -/
def dropLink (e : LinkEntry) (s : State) : State :=
  dirForget e { removeLink e.id s with rdv.rdvs := s.rdv.rdvs.filter fun r => r.short ≠ e.short || e.short = noShort }

/-- The LINK_DEL responses that have followed their last outcome (R245). -/
def answerDeletes (s : State) : State :=
  s.link.links.foldl (fun s e =>
    match e.deleting with
    | some (p, t) =>
      if s.link.frames.any fun f => f.link = some e.id then s
      else finish ⟨p, t, 0x502, []⟩ .ok [] (dropLink e s)
    | none => s) s

/-- A frame ends in an outcome (R305): it leaves its queue, an unused counter value is released (R227), the ledger counts
it (R306), and a frame of TX_SUBMIT raises TX_OUTCOME on its port (R307). -/
def endFrame (fid : Nat) (o : TxResult) (s : State) : State :=
  match frameById fid s with
  | none => s
  | some f =>
    let s1 := { s with link.frames := s.link.frames.filter fun x => x.fid ≠ fid }
    let s2 := match f.link with
      | some i => if f.miclen = 0 || f.inFlight then s1 else updateLink i (fun e => { e with reserved := e.reserved - 1 }) s1
      | none => s1
    let s3 := inLedger f.kind (LedgerScope.close f.inFlight (outcomeCode o)) s2
    let s4 := mapFallback f o s3
    let s5 := if f.kind = .data then
      completeEvent f.port 0x010 f.handle (outcomeWord f o s :: txDescriptor f (o = .acked)) s4 else s4
    answerDeletes s5

/-- A frame whose attempt cannot go on returns to the head of its queue (R114, R293); one that LINK_DEL is flushing has finished its
attempt and ends (R245). -/
def sendBack (fid : Nat) (s : State) : State :=
  match frameById fid s with
  | some f => if f.flushing then endFrame fid .flushed s else returnFrame fid s
  | none => s

/-! ### First choice: counter, encryption, map and SEED (R169, R176, R225, R226, R254) -/

/-- SEED of a frame formed now, and the counter's next value, 1 to 127 (R169). -/
def takeSeed (s : State) : BitVec 7 × State :=
  (s.phy.seed, { s with phy.seed := if s.phy.seed = 127#7 then 1#7 else s.phy.seed + 1 })

/-- The counter of a frame first chosen: the link's next, or the next open-frame value (R224, R226). -/
def takeCounter (f : TxFrame) (s : State) : Word × State :=
  match f.link, decide (f.miclen = 0) with
  | some i, false =>
    let c := match linkById i s with | some e => e.outCtr + 1 | none => 0#32
    (c, updateLink i (fun e => LinkEntry.withCeiling { e with outCtr := c, reserved := e.reserved - 1, dirty := true }) s)
  | _, _ => (s.link.openCtr + 1, { s with link.openCtr := s.link.openCtr + 1 })

/-- The payload as sent: a beacon carries the NT of its own timestamp instant in bytes 8 to 15 (R253, R254). -/
def payloadOf (f : TxFrame) (p : Profile) : List Byte :=
  if f.kind = .beacon then
    f.payload.take 8 ++ bytesOfLE 8 (f.startAt + BitVec.ofNat 64 (usU (stampOffset p))).toNat ++ f.payload.drop 16
  else f.payload

/-- A frame chosen: its profile's content is fixed for the attempt (R125); at its first choice it takes its counter, its
bytes, its map and its SEED (R169, R176, R226). -/
def formFrame (fid : Nat) (s : State) : State :=
  match frameById fid s with
  | none => s
  | some f =>
    let p := profileFor f s
    if f.inFlight then
      let sd := if p.ofdm && f.seed = 0 then takeSeed s else (f.seed, s)
      updateFrame fid (fun f => { f with prof := p, seed := sd.1 }) sd.2
    else
      let i := frameMap f p s
      let c := takeCounter f s
      let sd := if p.ofdm then takeSeed c.2 else (0#7, c.2)
      let key := match frameLink f s with | some e => e.keyBytes | none => []
      let psdu := macSeal key s.eui (macHeader f c.1 s) (payloadOf f p) c.1 f.enc f.miclen.toNat
      let used (e : LinkEntry) : LinkEntry := if p.ofdm then { e with profile := some f.profile } else e
      let s0 := match f.link with | some l => updateLink l used sd.2 | none => sd.2
      let s1 := updateFrame fid (fun f => { f with prof := p, inFlight := true, counter := some c.1, psdu, seed := sd.1,
                                                   map := BitVec.ofNat 10 i, mapBits := mapBitsOf i s }) s0
      inLedger f.kind LedgerScope.fly s1

end Sys2Proof.Machine
end

