-- ==== Sys2Proof/Machine/Traffic.lean ====
section
/-! DEFINITION. Traffic (10_traffic_shaping): queues and their settings, meters, the Crossing, airtime budgets, and the
ledger's report. -/

namespace Sys2Proof.Machine
open Sys2Proof

/-! ### Queues (R274, R275) -/

/-- Frames that a queue holds. -/
def queueFrames (q : Fin 32) (s : State) : List TxFrame := s.link.frames.filter fun f => f.queue = q

def queueConfigRun (c : Cmd) (s : State) : Except Status (List Word × State) :=
  let w := param c.ps 1
  let q : Fin 32 := Fin.ofNat 32 (fld w 4 0)
  let cls : Fin 8 := Fin.ofNat 8 (fld w 7 5)
  let depth := fld w 26 20
  let held := (queueFrames q s).length
  let old := s.traffic.queues[q]
  match firstFail [(!onlyBits w 0x07F7FFFF#32 || fld w 15 8 = 0 || fld w 17 16 = 3, .badParam),
      (decide (0 < held) && (decide (old.cls ≠ cls) || (decide (0 < depth) && decide (depth < held))), .busy)] with
  | some st => .error st
  | none =>
    let new := { old with cls, weight := BitVec.ofNat 8 (fld w 15 8), redAction := BitVec.ofNat 2 (fld w 17 16),
                          preYellow := bitAt w 18, depth := BitVec.ofNat 7 depth }
    .ok ([], { s with traffic.queues := s.traffic.queues.set q new })

def execQueueConfig (p : Packet) (s : State) : Out :=
  .next (plazaRun 0x601 (lenIs 1) (immediate queueConfigRun) p s)

/-! ### Meters (R277-R281) -/

/-- The colours (R277). -/
inductive Colour where
  | green | yellow | red
  deriving DecidableEq, Repr

/-- A meter that colours every frame green (R277). -/
def MeterConfig.unmetered (m : MeterConfig) : Bool := m.cir = 0xFFFFFFFF#32

/-- The refill before a colouring, to 2^-16 byte (R277). -/
def refill (m : MeterConfig) (now : DWord) (b : Buckets) : Buckets :=
  let dt := now.toNat - b.last.toNat
  ⟨min (m.cbs * 65536) (b.tc + m.cir.toNat * dt / 65536), min (m.pbs * 65536) (b.tp + m.pir.toNat * dt / 65536), now⟩

/-- The colour of a frame of n bytes and the buckets after it (R277). -/
def colour (m : MeterConfig) (now : DWord) (n : Nat) (preYellow : Bool) (b : Buckets) : Colour × Buckets :=
  if m.unmetered then (.green, b)
  else
    let r := refill m now b
    let need := n * 65536
    if r.tp < need then (.red, r)
    else if (m.aware && preYellow) || r.tc < need then (.yellow, { r with tp := r.tp - need })
    else (.green, { r with tp := r.tp - need, tc := r.tc - need })

/-- Buckets clamped to new bursts; a meter that had none begins full (R277, R281). -/
def rebucket (old new : MeterConfig) (now : DWord) (b : Buckets) : Buckets :=
  if old.unmetered then fullBuckets new now
  else ⟨min b.tc (new.cbs * 65536), min b.tp (new.pbs * 65536), b.last⟩

/-- The transmit meter of a class and a destination: that of both, else that of the class and any (R278). -/
def txMeter (cls : Fin 8) (dst : BitVec 24) (s : State) : Option (Fin 256 × TxMeter) :=
  match s.traffic.meters.find? fun m => m.2.cls = cls && m.2.dst = some dst with
  | some m => some m
  | none => s.traffic.meters.find? fun m => m.2.cls = cls && m.2.dst = none

/-- The tentative colour of a frame (R278, R279), and the meter and buckets that taking its tokens would leave. -/
def tentative (f : TxFrame) (s : State) : Colour × Option (Fin 256 × Buckets) :=
  if f.coloured then (if f.yellow then .yellow else .green, none)
  else if f.kind ≠ .data then (.green, none)
  else
    let q := s.traffic.queues[f.queue]
    match txMeter q.cls (shortOf f s) s with
    | none => (.green, none)
    | some (i, m) =>
      let r := colour m.cfg s.elapsed.now (frameLen f s) q.preYellow m.buckets
      (r.1, some (i, r.2))

/-- The colour fixed and the tokens taken for the frame chosen (R279). -/
def fixColour (fid : Nat) (s : State) : State :=
  match frameById fid s with
  | none => s
  | some f =>
    if f.coloured then s
    else
      let t := tentative f s
      let s1 := updateFrame fid (fun f => { f with coloured := true, yellow := t.1 = .yellow }) s
      match t.2 with
      | some (i, b) =>
        { s1 with traffic.meters := s1.traffic.meters.map fun m => if m.1 = i then (i, { m.2 with buckets := b }) else m }
      | none => s1

/-- A meter's rates from words 3 to 6 of METER_SET, or none where a value is out of range (R281). -/
def meterOf (w1 : Word) (ps : List Word) : Option MeterConfig :=
  let cbs := param ps 4
  let pbs := param ps 6
  if !onlyBits cbs 0xFFFFFF#32 || !onlyBits pbs 0xFFFFFF#32 || cbs = 0 || pbs.toNat < cbs.toNat
      || (param ps 5).toNat < (param ps 3).toNat then none
  else some { aware := bitAt w1 1, cir := param ps 3, cbs := cbs.toNat, pir := param ps 5, pbs := pbs.toNat }

/-- An inbound profile is loaded; entries that use it keep their buckets, clamped (R280, R281). -/
def loadProfile (n : Nat) (m : MeterConfig) (s : State) : State :=
  let old := inboundProfile n s
  { s with
    traffic.profiles := (Fin.ofNat 256 n, m) :: s.traffic.profiles.filter fun p => p.1.val ≠ n
    link.links := s.link.links.map fun e =>
      if e.meter.toNat = n then { e with buckets := rebucket old m s.elapsed.now e.buckets } else e }

/-- The lowest meter index that is not bound. -/
def freeMeter (s : State) : Option (Fin 256) :=
  (List.finRange 256).find? fun i => !s.traffic.meters.any fun m => m.1 = i

def meterSetRun (c : Cmd) (s : State) : Except Status (List Word × State) :=
  let w1 := param c.ps 1
  let w2 := param c.ps 2
  let inbound := bitAt w1 0
  let del := bitAt w1 2
  let any := bitAt w1 11
  let prof := fld w1 23 16
  let bad := !onlyBits w1 0x00FF0F07#32 || !onlyBits w2 0xFFFFFF#32 || (any && w2 ≠ 0#32)
    || (if inbound then del || fld w1 10 8 ≠ 0 || any || w2 ≠ 0#32 || prof = 0 else prof ≠ 0)
  if bad then .error .badParam
  else
    let n := s.traffic.meters.length
    if inbound then
      match meterOf w1 c.ps with
      | none => .error .badParam
      | some m => .ok ([W (n * 2 ^ 8)], loadProfile prof m s)
    else
      let cls : Fin 8 := Fin.ofNat 8 (fld w1 10 8)
      let dst : Option (BitVec 24) := if any then none else some (w2.setWidth 24)
      let bound := s.traffic.meters.find? fun m => m.2.cls = cls && m.2.dst = dst
      if del then
        match bound with
        | none => .error .noEntry
        | some b =>
          .ok ([W (b.1.val + (n - 1) * 2 ^ 8)], { s with traffic.meters := s.traffic.meters.filter fun m => m.1 ≠ b.1 })
      else match meterOf w1 c.ps, bound with
        | none, _ => .error .badParam
        | some m, some b =>
          let new : TxMeter := { b.2 with cfg := m, buckets := rebucket b.2.cfg m s.elapsed.now b.2.buckets }
          .ok ([W (b.1.val + n * 2 ^ 8)],
            { s with traffic.meters := s.traffic.meters.map fun x => if x.1 = b.1 then (b.1, new) else x })
        | some m, none =>
          match freeMeter s with
          | none => .error .tableFull
          | some i =>
            .ok ([W (i.val + (n + 1) * 2 ^ 8)],
              { s with traffic.meters := s.traffic.meters ++ [(i, ⟨cls, dst, m, fullBuckets m s.elapsed.now⟩)] })

def execMeterSet (p : Packet) (s : State) : Out :=
  .next (plazaRun 0x602 (fun ps => if bitAt (param ps 1) 2 then ps.length = 2 else ps.length = 6)
    (immediate meterSetRun) p s)

/-! ### The Crossing (R284-R291) -/

/-- The entry in force at a place p of the cycle: its index, its mask, and the place where it ends (R285). `acc`: the
durations before the entries that remain. -/
def entryAt (p cycle : Nat) : Nat → Nat → List (BitVec 8 × Word) → Nat × BitVec 8 × Nat
  | i, _, [] => (i - 1, 0#8, cycle)
  | i, _, [(m, _)] => (i, m, cycle)
  | i, acc, (m, d) :: rest =>
    if p < acc + d.toNat then (i, m, min cycle (acc + d.toNat)) else entryAt p cycle (i + 1) (acc + d.toNat) rest

/-- The place of NT x in a list's cycle (R285). -/
def cyclePlace (l : GateList) (x : Nat) : Nat := (((x : Int) - l.base.toNat) % (max 1 l.cycle.toNat : Nat)).toNat

/-- The gates of a list at NT x: entry, mask, and the NT at which the entry ends (R285). -/
def gateAt (l : GateList) (x : Nat) : Nat × BitVec 8 × Nat :=
  let p := cyclePlace l x
  let r := entryAt p (max 1 l.cycle.toNat) 0 0 l.entries
  (r.1, r.2.1, x + (r.2.2 - p))

/-- The first instant from x on at which a list closes the gate of a class; none if it stays open. -/
def closesAt (l : GateList) (cls : Fin 8) : Nat → Nat → Option Nat
  | 0, _ => none
  | n + 1, x =>
    let g := gateAt l x
    if g.2.1.getLsbD cls then closesAt l cls n g.2.2 else some x

/-- Segments that a whole cycle can take from any place. -/
def cycleSegments (l : GateList) : Nat := 2 * (l.entries.length + 1)

/-- The same of the list in force or none loaded: with none every gate is open (R284). -/
def listCloses (l : Option GateList) (cls : Fin 8) (x : Nat) : Option Nat :=
  l.bind fun l => closesAt l cls (cycleSegments l) x

/-- The list that an administrative list leaves when it swaps (R289). -/
def AdminList.result (a : AdminList) : Option GateList := if a.clear then none else some a.list

/-- The operational list. -/
def operList (s : State) : Option GateList := s.traffic.oper.map Prod.fst

/-- The first instant from x on at which the gate of a class closes, across a waiting swap (R287). -/
def gateCloses (cls : Fin 8) (x : Nat) (s : State) : Option Nat :=
  match s.traffic.admin with
  | none => listCloses (operList s) cls x
  | some a =>
    if a.x.toNat ≤ x then listCloses a.result cls x
    else match listCloses (operList s) cls x with
      | some t => if t < a.x.toNat then some t else listCloses a.result cls a.x.toNat
      | none => listCloses a.result cls a.x.toNat

/-- The gate of a class is open without interruption from NT x for d fraction units (R287). -/
def gateFits (cls : Fin 8) (x d : Nat) (s : State) : Bool :=
  match gateCloses cls x s with | none => true | some t => decide (x + d ≤ t)

/-- Where the entries of a list begin in a cycle. -/
def starts : Nat → List (BitVec 8 × Word) → List Nat
  | _, [] => []
  | acc, e :: rest => acc :: starts (acc + e.2.toNat) rest

/-- No open interval of a list can hold d fraction units for a class (R288, R304). -/
def neverHolds (l : Option GateList) (cls : Fin 8) (d : Nat) : Bool :=
  match l with
  | none => false
  | some g =>
    let x0 := g.base.toNat + g.cycle.toNat
    ((starts 0 g.entries).filter fun p => decide (p < g.cycle.toNat)).all fun p =>
      match closesAt g cls (cycleSegments g) (x0 + p) with
      | none => false
      | some t => decide (t < x0 + p + d)

/-- The swap instant and its k: the smallest base + k × cycle at or after t (R286). -/
def swapInstant (base cycle t : Nat) : Nat × Nat :=
  let k := if t ≤ base then 0 else ceilDiv (t - base) (max 1 cycle)
  (base + k * cycle, k)

/-- An administrative list set (R286, R289). -/
def loadGates (l : GateList) (clear : Bool) (s : State) : State :=
  let x := swapInstant l.base.toNat l.cycle.toNat (s.time.nt.toNat + msU 1)
  { s with traffic.admin := some { list := l, clear, x := BitVec.ofNat 64 x.1, k := x.2 } }

/-- The entry words of GATELIST_LOAD. -/
def gateEntries : List Word → List (BitVec 8 × Word)
  | m :: d :: rest => (m.setWidth 8, d) :: gateEntries rest
  | _ => []

/-- Entry words with reserved bits 0 and durations of at least 1 (R289). -/
def gateWordsOk : List Word → Bool
  | m :: d :: rest => onlyBits m 0xFF#32 && d ≠ 0#32 && gateWordsOk rest
  | _ => true

def gatelistLoadRun (c : Cmd) (s : State) : Except Status (List Word × State) :=
  let w1 := param c.ps 1
  let n := fld w1 8 0
  let clear := bitAt w1 9
  let base := mk64 (param c.ps 2) (param c.ps 3)
  let cycle := mk64 (param c.ps 4) (param c.ps 5)
  let words := c.ps.drop 5
  let bad := !onlyBits w1 0x3FF#32 || (if clear then decide (n ≠ 0) else n = 0 || decide (256 < n))
    || decide (cycle.toNat * 1000 < 2 ^ 32) || decide (secU 86400 < cycle.toNat) || !gateWordsOk words
  match firstFail [(bad, .badParam), (s.power.bodWarn, .brownoutHold)] with
  | some st => .error st
  | none =>
    let l : GateList := ⟨base, cycle, gateEntries words⟩
    let s1 := loadGates l clear s
    let x := swapInstant base.toNat cycle.toNat (s.time.nt.toNat + msU 1)
    .ok (words64 (BitVec.ofNat 64 x.1) ++ [W (min x.2 0xFFFFFFFF)],
      { s1 with upd.settings.gate := if clear then none else some l })

def execGatelistLoad (p : Packet) (s : State) : Out :=
  .next (plazaRun 0x603 (fun ps => decide (5 ≤ ps.length) && ps.length = 5 + 2 * fld (param ps 1) 8 0)
    (immediate gatelistLoadRun) p s)

def gatelistStatusRun (_c : Cmd) (s : State) : Except Status (List Word × State) :=
  let oper := operList s
  let now := s.time.nt.toNat
  let zero : GateList := ⟨0, 0, []⟩
  let o := oper.getD zero
  let g := match oper with | some l => gateAt l now | none => (0, 0xFF#8, 0)
  let adm := match s.traffic.admin with | some a => (a.list.entries.length, 1, a.x) | none => (0, 0, 0#64)
  let cycles := match s.traffic.oper with
    | some (l, x) => if now < x.toNat then 0 else (now - x.toNat) / (max 1 l.cycle.toNat) + 1
    | none => 0
  .ok ([W (o.entries.length + adm.1 * 2 ^ 9 + adm.2.1 * 2 ^ 18)] ++ words64 o.base ++ words64 o.cycle ++ words64 adm.2.2
    ++ [W (g.1 + g.2.1.toNat * 2 ^ 8 + min s.traffic.stranded 255 * 2 ^ 16), W cycles], s)

def execGatelistStatus (p : Packet) (s : State) : Out :=
  .next (plazaRun 0x604 (lenIs 0) (immediate gatelistStatusRun) p s)

/-- The swap at X (R286, R288, R291). -/
def gateSwap (s : State) : State :=
  match s.traffic.admin with
  | none => s
  | some a =>
    if s.time.nt.toNat < a.x.toNat then s
    else
      let gone (f : TxFrame) : Bool :=
        (f.stage = .queued || f.stage = .backOff) &&
          neverHolds a.result s.traffic.queues[f.queue].cls (usUp (occupancy f s))
      let s1 := { s with traffic.oper := a.result.map (fun l => (l, a.x)), traffic.admin := none,
                         traffic.stranded := s.link.frames.countP gone,
                         link.frames := s.link.frames.map fun f => { f with stranded := gone f } }
      raise 0x070 ([W (min a.k 0xFFFFFFFF)] ++ words64 a.x
        ++ [W (b2n a.late + (if a.clear then 0 else a.list.entries.length) * 2)]) s1

def execGateSwapped (s : State) : Out := .next (if s.awake then gateSwap s else s)

/-! ### Airtime budgets (R292-R298) -/

/-- The use u of a sub-band in µs: the current bucket and the N before it (R292). -/
def useOf (i : Fin 16) (s : State) : Nat := ((s.traffic.accounts[i].buckets).take (s.traffic.n + 1)).sum

/-- The allowance A in µs, and A_frame (R292): W is N × S seconds, so both products are whole. -/
def allowance (i : Fin 16) (s : State) : Nat := s.traffic.accounts[i].limit * (s.traffic.n * s.traffic.s)
def frameAllowance (i : Fin 16) (s : State) : Nat :=
  allowance i s - s.traffic.accounts[i].reserve * (s.traffic.n * s.traffic.s)

/-- FRAME_CREDIT: A_frame − u, signed (R297). -/
def frameCredit (i : Fin 16) (s : State) : Int := (frameAllowance i s : Int) - useOf i s

/-- A signed µs value as a word; outside a signed word's range the manual states no value (log 32). -/
def signedUs (x : Int) (s : State) : Word × State :=
  if -(2 ^ 31) ≤ x ∧ x < 2 ^ 31 then (WI x, s) else drawWord s

/-- BUDGET_LOW when the frame credit falls below its threshold; armed again once it has risen above (R298). -/
def checkLow (i : Fin 16) (s : State) : State :=
  let a := s.traffic.accounts[i]
  let credit := frameCredit i s
  let level : Int := a.low * frameAllowance i s
  if credit * 1000 < level then
    if a.lowRaised then s
    else
      let w := signedUs credit { s with traffic.accounts := s.traffic.accounts.set i { a with lowRaised := true } }
      raise 0x040 [W i.val, w.1] w.2
  else if level < credit * 1000 && a.lowRaised then
    { s with traffic.accounts := s.traffic.accounts.set i { a with lowRaised := false } }
  else s

/-- BUDGET_LOW judged for every sub-band. -/
def checkAllLow (s : State) : State := (List.finRange 16).foldl (fun s i => checkLow i s) s

/-- t µs charged to a sub-band's current bucket (R292, R293). -/
def charge (i : Fin 16) (t : Nat) (s : State) : State :=
  let a := s.traffic.accounts[i]
  let b := match a.buckets with | [] => [t] | x :: rest => (x + t) :: rest
  checkLow i { s with traffic.accounts := s.traffic.accounts.set i { a with buckets := b } }

/-- t µs returned to the bucket of that number, if it is still counted in u (R293). -/
def refund (i : Fin 16) (t number : Nat) (s : State) : State :=
  let a := s.traffic.accounts[i]
  let j := s.traffic.bucketNo - number
  if s.traffic.n < j then s
  else
    checkLow i { s with traffic.accounts :=
      s.traffic.accounts.set i { a with buckets := a.buckets.set j (a.buckets.getD j 0 - t) } }

/-- Whether t µs fit now (R293). -/
def budgetFits (i : Fin 16) (t : Nat) (ack : Bool) (s : State) : Bool :=
  decide (useOf i s + t ≤ if ack then allowance i s else frameAllowance i s)

/-- The recovery instant of R294 in elapsed time: the earliest bucket roll after which t µs fit, with no further use;
none if they never fit. -/
def recovery (i : Fin 16) (t : Nat) (s : State) : Option Nat :=
  ((List.range (s.traffic.n + 1)).find? fun j =>
      decide ((((s.traffic.accounts[i].buckets).take (s.traffic.n - j)).sum) + t ≤ frameAllowance i s)).map
    fun j => secU ((s.traffic.bucketNo + j + 1) * s.traffic.s)

/-- One bucket roll (R292): the current bucket begins empty. -/
def rollBuckets (s : State) : State :=
  { s with traffic.bucketNo := s.traffic.bucketNo + 1
           traffic.accounts := s.traffic.accounts.map fun a => { a with buckets := (0 :: a.buckets).take (s.traffic.n + 1) } }

/-- The number of the bucket of an instant of elapsed time. -/
def bucketOf (s : State) : Nat := s.elapsed.now.toNat / secU (max 1 s.traffic.s)

/-- Every bucket roll due by now, as the buckets age over a stop (R292, R295, R298). -/
def ageBuckets (s : State) : State :=
  let m := min (bucketOf s - s.traffic.bucketNo) (s.traffic.n + 1)
  if bucketOf s ≤ s.traffic.bucketNo then s
  else checkAllLow { s with
    traffic.bucketNo := bucketOf s,
    traffic.accounts := s.traffic.accounts.map fun a => { a with buckets := (List.replicate m 0 ++ a.buckets).take (s.traffic.n + 1) } }

/-- A bucket roll at a multiple of S of elapsed time (R276, R292, R298). -/
def bucketRoll (s : State) : State :=
  if s.traffic.bucketNo < bucketOf s then checkAllLow (rollBuckets s) else s

def execBucketRoll (s : State) : Out := .next (bucketRoll s)

/-- The budget journal as written now (R295). -/
def journalNow (s : State) : BudgetJournal :=
  { n := s.traffic.n, s := s.traffic.s,
    accounts := (List.finRange 16).map fun i => (allowance i s, s.traffic.accounts[i].buckets),
    nt := s.time.nt, elapsed := s.elapsed.now, number := s.traffic.bucketNo }

/-- A journal write, which a brown-out warning defers (R295). -/
def budgetWrite (s : State) : State :=
  if s.power.bodWarn then { s with traffic.journalDue := true }
  else { s with traffic.journal := some (journalNow s), traffic.journalDue := false }

/-- The write every 60 s of elapsed time (R276, R295). -/
def budgetJournalWrite (s : State) : State :=
  if s.inRun && decide (s.traffic.journalAt.toNat / secU 60 < s.elapsed.now.toNat / secU 60) then
    budgetWrite { s with traffic.journalAt := s.elapsed.now }
  else s

def execBudgetJournalWrite (s : State) : Out := .next (budgetJournalWrite s)

/-- The buckets restored from the last write (R295): the remaining credit at the write is added to the bucket current at
it; `aged`: the elapsed time since the write moves them. With no write ever made they stay as they are, empty after a reset (DESIGN
CHOICE, log 71: R295 does not say). -/
def budgetRestore (aged : Bool) (s : State) : State :=
  match s.traffic.journal with
  | none => s
  | some j =>
    let now := bucketOf { s with traffic.s := j.s }
    let moved := if aged then now - j.number else 0
    let one (i : Fin 16) (a : Account) : Account :=
      let r := j.accounts.getD i.val (0, [])
      let u := (r.2.take (j.n + 1)).sum
      let full := match r.2 with | [] => [r.1 - u] | x :: rest => (x + (r.1 - u)) :: rest
      { a with buckets := ((List.replicate moved 0) ++ full).take (j.n + 1), lowRaised := false }
    { s with traffic.n := j.n, traffic.s := j.s, traffic.bucketNo := now,
             traffic.accounts := Vector.ofFn fun i => one i s.traffic.accounts[i] }

/-- The charges of what is on the air or decided, moved with the whole use into the bucket of that number (R293, R296). -/
def moveCharges (now : Nat) (s : State) : State :=
  let ack (a : AckDue) : AckDue := match a.verdict with | .send b t _ => { a with verdict := .send b t now } | _ => a
  { s with link.frames := s.link.frames.map fun f => { f with charged := f.charged.map fun c => (c.1, c.2.1, now) },
           link.acks := s.link.acks.map ack, link.ackOnAir := s.link.ackOnAir.map ack }

/-- The whole present use moved into the new current bucket when N or S changes (R296). -/
def setWindow (n sec : Nat) (s : State) : State :=
  if n = s.traffic.n && sec = s.traffic.s then s
  else
    let acc := Vector.ofFn fun i => { s.traffic.accounts[i] with buckets := [useOf i s] }
    let now := s.elapsed.now.toNat / secU (max 1 sec)
    moveCharges now { s with traffic.n := n, traffic.s := sec, traffic.accounts := acc, traffic.bucketNo := now }

/-- The limits of a load, sub-band after sub-band from FIRST (R296). -/
def setLimits : Nat → List Word → State → State
  | i, l :: r :: rest, s =>
    let k : Fin 16 := Fin.ofNat 16 i
    let a := { s.traffic.accounts[k] with limit := fld l 19 0, reserve := fld r 19 0, low := fld r 31 20 }
    setLimits (i + 1) rest { s with traffic.accounts := s.traffic.accounts.set k a }
  | _, _, s => s

/-- The limit words of BUDGET_LOAD in range (R296). -/
def limitsOk : List Word → Bool
  | l :: r :: rest =>
    onlyBits l 0xFFFFF#32 && decide (1 ≤ l.toNat) && decide (l.toNat ≤ 1000000) && decide (fld r 19 0 ≤ l.toNat)
      && decide (fld r 31 20 ≤ 1000) && limitsOk rest
  | _ => true

/-- A budget load applied (R296). -/
def applyBudget (ps : List Word) (s : State) : State :=
  checkAllLow (setLimits (fld (param ps 1) 3 0) (ps.drop 2)
    (setWindow (fld (param ps 1) 23 16) (fld (param ps 2) 11 0) s))

/-- The budget in force as the settings journal keeps it, with the parameter words of a load that gave it whole (R296). -/
def budgetInForce (ps : Option (List Word)) (s : State) : BudgetItem :=
  { n := s.traffic.n, s := s.traffic.s, limits := s.traffic.accounts.toList.map fun a => ⟨a.limit, a.reserve, a.low⟩, words := ps }

def budgetLoadRun (c : Cmd) (s : State) : Except Status (List Word × State) :=
  let w1 := param c.ps 1
  let w2 := param c.ps 2
  let n := fld w1 23 16
  let sec := fld w2 11 0
  let nsub := fld w1 8 4
  let bad := !onlyBits w1 0x00FF01FF#32 || !onlyBits w2 0xFFF#32 || nsub = 0 || decide (16 < nsub)
    || decide (16 < fld w1 3 0 + nsub) || n = 0 || decide (120 < n) || sec = 0 || decide (3600 < sec)
    || decide (4000 < n * sec) || !limitsOk (c.ps.drop 2)
  match firstFail [(bad, .badParam), (s.power.bodWarn, .brownoutHold)] with
  | some st => .error st
  | none =>
    let s1 := applyBudget c.ps s
    let item := budgetInForce (if nsub = 16 then some c.ps else none) s1
    let s2 := extendMr 3 0x33#8 (digestWords c.ps) { s1 with upd.settings.budget := some item }
    .ok ([], budgetWrite s2)

def execBudgetLoad (p : Packet) (s : State) : Out :=
  .next (plazaRun 0x605 (fun ps => decide (2 ≤ ps.length) && ps.length = 2 + 2 * fld (param ps 1) 8 4)
    (immediate budgetLoadRun) p s)

/-- The sub-band that a frame's next attempt is charged to (R121, R293). -/
def frameBand (f : TxFrame) (s : State) : Option (Fin 16) :=
  s.radio.region.bind fun r => admitBand r (profileFor f s)

def budgetReadRun (c : Cmd) (s : State) : Except Status (List Word × State) :=
  let w := param c.ps 1
  if !onlyBits w 0xF#32 then .error .badParam
  else
    let i : Fin 16 := Fin.ofNat 16 (fld w 3 0)
    let u := useOf i s
    let left := secU ((s.traffic.bucketNo + 1) * s.traffic.s) - s.elapsed.now.toNat
    let held := s.link.frames.countP fun f => f.held && frameBand f s = some i
    let f := signedUs (frameCredit i s) s
    let a := signedUs ((allowance i s : Int) - u) f.2
    .ok ([W s.traffic.accounts[i].limit, W u, f.1, a.1, W (ceilDiv (left * 1000000) (2 ^ 32)),
          W (s.traffic.accounts[i].buckets.getD s.traffic.n 0), W (min held 255)], a.2)

def execBudgetRead (p : Packet) (s : State) : Out :=
  .next (plazaRun 0x606 (lenIs 1) (immediate budgetReadRun) p s)

/-! ### LEDGER_READ (R308) -/

/-- The words of one scope. -/
def ledgerWords (l : LedgerScope) : List Word :=
  words64 l.submitted ++ words64 l.pending ++ words64 l.inFlight ++ l.outcomes.toList.flatMap words64

/-- All frames: the two scopes together (R308). -/
def LedgerScope.add (a b : LedgerScope) : LedgerScope :=
  { submitted := a.submitted + b.submitted, pending := a.pending + b.pending, inFlight := a.inFlight + b.inFlight,
    outcomes := Vector.ofFn fun i => a.outcomes[i] + b.outcomes[i] }

def ledgerReadRun (c : Cmd) (s : State) : Except Status (List Word × State) :=
  let w := param c.ps 1
  if !onlyBits w 0x3#32 || fld w 1 0 = 3 then .error .badParam
  else .ok (ledgerWords (match fld w 1 0 with
    | 0 => s.ledger.app.add s.ledger.fw | 1 => s.ledger.app | _ => s.ledger.fw), s)

def execLedgerRead (p : Packet) (s : State) : Out :=
  .next (plazaRun 0x004 (lenIs 1) (immediate ledgerReadRun) p s)

end Sys2Proof.Machine
end

