-- ==== Sys2Proof/Machine/Radio.lean ====
section
/-! DEFINITION. The radio front end (04_radio_front_end): turnarounds, the radio states, calibration, and its commands. -/

namespace Sys2Proof.Machine
open Sys2Proof

/-! ### Sequences and turnarounds (R103-R107), in units of 125 ns -/

/-- The length of a sequence (R104). -/
def seqUnits (q : List FemStep) : Nat := (q.map fun st => st.delay.toNat).sum

/-- The length of TX_ON up to its RAMP step (R104). -/
def rampUnits : List FemStep → Nat
  | [] => 0
  | st :: rest => if st.ramp then st.delay.toNat else st.delay.toNat + rampUnits rest

/-- The settling time of R100 and R105, 60 µs. -/
def settleUnits : Nat := 480

/-- T_turn (R105). -/
def turnUnits (fem : Fem) (rampUs : Nat) (retune : Bool) : Nat :=
  max (seqUnits fem.rxOff) (if retune then settleUnits else 0) + rampUnits fem.txOn + 8 * rampUs

/-- T_back (R106). -/
def backUnits (fem : Fem) (rampUs : Nat) (retune : Bool) : Nat :=
  8 * rampUs + seqUnits fem.txOff + max (seqUnits fem.rxOn) (if retune then settleUnits else 0) + 80

/-- The limit of R107, 120 µs with the retune included. -/
def turnsOk (fem : Fem) (rampUs : Nat) : Bool :=
  decide (turnUnits fem rampUs true ≤ 960) && decide (backUnits fem rampUs true ≤ 960)

/-- A sequence run: each step sets the pins in its mask (R104). -/
def runSeq (q : List FemStep) (s : State) : State :=
  femPins (q.foldl (fun l st => (l &&& ~~~st.mask) ||| (st.level &&& st.mask)) s.radio.fem.pins) s

/-- The shape that the next transmission uses (R119). -/
def shapeFor (s : State) : TxShape := s.radio.shapeNext.getD s.radio.shape

/-- RAMP_US of the next transmission. -/
def rampUs (s : State) : Nat := (shapeFor s).rampUs.toNat

/-- 125 ns units in NT fraction units, rounded up. -/
def unitsU (n : Nat) : Nat := ceilDiv (n * 2 ^ 32) 8000000

/-- Whether a transmission on a carrier needs a retune (R100). -/
def needsRetune (carrier : Nat) (s : State) : Bool :=
  match s.rx.blvd, s.rx.plan, s.rx.alley with
  | some _, some p, _ => decide (carrier ≠ p.centre)
  | none, _, some a => decide (carrier ≠ s.phy.profiles[a.profile].carrier)
  | _, _, _ => true

/-- From choice to start instant, in 125 ns units, in the present radio state (R105, R109, R113). The time that a running
calibration step still takes is at most 180 µs. -/
def prepUnits (carrier : Nat) (s : State) : Nat :=
  match s.radio.mode with
  | .rx => turnUnits s.radio.fem (rampUs s) (needsRetune carrier s)
  | .cal => (if s.radio.cal.running.isSome then 1440 else 0) + settleUnits + rampUnits s.radio.fem.txOn + 8 * rampUs s
  | _ => settleUnits + rampUnits s.radio.fem.txOn + 8 * rampUs s

/-! ### Settling (R99, R109, R113-R115) -/

/-- The shape loaded for the next transmission takes effect (R119). -/
def takeShape (s : State) : State := { s with radio.shape := shapeFor s, radio.shapeNext := none }


/-- From IDLE toward a transmission (R109). -/
def idleToTx (carrier : Nat) (for_ : SettleFor) (s : State) : State :=
  { startSettle carrier for_ (takeShape s) with radio.mode := .settle, radio.backToRx := receptionInForce s }

/-- From transmission, or from a ramp not started: TX_OFF, then the return with the retune to the receptions, if one is needed
(R106, R109). A return that awaits an ack stays on the frame's carrier. -/
def startReturn (s : State) : State :=
  let away := s.radio.settleFor.isSome || s.radio.loNominal ≠ rxFrequency s
  let s1 := runSeq s.radio.fem.txOff { s with radio.mode := .turnRx, radio.settleFor := none, radio.air := [] }
  if receptionInForce s && (awaiting s).isNone && away then { startSettle (rxFrequency s) .back s1 with radio.moved := false }
  else s1

/-- A transmission given up before its ramp: the return from TURN_TX, or from SETTLE the receptions or IDLE (R105, R109, R114). -/
def giveUpTx (s : State) : State :=
  if s.radio.mode = .turnTx then startReturn s
  else if receptionInForce s then settleRx { s with radio.speculative := false }
  else toIdle { s with radio.speculative := false }

/-- The slip of a frame at the end of settling exceeds its late tolerance (R113). -/
def lateAtSettle (f : TxFrame) (startAt : Nat) : Bool :=
  match f.start with
  | some t => f.attempts = 0 && decide (t.toNat + usU f.lateTol < startAt)
  | none => false

/-- The oscillator is set for a prepared frame, whose ramp can end so many 125 ns units from now: it is sent unless it would be
late (R104, R113). -/
def readyFrame (fid units : Nat) (s : State) : State :=
  match frameById fid s with
  | none => startReturn s
  | some fr =>
    if fr.stage ≠ .prepared then startReturn s
    else
      let start := max fr.startAt.toNat (s.time.nt.toNat + unitsU units)
      if lateAtSettle fr start then startReturn (endFrame fid .late s)
      else runSeq s.radio.fem.txOn (updateFrame fid (fun x => { x with startAt := BitVec.ofNat 64 start }) s)

/-- RX_OFF and the retune have finished: TX_ON runs (R105). -/
def readyTx (for_ : SettleFor) (units : Nat) (s : State) : State :=
  match for_ with
  | .tx fid => readyFrame fid units s
  | _ => runSeq s.radio.fem.txOn s

/-- Units from the start of TX_ON to the end of the ramp (R104, R105). -/
def onUnits (s : State) : Nat := rampUnits s.radio.fem.txOn + 8 * s.radio.shape.rampUs.toNat

/-- From reception to transmission (R105, R108): RX_OFF, the retune if one is needed, and the blank. -/
def turnToTx (carrier : Nat) (for_ : SettleFor) (s : State) : State :=
  let s1 := runSeq s.radio.fem.rxOff (startBlank (takeShape { s with radio.mode := .turnTx, radio.backToRx := true, radio.settleFor := none }))
  if needsRetune carrier s || s.radio.loNominal ≠ carrier then startSettle carrier for_ s1
  else readyTx for_ (seqUnits s.radio.fem.rxOff + onUnits s1) s1

/-- The end of TURN_RX (R106, R108, R109), its retune settled. While an ack is awaited the return holds the frame's carrier; the
blank goes on if the receptions then need a retune (R232). -/
def turnRxDone (s : State) : State :=
  if s.radio.mode ≠ .turnRx || s.radio.settleFor.isSome then s
  else
    let s1 := { s with radio.speculative := false }
    match awaiting s1 with
    | some f =>
      let s2 := runSeq s1.radio.fem.rxOn { s1 with radio.mode := .rx }
      if receptionInForce s2 && needsRetune f.prof.carrier s2 then s2 else endBlank s2
    | none =>
      let s2 := endBlank s1
      if !receptionInForce s2 then toIdle s2
      else if s2.radio.moved || s2.radio.loNominal ≠ rxFrequency s2 then settleRx s2
      else runSeq s2.radio.fem.rxOn { s2 with radio.mode := .rx }

/-- The ack window has closed (R232): the radio leaves the frame's carrier for its receptions, or becomes IDLE. -/
def leaveWindow (carrier : Nat) (s : State) : State :=
  if s.radio.mode ≠ .rx || (awaiting s).isSome then s
  else if receptionInForce s then (if needsRetune carrier s || s.radio.moved then settleRx s else endBlank s)
  else toIdle (endBlank s)

def execTurnRxDone (s : State) : Out := .next (turnRxDone s)

/-- The synthesiser has settled (R104, R106, R109, R113). -/
def settleDone (s : State) : State :=
  match s.radio.settleFor with
  | none => s
  | some f =>
    let s1 := { s with radio.lo := s.radio.loAsked, radio.loNominal := s.radio.askedHz, radio.settleFor := none, radio.lockFailed := false }
    match s.radio.mode with
    | .settle =>
      if f = .rx then runSeq s1.radio.fem.rxOn (endBlank { s1 with radio.mode := .rx })
      else readyTx f (onUnits s1) (startBlank { s1 with radio.mode := .turnTx })
    | .turnTx => readyTx f (onUnits s1) s1
    | .turnRx => s1
    | _ => s

def execSettleDone (s : State) : Out := .next (settleDone s)

/-- The OSC point nearest to a frequency, of 16 spread evenly over 410 to 1,020 MHz (R110, R114); of two equally near the lower
(DESIGN CHOICE, log 69). -/
def nearestPoint (hz : Nat) : Nat := min 15 ((30 * (hz - 410000000) + 609999999) / (2 * 610000000))

/-- One OSC step for the point nearest to the frequency asked for (R110, R114, R117). -/
def oscStep (result : Word) (s : State) : State :=
  let r := s.radio.cal.results[1]
  let r1 := { r with words := r.words.set (nearestPoint s.radio.askedHz) (result &&& 0xFFFFFF#32) }
  femPins s.radio.fem.idleLevel { s with radio.cal.results := s.radio.cal.results.set 1 r1 }

/-- No lock within 100 µs of starting to settle (R114): an OSC step for the nearest point, with its result, and a second try; then the
unlock is counted, and the frame returns to the head of its queue, or the reception tries again. -/
def lockTimeout (result : Word) (s : State) : State :=
  match s.radio.settleFor with
  | none => s
  | some f =>
    if s.radio.mode ≠ .settle && s.radio.mode ≠ .turnTx && s.radio.mode ≠ .turnRx then s
    else if !s.radio.lockFailed then { startSettle s.radio.askedHz f (oscStep result s) with radio.lockFailed := true }
    else
      let s1 := { s with rx.radioCnt := s.rx.radioCnt.set 0 (satInc s.rx.radioCnt[0]), radio.lockFailed := false }
      match f with
      | .rx => startSettle (rxFrequency s1) .rx s1
      | .back => startSettle (rxFrequency s1) .back s1
      | .ack =>
        giveUpTx (match s1.link.acks with
          | a :: rest => (match a.verdict with
            | .send b t n => bumpPipe .ackSuppressed (refund b t n { s1 with link.acks := rest })
            | _ => s1)
          | [] => s1)
      | .tx fid => giveUpTx (sendBack fid s1)

def execSynthLockTimeout (osc : Word) (s : State) : Out := .next (lockTimeout osc s)

/-! ### Calibration (R110-R112, R116) -/

/-- The place of a calibration in SELECT (R110). -/
def CalKind.idx : CalKind → Fin 4
  | .filter => 0 | .osc => 1 | .offset => 2 | .image => 3

/-- Steps of each calibration (R110). -/
def calSteps : CalKind → Nat
  | .filter => 1 | .osc => 16 | .offset => 6 | .image => 4

/-- The next calibration that is due, in the order of R110. -/
def nextCal (s : State) : Option CalKind :=
  [CalKind.filter, .osc, .offset, .image].find? fun k => s.radio.cal.due.getLsbD k.idx

/-- The four IMAGE points in hertz (R110). -/
def imagePoints (s : State) : List Nat :=
  let e := match s.radio.region with
    | some r => ((r.bands.map SubBand.lowHz).foldl min 1020000000, (r.bands.map SubBand.highHz).foldl max 410000000)
    | none => (410000000, 1020000000)
  let d := e.2 - e.1
  [e.1, e.1 + (2 * d + 3) / 6, e.1 + (4 * d + 3) / 6, e.2]

/-! ### Armed radio events (R476) -/

/-- The device's drift bound in its present bin, in units of 2^-32 (R42, R260). -/
def ownBound (s : State) : Nat := s.time.bins[s.time.tempBin].bound.toNat

/-- A bound of 0.1 ppm units in units of 2^-32. -/
def boundUnits (t : Nat) : Nat := (roundDiv ((t : Int) * 2 ^ 32) 10000000).toNat

/-- The uncorrected remainder of a slew in progress, in fraction units (R39, R260). -/
def slewLeft (s : State) : Nat :=
  match s.time.slew with | some w => w.delta.natAbs - w.done / 2 ^ 64 | none => 0

/-- The guard g at an instant, in fraction units (R260). -/
def guardAt (r : Rdv) (x : Nat) (s : State) : Nat :=
  let b := max (ownBound s) (boundUnits r.peerBound)
  2 * b * (x - r.lastContact.toNat) / 2 ^ 32 + usU 200 + slewLeft s

/-- The beacon instant t_n (R254). -/
def beaconInstant (c : BeaconConfig) (n : Nat) : Nat := n * c.interval * 2 ^ 32 / 1000 + c.bOffset.toNat

/-- The first beacon instant after a time. -/
def beaconAfter (c : BeaconConfig) (t : Nat) : Nat :=
  let n := (t - c.bOffset.toNat) * 1000 / (max 1 c.interval * 2 ^ 32)
  if t < beaconInstant c n then beaconInstant c n
  else if t < beaconInstant c (n + 1) then beaconInstant c (n + 1) else beaconInstant c (n + 2)

/-- A fixed transmission start lies at or before an instant: a timed START, a beacon start, or a rendezvous slot less its guard
(R260, R476). -/
def fixedStartBefore (h : Nat) (s : State) : Bool :=
  let now := s.time.nt.toNat
  (s.link.frames.any fun f => f.timedQueued && (match f.start with | some t => decide (now ≤ t.toNat) && decide (t.toNat ≤ h) | none => false))
    || (s.rdv.cfg.send && decide (beaconAfter s.rdv.cfg now ≤ h))
    || s.rdv.rdvs.any fun r => let x := r.slotAfter s.time.nt; decide (x - guardAt r x s ≤ h)

/-- A fixed transmission start lies within the next 2 ms (R112, R418, R476). -/
def radioEventSoon (s : State) : Bool := fixedStartBefore (s.time.nt.toNat + msU 2) s

/-- An ack is due, being decided, or on the air. -/
def ackPendingNow (s : State) : Bool := !s.link.acks.isEmpty || s.link.ackOnAir.isSome || !s.rx.pipe.isEmpty

/-- A transmission is in flight (R112, R119, R226). -/
def txInFlight (s : State) : Bool := s.link.frames.any fun f => f.inFlight

/-- The Alley transmit path runs a LOOPBACK (R487). -/
def loopRf (s : State) : Bool := match s.bg.loop with | some o => !o.kerb | none => false

/-- A calibration step may start (R112): during BG_PAUSE only those of a full calibration (R481). -/
def calAdmitted (s : State) : Bool :=
  s.isUsable dRFFE && !loopRf s && (s.bg.pause.isNone || s.radio.cal.full) && s.radio.cal.running.isNone && (s.radio.mode = .idle || s.radio.mode = .rx || s.radio.mode = .cal)
    && !anyCommitted s && !ackPendingNow s && !txInFlight s && !radioEventSoon s

/-- A calibration step starts (R103, R109, R110, R112): provisional contexts are released. -/
def calStep (s : State) : State :=
  match nextCal s with
  | none => s
  | some k =>
    if !calAdmitted s then s
    else
      let entered := if s.radio.mode = .cal then s.radio.cal.enteredFrom else s.radio.mode
      let s1 := releaseWhere (fun _ x => x.provisional) .calibration s
      femPins s1.radio.fem.idleLevel
        { s1 with radio.mode := .cal, radio.cal.enteredFrom := entered,
                  radio.cal.running := some (k, s.radio.cal.progress[k.idx]) }

def execCalStep (s : State) : Out := .next (calStep s)

/-- The word that a step's result leaves in its block (R117). -/
def stepWord (k : CalKind) (w : Word) : Word :=
  match k with | .filter => w &&& 0xFF#32 | .osc => w &&& 0xFFFFFF#32 | _ => w

/-- CAL_DONE (R116). -/
def calDone (o : CalRunOp) (st : Status) (s : State) : State :=
  completeEvent o.port 0x0B0 o.handle [W o.handle.toNat, W (statusCode st + o.done.toNat * 2 ^ 16)]
    { s with radio.cal.calRun := none }

/-- A calibration completed in full: its results, and what it completes (R110, R111, R116, R117). TEMP is the RF sensor's reading
in whole degrees, rounded down (DEDUCED from R443, log 69). -/
def finishCal (k : CalKind) (words : List Word) (s : State) : State :=
  let bit : BitVec 4 := 1#4 <<< k.idx.val
  let block := if k = .image then (imagePoints s).map W ++ words else words
  let c := s.radio.cal
  let due := c.due &&& ~~~bit
  let full := c.full && due ≠ 0#4
  let c1 := { c with
    results := c.results.set k.idx { words := block, temp := BitVec.ofInt 8 (s.power.rfTemp / 10), nt := s.time.nt, valid := true },
    due, periodic := c.periodic &&& ~~~bit, progress := c.progress.set k.idx 0, partials := c.partials.set k.idx [], full,
    oscTemp := if k = .osc then s.power.rfTemp else c.oscTemp, unchanged := c.unchanged || k = .osc }
  let s1 := { s with radio.cal := c1 }
  match c1.calRun with
  | none => s1
  | some o =>
    if !o.select.getLsbD k.idx then s1
    else
      let o1 := { o with done := o.done ||| bit }
      let s2 := { s1 with radio.cal.calRun := some o1 }
      if o1.done &&& o1.select = o1.select then calDone o1 .ok s2 else s2

/-- The radio after a step (R109, R111, R113): a chosen transmission goes on, a full calibration stays in CAL, else the
state it was entered from. -/
def afterStep (s : State) : State :=
  match s.radio.settleFor with
  | some (.tx fid) =>
    match frameById fid s with
    | some f =>
      if s.radio.cal.enteredFrom = .rx && receptionInForce s then turnToTx f.prof.carrier (.tx fid) { s with radio.mode := .rx }
      else idleToTx f.prof.carrier (.tx fid) { s with radio.mode := .idle }
    | none => { s with radio.mode := s.radio.cal.enteredFrom, radio.settleFor := none }
  | _ =>
    if s.radio.cal.full then s
    else if receptionInForce s then
      (if s.radio.cal.enteredFrom = .rx && !s.radio.moved && s.radio.loNominal = rxFrequency s then
        runSeq s.radio.fem.rxOn { s with radio.mode := .rx } else settleRx s)
    else { s with radio.mode := .idle }

/-- Milliseconds of an interval of elapsed time, rounded down. -/
def msBetween (a b : DWord) : Nat := (b.toNat - a.toNat) * 1000 / 2 ^ 32

/-- A drain ends with the step it was made for: detection and choice resume (R477, R483). -/
def endDrain (s : State) : State :=
  match s.bg.drain with
  | some t => { s with bg.drain := none, bg.urgent := s.bg.urgent &&& ~~~8#5, bg.drainMs := satAdd s.bg.drainMs (msBetween t s.elapsed.now) }
  | none => { s with bg.urgent := s.bg.urgent &&& ~~~8#5 }

/-- A calibration step ends with its results (R109, R110). -/
def calStepEnd (result : List Word) (s : State) : State :=
  match s.radio.cal.running with
  | none => s
  | some (k, i) =>
    let words := s.radio.cal.partials[k.idx] ++ [stepWord k (result.headD 0#32)]
    let s1 := endDrain { s with radio.cal.running := none }
    afterStep (if i + 1 < calSteps k then
        { s1 with radio.cal.progress := s1.radio.cal.progress.set k.idx (i + 1),
                  radio.cal.partials := s1.radio.cal.partials.set k.idx words }
      else finishCal k words s1)

def execCalStepEnd (result : List Word) (s : State) : Out := .next (calStepEnd result s)

/-- A CAL_RUN whose WAIT_MAX has passed (R116). -/
def calRunExpired (s : State) : State :=
  match s.radio.cal.calRun with
  | some o => if elapsedBy o.since s.elapsed.now (msU o.waitMax.toNat) then calDone o .expired s else s
  | none => s

def execCalRunExpired (s : State) : Out := .next (calRunExpired s)

/-- CAL_PERIOD seconds of run with RFFE on since the last periodic set became due (R112), with the sample of R42. -/
def calPeriodExpiry (tempTenths : Int) (sensors : Sensors) (s : State) : State :=
  let p := secU s.radio.rfNow.calPeriod.toNat
  if s.awake && s.on dRFFE && decide (p ≤ s.radio.cal.periodCount.toNat) then
    let c := s.radio.cal
    sampleTemp tempTenths sensors { s with radio.cal := { c with
      due := c.due ||| 0b1101#4, periodic := 0b1101#4, periodCount := c.periodCount - BitVec.ofNat 64 p,
      dueSince := if c.periodic = 0#4 then s.elapsed.now else c.dueSince } }
  else s

def execCalPeriodExpiry (tempTenths : Int) (sensors : Sensors) (s : State) : Out := .next (calPeriodExpiry tempTenths sensors s)

/-- RFFE has come on (R109, R111): the saved results are reapplied, or a full calibration begins. -/
def rffeOn (s : State) : State :=
  let c := s.radio.cal
  let near := decide ((s.power.rfTemp - c.oscTemp).natAbs ≤ 10 * s.radio.rfNow.tempDelta.toNat)
  let s1 := femPins s.radio.fem.idleLevel s
  if (c.results.toList.all fun r => r.valid) && near && c.unchanged && !c.mustFull then { s1 with radio.mode := .idle }
  else
    { s1 with radio.mode := .cal, radio.cal := { c with
        full := true, mustFull := false, due := 15#4, enteredFrom := .idle, running := none, periodCount := 0,
        progress := Vector.replicate 4 0, partials := Vector.replicate 4 [] } }

/-- RFFE is switched off (R103, R109): OFF_LEVEL first. -/
def rffeOff (s : State) : State :=
  femPins s.radio.fem.offLevel
    { s with radio.mode := .off, radio.settleFor := none, radio.lo := 0, radio.blanked := false, radio.speculative := false,
             radio.air := [], radio.cal.running := none, radio.cal.full := false, radio.backToRx := false,
             radio.cal.mustFull := s.radio.cal.mustFull || s.radio.cal.full }

/-! ### The radio commands (R115-R122) -/

/-- A radio command: one that arrives during a full calibration waits in its Lane (R111). -/
def radioRun (code : Nat) (lenOk : List Word → Bool) (f : Cmd → State → Except Status (List Word × State)) (p : Packet)
    (s : State) : State :=
  if s.radio.cal.full then s else plazaRun code lenOk (immediate f) p s

/-- HFXO_OUT as the enable of a TCXO (R496): with REF = 1 in use it is high from the wake edge to stop entry and throughout run;
it is an output on VIO. None with a crystal, which it then drives. -/
def hfxoOut (s : State) : Option Bool :=
  if s.radio.refInUse then some (s.power.vio && s.power.phase ≠ .stop) else none

/-- RF_CONFIG's fields, or none where a value is out of range (R115). -/
def rfOf (ps : List Word) : Option RfConfig :=
  let w1 := param ps 1
  let w2 := param ps 2
  let w3 := param ps 3
  let w4 := param ps 4
  let w5 := param ps 5
  if !onlyBits w1 0xFF3F#32 || fld w1 5 4 = 3 || decide (50000 < w2.toInt.natAbs) || decide (80 < fld w3 7 0)
      || (!bitAt w1 1 && fld w3 7 0 ≠ 0) || decide (20 < fld w3 15 8) || decide (60 < fld w3 23 16)
      || decide (20 < fld w3 31 24) || !onlyBits w4 0xFFFF#32 || w4 = 0 || decide (10000 < w4.toNat)
      || !onlyBits w5 0xFFFF#32 || decide (fld w5 7 0 < 2) || decide (20 < fld w5 7 0) || decide (fld w5 15 8 < 10) then none
  else some { ref := bitAt w1 0, extPa := bitAt w1 1, extLna := bitAt w1 2, lnaBypass := bitAt w1 3,
              freqCorr := BitVec.ofNat 2 (fld w1 5 4), hfxoTrim := BitVec.ofNat 8 (fld w1 15 8), freqPpb := w2,
              extPaGain := BitVec.ofNat 8 (fld w3 7 0), txLoss := BitVec.ofNat 8 (fld w3 15 8),
              extLnaGain := BitVec.ofNat 8 (fld w3 23 16), rxLoss := BitVec.ofNat 8 (fld w3 31 24),
              lateTol := w4.setWidth 16, tempDelta := BitVec.ofNat 8 (fld w5 7 0), calPeriod := BitVec.ofNat 8 (fld w5 15 8) }

def rfConfigRun (c : Cmd) (s : State) : Except Status (List Word × State) :=
  match rfOf c.ps with
  | none => .error .badParam
  | some r =>
    let old := s.radio.rf
    let lna := old.extLna ≠ r.extLna || old.extLnaGain ≠ r.extLnaGain
    .ok ([], { s with radio.rf := r, radio.cal.due := if lna then s.radio.cal.due ||| 4#4 else s.radio.cal.due,
                      radio.cal.unchanged := s.radio.cal.unchanged && old.ref = r.ref })

def execRfConfig (p : Packet) (s : State) : Out := .next (radioRun 0x301 (lenIs 5) rfConfigRun p s)

/-- CAL_RUN (R116). -/
def calRunRun (c : Cmd) (s : State) : State :=
  let w1 := param c.ps 1
  let w2 := param c.ps 2
  match firstFail [(!s.isUsable dRFFE, .domainOff), (!onlyBits w1 0xF#32 || w1 = 0#32 || !onlyBits w2 0xFFFF#32 || w2 = 0#32, .badParam),
      (s.radio.cal.calRun.isSome, .busy), (!canAccept c.port s, .busy)] with
  | some st => finish c st [] s
  | none =>
    let h := takeHandle c.port s
    let sel : BitVec 4 := w1.setWidth 4
    respondAccepted c h.1 { h.2 with
      radio.cal.due := h.2.radio.cal.due ||| sel,
      radio.cal.calRun := some { port := c.port, handle := h.1, select := sel, since := s.elapsed.now, waitMax := w2.setWidth 16 } }

def execCalRun (p : Packet) (s : State) : Out :=
  .next (if s.radio.cal.full then s else plazaRun 0x302 (lenIs 2) calRunRun p s)

/-- The code of a radio state (R109). -/
def modeCode : RadioMode → Nat
  | .off => 0 | .idle => 1 | .cal => 2 | .settle => 3 | .rx => 4 | .turnTx => 5 | .tx => 6 | .turnRx => 7

/-- Words of a block of CAL_READ (R117). -/
def blockLen : Nat → Nat
  | 0 => 1 | 1 => 16 | 2 => 6 | _ => 8

def calReadRun (c : Cmd) (s : State) : Except Status (List Word × State) :=
  let w := param c.ps 1
  if !onlyBits w 0x3#32 then .error .badParam
  else
    let b : Fin 4 := Fin.ofNat 4 (fld w 1 0)
    let r := s.radio.cal.results[b]
    let valid := (List.finRange 4).foldl (fun a i => a + b2n s.radio.cal.results[i].valid * 2 ^ i.val) 0
    let reg := match s.radio.region with | some g => (1, g.id.toNat) | none => (0, 0)
    let q := if r.valid then (r.words, s) else drawWords (blockLen b.val) s
    .ok (W (valid + modeCode s.radio.mode * 16 + reg.1 * 128 + r.temp.toNat * 2 ^ 8 + reg.2 * 2 ^ 16) :: words64 r.nt ++ q.1, q.2)

def execCalRead (p : Packet) (s : State) : Out := .next (radioRun 0x303 (lenIs 1) calReadRun p s)

/-- The taps of TXSHAPE_SET's words 2 to 25 (R119). -/
def firOf (ws : List Word) : Vector (BitVec 16) 48 :=
  Vector.ofFn fun k => let w := ws.getD (k.val / 2) 0#32
    if k.val % 2 = 0 then w.extractLsb' 0 16 else w.extractLsb' 16 16

def txshapeSetRun (c : Cmd) (s : State) : Except Status (List Word × State) :=
  let w := param c.ps 1
  let ramp := fld w 4 0
  match firstFail [(!onlyBits w 0x011F0F1F#32 || decide (ramp < 2) || decide (16 < ramp) || decide (8 < fld w 11 8)
        || decide (16 < fld w 20 16) || !turnsOk s.radio.fem ramp, .badParam),
      (txInFlight s || s.link.ackOnAir.isSome, .busy)] with
  | some st => .error st
  | none =>
    let sh : TxShape := { rampUs := BitVec.ofNat 5 ramp, ofdmWin := BitVec.ofNat 4 (fld w 11 8),
                          chirpTaper := BitVec.ofNat 5 (fld w 20 16),
                          fir := if bitAt w 24 then firOf (c.ps.drop 1) else (shapeFor s).fir }
    .ok ([], { s with radio.shapeNext := some sh })

def execTxshapeSet (p : Packet) (s : State) : Out :=
  .next (plazaRun 0x304 (fun ps => ps.length = if bitAt (param ps 1) 24 then 25 else 1) (immediate txshapeSetRun) p s)

/-- One step word of FEM_SEQ_SET (R118). -/
def femStepOf (w : Word) : FemStep :=
  { mask := BitVec.ofNat 6 (fld w 5 0), level := BitVec.ofNat 6 (fld w 13 8), ramp := bitAt w 14,
    delay := BitVec.ofNat 8 (fld w 23 16) }

/-- The front end with a sequence or the static levels loaded, or none where a value is out of range (R107, R118). -/
def femOf (ps : List Word) (fem : Fem) (ramp : Nat) : Option Fem :=
  let w1 := param ps 1
  let n := fld w1 11 8
  let seq := fld w1 2 0
  if !onlyBits w1 0xF07#32 || decide (4 < seq) then none
  else if seq = 4 then
    let w := param ps 2
    if n ≠ 0 || !onlyBits w 0x3F3F3F#32 then none
    else some { fem with idleLevel := BitVec.ofNat 6 (fld w 5 0), offLevel := BitVec.ofNat 6 (fld w 13 8),
                         drive := BitVec.ofNat 6 (fld w 21 16) }
  else
    let ws := ps.drop 1
    let q := ws.map femStepOf
    let ramps := q.countP fun st => st.ramp
    let new := match seq with
      | 0 => { fem with rxOn := q } | 1 => { fem with rxOff := q } | 2 => { fem with txOn := q } | _ => { fem with txOff := q }
    if n = 0 || decide (8 < n) || !(ws.all fun w => onlyBits w 0x00FF7F3F#32) || ramps ≠ (if seq = 2 then 1 else 0)
        || decide (320 < seqUnits q) || !turnsOk new ramp then none
    else some new

def femSeqSetRun (c : Cmd) (s : State) : Except Status (List Word × State) :=
  match femOf c.ps s.radio.fem (rampUs s) with
  | none => .error .badParam
  | some fem =>
    if s.radio.mode ≠ .off && s.radio.mode ≠ .idle then .error .busy
    else
      let s1 := { s with radio.fem := fem }
      .ok ([], if fld (param c.ps 1) 2 0 = 4 then
        femPins (if s.radio.mode = .off then fem.offLevel else fem.idleLevel) s1 else s1)

def execFemSeqSet (p : Packet) (s : State) : Out :=
  .next (plazaRun 0x305 (fun ps =>
    if fld (param ps 1) 2 0 = 4 then ps.length = 2 else decide (1 ≤ ps.length) && ps.length = 1 + fld (param ps 1) 11 8)
    (immediate femSeqSetRun) p s)

/-- The sub-bands of REGION_LOAD's words. -/
def bandsOf : Nat → List Word → List SubBand
  | n + 1, lo :: hi :: w :: rest =>
    { lowHz := lo.toNat, highHz := hi.toNat, maxPwr := sfld w 7 0, waveforms := BitVec.ofNat 4 (fld w 11 8),
      guardKhz := fld w 23 16 } :: bandsOf n rest
  | _, _ => []

/-- The notches that follow them. -/
def notchesOf : List Word → List (Nat × Nat)
  | c :: w :: rest => (c.toNat, w.toNat) :: notchesOf rest
  | _ => []

/-- No two sub-bands overlap (R120); a shared edge is no overlap. -/
def disjointBands : List SubBand → Bool
  | [] => true
  | b :: rest => (rest.all fun x => decide (x.highHz ≤ b.lowHz) || decide (b.highHz ≤ x.lowHz)) && disjointBands rest

/-- The power words of the sub-bands have their reserved bits 0 (R120). -/
def bandWordsOk : Nat → List Word → Bool
  | n + 1, _ :: _ :: w :: rest => onlyBits w 0x00FF0FFF#32 && bandWordsOk n rest
  | _, _ => true

/-- The region table of REGION_LOAD's parameter words, or none where a value is out of range (R98, R120). -/
def regionOf (ps : List Word) : Option Region :=
  let w1 := param ps 1
  let n := fld w1 4 0
  let m := fld w1 11 8
  let bands := bandsOf n (ps.drop 1)
  let notches := notchesOf (ps.drop (1 + 3 * n))
  if !onlyBits w1 0xFFFF0F1F#32 || n = 0 || decide (16 < n) || decide (8 < m) || !bandWordsOk n (ps.drop 1)
      || !(bands.all fun b => decide (410000000 ≤ b.lowHz) && decide (b.lowHz < b.highHz) && decide (b.highHz ≤ 1020000000)
            && decide (-20 ≤ b.maxPwr) && decide (b.maxPwr ≤ 60))
      || !disjointBands bands || !(notches.all fun x => inRange x.1 0) then none
  else some { id := BitVec.ofNat 16 (fld w1 31 16), bands, notches }

/-- A region table in force, with its measurement (R122, R324). -/
def takeRegion (ps : List Word) (r : Region) (s : State) : State :=
  extendMr 3 0x31#8 (digestWords ps) { s with radio.region := some r }

def regionLoadRun (c : Cmd) (s : State) : Except Status (List Word × State) :=
  match regionOf c.ps with
  | none => .error .badParam
  | some r =>
    if !s.link.frames.isEmpty then .error .busy
    else .ok ([], takeRegion c.ps r { s with radio.cal.due := s.radio.cal.due ||| 8#4, radio.cal.unchanged := false,
                                             upd.settings.region := some c.ps })

def execRegionLoad (p : Packet) (s : State) : Out :=
  .next (radioRun 0x306 (fun ps => decide (1 ≤ ps.length) &&
    ps.length = 1 + 3 * fld (param ps 1) 4 0 + 2 * fld (param ps 1) 11 8) regionLoadRun p s)

end Sys2Proof.Machine
end

