-- ==== Sys2Proof/Machine/Meet.lean ====
section
/-! DEFINITION. What the rendezvous of a link share with frames and receptions (R257-R262): guards, contacts, slots and the
listening window; and the random values that links draw (R231, R317). -/

namespace Sys2Proof.Machine
open Sys2Proof

/-! ### Random values (R317) -/

/-- A random value for a delay: fresh while the DRBG runs, else the last one drawn (R317). -/
def drawRandom (s : State) : Word × State :=
  if s.sec.trngOk then
    let r := drbgWords 1 s
    (r.2.sec.lastRandom, r.2)
  else (s.sec.lastRandom, s)

/-- A random part of n fraction units, 0 to n. -/
def randomUpTo (n : Nat) (s : State) : Nat × State :=
  let r := drawRandom s
  (r.1.toNat % (n + 1), r.2)

/-! ### Rendezvous -/

/-- The rendezvous of a link. -/
def rdvOf (a : BitVec 24) (s : State) : Option Rdv := s.rdv.rdvs.find? fun r => r.short = a

/-- The rendezvous of a link changed. -/
def updateRdv (a : BitVec 24) (f : Rdv → Rdv) (s : State) : State :=
  { s with rdv.rdvs := s.rdv.rdvs.map fun r => if r.short = a then f r else r }

/-- A bound in 0.1 ppm units as BOUND of link control carries it, saturating at 2,000 (R259). -/
def boundTenths (b : Nat) : Nat := min 2000 (roundDiv ((b : Int) * 10000000) (2 ^ 32)).toNat

/-- The guard with which a parent listens: capped at a quarter of the period (R261). -/
def parentGuard (r : Rdv) (x : Nat) (s : State) : Nat := min (guardAt r x s) (r.period.toNat / 4)

/-- The code of a stage (R273). -/
def stageCode : RdvStage → Nat
  | .slots => 0 | .windows => 1 | .scan => 2

/-- RDV_MISSED (R261, R273): `half` in fraction units. -/
def raiseMissed (r : Rdv) (misses at_ half : Nat) (s : State) : State :=
  raise 0x030 ([W (r.short.toNat + min misses 7 * 2 ^ 24 + stageCode r.stage * 2 ^ 27)]
    ++ words64 (BitVec.ofNat 64 at_) ++ [W (inUs half)]) s

/-- A signed error of R255 in whole µs, toward zero (R273; log 72). -/
def errorUs (e : Int) : Int := if e < 0 then -(inUs e.natAbs : Int) else inUs e.natAbs

/-- Contact with the peer of a rendezvous (R260, R261): the instant of contact is taken, the count resets, and contact that
had been lost raises RDV_REACQUIRED with the error `e`, in fraction units here and in µs there (R273). The parent clears the stale
mark. -/
def contact (a : BitVec 24) (t : DWord) (e : Int) (s : State) : State :=
  match rdvOf a s with
  | none => s
  | some r =>
    let met (r : Rdv) : Rdv :=
      { r with misses := 0, lastContact := t, stage := .slots, k := 0, window := r.window.map fun w => (w.1, w.2.1, true),
               slotFrame := if r.slotSent then none else r.slotFrame, slotSent := false }
    let s1 := updateRdv a met s
    let stale := r.parent && (match linkByShort a s with | some l => l.stale | none => false)
    let s2 := if stale then
      { s1 with link.links := s1.link.links.map fun l => if l.short = a then { l with stale := false, dirty := true } else l }
      else s1
    if r.misses = 0 && r.stage = .slots && !stale then s2
    else raise 0x031 [W (a.toNat + stageCode r.stage * 2 ^ 24), WI (if r.parent then 0 else errorUs e), W (min r.misses 255)] s2

/-- Whether a window lies open for some rendezvous (R260). -/
def windowOpen (s : State) : Bool := s.rdv.rdvs.any fun r => r.window.isSome

/-! ### Frames of a rendezvous link (R258) -/

/-- The rendezvous that a frame's destination has, if any. -/
def frameRdv (f : TxFrame) (s : State) : Option Rdv := if f.bcast then none else rdvOf (shortOf f s) s

/-- Whether the rendezvous of its destination lets a frame start at NT x: a child sends the frame of the slot, a parent
sends while the child listens (R258). -/
def rdvAdmits (f : TxFrame) (x : Nat) (s : State) : Bool :=
  match frameRdv f s with
  | none => true
  | some r =>
    if r.parent then (match r.eligibleUntil with | some u => decide (x ≤ u.toNat) | none => false)
    else r.slotFrame = some f.fid && !r.slotSent

/-- The slot at which a child's frame starts (R258). -/
def slotStart (f : TxFrame) (s : State) : Option Nat :=
  match frameRdv f s with
  | some r => if r.parent || r.slotFrame ≠ some f.fid then none else r.lastSlot.map BitVec.toNat
  | none => none

/-- The absolute start of a frame's next attempt: its slot, or START of a first attempt (R258, R302). -/
def fixedStart (f : TxFrame) (s : State) : Option Nat :=
  match slotStart f s with
  | some x => some x
  | none => if f.attempts = 0 then f.start.map BitVec.toNat else none

end Sys2Proof.Machine
end

