-- ==== Sys2Proof/Machine/Links.lean ====
section
/-! DEFINITION. The link table's commands (R244-R246), the statistics (R247), and the commands that wait for the key store
(R320). -/

namespace Sys2Proof.Machine
open Sys2Proof

/-! ### The key store's readiness (R318-R320) -/

/-- A command that needs a slot and arrives before the key store is ready waits (R320). -/
def waitKeys (f : Cmd → State → State) (c : Cmd) (s : State) : State :=
  if s.isUsable dCRYPTO && !s.sec.ready then
    { s with sec.waiting := s.sec.waiting ++ [⟨⟨c.port, c.tag, c.ps, true⟩, BitVec.ofNat 12 c.code⟩] }
  else f c s

/-- A key slot that is in use and not sealed (R319, R329). -/
def usableSlot (n : Nat) (s : State) : Option KeySlot :=
  ((s.sec.slots.toList.getD n none).filter fun k => !k.sealed_).filter fun _ => !s.sec.sealedSlots.getLsbD n

/-- What refuses the use of a slot for a usage bit and types (R318, R319): a DEVICE slot, an empty or sealed one, or one
outside its type or usage. -/
def slotRefusal (n : Nat) (usage : Nat) (types : List KeyType) (s : State) : Option Status :=
  if n < 4 then some .denied
  else match usableSlot n s with
    | none => some .keyAbsent
    | some k => if k.usage.getLsbD usage && types.contains k.type then none else some .denied

/-- The bytes of an AES key slot. -/
def KeySlot.aesBytes (k : KeySlot) : List Byte :=
  if k.type = .aes128 then (bytes256 k.key).take 16 else bytes256 k.key

/-! ### LINK_ADD (R244, R266) -/

/-- Entries that R266 pins. -/
def pinnedCount (s : State) : Nat := s.link.links.countP fun e => pinned s e

/-- The entry that SHORT and EUI64 of LINK_ADD name, if there is one: the group link, or by EUI-64, else by short
address. -/
def namedEntry (short : BitVec 24) (eui : DWord) (s : State) : Option LinkEntry :=
  if short = groupShort then linkByShort groupShort s
  else match linkByEui eui s with
    | some e => some e
    | none => linkByShort short s

/-- Another entry has the short address or the EUI-64 (R244). -/
def belongsToOther (short : BitVec 24) (eui : DWord) (e : Option LinkEntry) (s : State) : Bool :=
  s.link.links.any fun x => decide (some x.id ≠ e.map LinkEntry.id) &&
    ((short ≠ noShort && x.short = short) || (short ≠ groupShort && x.short ≠ groupShort && x.eui = eui))

/-- The entry that LINK_ADD leaves: fresh, or the present one updated; with an equal key each counter is the greater of its
present and supplied values (R244). -/
def addedEntry (c : Cmd) (old : Option LinkEntry) (key : BitVec 256) (s : State) : LinkEntry :=
  let w1 := param c.ps 1
  let w4 := param c.ps 4
  let m := fld w4 9 0
  let meter := BitVec.ofNat 8 (fld w4 23 16)
  let k256 := bitAt w1 24
  let base : LinkEntry := old.getD { short := 0, eui := 0 }
  let same := old.isSome && base.key = key && base.key256 = k256
  let pick (have_ given : Word) : Word := if same && decide (given.toNat < have_.toNat) then have_ else given
  let inc := pick base.inCtr (param c.ps 6)
  let bc := pick base.inBcast (param c.ps 7)
  let prof := inboundProfile meter.toNat s
  let e : LinkEntry :=
    { base with
      short := BitVec.ofNat 24 (fld w1 23 0), eui := mk64 (param c.ps 2) (param c.ps 3), key256 := k256, key,
      map := if m = 0x3FF then none else some (BitVec.ofNat 10 m), meter, ackPower := BitVec.ofNat 8 (fld w4 31 24),
      outCtr := pick base.outCtr (param c.ps 5), inCtr := inc, inBcast := bc,
      mic := if same && inc = base.inCtr then base.mic else none,
      micBcast := if same && bc = base.inBcast then base.micBcast else none,
      ackHeld := same && inc = base.inCtr && base.ackHeld,
      ceiling := if same then base.ceiling else 0,
      buckets := if old.isNone then fullBuckets prof s.elapsed.now
        else if base.meter = meter then base.buckets
        else rebucket (inboundProfile base.meter.toNat s) prof s.elapsed.now base.buckets }
  e.withCeiling

/-- The entry put in the place of the present one, the frames that name it following. -/
def replaceEntry (old e : LinkEntry) (s : State) : State :=
  { s with link.links := s.link.links.map fun x => if x.id = old.id then e else x,
           link.frames := s.link.frames.map fun f => if f.link = some old.id then { f with link := some e.id } else f,
           rdv.rdvs := s.rdv.rdvs.map fun r => if r.short = old.short && old.short ≠ noShort then { r with short := e.short } else r }

/-- LINK_ADD once its key can be unwrapped: the checks of R244 in their order, then the entry. -/
def linkAddDo (c : Cmd) (s : State) : State :=
  let w1 := param c.ps 1
  let w4 := param c.ps 4
  let w8 := param c.ps 8
  let short : BitVec 24 := BitVec.ofNat 24 (fld w1 23 0)
  let eui := mk64 (param c.ps 2) (param c.ps 3)
  let k256 := bitAt w1 24
  let bad := !onlyBits w1 0x03FFFFFF#32 || !onlyBits w4 0xFFFF03FF#32 || !onlyBits w8 0x1F#32
    || (short = groupShort && eui ≠ 0#64)
  let noExt := k256 && (match dirCfg s with | some d => !d.ext | none => false)
  match firstFail [(!tableOn s || !s.isUsable dCRYPTO, .domainOff), (bad, .badParam), (noExt, .badState)] with
  | some st => finish c st [] s
  | none =>
    let slot := fld w8 4 0
    match slotRefusal slot 2 [.aes128, .aes256] s, usableSlot slot s with
    | some st, _ => finish c st [] s
    | none, none => finish c .keyAbsent [] s
    | none, some kek =>
      match keyUnwrap kek.aesBytes (unpackBE (c.ps.drop 8)) with
      | none => finish c .authFail [] s
      | some kb =>
        let key := BitVec.ofNat 256 (natBE (if k256 then kb else kb ++ zeros 16))
        -- on the KR9680 an address that the directory holds is an entry too (R244)
        let s1 := if (dirCfg s).isSome && decide (short.toNat ≤ s.dir.highWater) && short ≠ 0#24
          then (lookupShort short s).2 else s
        let old := namedEntry short eui s1
        let replace := bitAt w1 25
        if belongsToOther short eui (if replace then old else none) s1 || (replace && old.isNone) then finish c .badParam [] s1
        else
          let e := addedEntry c (if replace then old else none) key s1
          let was := match old with | some o => pinned s1 o | none => false
          if (dirCfg s1).isSome && (short = groupShort || k256) && !was && decide (15360 ≤ pinnedCount s1) then
            finish c .tableFull [] s1
          else match replace, old with
            | true, some o => finish c .ok [] (writeThrough e.id (replaceEntry o e s1))
            | _, _ =>
              let r := placeLink e s1
              if r.1 then finish c .ok [] (writeThrough e.id r.2) else finish c .tableFull [] r.2

def execLinkAdd (p : Packet) (s : State) : Out :=
  .next (plazaRun 0x501 (fun ps => ps.length = if bitAt (param ps 1) 24 then 18 else 14) (waitKeys linkAddDo) p s)

/-! ### LINK_DEL and LINK_READ (R245, R246) -/

/-- Words 1 to 3 that select an entry are well formed (R245, R246). -/
def selectorOk (mask : Word) (ps : List Word) : Bool :=
  onlyBits (param ps 1) mask &&
    (bitAt (param ps 1) 24 || (param ps 2 = 0#32 && param ps 3 = 0#32))

/-- The entry that words 1 to 3 select, brought from the directory if need be. -/
def selectEntry (ps : List Word) (s : State) : DirRead × State :=
  let w1 := param ps 1
  if bitAt w1 24 then
    match linkByEui (mk64 (param ps 2) (param ps 3)) s with
    | some e => (.entry e, s)
    | none => (.free, s)
  else
    let a : BitVec 24 := BitVec.ofNat 24 (fld w1 23 0)
    if (linkByShort a s).isSome then lookupShort a s
    else if decide (s.dir.highWater < a.toNat) then (.free, s)
    else lookupShort a s

/-- A LINK_DEL with FLUSH: frames not in an attempt end FLUSHED at once, the one in its attempt finishes it (R245). -/
def flushLink (i : BitVec 24 × DWord) (s : State) : State :=
  s.link.frames.foldl (fun s f =>
    if f.link ≠ some i then s
    else if f.stage = .queued || f.stage = .backOff then endFrame f.fid .flushed s
    else updateFrame f.fid (fun f => { f with flushing := true }) s) s

def linkDelRun (c : Cmd) (s : State) : State :=
  let flush := bitAt (param c.ps 1) 25
  match firstFail [(!tableOn s, .domainOff), (!selectorOk 0x03FFFFFF#32 c.ps, .badParam)] with
  | some st => finish c st [] s
  | none =>
    let r := selectEntry c.ps s
    match r.1 with
    | .free => finish c .noEntry [] r.2
    | .fault _ => finish c .directoryFault [] r.2
    | .entry e =>
      let busy := r.2.link.frames.any fun f => f.link = some e.id
      if e.deleting.isSome || (busy && !flush) then finish c .busy [] r.2
      else if busy then
        flushLink e.id (updateLink e.id (fun e => { e with deleting := some (c.port, c.tag) }) r.2)
      else finish c .ok [] (dropLink e r.2)

def execLinkDel (p : Packet) (s : State) : Out := .next (plazaRun 0x502 (lenIs 3) linkDelRun p s)

/-- The words of LINK_READ (R246). -/
def linkWords (e : LinkEntry) (cached : Bool) : List Word :=
  let map := match e.map with | some m => m.toNat | none => 0x3FF
  [W (e.short.toNat + b2n e.key256 * 2 ^ 24 + b2n e.stale * 2 ^ 25 + b2n cached * 2 ^ 26
      + b2n (e.short = groupShort) * 2 ^ 27)] ++ words64 e.eui
    ++ [W (map + e.meter.toNat * 2 ^ 16 + e.ackPower.toNat * 2 ^ 24), e.outCtr, W (e.reserved % 256), e.inCtr, e.inBcast]
    ++ words64 e.lastHeard ++ [W (e.lastRssi.toNat + e.lastSnr.toNat * 2 ^ 16), e.lastMargin.setWidth 32]

def linkReadRun (c : Cmd) (s : State) : State :=
  let w1 := param c.ps 1
  let a : BitVec 24 := BitVec.ofNat 24 (fld w1 23 0)
  match firstFail [(!tableOn s, .domainOff), (!selectorOk 0x01FFFFFF#32 c.ps, .badParam)] with
  | some st => finish c st [] s
  | none =>
    match (if bitAt w1 24 then linkByEui (mk64 (param c.ps 2) (param c.ps 3)) s else linkByShort a s) with
    | some e => finish c .ok (linkWords e s.is80) s
    | none =>
      match (if bitAt w1 24 then none else dirCfg s) with
      | none => finish c .noEntry [] s
      | some d =>
        if a = groupShort || a = noShort || a = 0#24 || decide (s.dir.highWater < a.toNat) then finish c .noEntry [] s
        else
          let x := xspiFails s
          match dirRead d a.toNat x.1 x.2 with
          | .entry e => finish c .ok (linkWords e false) x.2
          | .free => finish c .noEntry [] x.2
          | .fault n => finish c .directoryFault [] (dirFault a.toNat n x.2)

def execLinkRead (p : Packet) (s : State) : Out := .next (plazaRun 0x503 (lenIs 3) linkReadRun p s)

/-! ### STATS_READ (R247) -/

/-- The counters of a port in group 3. -/
def portCounters (q : Port) : List Word := [q.rxDropped, q.abandoned, q.badCrc, q.lineErr]

/-- A group's words. -/
def statsWords (g : Nat) (s : State) : List Word :=
  match g with
  | 0 => s.rx.alleyCnt.toList
  | 1 => s.rx.blvdCnt.toList
  | 2 => s.rx.pipeCnt.toList
  | 3 => portCounters (s.port .spi) ++ portCounters (s.port .uart) ++ portCounters (s.port .mbx)
  | _ => s.rx.radioCnt.toList

/-- A group cleared. -/
def clearStats (g : Nat) (s : State) : State :=
  match g with
  | 0 => { s with rx.alleyCnt := Vector.replicate 19 0#32 }
  | 1 => { s with rx.blvdCnt := Vector.replicate 19 0#32 }
  | 2 => { s with rx.pipeCnt := Vector.replicate 20 0#32 }
  | 3 => { s with plaza.ports := s.plaza.ports.map fun q => { q with rxDropped := 0, abandoned := 0, badCrc := 0, lineErr := 0 } }
  | _ => { s with rx.radioCnt := Vector.replicate 2 0#32 }

def statsReadRun (c : Cmd) (s : State) : Except Status (List Word × State) :=
  let w := param c.ps 1
  let g := fld w 2 0
  match firstFail [(g = 1 && s.is20, .domainOff), (!onlyBits w 0xF#32 || decide (4 < g), .badParam)] with
  | some st => .error st
  | none => .ok (statsWords g s, if bitAt w 3 then clearStats g s else s)

def execStatsRead (p : Packet) (s : State) : Out := .next (plazaRun 0x005 (lenIs 1) (immediate statsReadRun) p s)

end Sys2Proof.Machine
end

