-- ==== Sys2Proof/Machine/Wave.lean ====
section
/-! DEFINITION. What a transmission puts on the air, sample by sample: its rate (R128, R153), chirp chips and their taper (R126, R127,
R148), OFDM symbols, their edges and the FIR (R155, R158, R159, R182, R183). -/

namespace Sys2Proof.Machine
open Sys2Proof

/-! ### The rate (R99, R128, R153) -/

/-- Chips or samples per second of a transmission: corrected by the factor that its carrier is, the programmed over the nominal
frequency (R128). -/
def airRateOf (p : Profile) (s : State) : Rat :=
  let nominal : Rat := if p.ofdm then 2000000 else chirpHz p.bw
  if s.radio.loNominal = 0 then nominal else nominal * s.radio.lo / s.radio.loNominal

/-! ### Chirp (R126, R127, R148) -/

/-- The frequency of a symbol at its start and at its end, as a fraction of B from the carrier (R126, R127). -/
def startFrequency (k : Nat) : AirSym → Rat
  | .up v => (v : Rat) / 2 ^ k - 1 / 2
  | _ => 1 / 2

def endFrequency (k : Nat) : AirSym → Rat
  | .up v => if v = 0 then 1 / 2 else (v : Rat) / 2 ^ k - 1 / 2
  | _ => -(1 / 2)

/-- The frequency jumps where one symbol joins the next: by more than B / N (R148). -/
def junctionJumps (k : Nat) (a b : AirSym) : Bool :=
  let d := startFrequency k b - endFrequency k a
  decide (1 / 2 ^ k < d) || decide (d < -(1 / 2 ^ k))

/-- The chips, from the frame's start, at which the frequency jumps, `base` being the chip at which the first symbol starts. -/
def jumps (k : Nat) : Nat → List AirSym → List Nat
  | _, [] => []
  | base, a :: rest =>
    let wrap := match a with | .up v => if v = 0 then [] else [base + 2 ^ k - v] | _ => []
    let join := match rest with | b :: _ => if junctionJumps k a b then [base + 2 ^ k] else [] | [] => []
    wrap ++ join ++ jumps k (base + 2 ^ k) rest

/-- a(d) of a chip d chips from the nearest jump, with a taper of T chips (R148). -/
def taper (T d : Nat) : Rat := if T ≤ d then 1 else 3 / 4 - 1 / 4 * Config.cosine ((d : Rat) / (2 * T))

/-- The amplitude of chip n of a frame (R148). -/
def chipAmplitude (T : Nat) (js : List Nat) (n : Nat) : Rat :=
  js.foldl (fun (a : Rat) j => min a (taper T ((n : Int) - j).natAbs)) 1

/-- Chip n of a symbol: its phase in units of 1/(2N) turn (R126, R127). -/
def chipPhase (k : Nat) (a : AirSym) (n : Nat) : Nat :=
  match a with | .up v => sweepPhase k v n | _ => downPhase k n

/-- Chip n of a chirp frame: phase in units of 1/(2N) turn, and amplitude. -/
def frameChip (k T : Nat) (syms : List AirSym) (n : Nat) : Nat × Rat :=
  (chipPhase k (syms.getD (n / 2 ^ k) .down) (n % 2 ^ k), chipAmplitude T (jumps k 0 syms) n)

/-! ### OFDM (R153, R155, R157-R159, R182, R183) -/

/-- A term of a sample: a weight, a subcarrier's value and its phase in units of 1/128 turn. The sample is the sum of weight × value ×
exp(j2π × phase / 128), over √U (R155). -/
structure Term where
  weight : Rat
  tone : Tone
  phase : Nat
  deriving DecidableEq, Repr

/-- U of a width: its used subcarriers (R155). -/
def usedCount (w : BitVec 2) : Nat := (usedPos w).length

/-- The subcarrier values of a symbol. -/
def symbolTones : AirSym → List Tone
  | .shortSync ts => ts
  | .longSync ts => ts
  | .ofdm _ ts => ts
  | _ => []

/-- b[n] without its factor 1/√U (R155). -/
def bodySample (weight : Rat) (ts : List Tone) (n : Nat) : List Term :=
  ts.map fun t => ⟨weight, t, ((kOf t.u * n) % 128).toNat⟩

/-- Samples of a symbol: 8 periods of 32; a guard of 64 and the long symbol twice; a prefix and the body (R155, R158, R159). -/
def symbolSamples : AirSym → Nat
  | .shortSync _ => 256
  | .longSync _ => 320
  | .ofdm cp8 _ => if cp8 then 144 else 160
  | _ => 0

/-- The index n of b[n] that a symbol's first sample carries. -/
def firstIndex : AirSym → Int
  | .longSync _ => 64
  | .ofdm cp8 _ => if cp8 then 112 else 96
  | _ => 0

/-- The index of b that sample m of a symbol carries: every part runs through b cyclically, which also extends it (R182). -/
def sampleIndex (a : AirSym) (m : Int) : Nat := ((firstIndex a + m) % 128).toNat

/-- The raised-cosine rise at m samples after its beginning, over W µs (R182). -/
def rise (W : Nat) (m : Int) : Rat := (1 - Config.cosine ((m : Rat) / (4 * W))) / 2

/-- The weight of sample m of a symbol of n samples: the rise and the fall take W/2 µs inside the symbol and W/2 µs outside (R182). -/
def edgeWeight (W n : Nat) (m : Int) : Rat :=
  if m < -(W : Int) || decide (n + (W : Int) ≤ m) then 0
  else if m < W then rise W (m + W)
  else if n - (W : Int) ≤ m then 1 - rise W (m - n + W)
  else 1

/-- Sample p of a frame, whose first remaining symbol starts at sample `start`: the sum of each symbol's part. -/
def frameSample (W : Nat) : Int → List AirSym → Int → List Term
  | _, [], _ => []
  | start, a :: rest, p =>
    let w := edgeWeight W (symbolSamples a) (p - start)
    (if w = 0 then [] else bodySample w (symbolTones a) (sampleIndex a (p - start)))
      ++ frameSample W (start + symbolSamples a) rest p

/-- A FIR tap as a signed fraction (R119). -/
def tapOf (t : BitVec 16) : Rat := (t.toInt : Rat) / 32768

/-- Sample p after the 48-tap FIR (R183). -/
def firSample (taps : List (BitVec 16)) (W : Nat) (syms : List AirSym) (p : Int) : List Term :=
  (taps.mapIdx fun i t => (frameSample W 0 syms (p - i)).map fun x => { x with weight := tapOf t * x.weight }).flatten

/-- The FIR's group delay in samples, at the carrier (DEDUCED, log 17). -/
def groupDelay (taps : List (BitVec 16)) : Rat :=
  let h := taps.map BitVec.toInt
  if h.sum = 0 then Config.tapsDelay h else ((h.mapIdx fun i t => (i : Int) * t).sum : Rat) / h.sum

/-- When sample p of the FIR's output leaves RFIO, in samples from the start instant: advanced by the group delay (R183). -/
def sampleInstant (taps : List (BitVec 16)) (p : Int) : Rat := p - groupDelay taps

/-- What the transmission on the air sends: a chirp chip's phase and amplitude, or an OFDM sample's terms and its instant. -/
inductive Emission where
  | chip (phase : Nat) (amplitude : Rat)
  | sample (terms : List Term) (instant : Rat)
  deriving DecidableEq, Repr

/-- Chip or sample n of the transmission on the air, under the shape in use (R119, R148, R182, R183). -/
def emitted (p : Profile) (s : State) (n : Nat) : Emission :=
  let sh := s.radio.shape
  if p.ofdm then
    .sample (firSample sh.fir.toList sh.ofdmWin.toNat s.radio.air n) (sampleInstant sh.fir.toList n)
  else
    let c := frameChip p.k sh.chirpTaper.toNat s.radio.air n
    .chip c.1 c.2

end Sys2Proof.Machine
end

