-- ==== Sys2Proof/Machine/Transmit.lean ====
section
/-! DEFINITION. Transmission: submission and cancelling (R242, R243, R304), the choice (R274, R282, R283, R300-R302), the attempt
and its end (R101, R106, R293), acknowledgement of own frames (R228-R232), and the ends of waiting frames (R302, R303). -/

namespace Sys2Proof.Machine
open Sys2Proof

/-! ### TX_SUBMIT (R242, R304) -/

/-- The modem domains of a waveform are usable (R15, R17): OFDM goes through the Alley path too (R217). -/
def modemUsable (p : Profile) (s : State) : Bool := s.isUsable dALLEY && (!p.ofdm || s.isUsable dOFDM)

/-- The domains that radio work needs (R17). -/
def radioDomains (p : Profile) (s : State) : Bool :=
  s.isUsable dRFFE && modemUsable p s && s.isUsable dCRYPTO && s.isUsable dXMEM

/-- The bytes of n payload bytes that follow word 8. -/
def payloadBytes (ps : List Word) (n : Nat) : List Byte := (unpackLE (ps.drop 8)).take n

/-- The frame that TX_SUBMIT's words describe (R242). -/
def submittedFrame (c : Cmd) (h : BitVec 16) (link : BitVec 24 × DWord) (s : State) : TxFrame :=
  let w1 := param c.ps 1
  let w4 := param c.ps 4
  let tol := fld (param c.ps 7) 15 0
  let ttl := (param c.ps 8).toNat
  { fid := s.link.nextFid, kind := .data, port := c.port, handle := h, queue := Fin.ofNat 32 (fld w1 8 4),
    profile := Fin.ofNat 16 (fld w1 3 0), ackReq := bitAt w1 9,
    start := if bitAt w1 10 then some (mk64 (param c.ps 5) (param c.ps 6)) else none,
    dstLong := bitAt w1 11, dst := mk64 (param c.ps 2) (param c.ps 3), srcLong := bitAt w1 19, enc := bitAt w1 15,
    miclen := BitVec.ofNat 2 (fld w1 17 16), more := bitAt w1 18, retries := fld w1 14 12, retryMs := fld w4 31 24,
    lateTol := if tol = 0 then s.radio.rfNow.lateTol.toNat else tol, power := sfld w4 23 16,
    ttlEnd := if ttl = 0 then none else some (s.elapsed.now + BitVec.ofNat 64 (msU ttl)),
    payload := payloadBytes c.ps (fld w4 10 0), link := some link }

/-- A field of TX_SUBMIT is out of range (R242). -/
def submitBad (c : Cmd) (f : TxFrame) (s : State) : Bool :=
  let w1 := param c.ps 1
  let w4 := param c.ps 4
  let p := profileFor f s
  !onlyBits w1 0xFFFFF#32 || !onlyBits w4 0xFFFF07FF#32 || !onlyBits (param c.ps 7) 0xFFFF#32
    || (!f.dstLong && (!onlyBits (param c.ps 2) 0xFFFFFF#32 || param c.ps 3 ≠ 0#32)) || (f.bcast && f.ackReq)
    || f.miclen = 0 || decide ((if p.ofdm then 2047 else 1023) < frameLen f s) || decide (f.power < -40) || decide (60 < f.power)
    || f.retryMs = 0 || (!bitAt w1 10 && (param c.ps 5 ≠ 0#32 || param c.ps 6 ≠ 0#32))
    || ((unpackLE (c.ps.drop 8)).drop f.payload.length).any fun b => b ≠ 0#8

/-- The time left until a frame's deadline, in fraction units (R294): the end of its TTL, or of START's late tolerance for a
first attempt; none without a deadline. -/
def deadlineLeft (f : TxFrame) (s : State) : Option Nat :=
  let ttl := f.ttlEnd.map fun t => t.toNat - s.elapsed.now.toNat
  let tol := if f.attempts = 0 then f.start.map fun t => t.toNat + usU f.lateTol - s.time.nt.toNat else none
  match ttl, tol with
  | some a, some b => some (min a b)
  | some a, none => some a
  | none, b => b

/-- The traffic refusals of R304. -/
def trafficRefusal (f : TxFrame) (s : State) : Option Status :=
  let q := s.traffic.queues[f.queue]
  let occ := usUp (occupancy f s)
  let never := neverHolds (operList s) q.cls occ &&
    (match s.traffic.admin with | some a => neverHolds a.result q.cls occ | none => true)
  let t := frameAirtime f s
  let spent := match frameBand f s with
    | none => false
    | some b =>
      if budgetFits b t false s then false
      else match recovery b t s, deadlineLeft f s with
        | none, _ => true
        | some r, some d => decide (d < r - s.elapsed.now.toNat)
        | some _, none => false
  firstFail [(decide (0 < q.depth.toNat) && decide (q.depth.toNat ≤ (queueFrames f.queue s).length), .queueFull),
    (never, .gateNeverOpen), (spent, .budgetExhausted), (q.redAction = 2 && (tentative f s).1 = .red, .meterRed)]

def txSubmitRun (c : Cmd) (s : State) : State :=
  let w1 := param c.ps 1
  let long := bitAt w1 11
  let dst := mk64 (param c.ps 2) (param c.ps 3)
  let pre := submittedFrame c 0 (0, 0) s
  let p := profileFor pre s
  let admitted := match s.radio.region with
    | some r => (admitBand r p).isSome && (!p.ofdm || notchOk r p) | none => true
  match firstFail [(!radioDomains p s, .domainOff), (s.radio.region.isNone || s.lifecycle = .retired, .badState),
      (submitBad c pre s || !admitted, .badParam)] with
  | some st => finish c st [] s
  | none =>
    let r := if long then
        (match linkByEui dst s with | some e => DirRead.entry e | none => .free, s)
      else if pre.bcast then (match linkByShort groupShort s with | some e => DirRead.entry e | none => .free, s)
      else selectEntry [param c.ps 2, 0, 0] s
    match r.1 with
    | .free => finish c .noEntry [] r.2
    | .fault _ => finish c .directoryFault [] r.2
    | .entry e =>
      let s1 := r.2
      let f0 := submittedFrame c 0 e.id s1
      let first := firstFail [(e.deleting.isSome, .noEntry),
        (decide (0xFFFFFFFF ≤ e.outCtr.toNat + e.reserved + 1), .counterExhausted),
        (decide (128 ≤ s1.link.frames.length), .queueFull)]
      match first, trafficRefusal f0 s1 with
      | some st, _ => finish c st [] s1
      | none, some st => finish c st [] s1
      | none, none =>
        if !canAccept c.port s1 then finish c .busy [] s1
        else
          let h := takeHandle c.port s1
          respondAccepted c h.1 (submitFrame { f0 with handle := h.1 } h.2)

def execTxSubmit (p : Packet) (s : State) : Out :=
  .next (plazaRun 0x402 (fun ps => decide (8 ≤ ps.length) && ps.length = 8 + (fld (param ps 4) 10 0 + 3) / 4) txSubmitRun p s)

/-! ### TX_CANCEL (R243) -/

def txCancelRun (c : Cmd) (s : State) : State :=
  let w := param c.ps 1
  if !onlyBits w 0xFFFF#32 then finish c .badParam [] s
  else
    match s.link.frames.find? fun f => f.kind = .data && f.port = c.port && f.handle = BitVec.ofNat 16 (fld w 15 0) with
    | none => finish c .noEntry [] s
    | some f =>
      if f.stage = .queued || f.stage = .backOff then finish c .ok [] (endFrame f.fid .cancelled s) else finish c .busy [] s

def execTxCancel (p : Packet) (s : State) : Out := .next (plazaRun 0x403 (lenIs 1) txCancelRun p s)

/-! ### Queues' heads and tags (R226, R274, R282) -/

/-- A frame that R226 bars: another frame to its link is in flight. -/
def barred (f : TxFrame) (s : State) : Bool :=
  f.link.isSome && s.link.frames.any fun g => g.fid ≠ f.fid && g.link = f.link && g.inFlight

/-- The head of a queue: its oldest frame that R226 does not bar (R274). -/
def headOf (q : Fin 32) (s : State) : Option TxFrame := s.link.frames.find? fun f => f.queue = q && !barred f s

/-- The later of two tags modulo 2^48 (R282). -/
def laterTag (a b : BitVec 48) : BitVec 48 := if (a - b).toNat < 2 ^ 47 then a else b

/-- The tags S and F of a head's next attempt: those it has, or new ones (R282). -/
def tagsOf (f : TxFrame) (s : State) : BitVec 48 × BitVec 48 :=
  let q := s.traffic.queues[f.queue]
  let new :=
    let st := laterTag s.traffic.v q.fPrev
    (st, st + BitVec.ofNat 48 (frameAirtime f s * 256 / max 1 q.weight.toNat))
  match q.tag with
  | some (fid, n, st, fin) => if fid = f.fid && n = f.attempts then (st, fin) else new
  | none => new

/-- A head's tags kept by its queue. -/
def keepTags (f : TxFrame) (s : State) : State :=
  let q := s.traffic.queues[f.queue]
  let t := tagsOf f s
  { s with traffic.queues := s.traffic.queues.set f.queue { q with tag := some (f.fid, f.attempts, t.1, t.2) } }

/-! ### What keeps a head from the choice (R233, R258, R300) -/

/-- Two closed intervals meet. -/
def overlaps (a b : Nat × Nat) : Bool := decide (a.1 ≤ b.2) && decide (b.1 ≤ a.2)

/-- T_turn and T_back of a transmission on a carrier, in fraction units. -/
def turnU (carrier : Nat) (s : State) : Nat := unitsU (turnUnits s.radio.fem (rampUs s) (needsRetune carrier s))
def backU (carrier : Nat) (s : State) : Nat := unitsU (backUnits s.radio.fem (rampUs s) (needsRetune carrier s))

/-- The interval of an ack from the start of its turnaround to the end of its return (R233). -/
def ackSpan (at_ : Nat) (p : Profile) (s : State) : Nat × Nat :=
  (at_ - turnU p.carrier s, at_ + usUp (airtimeOf s p (uniformMap 1) 10) + backU p.carrier s)

/-- The waveform of the ack of a frame being received (R228). -/
def ackOfContext (x : Context) : Profile :=
  if x.ofdm then { x.profile with ofdm := true, width := x.hdr.width, rs := x.hdr.code, cp := x.hdr.cp }
  else { x.profile with ofdm := false, k := x.k, netid := x.netid, code := 2#2, p := 8 }

/-- The end instant of a frame whose header has passed, by its timestamp and its header (R131, R160). -/
def frameEnd (x : Context) (s : State) : Nat :=
  x.stamp.toNat + usUp (if x.ofdm then
      ofdmAirtime x.hdr.code x.hdr.cp x.hdr.length
        (bSym (effCodes s.radio.region x.profile.carrier x.hdr.width x.hdr.mapBits)) - 288
    else (2 + 33 * (1 + chirpBlocks x.k x.hdr.code x.hdr.length)) * symbolUs x.k x.profile.bw)

/-- The waveform of the ack of a frame in the decision pipeline (R228). -/
def PipeFrame.ackProf (f : PipeFrame) : Profile :=
  { ofdm := f.ofdm, carrier := f.carrier, k := f.k, bw := f.bw, code := 2#2, p := 8, netid := f.netid,
    width := f.hdr.width, rs := f.hdr.code, cp := f.hdr.cp }

/-- The decision is an ack to be sent. -/
def AckDue.sends (a : AckDue) : Bool := match a.verdict with | .send .. => true | _ => false

/-- The ack holds of R233, which end where the decision is no ack, and the acks already decided. -/
def holds (s : State) : List (Nat × Nat) :=
  (allCtxs.filterMap fun id =>
    let x := ctxOf id s
    if x.st = .committed && !x.noAck then
      let p := ackOfContext x
      some (ackSpan (frameEnd x s + usUp (ackGap p)) p s)
    else none) ++
  ((s.rx.pipe.filter fun f => mayAck f s).map fun f => ackSpan f.ackAt.toNat f.ackProf s) ++
  ((s.link.acks.filter AckDue.sends).map fun a => (a.at_.toNat - turnU a.prof.carrier s, a.ends.toNat + backU a.prof.carrier s))

/-- One step of NT, rounded up. -/
def ntStep (s : State) : Nat :=
  if s.time.onLf then s.time.stepLf.toNat / 2 ^ 24 + 2 else s.time.stepHf.toNat / 2 ^ 32 + 2

/-- The transmitter is free (R300): the radio's state, no ack under way, nothing prepared and no ack awaited; a handover freezes the
choice (R462). -/
def transmitterFree (s : State) : Bool :=
  s.inRun && s.upd.hand.isNone && s.lifecycle ≠ .retired && s.isUsable dRFFE && !loopRf s &&
  (s.radio.mode = .idle || s.radio.mode = .rx || s.radio.mode = .cal
    || (s.radio.mode = .settle && s.radio.settleFor = some .rx)) &&
  s.link.ackOnAir.isNone && (awaiting s).isNone && !s.link.frames.any fun f => f.stage = .prepared || f.stage = .onAir

/-- The projected start instant of a head, if it can take part in a choice now (R258, R300, R302, R438, R477). -/
def takesPart (f : TxFrame) (s : State) : Option Nat :=
  let p := profileFor f s
  let prep := unitsU (prepUnits p.carrier s)
  let ts := s.time.nt.toNat + prep
  let fixed := fixedStart f s
  let start := max ts (fixed.getD 0)
  let timely := match fixed with
    | some x => decide (x < ts + ntStep s) && decide (ts ≤ x + usU f.lateTol) | none => true
  let t := frameAirtime f s
  let span := (start - prep, start + usUp t + backU p.carrier s)
  if f.stage = .queued && timely && rdvAdmits f start s && radioDomains p s && !(s.power.bodWarn && decide (2000 < t))
      && (s.bg.drain.isNone || fixed.isSome) && !(holds s).any (overlaps span) then some start else none

/-! ### The choice (R283, R294, R299-R301) -/

/-- A head that has passed budget, gate and colour. -/
structure Candidate where
  fid : Nat
  queue : Fin 32
  yellow : Bool
  tags : BitVec 48 × BitVec 48
  start : Nat
  deadline : Option Nat
  deriving DecidableEq, Repr

/-- Mark whether a head is held under R294. -/
def setHeld (fid : Nat) (h : Bool) (s : State) : State := updateFrame fid (fun f => { f with held := h }) s

/-- Rank 2 for a head that does not fit: held, or ended (R294). -/
def budgetFails (f : TxFrame) (b : Fin 16) (t : Nat) (s : State) : State :=
  match recovery b t s, deadlineLeft f s with
  | none, _ => endFrame f.fid .budgetExhausted s
  | some _, none => setHeld f.fid true s
  | some r, some d =>
    if r - s.elapsed.now.toNat < d then setHeld f.fid true s else endFrame f.fid .budgetExhausted s

/-- The link entry of a secured frame is in the link table when its queue's head is judged: after a stop a KR9680 fetches it (R18,
R266). -/
def bringLink (f : TxFrame) (s : State) : State :=
  match f.link with
  | some i => if f.miclen = 0 || (linkById i s).isSome then s else (lookupShort i.1 s).2
  | none => s

/-- A frame has the link entry whose key and counter it needs, if it needs one (R225). -/
def hasLink (f : TxFrame) (s : State) : Bool := f.miclen = 0 || (frameLink f s).isSome

/-- A queue's head judged by the ranks 1 to 4 of R301. -/
def judgeHead (q : Fin 32) (s : State) : State × Option Candidate :=
  match headOf q s with
  | none => (s, none)
  | some f =>
    let s1 := keepTags f (bringLink f s)
    match frameBand f s1, (takesPart f s1).filter fun _ => hasLink f s1 with
    | some b, some start =>
      let t := frameAirtime f s1
      if !budgetFits b t false s1 then (budgetFails f b t s1, none)
      else
        let s2 := setHeld f.fid false s1
        let queue := s2.traffic.queues[q]
        if !gateFits queue.cls start (usUp (occupancy f s2)) s2 then (s2, none)
        else
          let cand (y : Bool) : Candidate := ⟨f.fid, q, y, tagsOf f s2, start, deadlineLeft f s2⟩
          match (tentative f s2).1 with
          | .red => if queue.redAction = 1 then (endFrame f.fid .droppedRed s2, none) else (s2, none)
          | .yellow => (s2, some (cand true))
          | .green => (s2, some (cand false))
    | _, _ => (s1, none)

/-- Every queue's head judged, the candidates by rising queue number. -/
def judgeAll (s : State) : State × List Candidate :=
  (List.finRange 32).foldl (fun r q =>
    let j := judgeHead q r.1
    (j.1, r.2 ++ j.2.toList)) (s, [])

/-- Whether candidate a goes before b (R283, R301): green before yellow, the smaller F modulo 2^48, the earlier deadline,
the lower queue number. -/
def goesBefore (a b : Candidate) : Bool :=
  if a.yellow ≠ b.yellow then b.yellow
  else if a.tags.2 ≠ b.tags.2 then decide ((b.tags.2 - a.tags.2).toNat < 2 ^ 47)
  else match a.deadline, b.deadline with
    | some x, some y => if x = y then decide (a.queue.val < b.queue.val) else decide (x < y)
    | some _, none => true
    | none, some _ => false
    | none, none => decide (a.queue.val < b.queue.val)

/-- The candidate that R301 prefers. -/
def bestOf : List Candidate → Option Candidate
  | [] => none
  | c :: rest => match bestOf rest with
    | some b => some (if goesBefore c b then c else b)
    | none => some c

/-- V and the queue's finish tag after an attempt is chosen (R282). -/
def advanceTags (c : Candidate) (s : State) : State :=
  let q := s.traffic.queues[c.queue]
  { s with traffic.v := laterTag s.traffic.v c.tags.1, traffic.queues := s.traffic.queues.set c.queue { q with fPrev := c.tags.2 } }

/-- The chosen frame prepared (R105, R109, R113, R226, R279). -/
def prepare (c : Candidate) (s : State) : State :=
  let s1 := fixColour c.fid (advanceTags c s)
  let s2 := formFrame c.fid (updateFrame c.fid (fun f => { f with startAt := BitVec.ofNat 64 c.start }) s1)
  let s3 := updateFrame c.fid (fun f => { f with stage := .prepared }) s2
  match frameById c.fid s3 with
  | none => s3
  | some f =>
    match s3.radio.mode with
    | .rx => turnToTx f.prof.carrier (.tx c.fid) s3
    | .cal => if s3.radio.cal.running.isSome then { s3 with radio.settleFor := some (.tx c.fid) }
              else idleToTx f.prof.carrier (.tx c.fid) s3
    | _ => idleToTx f.prof.carrier (.tx c.fid) s3

/-- A choice instant (R300, R301). -/
def txChoice (s : State) : State :=
  if !transmitterFree s then s
  else
    let r := judgeAll s
    match bestOf r.2 with
    | some c => prepare c r.1
    | none => r.1

def execTxChoice (s : State) : Out := .next (txChoice s)

/-! ### The attempt (R101, R293, R438) -/

/-- The internal setting and the aerial power of a transmission, in 0.5 dB units (R101). -/
def powerFor (asked : Int) (band : Option (Fin 16)) (s : State) : Int × Int :=
  let gain : Int := s.radio.rfNow.extPaGain.toNat
  let loss : Int := s.radio.rfNow.txLoss.toNat
  let cap := clampI (-20) 30 (asked - gain + loss)
  let top := (s.radio.region.bind fun r => band.bind fun b => r.bands[b.val]?).map fun b => b.maxPwr - gain + loss
  let set := match top with | some m => min cap m | none => cap
  (set, set + gain - loss)

/-- The symbols of a frame's attempt (R129, R157). -/
def frameSymbols (f : TxFrame) (s : State) : List AirSym :=
  if f.prof.ofdm then ofdmFrame s.radio.region f.prof f.map.toNat f.mapBits f.seed f.psdu else chirpFrame f.prof false f.psdu

/-- A rendezvous child's slot frame is on the air (R258). -/
def markSlotSent (fid : Nat) (s : State) : State :=
  { s with rdv.rdvs := s.rdv.rdvs.map fun r => if r.slotFrame = some fid then { r with slotSent := true } else r }

/-- LOADMAP_PROPOSED as a proposal is sent (R179): once for its frame, with the map of the frame that was measured. -/
def proposalSent (f : TxFrame) (s : State) : State :=
  match f.measured with
  | some old =>
    loadmapEvent (shortOf f s) 2 old (natLE ((f.payload.drop 3).take 2)) (f.payload.getD 6 0)
      (updateFrame f.fid (fun f => { f with measured := none }) s)
  | none => s

/-- The PA ramp starts (R293, R438): the attempt is charged and sent, or its frame returns to the head of its queue. -/
def txAttempt (s : State) : State :=
  if s.radio.mode ≠ .turnTx || s.radio.settleFor.isSome then s
  else match s.link.frames.find? fun f => f.stage = .prepared with
    | none => s
    | some f =>
      let t := airtimeOf s f.prof f.mapBits f.psdu.length
      match s.radio.region.bind fun r => admitBand r f.prof with
      | none => startReturn (sendBack f.fid s)
      | some b =>
        if !budgetFits b t false s || (s.power.bodWarn && decide (2000 < t)) then startReturn (sendBack f.fid s)
        else
          let start := max f.startAt.toNat (s.time.nt.toNat + usUp s.radio.shape.rampUs.toNat)
          -- a beacon goes at its planned instant or ends LATE (R254)
          if f.kind = .beacon && decide (f.startAt.toNat < start) then startReturn (endFrame f.fid .late s)
          else
          let p := powerFor f.power (some b) s
          let up (f : TxFrame) : TxFrame :=
            { f with stage := .onAir, startAt := BitVec.ofNat 64 start, endAt := BitVec.ofNat 64 (start + usUp t),
                     charged := some (b, t, s.traffic.bucketNo), powerUsed := p.2, paSetting := p.1 }
          let s1 := updateFrame f.fid up s
          proposalSent f (markSlotSent f.fid (charge b t { s1 with radio.mode := .tx, radio.air := frameSymbols f s, radio.airRate := airRateOf f.prof s }))

def execTxAttempt (s : State) : Out := .next (txAttempt s)

/-! ### The end of a transmission (R106, R109, R241) -/

/-- A transmission on the air ends (R106, R109): a frame that asked for no ack ends, one that did awaits it. -/
def txEnd (s : State) : State :=
  if s.radio.mode ≠ .tx then s
  else match s.link.ackOnAir with
    | some a =>
      let s1 := startReturn { s with link.ackOnAir := none }
      match a.child with
      | some (c, some until_) => updateRdv c (fun r => { r with eligibleUntil := some until_ }) s1
      | some (c, none) => updateRdv c (fun r => { r with window := r.window.map fun w => (w.1, s.time.nt, w.2.2) }) s1
      | none => s1
    | none =>
      match s.link.frames.find? fun f => f.stage = .onAir with
      | none => startReturn s
      | some f =>
        let t := airtimeOf s f.prof f.mapBits f.psdu.length
        let sent (f : TxFrame) : TxFrame :=
          { f with attempts := f.attempts + 1, airtime := f.airtime + t, stage := if f.ackReq then .awaitAck else .onAir,
                   stamp := f.startAt + BitVec.ofNat 64 (usU (stampOffset f.prof)) }
        let s1 := startReturn (updateFrame f.fid sent s)
        if f.ackReq then s1 else endFrame f.fid (if f.flushing then .flushed else .sent) s1

def execTxEnd (s : State) : Out := .next (txEnd s)

/-- An ack's charge returned but for the airtime used (R293). -/
def refundAck (a : AckDue) (used : Nat) (s : State) : State :=
  match a.verdict with | .send b t n => refund b (t - min used t) n s | _ => s

/-- What a brown-out abort does to what is on the air (R293, R438, R439): the ramp-down starts at once; a frame returns to the
head of its queue charged only what it used. Answers whether something was aborted. -/
def abortAir (s : State) : Bool × State :=
  if s.radio.mode ≠ .tx then (false, s)
  else
    let now := s.time.nt.toNat
    match s.link.ackOnAir with
    | some a =>
      if a.ends.toNat ≤ now + msU 2 then (false, s)
      else (true, startReturn (refundAck a (inUs (now - a.at_.toNat)) { s with link.ackOnAir := none }))
    | none =>
      match s.link.frames.find? fun f => f.stage = .onAir with
      | none => (false, s)
      | some f =>
        if f.endAt.toNat ≤ now + msU 2 then (false, s)
        else
          let used := min (inUs (now - f.startAt.toNat)) (airtimeOf s f.prof f.mapBits f.psdu.length)
          let s1 := match f.charged with
            | some (b, t, n) => refund b (t - used) n s
            | none => s
          (true, startReturn (sendBack f.fid
            (updateFrame f.fid (fun f => { f with airtime := f.airtime + used, charged := none }) s1)))

/-! ### Acks of own frames (R229, R231, R232) -/

/-- The nonce and the MIC test of an ack (R229). -/
def ackVerifies (e : LinkEntry) (counter : Word) (psdu : List Byte) : Bool :=
  (ccmDec e.keyBytes (macNonce e.eui counter 0x81#8) (psdu.take 6) [] (psdu.drop 6)).isSome

/-- An ack's bytes are the ack of a frame (R229, R231). -/
def ackMatches (f : TxFrame) (psdu : List Byte) (s : State) : Bool :=
  let c := f.counter.getD 0#32
  psdu.length = 10 && psdu.take 2 = [0x21#8, 0x00#8] && (psdu.drop 2).take 2 = bytesOfLE 2 (c.toNat % 65536)
    && (psdu.getD 5 0#8).toNat < 2 && (match frameLink f s with | some e => ackVerifies e c psdu | none => false)

/-- From the ack instant to the ack's expected timestamp, and the tolerance either side, in µs (R231). -/
def ackStamp (p : Profile) : Nat × Nat :=
  if p.ofdm then (288, 3) else (10 * symbolUs p.k p.bw, symbolUs p.k p.bw / 8 + 20)

/-- The end of the timestamp window of an awaited ack, NT (R228, R231). -/
def windowEnd (f : TxFrame) : Nat := f.endAt.toNat + usUp (ackGap f.prof + (ackStamp f.prof).1 + (ackStamp f.prof).2)

/-- A timestamp lies in the window of the awaited ack (R228, R231). -/
def inAckWindow (f : TxFrame) (stamp : DWord) : Bool :=
  let w := ackStamp f.prof
  decide (f.endAt.toNat + usU (ackGap f.prof + w.1 - w.2) ≤ stamp.toNat) && decide (stamp.toNat ≤ windowEnd f)

/-- An attempt has failed (R231, R245, R303). -/
def attemptFailed (f : TxFrame) (s : State) : State :=
  if f.flushing then endFrame f.fid .flushed s
  else if 1 + f.retries ≤ f.attempts then endFrame f.fid .noAck s
  else if (match f.ttlEnd with | some t => decide (t.toNat ≤ s.elapsed.now.toNat) | none => false) then endFrame f.fid .expired s
  else
    let r := randomUpTo (msU f.retryMs) s
    let wait := (windowEnd f + msU f.retryMs + r.1) - s.time.nt.toNat
    updateFrame f.fid (fun f => { f with stage := .backOff, eligibleAt := s.elapsed.now + BitVec.ofNat 64 wait }) r.2

/-- RSSI at the aerial in 0.5 dB units, from the power at RFIO (R514). -/
def aerialRssi (rfio : Int) (bypass : Bool) (s : State) : BitVec 16 :=
  let rf := s.radio.rfNow
  BitVec.ofInt 16 (rfio + (rf.rxLoss.toNat : Int) - (if rf.extLna && !bypass then (rf.extLnaGain.toNat : Int) else 0))

/-- An Alley reception on a profile is possible beside the Boulevard's, if that is receiving (R100, R193). -/
def besideBoulevard (p : Profile) (s : State) : Bool :=
  match s.rx.blvd, s.rx.plan with | some _, some pl => alleyFits p pl | _, _ => true

/-- The Alley path opened by link firmware on a rendezvous' profile, where no reception holds it (R258, R260) and the Boulevard leaves
room for it (R100, R193; log 69). -/
def listenOn (port : PortId) (profile : Fin 16) (s : State) : State :=
  if s.rx.alley.isSome || !besideBoulevard s.phy.profiles[profile] s then s
  else { s with rx.alley := some { port, profile, anyNet := false, monitor := false, byLink := true } }

/-- The listening of a child after an ack that carried PENDING (R258). -/
def listenAfterAck (r : Rdv) (s : State) : State :=
  let slot := r.lastSlot.getD s.time.nt
  listenOn r.port r.profile
    (updateRdv r.short (fun r => { r with window := some (slot, s.time.nt + BitVec.ofNat 64 (msU r.listenMs), true) }) s)

/-- The fixed-timing ack receiver, in the ALLEY domain, has decoded an ack with a timestamp (R231): it ends the frame ACKED, or the
attempt fails. `bypass`: it was received on the gain step that bypasses the external LNA, where the part has that step (R102). -/
def ackReception (psdu : List Byte) (crc : Word) (stamp : DWord) (rfio : Int) (bypass : Bool) (s : State) : State :=
  match (awaiting s).filter fun _ => s.isUsable dALLEY with
  | none => s
  | some f =>
    let ok := inAckWindow f stamp && crc = crc32 psdu && ackMatches f psdu s
    let past := bypass && s.radio.rfNow.extLna && s.radio.rfNow.lnaBypass
    let carrier := f.prof.carrier
    if !ok then leaveWindow carrier (attemptFailed f (bumpPipe .ackRxBad s))
    else
      let pend := bitAt ((psdu.getD 5 0#8).setWidth 32) 0
      let margin := psdu.getD 4 0#8
      let got (f : TxFrame) : TxFrame :=
        { f with ackPending := pend, ackMargin := margin, ackRssi := aerialRssi rfio past s }
      let s1 := updateFrame f.fid got s
      let s2 := match f.link with | some i => updateLink i (fun e => { e with lastMargin := margin }) s1 | none => s1
      let s3 := match frameRdv f s with
        | some r =>
          if r.parent then s2
          else
            let m := contact r.short s.time.nt 0 s2
            if pend && r.slotFrame = some f.fid then listenAfterAck r m else m
        | none => s2
      leaveWindow carrier (endFrame f.fid .acked s3)

def execAckReception (psdu : List Byte) (crc : Word) (stamp : DWord) (rfioHalfDb : Int) (bypass : Bool) (s : State) : Out :=
  .next (ackReception psdu crc stamp rfioHalfDb bypass s)

/-- The ack window closes with no ack detected (R232). -/
def ackWindowClose (s : State) : State :=
  match awaiting s with
  | none => s
  | some f => leaveWindow f.prof.carrier (attemptFailed f s)

def execAckWindowClose (s : State) : Out := .next (ackWindowClose s)

/-! ### Waiting frames (R231, R302, R303) -/

/-- The back-off of a failed attempt ends (R231). -/
def retryDelayExpiry (fid : Nat) (s : State) : State :=
  match frameById fid s with
  | some f =>
    if f.stage = .backOff && decide (f.eligibleAt.toNat ≤ s.elapsed.now.toNat) then
      updateFrame fid (fun f => { f with stage := .queued }) s
    else s
  | none => s

def execRetryDelayExpiry (frame : Nat) (s : State) : Out := .next (retryDelayExpiry frame s)

/-- A frame's TTL ends while it is in no attempt (R303). -/
def expired (fid : Nat) (s : State) : State :=
  match frameById fid s with
  | some f =>
    let ended := match f.ttlEnd with | some t => decide (t.toNat ≤ s.elapsed.now.toNat) | none => false
    if ended && (f.stage = .queued || f.stage = .backOff) then endFrame fid .expired s else s
  | none => s

def execExpired (frame : Nat) (s : State) : Out := .next (expired frame s)

/-- A timed first attempt whose slip has passed its late tolerance (R302). -/
def lateFrame (fid : Nat) (s : State) : State :=
  match frameById fid s with
  | some f =>
    let past := match f.start with | some t => decide (t.toNat + usU f.lateTol < s.time.nt.toNat) | none => false
    if past && f.attempts = 0 && f.stage = .queued then endFrame fid .late s else s
  | none => s

def execLate (frame : Nat) (s : State) : Out := .next (lateFrame frame s)

end Sys2Proof.Machine
end

