-- ==== Sys2Proof/Machine/Rx.lean ====
section
/-! DEFINITION. Reception (07_boulevard_reception): the commands (R216-R218), detection and the claim of contexts (R195-R202, R209,
R210), symbols, sync, mark and header (R130, R197-R203, R212), the last decision (R199), and gain (R194). -/

namespace Sys2Proof.Machine
open Sys2Proof

/-! ### The plan (R190-R193, R216) -/

/-- Slots that an entry consumes (R190). -/
def entrySlots : PlanEntry → Nat
  | .chirp .. => 1
  | .ofdm w _ => match w.toNat with | 1 => 4 | 2 => 2 | _ => 1

/-- An entry's carrier in hertz (R190). -/
def entryCarrier (centre : Nat) (e : PlanEntry) : Nat :=
  let b := entryBand e
  ((centre : Int) + (b.1 + b.2) / 2).toNat

/-- No two of some bands overlap. -/
def bandsApart : List (Int × Int) → Bool
  | [] => true
  | b :: rest => (rest.all fun x => !bandsMeet b x) && bandsApart rest

/-- A plan entry from its two words, or none where a field is out of range (R216). -/
def entryOf (a b : Word) : Option PlanEntry :=
  if bitAt a 0 then
    if fld a 2 1 = 0 || !onlyBits a 0xF07#32 || b ≠ 0#32 then none else some (.ofdm (BitVec.ofNat 2 (fld a 2 1)) (fld a 11 8))
  else
    let any := bitAt a 12
    let net := fld a 24 13
    if !onlyBits a 0x01FFFFFF#32 || fld a 11 3 = 0 || (if any then net ≠ 0 else net / 64 = 0 || net % 64 = 0) then none
    else some (.chirp (BitVec.ofNat 2 (fld a 2 1)) (BitVec.ofNat 9 (fld a 11 3)) any (BitVec.ofNat 12 net) b.toInt)

/-- The entries of BLVD_CONFIG's words from 4 on. -/
def entriesOf : List Word → Option (List PlanEntry)
  | a :: b :: rest => match entryOf a b, entriesOf rest with
    | some e, some es => some (e :: es) | _, _ => none
  | _ => some []

/-- The plan that BLVD_CONFIG's words describe, or none (R191, R216). -/
def planOf (ps : List Word) (s : State) : Option Plan :=
  let w1 := param ps 1
  let w3 := param ps 3
  let centre := (param ps 2).toNat
  let cmin := fld w1 15 12
  let cmax := fld w1 20 16
  match entriesOf (ps.drop 3) with
  | none => none
  | some es =>
    let bands := es.map entryBand
    if !onlyBits w1 0x0F1FF11F#32 || es.isEmpty || decide (16 < es.length) || cmin = 0 || decide (cmax < 10) || decide (30 < cmax)
        || decide (cmax < cmin + 3) || !onlyBits w3 0xFFF#32 || decide (fld w3 7 0 < 24) || decide (80 < fld w3 7 0)
        || fld w3 10 8 = 7 || decide (s.byVariant 0 4 16 < (es.map entrySlots).sum)
        || !(bands.all fun b => decide (-3200000 ≤ b.1) && decide (b.2 ≤ 3200000)) || !bandsApart bands
        || !inRange centre 6400000 then none
    else some { entries := es, capture := bitAt w1 8, cancelMin := cmin, cancelMax := cmax, captureDb := fld w1 27 24, centre,
                detThresh := fld w3 7 0, gain := fld w3 10 8, gainFixed := bitAt w3 11 }

def blvdConfigRun (c : Cmd) (s : State) : Except Status (List Word × State) :=
  if !s.isUsable dBLVD then .error .domainOff
  else match planOf c.ps s with
    | none => .error .badParam
    | some p => if s.rx.blvd.isSome then .error .busy else .ok ([], { s with rx.plan := some p })

def execBlvdConfig (p : Packet) (s : State) : Out :=
  .next (plazaRun 0x406 (fun ps => decide (3 ≤ ps.length) && ps.length = 3 + 2 * fld (param ps 1) 4 0) (immediate blvdConfigRun) p s)

/-! ### RX_START and RX_STOP (R100, R193, R217, R218) -/

/-- The radio moves to what the receptions in force need (R109). -/
def retuneReceptions (s : State) : State :=
  match s.radio.mode with
  | .idle => settleRx { s with radio.backToRx := true }
  | .rx => if (awaiting s).isSome then { s with radio.moved := true } else settleRx s
  | .settle => if s.radio.settleFor = some .rx then settleRx s else { s with radio.backToRx := true, radio.moved := true }
  | _ => { s with radio.backToRx := true, radio.moved := true }

def rxStartRun (c : Cmd) (s : State) : Except Status (List Word × State) :=
  let w := param c.ps 1
  let b := bitAt w 0
  let n : Fin 16 := Fin.ofNat 16 (fld w 4 1)
  let pr := s.phy.profiles[n]
  let anyNet := bitAt w 5
  let base := s.isUsable dRFFE && s.isUsable dCRYPTO && s.isUsable dXMEM
  let ofdmPlan := match s.rx.plan with
    | some p => p.entries.any fun e => match e with | .ofdm .. => true | _ => false
    | none => false
  let doms := if b then base && s.isUsable dBLVD && (!ofdmPlan || s.isUsable dOFDM) else base && modemUsable pr s
  let fits := match s.rx.plan with
    | some pl =>
      if b then (match s.rx.alley with | some a => alleyFits s.phy.profiles[a.profile] pl | none => true)
      else s.rx.blvd.isNone || alleyFits pr pl
    | none => true
  match firstFail [(!doms, .domainOff), (!onlyBits w 0x7F#32 || (b && (n ≠ 0 || anyNet)) || (!b && pr.ofdm && anyNet), .badParam),
      ((pathReception b s).isSome, .busy), (b && s.rx.plan.isNone, .badState), (!fits, .badParam)] with
  | some st => .error st
  | none =>
    let r : Reception := { port := c.port, profile := n, anyNet, monitor := bitAt w 6 }
    let gain := match s.rx.plan with | some p => if b && p.gainFixed then p.gain else s.rx.gain | none => s.rx.gain
    .ok ([], retuneReceptions (if b then { s with rx.blvd := some r, rx.gain := gain, radio.alleyGain := gain }
      else { s with rx.alley := some r }))

def execRxStart (p : Packet) (s : State) : Out := .next (plazaRun 0x404 (lenIs 1) (immediate rxStartRun) p s)

/-- RX_STOP (R218). -/
def rxStopRun (c : Cmd) (s : State) : State :=
  let w := param c.ps 1
  let b := bitAt w 0
  let drain := bitAt w 1
  if !onlyBits w 0x3#32 then finish c .badParam [] s
  else match pathReception b s with
    | none => finish c .badState [] s
    | some r =>
      if r.byLink || r.draining.isSome then finish c .badState [] s
      else
        let onPath (id : CtxId) : Bool := isBlvd id = b
        let gone (id : CtxId) (x : Context) : Bool := onPath id && (x.provisional || (!drain && x.st = .committed))
        let n := allCtxs.countP fun id => gone id (ctxOf id s)
        let s1 := releaseWhere gone .stopped s
        let left := allCtxs.countP fun id => onPath id && (ctxOf id s1).st = .committed
        if left = 0 then finish c .ok [W n] (endReception b s1)
        else
          let r1 := { r with draining := some (c.port, c.tag, n, left) }
          if b then { s1 with rx.blvd := some r1 } else { s1 with rx.alley := some r1 }

def execRxStop (p : Packet) (s : State) : Out := .next (plazaRun 0x405 (lenIs 1) rxStopRun p s)

/-! ### Detection (R195-R202, R209, R210) -/

/-- The sum of the powers that P_X averages and their number (R200): the last 8 decided symbols, or the preamble before any is
decided. -/
def powerSum (x : Context) : Int × Nat := if x.powers.isEmpty then (x.pNew, 1) else (x.powers.sum, x.powers.length)

/-- The difference P_new − P_X is at least `db` decibels. -/
def aboveBy (power : Int) (x : Context) (db : Int) : Bool :=
  let p := powerSum x
  decide (4 * db * p.2 ≤ power * p.2 - p.1)

/-- The difference is at most `db` decibels. -/
def withinBy (power : Int) (x : Context) (db : Int) : Bool :=
  let p := powerSum x
  decide (power * p.2 - p.1 ≤ 4 * db * p.2)

/-- P_X of context a is at least that of b. -/
def strongerCtx (a b : Context) : Bool :=
  let p := powerSum a
  let q := powerSum b
  decide (q.1 * p.2 ≤ p.1 * q.2)

/-- A context's metric M as a sum and the number of its terms: the mean over the symbols decided so far, or the detection's before
any is (R195, R198). -/
def metricOf (a : Context) : Int × Nat := if a.metricN = 0 then (a.detMetric, 1) else (a.metricSum, a.metricN)

/-- The metric of a context lies below m. -/
def metricBelow (a : Context) (m : Int) : Bool := decide ((metricOf a).1 < m * (metricOf a).2)

/-- A detection matches a context that already receives the frame (R195). -/
def sameFrame (d : Detect) (x : Context) : Bool :=
  let n := 2 ^ d.k
  let gap := (x.bin + n - d.bin % n) % n
  x.busy && !x.ofdm && x.k = d.k && (gap ≤ 1 || gap = n - 1) && decide ((x.chip - d.chip).natAbs ≤ 1)

/-- A preamble's peak position: its bin from −N/2 on, and how far the peak lies from that bin's middle (R144). -/
def preamblePeak (d : Detect) : Rat := (if 2 * d.bin < 2 ^ d.k then (d.bin : Int) else (d.bin : Int) - 2 ^ d.k) + d.offset

/-- The context that a detection begins (R195-R197). -/
def freshCtx (d : Detect) (pr : Profile) (s : State) : Context :=
  { st := if d.k = 0 then .header else .sync, entry := d.entry, ofdm := d.k = 0, k := d.k, bin := d.bin, chip := d.chip,
    detMetric := d.metric, pNew := d.power, profile := pr, since := s.time.nt, symAt := s.elapsed.now,
    preamble := if d.k = 0 then d.offset else preamblePeak d, gain := if d.boulevard then s.rx.gain else s.radio.alleyGain,
    hdr := { width := pr.width }, stamp := if d.k = 0 then s.time.nt + BitVec.ofNat 64 (usU 224) else 0 }

/-- Free Boulevard contexts may be claimed but for one that CTX_TEST waits for (R485). -/
def claimable (n : Fin 64) (s : State) : Bool :=
  decide (n.val < s.ctxCount) && (s.rx.ctxs[n]).st = .free
    && (match s.bg.ctxTest with | some t => t.ctx ≠ n | none => true)

/-- The provisional, unpaired Boulevard context of lowest metric, other than `keep` (R198). -/
def lowestMetric (keep : Option (Fin 64)) (s : State) : Option (Fin 64) :=
  ((List.finRange 64).filter fun n => (s.rx.ctxs[n]).provisional && (s.rx.ctxs[n]).pair.isNone && keep ≠ some n).foldl
    (fun acc n => match acc with
      | none => some n
      | some m =>
        let a := s.rx.ctxs[n]
        let b := s.rx.ctxs[m]
        if (metricOf a).1 * (metricOf b).2 < (metricOf b).1 * (metricOf a).2 then some n else some m) none

/-- A Boulevard context claimed for a detection (R198): the lowest free one, else the evicted one; none counts POOL_FULL. -/
def claim (metric : Int) (keep : Option (Fin 64)) (s : State) : Option (Fin 64) × State :=
  match (List.finRange 64).find? fun n => claimable n s with
  | some n => (some n, s)
  | none =>
    match lowestMetric keep s with
    | some n => if metricBelow s.rx.ctxs[n] metric then (some n, release (.blvd n) .evicted s) else (none, bumpRx true .poolFull s)
    | none => (none, bumpRx true .poolFull s)

/-- A detection put into a Boulevard context. -/
def seat (d : Detect) (pr : Profile) (n : Fin 64) (s : State) : State := setCtx (.blvd n) (freshCtx d pr s) s

/-- The lowest pair that is free (R201). -/
def freePair (s : State) : Option (Fin 8) :=
  (List.finRange 8).find? fun p => decide (p.val < s.pairCount) && !(s.rx.ctxs.toList.any fun x =>
    match x.pair with | some (q, _) => q = p | none => false)

/-- The existing context against which a Boulevard detection is judged (R200, R209). -/
def overlapped (d : Detect) (s : State) : Option (Fin 64) :=
  ((List.finRange 64).filter fun n =>
      let x := s.rx.ctxs[n]
      x.busy && x.entry = d.entry && x.k = d.k).foldl
    (fun acc n => match acc with
      | none => some n
      | some m => if strongerCtx s.rx.ctxs[m] s.rx.ctxs[n] then some m else some n) none

/-- |Δ| lies within CANCEL_MIN and CANCEL_MAX (R201). -/
def cancelRange (pl : Plan) (power : Int) (x : Context) : Bool :=
  (aboveBy power x pl.cancelMin && withinBy power x pl.cancelMax)
    || (withinBy power x (-(pl.cancelMin : Int)) && aboveBy power x (-(pl.cancelMax : Int)))

/-- A pair formed between an existing context n and the new one m, its delay line empty (R201, R203, R204). -/
def formPair (p : Fin 8) (newStrong : Bool) (n m : Fin 64) (s : State) : State :=
  let mark (weak : Bool) (x : Context) : Context :=
    { x with pair := some (p, weak), wasWeak := x.wasWeak || weak, wasStrong := x.wasStrong || !weak, excluded := none,
             strongBin := none }
  let s1 := setCtx (.blvd n) (mark newStrong s.rx.ctxs[n]) { s with rx.lines := s.rx.lines.set p [] }
  bumpRx true .pairsFormed (setCtx (.blvd m) (mark (!newStrong) s1.rx.ctxs[m]) s1)

/-- A detection with no overlap, or one that runs independently, claims a context (R198, R202). -/
def claimFor (d : Detect) (pr : Profile) (s : State) : State :=
  let r := claim d.metric none s
  match r.1 with | some n => seat d pr n r.2 | none => r.2

/-- An overlapping chirp detection resolved by R202. -/
def resolveChirp (d : Detect) (pr : Profile) (pl : Plan) (n : Fin 64) (s : State) : State :=
  let x := s.rx.ctxs[n]
  let range := decide (d.k ≤ 12) && cancelRange pl d.power x && (x.st = .header || x.st = .committed)
  if x.pair.isSome then bumpRx true .pairBusy s
  else match range, freePair s with
    | true, some p =>
      let r := claim d.metric (some n) s
      match r.1 with | some m => formPair p (aboveBy d.power x 0) n m (seat d pr m r.2) | none => r.2
    | _, _ =>
      let s1 := if range then bumpRx true .pairsRefused s else s
      if x.provisional then claimFor d pr s1
      else if pl.capture && aboveBy d.power x pl.captureDb then
        claimFor d pr (checkDrains (release (.blvd n) .captured s1))
      else bumpRx true .kept s1

/-- OFDM receptions that the device can demodulate at once (R13, R14). -/
def demodLimit (s : State) : Nat := if s.is20 then 1 else 2

/-- An OFDM detection on a Boulevard group (R209). -/
def detectGroup (d : Detect) (pr : Profile) (pl : Plan) (s : State) : State :=
  match overlapped d s with
  | some n =>
    let x := s.rx.ctxs[n]
    if x.st = .header then
      (if aboveBy d.power x 3 then seat d pr n (release (.blvd n) .restarted s) else bumpRx true .kept s)
    else if pl.capture && aboveBy d.power x pl.captureDb then seat d pr n (checkDrains (release (.blvd n) .captured s))
    else bumpRx true .kept s
  | none => if demodLimit s ≤ demodsUsed s then bumpRx true .ofdmNoDemod s else claimFor d pr s

/-- The waveform that a plan entry receives. -/
def entryProfile (pl : Plan) (e : PlanEntry) (k : Nat) : Profile :=
  match e with
  | .chirp bw _ _ net _ => { ofdm := false, carrier := entryCarrier pl.centre e, k, bw, netid := net }
  | .ofdm w _ => { ofdm := true, carrier := entryCarrier pl.centre e, width := w }

/-- A detection on the Boulevard (R192, R195, R196, R198, R202, R209). -/
def detectBlvd (d : Detect) (pl : Plan) (s : State) : State :=
  match pl.entries[d.entry.val]? with
  | none => s
  | some e =>
    let pr := entryProfile pl e d.k
    match e with
    | .ofdm .. => if d.k = 0 then detectGroup d pr pl s else s
    | .chirp _ mask _ _ _ =>
      if d.k < 6 || !mask.getLsbD (d.k - 6) || d.metric < pl.detThresh
          || (s.rx.ctxs.toList.any fun x => x.entry = d.entry && sameFrame d x) then s
      else match overlapped d s with
        | some n => resolveChirp d pr pl n s
        | none => claimFor d pr s

/-- The Alley path's gain at the end of a preamble: its own control's while the Boulevard is not receiving, else the Boulevard's
(R102, R211). -/
def alleyGainAt (g : Fin 7) (s : State) : State :=
  if s.rx.blvd.isSome then { s with radio.alleyGain := s.rx.gain }
  else if g = 6 && !(s.radio.rfNow.extLna && s.radio.rfNow.lnaBypass) then { s with radio.alleyGain := 0 }
  else { s with radio.alleyGain := g.val }

/-- A detection put into the Alley path's context. -/
def seatAlley (d : Detect) (pr : Profile) (s : State) : State :=
  let s1 := alleyGainAt d.gain s
  setCtx .alley (freshCtx d pr s1) s1

/-- A detection on the Alley path (R210). -/
def detectAlley (d : Detect) (r : Reception) (s : State) : State :=
  let pr := s.phy.profiles[r.profile]
  let x := s.rx.alleyCtx
  let d1 := { d with entry := 0 }
  if (if pr.ofdm then d.k ≠ 0 else d.k ≠ pr.k || decide (d.metric < 40)) then s
  else if x.st = .committed then s
  else if x.provisional then
    if sameFrame d1 x then s
    else if aboveBy d.power x 3 then seatAlley d1 pr (release .alley .restarted s) else s
  else if pr.ofdm && decide (demodLimit s ≤ demodsUsed s) then bumpRx false .ofdmNoDemod s
  else seatAlley d1 pr s

/-- A preamble is detected (R195, R196): not during a blank, a drain, or the end of the reception. -/
def detectOne (d : Detect) (s : State) : State :=
  if s.radio.mode ≠ .rx || s.radio.blanked || s.bg.drain.isSome then s
  else match pathReception d.boulevard s with
    | none => s
    | some r =>
      if r.draining.isSome then s
      else if d.boulevard then (match s.rx.plan with | some pl => detectBlvd d pl s | none => s)
      else detectAlley d r s

/-- A detection, and one declared in the same sample period if any: the Alley path's is served first (R210). -/
def detection (d : Detect) (rival : Option Detect) (s : State) : State :=
  match rival with
  | none => detectOne d s
  | some e => if d.boulevard && !e.boulevard then detectOne d (detectOne e s) else detectOne e (detectOne d s)

def execDetection (d : Detect) (rival : Option Detect) (s : State) : Out := .next (detection d rival s)

/-! ### Symbols (R141-R147, R198, R203-R208, R212) -/

/-- Erasures that a block can carry: of the header, or of the payload's code (R212). -/
def erasureLimit (x : Context) : Nat := if x.st = .header then 6 else 2 * codeT x.hdr.code

/-- The slot of a block is a pilot (R143). -/
def pilotSlot (pos : Nat) : Bool := pos = 15 || pos = 32

/-- A chirp context receives a block. -/
def inBlock (x : Context) : Bool := !x.ofdm && (x.st = .header || x.st = .committed)

/-- The header block is complete (R134): what follows is payload. -/
def headerFull (x : Context) : Bool := decide (16 * (x.k - 2) ≤ x.bits.length)

/-- The symbols received are those of the header block. -/
def inHeader (x : Context) : Bool := x.st = .header && !headerFull x

/-- Two bins are the same within ±1 on a sweep of size k (R195, R203). -/
def sameBin (k a b : Nat) : Bool :=
  let g := (a + 2 ^ k - b % 2 ^ k) % 2 ^ k
  decide (g ≤ 1) || g = 2 ^ k - 1

/-- The strong margin of R203: CANCEL_MIN on the KR9680, 3 dB on the KR9640 and on the Alley path. -/
def strongDb (id : CtxId) (s : State) : Nat :=
  match id, s.rx.plan with | .blvd _, some pl => s.byVariant 3 3 pl.cancelMin | _, _ => 3

/-- A peak's place after the loop's corrections, or, in SYNC, after preamble correction (R130). -/
def placeOf (x : Context) (peak : Rat) : Rat := if x.st = .sync then peak - x.preamble else peak

/-- The bins of a symbol's peaks that stand at least `db` decibels above the context's own P_X (R203). -/
def strongBins (db : Nat) (o : SymbolObs) (x : Context) : List Nat :=
  (((o.peak, o.power) :: o.others).filter fun p => aboveBy p.2 x db).map fun p => nearestValue x.k 1 (placeOf x p.1)

/-- The exclusion of R203 on an unpaired chirp context: a strong bin on two consecutive symbols is excluded, and the first of the
two is erased where it lies in the present block; a symbol without the bin ends it. A pilot slot dechirps the other sweep and
can show no such bin (DEDUCED, log 17): it neither breaks a run nor counts as one. -/
def exclusion (db : Nat) (o : SymbolObs) (x : Context) : Context :=
  let bins := strongBins db o x
  match x.pair, x.strongBin with
  | some _, _ => x
  | none, none => { x with strongBin := bins.head? }
  | none, some a =>
    match bins.find? fun b => sameBin x.k a b with
    | none => { x with excluded := none, strongBin := bins.head? }
    | some b =>
      let back := x.excluded.isNone && inBlock x && decide (0 < x.blockPos)
      { x with excluded := some b, strongBin := some b, blockErased := x.blockErased + b2n back, erased := x.erased + b2n back,
               cols := if back then x.cols.dropLast ++ [none] else x.cols }

/-- The peak that a context decides on: the strongest outside the excluded bins (R203). -/
def decidedPeak (o : SymbolObs) (x : Context) : Rat :=
  match x.excluded with
  | none => o.peak
  | some b =>
    match ((o.peak, o.power) :: o.others).find? fun p => !sameBin x.k (nearestValue x.k 1 (placeOf x p.1)) b with
    | some p => p.1
    | none => Config.hiddenPeak o b

/-- The step between a symbol's possible values: 4 in the header block (R142). -/
def valueStep (x : Context) : Nat := if inHeader x then 4 else 1

/-- The symbol value that a context decides (R130, R142). -/
def decidedValue (o : SymbolObs) (x : Context) : Nat := nearestValue x.k (valueStep x) (placeOf x (decidedPeak o x))

/-- A symbol decided: its metric and power (R198, R200). -/
def countSymbol (o : SymbolObs) (x : Context) : Context :=
  { x with metricSum := x.metricSum + o.metric, metricN := x.metricN + 1, powers := (o.power :: x.powers).take 8 }

/-- A data symbol of a block: its column, its residual into the loop, and, decided under an exclusion, its count (R144, R208). -/
def dataSymbol (o : SymbolObs) (x : Context) : Context :=
  let v := decidedValue o x
  { x with cols := x.cols ++ [some (ungray x.k (v / valueStep x))],
           track := trackData (residual x.k v (decidedPeak o x)) o.power x.track, erased := x.erased + b2n x.excluded.isSome }

/-- A pilot: it splits the error, unless it is lost (R144, R146). -/
def pilotSymbol (o : SymbolObs) (x : Context) : Context :=
  if pilotWeak o.power x.track then { x with pilotsLost := x.pilotsLost + 1 }
  else { x with track := trackPilot (residual x.k 0 o.peak) x.track }

/-- A symbol that overlaps a blank or a gain change: a lost pilot, or an erased column (R146, R147). No bin was seen on it. -/
def lostSymbol (x : Context) : Context :=
  let y := { x with excluded := none, strongBin := none }
  if !inBlock x then y
  else if pilotSlot x.blockPos then { y with pilotsLost := x.pilotsLost + 1 }
  else { y with cols := x.cols ++ [none], erased := x.erased + 1, blockErased := x.blockErased + 1 }

/-- The block's end: its codewords are decoded, and its bits join the header's or the payload's (R141, R143). -/
def endSlot (x : Context) : Context :=
  if !inBlock x then x
  else if x.blockPos + 1 < 33 then { x with blockPos := x.blockPos + 1 }
  else
    let b := if inHeader x then blockBits 2#2 (x.k - 2) x.cols else blockBits x.hdr.code x.k x.cols
    { x with blockPos := 0, blockErased := 0, cols := [], bits := x.bits ++ b.1, corrected := x.corrected + b.2 }

/-- One more symbol of a chirp context. -/
def chirpSymbol (db : Nat) (o : SymbolObs) (hit : Bool) (x : Context) : Context :=
  let x1 :=
    if hit then lostSymbol x
    else if inBlock x && pilotSlot x.blockPos then pilotSymbol o (countSymbol o x)
    else
      let y := countSymbol o (exclusion db o x)
      if inBlock x then dataSymbol o y else { y with erased := y.erased + b2n y.excluded.isSome }
  let x2 := endSlot { x1 with symbols := x.symbols + 1 }
  if inBlock x then { x2 with track := trackAdvance (2 ^ x.k) x2.track } else x2

/-- The time of a symbol, in units of 2^-32 s. -/
def symbolSpan (x : Context) : DWord := BitVec.ofNat 64 (usU (symbolUs x.k x.profile.bw))

/-- The symbol to be decided on the delay line overlaps a blank or a gain change (R147, R205). -/
def lateHit (x : Context) : Bool :=
  x.hits.any fun h => (h.1 - x.symAt).toInt < (symbolSpan x).toInt &&
    (match h.2 with | none => true | some t => decide (0 ≤ (t - x.symAt).toInt))

/-- What W's symbol shows: from the delay line, with the symbols of S that overlap it subtracted (R204). -/
def throughLine (o : SymbolObs) (x : Context) (s : State) : SymbolObs :=
  match x.pair with
  | some (p, true) =>
    if x.late then
      let held := s.rx.lines[p].filter fun y => decide ((y.start - x.symAt).toInt.natAbs < (symbolSpan x).toNat)
      if held.isEmpty then o else Config.subtracted held o
    else o
  | _ => o

/-- The symbol of S as it is synthesised: down-sweeps and the preamble as known, else the raw decision (R204). -/
def synthOf (o : SymbolObs) (x : Context) : Synth :=
  let v := decidedValue o x
  let down := (x.st = .sync && x.synced) || (inBlock x && pilotSlot x.blockPos)
  let known := x.st = .sync && sameBin x.k v 0
  { start := x.symAt, value := if down then none else if known then some 0 else some v, power := o.power, track := x.track }

/-- A symbol of S goes to the pair's delay line, an erased one does not (R204, R205); four reach past what the line holds. -/
def feedLine (o : SymbolObs) (hit : Bool) (x : Context) (s : State) : State :=
  match x.pair with
  | some (p, false) => if hit then s else { s with rx.lines := s.rx.lines.set p ((synthOf o x :: s.rx.lines[p]).take 4) }
  | _ => s

/-- The symbol that a context decides overlaps a blank or a gain change. -/
def symbolHit (x : Context) (s : State) : Bool := if x.late then lateHit x else x.touched || s.radio.blanked

/-- Erasures of the block with the present symbol. -/
def blockSpent (hit : Bool) (x : Context) : Nat := x.blockErased + b2n (hit && !pilotSlot x.blockPos)

/-- The next symbol begins: W turns to the delay line at its first boundary, and forgets intervals that are past (R204). -/
def nextSymbol (blanked : Bool) (x : Context) : Context :=
  let w := match x.pair with | some (_, true) => true | _ => false
  let t := x.symAt + symbolSpan x
  { x with touched := blanked && !x.late && !w, late := x.late || w, symAt := t,
           hits := x.hits.filter fun h => match h.2 with | none => true | some e => decide (0 ≤ (e - t).toInt) }

/-- A context decides a symbol (R198, R203, R212): a block with more erasures than its code carries releases it. -/
def symbolDecision (id : CtxId) (o : SymbolObs) (s : State) : State :=
  let x := ctxOf id s
  if !ctxPresent id s || !x.busy then s
  else if x.ofdm then
    setCtx id { ofdmSymbol s.radio.region o.bins (countSymbol o x) with symbols := x.symbols + 1 } s
  else
    let hit := symbolHit x s
    let o1 := throughLine o x s
    if hit && x.st ≠ .sync && decide (erasureLimit x < blockSpent hit x) then checkDrains (release id .blanked s)
    else setCtx id (nextSymbol s.radio.blanked (chirpSymbol (strongDb id s) o1 hit x)) (feedLine o1 hit x s)

def execSymbolDecision (c : CtxId) (o : SymbolObs) (s : State) : Out := .next (symbolDecision c o s)

/-! ### Sync, mark and header (R130, R197, R199) -/

/-- Whether a context accepts any valid identifier (R192, R210). -/
def ctxAnyNet (id : CtxId) (s : State) : Bool :=
  match id with
  | .alley => match s.rx.alley with | some r => r.anyNet | none => false
  | .blvd n =>
    match (s.rx.plan.bind fun p => p.entries[(s.rx.ctxs[n]).entry.val]?) with
    | some (.chirp _ _ any _ _) => any
    | _ => false

/-- A half of NETID from its sync symbol: the nearest multiple of 2^(K−6) after preamble correction (R130). -/
def syncHalf (x : Context) (peak : Rat) : BitVec 6 :=
  BitVec.ofNat 6 (nearestValue x.k (2 ^ (x.k - 6)) (placeOf x peak) / 2 ^ (x.k - 6))

/-- The two sync symbols are decided (R124, R130), within 60 symbols of the detection (R197). -/
def syncDecision (id : CtxId) (first second : Rat) (s : State) : State :=
  let x := ctxOf id s
  if !ctxPresent id s || x.st ≠ .sync || x.synced then s
  else if 60 < x.symbols then release id .noMark s
  else
    let high := syncHalf x first
    let low := syncHalf x second
    let net : BitVec 12 := high ++ low
    if (if ctxAnyNet id s then high ≠ 0 && low ≠ 0 else net = x.profile.netid) then
      setCtx id { x with synced := true, netid := net } s
    else release id .foreign s

def execSyncDecision (c : CtxId) (first second : Rat) (s : State) : Out := .next (syncDecision c first second s)

/-- The timing mark has been found, its two down-sweeps peaking where the operands say: the loop has its initial corrections
(R144). Two symbols have passed since its instant, and two more on the delay line (R131, R197, R204). -/
def timingMark (id : CtxId) (first second : Rat) (s : State) : State :=
  let x := ctxOf id s
  if !ctxPresent id s || x.st ≠ .sync || !x.synced then s
  else
    let t := trackMark x.preamble ((first + second) / 2)
    setCtx id { x with st := .header, blockPos := 0, blockErased := 0, cols := [], bits := [], track := t, markCarrier := t.carrier,
                       stamp := s.time.nt - BitVec.ofNat 64 (usU ((if x.late then 4 else 2) * symbolUs x.k x.profile.bw)) } s

def execTimingMark (c : CtxId) (first second : Rat) (s : State) : Out := .next (timingMark c first second s)

/-- No mark after the sync, or no sync within 60 symbols of the detection (R197). -/
def noMark (id : CtxId) (s : State) : State :=
  let x := ctxOf id s
  if ctxPresent id s && x.st = .sync && (x.synced || decide (60 ≤ x.symbols)) then release id .noMark s else s

def execNoMark (c : CtxId) (s : State) : Out := .next (noMark c s)

/-- Bytes of the Frame Store that a frame takes (R213). -/
def storeNeed (length : Nat) : Nat := 4 * (12 + ceilDiv length 4)

/-- The 44 bits of a received header, or the 32 of a chirp header, and whether its fill bits are 0. -/
def headerBits (x : Context) : BitVec 44 × Bool :=
  if x.ofdm then (softHeader x, true) else let h := headerWord x.bits; (h.1.setWidth 44, h.2)

/-- A header's fields (R132, R161). -/
def headerOf (x : Context) (bits : BitVec 44) (s : State) : RxHeader :=
  if x.ofdm then
    let m := hfld bits 11 10
    { length := hfld bits 0 11, code := BitVec.ofNat 2 (hfld bits 21 2), width := x.hdr.width, cp := hfld bits 30 1 = 1,
      map := BitVec.ofNat 10 m, seed := BitVec.ofNat 7 (hfld bits 23 7), mapBits := mapBitsOf m s }
  else
    let w : Word := bits.setWidth 32
    { length := fld w 9 0, code := BitVec.ofNat 2 (fld w 11 10), ackFlag := bitAt w 12 }

/-- Every symbol of the header has been decided. -/
def headerHeard (x : Context) : Bool := if x.ofdm then decide (4 ≤ x.symbols) else headerFull x

/-- The header is decided (R135, R164, R197, R199, R213), once its symbols are: the context commits, or is released. -/
def headerDecision (id : CtxId) (s : State) : State :=
  let x := ctxOf id s
  if !ctxPresent id s || x.st ≠ .header || !headerHeard x then s
  else
    let b := headerBits x
    let ok := if x.ofdm then ofdmHeaderOk b.1 else chirpHeaderOk (b.1.setWidth 32) b.2
    let h := headerOf x b.1 s
    if !ok then release id .headerFail s
    else if x.ofdm && (mapContent s h.map.toNat).isNone then release id .mapAbsent s
    else if storeFree s < storeNeed h.length then release id .storeFull s
    else setCtx id { x with st := .committed, hdr := h, bits := [], reserved := storeNeed h.length } s

def execHeaderDecision (c : CtxId) (s : State) : Out := .next (headerDecision c s)

/-! ### The last payload decision (R199, R206, R234) -/

/-- The number of a context as descriptors give it (R213). -/
def ctxNumber : CtxId → Nat
  | .alley => 0 | .blvd n => n.val

/-- Payload bits of the frame that a context receives (R136, R170). -/
def payloadBits (x : Context) (s : State) : Nat :=
  if x.ofdm then
    let b := bSym (effCodes s.radio.region x.profile.carrier x.hdr.width x.hdr.mapBits)
    ofdmSymbols x.hdr.code x.hdr.length b * b
  else chirpBlocks x.k x.hdr.code x.hdr.length * (x.k * codeBits x.hdr.code)

/-- The PSDU, its CRC-32 and what was measured: the chirp payload descrambled from the NETID found (R130, R137, R152), or the OFDM
payload's codewords corrected (R166, R187). -/
def frameOf (x : Context) (level : FrameLevel) (s : State) : (List Byte × Word) × Meas :=
  let L := x.hdr.length
  if x.ofdm then
    let m := ofdmMessage x.hdr (x.bits.take (payloadBits x s))
    (splitMessage L m.1, ofdmMeas s.radio.region x m.2.1 m.2.2)
  else (splitMessage L (bytesOfBits (L + 4) (scramble15 (scrambleSeed x.netid) x.bits)), chirpMeas x level.snr)

/-- The frame that a committed context passes to the decision pipeline. -/
def pipeFrameOf (id : CtxId) (x : Context) (r : Reception) (level : FrameLevel) (s : State) : PipeFrame :=
  let f := frameOf x level s
  { ackAt := BitVec.ofNat 64 (frameEnd x s + usUp (ackGap (ackOfContext x))), decidedAt := s.time.nt, boulevard := isBlvd id,
    entry := x.entry, context := ctxNumber id, ofdm := x.ofdm, pairWeak := x.wasWeak, pairStrong := x.wasStrong,
    stamp := x.stamp, rssi := aerialRssi level.rfioHalfDb (x.gain = 6) s, k := x.k, bw := x.profile.bw, netid := x.netid,
    carrier := x.profile.carrier, hdr := x.hdr, erased := x.erased, pilotsLost := x.pilotsLost, meas := f.2, psdu := f.1.1,
    crcOk := f.1.2 = crc32 f.1.1, reserved := x.reserved, port := r.port, monitor := r.monitor,
    listened := if isBlvd id then none else some (r.profile, x.profile) }

/-- The last payload symbol is decided: the frame passes to the pipeline and its context is free (R197, R199). -/
def lastDecision (id : CtxId) (level : FrameLevel) (s : State) : State :=
  let x := ctxOf id s
  if !ctxPresent id s || x.st ≠ .committed || decide (x.bits.length < payloadBits x s) then s
  else match pathReception (isBlvd id) s with
    | none => s
    | some r =>
      let f := pipeFrameOf id x r level s
      let s1 := freeCtx id s
      checkDrains { s1 with rx.pipe := s1.rx.pipe ++ [f] }

def execLastPayloadDecision (c : CtxId) (level : FrameLevel) (s : State) : Out := .next (lastDecision c level s)

/-! ### Gain (R102, R194, R211) -/

/-- The highest gain step number and the order of the steps: bypass (6) lies below G0. -/
def gainStep (bypass : Bool) (up : Bool) (g : Nat) : Nat :=
  if up then (if g = 6 then 0 else min 5 (g + 1))
  else if g = 6 then 6 else if g = 0 then (if bypass then 6 else 0) else g - 1

/-- The Boulevard changes its gain by a step (R194): chirp contexts lose the symbol that contains the change, OFDM receptions are released. -/
def gainChange (up : Bool) (s : State) : State :=
  match s.rx.blvd, s.rx.plan with
  | some _, some pl =>
    let held := allCtxs.any fun id => (ctxOf id s).st = .header || (ctxOf id s).st = .committed
    let g := gainStep (s.radio.rfNow.extLna && s.radio.rfNow.lnaBypass) up s.rx.gain
    if pl.gainFixed || s.radio.mode ≠ .rx || (up && held) || g = s.rx.gain then s
    else
      checkDrains (loseSymbols (some s.elapsed.now)
        (releaseWhere (fun _ x => x.busy && x.ofdm) .gain { s with rx.gain := g, radio.alleyGain := g }))
  | _, _ => s

def execGainChange (up : Bool) (s : State) : Out := .next (gainChange up s)

end Sys2Proof.Machine
end

