-- ==== Sys2Proof/Machine/Firmware.lean ====
section
/-! DEFINITION. What link firmware does for itself: the frames it queues (R254, R259, R305), its P-256 keys (R316, R318) and the
attestation report (R326). -/

namespace Sys2Proof.Machine
open Sys2Proof

/-! ### Frames of link firmware -/

/-- What the manual leaves open of a frame that link firmware queues for itself, drawn as free values (log 40). -/
structure FwOpen where
  power : Int
  retries : Nat
  retryMs : Nat
  queue : Fin 32
  enc : Bool
  miclen : BitVec 2
  ack : Bool
  deriving DecidableEq, Repr

/-- The open values of a word, each within its range (R220, R242). -/
def fwOpenOf (w : Word) : FwOpen :=
  { power := (fld w 7 0 % 101 : Nat) - 40, retries := fld w 10 8, retryMs := fld w 18 11 % 255 + 1,
    queue := Fin.ofNat 32 (fld w 23 19), enc := bitAt w 24, miclen := BitVec.ofNat 2 (fld w 28 25 % 3 + 1), ack := bitAt w 29 }

/-- The next open values. -/
def drawFw (s : State) : FwOpen × State :=
  let r := drawWord s
  (fwOpenOf r.1, r.2)

/-- A frame of link firmware before its own fields: power and retries open, the device's late tolerance. -/
def fwFrame (kind : FrameKind) (o : FwOpen) (profile : Fin 16) (s : State) : TxFrame :=
  { fid := s.link.nextFid, kind, queue := o.queue, profile, retries := o.retries, retryMs := o.retryMs,
    lateTol := s.radio.rf.lateTol.toNat, power := o.power }

/-- A frame secured under a link's key, addressed to its short address, or to its EUI-64 if it has none (R219, R222). -/
def secureTo (e : LinkEntry) (enc : Bool) (miclen : BitVec 2) (f : TxFrame) : TxFrame :=
  let long := decide (e.short = noShort)
  { f with link := some e.id, enc, miclen, dstLong := long, dst := if long then e.eui else e.short.setWidth 64 }

/-- Whether link firmware can queue one more frame: a place among the 128 (R13) and in its queue (R275), a region table (R121), not
RETIRED, and for a secured frame a counter value (R227). -/
def fwAdmits (f : TxFrame) (s : State) : Bool :=
  let q := s.traffic.queues[f.queue]
  decide (s.link.frames.length < 128) && (q.depth = 0 || decide ((queueFrames f.queue s).length < q.depth.toNat)) && s.radio.region.isSome && s.lifecycle ≠ .retired &&
    (f.miclen = 0 || (match frameLink f s with
      | some e => decide (e.outCtr.toNat + e.reserved + 1 < 0xFFFFFFFF) && e.deleting.isNone | none => false))

/-- A frame of link firmware queued, where it can be (log 41). -/
def fwQueue (f : TxFrame) (s : State) : State := if fwAdmits f s then submitFrame f s else s

/-! ### P-256 keys of link firmware (R316, R318) -/

/-- A private key from 256 bits: a value from 1 to n − 1 (FIPS 186-5). -/
def privOf (v : BitVec 256) : BitVec 256 := BitVec.ofNat 256 (v.toNat % (p256N - 1) + 1)

/-- A fresh key pair's private key (R316, R317). -/
def freshKey (s : State) : BitVec 256 × State :=
  let r := drbgWords 8 s
  (privOf (mk256 r.1), r.2)

/-- The attestation key, slot 0 (R318). -/
def attestKey (s : State) : BitVec 256 := privOf (Config.deviceKey 0 (otpHash s 8))

/-- The 64 bytes of a public key, X then Y (R249). -/
def pubBytes (q : BitVec 256 × BitVec 256) : List Byte := bytes256 q.1 ++ bytes256 q.2

/-- The public key or signature that 64 bytes spell. -/
def pairBytes (bs : List Byte) : BitVec 256 × BitVec 256 :=
  (BitVec.ofNat 256 (natBE (bs.take 32)), BitVec.ofNat 256 (natBE ((bs.drop 32).take 32)))

/-- The 64 bytes of an ECDSA signature over SHA-256 of bytes, r then s. -/
def signBytes (key : BitVec 256) (msg : List Byte) : List Byte := pubBytes (ecdsaSign key (sha256 msg))

/-! ### The attestation report (R326) -/

/-- The code of a debug state (R328). -/
def debugCode : DebugMode → Nat
  | .closed => 0 | .app => 1 | .full => 2

/-- Bytes 0 to 175 of the report formed now. -/
def reportBody (challenge : List Byte) (s : State) : List Byte :=
  let v (f : Image → Word) : Word := match activeImage s with | some i => f i | none => 0#32
  [0x01#8, BitVec.ofNat 8 (lifecycleCode s.lifecycle), BitVec.ofNat 8 (debugCode s.sec.debug + 4 * b2n s.sec.logFull), s.power.variant]
    ++ bytesOfBE 8 s.eui.toNat ++ bytesBE s.flash.bootCount ++ bytesOfBE 8 s.time.nt.toNat ++ (challenge ++ zeros 16).take 16
    ++ s.sec.mrs.toList.flatMap bytes256 ++ bytesBE (v fun i => i.linkVersion) ++ bytesBE (v fun i => i.appVersion)

/-- The report's 240 bytes. -/
def report (challenge : List Byte) (s : State) : List Byte :=
  let b := reportBody challenge s
  b ++ signBytes (attestKey s) b

/-- ATTEST_SERVED (R341). -/
def attestServed (requester : BitVec 24) (remote refused : Bool) (s : State) : State :=
  raise 0x0C7 ([W (requester.toNat + b2n remote * 2 ^ 24 + b2n refused * 2 ^ 25)] ++ words64 s.time.nt) s

/-- A radio request within the configured rate has its report made and signed by the PKA; one beyond it is not answered (R316, R327). -/
def remoteAttest (e : LinkEntry) (challenge : List Byte) (s : State) : State :=
  let recent := s.sec.remoteServed.filter fun t => decide (s.elapsed.now.toNat < t.toNat + secU 60)
  let s1 := { s with sec.remoteServed := recent }
  if s.sec.remoteRate ≤ recent.length || !s.isUsable dCRYPTO then attestServed e.short true true s1
  else pkaOwn (.remoteReport e.id challenge) 1 { s1 with sec.remoteServed := recent ++ [s.elapsed.now] }

/-- The reply to a radio request, its report signed, queued on the policy's queue and profile (R327). -/
def remoteReport (link : BitVec 24 × DWord) (challenge : List Byte) (s : State) : State :=
  match linkById link s with
  | none => attestServed link.1 true true s
  | some e =>
    let o := drawFw s
    let f := secureTo e true 2#2 (fwFrame .attestReport { o.1 with queue := s.sec.remoteQueue } s.sec.remoteProfile o.2)
    let payload := [0x4B#8, 0x52#8, 0x41#8, 0x32#8] ++ report challenge o.2
    attestServed e.short true false (fwQueue { f with ackReq := true, payload } o.2)

end Sys2Proof.Machine
end

