-- ==== Sys2Proof/Machine/Cipher.lean ====
section
/-! DEFINITION. CIPHER_RUN and its contexts (R309-R315, R336, R516). -/

namespace Sys2Proof.Machine
open Sys2Proof

/-! ### The work of a message -/

/-- Bytes enter a CBC-MAC state with its buffer; with `keep` a last whole block stays buffered. -/
def absorb (key : List Byte) (keep : Bool) (st : List Byte × List Byte) (bs : List Byte) : List Byte × List Byte :=
  let all := st.2 ++ bs
  let n := 16 * ((if keep then all.length - 1 else all.length) / 16)
  (cbcMac key (chunks 16 (all.take n)) st.1, all.drop n)

/-- Mode numbers (R309). -/
def mCCM : BitVec 3 := 4#3
def mCMAC : BitVec 3 := 5#3
def mSHA : BitVec 3 := 6#3

/-- A message with its MAC state begun: B0 and the length of the additional data for CCM. -/
def openMsg (m : CipherMsg) : CipherMsg :=
  if m.mode = mCCM then
    let st := absorb m.key false (zeros 16, []) (ccmB0 m.nonce m.aadBytes m.msgBytes m.tagLen ++ ccmPrefix m.aadBytes)
    { m with chain := st.1, mac := st.2 }
  else m

/-- CCM over the data of one command: additional data first, then the message. -/
def stepCcm (m : CipherMsg) (data : List Byte) : List Byte × CipherMsg :=
  let a := data.take (m.aadBytes - m.consumed)
  let b := data.drop a.length
  let st1 := absorb m.key false (m.chain, m.mac) a
  let ends := decide (m.consumed < m.aadBytes) && decide (m.aadBytes ≤ m.consumed + a.length)
  let st2 := if ends then absorb m.key false (st1.1, []) (pad16 st1.2) else st1
  let out := xorBytes b (ccmStream m.key m.nonce (m.consumed + a.length - m.aadBytes) b.length)
  let st3 := absorb m.key false st2 (if m.decrypt then out else b)
  (out, { m with chain := st3.1, mac := st3.2, consumed := m.consumed + data.length })

/-- The output of one command's data, and the message after it (R309). -/
def stepMsg (m : CipherMsg) (data : List Byte) : List Byte × CipherMsg :=
  let bs := chunks 16 data
  let done (r : List Byte × List Byte) : List Byte × CipherMsg := (r.1, { m with chain := r.2, consumed := m.consumed + data.length })
  match m.mode.toNat with
  | 0 => done (if m.decrypt then cbcDec m.key bs m.chain else cbcEnc m.key bs m.chain)
  | 1 => done (ctr m.key bs m.chain)
  | 2 => done (cfb m.key m.decrypt bs m.chain)
  | 3 => done (ofb m.key bs m.chain)
  | 4 => stepCcm m data
  | 5 =>
    let st := absorb m.key true (m.chain, m.mac) data
    ([], { m with chain := st.1, mac := st.2, consumed := m.consumed + data.length })
  | _ =>
    let n := data.length / 64 * 64
    ([], { m with hash := (chunks 64 (data.take n)).foldl shaBlock m.hash, mac := data.drop n, consumed := m.consumed + data.length })

/-- The tag at the end of a CCM or CMAC message. -/
def endTag (m : CipherMsg) : List Byte :=
  if m.mode = mCCM then
    let st := absorb m.key false (m.chain, []) (pad16 m.mac)
    (xorBytes st.1 (aesEnc m.key (ccmCtr m.nonce 0))).take m.tagLen
  else if m.mode = mCMAC then (cmacLast m.key m.chain m.mac).take m.tagLen
  else []

/-- The digest at the end of a SHA-256 message. -/
def endDigest (m : CipherMsg) : List Byte := if m.mode = mSHA then bytes256 (shaEnd m.hash m.mac m.msgBytes) else []

/-- The mode checks a tag when it ends: CCM decryption and CMAC verification. -/
def verifiesTag (m : CipherMsg) : Bool := m.decrypt && (m.mode = mCCM || m.mode = mCMAC)

/-- The result words (R336). -/
def cipherWords (ctx : Nat) (m : CipherMsg) (out tag : List Byte) : List Word :=
  [W (out.length + ctx * 2 ^ 16)] ++ packBE ((tag ++ zeros 16).take 16) ++ [m.nonceCtr.setWidth 32, (m.nonceCtr >>> 32).setWidth 32]
    ++ packLE out

/-! ### The checks (R309-R313, R336, R516) -/

/-- COUNT: 12 words and the data. -/
def cipherLen (ps : List Word) : Bool :=
  decide (12 ≤ ps.length) && decide (fld (param ps 2) 12 0 ≤ 4044) && ps.length = 12 + (fld (param ps 2) 12 0 + 3) / 4

/-- The step of word 1: 0 single, 1 BEGIN, 2 CONTINUE, 3 FINAL. -/
def stepOf (ps : List Word) : Nat := fld (param ps 1) 1 0

/-- What every step's fields must meet. -/
def staticBad (ps : List Word) : Bool :=
  let w := param ps 1
  let mode := fld w 5 3
  let dec := bitAt w 2
  let ccmDecrypt := mode = 4 && dec
  !onlyBits w 0x0007FFFF#32 || !onlyBits (param ps 2) 0x1FFF#32 || !onlyBits (param ps 4) 0x00FFFFFF#32 || mode = 7
    || decide (4 < fld w 9 7) || (bitAt w 6 && !ccmDecrypt) || (ccmDecrypt && !bitAt w 6 && stepOf ps ≠ 0)
    || (bitAt w 15 && !(mode = 4 && !dec))

/-- The fields of a single or BEGIN command that its mode does not use are 0, and the others within their ranges. -/
def openBad (ps : List Word) : Bool :=
  let w := param ps 1
  let mode := fld w 5 3
  let w4 := param ps 4
  let tagLen := fld w4 19 16
  let nonceLen := fld w4 23 20
  let iv := unpackBE ((ps.drop 4).take 4)
  let used := if mode = 4 then nonceLen - (if bitAt w 15 then 6 else 0) else if mode = 5 || mode = 6 then 0 else 16
  let badTag := decide (tagLen < 4) || decide (tagLen % 2 = 1)
  (mode ≠ 4 && (fld w4 15 0 ≠ 0 || nonceLen ≠ 0)) || (mode ≠ 4 && mode ≠ 5 && tagLen ≠ 0) || ((iv.drop used).any fun b => b ≠ 0#8)
    || (mode = 6 && fld w 14 10 ≠ 0) || ((mode = 4 || mode = 5) && badTag) || (mode = 4 && (decide (nonceLen < 7) || decide (13 < nonceLen)))

/-- The message that a single or BEGIN command opens, its nonce still without an automatic part. -/
def newMsg (c : Cmd) (key : List Byte) (s : State) : CipherMsg :=
  let w := param c.ps 1
  let w4 := param c.ps 4
  let mode := BitVec.ofNat 3 (fld w 5 3)
  let iv := unpackBE ((c.ps.drop 4).take 4)
  { port := c.port, slot := fld w 14 10, mode, decrypt := bitAt w 2, stream := bitAt w 6, priority := BitVec.ofNat 3 (fld w 9 7),
    autoNonce := bitAt w 15, msgBytes := (param c.ps 3).toNat, aadBytes := fld w4 15 0, tagLen := fld w4 19 16, nonceCtr := 0,
    consumed := 0, key, chain := if mode = mCMAC then zeros 16 else iv, mac := [], hash := shaInit,
    nonce := iv.take (fld w4 23 20), last := s.elapsed.now }

/-- Counters and lengths that would wrap (R312). -/
def exhausted (m : CipherMsg) : Bool :=
  (m.mode = 1#3 && decide (2 ^ 32 < natBE (m.chain.drop 12) + (m.msgBytes + 15) / 16)) ||
  (m.mode = mCCM && decide (2 ^ (8 * (15 - m.nonce.length)) ≤ m.msgBytes))

/-- What the data of a command does to the stated lengths (R309, R336). -/
def lengthBad (m : CipherMsg) (final : Bool) (n : Nat) : Bool :=
  let left := m.msgBytes + m.aadBytes - m.consumed
  let unit := if m.mode = mSHA then 64 else 16
  decide (left < n) || (final && n ≠ left) || (!final && n % unit ≠ 0) || (m.mode = 0#3 && m.msgBytes % 16 ≠ 0)

/-- The words of TAG beyond what the command verifies are 0 (R516). -/
def tagBad (m : CipherMsg) (final : Bool) (ps : List Word) : Bool :=
  let n := if final && verifiesTag m then m.tagLen else 0
  ((unpackBE ((ps.drop 8).take 4)).drop n).any fun b => b ≠ 0#8

/-! ### Running a step -/

/-- The free context with the highest number not above p (R310). -/
def freeContext (p : Nat) (s : State) : Option Nat :=
  (List.range (p + 1)).reverse.find? fun n => (s.sec.ctxs.toList.getD n none).isNone

def putMsg (n : Nat) (m : Option CipherMsg) (s : State) : State := { s with sec.ctxs := s.sec.ctxs.set! n m }

/-- Every open message whose slot meets a test is abandoned (R315). -/
def abandonSlots (f : Nat → Bool) (s : State) : State :=
  { s with sec.ctxs := s.sec.ctxs.map fun m => m.filter fun x => x.mode = mSHA || !f x.slot }

/-- One command's data through a message in a context: its response, and the context kept or freed (R313, R314). -/
def runStep (c : Cmd) (ctx : Nat) (final : Bool) (m : CipherMsg) (s : State) : State :=
  let data := (unpackLE (c.ps.drop 12)).take (fld (param c.ps 2) 12 0)
  let r := stepMsg m data
  if !final then finish c .ok (cipherWords ctx r.2 r.1 []) (putMsg ctx (some { r.2 with last := s.elapsed.now }) s)
  else
    let s1 := putMsg ctx none s
    let tag := endTag r.2
    let ok := !verifiesTag m || tag = (unpackBE ((c.ps.drop 8).take 4)).take m.tagLen
    if m.stream then
      let s2 := if r.1.isEmpty then s1 else segment c (cipherWords ctx r.2 r.1 []) s1
      if ok then finish c .ok (cipherWords ctx r.2 [] []) s2
      else
        -- the poison packet, then the final response (R73, R314)
        let poison := [header 4 c.code c.tag.toNat 1, W (statusCode .authFail)]
        finish c .authFail [] (produce c.port laneResp (poison.map fun w => (w, none)) s2)
    else if !ok then finish c .authFail [] s1
    else finish c .ok (cipherWords ctx r.2 (r.1 ++ endDigest r.2) (if m.decrypt then [] else tag)) s1

/-- The slot's invocation counter taken for a message: incremented before use; a persistent slot journals a new ceiling when it
needs one (R312). -/
def takeNonce (m : CipherMsg) (s : State) : Except Status (CipherMsg × State) :=
  match s.sec.slots.toList.getD m.slot none with
  | none => .error .keyAbsent
  | some k =>
    if k.nonceCtr = BitVec.allOnes 48 then .error .counterExhausted
    else
      let n := k.nonceCtr + 1
      let needs := k.persist && decide (k.nonceCeil.toNat < n.toNat)
      if needs && s.power.bodWarn then .error .brownoutHold
      else
        let ceil : BitVec 48 := if needs then BitVec.ofNat 48 (min (2 ^ 48 - 1) (k.nonceCeil.toNat + 65536)) else k.nonceCeil
        let k' := { k with nonceCtr := n, nonceCeil := ceil }
        .ok ({ m with nonceCtr := n, nonce := m.nonce.take (m.nonce.length - 6) ++ bytesOfBE 6 n.toNat },
          { s with sec.slots := s.sec.slots.set! m.slot (some k'),
                   sec.records := if k.persist then s.sec.records.set! m.slot (some k') else s.sec.records })

/-- The key of a new message, or what refuses its slot. -/
def msgKey (ps : List Word) (s : State) : Except Status (List Byte) :=
  let w := param ps 1
  let slot := fld w 14 10
  if fld w 5 3 = 6 then .ok []
  else match slotRefusal slot (if fld w 5 3 = 5 then 1 else 0) [.aes128, .aes256] s, usableSlot slot s with
    | none, some k => .ok k.aesBytes
    | some st, _ => .error st
    | none, none => .error .keyAbsent

/-- A single or BEGIN command: its fields, then its slot, then its counters (R70 step 7). -/
def cipherOpen (c : Cmd) (s : State) : State :=
  let single := stepOf c.ps = 0
  let form := newMsg c [] s
  match firstFail [(openBad c.ps || tagBad form single c.ps, .badParam), (lengthBad form single (fld (param c.ps 2) 12 0), .badLength)] with
  | some st => finish c st [] s
  | none =>
    match msgKey c.ps s with
    | .error st => finish c st [] s
    | .ok key =>
      let m := newMsg c key s
      if exhausted m then finish c .counterExhausted [] s
      else
        match freeContext m.priority.toNat s with
        | none => { s with sec.waiting := s.sec.waiting ++ [⟨⟨c.port, c.tag, c.ps, true⟩, BitVec.ofNat 12 c.code⟩] }
        | some n =>
          match (if m.autoNonce then takeNonce m s else .ok (m, s)) with
          | .error st => finish c st [] s
          | .ok (m1, s1) => runStep c n single (openMsg m1) s1

/-- A CONTINUE or FINAL command. -/
def cipherNext (c : Cmd) (s : State) : State :=
  let w := param c.ps 1
  let final := stepOf c.ps = 3
  let n := fld w 18 16
  if ((c.ps.drop 2).take 6).any (fun x => x ≠ 0#32) then finish c .badParam [] s
  else match (s.sec.ctxs.toList.getD n none).filter fun m => m.port = c.port with
    | none => finish c .noEntry [] s
    | some m =>
      let same := fld w 5 3 = m.mode.toNat && bitAt w 2 = m.decrypt && bitAt w 6 = m.stream && fld w 9 7 = m.priority.toNat
        && fld w 14 10 = m.slot && bitAt w 15 = m.autoNonce
      match firstFail [(!same || tagBad m final c.ps, .badParam), (lengthBad m final (fld (param c.ps 2) 12 0), .badLength)] with
      | some st => finish c st [] s
      | none => runStep c n final m s

/-- CIPHER_RUN after the Plaza's checks. SHA-256 needs no slot and does not wait for the key store (R320). -/
def cipherOwner (c : Cmd) (s : State) : State :=
  let run (c : Cmd) (s : State) : State :=
    if !s.isUsable dCRYPTO then finish c .domainOff [] s
    else if staticBad c.ps then finish c .badParam [] s
    else if stepOf c.ps ≤ 1 then cipherOpen c s
    else cipherNext c s
  if fld (param c.ps 1) 5 3 = 6 then run c s else waitKeys run c s

end Sys2Proof.Machine
end

