-- ==== Sys2Proof/Machine/Attest.lean ====
section
/-! DEFINITION. Attestation, lifecycle and debug (R322-R331, R337-R339, R341). -/

namespace Sys2Proof.Machine
open Sys2Proof

/-! ### ATTEST (R325-R327, R337) -/

/-- A record of the measurement log as its 36 bytes (R325). -/
def logRecord (r : BitVec 2 × Byte × BitVec 256) : List Byte := [r.1.setWidth 8, r.2.1, 0#8, 0#8] ++ bytes256 r.2.2

/-- The packets of OP 2: TOTAL and LOG_FULL, then up to 100 records each (R337). -/
def logPackets (first : Nat) (s : State) : List (List Word) :=
  let head := W (s.sec.log.length + b2n s.sec.logFull * 2 ^ 9)
  match chunks 100 (s.sec.log.drop first) with
  | [] => [[head]]
  | cs => cs.map fun rs => head :: packLE (rs.flatMap logRecord)

/-- Responses in order: all but the last are segments (R73). -/
def segments (c : Cmd) : List (List Word) → State → State
  | [], s => finish c .ok [] s
  | [p], s => finish c .ok p s
  | p :: ps, s => segments c ps (segment c p s)

/-- COUNT by OP (R337). -/
def attestLen (ps : List Word) : Bool :=
  match fld (param ps 1) 1 0 with
  | 0 => ps.length = 5
  | 3 => ps.length = 1
  | _ => ps.length = 2

/-- The certificate's bytes: at most what BYTES can say. -/
def certificateBytes : List Byte := Config.certificate.take 2047

/-- ATTEST, its report signed where OP 0 asks for one. -/
def attestWork (c : Cmd) (s : State) : State :=
  let w1 := param c.ps 1
  let w2 := param c.ps 2
  if !s.isUsable dCRYPTO then finish c .domainOff [] s
  else if !onlyBits w1 0x3#32 then finish c .badParam [] s
  else match fld w1 1 0 with
    | 0 =>
      let ch := unpackBE (c.ps.drop 1)
      attestServed 0xFFFFFF#24 false false (finish c .ok (packLE (report ch s)) s)
    | 1 =>
      let rate := fld w2 27 20
      if !onlyBits w2 0x0FFF1F01#32 || rate = 0 then finish c .badParam [] s
      else
        let q := Fin.ofNat 32 (fld w2 12 8)
        let pr := Fin.ofNat 16 (fld w2 19 16)
        finish c .ok [] { s with sec.remoteEn := bitAt w2 0, sec.remoteQueue := q, sec.remoteProfile := pr, sec.remoteRate := rate,
                                 upd.settings.attest := some (q, pr, rate) }
    | 2 => if !onlyBits w2 0xFF#32 then finish c .badParam [] s else segments c (logPackets (fld w2 7 0) s) s
    | _ => finish c .ok (W certificateBytes.length :: packLE certificateBytes) s

/-- ATTEST (R337): the signature of a report is the PKA's work (R316). -/
def attestDo (c : Cmd) (s : State) : State :=
  if param c.ps 1 = 0#32 && s.isUsable dCRYPTO then pkaCommand c s else attestWork c s

def attestOwner : Cmd → State → State := waitKeys attestDo

def execAttest (p : Packet) (s : State) : Out := .next (plazaRun 0x705 attestLen attestOwner p s)

/-! ### Challenges (R328, R338, R339) -/

/-- A challenge is valid for 60 s from its issue. -/
def validChal (ch : Option (BitVec 256 × DWord)) (s : State) : Option (BitVec 256) :=
  match ch with
  | some (v, t) => if s.elapsed.now.toNat < t.toNat + secU 60 then some v else none
  | none => none

/-- A fresh challenge of 32 bytes. -/
def freshChal (s : State) : BitVec 256 × State :=
  let r := drbgWords 8 s
  (mk256 r.1, r.2)

/-- Bytes of a text. -/
def textBytes (t : String) : List Byte := t.toList.map fun ch => BitVec.ofNat 8 ch.toNat

/-- The owner's signature over SHA-256 of a message, by the key whose hash is the OTP owner root hash. -/
def ownerSigned (key sig : BitVec 256 × BitVec 256) (msg : List Byte) (s : State) : Bool :=
  keyHash key = otpHash s 24 && verifies key (sha256 msg) sig.1 sig.2

/-! ### LIFECYCLE_ADVANCE (R322, R323, R338) -/

/-- The transitions of R322. -/
def mayAdvance (target : Nat) (s : State) : Bool :=
  match s.lifecycle, target with
  | .blank, 1 => true
  | .blank, 2 => otpHash s 24 ≠ 0 && fld (otpWord s 2) 1 0 ≠ 0
  | .develop, 2 => otpHash s 24 ≠ 0 && fld (otpWord s 2) 1 0 ≠ 0
  | .blank, 3 => true
  | .develop, 3 => true
  | .secured, 3 => true
  | _, _ => false

/-- The OTP bits of a state and of every lower one, in three copies (R322, R407). -/
def thermometer (target : Nat) : Word := W ((2 ^ target - 1) * 0x10101)

/-- Transmission is disabled at once: nothing stays on the air or turns toward it (R323). -/
def stopTransmit (s : State) : State :=
  let s1 := if s.radio.mode = .tx then startReturn s
    else if s.radio.mode = .turnTx || (s.radio.mode = .settle && s.radio.settleFor ≠ some .rx) then giveUpTx s else s
  let back (f : TxFrame) : TxFrame := if f.stage = .queued || f.stage = .backOff then f else { f with stage := .queued }
  { s1 with link.frames := s1.link.frames.map back, link.acks := [], link.ackOnAir := none }

/-- What an advance does before its response (R323). -/
def advanceEffects (target : Nat) (s : State) : State :=
  let s1 : State := { s with flash.otp := otpSet 0 (otpWord s 0 ||| thermometer target) s.flash.otp }
  if target = 2 then
    { s1 with sec.records := Vector.ofFn fun i => if 4 ≤ i.val && i.val < 12 then none else s1.sec.records[i] }
  else if target = 3 then
    stopTransmit { s1 with sec.slots := Vector.replicate 32 none, sec.records := Vector.replicate 32 none, link.links := [] }
  else s1

/-- OP 1 leaves SECURED, so it carries a signature. -/
def advanceSigned (s : State) : Bool := s.lifecycle = .secured

/-- LIFECYCLE_ADVANCE, its signature verified where it carries one. -/
def lifecycleWork (c : Cmd) (s : State) : State :=
  let w1 := param c.ps 1
  let op1 := bitAt w1 0
  let target := fld w1 2 1
  let signed := op1 && advanceSigned s
  let owner := pair256 (c.ps.drop 1)
  let sig := pair256 (c.ps.drop 17)
  match firstFail [
      (c.ps.length ≠ (if signed then 33 else 1), .badLength), (!s.isHostPort c.port, .denied),
      ((!op1 || signed) && !s.isUsable dCRYPTO, .domainOff),
      (!onlyBits w1 0x7#32 || (op1 && target = 0) || (signed && !onCurve owner.1.toNat owner.2.toNat), .badParam),
      (op1 && !mayAdvance target s, .badState), (s.power.bodWarn, .brownoutHold), (!op1 && !s.sec.trngOk, .busy)] with
  | some st => finish c st [] s
  | none =>
    if !op1 then
      let r := freshChal s
      finish c .ok (words256 r.1) { r.2 with sec.lifeChal := some (r.1, s.elapsed.now) }
    else
      let s1 : State := if signed then { s with sec.lifeChal := none } else s
      let good := !signed || (match validChal s.sec.lifeChal s with
        | some ch => ownerSigned owner sig (textBytes "KR96-RETIRE" ++ bytesOfBE 8 s.eui.toNat ++ bytes256 ch) s
        | none => false)
      if !good then finish c .authFail [] s1
      else finish c .ok [] (oweReset c.port (advanceEffects target s1))

/-- LIFECYCLE_ADVANCE (R338): the owner's signature is the PKA's work (R316). -/
def lifecycleDo (c : Cmd) (s : State) : State :=
  if bitAt (param c.ps 1) 0 && advanceSigned s && c.ps.length = 33 && s.isUsable dCRYPTO then pkaCommand c s else lifecycleWork c s

def execLifecycleAdvance (p : Packet) (s : State) : Out :=
  .next (plazaRun 0x706 (fun ps => ps.length = 1 || ps.length = 33) lifecycleDo p s)

/-! ### DEBUG_UNLOCK and its JTAG form (R328-R330, R339) -/

/-- The OWNER_SEALED slots (R318). -/
def ownerSealed : BitVec 32 := 0x00000FF0#32

/-- A granted unlock: MR3 extended, OWNER_SEALED slots sealed and their open messages abandoned, the debug state, DEBUG_UNLOCKED
(R324, R329, R341). -/
def grantUnlock (scope : Nat) (key : List Byte) (jtag : Bool) (s : State) : State :=
  let s1 := extendMr 3 0x3F#8 (sha256 (key ++ [BitVec.ofNat 8 scope])) s
  let s2 := abandonSlots (fun n => ownerSealed.getLsbD n) { s1 with sec.sealedSlots := s1.sec.sealedSlots ||| ownerSealed }
  let s3 : State := { s2 with sec.debug := if scope = 2 || s2.sec.debug = .full then .full else .app }
  raise 0x0C8 (W (scope + b2n jtag * 4) :: words256 s3.sec.mrs[3]) s3

/-- An unlock attempt after its fields: what refuses it, and the state after it (R328, R339). -/
def tryUnlock (scope : Nat) (owner sig : BitVec 256 × BitVec 256) (jtag : Bool) (s : State) : Status × State :=
  match s.lifecycle with
  | .develop => (.ok, grantUnlock scope (zeros 64) jtag s)
  | .secured =>
    if scope = 2 then (.denied, s)
    else if 3 ≤ s.sec.failedSigs then (.locked, s)
    else if !s.isUsable dCRYPTO then (.domainOff, s)
    else if !onCurve owner.1.toNat owner.2.toNat then (.badParam, s)
    else
      let s1 : State := { s with sec.debugChal := none }
      let good := match validChal s.sec.debugChal s with
        | some ch => ownerSigned owner sig (textBytes "KR96-DEBUG" ++ bytesOfBE 8 s.eui.toNat ++ bytes256 ch ++ [BitVec.ofNat 8 scope]) s
        | none => false
      if good then (.ok, grantUnlock scope (pubBytes owner) jtag s1)
      else (.authFail, { s1 with sec.failedSigs := s1.sec.failedSigs + 1 })
  | _ => (.denied, s)

/-- A debug challenge issued, or what refuses it. -/
def debugChallenge (s : State) : Except Status (BitVec 256 × State) :=
  match firstFail [(!s.isUsable dCRYPTO, .domainOff), (s.lifecycle = .retired, .denied), (!s.sec.trngOk, .busy)] with
  | some st => .error st
  | none =>
    let r := freshChal s
    .ok (r.1, { r.2 with sec.debugChal := some (r.1, s.elapsed.now) })

/-- DEBUG_UNLOCK, its signature verified where it carries one. -/
def debugUnlockWork (c : Cmd) (s : State) : State :=
  let w1 := param c.ps 1
  let op1 := bitAt w1 0
  let scope := fld w1 2 1
  let want := match op1, s.lifecycle with
    | false, _ => decide (c.ps.length = 1)
    | true, .secured => decide (c.ps.length = 33)
    | true, .develop => decide (c.ps.length = 1)
    | true, _ => true
  if !want then finish c .badLength [] s
  else if !onlyBits w1 0x7#32 || (op1 && (scope = 0 || scope = 3)) then finish c .badParam [] s
  else if op1 then
    let r := tryUnlock scope (pair256 (c.ps.drop 1)) (pair256 (c.ps.drop 17)) false s
    finish c r.1 [] r.2
  else match debugChallenge s with
    | .error st => finish c st [] s
    | .ok (v, s1) => finish c .ok (words256 v) s1

/-- DEBUG_UNLOCK (R339): the owner's signature is the PKA's work (R316). -/
def debugUnlockDo (c : Cmd) (s : State) : State :=
  if bitAt (param c.ps 1) 0 && s.lifecycle = .secured && c.ps.length = 33 && s.isUsable dCRYPTO then pkaCommand c s
  else debugUnlockWork c s

/-- The access status of a JTAG exchange. -/
def dapEnd (st : Status) (s : State) : State := { s with sec.dapStatus := BitVec.ofNat 16 (statusCode st) }

/-- The JTAG instructions in run (R328). -/
def jtagDo (h : HeldDebug) (s : State) : State :=
  match h with
  | .chal => match debugChallenge s with
    | .error st => dapEnd st s
    | .ok (_, s1) => dapEnd .ok s1
  | .resp scope key sig =>
    if scope = 0#2 || scope = 3#2 then dapEnd .badParam s
    else
      let r := tryUnlock scope.toNat (pair256 key) (pair256 sig) true s
      dapEnd r.1 r.2

/-- A debug request held in stop is served once CRYPTO, the domain it targets, is released (R330). -/
def serveHeld (s : State) : State :=
  match s.sec.debugHeld with
  | some h => jtagDo h { s with sec.debugHeld := none }
  | none => s

end Sys2Proof.Machine
end

