-- ==== Sys2Proof/Machine/Rdv.lean ====
section
/-! DEFINITION. Rendezvous (R257-R262, R270, R271): slots of child and parent, re-acquisition and scan, the ends of windows, and the
commands. -/

namespace Sys2Proof.Machine
open Sys2Proof

/-! ### Listening -/

/-- T_s of a profile in µs: the sweep of a chirp, the payload symbol of OFDM (R260; OFDM, log 42). -/
def profileTs (p : Profile) : Nat := if p.ofdm then (if p.cp then 72 else 80) else symbolUs p.k p.bw

/-- 6 × T_s in fraction units (R260, R261). -/
def sixTs (n : Fin 16) (s : State) : Nat := usU (6 * profileTs s.phy.profiles[n])

/-- A window of a rendezvous opens until an instant, on a profile where the domains for it are on (R260). -/
def openWindow (r : Rdv) (centre end_ : Nat) (profile : Fin 16) (s : State) : State :=
  let w := some (BitVec.ofNat 64 centre, BitVec.ofNat 64 end_, false)
  let s1 := updateRdv r.short (fun r => { r with window := w, lastSlot := some (BitVec.ofNat 64 centre) }) s
  if radioDomains s.phy.profiles[profile] s && s.rx.alley.isNone then retuneReceptions (listenOn r.port profile s1) else s1

/-- The Alley path is listening for link firmware only. -/
def linkListens (s : State) : Bool := match s.rx.alley with | some a => a.byLink | none => false

/-- The listening for link firmware ends once no window needs it. -/
def closeListening (s : State) : State :=
  if linkListens s && !windowOpen s then
    endReception false (if s.rx.alleyCtx.busy then release .alley .stopped s else freeCtx .alley s)
  else s

/-! ### Misses (R261) -/

/-- The source of beacons with a short address, if one has been heard. -/
def sourceOf (a : BitVec 24) (s : State) : Option BeaconSource := s.rdv.sources.find? fun b => b.src = a

/-- The child goes to re-acquisition: to beacon windows, or to the scan if no beacon of the parent has been heard (log 43). -/
def reacquire (a : BitVec 24) (s : State) : State :=
  let st := if (sourceOf a s).isSome then RdvStage.windows else .scan
  updateRdv a (fun r => { r with stage := st, k := 0, slotFrame := none, slotSent := false, window := none,
                                 lastSlot := if st = .scan then none else r.lastSlot }) s

/-- The parent marks the link stale and raises LINK_STALE (R261, R273). -/
def markStale (r : Rdv) (s : State) : State :=
  match linkByShort r.short s with
  | none => s
  | some e =>
    if e.stale then s
    else
      let held := s.link.frames.countP fun f => f.link = some e.id
      raise 0x0C3 ([r.short.setWidth 32, W (held % 256)] ++ words64 r.lastContact)
        (updateLink e.id (fun e => { e with stale := true, dirty := true }) s)

/-- A window or slot passed without contact (R261): the miss is raised, and after MAX_MISS the child re-acquires and the parent
marks the link stale; a beacon window of a whole interval leads to the scan. -/
def miss (r : Rdv) (at_ half : Nat) (wide : Bool) (s : State) : State :=
  let n := r.misses + 1
  let s1 := raiseMissed r n at_ half (updateRdv r.short (fun r => { r with misses := n }) s)
  if r.parent then (if r.maxMiss ≤ n then markStale r s1 else s1)
  else match r.stage with
    | .slots => if r.maxMiss ≤ n then reacquire r.short s1 else s1
    | .windows =>
      updateRdv r.short (fun r => if wide then { r with stage := .scan, lastSlot := none } else { r with k := r.k + 1 }) s1
    | .scan => s1

/-! ### Slots (R258, R260) -/

/-- The next slot of a rendezvous at or after NT that has not been taken. -/
def nextSlot (r : Rdv) (s : State) : Nat :=
  r.slotAfter (BitVec.ofNat 64 (max (s.time.nt.toNat - 1) (match r.lastSlot with | some l => l.toNat | none => 0)))

/-- The payload of a link-control frame (R259). -/
def linkControl (kind : Byte) (parent : BitVec 24) (s : State) : List Byte :=
  [0x01#8, kind] ++ bytesOfLE 2 (boundTenths (ownBound s)) ++ bytesOfLE 3 parent.toNat

/-- A frame of the child that can go at a slot (R258): the oldest to the parent, a timed one only at its time. -/
def slotCandidate (r : Rdv) (x : Nat) (s : State) : Option TxFrame :=
  s.link.frames.find? fun f =>
    !f.bcast && shortOf f s = r.short && f.stage = .queued && !barred f s &&
      (match f.start with
       | some t => decide (0 < f.attempts) || (decide (t.toNat ≤ x) && decide (x ≤ t.toNat + usU f.lateTol))
       | none => true)

/-- The child's slot (R258, R259, R261): its oldest eligible frame to the parent, else a POLL, is to start at the slot. -/
def childSlot (r : Rdv) (x : Nat) (s : State) : State :=
  let take (fid : Option Nat) (s : State) : State :=
    updateRdv r.short (fun r => { r with lastSlot := some (BitVec.ofNat 64 x), slotFrame := fid, slotSent := false }) s
  if r.period.toNat / 4 < guardAt r x s then reacquire r.short s
  else match slotCandidate r x s with
    | some f => take (some f.fid) (updateFrame f.fid (fun f => { f with ackReq := f.ackReq || !f.inFlight }) s)
    | none =>
      match linkByShort r.short s with
      | none => take none s
      | some e =>
        let o := drawFw s
        let f := secureTo e o.1.enc o.1.miclen (fwFrame .linkControl { o.1 with retries := 0 } r.profile o.2)
        let poll := { f with ackReq := true, start := some (BitVec.ofNat 64 x), payload := linkControl 0x01#8 0 s }
        take (if fwAdmits poll o.2 then some poll.fid else none) (fwQueue poll o.2)

/-- The parent's slot (R260, R261): it listens from s_n − g to s_n + g + 6 × T_s. -/
def parentSlot (r : Rdv) (x : Nat) (s : State) : State :=
  let s1 := if r.period.toNat / 4 < guardAt r x s then markStale r s else s
  openWindow r x (x + parentGuard r x s + sixTs r.profile s) r.profile s1

/-- RDV_SLOT: the slot's instant comes, as early as the link needs: 2 ms for the child's frame, the guard for the parent
(R258, R260; log 44). -/
def rdvSlot (a : BitVec 24) (s : State) : State :=
  match rdvOf a s with
  | none => s
  | some r =>
    let x := nextSlot r s
    let lead := if r.parent then parentGuard r x s else msU 2
    if !s.fwRun || r.window.isSome || decide (s.time.nt.toNat + lead < x) then s
    else if r.parent then parentSlot r x s
    else if r.stage = .slots && r.slotFrame.isNone then childSlot r x s
    else s

def execRdvSlot (short : BitVec 24) (s : State) : Out := .next (rdvSlot short s)

/-! ### Re-acquisition (R261) -/

/-- The start of the parent's next expected beacon at or after NT (R254): multiples of INTERVAL after the last timestamp. -/
def expectedBeacon (b : BeaconSource) (s : State) : Nat :=
  let off := usU (stampOffset s.phy.profiles[s.rdv.cfg.scanProfile])
  let t0 := b.last.toNat
  t0 + msU (max 1 b.interval * ceilDiv ((s.time.nt.toNat + off - t0) * 1000) (max 1 b.interval * 2 ^ 32)) - off

/-- The guard that W_0 is twice of: that of the first beacon of the re-acquisition (R261). -/
def firstGuard (r : Rdv) (c : Nat) (s : State) : Nat := if r.k = 0 then guardAt r c s else r.guard0

/-- Half of the beacon window W_k at a beacon (R261). -/
def halfWindow (r : Rdv) (b : BeaconSource) (c : Nat) (s : State) : Nat := min (2 ^ r.k * firstGuard r c s) (msU b.interval / 2)

/-- REACQUISITION_WINDOW: the child opens W_k around an expected beacon of its parent. -/
def reacquisitionWindow (a : BitVec 24) (s : State) : State :=
  match rdvOf a s, sourceOf a s with
  | some r, some b =>
    let c := expectedBeacon b s
    let half := halfWindow r b c s
    let taken := match r.lastSlot with | some l => decide (c ≤ l.toNat) | none => false
    if !s.fwRun || r.parent || r.stage ≠ .windows || r.window.isSome || taken || decide (s.time.nt.toNat + half < c) then s
    else openWindow r c (c + half + sixTs s.rdv.cfg.scanProfile s) s.rdv.cfg.scanProfile
      (updateRdv a (fun r => { r with guard0 := firstGuard r c s }) s)
  | _, _ => s

def execReacquisitionWindow (short : BitVec 24) (s : State) : Out := .next (reacquisitionWindow short s)

/-- SCAN: the child receives on SCAN_PROFILE for SCAN_MS every SCAN_PERIOD. -/
def scan (a : BitVec 24) (s : State) : State :=
  match rdvOf a s with
  | none => s
  | some r =>
    let nt := s.time.nt.toNat
    let due := match r.lastSlot with | some l => decide (l.toNat + secU s.rdv.cfg.scanPeriod ≤ nt) | none => true
    if !s.fwRun || r.parent || r.stage ≠ .scan || r.window.isSome || !due then s
    else openWindow r nt (nt + msU s.rdv.cfg.scanMs) s.rdv.cfg.scanProfile s

def execScan (short : BitVec 24) (s : State) : Out := .next (scan short s)

/-! ### The ends of windows (R258, R260, R261) -/

/-- Half of a window that closes, in fraction units, as RDV_MISSED reports it; and whether it was a whole beacon interval. -/
def windowHalf (r : Rdv) (at_ end_ : Nat) (s : State) : Nat × Bool :=
  if r.parent || r.stage = .slots then (end_ - at_ - sixTs r.profile s, false)
  else match r.stage with
    | .scan => ((end_ - at_) / 2, false)
    | _ =>
      let h := end_ - at_ - sixTs s.rdv.cfg.scanProfile s
      (h, match sourceOf r.short s with | some b => decide (msU b.interval / 2 ≤ h) | none => true)

/-- A frame that began by an instant is still being received, on whichever path and for whichever listener, or decided. -/
def stillReceiving (end_ : DWord) (s : State) : Bool :=
  !s.rx.pipe.isEmpty || allCtxs.any fun id => (ctxOf id s).busy && decide ((ctxOf id s).since.toNat ≤ end_.toNat)

/-- A slot without contact is no miss of a parent whose guard is past a quarter of the period: it has marked the link stale (R261). -/
def missExempt (r : Rdv) (at_ : Nat) (s : State) : Bool := r.parent && decide (r.period.toNat / 4 < guardAt r at_ s)

/-- A listening window ends: without contact it is a miss. -/
def endWindow (r : Rdv) (s : State) : State :=
  match r.window with
  | none => s
  | some (at_, end_, heard) =>
    if s.time.nt.toNat < end_.toNat || stillReceiving end_ s then s
    else
      let h := windowHalf r at_.toNat end_.toNat s
      let s1 := updateRdv r.short (fun r => { r with window := none }) s
      closeListening (if heard || missExempt r at_.toNat s then s1 else miss r at_.toNat h.1 h.2 s1)

/-- The child's slot ends: its frame was sent and nothing was heard, a miss; or it could not start, and the slot is skipped
(R258, R261). -/
def endChildSlot (r : Rdv) (s : State) : State :=
  match r.slotFrame, r.lastSlot with
  | some fid, some x =>
    let going := match frameById fid s with
      | some f => f.stage = .prepared || f.stage = .onAir || f.stage = .awaitAck | none => false
    let tol := match frameById fid s with | some f => f.lateTol | none => 0
    let done := updateRdv r.short (fun r => { r with slotFrame := none, slotSent := false }) s
    if going || r.window.isSome then s
    else if r.slotSent then miss r x.toNat (guardAt r x.toNat s) false done
    else if x.toNat + usU tol < s.time.nt.toNat then done
    else s
  | _, _ => s

/-- The interval in which frames to the child were eligible ends (R258). -/
def endEligible (r : Rdv) (s : State) : State :=
  match r.eligibleUntil with
  | some u => if u.toNat < s.time.nt.toNat then updateRdv r.short (fun r => { r with eligibleUntil := none }) s else s
  | none => s

/-- RDV_WINDOW_CLOSE. -/
def rdvWindowClose (a : BitVec 24) (s : State) : State :=
  match rdvOf a s with
  | none => s
  | some r =>
    let s1 := endEligible r (if r.parent then s else endChildSlot r s)
    match rdvOf a s1 with
    | some r1 => endWindow r1 s1
    | none => s1

def execRdvWindowClose (short : BitVec 24) (s : State) : Out := .next (rdvWindowClose short s)

/-! ### RDV_SET and RDV_CLEAR (R259, R270, R271) -/

/-- Rendezvous that the part holds (R270). -/
def rdvCapacity (s : State) : Nat := s.byVariant 4 1024 4096

/-- Fields of RDV_SET out of range (R270). -/
def rdvSetBad (ps : List Word) : Bool :=
  let period := (mk64 (param ps 2) (param ps 3)).toNat
  let w6 := param ps 6
  fld (param ps 1) 27 25 = 0 || decide (10 * period < 2 ^ 32) || decide (secU 604800 < period) || fld w6 15 0 = 0
    || decide (60000 < fld w6 15 0) || fld w6 31 16 = 0 || decide (2000 < fld w6 31 16)

/-- The rendezvous that RDV_SET's words describe; a new one counts its guard from now (log 45). -/
def rdvFrom (c : Cmd) (old : Option Rdv) (s : State) : Rdv :=
  let w1 := param c.ps 1
  let w6 := param c.ps 6
  { short := BitVec.ofNat 24 (fld w1 23 0), port := c.port, parent := bitAt w1 24, maxMiss := fld w1 27 25,
    profile := Fin.ofNat 16 (fld w1 31 28), period := mk64 (param c.ps 2) (param c.ps 3), offset := mk64 (param c.ps 4) (param c.ps 5),
    listenMs := fld w6 15 0, peerBound := fld w6 31 16, lastContact := match old with | some r => r.lastContact | none => s.time.nt }

/-- A child tells the coordinator its new parent (R259). -/
def tellParent (r : Rdv) (s : State) : State :=
  if r.parent then s
  else match linkByShort 0#24 s with
    | none => s
    | some e =>
      let o := drawFw s
      let f := secureTo e o.1.enc o.1.miclen (fwFrame .linkControl o.1 r.profile o.2)
      fwQueue { f with ackReq := o.1.ack, payload := linkControl 0x02#8 r.short s } o.2

def rdvSetRun (c : Cmd) (s : State) : State :=
  let w1 := param c.ps 1
  let a : BitVec 24 := BitVec.ofNat 24 (fld w1 23 0)
  match firstFail [(!tableOn s, .domainOff), (rdvSetBad c.ps, .badParam), (bitAt w1 24 && s.is20, .badState)] with
  | some st => finish c st [] s
  | none =>
    let r := selectEntry [w1 &&& 0xFFFFFF#32, 0, 0] s
    match r.1 with
    | .free => finish c .noEntry [] r.2
    | .fault _ => finish c .directoryFault [] r.2
    | .entry e =>
      let old := rdvOf a r.2
      let pins := (dirCfg r.2).isSome && !pinned r.2 e && decide (15360 ≤ pinnedCount r.2)
      if (old.isNone && decide (rdvCapacity s ≤ r.2.rdv.rdvs.length)) || pins then finish c .tableFull [] r.2
      else
        let n := rdvFrom c old r.2
        let s1 := closeListening { r.2 with rdv.rdvs := (r.2.rdv.rdvs.filter fun x => x.short ≠ a) ++ [n] }
        finish c .ok [] (tellParent n s1)

def execRdvSet (p : Packet) (s : State) : Out := .next (plazaRun 0x507 (lenIs 6) rdvSetRun p s)

def rdvClearRun (c : Cmd) (s : State) : Except Status (List Word × State) :=
  let w := param c.ps 1
  let a : BitVec 24 := BitVec.ofNat 24 (fld w 23 0)
  if !onlyBits w 0x01FFFFFF#32 then .error .badParam
  else
    let gone (r : Rdv) : Bool := bitAt w 24 || r.short = a
    let cleared := s.rdv.rdvs.filter gone
    let links := s.link.links.map fun e =>
      if e.stale && cleared.any (fun r => r.short = e.short) then { e with stale := false, dirty := true } else e
    .ok ([W cleared.length], closeListening { s with rdv.rdvs := s.rdv.rdvs.filter (fun r => !gone r), link.links := links })

def execRdvClear (p : Packet) (s : State) : Out := .next (plazaRun 0x508 (lenIs 1) (immediate rdvClearRun) p s)

end Sys2Proof.Machine
end

