-- ==== Sys2Proof/Machine/Join.lean ====
section
/-! DEFINITION. Beacons and the time they carry (R253-R256, R272), and the join exchange with ADDR_ASSIGN (R248-R252, R259). -/

namespace Sys2Proof.Machine
open Sys2Proof

/-! ### BEACON_CONFIG (R272) -/

/-- Fields of BEACON_CONFIG out of range (R272; SECURED = 0 only with JOIN_OPEN = 1). -/
def beaconBad (ps : List Word) : Bool :=
  let w1 := param ps 1
  let en := bitAt w1 3
  let rate := fld w1 29 22
  let ms := (param ps 2).toNat
  let w5 := param ps 5
  let key := pair256 (ps.drop 7)
  !onlyBits w1 0x3FFFFFFF#32 || (!bitAt w1 1 && !bitAt w1 2) || rate = 0 || decide (200 < rate) || decide (ms < 1000)
    || decide (3600000 < ms) || fld (param ps 4) 31 24 = 0 || decide (fld w5 15 0 < 100) || fld w5 31 16 = 0
    || (!en && param ps 6 ≠ 0#32) || (en && !onCurve key.1.toNat key.2.toNat)

/-- The configuration that BEACON_CONFIG's words describe. -/
def beaconFrom (ps : List Word) : BeaconConfig :=
  let w1 := param ps 1
  let en := bitAt w1 3
  { send := bitAt w1 0, secured := bitAt w1 1, joinOpen := bitAt w1 2, joinEn := en, profile := Fin.ofNat 16 (fld w1 7 4),
    queue := Fin.ofNat 32 (fld w1 12 8), joinSignSlot := Fin.ofNat 32 (fld w1 17 13), scanProfile := Fin.ofNat 16 (fld w1 21 18),
    slewRate := fld w1 29 22, interval := (param ps 2).toNat, bOffset := param ps 3,
    timeSource := BitVec.ofNat 24 (fld (param ps 4) 23 0), jumpMin := fld (param ps 4) 31 24, scanMs := fld (param ps 5) 15 0,
    scanPeriod := fld (param ps 5) 31 16, trustRoot := if en then mk64 (param ps 6) (param ps 7) else 0,
    trustKey := if en then some (pubBytes (pair256 (ps.drop 7))) else none }

def beaconConfigRun (c : Cmd) (s : State) : Except Status (List Word × State) :=
  let w1 := param c.ps 1
  let open_ := bitAt w1 2
  match firstFail [(beaconBad c.ps, .badParam), (open_ && decide (fld w1 17 13 < 4), .denied), (open_ && !s.is80, .badState)] with
  | some st => .error st
  | none =>
    -- a KR9680 that opens for joins and has no address is the coordinator, 0x000000 (R222, R249; DEDUCED, log 46)
    let own := if open_ && s.link.own = noShort then 0#24 else s.link.own
    .ok ([], { s with rdv.cfg := beaconFrom c.ps, link.own := own,
                      rdv.node := if bitAt w1 3 then s.rdv.node else {}, rdv.lastBeacon := none })

def execBeaconConfig (p : Packet) (s : State) : Out :=
  .next (plazaRun 0x509 (fun ps => ps.length = if bitAt (param ps 1) 3 then 23 else 6) (immediate beaconConfigRun) p s)

/-! ### Sending beacons (R253, R254, R256) -/

/-- FLAGS [3:1], DEPTH, TIME_ERR and ROOT_EUI of a beacon formed now (R253, R256; what the manual leaves open, log 47). -/
def beaconTime (s : State) : Nat × Nat × Nat × DWord :=
  let valid := 2
  match s.time.ppsState, s.rdv.timeTaken with
  | .locked, _ => (valid + 4, 0, 1, s.eui)
  | .holdover, _ => (valid + 8, 0, 0xFFFF, s.eui)
  | _, some (t, e, d, fl, root) =>
    let aged := e + 2 + 2 * ownBound s * (s.elapsed.now - t).toNat / 2 ^ 32 * 1000000 / 2 ^ 32
    (valid + (fl &&& 0x0C#8).toNat, min 255 (d + 1), if e = 0xFFFF then e else min 0xFFFF aged, root)
  | _, none => if s.time.isSet then (valid, 0, 0xFFFF, s.eui) else (0, 255, 0xFFFF, s.eui)

/-- A beacon's payload; TX_NT is put in when the frame is encrypted (R253, R254). -/
def beaconPayload (s : State) : List Byte :=
  let t := beaconTime s
  [0x01#8, BitVec.ofNat 8 (b2n s.rdv.cfg.joinOpen + t.1), BitVec.ofNat 8 t.2.1, 0#8] ++ bytesOfLE 2 t.2.2.1 ++ [0#8, 0#8]
    ++ zeros 8 ++ bytesOfLE 8 t.2.2.2.toNat ++ bytesOfLE 4 s.rdv.cfg.interval

/-- The beacon of an instant has been queued: it was the last one, or it waits in its queue still. -/
def beaconTaken (t : Nat) (s : State) : Bool :=
  s.rdv.lastBeacon = some (BitVec.ofNat 64 t) || s.link.frames.any fun f => f.kind = .beacon && f.start = some (BitVec.ofNat 64 t)

/-- BEACON: the beacon of the next instant is queued on B_QUEUE, once (R254; its lead, log 48). -/
def beacon (s : State) : State :=
  let c := s.rdv.cfg
  let t := beaconAfter c s.time.nt.toNat
  if !s.fwRun || !c.send || beaconTaken t s then s
  else
    let o := drawFw s
    let base : TxFrame := { fwFrame .beacon { o.1 with queue := c.queue, retries := 0 } c.profile o.2 with
                            start := some (BitVec.ofNat 64 t), lateTol := 0, payload := beaconPayload s, dst := 0xFFFFFF#64 }
    let s1 := { o.2 with rdv.lastBeacon := some (BitVec.ofNat 64 t) }
    if !c.secured then fwQueue base s1
    else match linkByShort groupShort s1 with
      | some g => fwQueue (secureTo g o.1.enc 1#2 base) s1
      | none => s1

def execBeacon (s : State) : Out := .next (beacon s)

/-! ### Time from a beacon (R255) -/

/-- A received beacon's fields (R253). -/
structure BeaconBody where
  flags : BitVec 8
  depth : Nat
  timeErr : Nat
  txNt : DWord
  root : DWord
  interval : Nat
  deriving DecidableEq, Repr

/-- A beacon's payload taken apart, if it has the form of R253. -/
def parseBeacon (b : List Byte) : Option BeaconBody :=
  if b.length ≠ 28 || b.getD 0 0 ≠ 0x01#8 then none
  else some { flags := b.getD 1 0, depth := (b.getD 2 0).toNat, timeErr := natLE ((b.drop 4).take 2),
              txNt := BitVec.ofNat 64 (natLE ((b.drop 8).take 8)), root := BitVec.ofNat 64 (natLE ((b.drop 16).take 8)),
              interval := natLE ((b.drop 24).take 4) }

/-- The uncorrected remainder of a slew in progress, signed. -/
def slewRemainder (s : State) : Int := match s.time.slew with | some w => w.remainder | none => 0

/-- A beacon noted against its source. `base` holds the timestamp of an earlier beacon and the error that would show now if the
clocks ran alike and no slew were left to do; it moves on once 60 s have passed (R255). -/
def noteBeacon (src : BitVec 24) (b : BeaconBody) (stamp : DWord) (e : Int) (s : State) : State :=
  let base := match sourceOf src s with
    | some o => if elapsedBy o.base.1 stamp (secU 60) then (stamp, e - slewRemainder s) else o.base
    | none => (stamp, e - slewRemainder s)
  let n : BeaconSource := { src, rootEui := b.root, depth := b.depth, timeErr := b.timeErr, interval := b.interval,
                            flags := b.flags, last := stamp, base }
  { s with rdv.sources := (s.rdv.sources.filter fun x => x.src ≠ src) ++ [n] }

/-- Whether the device takes time from this beacon (R255). -/
def takesTime (src : BitVec 24) (b : BeaconBody) (stamp : DWord) (unsecured : Bool) (s : State) : Bool :=
  let c := s.rdv.cfg
  let lowest := s.rdv.sources.all fun o => o.src = src || decide (b.depth ≤ o.depth)
    || decide (o.last.toNat + 4 * msU o.interval < stamp.toNat)
  !s.time.servo && (!unsecured || s.link.own = noShort) && b.flags.getLsbD 1 &&
    (if c.timeSource = 0xFFFFFF#24 then lowest else src = c.timeSource)

/-- The rate error of the device against a source, in units of 2^-32, between beacons at least 60 s apart (R255). -/
def rateError (src : BitVec 24) (stamp : DWord) (e : Int) (s : State) : Option Int :=
  (sourceOf src s).bind fun o =>
    if elapsedBy o.base.1 stamp (secU 60) then
      some ((e - (o.base.2 + slewRemainder s)) * 2 ^ 32 / ((stamp.toNat : Int) - o.base.1.toNat))
    else none

/-- NTC_ADJ's base value moved by a measured rate (R39, R255). -/
def moveBase (d : Int) (t : TimeState) : TimeState :=
  match t.slew with
  | some w =>
    let b := clampAdj (w.base + d)
    { t with adj := WI (clampAdj (t.adj.toInt + (b - w.base))), slew := some { w with base := b } }
  | none => { t with adj := WI (clampAdj (t.adj.toInt + d)) }

/-- The correction by e (R255): none, a slew, or a forced jump with its event (R40). -/
def correctTime (e : Int) (s : State) : State :=
  let c := s.rdv.cfg
  if e.natAbs ≤ usU 2 then s
  else if e.natAbs ≤ msU c.jumpMin then
    let r := slewRemainder s
    { s with time := startSlew e c.slewRate s.time,
             rdv.sources := s.rdv.sources.map fun o => { o with base := (o.base.1, o.base.2 + r - e) } }
  else
    let off := BitVec.ofInt 64 e
    let a := s.time.nt
    let s1 := jumpNt off s
    raise 0x0C0 (words64 a ++ words64 s1.time.nt ++ [W (lateCount a s1.time.nt s)])
      { s1 with rdv.sources := s1.rdv.sources.map fun o => { o with last := o.last + off, base := (o.base.1 + off, o.base.2 - e) } }

/-- Rendezvous that a beacon restores or keeps: of its source as parent, and in the scan of any parent under the same root
(R260, R261). -/
def beaconContacts (src : BitVec 24) (b : BeaconBody) (stamp : DWord) (e : Int) (took : Bool) (s : State) : State :=
  s.rdv.rdvs.foldl (fun s r =>
    if r.parent then s
    else
      let own := r.short = src && (took || r.stage ≠ .slots)
      let found := r.stage = .scan && (match sourceOf r.short s with | some o => o.rootEui = b.root | none => true)
      if own || found then contact r.short stamp e s else s) s

/-- An unaddressed node hears a beacon that invites it (R259): a request is due after 0 to 1 s. -/
def heardInvitation (b : BeaconBody) (s : State) : State :=
  let c := s.rdv.cfg
  if c.joinEn && s.link.own = noShort && b.flags.getLsbD 0 && (c.trustRoot = 0 || c.trustRoot = b.root)
      && s.rdv.node.due.isNone && s.rdv.node.sent.isNone then
    let r := randomUpTo (secU 1) s
    { r.2 with rdv.node := { s.rdv.node with due := some (b.root, s.elapsed.now + BitVec.ofNat 64 r.1) } }
  else s

/-- A beacon delivered by the pipeline (R255, R259, R261). -/
def beaconHeard (src : BitVec 24) (payload : List Byte) (stamp : DWord) (unsecured : Bool) (s : State) : State :=
  match parseBeacon payload with
  | none => s
  | some b =>
    let e := (b.txNt - stamp).toInt
    let took := takesTime src b stamp unsecured s
    let rate := if took then rateError src stamp e s else none
    let s1 := heardInvitation b (noteBeacon src b stamp e s)
    let s2 := beaconContacts src b stamp e took s1
    if !took then s2
    else
      let s3 := match rate with | some d => { s2 with time := moveBase d s2.time } | none => s2
      correctTime e { s3 with rdv.timeTaken := some (s.elapsed.now, b.timeErr, b.depth, b.flags, b.root) }

/-! ### The link key of a join (R252) -/

/-- The AES-128 link key derived from Z (R252). -/
def joinKey (z : BitVec 256) (node coord : DWord) (a : BitVec 24) : BitVec 256 :=
  let label := [0x4B#8, 0x52#8, 0x39#8, 0x36#8, 0x2D#8, 0x4A#8, 0x4F#8, 0x49#8, 0x4E#8]
  BitVec.ofNat 256 (natBE (kdf (bytes256 z) label
    (bytesOfBE 8 node.toNat ++ bytesOfBE 8 coord.toNat ++ bytesOfBE 3 a.toNat) 16 ++ zeros 16))

/-- JOIN_REQUEST (R273). -/
def raiseJoin (kind place discarded : Nat) (eui : DWord) (a : BitVec 24) (rssi : BitVec 16) (s : State) : State :=
  raise 0x0C4 ([W (kind + place * 4 + discarded * 2 ^ 8)] ++ words64 eui ++ [a.setWidth 32, rssi.setWidth 32]) s

/-! ### The node (R249, R259) -/

/-- Elapsed time of the next retry: 2 s after the beacon that lies `backoff` intervals on (R259; log 49). -/
def retryAt (root : DWord) (backoff : Nat) (s : State) : DWord :=
  let nt := s.time.nt.toNat
  match s.rdv.sources.find? fun o => o.rootEui = root with
  | some o =>
    let i := max 1 (msU o.interval)
    s.elapsed.now + BitVec.ofNat 64 (o.last.toNat + msU (o.interval * ((nt - o.last.toNat) / i + backoff)) - nt + secU 2)
  | none => s.elapsed.now + BitVec.ofNat 64 (secU 2)

/-- A join request is due and can be made (R259, R317). -/
def joinDue (s : State) : Bool :=
  match s.rdv.node.due with
  | none => false
  | some (_, t) =>
    s.fwRun && decide (t.toNat ≤ s.elapsed.now.toNat) && s.rdv.cfg.joinEn && s.link.own = noShort && s.sec.trngOk && s.isUsable dCRYPTO

/-- The request signed and queued, once the PKA has made its key pair and its signature (R249, R259, R316). -/
def joinRequestWork (s : State) : State :=
  match s.rdv.node.due with
  | none => s
  | some (root, t) =>
    if !s.fwRun || s.elapsed.now.toNat < t.toNat || !s.rdv.cfg.joinEn || s.link.own ≠ noShort || !s.sec.trngOk || !s.isUsable dCRYPTO then s
    else
      let k := freshKey s
      let o := drawFw k.2
      let sec := hi32 s.time.nt
      let pub := pubBytes (publicOf k.1)
      let head := [0x01#8, 0x01#8, 0#8, 0#8] ++ pub ++ bytesBE sec
      let req := head ++ signBytes (attestKey s) (head ++ bytesOfBE 8 root.toNat)
      let f : TxFrame := { fwFrame .join { o.1 with retries := 0 } s.rdv.cfg.scanProfile o.2 with srcLong := true, payload := req }
      let n := s.rdv.node
      fwQueue f { o.2 with rdv.node :=
        { due := some (root, retryAt root n.backoff s), sent := some (k.1, pub, sec, root, s.elapsed.now), backoff := min 8 (2 * n.backoff) } }

/-- JOIN_REQUEST_SEND: the PKA's two operations for the request are asked for (R259, R316). -/
def joinRequestSend (s : State) : State :=
  if joinDue s && !pkaHas (fun j => j = .joinRequest) s then pkaOwn .joinRequest 2 s else s

def execJoinRequestSend (s : State) : Out := .next (joinRequestSend s)

/-- A join response judged once the PKA has verified it and found Z (R249, R259, R316): it is taken only if it names the node, echoes
NT_SEC and verifies. -/
def joinResponseWork (m : MacFrame) (b : List Byte) (s : State) : State :=
  match s.rdv.node.sent, s.rdv.cfg.trustKey with
  | some (priv, pub, sec, root, _), some key =>
    let kind := (b.getD 1 0).toNat
    let a : BitVec 24 := BitVec.ofNat 24 (natBE ((b.drop 2).take 3))
    let eph := pairBytes (b.drop 8)
    let sig := pairBytes (b.drop 76)
    let shape := b.length = 140 && b.getD 0 0 = 0x01#8 && (kind = 2 || kind = 3) && (b.drop 5).take 3 = zeros 3
    let named := m.dstLong && m.dst = s.eui && !m.srcLong && m.src = 0 && (b.drop 72).take 4 = bytesBE sec
    let good := verifies (pairBytes key) (sha256 (b.take 76 ++ bytesOfBE 8 s.eui.toNat ++ pub)) sig.1 sig.2
    if !shape || !named || !good || s.link.own ≠ noShort || !s.rdv.cfg.joinEn then s
    else if kind = 3 then raiseJoin 2 0 0 root 0 0 { s with rdv.node := {} }
    else if !onCurve eph.1.toNat eph.2.toNat then s
    else
      let e : LinkEntry := { short := 0, eui := root, key := joinKey (ecdh priv eph) s.eui root a }
      let s1 := (placeLink e.withCeiling (removeLink e.id s)).2
      -- the entries of earlier coordinators remain until host software deletes them (R248); the new one is found first
      let links := s1.link.links.filter (fun x => x.id = e.id) ++ s1.link.links.filter fun x => x.id ≠ e.id
      raiseJoin 1 0 0 root a 0 { s1 with rdv.node := {}, link.own := a, link.links := links }
  | _, _ => s

/-- A join response delivered to a node that waits for one: the PKA's two operations for it are asked for (R259, R316). -/
def joinResponseHeard (m : MacFrame) (psdu : List Byte) (s : State) : State :=
  if m.body.length = 140 && s.rdv.node.sent.isSome && s.isUsable dCRYPTO then pkaOwn (.joinResponse psdu) 2 s else s

/-! ### The coordinator (R250) -/

/-- A join request delivered to a KR9680 that is open for joins (R250). -/
def joinRequestHeard (m : MacFrame) (b : List Byte) (rssi : BitVec 16) (s : State) : State :=
  let shape := b.length = 136 && b.take 4 = [0x01#8, 0x01#8, 0#8, 0#8] && m.srcLong && !m.dstLong && m.dst = 0
  if !s.is80 || !s.rdv.cfg.joinOpen || !shape then s
  else
    let sec : Int := natBE ((b.drop 68).take 4)
    let far := decide (600 < (sec - (hi32 s.time.nt).toNat).natAbs)
    let same (i : Fin 8) : Bool := match s.rdv.joins[i] with | some p => p.eui = m.src | none => false
    let place := match (List.finRange 8).find? same with
      | some i => some i
      | none => (List.finRange 8).find? fun i => (s.rdv.joins[i]).isNone
    match far, place with
    | false, some i =>
      let p : JoinPlace := { eui := m.src, request := b, rssi, since := s.elapsed.now }
      raiseJoin 0 i.val s.rdv.joinDiscarded m.src 0 rssi
        { s with rdv.joins := s.rdv.joins.set i (some p), rdv.joinDiscarded := 0 }
    | _, _ => { s with rdv.joinDiscarded := min 255 (s.rdv.joinDiscarded + 1) }

/-- JOIN_PLACE_EXPIRY: a place is freed 10 s after its request (R250). -/
def joinPlaceExpiry (i : Fin 8) (s : State) : State :=
  match s.rdv.joins[i] with
  | some p => if elapsedBy p.since s.elapsed.now (secU 10) then { s with rdv.joins := s.rdv.joins.set i none } else s
  | none => s

def execJoinPlaceExpiry (place : Fin 8) (s : State) : Out := .next (joinPlaceExpiry place s)

/-! ### ADDR_ASSIGN (R248, R251, R252) -/

/-- The response frame queued and its place freed; `body`: bytes 1 to 71 (R249). -/
def answerJoin (i : Fin 8) (p : JoinPlace) (key : BitVec 256) (body : List Byte) (s : State) : State :=
  let head := [0x01#8] ++ body ++ (p.request.drop 68).take 4
  let msg := head ++ signBytes key (head ++ bytesOfBE 8 p.eui.toNat ++ (p.request.drop 4).take 64)
  let o := drawFw s
  let f : TxFrame := { fwFrame .join { o.1 with retries := 0 } s.rdv.cfg.profile o.2 with dstLong := true, dst := p.eui, payload := msg }
  fwQueue f { o.2 with rdv.joins := o.2.rdv.joins.set i none }

/-- The acceptance of a request at an address (R252). -/
def acceptJoin (c : Cmd) (i : Fin 8) (p : JoinPlace) (key : BitVec 256) (a : BitVec 24) (old : Option LinkEntry) (s : State) : State :=
  let k := freshKey s
  let peer := pairBytes (p.request.drop 4)
  let meter := BitVec.ofNat 8 (fld (param c.ps 3) 7 0)
  let e : LinkEntry := LinkEntry.withCeiling
    { short := a, eui := p.eui, key := joinKey (ecdh k.1 peer) p.eui s.eui a, meter, ackPower := BitVec.ofNat 8 (fld (param c.ps 3) 15 8),
      buckets := fullBuckets (inboundProfile meter.toNat s) s.elapsed.now }
  let r := match old with
    | some o => (true, replaceEntry o e k.2)
    | none => placeLink e k.2
  if !r.1 then finish c .tableFull [] s
  else
    let s1 := writeThrough e.id { r.2 with dir.highWater := max r.2.dir.highWater a.toNat }
    let body := [0x02#8] ++ bytesOfBE 3 a.toNat ++ zeros 3 ++ pubBytes (publicOf k.1)
    finish c .ok [a.setWidth 32] (answerJoin i p key body s1)

/-- The address that REQ_ADDR asks for, or why it cannot be given (R251). -/
def joinAddress (c : Cmd) (p : JoinPlace) (s : State) : Except Status (BitVec 24 × Option LinkEntry) × State :=
  let req := fld (param c.ps 2) 23 0
  let cap := dirCapacity s
  if req = 0 then
    (if cap < s.dir.highWater + 1 then .error .tableFull else .ok (BitVec.ofNat 24 (s.dir.highWater + 1), none), s)
  else if cap < req || s.dir.highWater < req then (.error .badParam, s)
  else
    let a : BitVec 24 := BitVec.ofNat 24 req
    let r := lookupShort a s
    match r.1 with
    | .fault _ => (.error .directoryFault, r.2)
    | .free => (.ok (a, none), r.2)
    | .entry e => if e.eui ≠ p.eui || !bitAt (param c.ps 1) 4 then (.error .badParam, r.2) else (.ok (a, some e), r.2)

/-- ADDR_ASSIGN once the PKA's operations for it are done. -/
def addrAssignWork (c : Cmd) (s : State) : State :=
  let w1 := param c.ps 1
  let refuse := bitAt w1 3
  let i : Fin 8 := Fin.ofNat 8 (fld w1 2 0)
  let slot := s.rdv.cfg.joinSignSlot.val
  let node := pair256 (c.ps.drop 3)
  let bad := !onlyBits w1 0x1F#32 || (!refuse && (!onlyBits (param c.ps 2) 0xFFFFFF#32 || !onlyBits (param c.ps 3) 0xFFFF#32
    || !onCurve node.1.toNat node.2.toNat))
  match firstFail [(!s.is80, .badState), (!s.isUsable dCRYPTO || !tableOn s, .domainOff), (bad, .badParam),
      (s.power.bodWarn, .brownoutHold), ((s.rdv.joins[i]).isNone, .noEntry)], s.rdv.joins[i], slotRefusal slot 4 [.p256] s,
      usableSlot slot s with
  | some st, _, _, _ => finish c st [] s
  | none, some p, none, some k =>
    if refuse then finish c .ok [0#32] (answerJoin i p k.key ([0x03#8] ++ zeros 6 ++ zeros 64) s)
    else
      let eph := pairBytes (p.request.drop 4)
      let sig := pairBytes (p.request.drop 72)
      if !verifies node (sha256 (p.request.take 72 ++ bytesOfBE 8 s.eui.toNat)) sig.1 sig.2 then finish c .authFail [] s
      else if !onCurve eph.1.toNat eph.2.toNat then finish c .badParam [] s
      else
        let r := joinAddress c p s
        match r.1 with
        | .error st => finish c st [] r.2
        | .ok (a, old) => if !s.sec.trngOk then finish c .busy [] r.2 else acceptJoin c i p k.key a old r.2
  | none, _, some st, _ => finish c st [] s
  | none, _, _, _ => finish c .keyAbsent [] s

/-- The P-256 operations of an answer (R252): the request's signature verified, a key pair, Z and the response's signature; a refusal is
only signed. -/
def answerOps (c : Cmd) : Nat := if bitAt (param c.ps 1) 3 then 1 else 4

/-- ADDR_ASSIGN (R251): for a request that is there, link firmware asks the PKA for its operations (R316). -/
def addrAssignDo (c : Cmd) (s : State) : State :=
  let i : Fin 8 := Fin.ofNat 8 (fld (param c.ps 1) 2 0)
  if s.is80 && s.isUsable dCRYPTO && (s.rdv.joins[i]).isSome then
    pkaFirst { port := c.port, tag := c.tag, job := .command 0x504#12 c.ps, left := answerOps c } s
  else addrAssignWork c s

def execAddrAssign (p : Packet) (s : State) : Out :=
  .next (plazaRun 0x504 (fun ps => ps.length = if bitAt (param ps 1) 3 then 1 else 19) (waitKeys addrAssignDo) p s)

end Sys2Proof.Machine
end

