-- ==== Sys2Proof/Machine/KeyStore.lean ====
section
/-! DEFINITION. The key store, the PKA and the TRNG (R316-R320, R333-R335, R340): loading, deriving and erasing keys, P-256
operations, random numbers, and what waits for them. -/

namespace Sys2Proof.Machine
open Sys2Proof

/-! ### Slots and their records (R318-R320) -/

/-- A slot's content. -/
def slotAt (n : Nat) (s : State) : Option KeySlot := s.sec.slots.toList.getD n none

/-- A slot loaded: any previous content and record are replaced; with PERSIST a record is kept (R320, R333). -/
def putSlot (n : Nat) (k : KeySlot) (s : State) : State :=
  { s with sec.slots := s.sec.slots.set! n (some k), sec.records := s.sec.records.set! n (if k.persist then some k else none) }

/-- A slot and its record erased (R335). -/
def eraseSlot (n : Nat) (s : State) : State :=
  { s with sec.slots := s.sec.slots.set! n none, sec.records := s.sec.records.set! n none }

/-- Slots 24 to 31 are SESSION slots (R318). -/
def isSession (n : Nat) : Bool := decide (24 ≤ n)

/-- The type that a TYPE field names (R333). -/
def typeOfCode (n : Nat) : KeyType := if n = 0 then .aes128 else if n = 1 then .aes256 else .p256

/-- The bytes of a type's key. -/
def keyBytes (t : KeyType) : Nat := if t = .aes128 then 16 else 32

/-- A key from its bytes, an AES-128 key in the high half. -/
def keyOf (bs : List Byte) : BitVec 256 := BitVec.ofNat 256 (natBE ((bs ++ zeros 32).take 32))

/-- The DEVICE slots as the CRYPTO power-up sequence derives them; in RETIRED only the attestation key (R318, R323). -/
def deviceSlots (s : State) : List (Option KeySlot) :=
  let seed := otpHash s 8
  let aes (k : BitVec 256) : Option KeySlot :=
    if s.lifecycle = .retired then none else some { type := .aes256, usage := 0, key := k }
  [some { type := .p256, usage := 0, key := attestKey s, pub := some (publicOf (attestKey s)) },
   aes (Config.deviceKey 1 seed), aes (Config.deviceKey 2 seed), aes Config.classKey]

/-- A record as it is reloaded: its invocation counter resumes at the journalled ceiling (R312, R320). -/
def reloaded (r : Option KeySlot) : Option KeySlot := r.map fun k => { k with nonceCtr := k.nonceCeil }

/-- The slots when the key store becomes ready. -/
def loadedSlots (s : State) : Vector (Option KeySlot) 32 :=
  Vector.ofFn fun i => if i.val < 4 then (deviceSlots s).getD i.val none else reloaded s.sec.records[i]

/-! ### KEY_LOAD (R333) -/

/-- The words of key material: plain, or wrapped with 8 bytes more. -/
def loadWords (w1 : Word) : Nat := (if fld w1 6 5 = 0 then 4 else 8) + (if fld w1 13 12 = 0 then 0 else 2)

/-- COUNT as TYPE and SOURCE make it; the values that are refused allow any. -/
def keyLoadLen (ps : List Word) : Bool :=
  let w1 := param ps 1
  if fld w1 6 5 = 3 || fld w1 13 12 = 3 then decide (1 ≤ ps.length)
  else ps.length = 1 + loadWords w1 + (if fld w1 13 12 = 2 then 32 else 0)

/-- What an owner signs for SOURCE 2: EUI-64, the public key of KEK_SLOT, word 1 and the wrapped bytes (log 51). -/
def ownerLoadMsg (c : Cmd) (kek : KeySlot) (wrapped : List Byte) (s : State) : List Byte :=
  bytesOfBE 8 s.eui.toNat ++ pubBytes (kek.pub.getD (0, 0)) ++ bytesBE (param c.ps 1) ++ wrapped

/-- The key material of KEY_LOAD, or what refuses it. -/
def loadedKey (c : Cmd) (s : State) : Except Status (List Byte) :=
  let w1 := param c.ps 1
  let src := fld w1 13 12
  let kslot := fld w1 19 15
  let mat := unpackBE ((c.ps.drop 1).take (loadWords w1))
  let t := typeOfCode (fld w1 6 5)
  let opened (kek : List Byte) : Except Status (List Byte) :=
    match keyUnwrap kek mat with
    | some k => if k.length = keyBytes t then .ok k else .error .authFail
    | none => .error .authFail
  if src = 0 then .ok mat
  else if src = 1 then
    match slotRefusal kslot 2 [.aes128, .aes256] s, usableSlot kslot s with
    | none, some kek => opened kek.aesBytes
    | some st, _ => .error st
    | none, none => .error .keyAbsent
  else
    match slotRefusal kslot 3 [.secret256] s, usableSlot kslot s with
    | none, some kek =>
      let rest := c.ps.drop (1 + loadWords w1)
      let owner := pair256 rest
      let sig := pair256 (rest.drop 16)
      if !kek.fromEcdh || !isSession kslot then .error .denied
      else if !onCurve owner.1.toNat owner.2.toNat then .error .badParam
      else if keyHash owner ≠ otpHash s 24 then .error .authFail
      else if !verifies owner (sha256 (ownerLoadMsg c kek mat s)) sig.1 sig.2 then .error .authFail
      else opened (kdf (bytes256 kek.key) ("KR96-KEYLOAD".toList.map fun ch => BitVec.ofNat 8 ch.toNat) [] 32)
    | some st, _ => .error st
    | none, none => .error .keyAbsent

/-- The checks that KEY_LOAD, KEY_DERIVE and ECDH_RUN share on the slot they write, in order: RETIRED, DEVICE slots, PERSIST of
a SESSION slot (R318, R320, R323, R333). -/
def targetRefusal (slot : Nat) (persist bad : Bool) (s : State) : Option Status :=
  firstFail [(!s.isUsable dCRYPTO, .domainOff), (bad || (persist && isSession slot), .badParam),
    (s.lifecycle = .retired || decide (slot < 4), .denied)]

/-- An open message uses a slot (R333-R335). -/
def slotOpen (n : Nat) (s : State) : Bool := s.sec.ctxs.toList.any fun m => match m with | some x => x.mode ≠ 6#3 && x.slot = n | none => false

/-- KEY_LOAD, its signature verified where it carries one. -/
def keyLoadWork (c : Cmd) (s : State) : State :=
  let w1 := param c.ps 1
  let slot := fld w1 4 0
  let src := fld w1 13 12
  let persist := bitAt w1 14
  match targetRefusal slot persist (!onlyBits w1 0x000FFFFF#32 || fld w1 6 5 = 3 || src = 3) s with
  | some st => finish c st [] s
  | none =>
    let sealed_ := s.sec.sealedSlots.getLsbD slot
    let plain := src = 0 && decide (slot < 12) && s.lifecycle = .secured
    if sealed_ || plain then finish c .denied [] s
    else match loadedKey c s with
      | .error st => finish c st [] s
      | .ok kb =>
        match firstFail [(slotOpen slot s, .busy), (persist && s.power.bodWarn, .brownoutHold)] with
        | some st => finish c st [] s
        | none =>
          let t := typeOfCode (fld w1 6 5)
          let k := keyOf kb
          finish c .ok [] (putSlot slot { type := t, usage := BitVec.ofNat 5 (fld w1 11 7), key := k, persist,
                                          pub := if t = .p256 then some (publicOf k) else none } s)

/-- KEY_LOAD (R333): the owner's signature of SOURCE 2 is the PKA's work (R316). -/
def keyLoadDo (c : Cmd) (s : State) : State :=
  if fld (param c.ps 1) 13 12 = 2 && s.isUsable dCRYPTO then pkaCommand c s else keyLoadWork c s

def execKeyLoad (p : Packet) (s : State) : Out := .next (plazaRun 0x701 keyLoadLen (waitKeys keyLoadDo) p s)

/-! ### KEY_DERIVE (R334) -/

/-- COUNT: the words of LABEL and CONTEXT, each padded to a whole word. -/
def deriveLen (ps : List Word) : Bool :=
  decide (2 ≤ ps.length) && ps.length = 2 + (fld (param ps 2) 6 0 + 3) / 4 + (fld (param ps 2) 15 8 + 3) / 4

/-- The key bytes a KDF source slot holds: an AES key or a shared secret. -/
def KeySlot.kdfBytes (k : KeySlot) : List Byte := if k.type = .aes128 then (bytes256 k.key).take 16 else bytes256 k.key

def keyDeriveDo (c : Cmd) (s : State) : State :=
  let w1 := param c.ps 1
  let w2 := param c.ps 2
  let src := fld w1 4 0
  let dst := fld w1 9 5
  let persist := bitAt w1 17
  let nl := fld w2 6 0
  let nc := fld w2 15 8
  let bad := !onlyBits w1 0x0003FFFF#32 || !onlyBits w2 0x0000FF7F#32 || decide (2 ≤ fld w1 11 10) || nl = 0 || decide (64 < nl)
    || decide (128 < nc)
  match targetRefusal dst persist bad s with
  | some st => finish c st [] s
  | none =>
    if s.sec.sealedSlots.getLsbD dst then finish c .keyAbsent [] s
    else match slotRefusal src 3 [.aes128, .aes256, .secret256] s, usableSlot src s with
      | some st, _ => finish c st [] s
      | none, none => finish c .keyAbsent [] s
      | none, some k =>
        match firstFail [(slotOpen dst s, .busy), (persist && s.power.bodWarn, .brownoutHold)] with
        | some st => finish c st [] s
        | none =>
          let t := typeOfCode (fld w1 11 10)
          let label := (unpackLE (c.ps.drop 2)).take nl
          let context := (unpackLE (c.ps.drop (2 + (nl + 3) / 4))).take nc
          finish c .ok [] (putSlot dst { type := t, usage := BitVec.ofNat 5 (fld w1 16 12), persist,
                                         key := keyOf (kdf k.kdfBytes label context (keyBytes t)) } s)

def execKeyDerive (p : Packet) (s : State) : Out := .next (plazaRun 0x702 deriveLen (waitKeys keyDeriveDo) p s)

/-! ### The PKA (R316, R340) -/

/-- The public key of a P-256 slot. -/
def KeySlot.publicKey (k : KeySlot) : BitVec 256 × BitVec 256 := k.pub.getD (publicOf k.key)

/-- A private key lies within 1 to n − 1 (FIPS 186-5). -/
def validPriv (d : BitVec 256) : Bool := decide (0 < d.toNat) && decide (d.toNat < p256N)

/-- A result of a private key; the manual states none for a key outside its range, so it is open there (log 52). -/
def privResult (d : BitVec 256) (f : BitVec 256 → List Word) (s : State) : List Word × State :=
  if validPriv d then (f d, s) else drawWords (f d).length s

/-- ECDH_RUN's checks; its work waits for the PKA. -/
def ecdhDo (c : Cmd) (s : State) : State :=
  let w1 := param c.ps 1
  let op1 := bitAt w1 0
  let slot := fld w1 5 1
  let priv := fld w1 10 6
  let usage : BitVec 5 := BitVec.ofNat 5 (fld w1 15 11)
  let persist := bitAt w1 16 && !op1
  let peer := pair256 (c.ps.drop 1)
  let bad := !onlyBits w1 0x0001FFFF#32 || (if op1 then (decide (4 ≤ slot) && !isSession slot) || !onCurve peer.1.toNat peer.2.toNat
    else usage &&& 0b00111#5 ≠ 0#5)
  match targetRefusal slot persist bad s with
  | some st => finish c st [] s
  | none =>
    if s.sec.sealedSlots.getLsbD slot then finish c .keyAbsent [] s
    else if op1 then
      if priv < 4 then finish c .denied [] s
      else match usableSlot priv s with
        | none => finish c .keyAbsent [] s
        | some k => if k.type ≠ .p256 then finish c .denied [] s else pkaPut c (.agree slot priv peer) s
    else match firstFail [(!s.sec.trngOk, .busy), (persist && s.power.bodWarn, .brownoutHold)] with
      | some st => finish c st [] s
      | none => pkaPut c (.genKey slot usage persist) s

def execEcdhRun (p : Packet) (s : State) : Out :=
  .next (plazaRun 0x709 (fun ps => ps.length = if bitAt (param ps 1) 0 then 17 else 1) (waitKeys ecdhDo) p s)

def signDo (c : Cmd) (s : State) : State :=
  let w1 := param c.ps 1
  let slot := fld w1 4 0
  match firstFail [(!s.isUsable dCRYPTO, .domainOff), (!onlyBits w1 0x1F#32, .badParam)] with
  | some st => finish c st [] s
  | none =>
    match slotRefusal slot 4 [.p256] s with
    | some st => finish c st [] s
    | none => pkaPut c (.sign slot (mk256 (c.ps.drop 1))) s

def execSignRun (p : Packet) (s : State) : Out := .next (plazaRun 0x70A (lenIs 9) (waitKeys signDo) p s)

/-- Whether a key's hash meets a ROOT field: 1 the owner root, 2 the vendor root (R340). -/
def rootMeets (root : Nat) (key : BitVec 256 × BitVec 256) (s : State) : Bool :=
  root = 0 || keyHash key = otpHash s (if root = 1 then 24 else 16)

def verifyDo (c : Cmd) (s : State) : State :=
  let w1 := param c.ps 1
  let key := pair256 (c.ps.drop 1)
  let sig := pair256 (c.ps.drop 25)
  match firstFail [(!s.isUsable dCRYPTO, .domainOff),
      (!onlyBits w1 0x3#32 || fld w1 1 0 = 3 || !onCurve key.1.toNat key.2.toNat, .badParam)] with
  | some st => finish c st [] s
  | none => pkaPut c (.verify (rootMeets (fld w1 1 0) key s) key (mk256 ((c.ps.drop 17).take 8)) sig.1 sig.2) s

def execVerifyRun (p : Packet) (s : State) : Out := .next (plazaRun 0x70B (lenIs 41) verifyDo p s)

/-- The completion of the PKA's operation: its result is returned. A slot that has been erased or sealed since answers
KEY_ABSENT (log 53). -/
def pkaFinish (r : PkaReq) (s : State) : State :=
  let cmd (code : Nat) : Cmd := ⟨r.port, r.tag, code, []⟩
  match r.job with
  | .genKey slot usage persist =>
    let k := freshKey s
    let pub := publicOf k.1
    if s.sec.sealedSlots.getLsbD slot then finish (cmd 0x709) .keyAbsent [] s
    else finish (cmd 0x709) .ok (words512 pub) (putSlot slot { type := .p256, usage, key := k.1, pub := some pub, persist } k.2)
  | .agree slot priv peer =>
    match usableSlot priv s with
    | none => finish (cmd 0x709) .keyAbsent [] s
    | some k =>
      let z := privResult k.key (fun d => words256 (ecdh d peer)) s
      let secret : KeySlot := { type := .secret256, usage := 0b01000#5, key := mk256 z.1, pub := some k.publicKey, fromEcdh := true }
      finish (cmd 0x709) .ok (words512 k.publicKey) (putSlot slot secret z.2)
  | .sign slot digest =>
    match usableSlot slot s with
    | none => finish (cmd 0x70A) .keyAbsent [] s
    | some k =>
      let sg := privResult k.key (fun d => words512 (ecdsaSign d digest)) s
      finish (cmd 0x70A) .ok sg.1 sg.2
  | .verify rootOk key digest rr ss =>
    finish (cmd 0x70B) (if rootOk && verifies key digest rr ss then .ok else .authFail) [] s
  | .command code ps =>
    let c : Cmd := ⟨r.port, r.tag, code.toNat, ps⟩
    if code = 0x504 then addrAssignWork c s
    else if code = 0x701 then keyLoadWork c s
    else if code = 0x705 then attestWork c s
    else if code = 0x706 then lifecycleWork c s
    else debugUnlockWork c s
  | .joinRequest => joinRequestWork s
  | .joinResponse psdu => (match parseMac psdu with | some m => joinResponseWork m m.body s | none => s)
  | .remoteReport link challenge => remoteReport link challenge s

/-! ### Random numbers (R317, R340) -/

def rngReadRun (c : Cmd) (s : State) : Except Status (List Word × State) :=
  let w1 := param c.ps 1
  let n := fld w1 9 0
  match firstFail [(!s.isUsable dCRYPTO, .domainOff), (!onlyBits w1 0x3FF#32 || n = 0 || decide (1020 < n), .badParam),
      (!s.sec.trngOk, .busy)] with
  | some st => .error st
  | none => .ok (drbgWords n s)

def execRngRead (p : Packet) (s : State) : Out := .next (plazaRun 0x708 (lenIs 1) (immediate rngReadRun) p s)

/-- A health test fails: the DRBG stops, and TRNG_HEALTH_FAIL (R317, R341). -/
def trngFail (test : Nat) (s : State) : State :=
  let n := satInc s.sec.trngFails
  raise 0x0C9 [W test, n] { s with sec.trngOk := false, sec.trngFailAt := some s.elapsed.now, sec.trngFails := n }

/-- The start-up test is at its end: 400 µs after CRYPTO came on, or 1 s after a failure, until it passes (R317). -/
def startUpDue (s : State) : Bool :=
  s.isUsable dCRYPTO &&
    (match s.sec.trngFailAt with
     | some t => elapsedBy t s.elapsed.now (secU 1)
     | none => !s.sec.trngOk && elapsedBy s.sec.onAt s.elapsed.now (usU 400))

def trngHealthFail (test : Fin 3) (s : State) : State :=
  if !s.isUsable dCRYPTO || (test = 2 && !startUpDue s) then s else trngFail test.val s

def execTrngHealthFail (test : Fin 3) (s : State) : Out := .next (trngHealthFail test s)

def trngStartUpTest (pass : Bool) (s : State) : State :=
  if !startUpDue s then s
  else if pass then { s with sec.trngOk := true, sec.trngFailAt := none }
  else trngFail 2 s

def execTrngStartUpTest (pass : Bool) (s : State) : Out := .next (trngStartUpTest pass s)

/-! ### Commands that wait (R13, R310, R320) -/

/-- KEY_ZERO: the slot and its record are erased; with FORCE its open messages are abandoned (R335). -/
def keyZeroDo (c : Cmd) (s : State) : State :=
  let w1 := param c.ps 1
  let slot := fld w1 4 0
  let force := bitAt w1 5
  match firstFail [(!s.isUsable dCRYPTO, .domainOff), (!onlyBits w1 0x3F#32, .badParam), (decide (slot < 4), .denied),
      (s.sec.sealedSlots.getLsbD slot, .keyAbsent), (slotOpen slot s && !force, .busy)] with
  | some st => finish c st [] s
  | none => finish c .ok [] (eraseSlot slot (abandonSlots (fun n => n = slot) s))

/-- The meaning of a command that waited. -/
def waitedMeaning (code : Nat) : Cmd → State → State :=
  match code with
  | 0x501 => waitKeys linkAddDo
  | 0x504 => waitKeys addrAssignDo
  | 0x701 => waitKeys keyLoadDo
  | 0x702 => waitKeys keyDeriveDo
  | 0x703 => waitKeys keyZeroDo
  | 0x704 => cipherOwner
  | 0x709 => waitKeys ecdhDo
  | 0x70A => waitKeys signDo
  | _ => attestOwner

/-- The waiting commands are tried again in arrival order; one that must still wait is queued again. -/
def runWaiting (s : State) : State :=
  s.sec.waiting.foldl (fun s w => waitedMeaning w.op.toNat ⟨w.packet.port, w.packet.tag, w.op.toNat, w.packet.params⟩ s)
    { s with sec.waiting := [] }

/-- A meaning after which contexts may have come free, so that commands waiting for one proceed (R310). -/
def thenFree (f : Cmd → State → State) (c : Cmd) (s : State) : State :=
  let busy (x : State) : Nat := x.sec.ctxs.toList.countP Option.isSome
  let s1 := f c s
  if busy s1 < busy s && s1.sec.ready then runWaiting s1 else s1

/-- The PKA takes its next request: those of link firmware first, then commands in arrival order (R316). -/
def pkaNext (s : State) : State :=
  match s.sec.pkaFirst with
  | r :: rest => { s with sec.pka := some r, sec.pkaFirst := rest }
  | [] => { s with sec.pka := s.sec.pkaQueue.head?, sec.pkaQueue := s.sec.pkaQueue.tail }

/-- PKA_DONE: an operation completes; after a request's last one its work is done and the next request is taken (R316). -/
def pkaDone (s : State) : State :=
  match s.sec.pka with
  | none => s
  | some r =>
    if 1 < r.left then { s with sec.pka := some { r with left := r.left - 1 } }
    else thenFree (fun _ s => pkaFinish r (pkaNext s)) ⟨r.port, r.tag, 0, []⟩ s

def execPkaDone (s : State) : Out := .next (pkaDone s)

def execKeyZero (p : Packet) (s : State) : Out := .next (plazaRun 0x703 (lenIs 1) (thenFree (waitKeys keyZeroDo)) p s)

def execCipherRun (p : Packet) (s : State) : Out := .next (plazaRun 0x704 cipherLen (thenFree cipherOwner) p s)

/-- An open message without a command for 10 s is abandoned (R315). -/
def openMessageTimeout (ctx : Fin 8) (s : State) : State :=
  match s.sec.ctxs.toList.getD ctx.val none with
  | some m =>
    if elapsedBy m.last s.elapsed.now (secU 10) then runWaiting { s with sec.ctxs := s.sec.ctxs.set! ctx.val none } else s
  | none => s

def execOpenMessageTimeout (ctx : Fin 8) (s : State) : Out := .next (openMessageTimeout ctx s)

/-- KEY_STORE_READY: 120 µs after CRYPTO came on the DEVICE keys are derived, records reloaded, and waiting commands proceed
(R320). -/
def keyStoreReady (s : State) : State :=
  if s.isUsable dCRYPTO && !s.sec.ready && elapsedBy s.sec.onAt s.elapsed.now (usU 120) then
    runWaiting { s with sec.ready := true, sec.slots := loadedSlots s }
  else s

def execKeyStoreReady (s : State) : Out := .next (keyStoreReady s)

/-! ### Debug requests (R328-R330): a seal may free contexts -/

def execDebugUnlock (p : Packet) (s : State) : Out :=
  .next (plazaRun 0x707 (fun ps => ps.length = 1 || ps.length = 33) (thenFree debugUnlockDo) p s)

/-- A JTAG request: held in stop, where it does not wake the device unless armed; else exchanged now, its edge held for a wake
where a stop is being entered (R330, R429). -/
def jtagRequest (h : HeldDebug) (s : State) : State :=
  if s.power.phase = .stop then { s with sec.debugHeld := some h }
  else if s.power.phase = .booting || s.sec.extest then s
  else
    let s1 := jtagDo h (if s.power.wakeArm.getLsbD 13 then holdWake 7 0 s else s)
    if s1.sec.ready then runWaiting s1 else s1

def execUnlockChal (s : State) : Out := .next (jtagRequest .chal s)

def execUnlockResp (scope : BitVec 2) (key sig : List Word) (s : State) : Out := .next (jtagRequest (.resp scope key sig) s)

/-- The command that a job answers, if it answers one. -/
def pkaCode : PkaJob → Option Nat
  | .genKey .. => some 0x709
  | .agree .. => some 0x709
  | .sign .. => some 0x70A
  | .verify .. => some 0x70B
  | .command code _ => some code.toNat
  | .joinRequest => none
  | .joinResponse _ => none
  | .remoteReport .. => none

/-- CRYPTO goes off: the key store, the contexts, the DRBG and the PKA lose their contents; commands that waited for the key
store find it off (R315, R317, R320). -/
def cryptoOff (s : State) : State :=
  let s1 : State := { s with sec.slots := Vector.replicate 32 none, sec.ready := false, sec.ctxs := Vector.replicate 5 none,
                             sec.pka := none, sec.pkaQueue := [], sec.pkaFirst := [], sec.trngOk := false, sec.trngFailAt := none, sec.drbgCount := 0 }
  let stopped := s.sec.pka.toList ++ s.sec.pkaFirst ++ s.sec.pkaQueue
  runWaiting (stopped.foldl (fun s r => match pkaCode r.job with
    | some n => finish ⟨r.port, r.tag, n, []⟩ .domainOff [] s
    | none => s) s1)

/-- CRYPTO comes on (R317, R320). -/
def cryptoOn (s : State) : State := { s with sec.onAt := s.elapsed.now, sec.ready := false, sec.trngOk := false, sec.trngFailAt := none }

end Sys2Proof.Machine
end

