-- ==== Sys2Proof/Machine/Power.lean ====
section
/-! DEFINITION. Power: domains, operating points, pads, stop, wake and brown-out (R15-R20, R417-R444). -/

namespace Sys2Proof.Machine
open Sys2Proof

/-! ### Facts about domains (R15, R16, R421) -/

/-- The domain that domain n needs on (R15). -/
def needs (n : Nat) : Nat := if n = 1 || n = 2 then 0 else if n = 3 then 2 else if n ≤ 8 then 3 else 8

/-- The bit of a domain. -/
def domBit (n : Nat) : BitVec 12 := 1#12 <<< n

/-- A set of domains with every prerequisite in it. -/
def closed (d : BitVec 12) : Bool := (List.range 12).all fun n => n = 0 || !d.getLsbD n || needs n = 0 || d.getLsbD (needs n)

/-- The OFDM baseband serves a reception in force. -/
def ofdmReceives (s : State) : Bool :=
  (match s.rx.alley with | some a => s.phy.profiles[a.profile].ofdm | none => false) ||
  (s.rx.blvd.isSome && (match s.rx.plan with
    | some p => p.entries.any fun e => match e with | .ofdm .. => true | _ => false
    | none => false))

/-- A reception in force uses a domain of the radio (R421). -/
def receptionUses (d : Nat) (s : State) : Bool :=
  if d = dRFFE then receptionInForce s
  else if d = dALLEY then s.rx.alley.isSome
  else if d = dBLVD then s.rx.blvd.isSome
  else ofdmReceives s

/-- Some Lane of a port, command-in included, holds words. -/
def laneHolds (q : Port) : Bool :=
  !q.cmd.have.isEmpty || q.lanes.toList.any fun l => !l.stages.isEmpty || !l.waiting.isEmpty

/-- A KR9680 that has no directory to take its links (R20). -/
def noKeeping (s : State) : Bool := s.is80 && (dirCfg s).isNone && !s.link.links.isEmpty

/-- An open cipher message (R315). -/
def anyOpenMessage (s : State) : Bool := s.sec.ctxs.toList.any Option.isSome

/-- A domain is in use, so that it may not be switched off in run (R65, R315, R421). -/
def domainBusy (d : Nat) (s : State) : Bool :=
  let m := s.port .mbx
  let mbxReceives := (match s.rx.alley with | some r => r.port = .mbx | none => false) || (match s.rx.blvd with | some r => r.port = .mbx | none => false)
  if d = dKERB then s.kerb.running || !s.kerb.log.isEmpty
  else if d = dAPP then !m.tags.isEmpty || laneHolds m || mbxReceives
  else if d = dCRYPTO then anyOpenMessage s || receptionInForce s || !s.link.frames.isEmpty
  else if d = dXMEM then receptionInForce s || !s.link.frames.isEmpty || s.dir.snapshot.isSome || noKeeping s
  else if 8 ≤ d then receptionUses d s || loopRf s || txInFlight s || s.radio.cal.running.isSome || s.radio.cal.calRun.isSome
  else false

/-! ### Pads (R423, R425) -/

/-- The input buffer of a latched pad stays on: its wake edge is armed (R423). -/
def keepsInput (s : State) (w : Word) : Bool := fld w 11 10 ≠ 0 && s.power.wakeArm.getLsbD 9

/-- Bits of a 64-bit value by a test of each pin. -/
def pinBits (f : Fin 64 → Bool) : BitVec 64 := BitVec.ofNat 64 ((allPins.map fun k => b2n (f k) * 2 ^ k.val).sum)

/-- Every pad holds its level, enable, pull and drive (R423). -/
def latchPads (s : State) : State :=
  let fresh (k : Fin 64) : Bool := pinPresent s k.val && !s.pads.latched.getLsbD k
  let drives (k : Fin 64) : Bool :=
    let w := s.pads.regs[k]
    let out := s.peri.gpio[portOf k].out.getLsbD (bitOf k)
    padFunc k.val w = 0 && s.peri.gpio[portOf k].dir.getLsbD (bitOf k) && s.on dPERI && !(bitAt w 8 && out)
  let heldWord (k : Fin 64) : Word :=
    let w := s.pads.regs[k]
    if keepsInput s w then w else w &&& ~~~0x80#32
  let old := s.pads
  { s with pads := { old with
      held := Vector.ofFn fun k => if fresh k then heldWord k else old.held[k],
      heldOut := pinBits fun k => if fresh k then padLevel s k else old.heldOut.getLsbD k,
      heldDir := pinBits fun k => if fresh k then drives k else old.heldDir.getLsbD k,
      latched := pinBits fun k => pinPresent s k.val } }

def padReleaseRun (c : Cmd) (s : State) : Except Status (List Word × State) :=
  let named := mk64 (param c.ps 1) (param c.ps 2)
  if allPins.any fun k => named.getLsbD k && !pinPresent s k.val then .error .badParam
  else
    let s1 := if s.isUsable dPERI then withEdges (fun s => { s with pads.latched := s.pads.latched &&& ~~~named }) s else s
    .ok (words64 s1.pads.latched, s1)

def execPadRelease (p : Packet) (s : State) : Out := .next (plazaRun 0x105 (lenIs 2) (immediate padReleaseRun) p s)

/-! ### A domain goes off or comes on (R20, R58, R103, R109, R370, R422, R423) -/

/-- PERI's registers at their reset values; the levels that the world drives stay (R58, R370). -/
def periReset (s : State) : State := { s with peri := { gpio := s.peri.gpio.map fun g => { level := g.level } } }

/-- The link table as XMEM goes off (R18, R422). A KR9620 or KR9640 keeps its entries in the save area. A KR9680 writes its cached
entries back to the directory and keeps only those that have no directory address, or whose write failed, so that no counter is
reused (log 54). -/
def linksAway (s : State) : State :=
  if !s.is80 then { s with link.saved := s.link.saved ++ s.link.links.map (saveLink s), link.links := [] }
  else match dirCfg s with
    | none => s
    | some c =>
      let s1 := flushDirty 0 (2 ^ 24) s
      { s1 with link.links := s1.link.links.filter fun e =>
          e.dirty || e.short = groupShort || e.short = noShort || e.short = 0#24 || decide (2 ^ c.log2cap < e.short.toNat) }

/-- The link table as XMEM comes on: the entries in the save area are its own again (R18, R422). -/
def linksBack (s : State) : State := { s with link.links := mirrorLinks s, link.saved := [] }

/-- The KERB domain goes off: its log, counts and window with it; the program stays with link firmware (R421, R452; log 55). -/
def kerbOff (s : State) : State :=
  let k := s.kerb
  { s with kerb := { prog := k.prog, autostart := k.autostart, autoDue := k.autoDue, period := k.period, mode := k.mode, edge := k.edge,
                     kin := k.kin },
           peri.adc.fifo := [], peri.adc.busy := none }

/-- What a domain's going off does beside its bit. -/
def domainOff (d : Nat) (s : State) : State :=
  if d = dKERB then kerbOff s
  else if d = dAPP then coreHold s
  else if d = dPERI then periReset (latchPads s)
  else if d = dCRYPTO then cryptoOff s
  else if d = dXMEM then linksAway s
  else if d = dRFFE then rffeOff s
  else s

/-- Domains switched off, from the bottom of R15's table to its top (R420). -/
def switchOff (d : BitVec 12) (s : State) : State :=
  [11, 10, 9, 8, 7, 6, 5, 4, 1].foldl (fun (s : State) n =>
    if d.getLsbD n && s.on n then
      let s1 := { s with power.domains := s.power.domains &&& ~~~domBit n, power.usable := s.power.usable &&& ~~~domBit n }
      domainOff n s1
    else s) s

/-- What a domain's coming on does once it is usable (R309, R320, R367, R422, R452). -/
def domainOn (d : Nat) (s : State) : State :=
  if d = dKERB then
    (if s.kerb.autostart && s.kerb.autoDue && !s.kerb.prog.isEmpty then { s with kerb := { kerbGo true s.kerb with autoDue := false } } else s)
  else if d = dAPP then coreStart 4 s
  else if d = dPERI then periReset s
  else if d = dCRYPTO then cryptoOn s
  else if d = dXMEM then linksBack s
  else if d = dRFFE then rffeOn s
  else s

/-! ### DOMAIN_SET (R3, R16, R65, R420-R422) -/

/-- The response of a DOMAIN_SET (R420). -/
def domainWords (halted : Nat) (s : State) : List Word := [W (s.power.domains.toNat + halted * 2 ^ 16)]

/-- Switch-on commands all of whose domains are usable, or no longer on, answer (R422). -/
def answerDomains (s : State) : State :=
  let left (o : DomainSetOp) : BitVec 12 := o.waitFor &&& s.power.domains &&& ~~~s.power.usable
  let done := s.power.domainOps.filter fun o => left o = 0#12
  done.foldl (fun s o => finish ⟨o.port, o.tag, 0x102, []⟩ .ok (domainWords 0 s) s)
    { s with power.domainOps := s.power.domainOps.filter fun o => left o ≠ 0#12 }

/-- Domains begin to count their time to be usable. -/
def stampOn (d : BitVec 12) (s : State) : Vector DWord 12 :=
  Vector.ofFn fun k => if d.getLsbD k.val then s.elapsed.now else s.power.onAt[k]

/-- Domains that need domain n and are on, not usable yet. -/
def dependants (n : Nat) (s : State) : BitVec 12 :=
  BitVec.ofNat 12 (((List.range 12).map fun k => b2n (k ≠ 0 && needs k = n && s.on k && !s.isUsable k) * 2 ^ k).sum)

/-- Time in µs from a domain's switching on to its use; that of XMEM's words restored is left out (R422; log 2). -/
def usableUs (n : Nat) : Nat :=
  match n with
  | 1 => 40 | 4 => 8 | 5 => 2 | 6 => 5 | 7 => 8 | 8 => 30 | 9 | 10 | 11 => 10
  | _ => 0

/-- DOMAIN_SET now (R16, R420-R422). -/
def domainSetNow (c : Cmd) (s : State) : State :=
  let w := param c.ps 1
  let d : BitVec 12 := w.setWidth 12
  let on_ := bitAt w 12
  let force := bitAt w 13
  let after := if on_ then s.power.domains ||| d else s.power.domains &&& ~~~d
  let going := d &&& s.power.domains
  let domains := List.range 12
  let bad := !onlyBits w 0x3FFF#32 || d.getLsbD 0 || d = 0#12 || (on_ && force) ||
    (!on_ && (d.getLsbD dFLASH || d.getLsbD dLINK || (d.getLsbD dAPP && s.flash.hostApp)))
  let dmaUsers := (List.finRange 16).filter fun ch => domains.any fun n => going.getLsbD n && dmaUses s n ch
  match firstFail [
      (on_ && (d &&& ~~~s.present ≠ 0#12 || !closed after), .domainOff), (bad, .badParam),
      (on_ && d.getLsbD dBLVD && s.power.lp, .badState), (!on_ && !closed after, .domainBusy),
      (!on_ && domains.any fun n => going.getLsbD n && domainBusy n s, .domainBusy),
      (!on_ && !force && !dmaUsers.isEmpty, .domainBusy)] with
  | some st => finish c st [] s
  | none =>
    if on_ then
      answerDomains { s with power.domains := after, power.onAt := stampOn (after &&& ~~~s.power.domains) s, power.domainOps := s.power.domainOps ++ [⟨c.port, c.tag, d⟩] }
    else
      let s1 := dmaUsers.foldl (fun s ch => dmaHalt 1 4 ch s) s
      let s2 := answerDomains (switchOff d s1)
      finish c .ok (domainWords dmaUsers.length s2) s2

/-- DOMAIN_SET: one with steps of link firmware, XMEM off or on and RFFE on, waits during a handover for the end of adoption (R12). -/
def domainSetDo (c : Cmd) (s : State) : State :=
  let w := param c.ps 1
  match s.upd.hand with
  | some h =>
    if bitAt w dXMEM || (bitAt w dRFFE && bitAt w 12) then
      { s with upd.hand := some { h with domainSets := h.domainSets ++ [(c.port, c.tag, w)] } }
    else domainSetNow c s
  | none => domainSetNow c s

/-- A handover is over: the DOMAIN_SET commands that waited for it are done in arrival order (R12). -/
def afterHandover (s : State) : State :=
  match s.upd.hand with
  | some h => h.domainSets.foldl (fun s d => domainSetNow ⟨d.1, d.2.1, 0x102, [d.2.2]⟩ s) { s with upd.hand := none }
  | none => s

def execDomainSet (p : Packet) (s : State) : Out := .next (plazaRun 0x102 (lenIs 1) domainSetDo p s)

/-- DOMAIN_USABLE: a domain that is on becomes usable, its time after it was switched on and its prerequisite became usable (R420,
R422, R433). -/
def domainUsable (d : Fin 12) (s : State) : State :=
  let n := d.val
  if s.on n && !s.isUsable n && s.awake && (needs n = 0 || s.isUsable (needs n))
      && elapsedBy s.power.onAt[d] s.elapsed.now (usU (usableUs n)) then
    answerDomains (domainOn n { s with power.usable := s.power.usable ||| domBit n, power.onAt := stampOn (dependants n s) s })
  else s

def execDomainUsable (d : Fin 12) (s : State) : Out := .next (domainUsable d s)

/-! ### Operating points (R418, R419) -/

def oppointSetDo (c : Cmd) (s : State) : State :=
  let w := param c.ps 1
  let point := bitAt w 0
  if !onlyBits w 1#32 then finish c .badParam [] s
  else if s.power.oppWait.isSome then finish c .busy [] s
  else if point = s.power.lp then finish c .ok [] s
  else if point && s.on dBLVD then finish c .badState [] s
  else { s with power.oppWait := some (c.port, c.tag, point, s.elapsed.now) }

def execOppointSet (p : Packet) (s : State) : Out := .next (plazaRun 0x106 (lenIs 1) oppointSetDo p s)

/-- The instants at which the operating point may change (R418). -/
def oppAllowed (s : State) : Bool :=
  s.radio.mode ≠ .turnTx && s.radio.mode ≠ .tx && s.radio.mode ≠ .turnRx && !ackPendingNow s && !anyCommitted s && !radioEventSoon s

/-- The blank of an operating-point change ends, unless the radio itself holds one (R212, R419). -/
def endOppBlank (s : State) : State :=
  if s.radio.mode = .turnTx || s.radio.mode = .tx || s.radio.mode = .turnRx then s else endBlank s

/-- OPPOINT_SWITCH: at the first allowed instant the change begins and both receive paths are blanked; at its end, 40 µs later to
RUN-LP and 60 µs to RUN-HP, the new point is in force and the response placed (R418, R419). -/
def oppointSwitch (s : State) : State :=
  match s.power.oppWait with
  | none => s
  | some (p, t, point, since) =>
    let c : Cmd := ⟨p, t, 0x106, []⟩
    if s.power.switching then
      if !elapsedBy since s.elapsed.now (usU (if point then 40 else 60)) then s
      else
        let s1 := { s with power.switching := false, power.oppWait := none, power.lp := point,
                           power.pmuEvents := s.power.pmuEvents ||| 8#4 }
        finish c .ok [] (endOppBlank s1)
    else if !oppAllowed s then s
    else if point && s.on dBLVD then finish c .badState [] { s with power.oppWait := none }
    else startBlank { s with power.switching := true, power.oppWait := some (p, t, point, s.elapsed.now) }

def execOppointSwitch (s : State) : Out := .next (oppointSwitch s)

/-- OPPOINT_TIMEOUT: no allowed instant within 100 ms (R418). -/
def oppointTimeout (s : State) : State :=
  match s.power.oppWait with
  | some (p, t, _, since) =>
    if !s.power.switching && elapsedBy since s.elapsed.now (msU 100) then
      finish ⟨p, t, 0x106, []⟩ .busy [] { s with power.oppWait := none }
    else s
  | none => s

def execOppointTimeout (s : State) : Out := .next (oppointTimeout s)

/-! ### Wake sources and retention (R430-R432, R434, R515) -/

def wakeArmRun (c : Cmd) (s : State) : Except Status (List Word × State) :=
  let w1 := param c.ps 1
  let w2 := param c.ps 2
  if !onlyBits w1 0x3FFF#32 || !onlyBits w2 0xFFFF#32 then .error .badParam
  else .ok ([], { s with power.wakeArm := w1.setWidth 14, power.kerbCodes := w2.setWidth 16 })

def execWakeArm (p : Packet) (s : State) : Out := .next (plazaRun 0x103 (lenIs 2) (immediate wakeArmRun) p s)

/-- The words of WAKE_RECORD_READ (R434). -/
def wakeWords (r : WakeRecord) : List Word :=
  [W (r.source.toNat + r.detail.toNat * 16 + b2n r.duringEntry * 2 ^ 10), W (r.sources.toNat / 2 * 2)] ++ words64 r.ntWake
    ++ [r.entries, W (r.retFail.toNat + b2n r.saveArea * 2 ^ 16), W r.restored.toNat] ++ words64 r.ntEntry

def wakeRecordReadRun (_c : Cmd) (s : State) : Except Status (List Word × State) := .ok (wakeWords s.power.wake, s)

def execWakeRecordRead (p : Packet) (s : State) : Out := .next (plazaRun 0x104 (lenIs 0) (immediate wakeRecordReadRun) p s)

def retainSetRun (c : Cmd) (s : State) : Except Status (List Word × State) :=
  let w := param c.ps 1
  let b : BitVec 16 := w.setWidth 16
  if !onlyBits w 0xFFFF#32 || b &&& ~~~s.bankMask ≠ 0#16 then .error .badParam
  else .ok ([(b ||| s.saveBanks).setWidth 32], { s with power.retain := b })

def execRetainSet (p : Packet) (s : State) : Out := .next (plazaRun 0x108 (lenIs 1) (immediate retainSetRun) p s)

/-- Link firmware holds a link marker: a rendezvous, a beacon or a timed frame of its own (R431, R515). -/
def linkMarkerArmed (s : State) : Bool :=
  !s.rdv.rdvs.isEmpty || s.rdv.cfg.send || s.link.frames.any fun f => f.kind ≠ .data && f.start.isSome

/-- A marker of the application is armed: ARM is 1 (R45). -/
def markerArmed (n : Nat) (s : State) : Bool :=
  bitAt (s.cmps.marks.toList.getD n {}).ctrl 0

/-- Some wake source can produce a wake in the coming stop (R426, R515). -/
def canWake (s : State) : Bool :=
  let a := s.power.wakeArm
  ((List.range 8).any fun k => a.getLsbD k && markerArmed (8 + k) s) || (a.getLsbD 8 && linkMarkerArmed s)
    || (a.getLsbD 9 && allPins.any fun k => pinPresent s k.val && fld s.pads.regs[k] 11 10 ≠ 0)
    || (a.getLsbD 10 && s.isUsable dKERB && s.kerb.running && s.power.kerbCodes ≠ 0#16)
    || a.getLsbD 11 || a.getLsbD 12 || a.getLsbD 13

/-! ### Entering stop (R80, R426-R430) -/

def anyPort (f : Port → Bool) (s : State) : Bool := f (s.port .spi) || f (s.port .uart) || f (s.port .mbx)

/-- The BUSY rows of R426. -/
def stopBusy (s : State) : Bool :=
  decide (1 < outstanding s) || anyPort (fun q => laneHolds q || !q.backlog.isEmpty || !q.handles.isEmpty) s
    || (s.link.frames.any fun f => f.kind = .data || f.inFlight) || receptionInForce s || ackPendingNow s
    || !(s.radio.mode = .off || s.radio.mode = .idle) || (s.rdv.rdvs.any fun r => r.window.isSome) || anyOpenMessage s
    || s.flash.op.isSome || s.flash.inner.isSome || s.upd.trial.isSome

def stopEnterDo (c : Cmd) (s : State) : State :=
  match firstFail [(stopBusy s, .busy), (s.power.bodWarn, .brownoutHold), (noKeeping s, .badState), (!canWake s, .badState)] with
  | some st => finish c st [] s
  | none =>
    -- link firmware writes the save area, a KR9680 its cached entries to the directory (R12, R18, R427)
    let s1 := budgetWrite (if s.isUsable dXMEM then flushDirty 0 (2 ^ 24) s else s)
    finish c .ok [] { s1 with power.phase := .entering, power.stopPort := some c.port, power.heldWake := 0, power.heldDetail := 0 }

def execStopEnter (p : Packet) (s : State) : Out := .next (plazaRun 0x101 (lenIs 0) stopEnterDo p s)

/-- Packets that words of command-in make, a partial one included (R66, R427). -/
def packetsIn (crc : Bool) : List Word → Nat → Nat → Nat
  | [], _, n => n
  | w :: ws, 0, n => packetsIn crc ws (countOf w + b2n crc) (n + 1)
  | _ :: ws, k + 1, n => packetsIn crc ws k n

/-- A port at stop entry: every Lane empty, command packets discarded and counted (R80, R427). -/
def portStop (p : PortId) (s : State) : State :=
  let q := s.port p
  let n := packetsIn (isExternal p) q.cmd.have 0 0
  s.setPort p { q with cmd := {}, lanes := Vector.replicate 5 {}, tags := [], backlog := [], lostCount := 0, lostFirst := 0,
                       abandoned := satAdd q.abandoned n }

/-- The OK response has been taken in full (R80). -/
def responseTaken (q : Port) : Bool :=
  let l := q.lanes[laneResp]
  l.stages.isEmpty && l.waiting.isEmpty && l.cursor = 0 && l.crcDue.isNone

/-- STOP_ENTRY, from t0 to stop (R428-R430, R435): pins, core and DMA stopped, banks sealed, pads latched, NT on LFXO, domains
off. -/
def stopEntry (s : State) : State :=
  match s.power.stopPort with
  | none => s
  | some p =>
    if s.power.phase ≠ .entering || !responseTaken (s.port p) then s
    else
      let s1 := portStop .mbx (portStop .uart (portStop .spi { s with plaza.rdy := false, time.ppsOut := false }))
      let s2 := (List.finRange 16).foldl (fun s ch => dmaHalt 2 4 ch s) (dmaDrain 1024 2048 s1)
      let at_ := s.power.domains
      let s3 := switchOff 0xFF0#12 (latchPads s2)
      let s4 := toLfxo { s3 with plaza.mbxInten := 0, plaza.mbxIntstat := 0, plaza.mbxOverrun := false, plaza.mbxHold := none }
      let keep : BitVec 12 := at_ &&& 0x003#12
      { s4 with
          flash.unlocked := Vector.replicate 3 false,
          power := { s4.power with
            phase := .stop, stopPort := none, stopAt := s.elapsed.now, domains := keep ||| 1#12, usable := (s.power.usable &&& keep) ||| 1#12, atEntry := at_,
            domainOps := [], hfxo := false, pll := false, sealedBanks := s.power.retain ||| s.saveBanks,
            wake := { s.power.wake with entries := s.power.wake.entries + 1, ntEntry := s.time.nt } } }

def execStopEntry (s : State) : Out := .next (stopEntry s)

/-! ### Leaving stop (R432-R436) -/

/-- The lowest source code of a set (R434). -/
def lowestCode (m : BitVec 8) : Nat := ((List.range 8).find? fun c => decide (1 ≤ c) && m.getLsbD c).getD 0

/-- Sources that WAKE_ARM arms, with the DETAIL given for the lowest of them (R431, R432). -/
def armedSources (detail : Nat) (m : BitVec 8) (s : State) : BitVec 8 :=
  let a := s.power.wakeArm
  let low := lowestCode m
  let ok (c : Nat) : Bool :=
    match c with
    | 1 => if low = 1 then decide (8 ≤ detail) && decide (detail < 16) && a.getLsbD (detail - 8) else a.extractLsb' 0 8 ≠ 0#8
    | 2 => a.getLsbD 8
    | 3 => a.getLsbD 9
    | 4 => a.getLsbD 10 && (if low = 4 then s.power.kerbCodes.getLsbD detail else s.power.kerbCodes ≠ 0#16)
    | 5 => a.getLsbD 11
    | 6 => a.getLsbD 12
    | 7 => a.getLsbD 13 && s.sec.debugHeld.isSome
    | _ => false
  BitVec.ofNat 8 (((List.range 8).map fun c => b2n (m.getLsbD c && ok c) * 2 ^ c).sum)

/-- A bank of application SRAM cleared to zero (R435, R436). -/
def clearBanks (m : BitVec 16) (s : State) : State :=
  { s with sram := s.sram.filter fun c => !m.getLsbD (c.1 / 65536) }

/-- Every counter of STATS_READ at 0 (R247). -/
def clearCounters (s : State) : State := [0, 1, 2, 3, 4].foldl (fun s g => clearStats g s) s

/-- The save area's bank has failed its seal: what link firmware kept there is lost (R19, R111, R216, R295, R483; log 56). -/
def saveAreaLost (s : State) : State :=
  let s1 := checkAllLow (budgetRestore true s)
  let s2 := s1.link.frames.foldl (fun s f => endFrame f.fid .flushed s) s1
  clearCounters
    { s2 with link.links := [], link.saved := [], link.own := noShort, rdv := {}, rx.plan := none, radio.cal.mustFull := true,
              bg := { scrubS := s.bg.scrubS, refreshH := s.bg.refreshH, telemS := s.bg.telemS, scrubNow := s.bg.scrubS,
                      refreshNow := s.bg.refreshH, dueAt := s.bg.dueAt, uncorrectable := s.bg.uncorrectable } }

/-- Events pending over stop raised in the order of their codes (R83). -/
def raisePending (s : State) : State :=
  s.plaza.pendingEvents.foldl (fun s e => raise e.1.toNat e.2 s) { s with plaza.pendingEvents := [] }

/-- Wake edges held between the acceptance of STOP_ENTER and the end of entry (R429). -/
def holdWakes (m : BitVec 8) (detail : BitVec 6) (s : State) : State :=
  if m = 0#8 then s
  else
    let c := lowestCode m
    let first := s.power.heldWake = 0#8 || decide (c < lowestCode s.power.heldWake)
    { s with power.heldWake := s.power.heldWake ||| m,
             power.heldDetail := if first then (if c ≤ 4 then detail else 0) else s.power.heldDetail }

/-- The device leaves stop with some domains on and its wake record: times that do not run in stop go on (R477, R480), banks that failed
or were not kept are cleared, HOST_RDY rises (R433-R436). -/
def woken (on_ : BitVec 12) (record : WakeRecord) (s : State) : State :=
  let away := s.elapsed.now - s.power.stopAt
  let s0 : State := { s with radio.cal.dueSince := s.radio.cal.dueSince + away, bg.lastPause := s.bg.lastPause.map fun p => (p.1 + away, p.2),
                             bg.dueAt := s.bg.dueAt.map fun t => t + away }
  let s1 := clearBanks (record.retFail ||| ~~~s.power.sealedBanks) s0
  { s1 with
    power := { s1.power with phase := .run, domains := on_, usable := on_ ||| s1.power.usable, wake := record, heldWake := 0, heldDetail := 0,
                             pmuEvents := if record.retFail ≠ 0#16 then s1.power.pmuEvents ||| 4#4 else s1.power.pmuEvents },
    radio.refInUse := s1.radio.rf.ref, radio.trimInUse := s1.radio.rf.hfxoTrim, plaza.rdy := true,
    plaza.uartBitNs := if record.sources.getLsbD 6 then none else s1.plaza.uartBitNs }

/-- WAKE: from a wake edge to the release of APP (R429, R433-R436). The radio follows SYSPLL (SYSPLL_LOCKED). -/
def wake (sources : BitVec 8) (detail : BitVec 6) (sealFails : BitVec 16) (tempTenths : Int)
    (sensors : Sensors) (s : State) : State :=
  let armed := armedSources detail.toNat (sources &&& 0xFE#8) s
  let held := s.power.heldWake
  -- edges held through entry are the wake; the end of entry is their edge (R429)
  let m := if held = 0#8 then armed else held
  if s.power.phase = .entering then holdWakes armed detail s
  else if s.power.phase ≠ .stop || m = 0#8 then s
  else
    let during := held ≠ 0#8
    let src := lowestCode m
    let det := if during then s.power.heldDetail else if src ≤ 4 then detail else 0
    let fails := sealFails &&& s.power.sealedBanks
    let area := fails &&& s.saveBanks ≠ 0#16
    let at_ := s.power.atEntry
    let on_ : BitVec 12 := (at_ &&& 0x0F0#12) ||| 0x00D#12 ||| (s.power.domains &&& 0x002#12)
    let old := s.power.wake
    let record : WakeRecord := { old with
      source := BitVec.ofNat 4 src, detail := det, duringEntry := during,
      sources := m, ntWake := if during then old.ntEntry else s.time.nt, retFail := fails, saveArea := area, restored := at_ }
    let s3 := periReset (raise 0x004 ((wakeWords record).take 7) (woken on_ record s))
    let s4 := if fails ≠ 0#16 then raise 0x060 [W (fails.toNat + b2n area * 2 ^ 16)] (if area then saveAreaLost s3 else s3) else s3
    let s5 := sampleTemp tempTenths sensors (raisePending (ageBuckets (if on_.getLsbD dXMEM then linksBack s4 else s4)))
    let s6 := serveHeld (if on_.getLsbD dCRYPTO then cryptoOn s5 else s5)
    if on_.getLsbD dAPP then coreStart 1 s6 else s6

def execWake (sources : BitVec 8) (detail : BitVec 6) (sealFails : BitVec 16) (tempTenths : Int) (sensors : Sensors) (s : State) : Out :=
  .next (wake sources detail sealFails tempTenths sensors s)

/-- SYSPLL_LOCKED: 40 µs after HFXO is stable; RFFE and the modems that were on come on, to be usable next (R433). -/
def sysplllocked (s : State) : State :=
  if s.awake && !s.power.pll && s.power.hfxo then
    { s with power.pll := true, power.domains := s.power.domains ||| (s.power.atEntry &&& 0xF00#12),
             power.onAt := stampOn (s.power.atEntry &&& 0xF00#12) s }
  else s

def execSysplllocked (s : State) : Out := .next (sysplllocked s)

/-! ### Dedicated pins (R424) -/

/-- The dedicated pins of the device (R424). -/
inductive DedicatedPin where
  | hostIrq | hostRdy | hostMiso | hostTxd | hostCsn | hostRxd | fem (i : Fin 6) | ppsOut | ppsIn | xspiCs (i : Fin 2) | xspiOther
  | kin (i : Fin 8) | jtag | hfxoOut
  deriving DecidableEq, Repr

/-- What a pin shows: a level, high impedance, an input with its buffer on or off, or whatever the logic behind it drives. -/
inductive PinShows where
  | level (high : Bool)
  | highZ
  | input (buffer : Bool)
  | driven
  deriving DecidableEq, Repr

/-- A dedicated pin: held as R424 says in stop, each until its own domain is released after wake. -/
def dedicatedPin (p : DedicatedPin) (s : State) : PinShows :=
  let stopped := s.power.phase = .stop
  match p with
  | .hostIrq => .level (hostIrq s)
  | .hostRdy => .level s.hostRdy
  | .hostMiso => if stopped then .highZ else .driven
  | .hostTxd => if stopped then .level true else .driven
  | .hostCsn => .input (!stopped || s.power.wakeArm.getLsbD 11)
  | .hostRxd => .input (!stopped || s.power.wakeArm.getLsbD 12)
  | .fem i => .level (s.radio.fem.pins.getLsbD i.val)
  | .ppsOut => .level s.time.ppsOut
  | .ppsIn => .input true
  | .xspiCs _ => if s.isUsable dXMEM then .driven else .level true
  | .xspiOther => if s.isUsable dXMEM then .driven else .level false
  | .kin i =>
    if !s.isUsable dKERB || s.kerb.mode[i] = 0#2 then .highZ
    else if s.kerb.driven.getLsbD i.val then .level (s.kerb.driveLevel.getLsbD i.val)
    else .input (s.kerb.mode[i] = 1#2 || s.kerb.mode[i] = 2#2)
  | .jtag => .driven
  | .hfxoOut => match hfxoOut s with | some b => .level b | none => .driven

/-! ### Brown-out (R437-R441) -/

/-- W in mV (R437). -/
def warnLevel (s : State) : Nat := 2000 + 50 * s.power.bodLevel.toNat

def bodConfigRun (c : Cmd) (s : State) : Except Status (List Word × State) :=
  let w := param c.ps 1
  if !onlyBits w 0x1F#32 || decide (16 < w.toNat) then .error .badParam
  else .ok ([], { s with power.bodLevel := w.setWidth 5 })

def execBodConfig (p : Packet) (s : State) : Out := .next (plazaRun 0x107 (lenIs 1) (immediate bodConfigRun) p s)

/-- A sample of VBAT (R437, R440). -/
def vbatTaken (mv : Nat) (s : State) : State :=
  { s with power.vbat := BitVec.ofNat 12 mv, power.bodLowest := if s.power.bodWarn then min mv s.power.bodLowest else s.power.bodLowest }

def execVbatSample (mv : Nat) (s : State) : Out := .next (vbatTaken mv s)

/-- BOD_WARN (R400, R438, R440): VBAT has been below W for 5 µs; its level counts as the first sample of the warning (log 57). -/
def bodWarn (mv : Nat) (s : State) : State :=
  if s.power.bodWarn || s.power.phase = .booting || decide (warnLevel s ≤ mv) then s
  else
    let r := abortAir s
    let p := flashProgress r.2
    let s1 := { p with flash.suspBod := p.flash.op.isSome || p.flash.inner.isSome,
                         power.bodWarn := true, power.bodSince := s.elapsed.now, power.bodLowest := mv, power.vbat := BitVec.ofNat 12 mv,
                         power.pmuEvents := r.2.power.pmuEvents ||| 1#4 }
    raise 0x002 (W (s.power.bodLevel.toNat + b2n r.1 * 32) :: words64 s.time.nt) s1

def execBodWarn (mv : Nat) (s : State) : Out := .next (bodWarn mv s)

/-- BOD_CLEAR (R440): VBAT has stayed at or above W + 50 mV for 200 µs; flash, then the deferred journal writes, then held
transmissions. -/
def bodClear (mv : Nat) (s : State) : State :=
  if !s.power.bodWarn || decide (mv < warnLevel s + 50) then s
  else
    let us := inUs (s.elapsed.now.toNat - s.power.bodSince.toNat)
    let s1 := { resumeErase s with flash.suspBod := false, power.bodWarn := false, power.pmuEvents := s.power.pmuEvents ||| 2#4 }
    -- deferral times of refresh and compaction have not run (R480)
    let held := s.elapsed.now - s.power.bodSince
    let s2 := if s1.traffic.journalDue then budgetWrite s1 else s1
    let s2 := { s2 with bg.dueAt := s2.bg.dueAt.mapFinIdx fun i t _ => if i = 1 || i = 2 then t + held else t }
    raise 0x003 [W (min us 0xFFFFFFFF), W s.power.bodLowest] s2

def execBodClear (mv : Nat) (s : State) : Out := .next (bodClear mv s)

end Sys2Proof.Machine
end

