-- ==== Sys2Proof/Machine/Boot.lean ====
section
/-! DEFINITION. Resets and the start that follows: power-on, brown-out and warm resets, the boot ROM's scan and checks,
settings and measurements at start, BOOTED (R10, R19, R25, R53, R58, R80, R85, R324, R402, R417, R466, R494). -/

namespace Sys2Proof.Machine
open Sys2Proof

/-! ### The active image at a start (R362, R457) -/

/-- n bytes of a bank from an offset. -/
def bankBytes (s : State) (bank o n : Nat) : List Byte := (List.range n).map fun k => flashByte s (bankBase s bank + o + k)

/-- The owner section key of the active manifest unwraps at this start: under the class key, or under the record that its slot
still has (R323, R457). -/
def ownerKeyReady (i : Image) (s : State) : Bool :=
  match i.ownerSlot with
  | none => true
  | some n =>
    match s.sec.records.toList.getD n none with
    | some k => keyUnwrap k.aesBytes (bankBytes s (activeArray s) 256 40) = some (bytes256 i.ownerKey)
    | none => false

/-- An owner part of the active image that the decryptor can give (R323, R457). -/
def ownerPart (kind : Nat) (s : State) : Option (Image × ImagePart) := (activePart s kind).filter fun r => ownerKeyReady r.1 s

/-- The plaintext of a part of the active image. -/
def partBytes (r : Image × ImagePart) (s : State) : List Byte :=
  (List.range r.2.size).map (plainByte r.1.ownerKey r.2 fun o => flashByte s (bankBase s (activeArray s) + r.2.offset + o))

/-- The default that the active image holds for a device item (R122, R175, R296, R452). -/
def imageDefault (kind item : Nat) (s : State) : Option (List Word) :=
  match ownerPart kind s with | some r => Config.imageItem item (partBytes r s) | none => none

/-! ### What the boot ROM does (R324, R402, R466) -/

/-- The flag scan (R402): sectors of the common region are erased again; those of a bank keep their flag. -/
def bootScan (s : State) : State :=
  let flagged := (List.range 512).filter fun x => s.flash.flags.getLsbD x
  let common (x : Nat) : Bool := arrayOf s x = 2
  let found := flagged.map fun x => (x, common x)
  let s1 := (flagged.filter common).foldl (fun s x => eraseSector x s) s
  { s1 with flash.found := found }

/-- A bank switch record on trial is marked rolled back: the fallback bank starts and its settings generation returns (R466,
R469). -/
def bootTrial (s : State) : State :=
  match s.upd.trial with
  | none => s
  | some t =>
    let u := s.upd
    let ver := match activeImage s with | some i => i.linkVersion | none => 0
    let pre := u.preSettings.getD (u.settings, u.provisioning)
    { s with upd := { u with activeB := !u.activeB, trial := none, preSettings := none, settings := pre.1, provisioning := pre.2,
                             bankA := if u.activeB then u.bankA else none, bankB := if u.activeB then none else u.bankB,
                             rolledBack := some (t.due.getD 6, ver) } }

/-- SHA-256 of the OTP row, seed and password hash as zeros (R324). -/
def otpDigest (s : State) : BitVec 256 := sha256 (unpackLE ((List.range 512).map (otpRead s)))

/-- The digest of the active image's link firmware part (R324). -/
def linkDigest (s : State) : BitVec 256 := match activePart s 1 with | some r => r.2.digest | none => Config.linkDigest

/-- The measurements of ROM, OTP row, link firmware, application image and radio tables (R324). -/
def bootMeasures (s : State) : State :=
  let s1 := extendMr 0 0x02#8 (otpDigest s) (extendMr 0 0x01#8 Config.romDigest s)
  let s2 := extendMr 1 0x10#8 (linkDigest s) s1
  let s3 := match ownerPart 2 s with | some r => extendMr 2 0x20#8 r.2.digest s2 | none => s2
  match ownerPart 3 s with | some r => extendMr 3 0x30#8 r.2.digest s3 | none => s3

/-! ### Settings at a start (R122, R175, R289, R296, R452, R469) -/

/-- The digest of a record's parameter words; open where no one load gave the record whole. -/
def recordDigest (ws : Option (List Word)) (s : State) : BitVec 256 × State :=
  match ws with
  | some ps => (digestWords ps, s)
  | none => let r := drawWords 8 s; (mk256 r.1, r.2)

def startRegion (s : State) : State :=
  let item := if s.upd.settings.region.isSome then s.upd.settings.region else imageDefault 3 0 s
  match item with
  | some ps => (match regionOf ps with | some r => takeRegion ps r s | none => s)
  | none => s

def startLibrary (s : State) : State :=
  let take (maps : List (Nat × BitVec 288)) (id : BitVec 16) (ws : Option (List Word)) (s : State) : State :=
    let d := recordDigest ws s
    extendMr 3 0x32#8 d.1 (setLibraryId id { d.2 with phy.maps := maps })
  match s.upd.settings.library with
  | some i => take i.maps i.id i.words s
  | none =>
    match imageDefault 3 1 s with
    | some ps => (match loadMaps ps [] with | some (maps, id) => take maps id (some ps) s | none => setLibraryId 0 { s with phy.maps := [] })
    | none => setLibraryId 0 { s with phy.maps := [] }

/-- Limits by sub-band put in force. -/
def putLimits (l : List BandLimit) (s : State) : State :=
  { s with traffic.accounts := Vector.ofFn fun i =>
      let a := s.traffic.accounts[i]
      let b := l.getD i.val ⟨a.limit, a.reserve, a.low⟩
      { a with limit := b.limit, reserve := b.reserve, low := b.low } }

/-- The budgets: buckets restored from the journal, then the limits in force from the settings journal, the image or the
defaults (R295, R296). -/
def startBudget (aged : Bool) (s : State) : State :=
  let s1 := budgetRestore aged { s with traffic.bucketNo := s.elapsed.now.toNat / secU 60 }
  match s.upd.settings.budget with
  | some b =>
    let d := recordDigest b.words s1
    extendMr 3 0x33#8 d.1 (putLimits b.limits (setWindow b.n b.s d.2))
  | none =>
    match imageDefault 3 3 s with
    | some ps =>
      extendMr 3 0x33#8 (digestWords ps)
        (setLimits (fld (param ps 1) 3 0) (ps.drop 2) (setWindow (fld (param ps 1) 23 16) (fld (param ps 2) 11 0) s1))
    | none => setWindow 60 60 s1

def startKerb (s : State) : State :=
  let item := if s.upd.settings.kerb.isSome then s.upd.settings.kerb else imageDefault 4 6 s
  match item with
  | some ps => extendMr 3 0x34#8 (digestWords (ps.drop 4)) { s with kerb := kerbTake ps s.kerb }
  | none => s

/-- The device items without a measurement: gate list, directory, attestation policy, background schedules (R268, R289, R337,
R482). -/
def startOthers (s : State) : State :=
  let i := s.upd.settings
  let s1 := match i.gate with | some l => loadGates l false s | none => s
  let s2 : State := if s.is80 then { s1 with dir.cfg := i.dir } else s1
  let s3 : State := match i.attest with
    | some (q, p, r) => { s2 with sec.remoteQueue := q, sec.remoteProfile := p, sec.remoteRate := r }
    | none => s2
  let s4 : State := match i.bg with
    | some (a, b, c) => { s3 with bg.scrubS := a, bg.refreshH := b, bg.telemS := c }
    | none => s3
  { s4 with bg.scrubNow := s4.bg.scrubS, bg.refreshNow := s4.bg.refreshH, bg.dueAt := Vector.replicate 5 s4.elapsed.now }

/-! ### The start (R85, R91, R367, R402, R417) -/

/-- ERASE_INCOMPLETE_FOUND for each sector found, in order (R85, R402). -/
def raiseFound (s : State) : State :=
  s.flash.found.foldl (fun s e => raise 0x051 [W (e.1 + arrayOf s e.1 * 2 ^ 9 + b2n e.2 * 2 ^ 11), W (e.1 * 8192)] s) s

/-- The body of PROVISIONING_REQUIRED (R471). -/
def provisioningWords (p : Provisioning) : List Word := [W (p.items.toNat + b2n p.customer * 2 ^ 8), p.oldVersion, p.newVersion]

/-- The events of a start, BOOTED first (R85). -/
def bootEvents (s : State) : State :=
  let s1 := raiseAll 0x001 [W (s.power.cause.toNat + b2n s.flash.hostApp * 16 + lifecycleCode s.lifecycle * 2 ^ 8), s.power.lostAtReset,
    s.flash.bootCount] s
  let s2 := raiseFound s1
  let s3 := match s.upd.rolledBack with | some (r, v) => raise 0x0CA [W r, v] { s2 with upd.rolledBack := none } | none => s2
  match s.upd.provisioning with | some p => raise 0x081 (provisioningWords p) s3 | none => s3

/-- The host choice: the strap P1_07 in DEVELOP, OTP HOST_SEL otherwise (R5, R407, R512). -/
def hostChoice (strap : Bool) (s : State) : Bool :=
  if s.lifecycle = .develop then strap else fld (otpWord s 2) 1 0 = 2

/-- The count of starts, journalled (R326). -/
def countBoot (s : State) : State := { s with flash.bootCount := s.flash.bootCount + 1 }

/-- The domains on after a start: APP and PERI with an application image or an application host (R444). -/
def startDomains (s : State) : State :=
  let app := (ownerPart 2 s).isSome
  let ds : BitVec 12 := if app || s.flash.hostApp then 0x01D#12 else 0x00D#12
  { s with core.imagePresent := app, power.domains := ds, power.usable := ds }

/-- The application core starts if APP is on (R367). -/
def startCore (s : State) : State := if s.on dAPP then coreStart 0 s else s

/-- The device is in run and HOST_RDY rises (R91); a host port has every defined event enabled (R81). -/
def openPorts (s : State) : State :=
  let mask (p : PortId) : BitVec 256 := if s.isHostPort p then definedEvents else 0
  { s with power.phase := .run, plaza.rdy := true, plaza.ports := s.plaza.ports.mapFinIdx fun i q _ =>
    { q with mask := if i = 0 then mask .spi else if i = 1 then mask .uart else mask .mbx } }

/-- The boot ROM and link firmware, from the release of reset to run. -/
def boot (aged : Bool) (s : State) : State :=
  let s1 := bootMeasures (countBoot (bootTrial (bootScan s)))
  let s2 := startOthers (startKerb (startBudget aged (startLibrary (startRegion s1))))
  checkAllLow (bootEvents (openPorts (startCore (startDomains s2))))

/-! ### What a reset leaves -/

/-- A part-done operation on flash is abandoned: how far it came is open, the unit in progress is open, an unfinished sector
keeps its flag (R400, R401). -/
def abandonOp (o : FlashOp) (s : State) : State :=
  let r := drawWord s
  let n := if o.erase then o.left else o.units.length
  let k := some (r.1.toNat % (n + 1))
  if o.erase then (eraseSectors o.left o.sector k o.done r.2).2 else (programUnits o.units k o.done r.2).2

/-- The erase of the inactive bank by UPD_BEGIN, as an operation (R458). -/
def bankErase (s : State) : FlashOp :=
  { port := .spi, handle := 0, erase := true, sector := (1 - activeArray s) * s.bankSectors, left := s.bankSectors }

/-- Every operation on flash is abandoned (R400). -/
def abandonFlash (s : State) : State :=
  let s1 := match s.flash.inner with | some o => abandonOp o s | none => s
  let s2 := match s.flash.op with | some o => abandonOp o s1 | none => s1
  let s3 := match s.upd.session with | some u => (if u.erasing.isSome then abandonOp (bankErase s2) s2 else s2) | none => s2
  let f := s3.flash
  { s3 with flash := { cells := f.cells, flags := f.flags, corrected := f.corrected, uncorrectable := f.uncorrectable, prot := f.prot,
                       otp := f.otp, certificate := f.certificate, bootCount := f.bootCount, hostApp := f.hostApp } }

/-- An entry as it is rebuilt from the mirror (R19): OUT_CTR at its ceiling, buckets full. -/
def mirrored (now : DWord) (e : LinkEntry) : LinkEntry :=
  { short := e.short, eui := e.eui, key256 := e.key256, key := e.key, map := e.map, meter := e.meter, ackPower := e.ackPower,
    outCtr := e.ceiling, ceiling := e.ceiling, inCtr := e.inCtr, inBcast := e.inBcast, mic := e.mic, micBcast := e.micBcast,
    ackHeld := e.ackHeld, ackMargin := e.ackMargin, ackPending := e.ackPending, parent := e.parent,
    buckets := fullBuckets {} now }

/-- A rendezvous as it is rebuilt from the mirror: none of its windows is open (R19). -/
def mirroredRdv (r : Rdv) : Rdv := { r with window := none, eligibleUntil := none, slotFrame := none, slotSent := false }

/-- The radio after a reset, REF from OTP (R115). -/
def freshRadio (s : State) : RadioState :=
  let ref := bitAt (otpWord s 2) 2
  { rf := { ref }, rfNow := { ref }, refInUse := ref }

/-- The ledger after a warm reset: every pending frame ends FLUSHED (R306). -/
def flushLedger (s : State) : Ledger :=
  (s.link.frames.foldl (fun s f => inLedger f.kind (LedgerScope.close f.inFlight (outcomeCode .flushed)) s) s).ledger

/-- Frames accepted for delivery whose packet the consumer has not taken in full (R10). -/
def lostFrames (s : State) : Nat := s.rx.store.countP fun f => f.delivered

/-- The Kerb after a warm reset: its program stands still; log, variables and counts are kept (R450). -/
def kerbKept (k : KerbState) : KerbState :=
  { overrun := k.overrun, passes := k.passes, trigLost := k.trigLost, vars := k.vars, shown := k.shown, log := k.log, lost := k.lost,
    decided := k.decided, counts := k.counts, kin := k.kin }

/-- What a power-on or brown-out reset leaves (R10, R25, R306, R450, R472, R494): what flash and OTP hold, the outer levels,
and external memory if it kept its contents, which is open for a volatile one. -/
def coldState (s0 : State) : State :=
  let s1 := abandonFlash s0
  let k := drawBool s1
  let lose := (match s1.dir.cfg with | some c => c.volatile | none => true) && k.1
  let s := k.2
  { pending := s.pending, free := s.free,
    radio := freshRadio s,
    dir := { cfg := none, highWater := s.dir.highWater, epoch := s.dir.epoch, seq := s.dir.seq, libraryId := s.dir.libraryId,
             mapVersion := s.dir.mapVersion, mem := if lose then [] else s.dir.mem },
    traffic := { journal := s.traffic.journal },
    sec := { records := s.sec.records },
    core := { busRead := s.core.busRead },
    peri := (periReset s).peri,
    flash := { s.flash with corrected := 0, uncorrectable := 0 },
    power := { variant := s.power.variant, vio := s.power.vio, dieTemp := s.power.dieTemp, rfTemp := s.power.rfTemp,
               coreTemp := s.power.coreTemp, adcTrim := s.power.adcTrim, flashTrim := s.power.flashTrim },
    kerb := { kin := s.kerb.kin },
    upd := { s.upd with session := none, verifying := none, staged := none, act := none, hand := none, rolledBack := none } }

/-- What a warm reset leaves (R10, R19, R25, R53, R58, R80, R169, R276, R295, R306, R434, R437, R450). -/
def warmState (s0 : State) : State :=
  let s := abandonFlash s0
  let lost := satAdd s.power.lostAtReset (lostFrames s)
  -- the mirror's seal decides whether the link table is rebuilt (R19)
  let mirror := !s.is80 && s.lifecycle ≠ .retired && !s.link.sealBroken
  { pending := s.pending, free := s.free, sram := s.sram, elapsed := s.elapsed,
    time := { s.time with ppsErr := 0, glitch := 0, ppsOut := false, setPending := none, inten := 0, intstat := 0 },
    phy := { seed := s.phy.seed, libraryId := s.phy.libraryId },
    radio := freshRadio s,
    link := { nextFid := s.link.nextFid,
              own := if mirror then s.link.own else noShort,
              links := if mirror then ((mirrorLinks s).filter fun e => e.deleting.isNone).map (mirrored s.elapsed.now) else [] },
    rdv := { rdvs := if mirror then s.rdv.rdvs.map mirroredRdv else [] },
    dir := { cfg := none, highWater := s.dir.highWater, epoch := s.dir.epoch, seq := s.dir.seq, faults := s.dir.faults,
             libraryId := s.dir.libraryId, mapVersion := s.dir.mapVersion, mem := s.dir.mem },
    traffic := { journal := s.traffic.journal, journalAt := s.traffic.journalAt },
    ledger := flushLedger s,
    sec := { records := s.sec.records, trngFails := s.sec.trngFails },
    core := { busRead := s.core.busRead },
    peri := (periReset s).peri,
    flash := s.flash,
    power := { variant := s.power.variant, vio := s.power.vio, dieTemp := s.power.dieTemp, rfTemp := s.power.rfTemp,
               coreTemp := s.power.coreTemp, adcTrim := s.power.adcTrim, flashTrim := s.power.flashTrim,
               vbat := s.power.vbat, bodLevel := s.power.bodLevel,
               wake := s.power.wake, lostAtReset := lost, lfxoDue := s.power.lfxoDue, hfxo := !s.time.onLf, pll := !s.time.onLf },
    kerb := kerbKept s.kerb,
    bg := { uncorrectable := s.bg.uncorrectable },
    upd := { s.upd with session := none, verifying := none, staged := none, act := none, hand := none, rolledBack := none } }

/-- The level of the strap P1_07 (R512). -/
def strapLevel (s : State) : Bool := s.power.vio && (s.peri.gpio[1]).level.getLsbD 7

/-- A power-on or brown-out reset: the start waits for the LFXO (R91, R494). -/
def coldReset (cause : BitVec 4) (s : State) : State :=
  let t := { s with upd.trial := s.upd.trial.map fun (t : Trial) => { t with due := none } }
  let c := coldState t
  let c1 : State := { c with power.cause := cause }
  { c1 with flash.hostApp := hostChoice (strapLevel c1) c1 }

/-- A warm reset with its cause and, for a rollback of R465, its reason; the LFXO runs on (R494). -/
def warmResetTo (cause : BitVec 4) (reason : Option Nat) (strap : Bool) (s : State) : State :=
  let t := { s with upd.trial := s.upd.trial.map fun (t : Trial) => { t with due := reason } }
  let c := warmState t
  let c1 : State := { c with power.cause := cause }
  let c2 : State := { c1 with flash.hostApp := hostChoice strap c1 }
  if c2.power.lfxoDue then c2 else boot true c2

/-! ### The rows -/

def execPowerOnReset (s : State) : Out := .next (coldReset 0 s)

/-- BROWNOUT_RESET: VBAT below 1.75 V, in any state (R437). -/
def brownoutReset (mv : Nat) (s : State) : State := if mv < 1750 then coldReset 1 s else s

def execBrownoutReset (mv : Nat) (s : State) : Out := .next (brownoutReset mv s)

/-- RESETN: a low pulse of at least 10 µs resets, one below 1 µs is ignored, and what one between does is open (R494). While
EXTEST is selected the device is held and the scan chain has the pins (R331). -/
def resetn (lowNs : Nat) (strap : Bool) (s : State) : State :=
  if lowNs < 1000 || s.sec.extest then s
  else if 10000 ≤ lowNs then warmResetTo 2 none strap s
  else
    let r := drawBool s
    if r.1 then warmResetTo 2 none strap r.2 else r.2

def execResetn (lowNs : Nat) (strap : Bool) (s : State) : Out := .next (resetn lowNs strap s)

/-- WARM_RESET: SOFT_RESET or LIFECYCLE_ADVANCE was answered, and its response has been taken in full or 1 ms has passed (R95,
R323). -/
def warmReset (s : State) : State :=
  match s.plaza.resetDue with
  | none => s
  | some d =>
    let taken := decide (d.upTo ≤ (s.port d.port).lanes[laneResp].out)
    let waited := match d.placed with | some since => elapsedBy since s.elapsed.now (msU 1) | none => false
    if taken || waited then warmResetTo 3 none (strapLevel s) s else s

def execWarmReset (s : State) : Out := .next (warmReset s)

/-- DEBUG_RESET: a debugger that has access asks for a reset (R329). -/
def debugReset (s : State) : State :=
  if s.awake && s.sec.debug ≠ .closed then warmResetTo 5 none (strapLevel s) s else s

def execDebugReset (s : State) : Out := .next (debugReset s)

/-- EXTEST: selecting it holds both cores and CRYPTO, and everything halts; leaving it is a warm reset (R331). -/
def extest (select : Bool) (s : State) : State :=
  if select then
    if s.sec.extest then s
    else
      let s1 := cryptoOff s
      let off := coreHold { s1 with power.domains := s1.power.domains &&& ~~~domBit dCRYPTO, power.usable := s1.power.usable &&& ~~~domBit dCRYPTO }
      { off with sec.extest := true, power.phase := .booting, plaza.rdy := false }
  else if s.sec.extest then warmResetTo 5 none (strapLevel s) s
  else s

def execExtest (select : Bool) (s : State) : Out := .next (extest select s)

/-- VIO_REMOVED and VIO_RESTORED: without VIO every VIO-supplied input reads 0 and HOST_RDY is low (R91, R491). -/
def setVio (on_ : Bool) (s : State) : State := withEdges (fun s => { s with power.vio := on_ }) s

def execVioRemoved (s : State) : Out := .next (setVio false s)
def execVioRestored (s : State) : Out := .next (setVio true s)

/-- LFXO_RUNNING: the start of a power-on or brown-out reset goes on (R91, R494). -/
def lfxoRunning (s : State) : State :=
  if !s.power.lfxoDue then s
  else
    let s1 : State := { s with power.lfxoDue := false }
    if s.sec.extest then s1 else boot false s1

def execLfxoRunning (s : State) : Out := .next (lfxoRunning s)

end Sys2Proof.Machine
end

