-- ==== Sys2Proof/Machine/Update.lean ====
section
/-! DEFINITION. Firmware update, handover, trial, rollback and settings (R454-R474). -/

namespace Sys2Proof.Machine
open Sys2Proof

/-! ### The manifest (R454-R456) -/

/-- Bytes of a manifest. -/
def mBytes (m : List Byte) (o n : Nat) : List Byte := (m.drop o).take n

/-- A field of a manifest, most significant byte first (R455). -/
def mNum (m : List Byte) (o n : Nat) : Nat := natBE (mBytes m o n)

def allZero (bs : List Byte) : Bool := bs.all (· = 0#8)

/-- The part entry at an offset of the manifest (R456). -/
def partAt (m : List Byte) (o : Nat) : ImagePart :=
  { kind := mNum m o 1, offset := mNum m (o + 4) 4, size := mNum m (o + 8) 4, iv := mBytes m (o + 12) 16,
    digest := BitVec.ofNat 256 (mNum m (o + 28) 32) }

/-- Reserved bytes of a part entry. -/
def partReserved (m : List Byte) (o : Nat) : Bool := allZero (mBytes m (o + 1) 3) && allZero (mBytes m (o + 60) 4)

/-- Where the owner part entries in use stand. -/
def ownerEntries (m : List Byte) : List Nat := (List.range (min 3 (mNum m 255 1))).map fun k => 296 + 64 * k

/-- Every part of the package: link firmware, then the owner's. -/
def packageParts (m : List Byte) : List ImagePart := partAt m 56 :: (ownerEntries m).map (partAt m)

/-- Check 1: MAGIC, FORMAT, reserved fields and KIND rules (R455, R456, R460). -/
def formOk (m : List Byte) : Bool :=
  let kinds := (ownerEntries m).map fun o => mNum m o 1
  mBytes m 0 5 = [0x4B#8, 0x52#8, 0x39#8, 0x4D#8, 0x01#8] && allZero (mBytes m 5 3) && allZero (mBytes m 15 1) && allZero (mBytes m 616 408)
    && decide (mNum m 14 1 < 8) && decide (mNum m 12 2 ≤ 1024) && decide (mNum m 252 2 ≤ 1024) && decide (mNum m 254 1 ≤ 1)
    && decide (mNum m 255 1 ≤ 3) && (56 :: ownerEntries m).all (partReserved m)
    && allZero (mBytes m (296 + 64 * mNum m 255 1) (192 - 64 * mNum m 255 1))
    && mNum m 56 1 = 1 && (kinds.all fun k => decide (2 ≤ k) && decide (k ≤ 4)) && decide kinds.Nodup

/-- The key and the signature at two offsets. -/
def mPair (m : List Byte) (o : Nat) : BitVec 256 × BitVec 256 := (BitVec.ofNat 256 (mNum m o 32), BitVec.ofNat 256 (mNum m (o + 32) 32))

/-- Check 2: the vendor section (R460). -/
def vendorOk (m : List Byte) (s : State) : Bool :=
  let k := mPair m 120
  let g := mPair m 184
  keyHash k = otpHash s 16 && verifies k (sha256 (mBytes m 8 176)) g.1 g.2

/-- Check 3: the owner section; skipped while OWNER_ROOT_HASH is all zeros (R460). -/
def ownerOk (m : List Byte) (s : State) : Bool :=
  let k := mPair m 488
  let g := mPair m 552
  otpHash s 24 = 0#256 || (keyHash k = otpHash s 24 && verifies k (sha256 (mBytes m 0 552)) g.1 g.2)

/-- A thermometer's value: consecutive 1 bits from bit 0 of its first word (R407). -/
def thermoValue (s : State) (first : Nat) : Nat :=
  ((List.range 1024).takeWhile fun i => bitAt (otpWord s (first + i / 32)) (i % 32)).length

/-- Check 6 for one part: alignment, size, within BYTES and the bank, clear of the parts before it (R456, R460). -/
def partFits (bytes : Nat) (before : List ImagePart) (p : ImagePart) (s : State) : Bool :=
  let room := min bytes (s.bankSectors * 8192)
  p.offset % 8192 = 0 && decide (8192 ≤ p.offset) && p.size % 16 = 0 && decide (16 ≤ p.size) && decide (p.offset + p.size ≤ room)
    && before.all fun q => decide (q.offset + q.size ≤ p.offset) || decide (p.offset + p.size ≤ q.offset)

/-- The first part that does not fit. -/
def misfit (bytes : Nat) (s : State) : List ImagePart → List ImagePart → Option Nat
  | _, [] => none
  | before, p :: rest => if partFits bytes before p s then misfit bytes s (p :: before) rest else some p.kind

/-- A 40-byte wrapped section key under a key-encryption key (R455). -/
def unwrapSection (kek : List Byte) (ct : List Byte) : Option (BitVec 256) := (keyUnwrap kek ct).map fun b => BitVec.ofNat 256 (natBE b)

/-- Check 7: the section keys (R457, R460): slot 3 holds the class key; O_WRAP 1 names an OWNER or OWNER_SEALED slot with WRAP. -/
def sectionKeys (m : List Byte) (slot : Nat) (s : State) : Except Status (BitVec 256 × BitVec 256) :=
  let cls := bytes256 Config.classKey
  match unwrapSection cls (mBytes m 16 40) with
  | none => .error .authFail
  | some v =>
    if mNum m 254 1 = 0 then (match unwrapSection cls (mBytes m 256 40) with | some o => .ok (v, o) | none => .error .authFail)
    else match slotAt slot s with
      | none => .error .keyAbsent
      | some k =>
        if k.sealed_ then .error .keyAbsent
        else if !k.usage.getLsbD 2 || !(k.type = .aes128 || k.type = .aes256) || slot < 4 || 24 ≤ slot then .error .authFail
        else (match unwrapSection k.aesBytes (mBytes m 256 40) with | some o => .ok (v, o) | none => .error .authFail)

/-- Check 8 for one part: its digest, through the decryptor; a flagged sector fails (R402, R460). -/
def digestOk (bank : Nat) (v o : BitVec 256) (p : ImagePart) (s : State) : Bool :=
  let key := if p.kind = 1 then v else o
  let at_ := bankBase s bank + p.offset
  let plain := (List.range p.size).map (plainByte key p fun k => flashByte s (at_ + k))
  ((List.range (ceilDiv p.size 8192)).all fun k => !s.flash.flags.getLsbD (at_ / 8192 + k)) && sha256 plain = p.digest

/-- The image that a manifest describes (R455, R457). -/
def imageOf (m : List Byte) (slot : Nat) (v o : BitVec 256) : Image :=
  let ps := packageParts m
  { linkVersion := W (mNum m 8 4), linkArb := mNum m 12 2, appVersion := W (mNum m 248 4), appArb := mNum m 252 2, parts := ps,
    vendorKey := v, ownerKey := o, ownerSlot := if mNum m 254 1 = 1 then some slot else none,
    extent := (ps.map fun p => p.offset + p.size).foldl max 8192 }

/-- The checks of R460 in their order: the status, the reason with the failing part's KIND, and the image that is staged. -/
def checkPackage (u : UpdSession) (s : State) : Status × Nat × Nat × Option Image :=
  let bank := 1 - activeArray s
  let m := bankBytes s bank 0 1024
  let variant := s.byVariant 0 1 2
  if !formOk m then (.updateRejected, 1, 0, none)
  else if !vendorOk m s then (.updateRejected, 2, 0, none)
  else if !ownerOk m s then (.updateRejected, 3, 0, none)
  else if !(mNum m 14 1).testBit variant then (.updateRejected, 4, 0, none)
  else if mNum m 12 2 < thermoValue s 64 || mNum m 252 2 < thermoValue s 96 then (.rollbackRefused, 5, 0, none)
  else match misfit u.bytes s [] (packageParts m) with
    | some k => (.updateRejected, 6, k, none)
    | none =>
      match sectionKeys m u.ownerSlot s with
      | .error st => (st, 7, 0, none)
      | .ok (v, o) =>
        match (packageParts m).find? fun p => !digestOk bank v o p s with
        | some p => (.updateRejected, 8, p.kind, none)
        | none => (.ok, 0, 0, some (imageOf m u.ownerSlot v o))

/-! ### Staging (R458-R460) -/

/-- The first sector of the inactive bank. -/
def inactiveFirst (s : State) : Nat := (1 - activeArray s) * s.bankSectors

/-- An enabled protection region lies in the inactive bank (R391). -/
def inactiveProtected (s : State) : Bool :=
  s.flash.prot.toList.any fun r => r.en && decide (r.first.toNat < inactiveFirst s + s.bankSectors) && decide (inactiveFirst s ≤ r.last.toNat)

/-- What a bank holds as an image replaced. -/
def setBank (b : Bool) (i : Option Image) (s : State) : State := if b then { s with upd.bankB := i } else { s with upd.bankA := i }

def updBeginRun (c : Cmd) (s : State) : State :=
  let w1 := param c.ps 1
  let w2 := param c.ps 2
  let bytes := fld w1 20 0
  let slot := fld w2 4 0
  match firstFail [
      (!onlyBits w1 0x1FFFFF#32 || !onlyBits w2 0x1F#32 || bytes % 16 ≠ 0 || decide (s.bankSectors * 8192 < bytes), .badParam),
      (decide (1 ≤ slot) && decide (slot ≤ 3), .denied),
      (s.lifecycle = .retired || s.upd.trial.isSome || s.upd.act.isSome, .badState), (s.upd.session.isSome, .busy),
      (inactiveProtected s, .flashProtected), (s.power.bodWarn, .brownoutHold), (s.flash.op.isSome, .flashBusy)] with
  | some st => finish c st [] s
  | none =>
    let u : UpdSession := { port := c.port, bytes, ownerSlot := slot, erasing := some c.tag }
    setFlag (inactiveFirst s) true (setBank (!s.upd.activeB) none { s with upd.session := some u, upd.staged := none })

def execUpdBegin (p : Packet) (s : State) : Out := .next (plazaRun 0x901 (lenIs 2) updBeginRun p s)

/-- INACTIVE_BANK_ERASED: the erase that UPD_BEGIN started is complete, which a brown-out warning suspends (R400, R458). -/
def inactiveBankErased (s : State) : State :=
  match s.upd.session with
  | none => s
  | some u =>
    match u.erasing with
    | none => s
    | some t =>
      if s.power.bodWarn || !s.inRun then s
      else
        let s1 := (eraseSectors s.bankSectors (inactiveFirst s) none 0 s).2
        finish ⟨u.port, t, 0x901, []⟩ .ok [] { s1 with upd.session := some { u with erasing := none } }

def execInactiveBankErased (s : State) : Out := .next (inactiveBankErased s)

def updChunkRun (c : Cmd) (s : State) : State :=
  let w1 := param c.ps 1
  let w2 := param c.ps 2
  let off := fld w1 20 0
  let len := fld w2 12 0
  let mine := match s.upd.session with | some u => u.port = c.port | none => false
  let bytes := match s.upd.session with | some u => u.bytes | none => 0
  match firstFail [
      (!onlyBits w1 0x1FFFFF#32 || !onlyBits w2 0x1FFF#32 || off % 16 ≠ 0 || len % 16 ≠ 0 || decide (len < 16) || decide (4064 < len), .badParam),
      (s.upd.session.isNone, .badState), (!mine, .denied), (s.upd.staged.isSome, .badState), (decide (bytes < off + len), .badParam),
      (s.power.bodWarn, .brownoutHold), (bankErasing s || s.upd.verifying.isSome, .busy)] with
  | some st => finish c st [] s
  | none =>
    let units := unitsOf (inactiveFirst s * 8192 + off) (chunks 16 (unpackLE (c.ps.drop 2)))
    let d := drawBool s
    let b := pickBad d.1 units.length d.2
    let r := programUnits units b.1 0 b.2
    finish c (if r.1.failed.isSome then .verifyFail else .ok) [] r.2

def execUpdChunk (p : Packet) (s : State) : Out :=
  .next (plazaRun 0x902 (fun ps => decide (2 ≤ ps.length) && ps.length = 2 + fld (param ps 2) 12 0 / 4) updChunkRun p s)

def updVerifyRun (c : Cmd) (s : State) : State :=
  match firstFail [(s.upd.session.isNone || s.upd.act.isSome, .badState), (bankErasing s || s.upd.verifying.isSome, .busy)] with
  | some st => finish c st [] s
  | none => { s with upd.verifying := some (c.port, c.tag) }

def execUpdVerify (p : Packet) (s : State) : Out := .next (plazaRun 0x903 (lenIs 0) updVerifyRun p s)

/-- UPD_VERIFY_DONE: the checks are complete (R460). -/
def updVerifyDone (s : State) : State :=
  match s.upd.verifying, s.upd.session with
  | some (p, t), some u =>
    if !s.inRun then s
    else
      let r := checkPackage u s
      let m := bankBytes s (1 - activeArray s) 0 1024
      finish ⟨p, t, 0x903, []⟩ r.1 [W (r.2.1 + r.2.2.1 % 8 * 16), W (mNum m 8 4), W (mNum m 248 4)]
        { s with upd.verifying := none, upd.staged := r.2.2.2 }
  | _, _ => s

def execUpdVerifyDone (s : State) : Out := .next (updVerifyDone s)

/-! ### Activation and handover (R461-R464, R470, R471) -/

def updActivateRun (c : Cmd) (s : State) : State :=
  let w := param c.ps 1
  match firstFail [
      (!onlyBits w 0x1FFFFFFF#32 || fld w 15 0 = 0 || decide (fld w 27 16 < 10) || decide (3600 < fld w 27 16), .badParam),
      (s.upd.staged.isNone || s.upd.act.isSome, .badState), (s.power.bodWarn, .brownoutHold),
      (!canAccept c.port s, .busy)] with
  | some st => finish c st [] s
  | none =>
    let r := takeHandle c.port s
    let a : Activation := { port := c.port, handle := r.1, since := s.elapsed.now, waitMax := fld w 15 0, trialS := fld w 27 16,
                            rollbackOnFault := bitAt w 28 }
    respondAccepted c r.1 { r.2 with upd.act := some a }

def execUpdActivate (p : Packet) (s : State) : Out := .next (plazaRun 0x904 (lenIs 1) updActivateRun p s)

/-- A gap begins now (R461). -/
def gapNow (s : State) : Bool :=
  !(s.radio.mode = .turnTx || s.radio.mode = .tx || s.radio.mode = .turnRx) && !txInFlight s && !(s.rdv.rdvs.any fun r => r.window.isSome)
    && !fixedStartBefore (s.time.nt.toNat + msU 15) s

/-- The body of HANDOVER_DONE (R464). -/
def handoverWords (h : BitVec 16) (st : Status) (flags duration records : Nat) (nt : DWord) : List Word :=
  [h.setWidth 32, W (statusCode st + flags * 2 ^ 16), W duration, W records] ++ words64 nt

/-- The activation ends without a flip: the package stays staged (R461, R462). -/
def handoverEnds (a : Activation) (st : Status) (s : State) : State :=
  afterHandover (completeEvent a.port 0x080 a.handle (handoverWords a.handle st 0 0 0 s.time.nt) { s with upd.act := none })

/-- MAJOR of a version (R455). -/
def major (v : Word) : Nat := fld v 31 24

/-- The device items of a generation that hold records, as item bits (R469). -/
def itemBits (i : Settings) : Nat :=
  b2n i.region.isSome + b2n i.library.isSome * 2 + b2n i.gate.isSome * 4 + b2n i.budget.isSome * 8 + b2n i.dir.isSome * 16
    + b2n i.attest.isSome * 32 + b2n i.kerb.isSome * 64 + b2n i.bg.isSome * 128

/-- Device items that hold records and pass a test. -/
def itemCount (p : Nat → Bool) (i : Settings) : Nat := ((List.range 8).filter fun k => (itemBits i).testBit k && p k).length

/-- The device items that pass a test are kept; customer records are copied unchanged (R470). -/
def keepItems (p : Nat → Bool) (i : Settings) : Settings :=
  let pick {α : Type} (n : Nat) (x : Option α) : Option α := if p n then x else none
  { region := pick 0 i.region, library := pick 1 i.library, gate := pick 2 i.gate, budget := pick 3 i.budget, dir := pick 4 i.dir,
    attest := pick 5 i.attest, kerb := pick 6 i.kerb, bg := pick 7 i.bg, customer := i.customer }

/-- The flip (R462 step 4): both cores are parked, the bank switch record names the new bank on trial, and the measurements follow
(R324). -/
def flip (img : Image) (a : Activation) (h : Handover) (s : State) : State :=
  let u := s.upd
  let old := match activeImage s with | some i => i.linkVersion | none => 0
  let t : Trial := { since := s.elapsed.now, trialS := a.trialS, rollbackOnFault := a.rollbackOnFault }
  let h1 := { h with phase := .parked, old, flipNt := s.time.nt }
  let s1 : State := { s with upd := { u with activeB := !u.activeB, bankA := if u.activeB then some img else u.bankA,
                                             bankB := if u.activeB then u.bankB else some img, session := none, staged := none,
                                             hand := some h1, trial := some t, preSettings := some (u.settings, u.provisioning) } }
  let s2 := extendMr 1 0x11#8 (linkDigest s1) s1
  match img.parts.find? fun p => p.kind = 2 with
  | some p => { extendMr 2 0x21#8 p.digest s2 with core.imagePresent := true }
  | none => { s2 with core.imagePresent := false }

/-- The cores leave the stub (R462 step 5): the application core takes the handover entry or restarts (R368). -/
def unpark (h : Handover) (s : State) : State :=
  let r : Bool × State := if s.on dAPP then coreHandover s else (false, s)
  { r.2 with upd.hand := some { h with phase := .adopting, entry := r.1 } }

/-- Adoption done (R462 step 6): the new settings generation, with the device items whose format the new link firmware knows,
HANDOVER_DONE, the trial, and, where R471 applies,
PROVISIONING_REQUIRED (R464, R465, R470, R471). -/
def adopt (a : Activation) (h : Handover) (s : State) : State :=
  let new := match activeImage s with | some i => i.linkVersion | none => 0
  let changed := major h.old ≠ major new
  let reset := s.is80 && changed
  let i := s.upd.settings
  let known := Config.knowsFormat new
  let migrated := if reset then 0 else itemCount known i
  let discarded := if reset then 0 else itemCount (fun k => !known k) i
  let p : Provisioning := { items := BitVec.ofNat 8 (itemBits i), customer := !i.customer.isEmpty, oldVersion := h.old, newVersion := new }
  let s1 : State := if reset then { s with upd.settings := {}, upd.provisioning := some p }
    else { s with upd.settings := keepItems known i }
  let flags := b2n h.entry + b2n changed * 2 + b2n reset * 4
  let us := inUs (s.elapsed.now - h.t0).toNat
  let s2 : State := { s1 with upd.act := none, upd.trial := s1.upd.trial.map fun t => { t with since := s.elapsed.now } }
  let s3 := completeEvent a.port 0x080 a.handle (handoverWords a.handle .ok flags us (migrated + discarded * 2 ^ 16) h.flipNt) (afterHandover s2)
  if reset then raise 0x081 (provisioningWords p) s3 else s3

/-- A rollback for a reason that has arisen: a warm reset with CAUSE 4 into the fallback bank (R465, R466). -/
def rollBack (reason : Nat) (s : State) : State := warmResetTo 4 (some reason) (strapLevel s) s

/-- The application core stands between a transfer and its delay slot, where it does not stop (R368). -/
def coreMidTransfer (s : State) : Bool := s.on dAPP && s.core.running && !s.core.halted && s.core.slot.isSome

/-- HANDOVER, in four steps (R462): at a gap choice is frozen and the record begun; the record is complete, and unless a brown-out
warning ends the handover the cores park, the application core no later than its next instruction boundary that splits no transfer
from its delay slot (R368), and the bank is switched; the cores leave the stub; adoption ends, and one that failed rolls
back at once (R463). -/
def handover (adopted : Bool) (s : State) : State :=
  match s.upd.act with
  | none => s
  | some a =>
    if !s.inRun then s
    else match s.upd.hand with
      | none => if s.upd.staged.isSome && gapNow s then { s with upd.hand := some { phase := .record, t0 := s.elapsed.now } } else s
      | some h =>
        match h.phase, s.upd.staged with
        | .record, some img =>
          if s.power.bodWarn then handoverEnds a .brownoutHold s
          else if coreMidTransfer s then s
          else flip img a h s
        | .record, none => s
        | .parked, _ => unpark h s
        | .adopting, _ => if adopted then adopt a h s else rollBack 1 s

def execHandover (adopted : Bool) (s : State) : Out := .next (handover adopted s)

/-- HANDOVER_WAIT_EXPIRY (R461). -/
def handoverWaitExpiry (s : State) : State :=
  match s.upd.act with
  | some a =>
    if s.inRun && s.upd.hand.isNone && elapsedBy a.since s.elapsed.now (msU a.waitMax) then handoverEnds a .expired s else s
  | none => s

def execHandoverWaitExpiry (s : State) : Out := .next (handoverWaitExpiry s)

/-! ### Trial and rollback (R465-R468) -/

/-- TRIAL_EXPIRY: TRIAL_S has elapsed without UPD_COMMIT. -/
def trialExpiry (s : State) : State :=
  match s.upd.trial with
  | some t => if s.inRun && s.upd.hand.isNone && elapsedBy t.since s.elapsed.now (secU t.trialS) then rollBack 4 s else s
  | none => s

def execTrialExpiry (s : State) : Out := .next (trialExpiry s)

/-- The number of a reason (R465). -/
def reasonCode : RollbackReason → Nat
  | .adoption => 1 | .selfTest => 2 | .faultRestart => 3 | .trialElapsed => 4 | .abort => 5

/-- ROLLBACK: a trial whose reason has arisen; a self-test fails within 2 s of HANDOVER_DONE (R465). -/
def rollback (reason : RollbackReason) (s : State) : State :=
  match s.upd.trial with
  | none => s
  | some t =>
    let arisen : Bool := match reason with
      | .selfTest => decide (s.elapsed.now.toNat ≤ t.since.toNat + secU 2)
      | .trialElapsed => elapsedBy t.since s.elapsed.now (secU t.trialS)
      | r => t.due = some (reasonCode r)
    if s.inRun && arisen then rollBack (reasonCode reason) s else s

def execRollback (reason : RollbackReason) (s : State) : Out := .next (rollback reason s)

/-- A thermometer raised to a value: its lowest bits (R407, R467). -/
def raiseThermo (first value : Nat) (s : State) : State :=
  (List.range 32).foldl (fun (s : State) i =>
    let bits := min 32 (value - 32 * i)
    { s with flash.otp := otpSet (first + i) (otpWord s (first + i) ||| W (2 ^ bits - 1)) s.flash.otp }) s

def updCommitRun (c : Cmd) (s : State) : State :=
  match firstFail [(s.upd.trial.isNone, .badState), (s.power.bodWarn, .brownoutHold)] with
  | some st => finish c st [] s
  | none =>
    let arb := match activeImage s with | some i => (i.linkArb, i.appArb) | none => (0, 0)
    let s1 := raiseThermo 96 arb.2 (raiseThermo 64 arb.1 s)
    finish c .ok [] (setBank (!s.upd.activeB) none { s1 with upd.trial := none, upd.preSettings := none })

def execUpdCommit (p : Packet) (s : State) : Out := .next (plazaRun 0x905 (lenIs 0) updCommitRun p s)

/-- A session or a staged package is given up; an erase or a verification in progress ends with it, its command answered
BAD_STATE (R468; log 60). -/
def closeSession (s : State) : State :=
  let s1 := match s.upd.session with
    | some u => (match u.erasing with | some t => finish ⟨u.port, t, 0x901, []⟩ .badState [] (abandonOp (bankErase s) s) | none => s)
    | none => s
  let s2 := match s.upd.verifying with | some (p, t) => finish ⟨p, t, 0x903, []⟩ .badState [] s1 | none => s1
  { s2 with upd.session := none, upd.staged := none, upd.verifying := none }

def updAbortRun (c : Cmd) (s : State) : State :=
  if s.upd.act.isSome then finish c .busy [] s
  else if s.upd.session.isSome || s.upd.staged.isSome then finish c .ok [] (closeSession s)
  else match s.upd.trial with
    | some t => finish c .ok [] { s with upd.trial := some { t with due := some (t.due.getD 5) } }
    | none => finish c .badState [] s

def execUpdAbort (p : Packet) (s : State) : Out := .next (plazaRun 0x906 (lenIs 0) updAbortRun p s)

/-! ### Settings (R469, R473, R474) -/

/-- REGION_LOAD's parameter words for the region table in force (R120). -/
def regionWords (r : Region) : List Word :=
  W (r.bands.length + r.notches.length * 2 ^ 8 + r.id.toNat * 2 ^ 16)
    :: (r.bands.flatMap fun b => [W b.lowHz, W b.highHz, W ((BitVec.ofInt 8 b.maxPwr).toNat + b.waveforms.toNat * 2 ^ 8 + b.guardKhz * 2 ^ 16)])
    ++ (r.notches.flatMap fun n => [W n.1, W n.2])

/-- KERB_LOAD's parameter words for the program in force (R452). -/
def kerbWords (k : KerbState) : List Word :=
  let modes := ((List.finRange 8).map fun i => (k.mode[i]).toNat * 2 ^ (4 * i.val)).sum
  let edges := ((List.finRange 8).map fun i => (k.edge[i]).toNat * 2 ^ (2 * i.val)).sum
  [W (k.prog.length + b2n k.autostart * 2 ^ 7), k.period.setWidth 32, W modes, W edges] ++ k.prog

/-- The live values of the named items written as records (R473 OP 1). -/
def keepLive (items : BitVec 8) (s : State) : State :=
  let old := s.upd.settings
  let pick {α : Type} (n : Nat) (live was : Option α) : Option α := if items.getLsbD n then live else was
  let lib : LibraryItem := { maps := s.phy.maps, id := s.phy.libraryId, words := none }
  let gate := match s.traffic.admin with
    | some a => if a.clear then none else some a.list
    | none => s.traffic.oper.map Prod.fst
  let new : Settings :=
    { region := pick 0 (s.radio.region.map regionWords) old.region,
      library := pick 1 (some lib) old.library,
      gate := pick 2 gate old.gate,
      budget := pick 3 (some (budgetInForce none s)) old.budget,
      dir := pick 4 s.dir.cfg old.dir,
      attest := pick 5 (some (s.sec.remoteQueue, s.sec.remoteProfile, s.sec.remoteRate)) old.attest,
      kerb := pick 6 (if s.kerb.prog.isEmpty then none else some (kerbWords s.kerb)) old.kerb,
      bg := pick 7 (some (s.bg.scrubS, s.bg.refreshH, s.bg.telemS)) old.bg,
      customer := old.customer }
  { s with upd.settings := new, upd.provisioning := none }

/-- Bytes that the customer records of other keys hold. -/
def otherBytes (key : BitVec 16) (s : State) : Nat :=
  ((s.upd.settings.customer.filter fun r => r.1 ≠ key).map fun r => r.2.2.length).sum

/-- A customer record written, kept by rising key. -/
def putRecord (key version : BitVec 16) (bs : List Byte) :
    List (BitVec 16 × BitVec 16 × List Byte) → List (BitVec 16 × BitVec 16 × List Byte)
  | [] => [(key, version, bs)]
  | r :: rest =>
    if r.1.toNat < key.toNat then r :: putRecord key version bs rest
    else if r.1 = key then (key, version, bs) :: rest
    else (key, version, bs) :: r :: rest

def settingsWriteRun (c : Cmd) (s : State) : Except Status (List Word × State) :=
  let w1 := param c.ps 1
  let w2 := param c.ps 2
  let op := fld w1 1 0
  let key : BitVec 16 := BitVec.ofNat 16 (fld w1 31 16)
  let version : BitVec 16 := BitVec.ofNat 16 (fld w2 15 0)
  let len := fld w2 26 16
  let bad := !onlyBits w1 0xFFFF0003#32 || !onlyBits w2 0x07FFFFFF#32 || op = 3
    || (if op = 1 then key ≠ 0#16 else decide (key.toNat < 0x100))
    || (if op = 0 then decide (1024 < len) else len ≠ 0) || (op = 1 && decide (255 < version.toNat))
  let found := s.upd.settings.customer.any fun r => r.1 = key
  match firstFail [
      (bad, .badParam), (op = 1 && s.upd.provisioning.isNone, .badState), (op = 2 && !found, .noEntry), (s.power.bodWarn, .brownoutHold),
      (op = 0 && decide (Config.settingsRoom < otherBytes key s + len), .tableFull)] with
  | some st => .error st
  | none =>
    if op = 1 then .ok ([], keepLive (version.setWidth 8) s)
    else if op = 2 then .ok ([], { s with upd.settings.customer := s.upd.settings.customer.filter fun r => r.1 ≠ key })
    else .ok ([], { s with upd.settings.customer := putRecord key version ((unpackLE (c.ps.drop 2)).take len) s.upd.settings.customer })

def execSettingsWrite (p : Packet) (s : State) : Out :=
  .next (plazaRun 0x907 (fun ps => decide (2 ≤ ps.length) && ps.length = 2 + ceilDiv (fld (param ps 2) 26 16) 4)
    (immediate settingsWriteRun) p s)

def settingsReadRun (c : Cmd) (s : State) : Except Status (List Word × State) :=
  let w := param c.ps 1
  let key := fld w 15 0
  if !onlyBits w 0xFFFF#32 then .error .badParam
  else if key < 8 then
    if (itemBits s.upd.settings).testBit key then .ok ([(Config.itemFormat key).setWidth 32], s) else .error .noEntry
  else match s.upd.settings.customer.find? fun r => r.1.toNat = key with
    | some (_, v, bs) => .ok (W (v.toNat + bs.length * 2 ^ 16) :: packLE bs, s)
    | none => .error .noEntry

def execSettingsRead (p : Packet) (s : State) : Out := .next (plazaRun 0x908 (lenIs 1) (immediate settingsReadRun) p s)

end Sys2Proof.Machine
end

