-- ==== Sys2Proof/Machine/Background.lean ====
section
/-! DEFINITION. Background activities and tests in service (R475-R487). -/

namespace Sys2Proof.Machine
open Sys2Proof

/-! ### Telemetry (R483) -/

def telemetryReadRun (_c : Cmd) (s : State) : Except Status (List Word × State) :=
  let b := s.bg
  .ok ([b.scrubPasses, b.scrubCorrected, b.refreshMargin, b.urgentCount, b.drains, b.drainMs, b.pauseMs,
        W (b.temp.toNat + b.vbat.toNat * 2 ^ 16)], s)

def execTelemetryRead (p : Packet) (s : State) : Out := .next (plazaRun 0x007 (lenIs 0) (immediate telemetryReadRun) p s)

/-! ### Quanta (R475-R480) -/

/-- An activity's bit in the set of urgent ones. -/
def activityBit : Activity → Nat
  | .scrub => 0 | .refresh => 1 | .compaction => 2 | .calibration => 3 | .telemetry => 4

def isUrgent (a : Activity) (s : State) : Bool := s.bg.urgent.getLsbD (activityBit a)

def clearUrgent (a : Activity) (s : State) : State := { s with bg.urgent := s.bg.urgent &&& ~~~(1#5 <<< activityBit a) }

/-- An armed radio event lies within the next 2 ms (R476). -/
def armedEventSoon (s : State) : Bool := radioEventSoon s || ackPendingNow s || anyCommitted s

/-- An activity's place in the set of urgent ones and in the due times. -/
def activityIdx (a : Activity) : Fin 5 := Fin.ofNat 5 (activityBit a)

/-- A quantum of an activity is due and may start (R475-R477, R480, R481). -/
def quantumMay (a : Activity) (s : State) : Bool :=
  s.inRun && s.bg.pause.isNone && (isUrgent a s || !armedEventSoon s)
    && !(s.power.bodWarn && (a = .refresh || a = .compaction)) && elapsedBy s.bg.dueAt[activityIdx a] s.elapsed.now 0

/-- Words of a full scrub pass: application SRAM, link-core SRAM, link table and Frame Store (R475, R480). -/
def scrubWords (s : State) : Nat := (s.banks * 65536 + 262144 + s.linkCapacity * 48 + s.storeSize) / 4

/-- The time between the quanta of an activity, which share its pass evenly (R475; DESIGN CHOICE, log 75). Compaction has none: how
full a journal is depends on a layout that the manual does not give. -/
def quantumPeriod (a : Activity) (s : State) : Nat :=
  match a with
  | .scrub => secU s.bg.scrubNow.toNat / ceilDiv (scrubWords s) 64
  | .refresh => secU (3600 * s.bg.refreshNow.toNat) / s.sectors
  | .telemetry => secU s.bg.telemS.toNat
  | _ => 0

/-- The deferral bound of an activity (R475). -/
def deferralBound (a : Activity) : Nat :=
  match a with
  | .scrub | .telemetry => secU 1
  | .refresh | .compaction => secU 10
  | .calibration => secU 30

/-- A quantum of an activity is done: the next is due a period later (R475). -/
def quantumDone (a : Activity) (s : State) : State :=
  let t := if a = .compaction then s.elapsed.now else s.bg.dueAt[activityIdx a] + BitVec.ofNat 64 (quantumPeriod a s)
  { clearUrgent a s with bg.dueAt := s.bg.dueAt.set (activityIdx a) t }

/-- MEMORY of SCRUB_UNCORRECTABLE (R479). -/
def memoryCode : MemKind → Nat
  | .appSram => 0 | .linkSram => 1 | .linkTable => 2 | .frameStore => 3 | .flash => 4

/-- SCRUB_UNCORRECTABLE (R479). -/
def uncorrectable (m : MemKind) (addr : Nat) (short : BitVec 24) (s : State) : State :=
  let s1 : State := { s with bg.uncorrectable := satInc s.bg.uncorrectable }
  raise 0x0A0 [W (memoryCode m), W addr, short.setWidth 32, s1.bg.uncorrectable] s1

/-- A link-table entry with an uncorrectable error: fetched again from the directory where that holds it, a dirty one with OUT_CTR
advanced; otherwise removed as by LINK_DEL with FLUSH (R265, R479). -/
def entryLost (e : LinkEntry) (s : State) : State :=
  let gone (s : State) : State := dropLink e (flushLink e.id s)
  match dirCfg s with
  | none => gone s
  | some c =>
    if e.short = groupShort || e.short = noShort || e.short = 0#24 || decide (2 ^ c.log2cap < e.short.toNat) then gone s
    else
      let x := xspiFails s
      match dirRead c e.short.toNat x.1 x.2 with
      | .entry d => updateLink e.id (fun _ => if e.dirty then { advanceCtr true d with dirty := true } else d) x.2
      | .free => gone x.2
      | .fault r => gone (dirFault e.short.toNat r x.2)

/-- What an uncorrectable error found by the scrub does (R479). -/
def scrubHit (m : MemKind) (a : Nat) (s : State) : State :=
  match m with
  | .linkTable =>
    let e := s.link.links[a]?
    let s1 := uncorrectable m a ((e.map LinkEntry.short).getD 0) s
    (match e with | some e => entryLost e s1 | none => s1)
  | .appSram =>
    if inSram s a then
      let r := drawWord s
      let hit := inSaveArea s a
      uncorrectable m a 0 { sramWrite (a / 4 * 4) 4 r.1 r.2 with link.sealBroken := s.link.sealBroken || hit }
    else uncorrectable m a 0 s
  | _ => uncorrectable m a 0 s

/-- SCRUB_QUANTUM: 64 words read (R475, R479, R480). -/
def scrubQuantum (m : MemKind) (e : EccFound) (s : State) : State :=
  if !quantumMay .scrub s || m = .flash then s
  else
    let s1 := quantumDone .scrub s
    let next := s.bg.scrubPos + 64
    let s2 : State := if next < scrubWords s then { s1 with bg.scrubPos := next }
      else { s1 with bg.scrubPos := 0, bg.scrubPasses := satInc s1.bg.scrubPasses, bg.scrubNow := s1.bg.scrubS }
    match e with
    | .none => s2
    | .corrected _ => { s2 with bg.scrubCorrected := satInc s2.bg.scrubCorrected }
    | .uncorrectable a => scrubHit m a s2

def execScrubQuantum (m : MemKind) (e : EccFound) (s : State) : Out := .next (scrubQuantum m e s)

/-- A journal record lost to an uncorrectable error, which one is open (R479): a device item or customer record; the budget
journal, restored with no credit; a persistent key record. -/
def recordLost (a : Nat) (s : State) : State :=
  let o := a - 2 * s.bankSectors * 8192
  let r := drawWord s
  let s1 := r.2
  if o < 0x10000 then
    let i := s1.upd.settings
    let k := r.1.toNat % (8 + max 1 i.customer.length)
    { s1 with upd.settings :=
        { region := if k = 0 then none else i.region, library := if k = 1 then none else i.library,
          gate := if k = 2 then none else i.gate, budget := if k = 3 then none else i.budget, dir := if k = 4 then none else i.dir,
          attest := if k = 5 then none else i.attest, kerb := if k = 6 then none else i.kerb, bg := if k = 7 then none else i.bg,
          customer := if k < 8 then i.customer else i.customer.eraseIdx (k - 8) } }
  else if o < 0x18000 then
    let full (x : Nat × List Nat) : Nat × List Nat := (x.1, [max x.1 x.2.sum])
    { s1 with traffic.journal := s1.traffic.journal.map fun j => { j with accounts := j.accounts.map full } }
  else { s1 with sec.records := Vector.ofFn fun k => if k.val = r.1.toNat % 32 then none else s1.sec.records[k] }

/-- FLASH_REFRESH_QUANTUM: one sector margin-read (R403, R475, R478, R479). -/
def flashRefreshQuantum (e : EccFound) (marginFails : Bool) (s : State) : State :=
  if !quantumMay .refresh s then s
  else
    let x := s.bg.refreshPos
    let s0 := quantumDone .refresh s
    let s1 : State := if x + 1 < s.sectors then { s0 with bg.refreshPos := x + 1 }
      else { s0 with bg.refreshPos := 0, bg.refreshNow := s0.bg.refreshH }
    let busyArray : Bool := (bankErasing s && arrayOf s x = 1 - activeArray s) || match s.flash.op with
      | some o => decide (arrayOf s x = arrayOf s (if o.erase then o.sector else (o.units.headD (0, [])).1 / 8192))
      | none => false
    if busyArray then s1
    else
      match e with
      | .uncorrectable a =>
        let s2 := uncorrectable .flash a 0 { s1 with flash.uncorrectable := satInc s1.flash.uncorrectable }
        if arrayOf s (a / 8192) = 2 then recordLost a s2 else s2
      | .corrected _ =>
        let s2 : State := { s1 with flash.corrected := satInc s1.flash.corrected }
        if marginFails then { s2 with bg.refreshMargin := satInc s2.bg.refreshMargin } else s2
      | .none => if marginFails then { s1 with bg.refreshMargin := satInc s1.bg.refreshMargin } else s1

def execFlashRefreshQuantum (e : EccFound) (marginFails : Bool) (s : State) : Out := .next (flashRefreshQuantum e marginFails s)

/-- JOURNAL_COMPACTION_QUANTUM: units copied within a journal, which keeps what it holds, or one sector of the common region
erased, which holds no newest record (R394, R401, R475). -/
def journalCompactionQuantum (sector : Option Nat) (s : State) : State :=
  if !quantumMay .compaction s then s
  else
    let s1 := quantumDone .compaction s
    match sector with
    | some x => if x < s.sectors && arrayOf s x = 2 then eraseSector x s1 else s
    | none => s1

def execJournalCompactionQuantum (eraseSector : Option Nat) (s : State) : Out := .next (journalCompactionQuantum eraseSector s)

/-- TELEMETRY_QUANTUM: a die temperature sample (R42) and a VBAT sample (R475, R483). -/
def telemetryQuantum (tempTenths : Int) (sensors : Sensors) (mv : Nat) (s : State) : State :=
  if !quantumMay .telemetry s then s
  else
    let s1 := sampleTemp tempTenths sensors (quantumDone .telemetry s)
    { s1 with bg.temp := BitVec.ofInt 16 tempTenths, bg.vbat := BitVec.ofNat 16 mv }

def execTelemetryQuantum (tempTenths : Int) (sensors : Sensors) (mv : Nat) (s : State) : Out :=
  .next (telemetryQuantum tempTenths sensors mv s)

/-- URGENT: a quantum has been due for its deferral bound; for a calibration step a drain begins unless R112 already holds
(R475, R477, R480, R481). -/
def urgent (a : Activity) (s : State) : State :=
  let due := if a = .calibration then s.radio.cal.periodic ≠ 0#4 && elapsedBy s.radio.cal.dueSince s.elapsed.now (deferralBound a)
    else elapsedBy s.bg.dueAt[activityIdx a] s.elapsed.now (deferralBound a)
  if !s.inRun || s.bg.pause.isSome || isUrgent a s || !due || (s.power.bodWarn && (a = .refresh || a = .compaction)) then s
  else
    let s1 : State := { s with bg.urgent := s.bg.urgent ||| (1#5 <<< activityBit a), bg.urgentCount := satInc s.bg.urgentCount }
    if a = .calibration && !calAdmitted s && s.bg.drain.isNone then
      { s1 with bg.drain := some s.elapsed.now, bg.drains := satInc s1.bg.drains }
    else s1

def execUrgent (a : Activity) (s : State) : Out := .next (urgent a s)

/-! ### BG_PAUSE and BG_CONFIG (R481, R482) -/

/-- A pause ends after so many ms (R481, R483). -/
def pauseEnds (ms : Nat) (s : State) : State :=
  { s with bg.pause := none, bg.lastPause := some (s.elapsed.now, ms), bg.pauseMs := satAdd s.bg.pauseMs ms }

def bgPauseRun (c : Cmd) (s : State) : Except Status (List Word × State) :=
  let w := param c.ps 1
  let ms := fld w 13 0
  let soon := match s.bg.lastPause with | some (t, n) => !elapsedBy t s.elapsed.now (msU n) | none => false
  if !onlyBits w 0x3FFF#32 || decide (10000 < ms) then .error .badParam
  else if ms = 0 then
    match s.bg.pause with
    | some (t, n) => .ok ([], pauseEnds (min n (msBetween t s.elapsed.now)) s)
    | none => .ok ([], s)
  else if s.bg.pause.isSome || soon then .error .busy
  else .ok ([], { endDrain s with bg.pause := some (s.elapsed.now, ms) })

def execBgPause (p : Packet) (s : State) : Out := .next (plazaRun 0xB04 (lenIs 1) (immediate bgPauseRun) p s)

/-- BG_PAUSE_END: MS ms have passed. -/
def bgPauseEnd (s : State) : State :=
  match s.bg.pause with
  | some (t, ms) => if elapsedBy t s.elapsed.now (msU ms) then pauseEnds ms s else s
  | none => s

def execBgPauseEnd (s : State) : Out := .next (bgPauseEnd s)

def bgConfigRun (c : Cmd) (s : State) : Except Status (List Word × State) :=
  let w := param c.ps 1
  let a : BitVec 8 := w.extractLsb' 0 8
  let b : BitVec 8 := w.extractLsb' 8 8
  let d : BitVec 8 := w.extractLsb' 16 8
  if !onlyBits w 0xFFFFFF#32 || a = 0#8 || b = 0#8 || d = 0#8 then .error .badParam
  else .ok ([], { s with bg.scrubS := a, bg.refreshH := b, bg.telemS := d, upd.settings.bg := some (a, b, d) })

def execBgConfig (p : Packet) (s : State) : Out := .next (plazaRun 0xB05 (lenIs 1) (immediate bgConfigRun) p s)

/-! ### CTX_TEST (R485) -/

def ctxTestDo (c : Cmd) (s : State) : State :=
  let w1 := param c.ps 1
  let w2 := param c.ps 2
  let n : Fin 64 := Fin.ofNat 64 (fld w1 5 0)
  match firstFail [
      (!s.isUsable dBLVD, .domainOff),
      (!onlyBits w1 0x3F#32 || !onlyBits w2 0xFFFF#32 || w2 = 0#32 || decide (s.ctxCount ≤ n.val), .badParam),
      (s.bg.ctxTest.isSome || !canAccept c.port s, .busy)] with
  | some st => finish c st [] s
  | none =>
    let r := takeHandle c.port s
    let t : CtxTestOp := { port := c.port, handle := r.1, ctx := n, waitMax := w2.toNat, since := s.elapsed.now,
                            offAt := s.elapsed.now }
    let s1 : State := { r.2 with bg.ctxTest := some t }
    let s2 := if (s1.rx.ctxs[n]).st = .free then setCtx (.blvd n) { st := .offline } s1 else s1
    respondAccepted c r.1 s2

def execCtxTest (p : Packet) (s : State) : Out := .next (plazaRun 0xB01 (lenIs 2) ctxTestDo p s)

/-- CTX_TEST_DONE: the OFFLINE context has decoded its frame, in 1.5 ms, and is FREE again; or it did not become FREE within WAIT_MAX. -/
def ctxTestDone (pass : Bool) (corrected : Nat) (s : State) : State :=
  match s.bg.ctxTest with
  | none => s
  | some t =>
    let body (st : Status) (pass : Bool) (n : Nat) : List Word :=
      [t.handle.setWidth 32, W (statusCode st + b2n pass * 2 ^ 16 + t.ctx.val * 2 ^ 17), W n]
    if (s.rx.ctxs[t.ctx]).st = .offline && s.isUsable dBLVD then
      if !elapsedBy t.offAt s.elapsed.now (usU 1500) then s
      else completeEvent t.port 0x0CB t.handle (body .ok pass corrected) (setCtx (.blvd t.ctx) {} { s with bg.ctxTest := none })
    else if elapsedBy t.since s.elapsed.now (msU t.waitMax) then
      completeEvent t.port 0x0CB t.handle (body .expired false 0) { s with bg.ctxTest := none }
    else s

def execCtxTestDone (pass : Bool) (corrected : Nat) (s : State) : Out := .next (ctxTestDone pass corrected s)

/-! ### BIST_RUN (R486) -/

/-- A stretch of addresses meets a bank. -/
def meetsBank (bank : Nat) (a n : Nat) : Bool :=
  let lo := 0x20000000 + bank * 65536
  decide (a < lo + 65536) && decide (lo < a + n)

/-- The descriptor in progress on a channel addresses a bank (R486). -/
def dmaInBank (bank : Nat) (c : DmaCh) : Bool :=
  let run (inc : Bool) : Nat := if inc then c.size * c.left.toNat else c.size
  bitAt c.ctrl 0 && (meetsBank bank c.src.toNat (run (bitAt c.word2 18)) || meetsBank bank c.dst.toNat (run (bitAt c.word2 19))
    || meetsBank bank c.cur.toNat 20)

def bistRunDo (c : Cmd) (s : State) : State :=
  let w := param c.ps 1
  let bank := fld w 3 0
  match firstFail [
      (!onlyBits w 0xF#32 || decide (s.banks ≤ bank) || s.saveBanks.getLsbD bank, .badParam),
      (s.peri.dma.toList.any (dmaInBank bank), .domainBusy), (s.bg.bist.isSome || !canAccept c.port s, .busy)] with
  | some st => finish c st [] s
  | none =>
    let r := takeHandle c.port s
    respondAccepted c r.1 (clearBanks (1#16 <<< bank) { r.2 with bg.bist := some { port := c.port, handle := r.1, bank := Fin.ofNat 16 bank, since := s.elapsed.now } })

def execBistRun (p : Packet) (s : State) : Out := .next (plazaRun 0xB02 (lenIs 1) bistRunDo p s)

/-- BIST_DONE, 1.28 ms after the start at RUN-HP and 3.41 ms at RUN-LP: the bank is zero with valid SECDED (R486). -/
def bistDone (fails : Nat) (first : Word) (s : State) : State :=
  match s.bg.bist with
  | none => s
  | some t =>
    if !elapsedBy t.since s.elapsed.now (usU (if s.power.lp then 3410 else 1280)) then s
    else
    let s1 := clearBanks (1#16 <<< t.bank.val) { s with bg.bist := none }
    completeEvent t.port 0x0CC t.handle
      [t.handle.setWidth 32, W (b2n (fails = 0) * 2 ^ 16), W (min fails 0xFFFFFFFF), if fails = 0 then 0#32 else first] s1

def execBistDone (fails : Nat) (first : Word) (s : State) : Out := .next (bistDone fails first s)

/-! ### LOOPBACK (R487) -/

/-- The map that the looped frame uses: the profile's default map (R176). -/
def loopAirtime (n : Fin 16) (len : Nat) (s : State) : Nat :=
  let p := s.phy.profiles[n]
  airtimeOf s p ((mapContent s (b2n p.defaultMap)).getD 0) len

/-- Decisions since KERB_START (R449). -/
def decisionCount (s : State) : Nat := (s.kerb.counts.toList.map BitVec.toNat).sum

def loopRfDo (c : Cmd) (s : State) : State :=
  let w1 := param c.ps 1
  let w2 := param c.ps 2
  let n : Fin 16 := Fin.ofNat 16 (fld w1 4 1)
  let len := fld w2 10 0
  let us := loopAirtime n len s
  match firstFail [
      (!s.isUsable dRFFE || !s.isUsable dALLEY || (s.phy.profiles[n].ofdm && !s.isUsable dOFDM), .domainOff),
      (len = 0 || decide (sfld w1 13 6 < -20) || decide (30 < sfld w1 13 6) || param c.ps 3 ≠ 0#32 || decide (30000000 < us), .badParam),
      (!(s.radio.mode = .idle || (s.radio.mode = .rx && !anyCommitted s)), .badState),
      (s.bg.loop.isSome || ackPendingNow s || (awaiting s).isSome
        || fixedStartBefore (s.time.nt.toNat + usUp us + msU 2) s, .busy)] with
  | some st => finish c st [] s
  | none =>
    let o : LoopOp := { port := c.port, tag := c.tag, kerb := false, since := s.elapsed.now, durationUs := us }
    let s1 : State := { s with bg.loop := some o }
    if s.radio.mode = .rx then startBlank s1 else s1

def loopKerbDo (c : Cmd) (s : State) : State :=
  let w1 := param c.ps 1
  let w2 := param c.ps 2
  let ms := (param c.ps 3).toNat
  match firstFail [(!s.isUsable dKERB, .domainOff), (ms = 0 || decide (65535 < ms), .badParam), (s.bg.loop.isSome, .busy)] with
  | some st => finish c st [] s
  | none =>
    let o : LoopOp := { port := c.port, tag := c.tag, kerb := true, passes := s.kerb.passes, decisions := decisionCount s,
                        since := s.elapsed.now, durationUs := 1000 * ms }
    { s with bg.loop := some o, kerb.bypass := some (Fin.ofNat 8 (fld w1 16 14), BitVec.ofNat 12 (fld w2 27 16)) }

def loopbackDo (c : Cmd) (s : State) : State :=
  let w1 := param c.ps 1
  if !onlyBits w1 0x1FFFF#32 || !onlyBits (param c.ps 2) 0x0FFF07FF#32 || !onlyBits (param c.ps 3) 0xFFFF#32 then finish c .badParam [] s
  else if bitAt w1 0 then kerbLevelEdge s (loopKerbDo c s)
  else loopRfDo c s

def execLoopback (p : Packet) (s : State) : Out := .next (plazaRun 0xB03 (lenIs 3) loopbackDo p s)

/-- LOOPBACK_END: the looped frame has been decoded, or DURATION has passed; the response is placed. -/
def loopbackEnd (pass : Bool) (snr cfo drift corrected : Word) (s : State) : State :=
  match s.bg.loop with
  | none => s
  | some o =>
    let c : Cmd := ⟨o.port, o.tag, 0xB03, []⟩
    let s1 : State := { s with bg.loop := none }
    if !elapsedBy o.since s.elapsed.now (usU o.durationUs) then s
    else if o.kerb then
      let s2 := kerbLevelEdge s { s1 with kerb.bypass := none }
      finish c .ok [1, W (s.kerb.passes - o.passes).toNat, W (decisionCount s - o.decisions), 0, 0] s2
    else finish c .ok [W (b2n pass), snr, cfo, drift, corrected] (if s.radio.blanked && s.radio.mode = .rx then endBlank s1 else s1)

def execLoopbackEnd (pass : Bool) (snr cfo drift corrected : Word) (s : State) : Out :=
  .next (loopbackEnd pass snr cfo drift corrected s)

end Sys2Proof.Machine
end

