-- ==== Sys2Proof/Machine/Decide.lean ====
section
/-! DEFINITION. The receive decision pipeline (R234-R240), the ack that it decides (R105, R228-R230, R233), and what link firmware
does with a delivered frame (R177-R179, R255-R259, R327). -/

namespace Sys2Proof.Machine
open Sys2Proof

/-! ### The frame that is decided next (R236) -/

/-- Order of deadlines, then of last decisions. -/
def decidesFirst (a b : PipeFrame) : Bool :=
  decide (a.ackAt.toNat < b.ackAt.toNat) || (a.ackAt = b.ackAt && decide (a.decidedAt.toNat ≤ b.decidedAt.toNat))

/-- The frame that the pipeline takes. -/
def nextPipe : List PipeFrame → Option PipeFrame
  | [] => none
  | f :: rest => match nextPipe rest with
    | some g => some (if decidesFirst f g then f else g)
    | none => some f

/-! ### The packet of a received frame (R213, R214, R239) -/

/-- A count that saturates at n bits. -/
def satBits (n v : Nat) : Nat := min v (2 ^ n - 1)

/-- Words 6, 8 and 9 of the descriptor. -/
def modeWords (f : PipeFrame) : Word × Word × Word :=
  let m := f.meas
  if f.ofdm then
    (W (m.worstSnr.toNat + m.worstK.toNat * 2 ^ 16),
     W (f.hdr.width.toNat + b2n f.hdr.cp * 4 + f.hdr.code.toNat * 8 + f.hdr.map.toNat * 2 ^ 5 + f.hdr.seed.toNat * 2 ^ 15),
     W (satBits 16 m.corrected + satBits 8 m.uncorrectable * 2 ^ 16))
  else
    (m.drift, W (f.k + f.bw.toNat * 2 ^ 4 + f.hdr.code.toNat * 2 ^ 6 + b2n f.hdr.ackFlag * 2 ^ 8 + f.netid.toNat * 2 ^ 9),
     W (satBits 16 m.corrected + satBits 8 f.erased * 2 ^ 16 + satBits 8 f.pilotsLost * 2 ^ 24))

/-- The class 3 packet of a frame (R213). -/
def rxPacket (f : PipeFrame) (yellow crcBad : Bool) (link : Word × Word) (psdu : List Byte) : List Word :=
  let mw := modeWords f
  let data := packLE psdu
  [header 3 0 0 (11 + data.length),
   W (f.hdr.length + b2n f.ofdm * 2 ^ 11 + b2n f.boulevard * 2 ^ 12 + f.entry.val * 2 ^ 13 + f.context * 2 ^ 17 + b2n yellow * 2 ^ 23
      + b2n f.pairWeak * 2 ^ 24 + b2n f.pairStrong * 2 ^ 25 + b2n crcBad * 2 ^ 26)]
    ++ words64 f.stamp ++ [W (f.rssi.toNat + f.meas.snr.toNat * 2 ^ 16), f.meas.cfo, mw.1, f.meas.sfo, mw.2.1, mw.2.2, link.1, link.2]
    ++ data

/-- A frame enters the Frame Store's queue for its port, keeping its reservation (R79, R213). -/
def storeFrame (f : PipeFrame) (high delivered : Bool) (words : List Word) (s : State) : State :=
  { s with rx.store := s.rx.store ++ [{ port := f.port, high, words, delivered, bytes := f.reserved }] }

/-- The link result words 10 and 11 (R239). -/
def linkResult (m : MacFrame) (src : BitVec 24) : Word × Word :=
  (W (src.toNat + m.type * 2 ^ 24 + b2n (m.miclen ≠ 0) * 2 ^ 28 + b2n (m.miclen ≠ 0 && m.wantsAck) * 2 ^ 29 + b2n m.bcast * 2 ^ 30
      + b2n m.srcLong * 2 ^ 31), m.counter)

/-! ### The ack (R228-R230, R233) -/

/-- MARGIN in quarter decibels (R230). -/
def marginQ (f : PipeFrame) (s : State) : Int :=
  if f.ofdm then
    (worstMargin (effCodes s.radio.region f.carrier f.hdr.width f.hdr.mapBits) f.meas.snrs).getD 0
  else
    let c : Int := match f.hdr.code.toNat with | 0 => 8 | 1 => 0 | 2 => -6 | _ => -12
    f.meas.snr.toInt - (30 - 10 * f.k + c)

/-- MARGIN as the ack carries it: 0.5 dB units, saturating (R230); an odd quarter goes to either side (log 50). -/
def ackMarginOf (f : PipeFrame) (s : State) : BitVec 8 × State :=
  let q := marginQ f s
  let r := drawBool s
  let up : Int := if q % 2 ≠ 0 && r.1 then 1 else 0
  (BitVec.ofInt 8 (clampI (-128) 127 (q / 2 + up)), if q % 2 ≠ 0 then r.2 else s)

/-- The 10 bytes of an ack (R229). -/
def ackPsdu (e : LinkEntry) (counter : Word) (margin : BitVec 8) (pending : Bool) (s : State) : List Byte :=
  let b := [0x21#8, 0x00#8] ++ (bytesLE counter).take 2 ++ [margin, if pending then 1#8 else 0#8]
  b ++ (ccmEnc e.keyBytes (macNonce s.eui counter 0x81#8) b [] 4).2

/-- The sub-band and airtime of an ack, if it is admitted and its sub-band can carry it (R121, R233, R293, R438). -/
def ackAdmits (p : Profile) (s : State) : Option (Fin 16 × Nat) :=
  match s.radio.region.bind fun r => admitBand r p with
  | none => none
  | some b =>
    let t := airtimeOf s p (uniformMap 1) 10
    if !budgetFits b t true s || s.lifecycle = .retired || (s.power.bodWarn && decide (2000 < t)) then none else some (b, t)

/-- An interval from turnaround start to return end meets a transmission on the air or an ack already decided (R233). -/
def ackCollides (span : Nat × Nat) (s : State) : Bool :=
  (s.link.frames.any fun f => f.stage = .onAir && overlaps span (f.startAt.toNat, f.endAt.toNat)) ||
  (match s.link.ackOnAir with | some a => overlaps span (a.at_.toNat, a.ends.toNat) | none => false) ||
  (s.link.acks.any fun a => a.sends &&
    overlaps span (a.at_.toNat - turnU a.prof.carrier s, a.ends.toNat + backU a.prof.carrier s))

/-- The pipeline misses its deadline, the ack instant less RAMP_US (R233, R235). -/
def lateDecision (f : PipeFrame) (s : State) : Bool := decide (f.ackAt.toNat < s.time.nt.toNat + usU (rampUs s))

/-- A due ack decided (R233, R293): one that is sent is charged now. `none` for the margin: a duplicate without a held ack. -/
def ackDecided (f : PipeFrame) (e : LinkEntry) (counter : Word) (held : Option (BitVec 8 × Bool))
    (child : Option (BitVec 24 × Option DWord)) (s : State) : AckDue :=
  let p := f.ackProf
  let at_ := f.ackAt.toNat
  let ends := at_ + usUp (airtimeOf s p (uniformMap 1) 10)
  let v := if lateDecision f s then AckVerdict.late
    else match held, ackAdmits p s with
      | some _, some (b, t) => if ackCollides (ackSpan at_ p s) s then .collided else .send b t s.traffic.bucketNo
      | _, _ => .suppressed
  let psdu := match held with | some (m, pend) => ackPsdu e counter m pend s | none => []
  { at_ := f.ackAt, ends := BitVec.ofNat 64 ends, prof := p, psdu, power := e.ackPower.toInt, verdict := v,
    child := match v with | .send .. => child | _ => none, link := e.id }

/-- An OFDM ack takes its SEED when it is decided (R169). -/
def seedAck (a : AckDue) (s : State) : AckDue × State :=
  if a.sends && a.prof.ofdm then ({ a with seed := (takeSeed s).1 }, (takeSeed s).2) else (a, s)

/-- An ack that is to be sent is charged at its decision (R293). -/
def chargeAck (v : AckVerdict) (s : State) : State :=
  match v with | .send b t _ => charge b t s | _ => s

/-- The ack of a frame is decided and queued. -/
def decideAck (f : PipeFrame) (e : LinkEntry) (counter : Word) (held : Option (BitVec 8 × Bool))
    (child : Option (BitVec 24 × Option DWord)) (s : State) : State :=
  let a := seedAck (ackDecided f e counter held child s) s
  chargeAck a.1.verdict { a.2 with link.acks := a.2.link.acks ++ [a.1] }

/-- Whether an ack to be sent is decided. -/
def ackReady (s : State) : Bool := s.link.acks.any AckDue.sends

/-- After a decision without an ack to send, a speculative turnaround returns (R105). -/
def endSpeculation (s : State) : State :=
  if s.radio.speculative && (s.radio.mode = .turnTx || s.radio.settleFor = some .ack) && !ackReady s then giveUpTx s else s

/-! ### Map adaptation (R177-R179) -/

/-- The profile under which an OFDM frame is measured (R177): that of the Alley reception that heard it; on the Boulevard, whose
entries name none, the lowest-numbered OFDM profile with its carrier and width (DESIGN CHOICE, log 70). -/
def mapProfile (f : PipeFrame) (s : State) : Option (Fin 16 × Profile) :=
  match f.listened with
  | some l => if l.2.ofdm then some l else none
  | none =>
    ((List.finRange 16).find? fun i =>
      let p := s.phy.profiles[i]
      p.ofdm && p.carrier = f.carrier && p.width = f.hdr.width).map fun i => (i, s.phy.profiles[i])

/-- The profile used on a link (R178): that of the last OFDM frame formed for it, or else the one under which this frame was heard
(DESIGN CHOICE, log 70). -/
def linkProfile (f : PipeFrame) (e : LinkEntry) (s : State) : Option Profile :=
  match e.profile.map fun n => s.phy.profiles[n] with
  | some p => if p.ofdm then some p else (mapProfile f s).map Prod.snd
  | none => (mapProfile f s).map Prod.snd

/-- Proposals due for a frame: what the entry keeps after it, and the map and margin to propose (R177). -/
def proposal (f : PipeFrame) (p : Profile) (e : LinkEntry) (s : State) : LinkEntry × Option (Nat × Int) :=
  let best := bestMap s p f.meas.snrs
  let codes (m : BitVec 288) := effCodes s.radio.region f.carrier f.hdr.width m
  let own := f.hdr.map.toNat
  let i : BitVec 10 := BitVec.ofNat 10 best.1
  let larger := decide (best.1 ≠ own) && decide (bSym (codes f.hdr.mapBits) < bSym (codes (mapBitsOf best.1 s)))
  let count := if larger then (match e.bestMap with | some (m, n) => if m = i then n + 1 else 1 | none => 1) else 0
  let kept := match e.proposed with
    | some (m, n) => if m.toNat = own then none else some (m, n + 1) | none => none
  let again := match kept with | some (_, n) => decide (p.hyst.toNat ≤ n) | none => false
  let fresh := (decide (marginQ f s < 0) || (larger && decide (p.hyst.toNat ≤ count))) &&
    (match kept with | some (m, _) => m ≠ i | none => true)
  let e1 := { e with bestMap := if larger then some (i, count) else none }
  if fresh then ({ e1 with proposed := some (i, 0) }, some best)
  else match again, kept with
    | true, some (m, _) => ({ e1 with proposed := some (m, 0) },
        some (m.toNat, (worstMargin (codes (mapBitsOf m.toNat s)) f.meas.snrs).getD 0))
    | _, _ => ({ e1 with proposed := kept }, none)

/-- The payload of a map-update frame (R177). -/
def mapPayload (lib : BitVec 16) (map : Nat) (width : BitVec 2) (margin : Byte) : List Byte :=
  [0x01#8] ++ bytesOfLE 2 lib.toNat ++ bytesOfLE 2 map ++ [width.setWidth 8, margin, 0#8]

/-- An accepted OFDM frame measured, and the best map proposed where R177 asks for it. -/
def adaptMaps (f : PipeFrame) (id : BitVec 24 × DWord) (s : State) : State :=
  match mapProfile f s, linkById id s with
  | some (n, p), some e =>
    if !f.ofdm || !p.adapt || e.short = noShort || e.short = groupShort then s
    else
      let r := proposal f p e s
      let s1 := updateLink id (fun _ => r.1) s
      match r.2 with
      | none => s1
      | some (map, q) =>
        let margin : Byte := BitVec.ofInt 8 (clampI (-128) 127 q)
        let o := drawFw s1
        let fr := { secureTo e o.1.enc o.1.miclen (fwFrame .mapUpdate o.1 n o.2) with
                    ackReq := o.1.ack, payload := mapPayload s.phy.libraryId map f.hdr.width margin,
                    measured := some f.hdr.map.toNat }
        fwQueue fr o.2
  | _, _ => s

/-- A map-update frame names a map that the link can take on a profile (R173, R177, R178, R188). -/
def mapUpdateOk (b : List Byte) (p : Profile) (s : State) : Bool :=
  p.adapt && b.length = 8 && b.getD 0 0 = 0x01#8 && natLE ((b.drop 1).take 2) = s.phy.libraryId.toNat
    && decide (natLE ((b.drop 3).take 2) < 1024) && (mapContent s (natLE ((b.drop 3).take 2))).isSome
    && b.getD 5 0 = p.width.setWidth 8 && b.getD 7 0 = 0#8

/-- A map-update frame delivered (R178, R179): adopted, or ignored and counted, as under ADAPT = 0 (R188). -/
def mapUpdateHeard (f : PipeFrame) (b : List Byte) (id : BitVec 24 × DWord) (s : State) : State :=
  let ignored := { s with rx.radioCnt := s.rx.radioCnt.set 1 (satInc s.rx.radioCnt[1]) }
  match linkById id s with
  | none => ignored
  | some e =>
    match (linkProfile f e s).filter fun p => mapUpdateOk b p s with
    | none => ignored
    | some p =>
      let map := natLE ((b.drop 3).take 2)
      loadmapEvent e.short 0 (usedMap e.map p s) map (b.getD 6 0)
        (updateLink id (fun e => { e with map := some (BitVec.ofNat 10 map), dirty := true }) s)

/-! ### Link control and rendezvous (R258-R261) -/

/-- A link-control frame delivered (R259): a POLL's BOUND replaces the peer's bound, a PARENT is written to the directory. -/
def linkControlHeard (b : List Byte) (id : BitVec 24 × DWord) (s : State) : State :=
  let kind := b.getD 1 0
  let bound := min 2000 (natLE ((b.drop 2).take 2))
  if b.length ≠ 7 || b.getD 0 0 ≠ 0x01#8 then s
  else if kind = 0x01#8 then updateRdv id.1 (fun r => { r with peerBound := bound }) s
  else if kind = 0x02#8 && s.is80 then
    writeThrough id (updateLink id (fun e => { e with parent := BitVec.ofNat 24 (natLE ((b.drop 4).take 3)), dirty := true }) s)
  else s

/-- A parent has received a frame from its child (R260, R261). -/
def heardChild (f : PipeFrame) (e : LinkEntry) (s : State) : State :=
  match rdvOf e.short s with
  | some r => if r.parent then contact r.short f.stamp 0 s else s
  | none => s

/-- What an ack's end does to a rendezvous (R258): the parent's frames to the child become eligible until the slot's start, the
frame's airtime and LISTEN_MS have passed; a child that acknowledges a frame with MORE = 0 closes its listening. -/
def ackEffect (f : PipeFrame) (m : MacFrame) (e : LinkEntry) (s : State) : Option (BitVec 24 × Option DWord) :=
  match rdvOf e.short s with
  | none => none
  | some r =>
    match r.parent, r.window with
    | true, some (x, _, _) =>
      let p := s.phy.profiles[r.profile]
      let air := f.ackAt.toNat - usUp (ackGap f.ackProf) - f.stamp.toNat + usU (stampOffset p)
      some (r.short, some (x + BitVec.ofNat 64 (air + msU r.listenMs)))
    | false, some _ => if m.more then none else some (r.short, none)
    | _, none => none

/-! ### Delivery (R234 steps 8 to 11, R237-R239) -/

/-- What link firmware does with a secured frame once it is delivered. -/
def afterDelivery (f : PipeFrame) (m : MacFrame) (e : LinkEntry) (payload : List Byte) (s : State) : State :=
  let s1 := adaptMaps f e.id (heardChild f e s)
  match m.type with
  | 2 => beaconHeard e.short payload f.stamp false s1
  | 3 => mapUpdateHeard f payload e.id s1
  | 5 => linkControlHeard payload e.id s1
  | 0 =>
    if s1.sec.remoteEn && !m.bcast && payload.length = 20 && payload.take 4 = [0x4B#8, 0x52#8, 0x41#8, 0x31#8] then
      remoteAttest e (payload.drop 4) s1
    else s1
  | _ => s1

/-- The first 4 MIC bytes, as they are held (R237). -/
def micWord (m : MacFrame) : Word := W (natLE (m.mic.take 4))

/-- Step 11: the frame is accepted (R234, R237, R239). -/
def acceptFrame (f : PipeFrame) (m : MacFrame) (e : LinkEntry) (yellow : Bool) (payload : List Byte) (s : State) : State :=
  let due := m.wantsAck
  let pend := s.link.frames.any fun x => x.link = some e.id
  let g := if due then ackMarginOf f s else (0#8, s)
  let seen (e : LinkEntry) : LinkEntry :=
    let e1 := { e with lastHeard := f.stamp, lastRssi := f.rssi, lastSnr := f.meas.snr, dirty := true, ref := true }
    if m.bcast then { e1 with inBcast := m.counter, micBcast := some (micWord m) }
    else { e1 with inCtr := m.counter, mic := some (micWord m), ackHeld := due, ackMargin := g.1, ackPending := due && pend }
  let s1 := updateLink e.id seen g.2
  let words := rxPacket f yellow false (linkResult m e.short) (m.hdr ++ payload ++ m.mic)
  let s2 := storeFrame f (!yellow) true words (bumpPipe (if yellow then .deliveredYellow else .deliveredGreen) s1)
  let s3 := if due then decideAck f e m.counter (some (g.1, pend)) (ackEffect f m e s) s2 else s2
  afterDelivery f m e payload s3

/-- Steps 9 and 10: the inbound meter colours the frame at its last decision, and yellow traffic is refused first (R238, R280). -/
def meterFrame (f : PipeFrame) (m : MacFrame) (e : LinkEntry) (payload : List Byte) (s : State) : State :=
  let at_ := BitVec.ofNat 64 (s.elapsed.now.toNat - (s.time.nt - f.decidedAt).toNat)
  let c := colour (inboundProfile e.meter.toNat s) (if at_.toNat < e.buckets.last.toNat then e.buckets.last else at_) f.hdr.length m.bcast
    e.buckets
  let s1 := updateLink e.id (fun e => { e with buckets := c.2 }) s
  let tight := decide (storeFree s - f.reserved < s.storeSize / 4)
  match c.1 with
  | .red => bumpPipe .red s1
  | .yellow => if tight then bumpPipe .yellowRefused s1 else acceptFrame f m { e with buckets := c.2 } true payload s1
  | .green => acceptFrame f m { e with buckets := c.2 } false payload s1

/-- Step 8: the counter classified (R237). -/
def classify (f : PipeFrame) (m : MacFrame) (e : LinkEntry) (payload : List Byte) (s : State) : State :=
  let last := if m.bcast then e.inBcast else e.inCtr
  let held := if m.bcast then e.micBcast else e.mic
  if last.toNat < m.counter.toNat then meterFrame f m e payload s
  else if m.counter = last && (held.isNone || held = some (micWord m)) then
    let s1 := heardChild f e (bumpPipe .duplicate s)
    if m.wantsAck then
      decideAck f e m.counter (if e.ackHeld then some (e.ackMargin, e.ackPending) else none) (ackEffect f m e s) s1
    else s1
  else bumpPipe .replay s

/-- Step 7: the frame verified and decrypted under its link's key, or the group link's (R223, R225). -/
def verifyFrame (f : PipeFrame) (m : MacFrame) (e : LinkEntry) (s : State) : State :=
  match (if m.bcast then linkByShort groupShort s else some e) with
  | none => bumpPipe .noLink s
  | some k =>
    let n := macNonce (if m.srcLong then m.src else e.eui) m.counter (securityByte m.miclen m.enc false)
    let plain := if m.enc then ccmDec k.keyBytes n m.hdr m.body m.mic
      else (ccmDec k.keyBytes n (m.hdr ++ m.body) [] m.mic).map fun _ => m.body
    match plain with
    | some payload => classify f m e payload s
    | none => bumpPipe .authFail s

/-- The entry of a long source (R266): that of the link table; on a miss the walker reads the directory at an address which nothing in
the manual derives from an EUI-64 (a free value, log 70), and the EUI-64 found there must match. -/
def fetchLong (u : DWord) (err : Bool) (s : State) : DirRead × State :=
  match linkByEui u s with
  | some e => (.entry { e with ref := true }, updateLink e.id (fun e => { e with ref := true }) s)
  | none =>
    if (dirCfg s).isNone then (.free, s)
    else
      let w := drawWord s
      let a : BitVec 24 := w.1.setWidth 24
      if a = 0 || decide (w.2.dir.highWater < a.toNat) || (linkByShort a w.2).isSome then (.free, w.2)
      else fetchShort a (some u) err w.2

/-- Steps 5 and 6: the sender looked up and fetched (R222, R266). `err`: the external memory fails the fetch. -/
def lookupSender (f : PipeFrame) (m : MacFrame) (err : Bool) (s : State) : State :=
  let r := if m.srcLong then fetchLong m.src err s else fetchShort (m.src.setWidth 24) none err s
  if m.srcBad then bumpPipe .noLink s
  else match r.1 with
    | .free => bumpPipe .noLink r.2
    | .fault _ => bumpPipe .dirFault r.2
    | .entry e => verifyFrame f m e r.2

/-- Step 4 for an unsecured frame (R224): beacons and join frames are delivered to RX-low, the others discarded. -/
def openFrame (f : PipeFrame) (m : MacFrame) (s : State) : State :=
  if m.type = 0 || m.type = 3 || m.type = 5 then bumpPipe .openDiscarded s
  else if m.srcBad then bumpPipe .noLink s
  else
    let src := if m.srcLong then (match linkByEui m.src s with | some e => e.short | none => noShort) else m.src.setWidth 24
    let s1 := storeFrame f false true (rxPacket f true false (linkResult m src) f.psdu) (bumpPipe .openDelivered s)
    if m.type = 2 then beaconHeard src m.body f.stamp true s1
    else if m.body.getD 1 0 = 0x01#8 then joinRequestHeard m m.body f.rssi s1
    else joinResponseHeard m f.psdu s1

/-- Step 1 failed (R214, R234): under MONITOR the frame is delivered to RX-low with CRC_BAD where space is free. -/
def crcFailed (f : PipeFrame) (s : State) : State :=
  let s1 := bumpPipe .crcFail s
  if !f.monitor then s1
  else if storeFree s1 < f.reserved then bumpRx f.boulevard .monitorDrop s1
  else storeFrame f false false (rxPacket f true true (0, 0) f.psdu) s1

/-- The pipeline's steps 1 to 11 for one frame (R234). -/
def decideFrame (f : PipeFrame) (err : Bool) (s : State) : State :=
  if !f.crcOk then crcFailed f s
  else match parseMac f.psdu with
    | none => bumpPipe .malformed s
    | some m =>
      if !forMe m s then bumpPipe .notForMe s
      else if m.miclen = 0 then openFrame f m s
      else lookupSender f m err s

/-- DECISION_PIPELINE: the frame of the earliest deadline is decided (R234, R236). -/
def decisionPipeline (err : Bool) (s : State) : State :=
  match nextPipe s.rx.pipe with
  | none => s
  | some f => endSpeculation (decideFrame f err { s with rx.pipe := s.rx.pipe.erase f })

def execDecisionPipeline (xspiError : Bool) (s : State) : Out := .next (decisionPipeline xspiError s)

/-! ### The ack on the air (R101, R105, R228, R233) -/

/-- SPECULATIVE_TURNAROUND: toward the earliest ack that is or may be due, at its instant less T_turn (R105, R108). -/
def speculativeTurnaround (s : State) : State :=
  let due := (s.rx.pipe.filter fun f => mayAck f s).map (fun f => (f.ackAt.toNat, f.carrier)) ++
    (s.link.acks.filter AckDue.sends).map fun a => (a.at_.toNat, a.prof.carrier)
  let first := due.foldl (fun (b : Option (Nat × Nat)) x =>
    match b with | some y => if x.1 < y.1 then some x else some y | none => some x) none
  let free := s.radio.mode = .rx || s.radio.mode = .idle || (s.radio.mode = .settle && s.radio.settleFor = some .rx)
  match first with
  | none => s
  | some (at_, carrier) =>
    if !s.isUsable dRFFE || !free || s.lifecycle = .retired || s.time.nt.toNat + unitsU (prepUnits carrier s) < at_ then s
    else
      let s1 := if s.radio.mode = .rx then turnToTx carrier .ack s else idleToTx carrier .ack s
      { s1 with radio.speculative := true, radio.backToRx := receptionInForce s }

def execSpeculativeTurnaround (s : State) : Out := .next (speculativeTurnaround s)

/-- The decided ack whose instant comes first. -/
def firstAck : List AckDue → Option AckDue
  | [] => none
  | a :: rest => match firstAck rest with
    | some b => some (if a.at_.toNat ≤ b.at_.toNat then a else b)
    | none => some a

/-- The sub-band of an ack that is sent. -/
def ackBand (a : AckDue) : Option (Fin 16) := match a.verdict with | .send b _ _ => some b | _ => none

/-- The symbols of an ack (R132, R169, R176, R228). -/
def ackSymbols (a : AckDue) (s : State) : List AirSym :=
  if a.prof.ofdm then ofdmFrame s.radio.region a.prof 0 (uniformMap 1) a.seed a.psdu else chirpFrame a.prof true a.psdu

/-- A decided ack goes on the air (R101, R233): from the ack instant, not before the ramp has run. -/
def sendAck (a : AckDue) (t : Nat) (s : State) : State :=
  let start := max a.at_.toNat (s.time.nt.toNat + usUp s.radio.shape.rampUs.toNat)
  let p := powerFor a.power (ackBand a) s
  let onAir := { a with at_ := BitVec.ofNat 64 start, ends := BitVec.ofNat 64 (start + usUp t), power := p.2 }
  bumpPipe .ackSent { s with radio.mode := .tx, radio.speculative := false, radio.air := ackSymbols a s,
                             radio.airRate := airRateOf a.prof s, link.ackOnAir := some onAir }

/-- ACK: at its instant a due ack is sent, or counted late, suppressed or collided; without one the speculative turnaround
returns (R105, R233, R438). -/
def ackRow (s : State) : State :=
  let ready := s.radio.mode = .turnTx && s.radio.speculative && s.radio.settleFor.isNone
  match firstAck s.link.acks with
  | none => if ready then startReturn s else s
  | some a =>
    let s1 := { s with link.acks := s.link.acks.erase a }
    match a.verdict with
    | .late => endSpeculation (bumpPipe .lateDecision s1)
    | .suppressed => endSpeculation (bumpPipe .ackSuppressed s1)
    | .collided => endSpeculation (bumpPipe .ackCollided s1)
    | .send b t n =>
      let blocked := s.power.bodWarn && decide (2000 < t)
      if ready && !blocked then sendAck a t s1
      else if (ready && blocked) || a.at_.toNat ≤ s.time.nt.toNat then endSpeculation (bumpPipe .ackSuppressed (refund b t n s1))
      else s

def execAck (s : State) : Out := .next (ackRow s)

end Sys2Proof.Machine
end

