-- ==== Sys2Proof/Machine/Directory.lean ====
section
/-! DEFINITION. The directory's commands: DIR_CONFIG (R268) and DIR_SNAPSHOT (R269). -/

namespace Sys2Proof.Machine
open Sys2Proof

/-! ### DIR_CONFIG (R264, R268) -/

/-- Bytes of the xSPI space (R263, R268: 512 MB). -/
def xspiBytes : Nat := 2 ^ 29

/-- The configuration of DIR_CONFIG's words, or none where a field is out of range (R268). -/
def dirConfigOf (ps : List Word) : Option DirConfig :=
  let w1 := param ps 1
  let w3 := param ps 3
  let cap := fld w1 8 4
  let ext := bitAt w1 9
  let base := (param ps 2).toNat
  let mhz := fld w3 7 0
  let dummy := fld w3 12 8
  if !onlyBits w1 0x3FF#32 || decide (cap < 14) || decide (23 < cap) || base % 65536 ≠ 0
      || decide (xspiBytes < base + 64 * 2 ^ cap * (1 + b2n ext)) || decide (mhz < 50) || decide (200 < mhz) || decide (dummy < 3)
      || !onlyBits w3 0x1FFF#32 then none
  else some { enable := bitAt w1 0, volatile := bitAt w1 2, dual := bitAt w1 3, log2cap := cap, ext, base, clkMhz := mhz, dummy }

/-- Links to directory nodes that are in the link table: assigned addresses of the directory (R268). -/
def directoryLinks (s : State) : Bool :=
  s.link.links.any fun e => decide (1 ≤ e.short.toNat) && decide (e.short.toNat ≤ s.dir.highWater)

/-- Whether the present state refuses a configuration (R268). -/
def dirConfigBlocked (init : Bool) (c : DirConfig) (s : State) : Bool :=
  match s.dir.cfg with
  | none => init && decide (0 < s.dir.highWater)
  | some o =>
    if init then decide (0 < s.dir.highWater) && (o.enable || directoryLinks s)
    else o.log2cap ≠ c.log2cap || o.base ≠ c.base || o.ext ≠ c.ext

def dirConfigRun (c : Cmd) (s : State) : Except Status (List Word × State) :=
  if !s.is80 || !tableOn s then .error .domainOff
  else match dirConfigOf c.ps with
    | none => .error .badParam
    | some d =>
      let init := bitAt (param c.ps 1) 1
      match firstFail [(receptionInForce s || s.dir.snapshot.isSome, .busy), (dirConfigBlocked init d s, .badState)] with
      | some st => .error st
      | none =>
        .ok ([], { s with dir.cfg := some d, upd.settings.dir := some d, dir.epochDue := s.dir.epochDue || d.enable,
                          dir.highWater := if init then 0 else s.dir.highWater })

def execDirConfig (p : Packet) (s : State) : Out := .next (plazaRun 0x505 (lenIs 3) (immediate dirConfigRun) p s)

/-! ### DIR_SNAPSHOT (R264, R265, R269) -/

/-- Words that an entry takes in a packet (R269). -/
def entryWords (c : DirConfig) : Nat := if c.ext then 32 else 16

/-- DIR_SNAPSHOT accepted: its write-backs and copies complete later (DIR_SNAPSHOT_DONE). -/
def dirSnapshotRun (c : Cmd) (s : State) : State :=
  let w1 := param c.ps 1
  let w3 := param c.ps 3
  let restore := bitAt w1 0
  let first := fld (param c.ps 2) 23 0
  let num := fld w3 12 0
  let ext := match dirCfg s with | some d => d.ext | none => false
  let most := if !restore then 4096 else if ext then 31 else 63
  let per := if ext then 32 else 16
  match firstFail [(c.ps.length ≠ (if restore then 3 + per * num else 3), .badLength), (!s.is80 || !tableOn s, .domainOff),
      (!onlyBits w1 1#32 || !onlyBits (param c.ps 2) 0xFFFFFF#32 || !onlyBits w3 0x1FFF#32 || num = 0 || decide (most < num)
        || first = 0 || decide (s.dir.highWater + 1 < first + num), .badParam),
      ((dirCfg s).isNone, .badState), (s.dir.snapshot.isSome, .busy)] with
  | some st => finish c st [] s
  | none => { s with dir.snapshot := some { port := c.port, tag := c.tag, restore, first, num, words := c.ps.drop 3 } }

def execDirSnapshot (p : Packet) (s : State) : Out :=
  .next (plazaRun 0x506 (fun ps => decide (3 ≤ ps.length)) dirSnapshotRun p s)

/-- The stored bytes of an address: its entry, then its extension record. -/
def storedEntry (c : DirConfig) (a : Nat) (s : State) : List Byte :=
  dirBytes s (dirAt c a) ++ (if c.ext then dirBytes s (dirExtAt c a) else [])

/-- The packets of a snapshot: segments of at most 63 entries, or 31, then the final response; DONE counts the entries copied so
far (R73, R269). -/
def sendEntries (c : Cmd) (per : Nat) : Nat → Nat → List (List Byte) → State → State
  | 0, done, _, s => finish c .ok [W done] s
  | fuel + 1, done, es, s =>
    let now := es.take per
    let rest := es.drop per
    let words := W (done + now.length) :: packLE now.flatten
    if rest.isEmpty then finish c .ok words s else sendEntries c per fuel (done + now.length) rest (segment c words s)

/-- A restored entry is accepted (R269): its tag verifies for its address, with its extension record's, and its epoch is not
ahead. -/
def restorable (c : DirConfig) (a : Nat) (rec : List Byte) (s : State) : Bool :=
  decide (a ≤ s.dir.highWater) && (match dirOpen (dirKey s) a false (rec.take 64) with
    | some (v, _) => decide ((hi32 v).toNat ≤ s.dir.epoch.toNat) | none => false)
    && (!c.ext || (dirOpen (dirKey s) a true (rec.drop 64)).isSome)

/-- A restored entry written unchanged. -/
def writeStored (c : DirConfig) (a : Nat) (rec : List Byte) (s : State) : State :=
  let m := memWriteList dirFill s.dir.mem (dirAt c a) (rec.take 64)
  { s with dir.mem := if c.ext then memWriteList dirFill m (dirExtAt c a) (rec.drop 64) else m }

/-- The entries of a restore taken in turn: the state, and how many were written and rejected. -/
def restoreAll (c : DirConfig) : Nat → List (List Byte) → State → State × Nat × Nat
  | _, [], s => (s, 0, 0)
  | a, rec :: rest, s =>
    if restorable c a rec s then
      let r := restoreAll c (a + 1) rest (writeStored c a rec s)
      (r.1, r.2.1 + 1, r.2.2)
    else
      let r := restoreAll c (a + 1) rest s
      (r.1, r.2.1, r.2.2 + 1)

/-- DIR_SNAPSHOT_DONE: a snapshot writes back what is dirty in its range and returns the entries; a restore advances the epoch and
writes what it accepts. -/
def dirSnapshotDone (s : State) : State :=
  match s.dir.snapshot, dirCfg s with
  | some o, some d =>
    let c : Cmd := ⟨o.port, o.tag, 0x506, []⟩
    let s1 := { s with dir.snapshot := none }
    let x := xspiFails (if o.restore then s1 else flushDirty o.first (o.first + o.num) s1)
    if x.1 then finish c .directoryFault [] (dirFault o.first (if o.restore then 3 else 2) x.2)
    else if o.restore then
      let s2 := { x.2 with dir.epoch := x.2.dir.epoch + 1, dir.seq := 0, dir.epochDue := false }
      let recs := chunks (4 * entryWords d) (unpackLE o.words)
      let r := restoreAll d o.first recs s2
      finish c .ok [W (r.2.1 + r.2.2 * 2 ^ 16)] r.1
    else
      let es := (List.range o.num).map fun i => storedEntry d (o.first + i) x.2
      sendEntries c (if d.ext then 31 else 63) o.num 0 es x.2
  | some o, none => finish ⟨o.port, o.tag, 0x506, []⟩ .badState [] { s with dir.snapshot := none }
  | none, _ => s

def execDirSnapshotDone (s : State) : Out := .next (dirSnapshotDone s)

end Sys2Proof.Machine
end

