-- ==== Sys2Proof/Machine/Dispatch.lean ====
section
/-! DEFINITION. The dispatcher: one arm per command, each one direct call of its meaning. -/

namespace Sys2Proof.Machine
open Sys2Proof

def exec (i : Instr) (s : State) : Host.Outcome State Fault Refusal :=
  match i with
  | .ping p => Sys2Proof.Machine.execPing p s
  | .devInfo p => Sys2Proof.Machine.execDevInfo p s
  | .softReset p => Sys2Proof.Machine.execSoftReset p s
  | .ledgerRead p => Sys2Proof.Machine.execLedgerRead p s
  | .statsRead p => Sys2Proof.Machine.execStatsRead p s
  | .eventMask p => Sys2Proof.Machine.execEventMask p s
  | .telemetryRead p => Sys2Proof.Machine.execTelemetryRead p s
  | .stopEnter p => Sys2Proof.Machine.execStopEnter p s
  | .domainSet p => Sys2Proof.Machine.execDomainSet p s
  | .wakeArm p => Sys2Proof.Machine.execWakeArm p s
  | .wakeRecordRead p => Sys2Proof.Machine.execWakeRecordRead p s
  | .padRelease p => Sys2Proof.Machine.execPadRelease p s
  | .oppointSet p => Sys2Proof.Machine.execOppointSet p s
  | .bodConfig p => Sys2Proof.Machine.execBodConfig p s
  | .retainSet p => Sys2Proof.Machine.execRetainSet p s
  | .ntSet p => Sys2Proof.Machine.execNtSet p s
  | .ntCapture p => Sys2Proof.Machine.execNtCapture p s
  | .ppsConfig p => Sys2Proof.Machine.execPpsConfig p s
  | .ppsStatus p => Sys2Proof.Machine.execPpsStatus p s
  | .ntSlew p => Sys2Proof.Machine.execNtSlew p s
  | .ntJump p => Sys2Proof.Machine.execNtJump p s
  | .rfConfig p => Sys2Proof.Machine.execRfConfig p s
  | .calRun p => Sys2Proof.Machine.execCalRun p s
  | .calRead p => Sys2Proof.Machine.execCalRead p s
  | .txshapeSet p => Sys2Proof.Machine.execTxshapeSet p s
  | .femSeqSet p => Sys2Proof.Machine.execFemSeqSet p s
  | .regionLoad p => Sys2Proof.Machine.execRegionLoad p s
  | .phyProfileSet p => Sys2Proof.Machine.execPhyProfileSet p s
  | .loadmapSet p => Sys2Proof.Machine.execLoadmapSet p s
  | .txSubmit p => Sys2Proof.Machine.execTxSubmit p s
  | .txCancel p => Sys2Proof.Machine.execTxCancel p s
  | .rxStart p => Sys2Proof.Machine.execRxStart p s
  | .rxStop p => Sys2Proof.Machine.execRxStop p s
  | .blvdConfig p => Sys2Proof.Machine.execBlvdConfig p s
  | .laneDrop p => Sys2Proof.Machine.execLaneDrop p s
  | .linkAdd p => Sys2Proof.Machine.execLinkAdd p s
  | .linkDel p => Sys2Proof.Machine.execLinkDel p s
  | .linkRead p => Sys2Proof.Machine.execLinkRead p s
  | .addrAssign p => Sys2Proof.Machine.execAddrAssign p s
  | .dirConfig p => Sys2Proof.Machine.execDirConfig p s
  | .dirSnapshot p => Sys2Proof.Machine.execDirSnapshot p s
  | .rdvSet p => Sys2Proof.Machine.execRdvSet p s
  | .rdvClear p => Sys2Proof.Machine.execRdvClear p s
  | .beaconConfig p => Sys2Proof.Machine.execBeaconConfig p s
  | .queueConfig p => Sys2Proof.Machine.execQueueConfig p s
  | .meterSet p => Sys2Proof.Machine.execMeterSet p s
  | .gatelistLoad p => Sys2Proof.Machine.execGatelistLoad p s
  | .gatelistStatus p => Sys2Proof.Machine.execGatelistStatus p s
  | .budgetLoad p => Sys2Proof.Machine.execBudgetLoad p s
  | .budgetRead p => Sys2Proof.Machine.execBudgetRead p s
  | .keyLoad p => Sys2Proof.Machine.execKeyLoad p s
  | .keyDerive p => Sys2Proof.Machine.execKeyDerive p s
  | .keyZero p => Sys2Proof.Machine.execKeyZero p s
  | .cipherRun p => Sys2Proof.Machine.execCipherRun p s
  | .attest p => Sys2Proof.Machine.execAttest p s
  | .lifecycleAdvance p => Sys2Proof.Machine.execLifecycleAdvance p s
  | .debugUnlock p => Sys2Proof.Machine.execDebugUnlock p s
  | .rngRead p => Sys2Proof.Machine.execRngRead p s
  | .ecdhRun p => Sys2Proof.Machine.execEcdhRun p s
  | .signRun p => Sys2Proof.Machine.execSignRun p s
  | .verifyRun p => Sys2Proof.Machine.execVerifyRun p s
  | .flashProgram p => Sys2Proof.Machine.execFlashProgram p s
  | .flashErase p => Sys2Proof.Machine.execFlashErase p s
  | .flashSuspend p => Sys2Proof.Machine.execFlashSuspend p s
  | .flashResume p => Sys2Proof.Machine.execFlashResume p s
  | .protectSet p => Sys2Proof.Machine.execProtectSet p s
  | .protectUnlock p => Sys2Proof.Machine.execProtectUnlock p s
  | .otpRead p => Sys2Proof.Machine.execOtpRead p s
  | .otpProgram p => Sys2Proof.Machine.execOtpProgram p s
  | .flashStatus p => Sys2Proof.Machine.execFlashStatus p s
  | .updBegin p => Sys2Proof.Machine.execUpdBegin p s
  | .updChunk p => Sys2Proof.Machine.execUpdChunk p s
  | .updVerify p => Sys2Proof.Machine.execUpdVerify p s
  | .updActivate p => Sys2Proof.Machine.execUpdActivate p s
  | .updCommit p => Sys2Proof.Machine.execUpdCommit p s
  | .updAbort p => Sys2Proof.Machine.execUpdAbort p s
  | .settingsWrite p => Sys2Proof.Machine.execSettingsWrite p s
  | .settingsRead p => Sys2Proof.Machine.execSettingsRead p s
  | .kerbLoad p => Sys2Proof.Machine.execKerbLoad p s
  | .kerbStart p => Sys2Proof.Machine.execKerbStart p s
  | .kerbStop p => Sys2Proof.Machine.execKerbStop p s
  | .kerbLogRead p => Sys2Proof.Machine.execKerbLogRead p s
  | .ctxTest p => Sys2Proof.Machine.execCtxTest p s
  | .bistRun p => Sys2Proof.Machine.execBistRun p s
  | .loopback p => Sys2Proof.Machine.execLoopback p s
  | .bgPause p => Sys2Proof.Machine.execBgPause p s
  | .bgConfig p => Sys2Proof.Machine.execBgConfig p s
  | .badOpcode p cls code => Sys2Proof.Machine.execBadOpcode p cls code s
  | .badCrc p code => Sys2Proof.Machine.execBadCrc p code s
  | .hostWriteTransaction wire ctrl data => Sys2Proof.Machine.execHostWriteTransaction wire ctrl data s
  | .hostReadTransaction wire ctrl clocked => Sys2Proof.Machine.execHostReadTransaction wire ctrl clocked s
  | .hostPollTransaction wire ctrl clocked => Sys2Proof.Machine.execHostPollTransaction wire ctrl clocked s
  | .hostNopTransaction wire ctrl clocked => Sys2Proof.Machine.execHostNopTransaction wire ctrl clocked s
  | .uartBreak ctrlBytes => Sys2Proof.Machine.execUartBreak ctrlBytes s
  | .uartRateByte byte cellsOk bitNs => Sys2Proof.Machine.execUartRateByte byte cellsOk bitNs s
  | .mbxCmdWrite w => Sys2Proof.Machine.execMbxCmdWrite w s
  | .mbxCmdHoldExpiry => Sys2Proof.Machine.execMbxCmdHoldExpiry s
  | .mbxLaneRead lane => Sys2Proof.Machine.execMbxLaneRead lane s
  | .eventBacklogDrain port => Sys2Proof.Machine.execEventBacklogDrain port s
  | .frameStoreMove high => Sys2Proof.Machine.execFrameStoreMove high s
  | .powerOnReset => Sys2Proof.Machine.execPowerOnReset s
  | .brownoutReset mv => Sys2Proof.Machine.execBrownoutReset mv s
  | .resetn lowNs strap => Sys2Proof.Machine.execResetn lowNs strap s
  | .warmReset => Sys2Proof.Machine.execWarmReset s
  | .debugReset => Sys2Proof.Machine.execDebugReset s
  | .ppsEdge rising lfCycles => Sys2Proof.Machine.execPpsEdge rising lfCycles s
  | .ppsLost => Sys2Proof.Machine.execPpsLost s
  | .ntSetExpired => Sys2Proof.Machine.execNtSetExpired s
  | .ntSlewComplete => Sys2Proof.Machine.execNtSlewComplete s
  | .markerFired n => Sys2Proof.Machine.execMarkerFired n s
  | .capture u => Sys2Proof.Machine.execCapture u s
  | .ntcCpLoRead u => Sys2Proof.Machine.execNtcCpLoRead u s
  | .ntcCpHiRead u => Sys2Proof.Machine.execNtcCpHiRead u s
  | .swtrig u => Sys2Proof.Machine.execSwtrig u s
  | .markerArm n ctrl => Sys2Proof.Machine.execMarkerArm n ctrl s
  | .ntcPpsGlitchRead => Sys2Proof.Machine.execNtcPpsGlitchRead s
  | .ntcCpLostRead u => Sys2Proof.Machine.execNtcCpLostRead u s
  | .btStart n => Sys2Proof.Machine.execBtStart n s
  | .btStop n => Sys2Proof.Machine.execBtStop n s
  | .btPeriodWrite n period => Sys2Proof.Machine.execBtPeriodWrite n period s
  | .btEnd n => Sys2Proof.Machine.execBtEnd n s
  | .cycleLoRead rd => Sys2Proof.Machine.execCycleLoRead rd s
  | .cachectlInv => Sys2Proof.Machine.execCachectlInv s
  | .cacheMissRead rd => Sys2Proof.Machine.execCacheMissRead rd s
  | .intcSwset w => Sys2Proof.Machine.execIntcSwset w s
  | .intcSwclr w => Sys2Proof.Machine.execIntcSwclr w s
  | .registerWrite addr value => Sys2Proof.Machine.execRegisterWrite addr value s
  | .gpioSet port w => Sys2Proof.Machine.execGpioSet port w s
  | .gpioClr port w => Sys2Proof.Machine.execGpioClr port w s
  | .gpioTgl port w => Sys2Proof.Machine.execGpioTgl port w s
  | .gpioEdge pin level cycles => Sys2Proof.Machine.execGpioEdge pin level cycles s
  | .spicTxWrite c w => Sys2Proof.Machine.execSpicTxWrite c w s
  | .spicRxRead c => Sys2Proof.Machine.execSpicRxRead c s
  | .csEnd c => Sys2Proof.Machine.execCsEnd c s
  | .spicFrameEnd c miso => Sys2Proof.Machine.execSpicFrameEnd c miso s
  | .i2cCmdWrite c w => Sys2Proof.Machine.execI2cCmdWrite c w s
  | .i2cTxWrite c w => Sys2Proof.Machine.execI2cTxWrite c w s
  | .i2cRxRead c => Sys2Proof.Machine.execI2cRxRead c s
  | .i2cByteEnd c acked rx => Sys2Proof.Machine.execI2cByteEnd c acked rx s
  | .i2cTimeout c => Sys2Proof.Machine.execI2cTimeout c s
  | .uartTxWrite u w => Sys2Proof.Machine.execUartTxWrite u w s
  | .uartRxRead u => Sys2Proof.Machine.execUartRxRead u s
  | .uartLostRead u => Sys2Proof.Machine.execUartLostRead u s
  | .uartRxCharacter u data perr ferr brk => Sys2Proof.Machine.execUartRxCharacter u data perr ferr brk s
  | .uartTxCharacter u => Sys2Proof.Machine.execUartTxCharacter u s
  | .rxidle u => Sys2Proof.Machine.execRxidle u s
  | .adcStart => Sys2Proof.Machine.execAdcStart s
  | .adcDataRead => Sys2Proof.Machine.execAdcDataRead s
  | .adcLostRead => Sys2Proof.Machine.execAdcLostRead s
  | .adcConversionEnd result sensors => Sys2Proof.Machine.execAdcConversionEnd result sensors s
  | .dmaSwreq w => Sys2Proof.Machine.execDmaSwreq w s
  | .dmaChannelEnable ch ctrl => Sys2Proof.Machine.execDmaChannelEnable ch ctrl s
  | .dmaAbort ch => Sys2Proof.Machine.execDmaAbort ch s
  | .dmaChStatusRead ch => Sys2Proof.Machine.execDmaChStatusRead ch s
  | .dmaBurst => Sys2Proof.Machine.execDmaBurst s
  | .kerbSwtrig => Sys2Proof.Machine.execKerbSwtrig s
  | .kerbTrigRead => Sys2Proof.Machine.execKerbTrigRead s
  | .kerbDecidedRead => Sys2Proof.Machine.execKerbDecidedRead s
  | .pmuEventsRead => Sys2Proof.Machine.execPmuEventsRead s
  | .pbAdd rd ra rb => Sys2Proof.Machine.execPbAdd rd ra rb s
  | .pbSub rd ra rb => Sys2Proof.Machine.execPbSub rd ra rb s
  | .pbAnd rd ra rb => Sys2Proof.Machine.execPbAnd rd ra rb s
  | .pbOr rd ra rb => Sys2Proof.Machine.execPbOr rd ra rb s
  | .pbXor rd ra rb => Sys2Proof.Machine.execPbXor rd ra rb s
  | .pbNor rd ra rb => Sys2Proof.Machine.execPbNor rd ra rb s
  | .pbSlt rd ra rb => Sys2Proof.Machine.execPbSlt rd ra rb s
  | .pbSltu rd ra rb => Sys2Proof.Machine.execPbSltu rd ra rb s
  | .pbSll rd ra rb => Sys2Proof.Machine.execPbSll rd ra rb s
  | .pbSrl rd ra rb => Sys2Proof.Machine.execPbSrl rd ra rb s
  | .pbSra rd ra rb => Sys2Proof.Machine.execPbSra rd ra rb s
  | .pbSlli rd ra sh => Sys2Proof.Machine.execPbSlli rd ra sh s
  | .pbSrli rd ra sh => Sys2Proof.Machine.execPbSrli rd ra sh s
  | .pbSrai rd ra sh => Sys2Proof.Machine.execPbSrai rd ra sh s
  | .pbMin rd ra rb => Sys2Proof.Machine.execPbMin rd ra rb s
  | .pbMax rd ra rb => Sys2Proof.Machine.execPbMax rd ra rb s
  | .pbMinu rd ra rb => Sys2Proof.Machine.execPbMinu rd ra rb s
  | .pbMaxu rd ra rb => Sys2Proof.Machine.execPbMaxu rd ra rb s
  | .pbClz rd ra => Sys2Proof.Machine.execPbClz rd ra s
  | .pbSextb rd ra => Sys2Proof.Machine.execPbSextb rd ra s
  | .pbSexth rd ra => Sys2Proof.Machine.execPbSexth rd ra s
  | .pbAddi rd ra imm => Sys2Proof.Machine.execPbAddi rd ra imm s
  | .pbAndi rd ra imm => Sys2Proof.Machine.execPbAndi rd ra imm s
  | .pbOri rd ra imm => Sys2Proof.Machine.execPbOri rd ra imm s
  | .pbXori rd ra imm => Sys2Proof.Machine.execPbXori rd ra imm s
  | .pbSlti rd ra imm => Sys2Proof.Machine.execPbSlti rd ra imm s
  | .pbSltiu rd ra imm => Sys2Proof.Machine.execPbSltiu rd ra imm s
  | .pbLui rd ra imm => Sys2Proof.Machine.execPbLui rd ra imm s
  | .pbMul rd ra rb => Sys2Proof.Machine.execPbMul rd ra rb s
  | .pbMulh rd ra rb => Sys2Proof.Machine.execPbMulh rd ra rb s
  | .pbMulhu rd ra rb => Sys2Proof.Machine.execPbMulhu rd ra rb s
  | .pbMac rd ra rb => Sys2Proof.Machine.execPbMac rd ra rb s
  | .pbMsu rd ra rb => Sys2Proof.Machine.execPbMsu rd ra rb s
  | .pbLw rd ra imm => Sys2Proof.Machine.execPbLw rd ra imm s
  | .pbLh rd ra imm => Sys2Proof.Machine.execPbLh rd ra imm s
  | .pbLhu rd ra imm => Sys2Proof.Machine.execPbLhu rd ra imm s
  | .pbLb rd ra imm => Sys2Proof.Machine.execPbLb rd ra imm s
  | .pbLbu rd ra imm => Sys2Proof.Machine.execPbLbu rd ra imm s
  | .pbSw rs ra imm => Sys2Proof.Machine.execPbSw rs ra imm s
  | .pbSh rs ra imm => Sys2Proof.Machine.execPbSh rs ra imm s
  | .pbSb rs ra imm => Sys2Proof.Machine.execPbSb rs ra imm s
  | .pbBeq ra rb off => Sys2Proof.Machine.execPbBeq ra rb off s
  | .pbBne ra rb off => Sys2Proof.Machine.execPbBne ra rb off s
  | .pbBlt ra rb off => Sys2Proof.Machine.execPbBlt ra rb off s
  | .pbBge ra rb off => Sys2Proof.Machine.execPbBge ra rb off s
  | .pbBltu ra rb off => Sys2Proof.Machine.execPbBltu ra rb off s
  | .pbBgeu ra rb off => Sys2Proof.Machine.execPbBgeu ra rb off s
  | .pbJmp off => Sys2Proof.Machine.execPbJmp off s
  | .pbCall off => Sys2Proof.Machine.execPbCall off s
  | .pbJr ra => Sys2Proof.Machine.execPbJr ra s
  | .pbCallr ra => Sys2Proof.Machine.execPbCallr ra s
  | .pbRet => Sys2Proof.Machine.execPbRet s
  | .pbReti => Sys2Proof.Machine.execPbReti s
  | .pbLoop n ra len => Sys2Proof.Machine.execPbLoop n ra len s
  | .pbLoopi n cnt len => Sys2Proof.Machine.execPbLoopi n cnt len s
  | .pbMoveTo sr ra => Sys2Proof.Machine.execPbMoveTo sr ra s
  | .pbMoveFrom rd sr => Sys2Proof.Machine.execPbMoveFrom rd sr s
  | .pbPush ra => Sys2Proof.Machine.execPbPush ra s
  | .pbPop rd => Sys2Proof.Machine.execPbPop rd s
  | .pbPushl mask => Sys2Proof.Machine.execPbPushl mask s
  | .pbPopl mask => Sys2Proof.Machine.execPbPopl mask s
  | .pbTrap code => Sys2Proof.Machine.execPbTrap code s
  | .pbWait => Sys2Proof.Machine.execPbWait s
  | .pbFence => Sys2Proof.Machine.execPbFence s
  | .pbIcinv => Sys2Proof.Machine.execPbIcinv s
  | .pbBreak => Sys2Proof.Machine.execPbBreak s
  | .interruptEntry => Sys2Proof.Machine.execInterruptEntry s
  | .detection d rival => Sys2Proof.Machine.execDetection d rival s
  | .symbolDecision c o => Sys2Proof.Machine.execSymbolDecision c o s
  | .syncDecision c first second => Sys2Proof.Machine.execSyncDecision c first second s
  | .timingMark c first second => Sys2Proof.Machine.execTimingMark c first second s
  | .noMark c => Sys2Proof.Machine.execNoMark c s
  | .headerDecision c => Sys2Proof.Machine.execHeaderDecision c s
  | .lastPayloadDecision c level => Sys2Proof.Machine.execLastPayloadDecision c level s
  | .gainChange up => Sys2Proof.Machine.execGainChange up s
  | .decisionPipeline xspiError => Sys2Proof.Machine.execDecisionPipeline xspiError s
  | .ack => Sys2Proof.Machine.execAck s
  | .txChoice => Sys2Proof.Machine.execTxChoice s
  | .txAttempt => Sys2Proof.Machine.execTxAttempt s
  | .txEnd => Sys2Proof.Machine.execTxEnd s
  | .ackReception psdu crc stamp rfioHalfDb bypass => Sys2Proof.Machine.execAckReception psdu crc stamp rfioHalfDb bypass s
  | .ackWindowClose => Sys2Proof.Machine.execAckWindowClose s
  | .retryDelayExpiry frame => Sys2Proof.Machine.execRetryDelayExpiry frame s
  | .expired frame => Sys2Proof.Machine.execExpired frame s
  | .late frame => Sys2Proof.Machine.execLate frame s
  | .settleDone => Sys2Proof.Machine.execSettleDone s
  | .synthLockTimeout osc => Sys2Proof.Machine.execSynthLockTimeout osc s
  | .turnRxDone => Sys2Proof.Machine.execTurnRxDone s
  | .calStep => Sys2Proof.Machine.execCalStep s
  | .calStepEnd result => Sys2Proof.Machine.execCalStepEnd result s
  | .calRunExpired => Sys2Proof.Machine.execCalRunExpired s
  | .calPeriodExpiry tempTenths sensors => Sys2Proof.Machine.execCalPeriodExpiry tempTenths sensors s
  | .rdvSlot short => Sys2Proof.Machine.execRdvSlot short s
  | .reacquisitionWindow short => Sys2Proof.Machine.execReacquisitionWindow short s
  | .scan short => Sys2Proof.Machine.execScan short s
  | .beacon => Sys2Proof.Machine.execBeacon s
  | .joinRequestSend => Sys2Proof.Machine.execJoinRequestSend s
  | .joinPlaceExpiry place => Sys2Proof.Machine.execJoinPlaceExpiry place s
  | .gateSwapped => Sys2Proof.Machine.execGateSwapped s
  | .bucketRoll => Sys2Proof.Machine.execBucketRoll s
  | .budgetJournalWrite => Sys2Proof.Machine.execBudgetJournalWrite s
  | .openMessageTimeout ctx => Sys2Proof.Machine.execOpenMessageTimeout ctx s
  | .trngHealthFail test => Sys2Proof.Machine.execTrngHealthFail test s
  | .trngStartUpTest pass => Sys2Proof.Machine.execTrngStartUpTest pass s
  | .unlockChal => Sys2Proof.Machine.execUnlockChal s
  | .unlockResp scope key sig => Sys2Proof.Machine.execUnlockResp scope key sig s
  | .extest select => Sys2Proof.Machine.execExtest select s
  | .flashDone verifyFails => Sys2Proof.Machine.execFlashDone verifyFails s
  | .flashAutoSuspend => Sys2Proof.Machine.execFlashAutoSuspend s
  | .flashAutoResume => Sys2Proof.Machine.execFlashAutoResume s
  | .stopEntry => Sys2Proof.Machine.execStopEntry s
  | .wake sources detail sealFails tempTenths sensors => Sys2Proof.Machine.execWake sources detail sealFails tempTenths sensors s
  | .ntToHfxo => Sys2Proof.Machine.execNtToHfxo s
  | .bodWarn mv => Sys2Proof.Machine.execBodWarn mv s
  | .bodClear mv => Sys2Proof.Machine.execBodClear mv s
  | .oppointSwitch => Sys2Proof.Machine.execOppointSwitch s
  | .oppointTimeout => Sys2Proof.Machine.execOppointTimeout s
  | .domainUsable d => Sys2Proof.Machine.execDomainUsable d s
  | .kerbPass t => Sys2Proof.Machine.execKerbPass t s
  | .kerbEnd => Sys2Proof.Machine.execKerbEnd s
  | .kerbSample result sensors => Sys2Proof.Machine.execKerbSample result sensors s
  | .kerbDin => Sys2Proof.Machine.execKerbDin s
  | .kerbDout => Sys2Proof.Machine.execKerbDout s
  | .kerbWait => Sys2Proof.Machine.execKerbWait s
  | .kerbLoadi => Sys2Proof.Machine.execKerbLoadi s
  | .kerbAdd => Sys2Proof.Machine.execKerbAdd s
  | .kerbSub => Sys2Proof.Machine.execKerbSub s
  | .kerbAbsd => Sys2Proof.Machine.execKerbAbsd s
  | .kerbIir => Sys2Proof.Machine.execKerbIir s
  | .kerbJgt => Sys2Proof.Machine.execKerbJgt s
  | .kerbJle => Sys2Proof.Machine.execKerbJle s
  | .kerbJmp => Sys2Proof.Machine.execKerbJmp s
  | .kerbLog => Sys2Proof.Machine.execKerbLog s
  | .kerbDecide => Sys2Proof.Machine.execKerbDecide s
  | .kerbMov => Sys2Proof.Machine.execKerbMov s
  | .handover adopted => Sys2Proof.Machine.execHandover adopted s
  | .handoverWaitExpiry => Sys2Proof.Machine.execHandoverWaitExpiry s
  | .trialExpiry => Sys2Proof.Machine.execTrialExpiry s
  | .rollback reason => Sys2Proof.Machine.execRollback reason s
  | .scrubQuantum m e => Sys2Proof.Machine.execScrubQuantum m e s
  | .flashRefreshQuantum e marginFails => Sys2Proof.Machine.execFlashRefreshQuantum e marginFails s
  | .journalCompactionQuantum eraseSector => Sys2Proof.Machine.execJournalCompactionQuantum eraseSector s
  | .telemetryQuantum tempTenths sensors mv => Sys2Proof.Machine.execTelemetryQuantum tempTenths sensors mv s
  | .urgent a => Sys2Proof.Machine.execUrgent a s
  | .bgPauseEnd => Sys2Proof.Machine.execBgPauseEnd s
  | .ctxTestDone pass corrected => Sys2Proof.Machine.execCtxTestDone pass corrected s
  | .bistDone fails first => Sys2Proof.Machine.execBistDone fails first s
  | .loopbackEnd pass snr cfo drift corrected => Sys2Proof.Machine.execLoopbackEnd pass snr cfo drift corrected s
  | .ppsOutRise => Sys2Proof.Machine.execPpsOutRise s
  | .ppsOutFall => Sys2Proof.Machine.execPpsOutFall s
  | .wakeDriftSample freq => Sys2Proof.Machine.execWakeDriftSample freq s
  | .sysplllocked => Sys2Proof.Machine.execSysplllocked s
  | .keyStoreReady => Sys2Proof.Machine.execKeyStoreReady s
  | .pkaDone => Sys2Proof.Machine.execPkaDone s
  | .inactiveBankErased => Sys2Proof.Machine.execInactiveBankErased s
  | .updVerifyDone => Sys2Proof.Machine.execUpdVerifyDone s
  | .dirSnapshotDone => Sys2Proof.Machine.execDirSnapshotDone s
  | .rdvWindowClose short => Sys2Proof.Machine.execRdvWindowClose short s
  | .vioRemoved => Sys2Proof.Machine.execVioRemoved s
  | .vioRestored => Sys2Proof.Machine.execVioRestored s
  | .lfxoRunning => Sys2Proof.Machine.execLfxoRunning s
  | .vbatSample mv => Sys2Proof.Machine.execVbatSample mv s
  | .speculativeTurnaround => Sys2Proof.Machine.execSpeculativeTurnaround s

end Sys2Proof.Machine
end

