-- ==== Sys2Proof/Safety.lean ====
section
/-! DEFINITION. What a safe run is, and the properties of a state that every step keeps: the ledger's balance (R306), the
memories' canonical form, and OTP bits that stay set (R407). Then the words that statements about commands use: what it means
that a packet is taken and answered, and the spec's own descriptions of effects that several statements share. -/

namespace Sys2Proof
open Sys2Proof.Machine

/-- A step that answers a next state. -/
def Completes (s : State) : Prop := ∃ t, step s = .next t

/-- A run of n steps that answers a next state at each of them. -/
def SafeFor : Nat → State → Prop
  | 0, _ => True
  | n + 1, s => ∃ t, step s = .next t ∧ SafeFor n t

/-- How many frames of a scope have ended: the sum of its nine outcome counts (R305). -/
def endedFrames (l : LedgerScope) : DWord :=
  l.outcomes[0] + l.outcomes[1] + l.outcomes[2] + l.outcomes[3] + l.outcomes[4] + l.outcomes[5] + l.outcomes[6]
    + l.outcomes[7] + l.outcomes[8]

/-- SUBMITTED equals PENDING plus the sum of the nine outcome counts (R306). -/
def Balanced (l : LedgerScope) : Prop := l.submitted = l.pending + endedFrames l

/-- Both scopes of the ledger balance. -/
def LedgerOk (s : State) : Prop := Balanced s.ledger.app ∧ Balanced s.ledger.fw

/-- The three addressed memories are in canonical form: application SRAM, flash cells, directory memory. -/
def MemoryOk (s : State) : Prop :=
  Memory.wf 0#8 s.sram = true ∧ Memory.wf 0xFF#8 s.flash.cells = true ∧ Memory.wf dirFill s.dir.mem = true

/-- Every Lane of every port holds at most its 64 word stages (R75). -/
def LanesOk (s : State) : Prop := ∀ (p : Fin 3) (i : Fin 5), (s.plaza.ports[p].lanes[i]).stages.length ≤ 64

/-- Every OTP bit set in s is set in t. -/
def OtpGrows (s t : State) : Prop := ∀ i b, (otpWord s i).getLsbD b = true → (otpWord t i).getLsbD b = true

/-- The command that an owner of opcode `code` is handed. -/
def asCmd (code : Nat) (p : Packet) : Cmd := ⟨p.port, p.tag, code, p.params⟩

/-- The radio commands that wait while a full calibration runs (R111). -/
def waitsForCal (code : Nat) : Bool := [0x301, 0x302, 0x303, 0x306].contains code

/-- DOMAIN_SET's word is well formed and switches XMEM off, alone or with other domains (R420). -/
def XmemOff (w : Word) (s : State) : Prop :=
  onlyBits w 0x3FFF#32 = true ∧ bitAt w dXMEM = true ∧ bitAt w 12 = false ∧ bitAt w 0 = false ∧ bitAt w dFLASH = false ∧
  bitAt w dLINK = false ∧ (bitAt w dAPP = true → s.flash.hostApp = false)

/-- In state s the Plaza takes the packet p of opcode `code` and it passes steps 1 to 4 of R70 (its CRC word matches, its
port may issue it, its tag is free) while link firmware is not parked before it (R12) and no full calibration runs before a radio command (R111); b is the state that its owner meets: the packet taken and its tag outstanding. -/
def Taken (code : Nat) (p : Packet) (s b : State) : Prop :=
  plazaOpen p.port s = true ∧ (s.parked = true → inHardware code = true) ∧
  (waitsForCal code = true → s.radio.cal.full = false) ∧
  ∃ s1, arrive 0 code p s = some (s1, true) ∧ (hostOnly code = true → s.isHostPort p.port = true) ∧
    (s.port p.port).tags.contains p.tag = false ∧ b = markOutstanding p s1

/-- Every packet of this opcode that is taken, and that meets `pre`, makes exec answer the next state `out`. -/
def Does (code : Nat) (i : Packet → Instr) (pre : Cmd → State → Prop) (out : Cmd → State → State) : Prop :=
  ∀ p s b, Taken code p s b → pre (asCmd code p) b → exec (i p) s = .next (out (asCmd code p) b)

/-- The same for a command that ends at once: its final response carries `st` and the results `res`, and `eff` is its effect. -/
def Answers (code : Nat) (i : Packet → Instr) (pre : Cmd → State → Prop) (st : Status) (res : Cmd → State → List Word)
    (eff : Cmd → State → State) : Prop :=
  Does code i pre fun c b => finish c st (res c b) (eff c b)

/-- The request that a command whose work rests on P-256 operations makes of the PKA: it runs if the PKA is free, else it waits behind
every other command (R316). -/
def askPka (c : Cmd) (b : State) : State :=
  let r : PkaReq := ⟨c.port, c.tag, .command (BitVec.ofNat 12 c.code) c.ps, 1⟩
  if b.sec.pka = none then { b with sec.pka := some r } else { b with sec.pkaQueue := b.sec.pkaQueue ++ [r] }

/-- The PKA takes its next request: those of link firmware before the commands, each in arrival order (R316). -/
def pkaGoesOn (s : State) : State := { s with
  sec.pka := (s.sec.pkaFirst ++ s.sec.pkaQueue).head?
  sec.pkaFirst := s.sec.pkaFirst.tail
  sec.pkaQueue := if s.sec.pkaFirst = [] then s.sec.pkaQueue.tail else s.sec.pkaQueue }

/-- After the last P-256 operation of every such command of opcode `code` that meets `pre`, PKA_DONE takes the next request and has
the command's effect `out`; then commands that waited for a message context go on if one came free (R310). -/
def WorkDone (code : Nat) (pre : Cmd → State → Prop) (out : Cmd → State → State) : Prop :=
  ∀ r ps s, s.sec.pka = some r → r.job = .command (BitVec.ofNat 12 code) ps → r.left ≤ 1 → pre ⟨r.port, r.tag, code, ps⟩ (pkaGoesOn s) →
    exec .pkaDone s = .next (thenFree out ⟨r.port, r.tag, code, ps⟩ (pkaGoesOn s))

namespace Statements

/-- The invariant of every step: canonical memories, a balanced ledger (R306) and Lanes of at most 64 words (R75). -/
def Invariant (s : State) : Prop := MemoryOk s ∧ LedgerOk s ∧ LanesOk s

/-- The link entry that a TX_SUBMIT's destination selects: a long address by EUI, broadcast by the group key's entry, a short
address in the table or the directory (R223, R239, R242). -/
def txDestination (c : Cmd) (b : State) : DirRead × State :=
  if bitAt (param c.ps 1) 11 then
    (match linkByEui (mk64 (param c.ps 2) (param c.ps 3)) b with | some e => .entry e | none => .free, b)
  else if (submittedFrame c 0 (0, 0) b).bcast then
    (match linkByShort groupShort b with | some e => .entry e | none => .free, b)
  else selectEntry [param c.ps 2, 0, 0] b

/-- The link table as LINK_ADD meets it: on a KR9680 the directory's entry of the address is brought in first (R244). -/
def linkAddMeets (c : Cmd) (b : State) : State :=
  let short : BitVec 24 := BitVec.ofNat 24 (fld (param c.ps 1) 23 0)
  if (dirCfg b).isSome && decide (short.toNat ≤ b.dir.highWater) && short ≠ 0#24 then (lookupShort short b).2 else b

/-- The present entry that a LINK_ADD with REPLACE = 1 names, none without REPLACE. -/
def linkAddReplaces (c : Cmd) (b : State) : Option LinkEntry :=
  if bitAt (param c.ps 1) 25 then
    namedEntry (BitVec.ofNat 24 (fld (param c.ps 1) 23 0)) (mk64 (param c.ps 2) (param c.ps 3)) (linkAddMeets c b)
  else none

/-- The conditions under which LINK_ADD places an entry of key `key` (R244): every field in range, the KEK slot usable, the
wrapped key intact, the address free or the entry's own, and room for one more pinned entry. -/
def linkAddMay (c : Cmd) (b : State) (key : BitVec 256) : Prop :=
  let w1 := param c.ps 1
  let short : BitVec 24 := BitVec.ofNat 24 (fld w1 23 0)
  let eui := mk64 (param c.ps 2) (param c.ps 3)
  let slot := fld (param c.ps 8) 4 0
  let s1 := linkAddMeets c b
  (c.ps.length = if bitAt w1 24 then 18 else 14) ∧ tableOn b = true ∧ b.isUsable dCRYPTO = true ∧ b.sec.ready = true ∧
  onlyBits w1 0x03FFFFFF#32 = true ∧ onlyBits (param c.ps 4) 0xFFFF03FF#32 = true ∧ onlyBits (param c.ps 8) 0x1F#32 = true ∧
  (short = groupShort → eui = 0#64) ∧ (bitAt w1 24 = true → ∀ d, dirCfg b = some d → d.ext = true) ∧
  slotRefusal slot 2 [.aes128, .aes256] b = none ∧
  (∃ kek kb, usableSlot slot b = some kek ∧ keyUnwrap kek.aesBytes (unpackBE (c.ps.drop 8)) = some kb ∧
    key = BitVec.ofNat 256 (natBE (if bitAt w1 24 then kb else kb ++ zeros 16))) ∧
  belongsToOther short eui (linkAddReplaces c b) s1 = false ∧
  ((dirCfg s1).isNone = true ∨ (short ≠ groupShort ∧ bitAt w1 24 = false) ∨
    ((namedEntry short eui s1).map (pinned s1)).getD false = true ∨ pinnedCount s1 < 15360)

/-- The data bytes of a CIPHER_RUN (R311). -/
def cipherData (c : Cmd) : List Byte := (unpackLE (c.ps.drop 12)).take (fld (param c.ps 2) 12 0)

/-- A CIPHER_RUN may open the message m in context n (R309 to R312): its fields fit its mode, its slot gives the key, its
lengths and counters fit, a context is free, and (m1, s1) are the message with its nonce and the state after taking it. -/
def cipherMayOpen (c : Cmd) (b : State) (single : Bool) (n : Nat) (m1 : CipherMsg) (s1 : State) : Prop :=
  cipherLen c.ps = true ∧ b.isUsable dCRYPTO = true ∧ (fld (param c.ps 1) 5 3 = 6 ∨ b.sec.ready = true) ∧
  staticBad c.ps = false ∧ stepOf c.ps = (if single then 0 else 1) ∧ openBad c.ps = false ∧
  ∃ key, msgKey c.ps b = .ok key ∧
    tagBad (newMsg c key b) single c.ps = false ∧ lengthBad (newMsg c key b) single (fld (param c.ps 2) 12 0) = false ∧
    exhausted (newMsg c key b) = false ∧ freeContext (newMsg c key b).priority.toNat b = some n ∧
    (if (newMsg c key b).autoNonce then takeNonce (newMsg c key b) b = .ok (m1, s1) else m1 = newMsg c key b ∧ s1 = b)

/-- A CIPHER_RUN with STEP CONTINUE or FINAL meets the open message m in context CTX (R313). -/
def cipherMeets (c : Cmd) (b : State) (final : Bool) (m : CipherMsg) : Prop :=
  let w := param c.ps 1
  cipherLen c.ps = true ∧ b.isUsable dCRYPTO = true ∧ (fld w 5 3 = 6 ∨ b.sec.ready = true) ∧ staticBad c.ps = false ∧
  stepOf c.ps = (if final then 3 else 2) ∧ (((c.ps.drop 2).take 6).any fun x => x ≠ 0#32) = false ∧
  b.sec.ctxs.toList.getD (fld w 18 16) none = some m ∧ m.port = c.port ∧ fld w 5 3 = m.mode.toNat ∧ bitAt w 2 = m.decrypt ∧
  bitAt w 6 = m.stream ∧ fld w 9 7 = m.priority.toNat ∧ fld w 14 10 = m.slot ∧ bitAt w 15 = m.autoNonce ∧
  tagBad m final c.ps = false ∧ lengthBad m final (fld (param c.ps 2) 12 0) = false

/-- What a command's data does to a message in context n: without `final` the message stays open; with it the message ends,
and the digest and, on encryption, the tag follow the output; a tag that does not verify gives AUTH_FAIL and no output. A
streamed message gives its output as a segment first, and a wrong tag then the poison packet (R309, R313, R314). -/
def cipherDone (c : Cmd) (n : Nat) (final : Bool) (m : CipherMsg) (s : State) : State :=
  let r := stepMsg m (cipherData c)
  let wrong := verifiesTag m && endTag r.2 ≠ (unpackBE ((c.ps.drop 8).take 4)).take m.tagLen
  let ended := putMsg n none s
  let shown := if r.1.isEmpty then ended else segment c (cipherWords n r.2 r.1 []) ended
  let poison := [(header 4 c.code c.tag.toNat 1, none), (W (statusCode .authFail), none)]
  if !final then finish c .ok (cipherWords n r.2 r.1 []) (putMsg n (some { r.2 with last := s.elapsed.now }) s)
  else if m.stream then
    if wrong then finish c .authFail [] (produce c.port laneResp poison shown) else finish c .ok (cipherWords n r.2 [] []) shown
  else if wrong then finish c .authFail [] ended
  else finish c .ok (cipherWords n r.2 (r.1 ++ endDigest r.2) (if m.decrypt then [] else endTag r.2)) ended

/-- The command index (R64, R65), opcodes 0x001 to 0x3FF: opcode, command, and the COUNT that its layout allows. -/
def commandsLow : List (Nat × (Packet → Instr) × (List Word → Bool)) :=
  [(0x001, .ping, fun ps => decide (ps.length ≤ 1022)), (0x002, .devInfo, lenIs 0), (0x003, .softReset, lenIs 0),
   (0x004, .ledgerRead, lenIs 1), (0x005, .statsRead, lenIs 1), (0x006, .eventMask, lenIs 9),
   (0x007, .telemetryRead, lenIs 0), (0x101, .stopEnter, lenIs 0), (0x102, .domainSet, lenIs 1),
   (0x103, .wakeArm, lenIs 2), (0x104, .wakeRecordRead, lenIs 0), (0x105, .padRelease, lenIs 2),
   (0x106, .oppointSet, lenIs 1), (0x107, .bodConfig, lenIs 1), (0x108, .retainSet, lenIs 1), (0x201, .ntSet, lenIs 3),
   (0x202, .ntCapture, lenIs 0), (0x203, .ppsConfig, lenIs 2), (0x204, .ppsStatus, lenIs 0), (0x205, .ntSlew, lenIs 2),
   (0x206, .ntJump, lenIs 3), (0x301, .rfConfig, lenIs 5), (0x302, .calRun, lenIs 2), (0x303, .calRead, lenIs 1),
   (0x304, .txshapeSet, fun ps => ps.length = if bitAt (param ps 1) 24 then 25 else 1),
   (0x305, .femSeqSet, fun ps => if fld (param ps 1) 2 0 = 4 then ps.length = 2 else decide (1 ≤ ps.length) && ps.length = 1 + fld (param ps 1) 11 8),
   (0x306, .regionLoad, fun ps => decide (1 ≤ ps.length) && ps.length = 1 + 3 * fld (param ps 1) 4 0 + 2 * fld (param ps 1) 11 8)]

/-- Opcodes 0x400 to 0x5FF. -/
def commandsModem : List (Nat × (Packet → Instr) × (List Word → Bool)) :=
  [(0x401, .phyProfileSet, lenIs 3),
   (0x402, .txSubmit, fun ps => decide (8 ≤ ps.length) && ps.length = 8 + (fld (param ps 4) 10 0 + 3) / 4),
   (0x403, .txCancel, lenIs 1), (0x404, .rxStart, lenIs 1), (0x405, .rxStop, lenIs 1),
   (0x406, .blvdConfig, fun ps => decide (3 ≤ ps.length) && ps.length = 3 + 2 * fld (param ps 1) 4 0),
   (0x407, .loadmapSet, fun ps => decide (2 ≤ ps.length) && ps.length = 2 + 9 * fld (param ps 1) 20 16),
   (0x40A, .laneDrop, lenIs 1), (0x501, .linkAdd, fun ps => ps.length = if bitAt (param ps 1) 24 then 18 else 14),
   (0x502, .linkDel, lenIs 3), (0x503, .linkRead, lenIs 3),
   (0x504, .addrAssign, fun ps => ps.length = if bitAt (param ps 1) 3 then 1 else 19), (0x505, .dirConfig, lenIs 3),
   (0x506, .dirSnapshot, fun ps => decide (3 ≤ ps.length)), (0x507, .rdvSet, lenIs 6), (0x508, .rdvClear, lenIs 1),
   (0x509, .beaconConfig, fun ps => ps.length = if bitAt (param ps 1) 3 then 23 else 6)]

/-- Opcodes 0x600 to 0x7FF. -/
def commandsTraffic : List (Nat × (Packet → Instr) × (List Word → Bool)) :=
  [(0x601, .queueConfig, lenIs 1),
   (0x602, .meterSet, fun ps => if bitAt (param ps 1) 2 then ps.length = 2 else ps.length = 6),
   (0x603, .gatelistLoad, fun ps => decide (5 ≤ ps.length) && ps.length = 5 + 2 * fld (param ps 1) 8 0),
   (0x604, .gatelistStatus, lenIs 0),
   (0x605, .budgetLoad, fun ps => decide (2 ≤ ps.length) && ps.length = 2 + 2 * fld (param ps 1) 8 4),
   (0x606, .budgetRead, lenIs 1), (0x701, .keyLoad, keyLoadLen), (0x702, .keyDerive, deriveLen),
   (0x703, .keyZero, lenIs 1), (0x704, .cipherRun, cipherLen), (0x705, .attest, attestLen),
   (0x706, .lifecycleAdvance, fun ps => ps.length = 1 || ps.length = 33),
   (0x707, .debugUnlock, fun ps => ps.length = 1 || ps.length = 33), (0x708, .rngRead, lenIs 1),
   (0x709, .ecdhRun, fun ps => ps.length = if bitAt (param ps 1) 0 then 17 else 1), (0x70A, .signRun, lenIs 9),
   (0x70B, .verifyRun, lenIs 41)]

/-- Opcodes from 0x800. -/
def commandsStorage : List (Nat × (Packet → Instr) × (List Word → Bool)) :=
  [(0x801, .flashProgram, fun ps => decide (2 ≤ ps.length) && ps.length = 2 + 4 * fld (param ps 2) 8 0),
   (0x802, .flashErase, lenIs 2), (0x803, .flashSuspend, lenIs 0), (0x804, .flashResume, lenIs 0),
   (0x805, .protectSet, lenIs 2),
   (0x806, .protectUnlock, fun ps => decide (1 ≤ ps.length) && ps.length = (if bitAt (param ps 1) 0 then 1 else 5)),
   (0x807, .otpRead, lenIs 1),
   (0x808, .otpProgram, fun ps => decide (1 ≤ ps.length) && ps.length = 1 + fld (param ps 1) 19 16),
   (0x809, .flashStatus, lenIs 2), (0x901, .updBegin, lenIs 2),
   (0x902, .updChunk, fun ps => decide (2 ≤ ps.length) && ps.length = 2 + fld (param ps 2) 12 0 / 4),
   (0x903, .updVerify, lenIs 0), (0x904, .updActivate, lenIs 1), (0x905, .updCommit, lenIs 0),
   (0x906, .updAbort, lenIs 0),
   (0x907, .settingsWrite, fun ps => decide (2 ≤ ps.length) && ps.length = 2 + ceilDiv (fld (param ps 2) 26 16) 4),
   (0x908, .settingsRead, lenIs 1),
   (0xA01, .kerbLoad, fun ps => decide (4 ≤ ps.length) && ps.length = 4 + fld (param ps 1) 6 0),
   (0xA02, .kerbStart, lenIs 1), (0xA03, .kerbStop, lenIs 0), (0xA04, .kerbLogRead, lenIs 1),
   (0xB01, .ctxTest, lenIs 2), (0xB02, .bistRun, lenIs 1), (0xB03, .loopback, lenIs 3), (0xB04, .bgPause, lenIs 1),
   (0xB05, .bgConfig, lenIs 1)]

/-- The whole command index. -/
def commandTable : List (Nat × (Packet → Instr) × (List Word → Bool)) :=
  commandsLow ++ commandsModem ++ commandsTraffic ++ commandsStorage

/-- The application core executes the instruction at its pc now, and b is the state with that instruction fetched. -/
def Executes (s b : State) : Prop :=
  coreRuns s = true ∧ fetchError s s.core.pc.toNat = none ∧
  b = fetchAt { s with core.waiting := false, core.cycles := s.core.cycles + 1 }

/-- Register r may be read or written: no load or multiply has still to write it (R348, R349). -/
def settledIn (b : State) (r : BitVec 5) : Prop := r = 0#5 ∨ hasHazard b r = false

/-- What register r reads as: g0 reads 0 (R342). -/
def valueOf (r : BitVec 5) (b : State) : Word := if r = 0#5 then 0#32 else b.core.regs[r.toNat]

/-- Register r written: a write of g0 is discarded (R342). -/
def putReg (r : BitVec 5) (w : Word) (b : State) : State := if r = 0#5 then b else { b with core.regs := b.core.regs.set r.toNat w }

/-- Register r is usable only from distance d on (R348). -/
def usableAt (d : Nat) (r : BitVec 5) (b : State) : State :=
  if r = 0#5 then b else { b with core.hazards := { reg := r, left := d } :: b.core.hazards }

/-- 1 where a condition holds, else 0. -/
def truth (p : Prop) [Decidable p] : Word := if p then 1#32 else 0#32

/-- The three-operand register instructions and what each computes of ra and rb (R345). -/
def threeOperand : List ((BitVec 5 → BitVec 5 → BitVec 5 → Instr) × (Word → Word → Word)) :=
  [(.pbAdd, fun a b => a + b), (.pbSub, fun a b => a - b), (.pbAnd, fun a b => a &&& b), (.pbOr, fun a b => a ||| b),
   (.pbXor, fun a b => a ^^^ b), (.pbNor, fun a b => ~~~(a ||| b)), (.pbSlt, fun a b => truth (a.toInt < b.toInt)),
   (.pbSltu, fun a b => truth (a.toNat < b.toNat)), (.pbSll, fun a b => BitVec.ofNat 32 (a.toNat * 2 ^ (b.toNat % 32))),
   (.pbSrl, fun a b => BitVec.ofNat 32 (a.toNat / 2 ^ (b.toNat % 32))), (.pbSra, fun a b => BitVec.ofInt 32 (a.toInt / 2 ^ (b.toNat % 32))),
   (.pbMin, fun a b => if a.toInt < b.toInt then a else b), (.pbMax, fun a b => if a.toInt < b.toInt then b else a),
   (.pbMinu, fun a b => if a.toNat < b.toNat then a else b), (.pbMaxu, fun a b => if a.toNat < b.toNat then b else a)]

/-- The shifts by a count in the instruction. -/
def shiftsByCount : List ((BitVec 5 → BitVec 5 → BitVec 5 → Instr) × (Word → Nat → Word)) :=
  [(.pbSlli, fun a n => BitVec.ofNat 32 (a.toNat * 2 ^ n)), (.pbSrli, fun a n => BitVec.ofNat 32 (a.toNat / 2 ^ n)),
   (.pbSrai, fun a n => BitVec.ofInt 32 (a.toInt / 2 ^ n))]

/-- The immediate instructions. -/
def immediates : List ((BitVec 5 → BitVec 5 → BitVec 16 → Instr) × (Word → BitVec 16 → Word)) :=
  [(.pbAddi, fun a i => BitVec.ofInt 32 (a.toInt + i.toInt)), (.pbAndi, fun a i => BitVec.ofNat 32 (a.toNat &&& i.toNat)),
   (.pbOri, fun a i => BitVec.ofNat 32 (a.toNat ||| i.toNat)), (.pbXori, fun a i => BitVec.ofNat 32 (a.toNat ^^^ i.toNat)),
   (.pbSlti, fun a i => truth (a.toInt < i.toInt)), (.pbSltiu, fun a i => truth (a.toNat < (i.signExtend 32).toNat))]

/-- The multiplies: rd, ra and rb as read, to the new rd. -/
def multiplies : List ((BitVec 5 → BitVec 5 → BitVec 5 → Instr) × Bool × (Word → Word → Word → Word)) :=
  [(.pbMul, false, fun _ a b => BitVec.ofNat 32 (a.toNat * b.toNat)),
   (.pbMulh, false, fun _ a b => BitVec.ofInt 32 (a.toInt * b.toInt / 2 ^ 32)),
   (.pbMulhu, false, fun _ a b => BitVec.ofNat 32 (a.toNat * b.toNat / 2 ^ 32)),
   (.pbMac, true, fun d a b => d + a * b), (.pbMsu, true, fun d a b => d - a * b)]

/-- The byte address of a load or store: ra + IMM16, sign-extended (R345). -/
def accessAt (ra : BitVec 5) (imm : BitVec 16) (b : State) : Word := valueOf ra b + imm.signExtend 32

/-- The loads: the instruction, its width in bytes, and how what is read is extended (R345). -/
def loads : List ((BitVec 5 → BitVec 5 → BitVec 16 → Instr) × Nat × (Word → Word)) :=
  [(.pbLw, 4, fun w => w), (.pbLh, 2, fun w => BitVec.ofInt 32 (w.setWidth 16).toInt), (.pbLhu, 2, fun w => w &&& 0xFFFF#32),
   (.pbLb, 1, fun w => BitVec.ofInt 32 (w.setWidth 8).toInt), (.pbLbu, 1, fun w => w &&& 0xFF#32)]

/-- The stores and their widths. -/
def stores : List ((BitVec 5 → BitVec 5 → BitVec 16 → Instr) × Nat) := [(.pbSw, 4), (.pbSh, 2), (.pbSb, 1)]

/-- The branches and their conditions (R345). -/
def branches : List ((BitVec 5 → BitVec 5 → BitVec 16 → Instr) × (Word → Word → Bool)) :=
  [(.pbBeq, fun a b => decide (a = b)), (.pbBne, fun a b => decide (a ≠ b)), (.pbBlt, fun a b => decide (a.toInt < b.toInt)),
   (.pbBge, fun a b => decide (b.toInt ≤ a.toInt)), (.pbBltu, fun a b => decide (a.toNat < b.toNat)),
   (.pbBgeu, fun a b => decide (b.toNat ≤ a.toNat))]

/-- A transfer: the delay slot at pc + 4 follows, then the address a (R350). -/
def slotThen (a : Word) (taken : Bool) (status : Option Word) (b : State) : State :=
  age { b with core.pc := b.core.pc + 4, core.slot := some a, core.slotTaken := taken, core.slotStatus := status }

/-- A word pushed (R354): g30 falls by 4 and the word is stored there; none where that raises an exception or g30 is not settled. -/
def pushWord (w : Word) (b : State) : Option State :=
  if hasHazard b 30#5 then none
  else if (b.core.regs[30] - 4).toNat % 4 ≠ 0 then none
  else match busWrite (b.core.regs[30] - 4).toNat 4 w b with
    | .ok t => if hasHazard t 30#5 then none else some { t with core.regs := t.core.regs.set 30 (b.core.regs[30] - 4) }
    | .error _ => none

/-- A word popped (R354): the word at g30, which then rises by 4. -/
def popWord (b : State) : Option (Word × State) :=
  if hasHazard b 30#5 then none
  else if b.core.regs[30].toNat % 4 ≠ 0 then none
  else match busRead b.core.regs[30].toNat 4 b with
    | .ok (w, t) => if hasHazard t 30#5 then none else some (w, { t with core.regs := t.core.regs.set 30 (b.core.regs[30] + 4) })
    | .error _ => none

/-- Words pushed one after the other. -/
def pushWords : List Word → State → Option State
  | [], b => some b
  | w :: ws, b => (pushWord w b).bind (pushWords ws)

/-- One loop set popped, LCn, LEn and LSn in that order, each written as MOVE writes it (R357). -/
def popLoopSet (n : Nat) (b : State) : Option State :=
  (popWord b).bind fun c => (popWord c.2).bind fun e => (popWord e.2).bind fun l =>
    some (writeSr (3 * n) l.1 (writeSr (3 * n + 1) e.1 (writeSr (3 * n + 2) c.1 l.2)))

/-- The sets of a mask popped, the highest first. -/
def popLoopSets (mask : BitVec 3) (b : State) : Option State :=
  let one (n : Nat) (b : State) : Option State := if mask.getLsbD n then popLoopSet n b else some b
  (one 2 b).bind fun b2 => (one 1 b2).bind fun b1 => one 0 b1

/-- An entry's frame is written and its vector read (R356): g30 falls by 8, the resume address goes to g30 + 4 and STATUS to
g30, and the aligned address w is read from vector word v; t is the state after that. -/
def Framed (v : Nat) (resume status : Word) (s : State) (w : Word) (t : State) : Prop :=
  let sp := s.core.regs[30] - 8
  sp.toNat % 4 = 0 ∧ w.toNat % 4 = 0 ∧ ∃ s1 s2, busWrite (sp + 4).toNat 4 resume s = .ok s1 ∧ busWrite sp.toNat 4 status s1 = .ok s2 ∧
    busRead (s.core.vbase + BitVec.ofNat 32 (4 * v)).toNat 4
      { s2 with core.regs := s2.core.regs.set 30 sp, core.hazards := [], core.specHazards := [] } = .ok (w, t)

/-- No loop ends at the pc. -/
def noLoopEnd (s : State) : Prop := ∀ n : Fin 3, s.core.le[n] ≠ s.core.pc ∨ s.core.lc[n] = 0#32

/-- The transfers, LOOP and LOOPI. -/
def isTransfer (i : Instr) : Prop :=
  (∃ ra rb off, i = .pbBeq ra rb off ∨ i = .pbBne ra rb off ∨ i = .pbBlt ra rb off ∨ i = .pbBge ra rb off ∨ i = .pbBltu ra rb off ∨
    i = .pbBgeu ra rb off) ∨ (∃ off, i = .pbJmp off ∨ i = .pbCall off) ∨ (∃ ra, i = .pbJr ra ∨ i = .pbCallr ra) ∨ i = .pbRet ∨
  i = .pbReti ∨ (∃ n ra len, i = .pbLoop n ra len) ∨ (∃ n cnt len, i = .pbLoopi n cnt len)

/-- TRAP, WAIT and BREAK. -/
def isSystem (i : Instr) : Prop := (∃ code, i = .pbTrap code) ∨ i = .pbWait ∨ i = .pbBreak

/-- An activation ends without a flip: HANDOVER_DONE with that status; the package stays staged, and DOMAIN_SET commands that waited
for a handover are done (R12, R461, R462). -/
def activationEnds (a : Activation) (st : Status) (s : State) : State :=
  afterHandover (completeEvent a.port 0x080 a.handle (handoverWords a.handle st 0 0 0 s.time.nt) { s with upd.act := none })

/-- A quantum of this activity is performed: it is due and nothing holds it (R475, R477). -/
def Quantum (a : Activity) (s : State) : Prop := quantumMay a s = true

/-- After a quantum its activity is not urgent, and its next one is due a period later (R475; the even spacing, log 75). -/
def afterQuantum (a : Activity) (s : State) : State := { s with
  bg.urgent := s.bg.urgent &&& ~~~(1#5 <<< activityBit a)
  bg.dueAt := s.bg.dueAt.set (activityIdx a)
    (if a = .compaction then s.elapsed.now else s.bg.dueAt[activityIdx a] + BitVec.ofNat 64 (quantumPeriod a s)) }

/-- The Kerb performs the step word w, of operation op, of a pass in progress; no KERB_STOP waits for the pass (R447, R448). -/
def AtStep (op : Nat) (w : Word) (s : State) : Prop :=
  s.kerb.running = true ∧ s.kerb.inPass = true ∧ s.isUsable dKERB = true ∧ s.kerb.stopWait = [] ∧ w = s.kerb.prog.getD s.kerb.step 0#32 ∧
  w.toNat / 2 ^ 28 = op

/-- A pass ends (R447, R451): it is counted, and the variables are shown; an overrun counts up to 255. -/
def passEnds (overrun : Bool) (s : State) : State :=
  { s with kerb.inPass := false, kerb.passes := s.kerb.passes + 1, kerb.shown := s.kerb.vars
           kerb.overrun := if overrun && s.kerb.overrun ≠ 0xFF#8 then s.kerb.overrun + 1 else s.kerb.overrun }

/-- A step is done: the step n follows, or the pass ends with an overrun at its 256th step (R447). -/
def stepDone (n : Nat) (s : State) : State :=
  if s.kerb.executed < 255 then { s with kerb.executed := s.kerb.executed + 1, kerb.step := n % 64 }
  else passEnds true { s with kerb.executed := s.kerb.executed + 1 }

/-- The variables that a step names: D [27:25], S [24:22]. -/
def varD (w : Word) : Fin 8 := Fin.ofNat 8 (fld w 27 25)

def varS (w : Word) : Fin 8 := Fin.ofNat 8 (fld w 24 22)

/-- Saturation at −32,768 and +32,767. -/
def saturated (x : Int) : BitVec 16 := BitVec.ofInt 16 (max (-32768) (min 32767 x))

/-- VD takes a value and the next step follows. -/
def setVar (w : Word) (v : BitVec 16) (s : State) : State :=
  stepDone (s.kerb.step + 1) { s with kerb.vars := s.kerb.vars.set (varD w) v }

/-- The steps that compute VD from VD, VS and the step word (R448). -/
def valueSteps : List (Instr × Nat × (Int → Int → Word → BitVec 16)) :=
  [(.kerbLoadi, 5, fun _ _ w => BitVec.ofNat 16 w.toNat), (.kerbAdd, 6, fun d s _ => saturated (d + s)),
   (.kerbSub, 7, fun d s _ => saturated (d - s)), (.kerbAbsd, 8, fun d s _ => saturated (if s ≤ d then d - s else s - d)),
   (.kerbIir, 9, fun d s w => saturated (d + (s - d) / 2 ^ (w.toNat % 16))), (.kerbMov, 15, fun _ s _ => BitVec.ofInt 16 s)]

end Statements

end Sys2Proof
end

