-- ==== Sys2Proof/Certificates/Slice0/Obligations.lean ====
section
/-! DEFINITION. The statements for the provers, one Prop each. A statement made of parts names them; each part's docstring cites the
rules of the spec that it formalises. -/

section
open Sys2Proof Sys2Proof.Machine Sys2Proof.Statements

/-- Log 1: a step takes the front command and runs exec on it with the rest of the queue; on an empty queue it is one tick. -/
def Obligations.StepRunsTheFrontCommand : Prop :=
  (∀ c rest (s : State), step { s with pending := c :: rest } = exec c { s with pending := rest }) ∧
  (∀ s, s.pending = [] → step s = .next (tick s))

/-- R350, R353: no command is refused, and only a PB32 instruction in a delay slot or at the end of an active loop can stop the machine. -/
def Obligations.CommandsCompleteOutsideUndefinedPlaces : Prop :=
  (∀ i s, s.core.slot = none → noLoopEnd s → ∃ t, exec i s = .next t) ∧ (∀ i s r, exec i s ≠ .refused r)

/-- R25, R27, R53, R58, R59, R60, R75, R81, R306, R318: the values that the spec gives the device right after a power-on reset. NT is 0 and not
set, the step registers hold their nominal values, every drift bin has EST 0 and BOUND 0xA7C5B, every marker is disarmed, every capture unit
is empty, every basic timer is stopped with PERIOD 0xFFFFFFFF; every Lane is empty and no tag is outstanding; each host port has every
defined event enabled and the mailbox none; the ledger is zero; no key slot is filled; nothing waits in the queue, and HOST_RDY is low. -/
def Obligations.ResetStateHoldsItsValues : Prop :=
  let s := State.reset
  s.pending = [] ∧ s.time.nt = 0#64 ∧ s.time.isSet = false ∧ s.time.onLf = false ∧ s.time.adj = 0#32 ∧ s.time.ppsState = .off ∧
  s.time.stepHf = 0x0086#16 ++ 0x37BD05AF#32 ∧ s.time.stepLf = 0x20000#20 ++ 0x000000#24 ∧
  (∀ b : Fin 8, s.time.bins[b].est = 0#32 ∧ s.time.bins[b].bound = 0xA7C5B#24 ∧ s.time.bins[b].samples = 0#8) ∧
  (∀ n : Fin 16, bitAt s.cmps.marks[n].ctrl 0 = false) ∧
  (∀ u : Fin 4, s.cmps.caps[u].new = false ∧ s.cmps.caps[u].slot = none ∧ bitAt s.cmps.caps[u].ctrl 0 = false) ∧
  (∀ n : Fin 8, s.peri.bt[n].running = false ∧ s.peri.bt[n].period = 0xFFFFFFFF#32 ∧ s.peri.bt[n].count = 0#32) ∧
  (∀ p : PortId, (s.port p).tags = [] ∧ ∀ i : Fin 5, (s.port p).lanes[i].stages = []) ∧
  (s.port .spi).mask = definedEvents ∧ (s.port .uart).mask = definedEvents ∧ (s.port .mbx).mask = 0#256 ∧
  s.ledger = {} ∧ (∀ n : Fin 32, s.sec.slots[n] = none) ∧ s.plaza.rdy = false ∧ s.inRun = false

/-- The state after a power-on reset meets the invariant: canonical memories, a balanced ledger (R306), Lanes within 64 stages (R75). -/
def Obligations.ResetMeetsTheInvariant : Prop := Invariant State.reset

/-- R75, R306: from every state that meets the invariant, whatever the front command and on an empty queue, a step that answers a next state
answers one that meets it: the memories stay canonical, SUBMITTED stays equal to PENDING plus the outcomes, Lanes stay within 64 stages. -/
def Obligations.EveryStepKeepsTheInvariant : Prop := ∀ s t, Invariant s → step s = .next t → Invariant t

/-- Log 1: a step takes the front command from the queue and no command adds to the queue, drops from it or reorders it. -/
def Obligations.StepTakesOnlyTheFront : Prop :=
  (∀ c rest s t, s.pending = c :: rest → step s = .next t → t.pending = rest) ∧
  (∀ s t, s.pending = [] → step s = .next t → t.pending = [])

/-- R407: no step clears an OTP bit that is programmed. -/
def Obligations.OtpBitsStaySet : Prop := ∀ s t, step s = .next t → OtpGrows s t

/-- R20: on a KR9680 without a directory configured, while the link table holds any entry, STOP_ENTER is refused with BAD_STATE and DOMAIN_SET
switching XMEM off with DOMAIN_BUSY; one that comes during a handover waits for its end (R12) and is refused then. -/
def Obligations.StopNeedsAPlaceForLinks : Prop :=
  Does 0x101 .stopEnter (fun c b => c.ps.length = 0 ∧ b.is80 = true ∧ dirCfg b = none ∧ b.link.links ≠ [] ∧ stopBusy b = false ∧
      b.power.bodWarn = false)
    (fun c b => finish c .badState [] b) ∧
  (∀ w, Does 0x102 .domainSet (fun c b => c.ps = [w] ∧ XmemOff w b ∧ b.on dXMEM = true ∧ b.is80 = true ∧ dirCfg b = none ∧
      b.link.links ≠ [] ∧ b.upd.hand = none)
    (fun c b => finish c .domainBusy [] b)) ∧
  (∀ h w, Does 0x102 .domainSet (fun c b => c.ps = [w] ∧ bitAt w dXMEM = true ∧ b.upd.hand = some h)
    (fun c b => { b with upd.hand := some { h with domainSets := h.domainSets ++ [(c.port, c.tag, w)] } })) ∧
  (∀ h w s c, s.upd.hand = some h → h.domainSets = [(c.port, c.tag, w)] → c.code = 0x102 → c.ps = [w] → XmemOff w s → s.on dXMEM = true →
    s.is80 = true → dirCfg s = none → s.link.links ≠ [] → afterHandover s = finish c .domainBusy [] { s with upd.hand := none })

/-- R27, R28: one tick of NT's source clock adds the source's step to NT together with its sub-unit accumulator, as one 128-bit sum, so no
fraction is lost: on HFXO NTC_STEP_HF × (1 + NTC_ADJ × 2^-32), on LFXO NTC_STEP_LF. The reset steps are the nominal register values. -/
def Obligations.TickAdvancesNetworkTime : Prop :=
  (∀ s, s.pending = [] → s.time.onLf = false → s.time.slew = none → ∃ t, step s = .next t ∧
    t.time.nt ++ t.time.ntSub = (s.time.nt ++ s.time.ntSub) +
      BitVec.ofNat 128 (s.time.stepHf.toNat * ((2 : Int) ^ 32 + s.time.adj.toInt).toNat)) ∧
  (∀ s, s.pending = [] → s.time.onLf = true → ∃ t, step s = .next t ∧
    t.time.nt ++ t.time.ntSub = (s.time.nt ++ s.time.ntSub) + BitVec.ofNat 128 (s.time.stepLf.toNat * 2 ^ 40)) ∧
  State.reset.time.stepHf = 0x0086#16 ++ 0x37BD05AF#32 ∧ State.reset.time.stepLf = 0x20000#20 ++ 0x000000#24

/-- R49: a capture event fills the readable value while it is consumed and not frozen, else the pending slot, else it is discarded, CP_OVR is
set and LOST counts up; SWTRIG and the selected hardware source of an enabled unit place such an event. -/
def Obligations.CaptureUnitsKeepTheOldest : Prop :=
  (∀ (u : Fin 4) v s, s.cmps.caps[u].moveDue = false →
    let c := s.cmps.caps[u]
    let t := captureAt u v s
    (c.new = false → c.frozen = false → t.cmps.caps[u].value = v ∧ t.cmps.caps[u].new = true ∧ t.cmps.caps[u].slot = c.slot ∧
      t.cmps.caps[u].lost = c.lost) ∧
    ((c.new = true ∨ c.frozen = true) → c.slot = none → t.cmps.caps[u].value = c.value ∧ t.cmps.caps[u].slot = some v ∧
      t.cmps.caps[u].lost = c.lost) ∧
    (∀ w, (c.new = true ∨ c.frozen = true) → c.slot = some w → t.cmps.caps[u].value = c.value ∧ t.cmps.caps[u].slot = some w ∧
      t.cmps.caps[u].ovr = true ∧ t.cmps.caps[u].lost = satInc16 c.lost)) ∧
  (∀ (u : Fin 4) s, pageOpen s 0 = true → (if u = 0 then s.time.enable else bitAt s.cmps.caps[u].ctrl 0) = true →
    exec (.swtrig u) s = .next (captureAt u s.time.nt s)) ∧
  (∀ (k : Fin 3) s, bitAt s.cmps.caps[k.val + 1].ctrl 0 = true → 1 ≤ fld s.cmps.caps[k.val + 1].ctrl 4 2 →
    fld s.cmps.caps[k.val + 1].ctrl 4 2 ≤ 4 → exec (.capture k) s = .next (captureAt ⟨k.val + 1, by omega⟩ s.time.nt s))

/-- R474: SETTINGS_READ reports the presence and format of a device item, the VERSION, LEN and data of a customer record, NO_ENTRY for an
absent one, and BAD_PARAM where [31:16] is not 0; it changes nothing. -/
def Obligations.SettingsReadReports : Prop :=
  Answers 0x908 .settingsRead (fun c b => c.ps.length = 1 ∧ (param c.ps 1).toNat < 8 ∧
      (itemBits b.upd.settings).testBit (param c.ps 1).toNat = true) .ok
    (fun c _ => [(Config.itemFormat (param c.ps 1).toNat).setWidth 32]) (fun _ b => b) ∧
  Answers 0x908 .settingsRead (fun c b => c.ps.length = 1 ∧ (param c.ps 1).toNat < 8 ∧
      (itemBits b.upd.settings).testBit (param c.ps 1).toNat = false) .noEntry (fun _ _ => []) (fun _ b => b) ∧
  (∀ r, Answers 0x908 .settingsRead (fun c b => c.ps.length = 1 ∧ 8 ≤ (param c.ps 1).toNat ∧ (param c.ps 1).toNat < 65536 ∧
      (b.upd.settings.customer.find? fun r => r.1.toNat = (param c.ps 1).toNat) = some r) .ok
    (fun _ _ => W (r.2.1.toNat + r.2.2.length * 2 ^ 16) :: packLE r.2.2) (fun _ b => b)) ∧
  Answers 0x908 .settingsRead (fun c b => c.ps.length = 1 ∧ 8 ≤ (param c.ps 1).toNat ∧ (param c.ps 1).toNat < 65536 ∧
      (b.upd.settings.customer.find? fun r => r.1.toNat = (param c.ps 1).toNat) = none) .noEntry (fun _ _ => []) (fun _ b => b) ∧
  Answers 0x908 .settingsRead (fun c _ => c.ps.length = 1 ∧ 65536 ≤ (param c.ps 1).toNat) .badParam (fun _ _ => []) (fun _ b => b)

/-- R412: PROTECT_SET writes the named region and nothing else; a reserved bit, FIRST above LAST or a LAST in the common region is BAD_PARAM, and
a port that is not unlocked while a password hash is programmed is DENIED. -/
def Obligations.ProtectSetGuardsRegions : Prop :=
  Answers 0x805 .protectSet (fun c b =>
      let w := param c.ps 2
      c.ps.length = 2 ∧ (param c.ps 1).toNat < 64 ∧ onlyBits w 0x01FF01FF#32 = true ∧ fld w 8 0 ≤ fld w 24 16 ∧
      fld w 24 16 < 2 * b.bankSectors ∧ (passwordSet b = true → b.flash.unlocked[portIdx c.port] = true) ∧ b.power.bodWarn = false) .ok
    (fun _ _ => [])
    (fun c b =>
      let w := param c.ps 2
      let r : ProtRegion := { first := BitVec.ofNat 9 (fld w 8 0), last := BitVec.ofNat 9 (fld w 24 16)
                              en := bitAt (param c.ps 1) 3, wp := bitAt (param c.ps 1) 4, rp := bitAt (param c.ps 1) 5 }
      { b with flash.prot := b.flash.prot.set (Fin.ofNat 8 (fld (param c.ps 1) 2 0)) r }) ∧
  Answers 0x805 .protectSet (fun c b => c.ps.length = 2 ∧ (64 ≤ (param c.ps 1).toNat ∨ onlyBits (param c.ps 2) 0x01FF01FF#32 = false ∨
      fld (param c.ps 2) 24 16 < fld (param c.ps 2) 8 0 ∨ 2 * b.bankSectors ≤ fld (param c.ps 2) 24 16)) .badParam
    (fun _ _ => []) (fun _ b => b) ∧
  Answers 0x805 .protectSet (fun c b =>
      let w := param c.ps 2
      c.ps.length = 2 ∧ (param c.ps 1).toNat < 64 ∧ onlyBits w 0x01FF01FF#32 = true ∧ fld w 8 0 ≤ fld w 24 16 ∧
      fld w 24 16 < 2 * b.bankSectors ∧ passwordSet b = true ∧ b.flash.unlocked[portIdx c.port] = false) .denied
    (fun _ _ => []) (fun _ b => b)

/-- R137, R142, R167: scrambling twice with one seed gives the bits back; the Gray code determines its value; a message is divided into the number of codewords asked for; the
first outputs for NETID 0x5A3 are those of the manual's example. -/
def Obligations.PhyCodingInverts : Prop :=
  (∀ r bs, scramble15 r (scramble15 r bs) = bs) ∧
  (∀ a b, gray a = gray b → a = b) ∧
  (∀ t n big sz bs, (rsSplit t n big sz bs).length = n) ∧
  (∀ b : Bool, scramble15 (scrambleSeed 0x5A3#12) (List.replicate 8 b) = [b, b, !b, !b, !b, !b, b, !b])

/-- The system commands end at once with the results of R95, R246, R247, R307 and R449. -/
def Sys2Proof.Statements.systemCommandsAnswer : Prop :=
  Answers 0x001 .ping (fun c _ => c.ps.length ≤ 1022) .ok (fun c _ => c.ps) (fun _ b => b) ∧
  Answers 0x002 .devInfo (fun c _ => c.ps.length = 0) .ok
    (fun _ b => [W (b.power.variant.toNat + 0x0B * 256 + lifecycleCode b.lifecycle * 65536 + b2n b.flash.hostApp * 262144),
      lo32 b.eui, hi32 b.eui, ((activeImage b).map (·.linkVersion)).getD 0, ((activeImage b).map (·.appVersion)).getD 0])
    (fun _ b => b) ∧
  Answers 0x003 .softReset (fun c _ => c.ps.length = 0) .ok (fun _ _ => [])
    (fun c b => let l := (b.port c.port).lanes[laneResp]
      { b with plaza.resetDue := some ⟨c.port, l.out + l.stages.length + l.waiting.length + 2, none⟩ }) ∧
  Answers 0x004 .ledgerRead (fun c _ => c.ps = [0]) .ok (fun _ b => ledgerWords (b.ledger.app.add b.ledger.fw)) (fun _ b => b) ∧
  Answers 0x004 .ledgerRead (fun c _ => c.ps = [1]) .ok (fun _ b => ledgerWords b.ledger.app) (fun _ b => b) ∧
  Answers 0x004 .ledgerRead (fun c _ => c.ps = [2]) .ok (fun _ b => ledgerWords b.ledger.fw) (fun _ b => b) ∧
  Answers 0x005 .statsRead (fun c b => ∃ g : Nat, g ≤ 4 ∧ (g = 1 → b.is20 = false) ∧ c.ps = [W g]) .ok
    (fun c b => statsWords (param c.ps 1).toNat b) (fun _ b => b) ∧
  Answers 0x005 .statsRead (fun c b => ∃ g : Nat, g ≤ 4 ∧ (g = 1 → b.is20 = false) ∧ c.ps = [W (g + 8)]) .ok
    (fun c b => statsWords ((param c.ps 1).toNat - 8) b) (fun c b => clearStats ((param c.ps 1).toNat - 8) b) ∧
  Answers 0x006 .eventMask (fun c _ => c.ps.length = 9 ∧ maskOf c.ps &&& ~~~definedEvents = 0#256 ∧ param c.ps 9 ≤ 1#32) .ok
    (fun _ _ => [])
    (fun c b => b.setPort c.port { b.port c.port with mask := maskOf c.ps, diagEn := param c.ps 9 = 1#32 }) ∧
  Answers 0x007 .telemetryRead (fun c _ => c.ps.length = 0) .ok
    (fun _ b => [b.bg.scrubPasses, b.bg.scrubCorrected, b.bg.refreshMargin, b.bg.urgentCount, b.bg.drains, b.bg.drainMs,
      b.bg.pauseMs, W (b.bg.temp.toNat + b.bg.vbat.toNat * 65536)]) (fun _ b => b)

/-- The power commands: what each does when none of its refusals of R420 to R435 applies. -/
def Sys2Proof.Statements.powerCommandsAnswer : Prop :=
  Does 0x101 .stopEnter (fun c b => c.ps.length = 0 ∧ stopBusy b = false ∧ b.power.bodWarn = false ∧ noKeeping b = false ∧
      canWake b = true)
    (fun c b =>
      let kept := budgetWrite (if b.isUsable dXMEM then flushDirty 0 (2 ^ 24) b else b)
      finish c .ok [] { kept with
        power.phase := .entering, power.stopPort := some c.port, power.heldWake := 0, power.heldDetail := 0 }) ∧
  Does 0x102 .domainSet (fun c b => c.ps.length = 1 ∧ b.upd.hand ≠ none ∧
      (bitAt (param c.ps 1) dXMEM = true ∨ (bitAt (param c.ps 1) dRFFE = true ∧ bitAt (param c.ps 1) 12 = true)))
    (fun c b => { b with upd.hand := b.upd.hand.map fun h =>
      { h with domainSets := h.domainSets ++ [(c.port, c.tag, param c.ps 1)] } }) ∧
  Does 0x102 .domainSet (fun c b => c.ps.length = 1 ∧ b.upd.hand = none ∧ onlyBits (param c.ps 1) 0x1FFE#32 = true ∧ bitAt (param c.ps 1) 12 = true ∧
      (param c.ps 1).setWidth 12 ≠ 0#12 ∧ (param c.ps 1).setWidth 12 &&& ~~~b.present = 0#12 ∧
      closed (b.power.domains ||| (param c.ps 1).setWidth 12) = true ∧ (bitAt (param c.ps 1) dBLVD = true → b.power.lp = false))
    (fun c b => answerDomains { b with
      power.domains := b.power.domains ||| (param c.ps 1).setWidth 12
      power.onAt := stampOn ((b.power.domains ||| (param c.ps 1).setWidth 12) &&& ~~~b.power.domains) b
      power.domainOps := b.power.domainOps ++ [⟨c.port, c.tag, (param c.ps 1).setWidth 12⟩] }) ∧
  Answers 0x102 .domainSet (fun c b => c.ps.length = 1 ∧ b.upd.hand = none ∧ onlyBits (param c.ps 1) 0xFF2#32 = true ∧
      (param c.ps 1).setWidth 12 ≠ 0#12 ∧ (bitAt (param c.ps 1) dAPP = true → b.flash.hostApp = false) ∧
      closed (b.power.domains &&& ~~~(param c.ps 1).setWidth 12) = true ∧
      ∀ n < 12, ((param c.ps 1).setWidth 12 &&& b.power.domains).getLsbD n = true →
        domainBusy n b = false ∧ ∀ ch, dmaUses b n ch = false) .ok
    (fun c b => domainWords 0 (answerDomains (switchOff ((param c.ps 1).setWidth 12) b)))
    (fun c b => answerDomains (switchOff ((param c.ps 1).setWidth 12) b)) ∧
  Answers 0x103 .wakeArm (fun c _ => c.ps.length = 2 ∧ onlyBits (param c.ps 1) 0x3FFF#32 = true ∧
      onlyBits (param c.ps 2) 0xFFFF#32 = true) .ok (fun _ _ => [])
    (fun c b => { b with power.wakeArm := (param c.ps 1).setWidth 14, power.kerbCodes := (param c.ps 2).setWidth 16 }) ∧
  Answers 0x104 .wakeRecordRead (fun c _ => c.ps.length = 0) .ok (fun _ b => wakeWords b.power.wake) (fun _ b => b) ∧
  Answers 0x105 .padRelease (fun c b => c.ps.length = 2 ∧ b.isUsable dPERI = false ∧
      ∀ k ∈ allPins, (mk64 (param c.ps 1) (param c.ps 2)).getLsbD k = true → pinPresent b k.val = true) .ok
    (fun _ b => words64 b.pads.latched) (fun _ b => b) ∧
  Answers 0x105 .padRelease (fun c b => c.ps.length = 2 ∧ b.isUsable dPERI = true ∧
      ∀ k ∈ allPins, (mk64 (param c.ps 1) (param c.ps 2)).getLsbD k = true → pinPresent b k.val = true) .ok
    (fun c b => words64 (withEdges (fun x => { x with
      pads.latched := x.pads.latched &&& ~~~mk64 (param c.ps 1) (param c.ps 2) }) b).pads.latched)
    (fun c b => withEdges (fun x => { x with pads.latched := x.pads.latched &&& ~~~mk64 (param c.ps 1) (param c.ps 2) }) b) ∧
  Answers 0x106 .oppointSet (fun c b => c.ps = [W (b2n b.power.lp)] ∧ b.power.oppWait = none) .ok (fun _ _ => []) (fun _ b => b) ∧
  Does 0x106 .oppointSet (fun c b => c.ps = [W (b2n !b.power.lp)] ∧ b.power.oppWait = none ∧ (b.power.lp = false → b.on dBLVD = false))
    (fun c b => { b with power.oppWait := some (c.port, c.tag, !b.power.lp, b.elapsed.now) }) ∧
  Answers 0x107 .bodConfig (fun c _ => c.ps.length = 1 ∧ (param c.ps 1).toNat ≤ 16) .ok (fun _ _ => [])
    (fun c b => { b with power.bodLevel := (param c.ps 1).setWidth 5 }) ∧
  Answers 0x108 .retainSet (fun c b => c.ps.length = 1 ∧ onlyBits (param c.ps 1) 0xFFFF#32 = true ∧
      (param c.ps 1).setWidth 16 &&& ~~~b.bankMask = 0#16) .ok
    (fun c b => [((param c.ps 1).setWidth 16 ||| b.saveBanks).setWidth 32])
    (fun c b => { b with power.retain := (param c.ps 1).setWidth 16 })

/-- Both parts, or all three, above. -/
def Obligations.SystemAndPowerCommandsAnswer : Prop :=
  Sys2Proof.Statements.systemCommandsAnswer ∧ Sys2Proof.Statements.powerCommandsAnswer

/-- The time commands: what each does when none of its refusals of R37 to R41 and R60 to R62 applies. -/
def Obligations.TimeCommandsAnswer : Prop :=
  Answers 0x201 .ntSet (fun c b => c.ps.length = 3 ∧ param c.ps 3 = 0#32 ∧ anyArmed b = false ∧ b.time.setPending = none) .ok
    (fun _ _ => []) (fun c b => { b with time.nt := mk64 (param c.ps 2) (param c.ps 1), time.isSet := true }) ∧
  Does 0x201 .ntSet (fun c b => c.ps.length = 3 ∧ param c.ps 3 = 1#32 ∧ param c.ps 2 = 0#32 ∧ anyArmed b = false ∧
      b.time.enable = true ∧ b.time.setPending = none)
    (fun c b => { b with time.setPending := some ⟨c.port, c.tag, param c.ps 1, b.elapsed.now⟩ }) ∧
  Answers 0x202 .ntCapture (fun c _ => c.ps.length = 0) .ok
    (fun _ b => [lo32 b.time.nt, hi32 b.time.nt, ntcStatus b.time]) (fun _ b => b) ∧
  Answers 0x203 .ppsConfig (fun c _ => c.ps.length = 2 ∧ onlyBits (param c.ps 1) 0x001F1F0F#32 = true ∧
      onlyBits (param c.ps 2) 0xFFFF#32 = true ∧ (bitAt (param c.ps 1) 3 = true → fld (param c.ps 2) 15 0 ≠ 0)) .ok (fun _ _ => [])
    (fun c b =>
      let w := param c.ps 1
      let t := if bitAt w 2 then endSlew b.time else b.time
      ppsRestate { b with time := { t with
        enable := bitAt w 0, pol := bitAt w 1, servo := bitAt w 2, outEn := bitAt w 3, kp := w.extractLsb' 8 5,
        ki := w.extractLsb' 16 5, width := (param c.ps 2).setWidth 16, ppsOut := t.ppsOut && bitAt w 3 } }) ∧
  Answers 0x204 .ppsStatus (fun c _ => c.ps.length = 0) .ok
    (fun _ b => [ntcStatus b.time, b.time.ppsErr, b.time.adj, b.time.integ, b.time.edges, b.time.glitch.setWidth 32])
    (fun _ b => b) ∧
  Answers 0x205 .ntSlew (fun c b => c.ps.length = 2 ∧ 1 ≤ (param c.ps 2).toNat ∧ (param c.ps 2).toNat ≤ 200 ∧ b.time.servo = false) .ok
    (fun _ b => [WI ((b.time.slew.map (·.remainder)).getD 0)])
    (fun c b => { b with time := startSlew (param c.ps 1).toInt (param c.ps 2).toNat b.time }) ∧
  Does 0x206 .ntJump (fun c b => c.ps.length = 3 ∧ (param c.ps 3 = 1#32 ∨ param c.ps 3 = 0#32 ∧ anyArmed b = false))
    (fun c b =>
      let before := b.time.nt
      let after := before + mk64 (param c.ps 1) (param c.ps 2)
      let both := [lo32 before, hi32 before, lo32 after, hi32 after]
      raise 0x0C0 (both ++ [W (lateCount before after b)])
        (finish c .ok both (jumpNt (mk64 (param c.ps 1) (param c.ps 2)) b)))

/-- The radio commands (R112 to R122): what each does when none of its refusals applies. A run's words that were never
measured are free values (log 5). -/
def Obligations.RadioCommandsAnswer : Prop :=
  (∀ r, Answers 0x301 .rfConfig (fun c _ => c.ps.length = 5 ∧ rfOf c.ps = some r) .ok (fun _ _ => [])
    (fun _ b => { b with
      radio.rf := r
      radio.cal.due := if b.radio.rf.extLna ≠ r.extLna || b.radio.rf.extLnaGain ≠ r.extLnaGain then b.radio.cal.due ||| 4#4
        else b.radio.cal.due
      radio.cal.unchanged := b.radio.cal.unchanged && b.radio.rf.ref = r.ref })) ∧
  Does 0x302 .calRun (fun c b => c.ps.length = 2 ∧ b.isUsable dRFFE = true ∧ 1 ≤ (param c.ps 1).toNat ∧ (param c.ps 1).toNat ≤ 15 ∧
      1 ≤ (param c.ps 2).toNat ∧ (param c.ps 2).toNat ≤ 65535 ∧ b.radio.cal.calRun = none ∧ canAccept c.port b = true)
    (fun c b =>
      let h := takeHandle c.port b
      respondAccepted c h.1 { h.2 with
        radio.cal.due := h.2.radio.cal.due ||| (param c.ps 1).setWidth 4
        radio.cal.calRun := some { port := c.port, handle := h.1, select := (param c.ps 1).setWidth 4, since := b.elapsed.now,
                                   waitMax := (param c.ps 2).setWidth 16 } }) ∧
  (∀ k : Fin 4,
    let head (b : State) : List Word :=
      W (b2n b.radio.cal.results[0].valid + b2n b.radio.cal.results[1].valid * 2 + b2n b.radio.cal.results[2].valid * 4 +
          b2n b.radio.cal.results[3].valid * 8 + modeCode b.radio.mode * 16 + b2n b.radio.region.isSome * 128 +
          b.radio.cal.results[k].temp.toNat * 256 + ((b.radio.region.map (·.id.toNat)).getD 0) * 65536) ::
        words64 b.radio.cal.results[k].nt
    Answers 0x303 .calRead (fun c b => c.ps = [W k.val] ∧ b.radio.cal.results[k].valid = true) .ok
      (fun _ b => head b ++ b.radio.cal.results[k].words) (fun _ b => b) ∧
    Answers 0x303 .calRead (fun c b => c.ps = [W k.val] ∧ b.radio.cal.results[k].valid = false) .ok
      (fun _ b => head b ++ (drawWords (blockLen k.val) b).1) (fun _ b => (drawWords (blockLen k.val) b).2)) ∧
  Answers 0x304 .txshapeSet (fun c b => (c.ps.length = if bitAt (param c.ps 1) 24 then 25 else 1) ∧
      onlyBits (param c.ps 1) 0x011F0F1F#32 = true ∧ 2 ≤ fld (param c.ps 1) 4 0 ∧ fld (param c.ps 1) 4 0 ≤ 16 ∧
      fld (param c.ps 1) 11 8 ≤ 8 ∧ fld (param c.ps 1) 20 16 ≤ 16 ∧ turnsOk b.radio.fem (fld (param c.ps 1) 4 0) = true ∧
      txInFlight b = false ∧ b.link.ackOnAir = none) .ok (fun _ _ => [])
    (fun c b => { b with radio.shapeNext := some {
      rampUs := BitVec.ofNat 5 (fld (param c.ps 1) 4 0)
      ofdmWin := BitVec.ofNat 4 (fld (param c.ps 1) 11 8)
      chirpTaper := BitVec.ofNat 5 (fld (param c.ps 1) 20 16)
      fir := if bitAt (param c.ps 1) 24 then firOf (c.ps.drop 1) else (shapeFor b).fir } }) ∧
  (∀ f, Answers 0x305 .femSeqSet (fun c b => fld (param c.ps 1) 2 0 < 4 ∧ c.ps.length = 1 + fld (param c.ps 1) 11 8 ∧
      femOf c.ps b.radio.fem (rampUs b) = some f ∧ (b.radio.mode = .off ∨ b.radio.mode = .idle)) .ok (fun _ _ => [])
    (fun _ b => { b with radio.fem := f })) ∧
  (∀ f, Answers 0x305 .femSeqSet (fun c b => fld (param c.ps 1) 2 0 = 4 ∧ c.ps.length = 2 ∧
      femOf c.ps b.radio.fem (rampUs b) = some f ∧ (b.radio.mode = .off ∨ b.radio.mode = .idle)) .ok (fun _ _ => [])
    (fun _ b => { b with radio.fem := { f with
      pins := (if b.radio.mode = .off then f.offLevel else f.idleLevel) &&& f.drive } })) ∧
  (∀ r, Answers 0x306 .regionLoad (fun c b => c.ps.length = 1 + 3 * fld (param c.ps 1) 4 0 + 2 * fld (param c.ps 1) 11 8 ∧
      regionOf c.ps = some r ∧ b.link.frames = []) .ok (fun _ _ => [])
    (fun c b => takeRegion c.ps r { b with
      radio.cal.due := b.radio.cal.due ||| 8#4, radio.cal.unchanged := false, upd.settings.region := some c.ps }))

/-- The modem commands that set up (R174, R188, R216, R242 to R245): what each does when no refusal applies. -/
def Sys2Proof.Statements.profileAndReceptionCommandsAnswer : Prop :=
  (∀ r, Answers 0x401 .phyProfileSet (fun c b => c.ps.length = 3 ∧
      profileOf b.phy.profiles[Fin.ofNat 16 (fld (param c.ps 1) 3 0)] (param c.ps 1) (param c.ps 2) (param c.ps 3) = some r ∧
      profileInUse b (Fin.ofNat 16 (fld (param c.ps 1) 3 0)) = false) .ok (fun _ _ => [])
    (fun c b => { b with phy.profiles := b.phy.profiles.set (Fin.ofNat 16 (fld (param c.ps 1) 3 0)) r })) ∧
  (∀ maps id, Answers 0x407 .loadmapSet (fun c b => 2 ≤ c.ps.length ∧ c.ps.length = 2 + 9 * fld (param c.ps 1) 20 16 ∧
      loadMaps c.ps b.phy.maps = some (maps, id) ∧ b.power.bodWarn = false) .ok
    (fun _ _ => [W (id.toNat + maps.length * 2 ^ 16)])
    (fun c b =>
      let item : LibraryItem := ⟨maps, id, if bitAt (param c.ps 2) 16 || b.phy.maps.isEmpty then some c.ps else none⟩
      let loaded := setLibraryId id { b with phy.maps := maps }
      extendMr 3 0x32#8 (digestWords c.ps) { loaded with upd.settings.library := some item })) ∧
  Answers 0x404 .rxStart (fun c b => c.ps.length = 1 ∧ onlyBits (param c.ps 1) 0x7E#32 = true ∧
      (∀ d ∈ [dRFFE, dCRYPTO, dXMEM, dALLEY], b.isUsable d = true) ∧
      (b.phy.profiles[Fin.ofNat 16 (fld (param c.ps 1) 4 1)].ofdm = true → b.isUsable dOFDM = true) ∧
      (b.phy.profiles[Fin.ofNat 16 (fld (param c.ps 1) 4 1)].ofdm && bitAt (param c.ps 1) 5) = false ∧
      b.rx.alley = none ∧ (∀ plan, b.rx.plan = some plan → b.rx.blvd = none ∨
        alleyFits b.phy.profiles[Fin.ofNat 16 (fld (param c.ps 1) 4 1)] plan = true)) .ok (fun _ _ => [])
    (fun c b => retuneReceptions { b with rx.alley := some {
      port := c.port, profile := Fin.ofNat 16 (fld (param c.ps 1) 4 1), anyNet := bitAt (param c.ps 1) 5
      monitor := bitAt (param c.ps 1) 6 } }) ∧
  (∀ plan, Answers 0x404 .rxStart (fun c b => (c.ps = [1] ∨ c.ps = [0x41]) ∧
      (∀ d ∈ [dRFFE, dCRYPTO, dXMEM, dBLVD], b.isUsable d = true) ∧
      (∀ width grid, PlanEntry.ofdm width grid ∈ plan.entries → b.isUsable dOFDM = true) ∧ b.rx.plan = some plan ∧
      b.rx.blvd = none ∧ (∀ a, b.rx.alley = some a → alleyFits b.phy.profiles[a.profile] plan = true)) .ok (fun _ _ => [])
    (fun c b => retuneReceptions { b with
      rx.blvd := some { port := c.port, profile := 0, anyNet := false, monitor := bitAt (param c.ps 1) 6 }
      rx.gain := if plan.gainFixed then plan.gain else b.rx.gain
      radio.alleyGain := if plan.gainFixed then plan.gain else b.rx.gain })) ∧
  (∀ (boulevard drain : Bool) r,
    let out (id : CtxId) (x : Context) : Bool := isBlvd id = boulevard && (x.provisional || (!drain && x.st = .committed))
    let count (b : State) := allCtxs.countP fun id => out id (ctxOf id b)
    let left (b : State) := allCtxs.countP fun id => isBlvd id = boulevard && (ctxOf id (releaseWhere out .stopped b)).st = .committed
    let pre (c : Cmd) (b : State) : Prop := c.ps = [W (b2n boulevard + b2n drain * 2)] ∧ pathReception boulevard b = some r ∧
      r.byLink = false ∧ r.draining = none
    Answers 0x405 .rxStop (fun c b => pre c b ∧ left b = 0) .ok (fun _ b => [W (count b)])
      (fun _ b => endReception boulevard (releaseWhere out .stopped b)) ∧
    Does 0x405 .rxStop (fun c b => pre c b ∧ left b ≠ 0) (fun c b =>
      let s1 := releaseWhere out .stopped b
      let waiting := { r with draining := some (c.port, c.tag, count b, left b) }
      if boulevard then { s1 with rx.blvd := some waiting } else { s1 with rx.alley := some waiting })) ∧
  (∀ plan, Answers 0x406 .blvdConfig (fun c b => c.ps.length = 3 + 2 * fld (param c.ps 1) 4 0 ∧ b.isUsable dBLVD = true ∧
      planOf c.ps b = some plan ∧ b.rx.blvd = none) .ok (fun _ _ => []) (fun _ b => { b with rx.plan := some plan })) ∧
  (∀ i : Fin 5,
    Answers 0x40A .laneDrop (fun c b => c.ps = [W (i.val + 1)] ∧ (b.port c.port).lanes[i].cursor = 0) .ok (fun _ _ => [0#32])
      (fun _ b => b) ∧
    Answers 0x40A .laneDrop (fun c b => c.ps = [W (i.val + 1)] ∧ (b.port c.port).lanes[i].cursor ≠ 0) .ok
      (fun c b => [W ((b.port c.port).lanes[i].cursor + 2 ^ 16)])
      (fun c b =>
        let s1 := iterate (dropWord c.port i) (b.port c.port).lanes[i].cursor b
        if i = laneRxHigh ∨ i = laneRxLow then
          s1.setPort c.port { s1.port c.port with rxDropped := satInc (s1.port c.port).rxDropped }
        else s1))

/-- TX_SUBMIT queues a frame and answers ACCEPTED (R242, R304), and TX_CANCEL ends a frame that is still queued (R243). -/
def Sys2Proof.Statements.transmitCommandsAnswer : Prop :=
  (∀ region e, Does 0x402 .txSubmit (fun c b =>
      let f := submittedFrame c 0 (0, 0) b
      let found := txDestination c b
      let frame := submittedFrame c 0 e.id found.2
      8 ≤ c.ps.length ∧ c.ps.length = 8 + (fld (param c.ps 4) 10 0 + 3) / 4 ∧ radioDomains (profileFor f b) b = true ∧
      b.radio.region = some region ∧ b.lifecycle ≠ .retired ∧ submitBad c f b = false ∧
      (admitBand region (profileFor f b)).isSome = true ∧
      ((profileFor f b).ofdm = true → notchOk region (profileFor f b) = true) ∧
      found.1 = .entry e ∧ e.deleting = none ∧ e.outCtr.toNat + e.reserved + 1 < 0xFFFFFFFF ∧
      found.2.link.frames.length < 128 ∧ trafficRefusal frame found.2 = none ∧ canAccept c.port found.2 = true)
    (fun c b =>
      let found := txDestination c b
      let h := takeHandle c.port found.2
      respondAccepted c h.1 (submitFrame { submittedFrame c 0 e.id found.2 with handle := h.1 } h.2))) ∧
  (∀ f, Answers 0x403 .txCancel (fun c b => c.ps.length = 1 ∧ (param c.ps 1).toNat < 65536 ∧
      (b.link.frames.find? fun g => g.kind = .data && g.port = c.port && g.handle = (param c.ps 1).setWidth 16) = some f ∧
      (f.stage = .queued ∨ f.stage = .backOff)) .ok (fun _ _ => []) (fun _ b => endFrame f.fid .cancelled b)) ∧
  (∀ f, Answers 0x403 .txCancel (fun c b => c.ps.length = 1 ∧ (param c.ps 1).toNat < 65536 ∧
      (b.link.frames.find? fun g => g.kind = .data && g.port = c.port && g.handle = (param c.ps 1).setWidth 16) = some f ∧
      f.stage ≠ .queued ∧ f.stage ≠ .backOff) .busy (fun _ _ => []) (fun _ b => b))

/-- Both parts, or all three, above. -/
def Obligations.ReceptionAndTransmitCommandsAnswer : Prop :=
  Sys2Proof.Statements.profileAndReceptionCommandsAnswer ∧ Sys2Proof.Statements.transmitCommandsAnswer

/-- The link-table commands (R244 to R246). -/
def Sys2Proof.Statements.linkTableCommandsAnswer : Prop :=
  (∀ key, Answers 0x501 .linkAdd (fun c b => linkAddMay c b key ∧ bitAt (param c.ps 1) 25 = false ∧
      (placeLink (addedEntry c none key (linkAddMeets c b)) (linkAddMeets c b)).1 = true) .ok (fun _ _ => [])
    (fun c b =>
      let e := addedEntry c none key (linkAddMeets c b)
      writeThrough e.id (placeLink e (linkAddMeets c b)).2)) ∧
  (∀ key old, Answers 0x501 .linkAdd (fun c b => linkAddMay c b key ∧ linkAddReplaces c b = some old) .ok (fun _ _ => [])
    (fun c b =>
      let e := addedEntry c (some old) key (linkAddMeets c b)
      writeThrough e.id (replaceEntry old e (linkAddMeets c b)))) ∧
  (∀ e, Answers 0x502 .linkDel (fun c b => c.ps.length = 3 ∧ tableOn b = true ∧ selectorOk 0x03FFFFFF#32 c.ps = true ∧
      (selectEntry c.ps b).1 = .entry e ∧ e.deleting = none ∧
      ((selectEntry c.ps b).2.link.frames.any fun f => f.link = some e.id) = false) .ok (fun _ _ => [])
    (fun c b => dropLink e (selectEntry c.ps b).2)) ∧
  (∀ e, Does 0x502 .linkDel (fun c b => c.ps.length = 3 ∧ tableOn b = true ∧ selectorOk 0x03FFFFFF#32 c.ps = true ∧
      (selectEntry c.ps b).1 = .entry e ∧ e.deleting = none ∧ bitAt (param c.ps 1) 25 = true ∧
      ((selectEntry c.ps b).2.link.frames.any fun f => f.link = some e.id) = true)
    (fun c b => flushLink e.id
      (updateLink e.id (fun e => { e with deleting := some (c.port, c.tag) }) (selectEntry c.ps b).2))) ∧
  (∀ e, Answers 0x503 .linkRead (fun c b => c.ps.length = 3 ∧ tableOn b = true ∧ selectorOk 0x01FFFFFF#32 c.ps = true ∧
      (if bitAt (param c.ps 1) 24 then linkByEui (mk64 (param c.ps 2) (param c.ps 3)) b
        else linkByShort (BitVec.ofNat 24 (fld (param c.ps 1) 23 0)) b) = some e) .ok
    (fun _ b => linkWords e b.is80) (fun _ b => b)) ∧
  (∀ d, Does 0x503 .linkRead (fun c b =>
      let a : BitVec 24 := BitVec.ofNat 24 (fld (param c.ps 1) 23 0)
      c.ps.length = 3 ∧ tableOn b = true ∧ selectorOk 0x01FFFFFF#32 c.ps = true ∧ bitAt (param c.ps 1) 24 = false ∧
      linkByShort a b = none ∧ dirCfg b = some d ∧ a ≠ groupShort ∧ a ≠ noShort ∧ a ≠ 0#24 ∧ a.toNat ≤ b.dir.highWater)
    (fun c b =>
      let a := fld (param c.ps 1) 23 0
      let t := (xspiFails b).2
      match dirRead d a (xspiFails b).1 t with
      | .entry e => finish c .ok (linkWords e false) t
      | .free => finish c .noEntry [] t
      | .fault n => finish c .directoryFault [] (dirFault a n t)))

/-- The directory, rendezvous, beacon and join commands (R250, R259, R268 to R272). -/
def Sys2Proof.Statements.networkCommandsAnswer : Prop :=
  Does 0x504 .addrAssign (fun c b =>
      c.ps.length = (if bitAt (param c.ps 1) 3 then 1 else 19) ∧ b.is80 = true ∧ b.isUsable dCRYPTO = true ∧ b.sec.ready = true ∧
      b.rdv.joins[(Fin.ofNat 8 (fld (param c.ps 1) 2 0) : Fin 8)] ≠ none)
    (fun c b =>
      let r : PkaReq := ⟨c.port, c.tag, .command 0x504#12 c.ps, if bitAt (param c.ps 1) 3 then 1 else 4⟩
      if b.sec.pka = none then { b with sec.pka := some r } else { b with sec.pkaFirst := b.sec.pkaFirst ++ [r] }) ∧
  (∀ p k, WorkDone 0x504 (fun c b =>
      let i : Fin 8 := Fin.ofNat 8 (fld (param c.ps 1) 2 0)
      bitAt (param c.ps 1) 3 = true ∧ onlyBits (param c.ps 1) 0x1F#32 = true ∧ b.is80 = true ∧
      b.isUsable dCRYPTO = true ∧ tableOn b = true ∧ b.power.bodWarn = false ∧ b.rdv.joins[i] = some p ∧
      slotRefusal b.rdv.cfg.joinSignSlot.val 4 [.p256] b = none ∧ usableSlot b.rdv.cfg.joinSignSlot.val b = some k)
    (fun c b => finish c .ok [0#32] (answerJoin (Fin.ofNat 8 (fld (param c.ps 1) 2 0)) p k.key ([0x03#8] ++ zeros 6 ++ zeros 64) b))) ∧
  (∀ p k a old, WorkDone 0x504 (fun c b =>
      let i : Fin 8 := Fin.ofNat 8 (fld (param c.ps 1) 2 0)
      let node := pair256 (c.ps.drop 3)
      onlyBits (param c.ps 1) 0x17#32 = true ∧ onlyBits (param c.ps 2) 0xFFFFFF#32 = true ∧
      onlyBits (param c.ps 3) 0xFFFF#32 = true ∧ onCurve node.1.toNat node.2.toNat = true ∧ b.is80 = true ∧
      b.isUsable dCRYPTO = true ∧ tableOn b = true ∧ b.power.bodWarn = false ∧ b.rdv.joins[i] = some p ∧
      slotRefusal b.rdv.cfg.joinSignSlot.val 4 [.p256] b = none ∧ usableSlot b.rdv.cfg.joinSignSlot.val b = some k ∧
      verifies node (sha256 (p.request.take 72 ++ bytesOfBE 8 b.eui.toNat)) (pairBytes (p.request.drop 72)).1
        (pairBytes (p.request.drop 72)).2 = true ∧
      onCurve (pairBytes (p.request.drop 4)).1.toNat (pairBytes (p.request.drop 4)).2.toNat = true ∧
      (joinAddress c p b).1 = .ok (a, old) ∧ b.sec.trngOk = true)
    (fun c b => acceptJoin c (Fin.ofNat 8 (fld (param c.ps 1) 2 0)) p k.key a old (joinAddress c p b).2)) ∧
  (∀ d, Answers 0x505 .dirConfig (fun c b => c.ps.length = 3 ∧ b.is80 = true ∧ tableOn b = true ∧ dirConfigOf c.ps = some d ∧
      receptionInForce b = false ∧ b.dir.snapshot = none ∧ dirConfigBlocked (bitAt (param c.ps 1) 1) d b = false) .ok
    (fun _ _ => [])
    (fun c b => { b with
      dir.cfg := some d, upd.settings.dir := some d, dir.epochDue := b.dir.epochDue || d.enable
      dir.highWater := if bitAt (param c.ps 1) 1 then 0 else b.dir.highWater })) ∧
  (∀ d, Does 0x506 .dirSnapshot (fun c b =>
      let restore := bitAt (param c.ps 1) 0
      let num := fld (param c.ps 3) 12 0
      c.ps.length = 3 + (if restore then (if d.ext then 32 else 16) * num else 0) ∧ b.is80 = true ∧ tableOn b = true ∧
      dirCfg b = some d ∧ b.dir.snapshot = none ∧ onlyBits (param c.ps 1) 1#32 = true ∧ onlyBits (param c.ps 2) 0xFFFFFF#32 = true ∧
      onlyBits (param c.ps 3) 0x1FFF#32 = true ∧ 1 ≤ num ∧ num ≤ (if restore then (if d.ext then 31 else 63) else 4096) ∧
      1 ≤ fld (param c.ps 2) 23 0 ∧ fld (param c.ps 2) 23 0 + num ≤ b.dir.highWater + 1)
    (fun c b => { b with dir.snapshot := some {
      port := c.port, tag := c.tag, restore := bitAt (param c.ps 1) 0, first := fld (param c.ps 2) 23 0
      num := fld (param c.ps 3) 12 0, words := c.ps.drop 3 } })) ∧
  (∀ e, Answers 0x507 .rdvSet (fun c b =>
      let a : BitVec 24 := BitVec.ofNat 24 (fld (param c.ps 1) 23 0)
      let found := selectEntry [param c.ps 1 &&& 0xFFFFFF#32, 0, 0] b
      c.ps.length = 6 ∧ tableOn b = true ∧ rdvSetBad c.ps = false ∧ (bitAt (param c.ps 1) 24 = true → b.is20 = false) ∧
      found.1 = .entry e ∧ ((rdvOf a found.2).isSome = true ∨ found.2.rdv.rdvs.length < rdvCapacity b) ∧
      ((dirCfg found.2).isNone = true ∨ pinned found.2 e = true ∨ pinnedCount found.2 < 15360)) .ok (fun _ _ => [])
    (fun c b =>
      let a : BitVec 24 := BitVec.ofNat 24 (fld (param c.ps 1) 23 0)
      let s1 := (selectEntry [param c.ps 1 &&& 0xFFFFFF#32, 0, 0] b).2
      let n := rdvFrom c (rdvOf a s1) s1
      tellParent n (closeListening { s1 with rdv.rdvs := (s1.rdv.rdvs.filter fun x => x.short ≠ a) ++ [n] }))) ∧
  (∀ all : Bool,
    let gone (c : Cmd) (r : Rdv) : Bool := all || r.short = BitVec.ofNat 24 (fld (param c.ps 1) 23 0)
    Answers 0x508 .rdvClear (fun c _ => c.ps.length = 1 ∧ onlyBits (param c.ps 1) 0x01FFFFFF#32 = true ∧ bitAt (param c.ps 1) 24 = all) .ok
    (fun c b => [W (b.rdv.rdvs.filter (gone c)).length])
    (fun c b => closeListening { b with
      rdv.rdvs := b.rdv.rdvs.filter fun r => !gone c r
      link.links := b.link.links.map fun e =>
        if e.stale && (b.rdv.rdvs.filter (gone c)).any (fun r => r.short = e.short) then { e with stale := false, dirty := true }
        else e })) ∧
  Answers 0x509 .beaconConfig (fun c b => (c.ps.length = if bitAt (param c.ps 1) 3 then 23 else 6) ∧ beaconBad c.ps = false ∧
      (bitAt (param c.ps 1) 2 = true → 4 ≤ fld (param c.ps 1) 17 13 ∧ b.is80 = true)) .ok (fun _ _ => [])
    (fun c b => { b with
      rdv.cfg := beaconFrom c.ps
      link.own := if bitAt (param c.ps 1) 2 && b.link.own = noShort then 0#24 else b.link.own
      rdv.node := if bitAt (param c.ps 1) 3 then b.rdv.node else {}
      rdv.lastBeacon := none })

/-- Both parts, or all three, above. -/
def Obligations.LinkAndNetworkCommandsAnswer : Prop :=
  Sys2Proof.Statements.linkTableCommandsAnswer ∧ Sys2Proof.Statements.networkCommandsAnswer

/-- The traffic commands (R276 to R300). The signed credits of BUDGET_READ follow log 32. -/
def Obligations.TrafficCommandsAnswer : Prop :=
  Answers 0x601 .queueConfig (fun c b =>
      let w := param c.ps 1
      let q : Fin 32 := Fin.ofNat 32 (fld w 4 0)
      c.ps.length = 1 ∧ onlyBits w 0x07F7FFFF#32 = true ∧ fld w 15 8 ≠ 0 ∧ fld w 17 16 ≠ 3 ∧
      ((queueFrames q b).length = 0 ∨ b.traffic.queues[q].cls = Fin.ofNat 8 (fld w 7 5) ∧
        (fld w 26 20 = 0 ∨ (queueFrames q b).length ≤ fld w 26 20))) .ok (fun _ _ => [])
    (fun c b =>
      let w := param c.ps 1
      let q : Fin 32 := Fin.ofNat 32 (fld w 4 0)
      { b with traffic.queues := b.traffic.queues.set q { b.traffic.queues[q] with
          cls := Fin.ofNat 8 (fld w 7 5), weight := BitVec.ofNat 8 (fld w 15 8), redAction := BitVec.ofNat 2 (fld w 17 16)
          preYellow := bitAt w 18, depth := BitVec.ofNat 7 (fld w 26 20) } }) ∧
  (∀ m, Answers 0x602 .meterSet (fun c _ => c.ps.length = 6 ∧ onlyBits (param c.ps 1) 0x00FF0003#32 = true ∧
      bitAt (param c.ps 1) 0 = true ∧ param c.ps 2 = 0#32 ∧ fld (param c.ps 1) 23 16 ≠ 0 ∧ meterOf (param c.ps 1) c.ps = some m) .ok
    (fun _ b => [W (b.traffic.meters.length * 2 ^ 8)]) (fun c b => loadProfile (fld (param c.ps 1) 23 16) m b)) ∧
  (∀ (any : Bool) (bound : Option (Fin 256 × TxMeter)),
    let dst (c : Cmd) : Option (BitVec 24) := if any then none else some ((param c.ps 2).setWidth 24)
    let cls (c : Cmd) : Fin 8 := Fin.ofNat 8 (fld (param c.ps 1) 10 8)
    let pre (del : Bool) (c : Cmd) (b : State) : Prop :=
      onlyBits (param c.ps 1) 0x00000F06#32 = true ∧ onlyBits (param c.ps 2) 0xFFFFFF#32 = true ∧
      (any = true → param c.ps 2 = 0#32) ∧ bitAt (param c.ps 1) 11 = any ∧ bitAt (param c.ps 1) 2 = del ∧
      (b.traffic.meters.find? fun m => m.2.cls = cls c && m.2.dst = dst c) = bound
    (∀ o, bound = some o → Answers 0x602 .meterSet (fun c b => c.ps.length = 2 ∧ pre true c b) .ok
      (fun _ b => [W (o.1.val + (b.traffic.meters.length - 1) * 2 ^ 8)])
      (fun _ b => { b with traffic.meters := b.traffic.meters.filter fun m => m.1 ≠ o.1 })) ∧
    (∀ o m, bound = some o → Answers 0x602 .meterSet
      (fun c b => c.ps.length = 6 ∧ pre false c b ∧ meterOf (param c.ps 1) c.ps = some m) .ok
      (fun _ b => [W (o.1.val + b.traffic.meters.length * 2 ^ 8)])
      (fun _ b => { b with traffic.meters := b.traffic.meters.map fun x =>
        if x.1 = o.1 then (o.1, { o.2 with cfg := m, buckets := rebucket o.2.cfg m b.elapsed.now o.2.buckets }) else x })) ∧
    (∀ m i, bound = none → Answers 0x602 .meterSet
      (fun c b => c.ps.length = 6 ∧ pre false c b ∧ meterOf (param c.ps 1) c.ps = some m ∧ freeMeter b = some i) .ok
      (fun _ b => [W (i.val + (b.traffic.meters.length + 1) * 2 ^ 8)])
      (fun c b => { b with traffic.meters := b.traffic.meters ++ [(i, ⟨cls c, dst c, m, fullBuckets m b.elapsed.now⟩)] }))) ∧
  (∀ clear : Bool,
    let list (c : Cmd) : GateList := ⟨mk64 (param c.ps 2) (param c.ps 3), mk64 (param c.ps 4) (param c.ps 5), gateEntries (c.ps.drop 5)⟩
    Answers 0x603 .gatelistLoad (fun c b =>
      let n := fld (param c.ps 1) 8 0
      let cycle := (mk64 (param c.ps 4) (param c.ps 5)).toNat
      c.ps.length = 5 + 2 * n ∧ onlyBits (param c.ps 1) 0x3FF#32 = true ∧ bitAt (param c.ps 1) 9 = clear ∧
      (if clear then n = 0 else 1 ≤ n ∧ n ≤ 256) ∧ 2 ^ 32 ≤ cycle * 1000 ∧ cycle ≤ secU 86400 ∧
      gateWordsOk (c.ps.drop 5) = true ∧ b.power.bodWarn = false) .ok
    (fun c b =>
      let x := swapInstant (list c).base.toNat (list c).cycle.toNat (b.time.nt.toNat + msU 1)
      words64 (BitVec.ofNat 64 x.1) ++ [W (min x.2 0xFFFFFFFF)])
    (fun c b =>
      let loaded := loadGates (list c) clear b
      { loaded with upd.settings.gate := if clear then none else some (list c) })) ∧
  Answers 0x604 .gatelistStatus (fun c _ => c.ps.length = 0) .ok
    (fun _ b =>
      let oper := operList b
      let now := b.time.nt.toNat
      let inForce : GateList := oper.getD ⟨0, 0, []⟩
      let gate := match oper with | some l => gateAt l now | none => (0, 0xFF#8, 0)
      let waiting := match b.traffic.admin with | some a => (a.list.entries.length, 1, a.x) | none => (0, 0, 0#64)
      let cycles := match b.traffic.oper with
        | some (l, x) => if now < x.toNat then 0 else (now - x.toNat) / (max 1 l.cycle.toNat) + 1
        | none => 0
      [W (inForce.entries.length + waiting.1 * 2 ^ 9 + waiting.2.1 * 2 ^ 18), lo32 inForce.base, hi32 inForce.base,
        lo32 inForce.cycle, hi32 inForce.cycle, lo32 waiting.2.2, hi32 waiting.2.2,
        W (gate.1 + gate.2.1.toNat * 2 ^ 8 + min b.traffic.stranded 255 * 2 ^ 16), W cycles]) (fun _ b => b) ∧
  Answers 0x605 .budgetLoad (fun c b =>
      let nsub := fld (param c.ps 1) 8 4
      let n := fld (param c.ps 1) 23 16
      let sec := fld (param c.ps 2) 11 0
      c.ps.length = 2 + 2 * nsub ∧ onlyBits (param c.ps 1) 0x00FF01FF#32 = true ∧ onlyBits (param c.ps 2) 0xFFF#32 = true ∧
      1 ≤ nsub ∧ fld (param c.ps 1) 3 0 + nsub ≤ 16 ∧ 1 ≤ n ∧ n ≤ 120 ∧ 1 ≤ sec ∧ sec ≤ 3600 ∧ n * sec ≤ 4000 ∧
      limitsOk (c.ps.drop 2) = true ∧ b.power.bodWarn = false) .ok (fun _ _ => [])
    (fun c b =>
      let applied := applyBudget c.ps b
      let item := budgetInForce (if fld (param c.ps 1) 8 4 = 16 then some c.ps else none) applied
      budgetWrite (extendMr 3 0x33#8 (digestWords c.ps) { applied with upd.settings.budget := some item })) ∧
  (∀ i : Fin 16,
    let credit (b : State) := signedUs (frameCredit i b) b
    let rest (b : State) := signedUs ((allowance i b : Int) - useOf i b) (credit b).2
    Answers 0x606 .budgetRead (fun c _ => c.ps = [W i.val]) .ok
    (fun _ b => [W b.traffic.accounts[i].limit, W (useOf i b), (credit b).1, (rest b).1,
      W (ceilDiv ((secU ((b.traffic.bucketNo + 1) * b.traffic.s) - b.elapsed.now.toNat) * 1000000) (2 ^ 32)),
      W (b.traffic.accounts[i].buckets.getD b.traffic.n 0),
      W (min (b.link.frames.countP fun f => f.held && frameBand f b = some i) 255)])
    (fun _ b => (rest b).2))

/-- The key-store commands that complete at once (R317, R323 to R335): a slot loaded, derived or erased, and random words. A
random word is a free value (log 5). A KEY_LOAD of SOURCE 2 has its signature verified by the PKA first (R316). -/
def Obligations.KeyStoreCommandsAnswer : Prop :=
  let mayLoad (material : List Byte) (c : Cmd) (b : State) : Prop :=
      let w := param c.ps 1
      let slot := fld w 4 0
      b.isUsable dCRYPTO = true ∧ onlyBits w 0x000FFFFF#32 = true ∧
      fld w 6 5 ≠ 3 ∧ fld w 13 12 ≠ 3 ∧ (bitAt w 14 = true → isSession slot = false) ∧ b.lifecycle ≠ .retired ∧ 4 ≤ slot ∧
      b.sec.sealedSlots.getLsbD slot = false ∧ (fld w 13 12 = 0 → slot < 12 → b.lifecycle ≠ .secured) ∧
      loadedKey c b = .ok material ∧ slotOpen slot b = false ∧ (bitAt w 14 = true → b.power.bodWarn = false)
  let loaded (material : List Byte) (c : Cmd) (b : State) : State :=
      let w := param c.ps 1
      let t := typeOfCode (fld w 6 5)
      putSlot (fld w 4 0) { type := t, usage := BitVec.ofNat 5 (fld w 11 7), key := keyOf material, persist := bitAt w 14
                            pub := if t = .p256 then some (publicOf (keyOf material)) else none } b
  (∀ material, Answers 0x701 .keyLoad (fun c b => keyLoadLen c.ps = true ∧ b.sec.ready = true ∧ fld (param c.ps 1) 13 12 ≠ 2 ∧
      mayLoad material c b) .ok (fun _ _ => []) (loaded material)) ∧
  Does 0x701 .keyLoad (fun c b => keyLoadLen c.ps = true ∧ b.sec.ready = true ∧ fld (param c.ps 1) 13 12 = 2 ∧ b.isUsable dCRYPTO = true)
    askPka ∧
  (∀ material, WorkDone 0x701 (mayLoad material) (fun c b => finish c .ok [] (loaded material c b))) ∧
  (∀ k, Answers 0x702 .keyDerive (fun c b =>
      let w := param c.ps 1
      let nl := fld (param c.ps 2) 6 0
      deriveLen c.ps = true ∧ b.isUsable dCRYPTO = true ∧ b.sec.ready = true ∧ onlyBits w 0x0003FFFF#32 = true ∧
      onlyBits (param c.ps 2) 0x0000FF7F#32 = true ∧ fld w 11 10 < 2 ∧ 1 ≤ nl ∧ nl ≤ 64 ∧ fld (param c.ps 2) 15 8 ≤ 128 ∧
      (bitAt w 17 = true → isSession (fld w 9 5) = false) ∧ b.lifecycle ≠ .retired ∧ 4 ≤ fld w 9 5 ∧
      b.sec.sealedSlots.getLsbD (fld w 9 5) = false ∧ slotRefusal (fld w 4 0) 3 [.aes128, .aes256, .secret256] b = none ∧
      usableSlot (fld w 4 0) b = some k ∧ slotOpen (fld w 9 5) b = false ∧ (bitAt w 17 = true → b.power.bodWarn = false)) .ok
    (fun _ _ => [])
    (fun c b =>
      let w := param c.ps 1
      let nl := fld (param c.ps 2) 6 0
      let t := typeOfCode (fld w 11 10)
      let label := (unpackLE (c.ps.drop 2)).take nl
      let context := (unpackLE (c.ps.drop (2 + (nl + 3) / 4))).take (fld (param c.ps 2) 15 8)
      putSlot (fld w 9 5) { type := t, usage := BitVec.ofNat 5 (fld w 16 12), persist := bitAt w 17
                            key := keyOf (kdf k.kdfBytes label context (keyBytes t)) } b)) ∧
  Does 0x703 .keyZero (fun c b =>
      let w := param c.ps 1
      c.ps.length = 1 ∧ b.isUsable dCRYPTO = true ∧ b.sec.ready = true ∧ onlyBits w 0x3F#32 = true ∧ 4 ≤ fld w 4 0 ∧
      b.sec.sealedSlots.getLsbD (fld w 4 0) = false ∧ (slotOpen (fld w 4 0) b = false ∨ bitAt w 5 = true))
    (fun c b => thenFree (fun c x =>
      finish c .ok [] (eraseSlot (fld (param c.ps 1) 4 0) (abandonSlots (fun n => n = fld (param c.ps 1) 4 0) x))) c b) ∧
  Answers 0x708 .rngRead (fun c b => c.ps.length = 1 ∧ b.isUsable dCRYPTO = true ∧ 1 ≤ (param c.ps 1).toNat ∧
      (param c.ps 1).toNat ≤ 1020 ∧ b.sec.trngOk = true) .ok
    (fun c b => (drawWords (param c.ps 1).toNat b).1)
    (fun c b =>
      let r := drawWords (param c.ps 1).toNat b
      { r.2 with sec.drbgCount := if b.sec.drbgCount + 1 < 65536 then b.sec.drbgCount + 1 else 0
                 sec.lastRandom := r.1.getLastD b.sec.lastRandom })

/-- The public-key commands join the PKA, which takes one request at a time in arrival order (R315, R331, R338, R340). -/
def Sys2Proof.Statements.publicKeyCommandsQueue : Prop :=
  let queued (c : Cmd) (j : PkaJob) (b : State) : State :=
    if b.sec.pka = none then { b with sec.pka := some ⟨c.port, c.tag, j, 1⟩ }
    else { b with sec.pkaQueue := b.sec.pkaQueue ++ [⟨c.port, c.tag, j, 1⟩] }
  Does 0x709 .ecdhRun (fun c b =>
      let w := param c.ps 1
      c.ps.length = 1 ∧ b.isUsable dCRYPTO = true ∧ b.sec.ready = true ∧ onlyBits w 0x0001FFFE#32 = true ∧
      (bitAt w 16 = true → isSession (fld w 5 1) = false ∧ b.power.bodWarn = false) ∧ BitVec.ofNat 5 (fld w 15 11) &&& 7#5 = 0#5 ∧
      b.lifecycle ≠ .retired ∧ 4 ≤ fld w 5 1 ∧ b.sec.sealedSlots.getLsbD (fld w 5 1) = false ∧ b.sec.trngOk = true)
    (fun c b => queued c (.genKey (fld (param c.ps 1) 5 1) (BitVec.ofNat 5 (fld (param c.ps 1) 15 11)) (bitAt (param c.ps 1) 16)) b) ∧
  (∀ k, Does 0x709 .ecdhRun (fun c b =>
      let w := param c.ps 1
      let peer := pair256 (c.ps.drop 1)
      c.ps.length = 17 ∧ bitAt w 0 = true ∧ b.isUsable dCRYPTO = true ∧ b.sec.ready = true ∧ onlyBits w 0x0001FFFF#32 = true ∧
      isSession (fld w 5 1) = true ∧ 4 ≤ fld w 5 1 ∧ onCurve peer.1.toNat peer.2.toNat = true ∧ b.lifecycle ≠ .retired ∧
      b.sec.sealedSlots.getLsbD (fld w 5 1) = false ∧ 4 ≤ fld w 10 6 ∧ usableSlot (fld w 10 6) b = some k ∧ k.type = .p256)
    (fun c b => queued c (.agree (fld (param c.ps 1) 5 1) (fld (param c.ps 1) 10 6) (pair256 (c.ps.drop 1))) b)) ∧
  Does 0x70A .signRun (fun c b => c.ps.length = 9 ∧ b.isUsable dCRYPTO = true ∧ b.sec.ready = true ∧ (param c.ps 1).toNat < 32 ∧
      slotRefusal (param c.ps 1).toNat 4 [.p256] b = none)
    (fun c b => queued c (.sign (param c.ps 1).toNat (mk256 (c.ps.drop 1))) b) ∧
  Does 0x70B .verifyRun (fun c b =>
      let key := pair256 (c.ps.drop 1)
      c.ps.length = 41 ∧ b.isUsable dCRYPTO = true ∧ (param c.ps 1).toNat < 3 ∧ onCurve key.1.toNat key.2.toNat = true)
    (fun c b =>
      let key := pair256 (c.ps.drop 1)
      let sig := pair256 (c.ps.drop 25)
      queued c (.verify (rootMeets (param c.ps 1).toNat key b) key (mk256 ((c.ps.drop 17).take 8)) sig.1 sig.2) b)

/-- CIPHER_RUN (R309 to R314): a single or BEGIN command opens a message and runs its data; CONTINUE and FINAL run theirs
through the open message; a streamed FINAL gives its plaintext as a segment and then answers. Afterwards the commands that wait
for a context proceed if one came free (R310). -/
def Obligations.CipherRunAnswers : Prop :=
  (∀ single n m1 s1, Does 0x704 .cipherRun (fun c b => cipherMayOpen c b single n m1 s1)
      (fun c b => thenFree (fun c _ => cipherDone c n single (openMsg m1) s1) c b)) ∧
  (∀ final m, Does 0x704 .cipherRun (fun c b => cipherMeets c b final m)
      (fun c b => thenFree (fun c b => cipherDone c (fld (param c.ps 1) 18 16) final m b) c b))

/-- ATTEST, LIFECYCLE_ADVANCE and DEBUG_UNLOCK (R322 to R329, R337 to R341). Challenges are DRBG output, free values. -/
def Sys2Proof.Statements.attestationCommandsAnswer : Prop :=
  Does 0x705 .attest (fun c b => c.ps.length = 5 ∧ param c.ps 1 = 0#32 ∧ b.isUsable dCRYPTO = true ∧ b.sec.ready = true) askPka ∧
  WorkDone 0x705 (fun c b => param c.ps 1 = 0#32 ∧ b.isUsable dCRYPTO = true)
    (fun c b => attestServed 0xFFFFFF#24 false false (finish c .ok (packLE (report (unpackBE (c.ps.drop 1)) b)) b)) ∧
  Answers 0x705 .attest (fun c b => c.ps.length = 2 ∧ param c.ps 1 = 1#32 ∧ b.isUsable dCRYPTO = true ∧ b.sec.ready = true ∧
      onlyBits (param c.ps 2) 0x0FFF1F01#32 = true ∧ fld (param c.ps 2) 27 20 ≠ 0) .ok (fun _ _ => [])
    (fun c b =>
      let w := param c.ps 2
      { b with
        sec.remoteEn := bitAt w 0, sec.remoteQueue := Fin.ofNat 32 (fld w 12 8)
        sec.remoteProfile := Fin.ofNat 16 (fld w 19 16), sec.remoteRate := fld w 27 20
        upd.settings.attest := some (Fin.ofNat 32 (fld w 12 8), Fin.ofNat 16 (fld w 19 16), fld w 27 20) }) ∧
  Does 0x705 .attest (fun c b => c.ps.length = 2 ∧ param c.ps 1 = 2#32 ∧ b.isUsable dCRYPTO = true ∧ b.sec.ready = true ∧
      (param c.ps 2).toNat < 256) (fun c b => segments c (logPackets (param c.ps 2).toNat b) b) ∧
  Answers 0x705 .attest (fun c b => c.ps.length = 1 ∧ param c.ps 1 = 3#32 ∧ b.isUsable dCRYPTO = true ∧ b.sec.ready = true) .ok
    (fun _ _ => W certificateBytes.length :: packLE certificateBytes) (fun _ b => b) ∧
  Answers 0x706 .lifecycleAdvance (fun c b => c.ps.length = 1 ∧ onlyBits (param c.ps 1) 0x6#32 = true ∧ b.isHostPort c.port = true ∧
      b.isUsable dCRYPTO = true ∧ b.power.bodWarn = false ∧ b.sec.trngOk = true) .ok
    (fun _ b => words256 (freshChal b).1) (fun _ b => { (freshChal b).2 with sec.lifeChal := some ((freshChal b).1, b.elapsed.now) }) ∧
  Answers 0x706 .lifecycleAdvance (fun c b => c.ps.length = 1 ∧ onlyBits (param c.ps 1) 0x7#32 = true ∧ bitAt (param c.ps 1) 0 = true ∧
      fld (param c.ps 1) 2 1 ≠ 0 ∧ b.isHostPort c.port = true ∧ mayAdvance (fld (param c.ps 1) 2 1) b = true ∧
      b.lifecycle ≠ .secured ∧ b.power.bodWarn = false) .ok (fun _ _ => [])
    (fun c b => oweReset c.port (advanceEffects (fld (param c.ps 1) 2 1) b)) ∧
  Does 0x706 .lifecycleAdvance (fun c b => c.ps.length = 33 ∧ bitAt (param c.ps 1) 0 = true ∧ b.lifecycle = .secured ∧
      b.isUsable dCRYPTO = true) askPka ∧
  (∀ ch, WorkDone 0x706 (fun c b =>
      let owner := pair256 (c.ps.drop 1)
      c.ps.length = 33 ∧ param c.ps 1 = 7#32 ∧ b.isHostPort c.port = true ∧ b.isUsable dCRYPTO = true ∧ b.lifecycle = .secured ∧
      b.power.bodWarn = false ∧ onCurve owner.1.toNat owner.2.toNat = true ∧ validChal b.sec.lifeChal b = some ch ∧
      ownerSigned owner (pair256 (c.ps.drop 17)) (textBytes "KR96-RETIRE" ++ bytesOfBE 8 b.eui.toNat ++ bytes256 ch) b = true)
    (fun c b => finish c .ok [] (oweReset c.port (advanceEffects 3 { b with sec.lifeChal := none })))) ∧
  Does 0x707 .debugUnlock (fun c b => c.ps.length = 1 ∧ onlyBits (param c.ps 1) 0x6#32 = true ∧ b.isUsable dCRYPTO = true ∧
      b.lifecycle ≠ .retired ∧ b.sec.trngOk = true)
    (fun c b => thenFree (fun c b => finish c .ok (words256 (freshChal b).1)
      { (freshChal b).2 with sec.debugChal := some ((freshChal b).1, b.elapsed.now) }) c b) ∧
  (∀ scope : Nat, scope = 1 ∨ scope = 2 →
    Does 0x707 .debugUnlock (fun c b => c.ps = [W (1 + 2 * scope)] ∧ b.lifecycle = .develop)
      (fun c b => thenFree (fun c b => finish c .ok [] (grantUnlock scope (zeros 64) false b)) c b)) ∧
  Does 0x707 .debugUnlock (fun c b => c.ps.length = 33 ∧ bitAt (param c.ps 1) 0 = true ∧ b.lifecycle = .secured ∧
      b.isUsable dCRYPTO = true) askPka ∧
  (∀ ch, WorkDone 0x707 (fun c b =>
      let owner := pair256 (c.ps.drop 1)
      c.ps.length = 33 ∧ param c.ps 1 = 3#32 ∧ b.lifecycle = .secured ∧ b.sec.failedSigs < 3 ∧ b.isUsable dCRYPTO = true ∧
      onCurve owner.1.toNat owner.2.toNat = true ∧ validChal b.sec.debugChal b = some ch ∧
      ownerSigned owner (pair256 (c.ps.drop 17)) (textBytes "KR96-DEBUG" ++ bytesOfBE 8 b.eui.toNat ++ bytes256 ch ++ [1#8]) b = true)
    (fun c b => finish c .ok [] (grantUnlock 1 (pubBytes (pair256 (c.ps.drop 1))) false { b with sec.debugChal := none })))

/-- Both parts, or all three, above. -/
def Obligations.PublicKeyAndAttestationCommandsAct : Prop :=
  Sys2Proof.Statements.publicKeyCommandsQueue ∧ Sys2Proof.Statements.attestationCommandsAnswer

/-- The flash and OTP commands (R391 to R416). Whether a write's read-back fails is a free value (log 5). -/
def Obligations.FlashCommandsAnswer : Prop :=
  Does 0x801 .flashProgram (fun c b =>
      let addr := (param c.ps 1).toNat
      let n := fld (param c.ps 2) 8 0
      let secs := sectorRange (addr / 8192) ((addr + 16 * n - 1) / 8192 + 1 - addr / 8192)
      c.ps.length = 2 + 4 * n ∧ onlyBits (param c.ps 2) 0x1FF#32 = true ∧ addr % 16 = 0 ∧ 1 ≤ n ∧ n ≤ 252 ∧
      addr + 16 * n ≤ b.flashSize ∧ arrayOf b (addr / 8192) = arrayOf b ((addr + 16 * n - 1) / 8192) ∧
      (∀ x ∈ secs, inDataArea b x = true ∧ protectedFor b c.port (·.wp) x = false ∧ staleFlag b x = false) ∧
      b.power.bodWarn = false ∧ flashBusy b (some secs) = false ∧ canAccept c.port b = true)
    (fun c b =>
      let h := takeHandle c.port b
      let o : FlashOp := { port := c.port, handle := h.1, erase := false
                           units := unitsOf (param c.ps 1).toNat (chunks 16 (unpackLE (c.ps.drop 2))) }
      respondAccepted c h.1 (if b.flash.op.isSome then { h.2 with flash.inner := some o } else { h.2 with flash.op := some o })) ∧
  Does 0x802 .flashErase (fun c b =>
      let first := (param c.ps 1).toNat / 8192
      let n := (param c.ps 2).toNat
      c.ps.length = 2 ∧ (param c.ps 1).toNat % 8192 = 0 ∧ 1 ≤ n ∧ n ≤ 248 ∧ first + n ≤ b.sectors ∧
      arrayOf b first = arrayOf b (first + n - 1) ∧
      (∀ x ∈ sectorRange first n, inDataArea b x = true ∧ protectedFor b c.port (·.wp) x = false) ∧
      b.power.bodWarn = false ∧ b.flash.op = none ∧ (∀ u, b.upd.session = some u → u.erasing = none) ∧ canAccept c.port b = true)
    (fun c b =>
      let h := takeHandle c.port b
      let first := (param c.ps 1).toNat / 8192
      let o : FlashOp := { port := c.port, handle := h.1, erase := true, sector := first, left := (param c.ps 2).toNat }
      respondAccepted c h.1 { h.2 with
        flash.op := some o, flash.eraseSince := b.elapsed.now + BitVec.ofNat 64 (usU 20), flash.flags := h.2.flash.flags ||| 1#512 <<< first }) ∧
  (let come := fun (b : State) => if b.flash.suspCmd then b else flashProgress b
   Answers 0x803 .flashSuspend (fun c b => c.ps.length = 0 ∧ (come b).flash.op.isSome = true) .ok (fun _ _ => [])
      (fun _ b => { come b with flash.suspCmd := true, flash.resumeAfter := false })) ∧
  Answers 0x804 .flashResume (fun c b => c.ps.length = 0 ∧ b.flash.op.isSome = true ∧ b.flash.suspCmd = true ∧
      b.flash.resumeAfter = false ∧ b.power.bodWarn = false) .ok (fun _ _ => [])
    (fun _ b => if b.flash.inner.isSome then { b with flash.resumeAfter := true } else { b with flash.suspCmd := false, flash.eraseSince := b.elapsed.now }) ∧
  Answers 0x805 .protectSet (fun c b =>
      let w := param c.ps 2
      c.ps.length = 2 ∧ (param c.ps 1).toNat < 64 ∧ onlyBits w 0x01FF01FF#32 = true ∧ fld w 8 0 ≤ fld w 24 16 ∧
      fld w 24 16 < 2 * b.bankSectors ∧ (passwordSet b = true → b.flash.unlocked[portIdx c.port] = true) ∧ b.power.bodWarn = false) .ok
    (fun _ _ => [])
    (fun c b =>
      let w := param c.ps 1
      { b with flash.prot := b.flash.prot.set (Fin.ofNat 8 (fld w 2 0)) {
          first := BitVec.ofNat 9 (fld (param c.ps 2) 8 0), last := BitVec.ofNat 9 (fld (param c.ps 2) 24 16)
          en := bitAt w 3, wp := bitAt w 4, rp := bitAt w 5 } }) ∧
  Answers 0x806 .protectUnlock (fun c _ => c.ps = [1]) .ok (fun _ _ => [])
    (fun c b => { b with flash.unlocked := b.flash.unlocked.set (portIdx c.port) false }) ∧
  Answers 0x806 .protectUnlock (fun c b => c.ps.length = 5 ∧ param c.ps 1 = 0#32 ∧ passwordSet b = true ∧ b.flash.wrongPw < 3 ∧
      sha256 (unpackLE (c.ps.drop 1)) = otpHash b 32) .ok (fun _ _ => [])
    (fun c b => { b with flash.unlocked := b.flash.unlocked.set (portIdx c.port) true }) ∧
  Answers 0x806 .protectUnlock (fun c b => c.ps.length = 5 ∧ param c.ps 1 = 0#32 ∧ passwordSet b = true ∧ b.flash.wrongPw < 3 ∧
      sha256 (unpackLE (c.ps.drop 1)) ≠ otpHash b 32) .authFail (fun _ _ => [])
    (fun _ b => { b with flash.wrongPw := b.flash.wrongPw + 1 }) ∧
  Answers 0x807 .otpRead (fun c _ => c.ps.length = 1 ∧ onlyBits (param c.ps 1) 0x01FF01FF#32 = true ∧
      1 ≤ fld (param c.ps 1) 24 16 ∧ fld (param c.ps 1) 24 16 ≤ 256 ∧ fld (param c.ps 1) 8 0 + fld (param c.ps 1) 24 16 ≤ 512) .ok
    (fun c b => (List.range (fld (param c.ps 1) 24 16)).map fun k => otpRead b (fld (param c.ps 1) 8 0 + k)) (fun _ b => b) ∧
  Does 0x808 .otpProgram (fun c b =>
      let w := param c.ps 1
      let first := fld w 8 0
      c.ps.length = 1 + fld w 19 16 ∧ onlyBits w 0x000F01FF#32 = true ∧ 1 ≤ fld w 19 16 ∧ fld w 19 16 ≤ 8 ∧
      inOneField first (fld w 19 16) = true ∧ (first = 2 → onlyBits (param c.ps 2) 7#32 = true ∧
        fld (otpWord b 2 ||| param c.ps 2) 1 0 ≠ 3) ∧ (first = 2 ∨ 24 ≤ first ∧ first < 40) ∧
      (b.lifecycle = .blank ∨ b.lifecycle = .develop) ∧ b.isHostPort c.port = true ∧ b.power.bodWarn = false)
    (fun c b =>
      let r := otpProgramWords (fld (param c.ps 1) 8 0) (c.ps.drop 1) 0 b
      finish c (if r.2.1 then .ok else .verifyFail) [W r.1] r.2.2) ∧
  Answers 0x809 .flashStatus (fun c b =>
      let n := (param c.ps 1).toNat
      let addr := (param c.ps 2).toNat
      let t := flashProgress b
      c.ps.length = 2 ∧ n ≤ 256 ∧ addr % 4 = 0 ∧ (n = 0 → addr = 0) ∧
      (n ≠ 0 → addr + 4 * n ≤ t.flashSize ∧ ∀ x ∈ sectorRange (addr / 8192) ((addr + 4 * n - 1) / 8192 + 1 - addr / 8192),
        inDataArea t x = true ∧ protectedFor t c.port (·.rp) x = false)) .ok
    (fun c b => flashStatusWords c.port (flashProgress b) ++
      (List.range (param c.ps 1).toNat).map fun k => flashWord (flashProgress b) ((param c.ps 2).toNat + 4 * k))
    (fun c b =>
      let n := (param c.ps 1).toNat
      let addr := (param c.ps 2).toNat
      let secs := sectorRange (addr / 8192) ((addr + 4 * n - 1) / 8192 + 1 - addr / 8192)
      let t := flashProgress b
      let stops (o : FlashOp) : Bool := o.erase && flashRuns t && secs.any fun x => arrayOf t x = arrayOf t o.sector && x ≠ o.sector
      if n ≠ 0 ∧ (t.flash.op.map stops).getD false = true then { t with flash.suspAuto := true } else t)

/-- The update commands (R458 to R473). Whether a chunk's read-back fails is a free value (log 5); the erase behind UPD_BEGIN
and the work of UPD_VERIFY answer later, in rows of their own. -/
def Sys2Proof.Statements.updateCommandsAnswer : Prop :=
  Does 0x901 .updBegin (fun c b =>
      let bytes := fld (param c.ps 1) 20 0
      let slot := (param c.ps 2).toNat
      c.ps.length = 2 ∧ onlyBits (param c.ps 1) 0x1FFFFF#32 = true ∧ bytes % 16 = 0 ∧ bytes ≤ b.bankSectors * 8192 ∧
      (slot = 0 ∨ 4 ≤ slot ∧ slot < 32) ∧ b.lifecycle ≠ .retired ∧ b.upd.trial = none ∧ b.upd.act = none ∧ b.upd.session = none ∧
      inactiveProtected b = false ∧ b.power.bodWarn = false ∧ b.flash.op = none)
    (fun c b =>
      let u : UpdSession := { port := c.port, bytes := fld (param c.ps 1) 20 0, ownerSlot := (param c.ps 2).toNat, erasing := some c.tag }
      setFlag (inactiveFirst b) true (setBank (!b.upd.activeB) none { b with upd.session := some u, upd.staged := none })) ∧
  (∀ u, Does 0x902 .updChunk (fun c b =>
      let off := fld (param c.ps 1) 20 0
      let len := fld (param c.ps 2) 12 0
      c.ps.length = 2 + len / 4 ∧ onlyBits (param c.ps 1) 0x1FFFFF#32 = true ∧ onlyBits (param c.ps 2) 0x1FFF#32 = true ∧
      off % 16 = 0 ∧ len % 16 = 0 ∧ 16 ≤ len ∧ len ≤ 4064 ∧ off + len ≤ u.bytes ∧ b.upd.session = some u ∧ u.port = c.port ∧
      u.erasing = none ∧ b.upd.staged = none ∧ b.upd.verifying = none ∧ b.power.bodWarn = false)
    (fun c b =>
      let units := unitsOf (inactiveFirst b * 8192 + fld (param c.ps 1) 20 0) (chunks 16 (unpackLE (c.ps.drop 2)))
      let fails := drawBool b
      let bad := pickBad fails.1 units.length fails.2
      let r := programUnits units bad.1 0 bad.2
      finish c (if r.1.failed.isSome then .verifyFail else .ok) [] r.2)) ∧
  (∀ u, Does 0x903 .updVerify (fun c b => c.ps.length = 0 ∧ b.upd.session = some u ∧ u.erasing = none ∧ b.upd.act = none ∧
      b.upd.verifying = none) (fun c b => { b with upd.verifying := some (c.port, c.tag) })) ∧
  Does 0x904 .updActivate (fun c b =>
      let w := param c.ps 1
      c.ps.length = 1 ∧ onlyBits w 0x1FFFFFFF#32 = true ∧ fld w 15 0 ≠ 0 ∧ 10 ≤ fld w 27 16 ∧ fld w 27 16 ≤ 3600 ∧
      b.upd.staged.isSome = true ∧ b.upd.act = none ∧ b.power.bodWarn = false ∧ canAccept c.port b = true)
    (fun c b =>
      let h := takeHandle c.port b
      let w := param c.ps 1
      let a : Activation := { port := c.port, handle := h.1, since := b.elapsed.now, waitMax := fld w 15 0, trialS := fld w 27 16
                              rollbackOnFault := bitAt w 28 }
      respondAccepted c h.1 { h.2 with upd.act := some a }) ∧
  Answers 0x905 .updCommit (fun c b => c.ps.length = 0 ∧ b.upd.trial.isSome = true ∧ b.power.bodWarn = false) .ok (fun _ _ => [])
    (fun _ b =>
      let arb := match activeImage b with | some i => (i.linkArb, i.appArb) | none => (0, 0)
      let raised := raiseThermo 96 arb.2 (raiseThermo 64 arb.1 b)
      setBank (!b.upd.activeB) none { raised with upd.trial := none, upd.preSettings := none }) ∧
  Answers 0x906 .updAbort (fun c b => c.ps.length = 0 ∧ b.upd.act = none ∧ (b.upd.session.isSome = true ∨ b.upd.staged.isSome = true)) .ok
    (fun _ _ => []) (fun _ b => closeSession b) ∧
  (∀ t, Answers 0x906 .updAbort (fun c b => c.ps.length = 0 ∧ b.upd.act = none ∧ b.upd.session = none ∧ b.upd.staged = none ∧
      b.upd.trial = some t) .ok (fun _ _ => []) (fun _ b => { b with upd.trial := some { t with due := some (t.due.getD 5) } }))

/-- The settings commands (R470, R473): a customer record written or erased, the live values kept, an item or a record read. -/
def Sys2Proof.Statements.settingsCommandsAnswer : Prop :=
  let key (c : Cmd) : BitVec 16 := BitVec.ofNat 16 (fld (param c.ps 1) 31 16)
  Answers 0x907 .settingsWrite (fun c b =>
      let len := fld (param c.ps 2) 26 16
      c.ps.length = 2 + ceilDiv len 4 ∧ onlyBits (param c.ps 1) 0xFFFF0000#32 = true ∧ onlyBits (param c.ps 2) 0x07FFFFFF#32 = true ∧
      0x100 ≤ (key c).toNat ∧ len ≤ 1024 ∧ b.power.bodWarn = false ∧ otherBytes (key c) b + len ≤ Config.settingsRoom) .ok
    (fun _ _ => [])
    (fun c b =>
      let bytes := (unpackLE (c.ps.drop 2)).take (fld (param c.ps 2) 26 16)
      let records := putRecord (key c) (BitVec.ofNat 16 (fld (param c.ps 2) 15 0)) bytes b.upd.settings.customer
      { b with upd.settings.customer := records }) ∧
  Answers 0x907 .settingsWrite (fun c b => c.ps.length = 2 ∧ param c.ps 1 = 1#32 ∧ (param c.ps 2).toNat < 256 ∧
      b.upd.provisioning.isSome = true ∧ b.power.bodWarn = false) .ok
    (fun _ _ => []) (fun c b => keepLive ((param c.ps 2).setWidth 8) b) ∧
  Answers 0x907 .settingsWrite (fun c b => c.ps.length = 2 ∧ onlyBits (param c.ps 1) 0xFFFF0003#32 = true ∧ fld (param c.ps 1) 1 0 = 2 ∧
      onlyBits (param c.ps 2) 0xFFFF#32 = true ∧ 0x100 ≤ (key c).toNat ∧ (b.upd.settings.customer.any fun r => r.1 = key c) = true ∧
      b.power.bodWarn = false) .ok (fun _ _ => [])
    (fun c b => { b with upd.settings.customer := b.upd.settings.customer.filter fun r => r.1 ≠ key c }) ∧
  Answers 0x908 .settingsRead (fun c b => c.ps.length = 1 ∧ (param c.ps 1).toNat < 8 ∧
      (itemBits b.upd.settings).testBit (param c.ps 1).toNat = true) .ok
    (fun c _ => [(Config.itemFormat (param c.ps 1).toNat).setWidth 32]) (fun _ b => b) ∧
  (∀ r, Answers 0x908 .settingsRead (fun c b => c.ps.length = 1 ∧ 8 ≤ (param c.ps 1).toNat ∧ (param c.ps 1).toNat < 65536 ∧
      (b.upd.settings.customer.find? fun r => r.1.toNat = (param c.ps 1).toNat) = some r) .ok
    (fun _ _ => W (r.2.1.toNat + r.2.2.length * 2 ^ 16) :: packLE r.2.2) (fun _ b => b))

/-- Both parts, or all three, above. -/
def Obligations.UpdateAndSettingsCommandsAnswer : Prop :=
  Sys2Proof.Statements.updateCommandsAnswer ∧ Sys2Proof.Statements.settingsCommandsAnswer

/-- The Kerb commands (R452 to R456). -/
def Sys2Proof.Statements.kerbCommandsAnswer : Prop :=
  Answers 0xA01 .kerbLoad (fun c b => c.ps.length = 4 + fld (param c.ps 1) 6 0 ∧ b.isUsable dKERB = true ∧
      badKerbLoad c.ps = false ∧ b.kerb.running = false ∧ b.power.bodWarn = false) .ok (fun _ _ => [])
    (fun c b =>
      let w (n : Nat) := param c.ps n
      let taken : KerbState := { b.kerb with
        prog := c.ps.drop 4, autostart := bitAt (w 1) 7, period := (w 2).setWidth 24
        mode := Vector.ofFn fun i => BitVec.ofNat 2 (fld (w 3) (4 * i.val + 1) (4 * i.val))
        edge := Vector.ofFn fun i => BitVec.ofNat 2 (fld (w 4) (2 * i.val + 1) (2 * i.val)) }
      extendMr 3 0x34#8 (digestWords (c.ps.drop 4)) { b with kerb := taken, upd.settings.kerb := some c.ps }) ∧
  (∀ clear : Bool, Answers 0xA02 .kerbStart (fun c b => c.ps = [W (b2n clear)] ∧ b.isUsable dKERB = true ∧ b.kerb.prog ≠ [] ∧
      b.kerb.running = false) .ok (fun _ _ => [])
    (fun _ b => { b with kerb := { b.kerb with
      running := true, held := true, passes := 0, counts := Vector.replicate 16 0#32
      vars := if clear then Vector.replicate 8 0#16 else b.kerb.vars } })) ∧
  Answers 0xA03 .kerbStop (fun c b => c.ps.length = 0 ∧ b.kerb.running = true ∧ b.kerb.inPass = false) .ok (fun _ _ => [])
    (fun _ b => { b with kerb := { b.kerb with running := false, held := false, driven := 0, inPass := false } }) ∧
  Does 0xA03 .kerbStop (fun c b => c.ps.length = 0 ∧ b.kerb.running = true ∧ b.kerb.inPass = true)
    (fun c b => { b with kerb.stopWait := b.kerb.stopWait ++ [(c.port, c.tag)] }) ∧
  Answers 0xA04 .kerbLogRead (fun c b => c.ps.length = 1 ∧ b.isUsable dKERB = true ∧ 1 ≤ (param c.ps 1).toNat ∧
      (param c.ps 1).toNat ≤ 256) .ok
    (fun c b => W ((b.kerb.log.take (param c.ps 1).toNat).length + b.kerb.lost.toNat * 2 ^ 16) :: b.kerb.log.take (param c.ps 1).toNat)
    (fun c b => { b with kerb.log := b.kerb.log.drop (param c.ps 1).toNat, kerb.lost := 0 })

/-- The test and background commands (R476 to R490). -/
def Sys2Proof.Statements.testCommandsAnswer : Prop :=
  Does 0xB01 .ctxTest (fun c b => c.ps.length = 2 ∧ b.isUsable dBLVD = true ∧ onlyBits (param c.ps 1) 0x3F#32 = true ∧
      fld (param c.ps 1) 5 0 < b.ctxCount ∧ 1 ≤ (param c.ps 2).toNat ∧ (param c.ps 2).toNat < 65536 ∧ b.bg.ctxTest = none ∧
      canAccept c.port b = true)
    (fun c b =>
      let n : Fin 64 := Fin.ofNat 64 (fld (param c.ps 1) 5 0)
      let h := takeHandle c.port b
      let t : CtxTestOp := { port := c.port, handle := h.1, ctx := n, waitMax := (param c.ps 2).toNat, since := b.elapsed.now,
                             offAt := b.elapsed.now }
      let asked : State := { h.2 with bg.ctxTest := some t }
      respondAccepted c h.1 (if (b.rx.ctxs[n]).st = .free then setCtx (.blvd n) { st := .offline } asked else asked)) ∧
  Does 0xB02 .bistRun (fun c b => c.ps.length = 1 ∧ (param c.ps 1).toNat < 16 ∧ (param c.ps 1).toNat < b.banks ∧
      b.saveBanks.getLsbD (param c.ps 1).toNat = false ∧ b.peri.dma.toList.any (dmaInBank (param c.ps 1).toNat) = false ∧
      b.bg.bist = none ∧ canAccept c.port b = true)
    (fun c b =>
      let bank := (param c.ps 1).toNat
      let h := takeHandle c.port b
      respondAccepted c h.1 { h.2 with
        bg.bist := some { port := c.port, handle := h.1, bank := Fin.ofNat 16 bank, since := b.elapsed.now }
        sram := b.sram.filter fun x => !(1#16 <<< bank).getLsbD (x.1 / 65536) }) ∧
  Does 0xB03 .loopback (fun c b => c.ps.length = 3 ∧ onlyBits (param c.ps 1) 0x1FFFF#32 = true ∧ bitAt (param c.ps 1) 0 = true ∧
      onlyBits (param c.ps 2) 0x0FFF07FF#32 = true ∧ 1 ≤ (param c.ps 3).toNat ∧ (param c.ps 3).toNat < 65536 ∧
      b.isUsable dKERB = true ∧ b.bg.loop = none)
    (fun c b =>
      let o : LoopOp := { port := c.port, tag := c.tag, kerb := true, passes := b.kerb.passes, decisions := decisionCount b
                          since := b.elapsed.now, durationUs := 1000 * (param c.ps 3).toNat }
      kerbLevelEdge b { b with
        bg.loop := some o
        kerb.bypass := some (Fin.ofNat 8 (fld (param c.ps 1) 16 14), BitVec.ofNat 12 (fld (param c.ps 2) 27 16)) }) ∧
  Does 0xB03 .loopback (fun c b =>
      let n : Fin 16 := Fin.ofNat 16 (fld (param c.ps 1) 4 1)
      let len := fld (param c.ps 2) 10 0
      let us := loopAirtime n len b
      c.ps.length = 3 ∧ onlyBits (param c.ps 1) 0x1FFFF#32 = true ∧ bitAt (param c.ps 1) 0 = false ∧
      onlyBits (param c.ps 2) 0x0FFF07FF#32 = true ∧ param c.ps 3 = 0#32 ∧ 1 ≤ len ∧ -20 ≤ sfld (param c.ps 1) 13 6 ∧
      sfld (param c.ps 1) 13 6 ≤ 30 ∧ us ≤ 30000000 ∧ b.isUsable dRFFE = true ∧ b.isUsable dALLEY = true ∧
      (b.phy.profiles[n].ofdm = true → b.isUsable dOFDM = true) ∧
      (b.radio.mode = .idle ∨ b.radio.mode = .rx ∧ anyCommitted b = false) ∧ b.bg.loop = none ∧ ackPendingNow b = false ∧
      awaiting b = none ∧ fixedStartBefore (b.time.nt.toNat + usUp us + msU 2) b = false)
    (fun c b =>
      let us := loopAirtime (Fin.ofNat 16 (fld (param c.ps 1) 4 1)) (fld (param c.ps 2) 10 0) b
      let looped : State := { b with bg.loop := some { port := c.port, tag := c.tag, kerb := false, since := b.elapsed.now, durationUs := us } }
      if b.radio.mode = .rx then startBlank looped else looped) ∧
  Answers 0xB04 .bgPause (fun c b => c.ps.length = 1 ∧ 1 ≤ (param c.ps 1).toNat ∧ (param c.ps 1).toNat ≤ 10000 ∧ b.bg.pause = none ∧
      ∀ t n, b.bg.lastPause = some (t, n) → t.toNat + msU n ≤ b.elapsed.now.toNat) .ok (fun _ _ => [])
    (fun c b => { endDrain b with bg.pause := some (b.elapsed.now, (param c.ps 1).toNat) }) ∧
  (∀ t n, Answers 0xB04 .bgPause (fun c b => c.ps = [0] ∧ b.bg.pause = some (t, n)) .ok (fun _ _ => [])
    (fun _ b =>
      let ms := min n (msBetween t b.elapsed.now)
      { b with bg.pause := none, bg.lastPause := some (b.elapsed.now, ms), bg.pauseMs := satAdd b.bg.pauseMs ms })) ∧
  Answers 0xB04 .bgPause (fun c b => c.ps = [0] ∧ b.bg.pause = none) .ok (fun _ _ => []) (fun _ b => b) ∧
  (∀ a r t : BitVec 8, a ≠ 0 ∧ r ≠ 0 ∧ t ≠ 0 →
    Answers 0xB05 .bgConfig (fun c _ => c.ps = [W (a.toNat + r.toNat * 2 ^ 8 + t.toNat * 2 ^ 16)]) .ok (fun _ _ => [])
    (fun _ b => { b with bg.scrubS := a, bg.refreshH := r, bg.telemS := t, upd.settings.bg := some (a, r, t) }))

/-- Both parts, or all three, above. -/
def Obligations.KerbAndTestCommandsAnswer : Prop :=
  Sys2Proof.Statements.kerbCommandsAnswer ∧ Sys2Proof.Statements.testCommandsAnswer

/-- R70: the checks that every command passes, in their order. A packet that no port takes, and one for link firmware
while that is parked (R12), leaves the state as it is; a CRC word
that does not match gives BAD_CRC; then a host-only opcode on another port DENIED, then an outstanding tag BUSY with CLASH, then
a COUNT outside the layout BAD_LENGTH, each without any effect of the command. The owner's checks come after these. -/
def Obligations.CommandChecksInOrder : Prop :=
  ∀ row ∈ commandTable, ∀ p s,
    (plazaOpen p.port s = false ∨ (s.parked = true ∧ inHardware row.1 = false) → exec (row.2.1 p) s = .next s) ∧
    (plazaOpen p.port s = true → (s.parked = true → inHardware row.1 = true) → (waitsForCal row.1 = true → s.radio.cal.full = false) →
      ∀ s1 crc, arrive 0 row.1 p s = some (s1, crc) →
      let allowed := !hostOnly row.1 || s.isHostPort p.port
      let clash := (s.port p.port).tags.contains p.tag
      (crc = false → exec (row.2.1 p) s = .next (refuseCrc p row.1 s1)) ∧
      (crc = true → allowed = false → exec (row.2.1 p) s = .next (refuseUnseen p.port row.1 p.tag .denied false s1)) ∧
      (crc = true → allowed = true → clash = true → exec (row.2.1 p) s = .next (refuseUnseen p.port row.1 p.tag .busy true s1)) ∧
      (crc = true → allowed = true → clash = false → row.2.2 p.params = false →
        exec (row.2.1 p) s = .next (finish (asCmd row.1 p) .badLength [] (markOutstanding p s1))))

/-- R70 steps 1 to 3: a packet whose CLASS is not 0 or whose CODE is not in the index gives BAD_OPCODE, and one whose CRC word
does not match gives BAD_CRC, whatever else it holds. -/
def Obligations.RefusedPacketsAnswer : Prop :=
  (∀ p cls code s s1, plazaOpen p.port s = true → (cls ≠ 0#4 ∨ code.toNat ∉ commandTable.map (·.1)) →
    arrive cls.toNat code.toNat p s = some (s1, true) →
    exec (.badOpcode p cls code) s = .next (refuseUnseen p.port code.toNat p.tag .badOpcode false s1)) ∧
  (∀ p code s s1, plazaOpen p.port s = true → arrive 0 (BitVec.toNat code) p s = some (s1, false) →
    exec (.badCrc p code) s = .next (refuseCrc p code.toNat s1))

/-- R86, R88 to R92: what a live port answers to a write, a poll and a transaction of no operation, and what a break and the
byte after it do. -/
def Obligations.HostPortTransactionsAnswer : Prop :=
  (∀ wire ctrl data s0, portLive wire.isUart s0 = true → typeOf ctrl = 1 →
    let s := onWire wire s0
    let uart := wire.isUart
    let p := extPort uart
    let q := s.port p
    let q1 := applyResync ctrl { q with crcErr := false, overrun := false, protoErr := malformed ctrl }
    let replied := s.setPort p { q1 with out := statusWord q ctrl :: (if uart then [] else data.map fun _ => idleWord) }
    exec (.hostWriteTransaction wire ctrl data) s0 =
      .next (if malformed ctrl then replied else writeWords p (64 - q.cmd.stages.length) (data.take (wordsOf ctrl)) replied)) ∧
  (∀ wire ctrl clocked s0, portLive wire.isUart s0 = true → typeOf ctrl = 3 → malformed ctrl = false →
    let s := onWire wire s0
    let uart := wire.isUart
    let p := extPort uart
    let q := s.port p
    let counts := [W (q.lanes[0].complete % 64 + q.lanes[1].complete % 64 * 2 ^ 8 + q.lanes[2].complete % 64 * 2 ^ 16
        + q.lanes[3].complete % 64 * 2 ^ 24), W (q.lanes[4].complete % 64)]
    let data := if uart then counts else (counts ++ List.replicate clocked idleWord).take clocked
    exec (.hostPollTransaction wire ctrl clocked) s0 = .next (s.setPort p { applyResync ctrl { q with
      crcErr := false, overrun := false, protoErr := false } with out := statusWord q ctrl :: data })) ∧
  (∀ wire ctrl clocked s0, portLive wire.isUart s0 = true → typeOf ctrl = 0 →
    let s := onWire wire s0
    let uart := wire.isUart
    let p := extPort uart
    let q := s.port p
    exec (.hostNopTransaction wire ctrl clocked) s0 = .next (s.setPort p { applyResync ctrl { q with
      crcErr := false, overrun := false, protoErr := malformed ctrl } with
      out := statusWord q ctrl :: (if uart then [] else List.replicate clocked idleWord) })) ∧
  (∀ n s, portLive true s = true → 0 < n → onWire (.uart n) s =
    s.setPort .uart { s.port .uart with lineErr := satAdd (s.port .uart).lineErr n }) ∧
  (∀ n s, s.awake = true → s.power.vio = true →
    let cut := 0 < n ∧ s.plaza.uartBitNs ≠ none
    let s0 := if cut then s.setPort .uart { s.port .uart with lineErr := satAdd (s.port .uart).lineErr 1 } else s
    let s1 := s0.setPort .uart (resync (s0.port .uart))
    exec (.uartBreak n) s = .next { s1 with plaza.uartBitNs := none, plaza.uartRateDue := true }) ∧
  (∀ n s, s.awake = false ∨ s.power.vio = false → exec (.uartBreak n) s = .next s) ∧
  (∀ byte cellsOk bitNs s, s.plaza.uartRateDue = true →
    let s1 := { s with plaza.uartRateDue := false }
    exec (.uartRateByte byte cellsOk bitNs) s = .next (
      if byte = 0x55#8 && cellsOk then { s1 with plaza.uartBitNs := some bitNs }
      else s1.setPort .uart { s.port .uart with lineErr := satAdd (s.port .uart).lineErr 1 }))

/-- R93, R94, R82, R79: the mailbox registers, the event backlog and the Frame Store's mover. -/
def Obligations.MailboxAndMoverAct : Prop :=
  (∀ w s, pageOpen s dLINK = true → s.plaza.mbxHold = none → (s.port .mbx).cmd.discard = 0 →
    let q := s.port .mbx
    exec (.mbxCmdWrite w) s = .next (
      if q.cmd.stages.length < 64 then s.setPort .mbx { q with cmd := q.cmd.accept false (plazaRoom .mbx s) w }
      else { s with plaza.mbxHold := some w })) ∧
  (∀ w s, s.plaza.mbxHold = some w → exec .mbxCmdHoldExpiry s =
    .next (overrunAt .mbx false w { s with plaza.mbxHold := none, plaza.mbxOverrun := true })) ∧
  (∀ (i : Fin 5) s, pageOpen s dLINK = true → ((s.port .mbx).lanes[i]).stages = [] →
    exec (.mbxLaneRead i) s = .next (busOut 0x7E7E7E7E#32 s)) ∧
  (∀ (i : Fin 5) w rest s, pageOpen s dLINK = true → ((s.port .mbx).lanes[i]).stages = w :: rest →
    let q := s.port .mbx
    let l := q.lanes[i]
    let left := if l.cursor = 0 then countOf w else l.cursor - 1
    let taken := s.setPort .mbx { q with lanes := q.lanes.set i { l with
      stages := rest, cursor := left, out := l.out + 1, complete := if left = 0 then l.complete - 1 else l.complete } }
    exec (.mbxLaneRead i) s =
      .next (busOut w (settleLane .mbx i (if left = 0 then packetTaken .mbx i taken else taken)))) ∧
  (∀ p pkt rest s, s.inRun = true → (s.port p).backlog = pkt :: rest → ((s.port p).lanes[laneEvt]).waiting = [] →
    ((s.port p).lanes[laneEvt]).stages.length + pkt.length ≤ 64 →
    exec (.eventBacklogDrain p) s = .next (placeLost p
      (produce p laneEvt (pkt.map fun w => (w, none)) (s.setPort p { s.port p with backlog := rest })))) ∧
  (∀ high f s, s.inRun = true → nextMove high s = some f →
    exec (.frameStoreMove high) s = .next (produce f.port (if high then laneRxHigh else laneRxLow) (f.words.map fun w => (w, none))
      { s with rx.store := s.rx.store.replace f { f with moved := true } }))

/-- R86, R87, R75: what a live port answers to a read transaction. The status word goes first; then, of the Lane that LANE names,
no more words than the host asks for (and, on SPI, clocks) and than AVAIL counts, filled up on SPI with idle words; a delivered
word leaves the Lane, stalled words move into the free stages, and a packet whose last word was taken frees its Frame Store slot. -/
def Obligations.HostReadTransactionsAnswer : Prop :=
  ∀ wire ctrl clocked s0, portLive wire.isUart s0 = true → typeOf ctrl = 2 →
    let s := onWire wire s0
    let uart := wire.isUart
    let p := extPort uart
    let q := s.port p
    let q1 := applyResync ctrl { q with crcErr := false, overrun := false, protoErr := malformed ctrl }
    (malformed ctrl = true → exec (.hostReadTransaction wire ctrl clocked) s0 = .next (s.setPort p { q1 with
      out := statusWord q ctrl :: (if uart then [] else List.replicate clocked idleWord) })) ∧
    (malformed ctrl = false → ∀ got left ended,
      readMany (min (if uart then wordsOf ctrl else min (wordsOf ctrl) clocked) (availFor q ctrl)) q.lanes[laneIdx ctrl] =
        (got, left, ended) →
      exec (.hostReadTransaction wire ctrl clocked) s0 =
        .next (settleLane p (laneIdx ctrl) (iterate (packetTaken p (laneIdx ctrl)) ended (s.setPort p { q1 with
          lanes := q1.lanes.set (laneIdx ctrl) left
          out := statusWord q ctrl :: (got ++ if uart then [] else List.replicate (clocked - got.length) idleWord) }))))

/-- R68, R87, R75: a Lane at a packet boundary whose oldest packet is w followed by its COUNT parameter words delivers, to a read
of COUNT + 2 words, exactly that packet in order and then the CRC word over it; one packet has ended, the completion counter
has fallen by one, and the words behind it stay. -/
def Obligations.WholePacketIsDelivered : Prop :=
  ∀ (l : Lane) w ps rest, l.cursor = 0 → l.crcDue = none → l.taken = [] → l.stages = (w :: ps) ++ rest → ps.length = countOf w →
    readMany (ps.length + 2) l =
      ((w :: ps) ++ [crcOfWords (w :: ps)], { l with stages := rest, complete := l.complete - 1, out := l.out + ps.length + 1 }, 1)

/-- R75, R77: a Lane is a FIFO of 64 word stages. After a producer writes words, the stages and then the stalled words are the old
stages, the old stalled words and the new words in that order; the stages hold as many of them as fit in 64. Nothing is lost. -/
def Obligations.LanesAreFifos : Prop :=
  ∀ p (i : Fin 5) ws s, ((s.port p).lanes[i]).stages.length ≤ 64 →
    let l := (s.port p).lanes[i]
    let m := ((produce p i ws s).port p).lanes[i]
    m.stages ++ m.waiting.map (·.1) = l.stages ++ l.waiting.map (·.1) ++ ws.map (·.1) ∧
    m.stages.length = min 64 (l.stages.length + l.waiting.length + ws.length)

/-- R437, R494, R91, R95, R323, R329, R331: when each reset happens, and when its rows leave the device as it is. A cold reset waits
for the LFXO; a warm one starts at once. -/
def Obligations.ResetsAct : Prop :=
  (∀ s, exec .powerOnReset s = .next (coldReset 0 s)) ∧
  (∀ mv s, exec (.brownoutReset mv) s = .next (if mv < 1750 then coldReset 1 s else s)) ∧
  (∀ lowNs strap s, s.sec.extest = false →
    (10000 ≤ lowNs → exec (.resetn lowNs strap) s = .next (warmResetTo 2 none strap s)) ∧
    (lowNs < 1000 → exec (.resetn lowNs strap) s = .next s)) ∧
  (∀ d s, s.plaza.resetDue = some d → d.upTo ≤ ((s.port d.port).lanes[laneResp]).out →
    exec .warmReset s = .next (warmResetTo 3 none (strapLevel s) s)) ∧
  (∀ d since s, s.plaza.resetDue = some d → d.placed = some since → elapsedBy since s.elapsed.now (msU 1) = true →
    exec .warmReset s = .next (warmResetTo 3 none (strapLevel s) s)) ∧
  (∀ d s, s.plaza.resetDue = some d → ((s.port d.port).lanes[laneResp]).out < d.upTo → d.placed = none →
    exec .warmReset s = .next s) ∧
  (∀ s, s.plaza.resetDue = none → exec .warmReset s = .next s) ∧
  (∀ s, s.awake = true → s.sec.debug ≠ .closed → exec .debugReset s = .next (warmResetTo 5 none (strapLevel s) s)) ∧
  (∀ s, s.sec.extest = true → exec (.extest false) s = .next (warmResetTo 5 none (strapLevel s) s)) ∧
  (∀ s, s.sec.extest = false → ∃ t, exec (.extest true) s = .next t ∧ t.sec.extest = true ∧ t.power.phase = .booting ∧
    t.plaza.rdy = false ∧ t.isUsable dCRYPTO = false) ∧
  (∀ s, s.power.lfxoDue = true → s.sec.extest = false →
    exec .lfxoRunning s = .next (boot false { s with power.lfxoDue := false })) ∧
  (∀ s, s.power.lfxoDue = false → exec .lfxoRunning s = .next s)

/-- R10, R25, R306, R494: a power-on or brown-out reset sets NT and the whole time base, the Lanes, tags and handles, the link
table, the Frame Store, the transmit ledger, the key slots and the volatile memories to their reset values; the journals of boots, budgets and key records and the OTP array stay, and the device waits for the LFXO before HOST_RDY rises. -/
def Sys2Proof.Statements.coldResetStartsOver : Prop :=
  ∀ cause s, let t := coldReset cause s
    t.time = {} ∧ t.plaza = {} ∧ t.link = {} ∧ t.rdv = {} ∧ t.rx = {} ∧ t.ledger = {} ∧ t.sram = [] ∧ t.elapsed = {} ∧
    (∀ i : Fin 32, t.sec.slots[i] = none) ∧ t.dir.cfg = none ∧
    t.flash.otp = s.flash.otp ∧ t.flash.bootCount = s.flash.bootCount ∧ t.flash.op = none ∧
    t.traffic.journal = s.traffic.journal ∧ t.sec.records = s.sec.records ∧
    t.power.cause = cause ∧ t.power.phase = .booting ∧ t.power.lfxoDue = true ∧ t.plaza.rdy = false ∧ t.pending = s.pending

/-- R10, R25, R80, R306: what a warm reset leaves before the boot goes on. NT, the step registers, the drift tracker and the servo
run on; the Lanes, tags and handles are empty and no frame is in the Frame Store; each delivered frame that was still there is counted
in LOST_AT_RESET; every marker is disarmed and every capture unit disabled and empty (R53); the ledger ends every pending frame FLUSHED; no key is held; OTP stays. -/
def Sys2Proof.Statements.warmResetKeepsTime : Prop :=
  ∀ s, let t := warmState s
    t.time.nt = s.time.nt ∧ t.time.isSet = s.time.isSet ∧ t.time.stepHf = s.time.stepHf ∧ t.time.stepLf = s.time.stepLf ∧
    t.time.adj = s.time.adj ∧ t.time.integ = s.time.integ ∧ t.time.ppsState = s.time.ppsState ∧ t.elapsed = s.elapsed ∧
    t.plaza = {} ∧ t.rx = {} ∧ t.link.frames = [] ∧ t.cmps = {} ∧
    t.power.lostAtReset = satAdd s.power.lostAtReset (s.rx.store.countP fun f => f.delivered) ∧
    t.ledger = flushLedger s ∧ (∀ i : Fin 32, t.sec.slots[i] = none) ∧ t.sram = s.sram ∧
    t.flash.otp = s.flash.otp ∧ t.sec.records = s.sec.records ∧ t.pending = s.pending

/-- Both parts, or all three, above. -/
def Obligations.ResetsKeepAndClear : Prop :=
  Sys2Proof.Statements.coldResetStartsOver ∧ Sys2Proof.Statements.warmResetKeepsTime

/-- R342, R345, R348: the arithmetic, logic, shift and immediate instructions of the core. With its sources free of a result still
to come, each writes the value that R345 gives to rd (a write of g0 is discarded), changes no other register, and goes on. -/
def Sys2Proof.Statements.coreArithmeticComputes : Prop :=
  (∀ row ∈ threeOperand, ∀ rd ra rb s b, Executes s b → settledIn b rd → settledIn b ra → settledIn b rb →
    exec (row.1 rd ra rb) s = .next (advance (putReg rd (row.2 (valueOf ra b) (valueOf rb b)) b))) ∧
  (∀ row ∈ shiftsByCount, ∀ rd ra sh s b, Executes s b → settledIn b rd → settledIn b ra →
    exec (row.1 rd ra sh) s = .next (advance (putReg rd (row.2 (valueOf ra b) sh.toNat) b))) ∧
  (∀ row ∈ immediates, ∀ rd ra imm s b, Executes s b → settledIn b rd → settledIn b ra →
    exec (row.1 rd ra imm) s = .next (advance (putReg rd (row.2 (valueOf ra b) imm) b))) ∧
  (∀ rd ra s b, Executes s b → settledIn b rd → settledIn b ra →
    exec (.pbSextb rd ra) s = .next (advance (putReg rd (BitVec.ofInt 32 ((valueOf ra b).setWidth 8).toInt) b)) ∧
    exec (.pbSexth rd ra) s = .next (advance (putReg rd (BitVec.ofInt 32 ((valueOf ra b).setWidth 16).toInt) b)) ∧
    ∃ n : Nat, exec (.pbClz rd ra) s = .next (advance (putReg rd (BitVec.ofNat 32 n) b)) ∧ n ≤ 32 ∧
      (valueOf ra b).toNat < 2 ^ (32 - n) ∧ (n < 32 → 2 ^ (31 - n) ≤ (valueOf ra b).toNat)) ∧
  (∀ rd imm s b, Executes s b → settledIn b rd →
    exec (.pbLui rd 0#5 imm) s = .next (advance (putReg rd (BitVec.ofNat 32 (BitVec.toNat imm * 2 ^ 16)) b))) ∧
  (∀ rd ra imm s b, Executes s b → ra ≠ 0#5 → exec (.pbLui rd ra imm) s = .next (takeExc { vector := 1 } b))

/-- R345, R348: the multiplies. The product, or its sum with or its difference from rd, goes to rd, usable at distance 3. -/
def Sys2Proof.Statements.coreMultipliesCompute : Prop :=
  ∀ row ∈ multiplies, ∀ rd ra rb s b, Executes s b → settledIn b rd → settledIn b ra → settledIn b rb →
    exec (row.1 rd ra rb) s = .next (advance (usableAt 3 rd
      (putReg rd (row.2.2 (if row.2.1 then valueOf rd b else 0#32) (valueOf ra b) (valueOf rb b)) b)))

/-- Both parts, or all three, above. -/
def Obligations.CoreArithmeticComputes : Prop :=
  Sys2Proof.Statements.coreArithmeticComputes ∧ Sys2Proof.Statements.coreMultipliesCompute

/-- R345, R348, R365: loads and stores. At an aligned address that the bus serves, a load writes rd, usable at distance 2, and a
store writes the low bytes of rs; a load orders earlier stores to its page, after which an interrupt source that one of them cleared
is no longer shown (R358); a misaligned address raises vector 3 with that address, an address that the bus refuses vector 2. -/
def Obligations.CoreLoadsAndStoresAct : Prop :=
  (∀ row ∈ loads, ∀ rd ra imm s b, Executes s b → settledIn b ra →
    let a := accessAt ra imm b
    (∀ w t, a.toNat % row.2.1 = 0 → busRead a.toNat row.2.1 b = .ok (w, t) → settledIn t rd → exec (row.1 rd ra imm) s =
      .next (advance (usableAt 2 rd (putReg rd (row.2.2 w) (orderPage a.toNat { t with core.busRead := w }))))) ∧
    (a.toNat % row.2.1 ≠ 0 → exec (row.1 rd ra imm) s = .next (takeExc { vector := 3, addr := some a } b)) ∧
    (∀ k, a.toNat % row.2.1 = 0 → busRead a.toNat row.2.1 b = .error k →
      exec (row.1 rd ra imm) s = .next (takeExc { vector := 2, addr := some a, kind := some k } b))) ∧
  (∀ row ∈ stores, ∀ rs ra imm s b, Executes s b → settledIn b ra → settledIn b rs →
    let a := accessAt ra imm b
    (∀ t, a.toNat % row.2 = 0 → busWrite a.toNat row.2 (valueOf rs b) b = .ok t → exec (row.1 rs ra imm) s =
      .next (advance (noteCleared a.toNat b t))) ∧
    (a.toNat % row.2 ≠ 0 → exec (row.1 rs ra imm) s = .next (takeExc { vector := 3, addr := some a } b)) ∧
    (∀ k, a.toNat % row.2 = 0 → busWrite a.toNat row.2 (valueOf rs b) b = .error k →
      exec (row.1 rs ra imm) s = .next (takeExc { vector := 2, addr := some a, kind := some k } b)))

/-- R344, R345, R350, R354, R357: branches, jumps, calls and returns. Where it may stand (not in a delay slot, not at the end of an
active loop), a transfer lets the instruction at pc + 4 run and then goes to its target, or a branch not taken to pc + 8; CALL and CALLR push
the address pc + 8, RET pops its target, RETI pops STATUS and its target. -/
def Obligations.CoreTransfersAct : Prop :=
  ∀ s b, Executes s b → s.core.slot = none → atLoopEnd s = false →
    (∀ row ∈ branches, ∀ ra rb off, settledIn b ra → settledIn b rb → exec (row.1 ra rb off) s = .next (
      if row.2 (valueOf ra b) (valueOf rb b) then slotThen (b.core.pc + BitVec.ofInt 32 (4 * BitVec.toInt off)) true none b
      else slotThen (b.core.pc + 8) false none b)) ∧
    (∀ off, exec (.pbJmp off) s = .next (slotThen (b.core.pc + BitVec.ofInt 32 (4 * BitVec.toInt off)) true none b)) ∧
    (∀ off t, pushWord (b.core.pc + 8) b = some t →
      exec (.pbCall off) s = .next (slotThen (b.core.pc + BitVec.ofInt 32 (4 * BitVec.toInt off)) true none t)) ∧
    (∀ ra, settledIn b ra → (valueOf ra b).toNat % 4 = 0 → exec (.pbJr ra) s = .next (slotThen (valueOf ra b) true none b)) ∧
    (∀ ra, settledIn b ra → (valueOf ra b).toNat % 4 ≠ 0 →
      exec (.pbJr ra) s = .next (takeExc { vector := 3, addr := some (valueOf ra b) } b)) ∧
    (∀ ra t, settledIn b ra → (valueOf ra b).toNat % 4 = 0 → pushWord (b.core.pc + 8) b = some t →
      exec (.pbCallr ra) s = .next (slotThen (valueOf ra b) true none t)) ∧
    (∀ w t, popWord b = some (w, t) → w.toNat % 4 = 0 → exec .pbRet s = .next (slotThen w true none t)) ∧
    (∀ w t, popWord b = some (w, t) → w.toNat % 4 ≠ 0 → exec .pbRet s = .next (takeExc { vector := 3, addr := some w } b)) ∧
    (∀ st w t u, popWord b = some (st, t) → popWord t = some (w, u) → w.toNat % 4 = 0 →
      exec .pbReti s = .next (slotThen w true (some (statusOf st)) u))

/-- R343, R345, R346, R351, R352, R361: loops, moves to and from special registers, and the cache. A loop of count 0 is skipped;
a loop set that does not exist, a LEN below 2 or a special-register number not in use is illegal. -/
def Sys2Proof.Statements.coreLoopsAndMovesAct : Prop :=
  (∀ s b, Executes s b → s.core.slot = none → atLoopEnd s = false → ∀ (n : BitVec 2) (len : BitVec 12),
    let set (count : Word) (h : n.toNat < 3) : State := { b with
      core.ls := b.core.ls.set n.toNat (b.core.pc + 4), core.le := b.core.le.set n.toNat (b.core.pc + BitVec.ofNat 32 (4 * len.toNat)),
      core.lc := b.core.lc.set n.toNat count, core.specHazards := b.core.specHazards.filter fun h => h.sr.toNat / 3 ≠ n.toNat }
    let go (count : Word) (h : n.toNat < 3) : State := age { set count h with
      core.pc := if count = 0#32 then b.core.pc + BitVec.ofNat 32 (4 * len.toNat) + 4 else b.core.pc + 4
      core.cycles := if count = 0#32 then b.core.cycles + 1 else b.core.cycles }
    (∀ (h : n.toNat < 3) ra, settledIn b ra → 2 ≤ len.toNat → exec (.pbLoop n ra len) s = .next (go (valueOf ra b) h)) ∧
    (∀ (h : n.toNat < 3) cnt, 2 ≤ len.toNat → exec (.pbLoopi n cnt len) s = .next (go (BitVec.setWidth 32 cnt) h)) ∧
    (∀ ra cnt, (n = 3#2 ∨ len.toNat < 2) → settledIn b ra → exec (.pbLoop n ra len) s = .next (takeExc { vector := 1 } b) ∧
      exec (.pbLoopi n cnt len) s = .next (takeExc { vector := 1 } b))) ∧
  (∀ s b, Executes s b →
    (∀ sr ra, badSr (BitVec.toNat sr) = false → settledIn b ra →
      exec (.pbMoveTo sr ra) s = .next (advance (writeSr sr.toNat (valueOf ra b) b))) ∧
    (∀ sr r, badSr (BitVec.toNat sr) = true → exec (.pbMoveTo sr r) s = .next (takeExc { vector := 1 } b) ∧
      exec (.pbMoveFrom r sr) s = .next (takeExc { vector := 1 } b)) ∧
    (∀ rd sr w t, badSr (BitVec.toNat sr) = false → readSr sr.toNat b = (w, t) → settledIn t rd →
      exec (.pbMoveFrom rd sr) s = .next (advance (putReg rd w t))) ∧
    (∀ rd w t, readSr 21 b = (w, t) → settledIn t rd → exec (.cycleLoRead rd) s = .next (advance (putReg rd w t))) ∧
    (∀ rd, settledIn b rd → exec (.cacheMissRead rd) s =
      .next (advance (putReg rd b.core.cacheMiss { b with core.cacheMiss := 0 }))) ∧
    exec .cachectlInv s = .next (advance (writeSr 23 (if b.core.cacheEn then 3#32 else 2#32) b)) ∧
    exec .pbIcinv s = .next (advance { b with core.cache := [], core.cycles := b.core.cycles + 259 }) ∧
    exec .pbFence s = .next (advance b))

/-- R354, R357: the stack. PUSH stores ra below g30, POP loads rd from it; PUSHL stores the loop sets of its mask, n ascending, and
deactivates them; POPL restores them, n descending. -/
def Sys2Proof.Statements.coreStackActs : Prop :=
  ∀ s b, Executes s b →
    (∀ ra t, settledIn b ra → pushWord (valueOf ra b) b = some t → exec (.pbPush ra) s = .next (advance t)) ∧
    (∀ rd w t, rd ≠ 30#5 → popWord b = some (w, t) → settledIn t rd →
      exec (.pbPop rd) s = .next (advance (usableAt 2 rd (putReg rd w { t with core.busRead := w })))) ∧
    (∀ mask t, pushWords ((List.finRange 3).flatMap fun n => if BitVec.getLsbD mask n.val
        then [b.core.ls[n], b.core.le[n], b.core.lc[n]] else []) b = some t →
      exec (.pbPushl mask) s = .next (advance { t with
        core.lc := Vector.ofFn fun n => if mask.getLsbD n.val then 0#32 else t.core.lc[n] })) ∧
    (∀ mask t, popLoopSets mask b = some t → exec (.pbPopl mask) s = .next (advance t))

/-- Both parts, or all three, above. -/
def Obligations.CoreLoopsMovesAndStackAct : Prop :=
  Sys2Proof.Statements.coreLoopsAndMovesAct ∧ Sys2Proof.Statements.coreStackActs

/-- R350, R352: where execution goes on. With no write to a special register still to settle: after an instruction that ends no active
loop, at pc + 4; after the last of a loop body, at LSn with LCn one less while LCn > 1, and at pc + 4 with LCn 0 when LCn = 1; after a
delay slot, at the taken target, with the STATUS that RETI restores; after the slot of a transfer not taken, as without one. -/
def Obligations.CoreGoesOn : Prop :=
  ∀ s, s.core.specHazards = [] →
    (s.core.slot = none → noLoopEnd s → advance s = age { s with core.pc := s.core.pc + 4 }) ∧
    (∀ n : Fin 3, s.core.slot = none → s.core.le[n] = s.core.pc → s.core.lc[n] ≠ 0#32 →
      (∀ m : Fin 3, m < n → s.core.le[m] ≠ s.core.pc ∨ s.core.lc[m] = 0#32) →
      advance s = age { s with
        core.lc := s.core.lc.set n (s.core.lc[n] - 1)
        core.pc := if s.core.lc[n] = 1#32 then s.core.pc + 4 else s.core.ls[n] }) ∧
    (∀ a, s.core.slot = some a → s.core.slotTaken = true → advance s = age { s with
      core.pc := a, core.status := s.core.slotStatus.getD s.core.status, core.slot := none, core.slotStatus := none, core.slotTaken := false }) ∧
    (∀ a, s.core.slot = some a → s.core.slotTaken = false → noLoopEnd s → advance s = age { s with
      core.pc := s.core.pc + 4, core.slot := none, core.slotStatus := none, core.slotTaken := false })

/-- R355, R356, R343: entering an exception outside a delay slot, with EXC = 0. FPC takes the pc, FADDR the address and CAUSE the
vector; the frame holds the resume address, which is the pc, or after TRAP and BREAK the next instruction; then IE = 0 and EXC = 1, and
execution goes on at the vector's address. -/
def Obligations.CoreExceptionsEnter : Prop :=
  ∀ e s w t, s.core.specHazards = [] → s.core.slot = none → s.core.slotStatus = none → s.core.status.getLsbD 4 = false → noLoopEnd s →
    Framed e.vector (if e.next then s.core.pc + 4 else s.core.pc) s.core.status { s with
      core.fpc := s.core.pc, core.faddr := e.addr.getD s.core.faddr, core.cause := causeOf e false s.core.cause,
      core.slot := none, core.slotStatus := none, core.slotTaken := false } w t →
    takeExc e s = { t with core.status := (s.core.status &&& ~~~1#32) ||| 0x10#32, core.pc := w }

/-- R345, R355, R356, R359: TRAP and BREAK raise vectors 4 and 5 (BREAK halts where a debug session is open), WAIT stops until a source
wakes it, and an eligible interrupt is entered between two instructions, never between a transfer and its delay slot. A source
that a store has just cleared may be entered once more before its page is read (R358): whether it is, is a free value. -/
def Obligations.CoreTrapsAndInterruptsAct : Prop :=
  (∀ s b, Executes s b → s.core.slot = none →
    (∀ code, exec (.pbTrap code) s = .next (takeExc { vector := 4, trap := some code, next := true } b)) ∧
    exec .pbWait s = .next (advance { b with core.waiting := true }) ∧
    (b.sec.debug = .closed → exec .pbBreak s = .next (takeExc { vector := 5, next := true } b)) ∧
    (b.sec.debug ≠ .closed → exec .pbBreak s = .next (advance { b with core.halted := true }))) ∧
  (∀ s, (coreRuns s = false ∨ s.core.slot ≠ none ∨ (intcTop s = none ∧ s.core.stale = [])) → exec .interruptEntry s = .next s) ∧
  (∀ s v l, coreRuns s = true → s.core.slot = none → s.core.specHazards = [] → intcTop s = some (v, l) →
    (s.core.stale = [] → (s.core.status.getLsbD 0 = false ∨ l ≤ fld s.core.status 3 1 ∨ s.core.status.getLsbD 4 = true) → exec .interruptEntry s = .next s) ∧
    (s.core.status.getLsbD 0 = true → fld s.core.status 3 1 < l → s.core.status.getLsbD 4 = false → ∀ w t,
      Framed v s.core.pc s.core.status { s with core.waiting := false } w t → exec .interruptEntry s = .next { t with
        core.status := (s.core.status &&& ~~~0xE#32) ||| BitVec.ofNat 32 (l * 2)
        core.cause := (t.core.cause &&& ~~~0x1F#32) ||| BitVec.ofNat 32 v, core.pc := w })) ∧
  (∀ s h, coreRuns s = true → s.core.slot = none → s.core.specHazards = [] → intcTop s = none →
    (s.core.stale.find? fun k => decide (s.core.status.getLsbD 0 = true ∧ fld s.core.status 3 1 < k.level ∧
      s.core.status.getLsbD 4 = false)) = some h →
    let kept := { s with core.stale := s.core.stale.filter fun k => k.vector ≠ h.vector, free := s.free + 1 }
    (Config.freeBool s.free = false → exec .interruptEntry s = .next kept) ∧
    (Config.freeBool s.free = true → ∀ w t, Framed h.vector s.core.pc s.core.status { kept with core.waiting := false } w t →
      exec .interruptEntry s = .next { t with
        core.status := (s.core.status &&& ~~~0xE#32) ||| BitVec.ofNat 32 (h.level * 2)
        core.cause := (t.core.cause &&& ~~~0x1F#32) ||| BitVec.ofNat 32 h.vector, core.pc := w }))

/-- R350, R353: what the manual leaves undefined in place stops by name: a transfer, a loop or a system instruction in a delay slot,
and a transfer or a loop at the end of an active loop. -/
def Obligations.CoreUndefinedPlacesStop : Prop :=
  (∀ i s, isTransfer i ∨ isSystem i → coreFetches s = true → s.core.slot ≠ none → exec i s = .fault .undefinedDelaySlot) ∧
  (∀ i s, isTransfer i → coreFetches s = true → s.core.slot = none → atLoopEnd s = true → exec i s = .fault .undefinedLoopEnd)

/-- R31 to R35, R38: an edge on PPS_IN. Without PPS_CONFIG.ENABLE, and at the edge that POL does not
select (R61), nothing happens; an edge less than 0.5 s of NT after the last accepted
one is only counted as a glitch; an accepted edge with no load pending is captured by CP0, counted, and its phase error e (NT's
low word as a signed number) goes to NTC_PPS_ERR; after the first one the drift tracker samples the edge; and where the servo
acts, in run on HFXO, the edge is judged. -/
def Sys2Proof.Statements.ppsEdgesAct : Prop :=
  (∀ r lf s, (s.time.enable = false ∨ s.time.activeEdge r = false) → exec (.ppsEdge r lf) s = .next s) ∧
  (∀ r lf l s, s.time.enable = true → s.power.vio = true → s.time.activeEdge r = true → s.time.lastEdge = some l → (s.time.nt - l).toNat < 2 ^ 31 →
    exec (.ppsEdge r lf) s = .next { s with time.glitch := satInc16 s.time.glitch }) ∧
  (∀ r lf s, s.time.enable = true → s.power.vio = true → s.time.activeEdge r = true → s.time.setPending = none →
    (∀ l, s.time.lastEdge = some l → 2 ^ 31 ≤ (s.time.nt - l).toNat) →
    let e := (lo32 s.time.nt).toInt
    let s1 := captureAt 0 s.time.nt { s with time.lastEdge := some s.time.nt, time.edges := s.time.edges + 1, time.ppsErr := WI e }
    let s2 := if s.time.lastEdge = none then s1 else { s1 with time := edgeSample lf s1.time }
    let s3 := if s2.time.servo = true ∧ s2.awake = true ∧ s2.time.onLf = false then judgeEdge e s.time.nt s2 else s2
    exec (.ppsEdge r lf) s = .next { s3 with time.lossFrom := some s.time.nt })

/-- R32, R33, R34: what judging an edge of phase error e does to the servo in ACQUIRING. Beyond 2^22 fraction units NTC_ADJ is set
against the sign of e and I stays; otherwise I takes e, saturating at ±(2^31 − 1), and NTC_ADJ becomes the clamped
−(e >> KP) − (I >> KI). An edge within ±4,295 units counts, and the fourth in a row enters LOCKED; any other resets the count. -/
def Sys2Proof.Statements.servoJudgesEdges : Prop :=
  ∀ e c s, s.time.ppsState = .acquiring →
    let t := judgeEdge e c s
    let i := clampI (-(2 ^ 31 - 1)) (2 ^ 31 - 1) (s.time.integ.toInt + e)
    (2 ^ 22 < e → t.time.integ = s.time.integ ∧ t.time.adj = WI (-858993)) ∧
    (e < -2 ^ 22 → t.time.integ = s.time.integ ∧ t.time.adj = WI 858993) ∧
    (e.natAbs ≤ 2 ^ 22 → t.time.integ = WI i ∧
      t.time.adj = WI (clampI (-858993) 858993 (-(e >>> s.time.kp.toNat) - (i >>> s.time.ki.toNat)))) ∧
    (4295 < e.natAbs → t.time.lockCount = 0 ∧ t.time.ppsState = .acquiring) ∧
    (e.natAbs ≤ 4295 → s.time.lockCount.val < 3 → t.time.lockCount = s.time.lockCount + 1 ∧ t.time.ppsState = .acquiring) ∧
    (e.natAbs ≤ 4295 → 3 ≤ s.time.lockCount.val → t.time.lockCount = 4 ∧ t.time.ppsState = .locked)

/-- Both parts, or all three, above. -/
def Obligations.PpsEdgesSteerTheServo : Prop :=
  Sys2Proof.Statements.ppsEdgesAct ∧ Sys2Proof.Statements.servoJudgesEdges

/-- R34, R38, R39, R29, R43, R36: the other events of the time base. -/
def Obligations.TimeEventsAct : Prop :=
  (∀ l s, s.time.lossFrom = some l → elapsedBy l s.time.nt lossUnits = true → (s.time.ppsState = .acquiring ∨ s.time.ppsState = .locked) →
    exec .ppsLost s = .next (raise 0x020 [0#32] (ntcIrq 12 { s with time.lossFrom := none, time.ppsState := .holdover }))) ∧
  (∀ q s, s.time.setPending = some q → elapsedBy q.since s.elapsed.now lossUnits = true →
    exec .ntSetExpired s = .next (finish ⟨q.port, q.tag, 0x201, []⟩ .expired [] { s with time.setPending := none })) ∧
  (∀ sl s, s.time.slew = some sl → sl.reached = true →
    exec .ntSlewComplete s = .next { s with time.adj := WI sl.base, time.slew := none }) ∧
  (∀ s, s.time.onLf = true → s.awake = true →
    exec .ntToHfxo s = .next { s with time.onLf := false, power.hfxo := true, power.driftDue := true }) ∧
  (∀ m s, s.power.driftDue = true → s.time.onLf = false →
    exec (.wakeDriftSample m) s = .next { s with power.driftDue := false, time := driftSample m s.time }) ∧
  (∀ s, s.time.outEn = true → s.time.onLf = false → s.awake = true → s.power.pll = true → s.time.ppsOut = false →
    secondPassed s = true → exec .ppsOutRise s = .next { s with time.ppsOut := true, time.ppsOutRise := s.elapsed.now }) ∧
  (∀ s, s.time.ppsOut = true → elapsedBy s.time.ppsOutRise s.elapsed.now (usU s.time.width.toNat) = true →
    exec .ppsOutFall s = .next { s with time.ppsOut := false })

/-- R45, R46, R49, R50, R52, R59: markers and capture units. A firing marker loses ARM and takes LATE; MK0 to MK7 without an action
do nothing else but their event. A capture unit keeps its oldest unread value: the next one waits in the pending slot, and a further one
is lost and counted. The low word freezes the pair, the high word of a frozen pair consumes it, after which the pending
value moves in. A write of ARM = 0 to a marker that is due comes after its firing. -/
def Obligations.MarkersAndCapturesAct : Prop :=
  (∀ n s, (bitAt s.cmps.marks[n].ctrl 0 = false ∨ s.time.nt.toNat < s.cmps.marks[n].target.toNat) →
    exec (.markerFired n) s = .next s) ∧
  (∀ (n : Fin 16) s, let m := s.cmps.marks[n]
    bitAt m.ctrl 0 = true → m.target.toNat ≤ s.time.nt.toNat →
    (∃ t, exec (.markerFired n) s = .next t ∧ t.cmps.marks[n].fired = true ∧ t.cmps.marks[n].late = (m.late || m.jumped) ∧
      t.cmps.marks[n].ctrl = m.ctrl &&& ~~~1#32 ∧ t.cmps.marks[n].target = m.target) ∧
    (n.val < 8 → fld m.ctrl 7 3 = 0 →
      let t := { s with cmps.marks := s.cmps.marks.set n { m with
        ctrl := m.ctrl &&& ~~~1#32, fired := true, late := m.late || m.jumped, jumped := false } }
      exec (.markerFired n) s = .next (if bitAt m.ctrl 1 then raise 0x0C1 (W (n.val + b2n m.jumped * 16) :: words64 m.target) t else t))) ∧
  (∀ (n : Fin 8) ctrl s, pageOpen s 0 = true →
    let i : Fin 16 := ⟨n.val + 8, by omega⟩
    let m := s.cmps.marks[i]
    (bitAt ctrl 0 = true ∨ bitAt m.ctrl 0 = false ∨ s.time.nt.toNat < m.target.toNat →
      exec (.markerArm n ctrl) s = .next { s with cmps.marks := s.cmps.marks.set i { m with
        ctrl := ctrl &&& 0x003F7FFF#32
        jumped := if bitAt ctrl 0 && !bitAt m.ctrl 0 then decide (m.target.toNat ≤ s.time.nt.toNat) else m.jumped && bitAt ctrl 0 } }) ∧
    (∀ t, bitAt ctrl 0 = false → exec (.markerFired i) s = .next t →
      exec (.markerArm n ctrl) s = .next { t with cmps.marks := t.cmps.marks.set i { t.cmps.marks[i] with
        ctrl := ctrl &&& 0x003F7FFF#32, jumped := false } })) ∧
  (∀ (u : Fin 4) i s, (i = .swtrig u ∧ pageOpen s 0 = true ∧ (if u = 0 then s.time.enable else bitAt s.cmps.caps[u].ctrl 0) = true ∨
      ∃ k : Fin 3, i = .capture k ∧ u.val = k.val + 1 ∧ bitAt s.cmps.caps[u].ctrl 0 = true ∧
        1 ≤ fld s.cmps.caps[u].ctrl 4 2 ∧ fld s.cmps.caps[u].ctrl 4 2 ≤ 4) →
    s.cmps.caps[u].moveDue = false →
    let c := s.cmps.caps[u]
    exec i s = .next (ntcIrq (capBit u.val) { s with cmps.caps := s.cmps.caps.set u (
      if c.new = false ∧ c.frozen = false then { c with value := s.time.nt, new := true }
      else if c.slot = none then { c with slot := some s.time.nt }
      else { c with ovr := true, lost := satInc16 c.lost }) })) ∧
  (∀ (u : Fin 4) s, pageOpen s 0 = true →
    let c0 := s.cmps.caps[u]
    let c := if c0.moveDue then { c0 with value := c0.slot.getD c0.value, new := c0.new || c0.slot.isSome, slot := none, moveDue := false }
      else c0
    let put (c : CaptureUnit) : State := { s with cmps.caps := s.cmps.caps.set u c }
    exec (.ntcCpLoRead u) s = .next (busOut (lo32 c.value) (put { c with frozen := true })) ∧
    (c.frozen = true → exec (.ntcCpHiRead u) s =
      .next (busOut (hi32 c.value) (put { c with frozen := false, new := false, moveDue := c.slot.isSome }))) ∧
    (c.frozen = false → exec (.ntcCpHiRead u) s = .next (busOut (hi32 c.value) s)) ∧
    exec (.ntcCpLostRead u) s = .next (busOut (c0.lost.setWidth 32) (put { c0 with lost := 0 })) ∧
    exec .ntcPpsGlitchRead s = .next (busOut (s.time.glitch.setWidth 32) { s with time.glitch := 0 }))

/-- R54, R57, R60: a basic timer starts from COUNT 0 unless it runs, stops where it is, and takes a new PERIOD at any time; at its end it stops
with ENDED, and with SHORT if COUNT passed PERIOD, and triggers its slave timers. -/
def Sys2Proof.Statements.basicTimersAct : Prop :=
  (∀ (n : Fin 8) s, pageOpen s dPERI = true →
    let b := s.peri.bt[n]
    let put (b : BasicTimer) : State := { s with peri.bt := s.peri.bt.set n b }
    (b.running = false → exec (.btStart n) s = .next (put { b with count := 0, acc := 0, running := true, endDue := false, shortDue := false })) ∧
    (b.running = true → exec (.btStart n) s = .next s) ∧
    exec (.btStop n) s = .next (put { b with running := false, endDue := false, shortDue := false }) ∧
    ∀ period, exec (.btPeriodWrite n period) s = .next (put { b with period })) ∧
  (∀ (n : Fin 8) s, let b := s.peri.bt[n]
    s.isUsable dPERI = true → b.running = true → b.endDue = true → bitAt b.ctrl 17 = false → bitAt b.ctrl 18 = false →
    (∀ k : Fin 4, bitAt s.cmps.caps[k].ctrl 0 = false) →
    exec (.btEnd n) s = .next (btTrigger n.val { s with peri.bt := s.peri.bt.set n { b with
      running := false, ended := true, endDue := false, shortDue := false, short := b.short || b.shortDue } })) ∧
  (∀ (n : Fin 8) s, (s.peri.bt[n].running = false ∨ s.peri.bt[n].endDue = false) → exec (.btEnd n) s = .next s) ∧
  (∀ (b : BasicTimer) gate, let a := b.acc + 256
    let t := b.sourceTick gate
    (a < b.presc.toNat → t.acc = a ∧ t.count = b.count ∧ t.endDue = b.endDue) ∧
    (b.presc.toNat ≤ a → t.acc = a - b.presc.toNat ∧ (gate = false → t.count = b.count ∧ t.endDue = b.endDue) ∧
      (gate = true → t.count = b.count + 1 ∧ t.endDue = decide (b.period.toNat ≤ (b.count + 1).toNat) ∧
        t.shortDue = decide (b.period.toNat < (b.count + 1).toNat))))

/-- R373, R374, R371, R360, R365, R7: GPIO output registers, the software interrupts, and a word stored to a register page by application
code. An output register keeps only the pins that the part has; a pulse shorter than 2 SYSCLK cycles is no edge. -/
def Sys2Proof.Statements.pinsAndRegistersAct : Prop :=
  (∀ (p : Fin 4) w s, pageOpen s dPERI = true →
    (∃ t, exec (.gpioSet p w) s = .next t ∧ t.peri.gpio[p].out = (s.peri.gpio[p].out ||| w.setWidth 16) &&& portMask s p.val) ∧
    (∃ t, exec (.gpioClr p w) s = .next t ∧ t.peri.gpio[p].out = (s.peri.gpio[p].out &&& ~~~(w.setWidth 16)) &&& portMask s p.val) ∧
    (∃ t, exec (.gpioTgl p w) s = .next t ∧ t.peri.gpio[p].out = (s.peri.gpio[p].out ^^^ w.setWidth 16) &&& portMask s p.val)) ∧
  (∀ pin level cycles s, (cycles < 2 ∨ pinPresent s (Fin.val pin) = false) → exec (.gpioEdge pin level cycles) s = .next s) ∧
  (∀ pin level cycles s, 2 ≤ cycles → pinPresent s (Fin.val pin) = true →
    ∃ t, exec (.gpioEdge pin level cycles) s = .next t ∧ (t.peri.gpio[portOf pin]).level.getLsbD (bitOf pin) = level ∧
      ∀ p : Fin 4, t.peri.gpio[p].out = s.peri.gpio[p].out) ∧
  (∀ w s, pageOpen s dAPP = true →
    exec (.intcSwset w) s = .next { s with core.swi := s.core.swi ||| w.extractLsb' 24 8 } ∧
    exec (.intcSwclr w) s = .next { s with core.swi := s.core.swi &&& ~~~(w.extractLsb' 24 8) }) ∧
  (∀ addr value s t, s.awake = true → s.on dAPP = true → inDmaPages addr.toNat = true → addr.toNat % 4 = 0 →
    busWrite addr.toNat 4 value s = .ok t → exec (.registerWrite addr value) s = .next t) ∧
  (∀ addr value s k, s.awake = true → s.on dAPP = true → inDmaPages addr.toNat = true → addr.toNat % 4 = 0 →
    busWrite addr.toNat 4 value s = .error k → exec (.registerWrite addr value) s = .next s)

/-- Both parts, or all three, above. -/
def Obligations.TimersPinsAndRegistersAct : Prop :=
  Sys2Proof.Statements.basicTimersAct ∧ Sys2Proof.Statements.pinsAndRegistersAct

/-- R374 to R379, R61: the SPI and I2C controllers and the UARTs. A write to a transmit FIFO appends one frame, a read of a receive
FIFO takes the oldest, a frame, byte or character that ends moves the controller on, and one that finds its FIFO full is lost with the
overrun flag. -/
def Obligations.SerialControllersAct : Prop :=
  (∀ (c : Fin 2) s, pageOpen s dPERI = true →
    let k := s.peri.spic[c]
    let put (k : Spic) : State := { s with peri.spic := s.peri.spic.set c k }
    (∀ w, k.tx.length < 8 → exec (.spicTxWrite c w) s = .next (put (Spic.advance { k with tx := k.tx ++ [w] }))) ∧
    (∀ w rest, k.rx = w :: rest → exec (.spicRxRead c) s = .next (busOut w (put { k with rx := rest }))) ∧
    (k.wire = none → k.tx = [] → exec (.csEnd c) s = .next (put { k with csActive := false, csEnd := false })) ∧
    (k.wire ≠ none ∨ k.tx ≠ [] → exec (.csEnd c) s = .next (put { k with csEnd := true }))) ∧
  (∀ (c : Fin 2) miso s, let k := s.peri.spic[c]
    s.isUsable dPERI = true → k.wire ≠ none → fld k.ctrl 5 4 < 3 →
    let got := miso &&& (if fld k.ctrl 5 4 = 0 then 0xFF#32 else if fld k.ctrl 5 4 = 1 then 0xFFFF#32 else 0xFFFFFFFF#32)
    let k1 : Spic := { k with wire := none, done := k.done || k.tx.isEmpty }
    let k2 : Spic := if k.rx.length < 8 then { k1 with rx := k.rx ++ [got] } else { k1 with rxovr := true }
    exec (.spicFrameEnd c miso) s = .next { s with peri.spic := s.peri.spic.set c k2.advance }) ∧
  (∀ (c : Fin 2) s, pageOpen s dPERI = true →
    let k := s.peri.i2c[c]
    let put (k : I2c) : State := { s with peri.i2c := s.peri.i2c.set c k }
    (∀ w, k.cmd = none → bitAt k.ctrl 0 = true → fld w 15 8 ≠ 0 → exec (.i2cCmdWrite c w) s = .next (put { k with
      cmd := some { addr := w.setWidth 7, read := bitAt w 7, count := fld w 15 8, stop := bitAt w 16 }, doneBytes := 0, held := false })) ∧
    (∀ w, k.tx.length < 8 → exec (.i2cTxWrite c w) s = .next (put { k with tx := k.tx ++ [w.setWidth 8] })) ∧
    (∀ b rest, k.rx = b :: rest → exec (.i2cRxRead c) s = .next (busOut (b.setWidth 32) (put { k with rx := rest })))) ∧
  (∀ (c : Fin 2) acked rx m s, let k := s.peri.i2c[c]
    s.isUsable dPERI = true → k.cmd = some m →
    let put (k : I2c) : State := { s with peri.i2c := s.peri.i2c.set c k }
    let failed : I2c := { k with cmd := none, done := true, err := true, held := false }
    let counted (k : I2c) : I2c :=
      if m.count ≤ k.doneBytes + 1 then { k with doneBytes := k.doneBytes + 1, cmd := none, done := true, held := !m.stop }
      else { k with doneBytes := k.doneBytes + 1 }
    (m.addressed = false → acked = true → exec (.i2cByteEnd c acked rx) s = .next (put { k with cmd := some { m with addressed := true } })) ∧
    (m.addressed = false → acked = false → exec (.i2cByteEnd c acked rx) s = .next (put { failed with nackAddr := true })) ∧
    (m.addressed = true → m.read = true → k.rx.length < 8 →
      exec (.i2cByteEnd c acked rx) s = .next (put (counted { k with rx := k.rx ++ [rx] }))) ∧
    (∀ b rest, m.addressed = true → m.read = false → k.tx = b :: rest → acked = true →
      exec (.i2cByteEnd c acked rx) s = .next (put (counted { k with tx := rest }))) ∧
    (∀ b rest, m.addressed = true → m.read = false → k.tx = b :: rest → acked = false →
      exec (.i2cByteEnd c acked rx) s = .next (put { failed with tx := rest, nackData := true })) ∧
    exec (.i2cTimeout c) s = .next (put { failed with timeout := true })) ∧
  (∀ (u : Fin 3) s, pageOpen s dPERI = true →
    let k := s.peri.uart[u]
    let put (k : Uart) : State := { s with peri.uart := s.peri.uart.set u k }
    (∀ w, k.tx.length < 16 → exec (.uartTxWrite u w) s = .next (put (Uart.advance { k with tx := k.tx ++ [w.setWidth 8] }))) ∧
    (∀ c rest, k.rx = c :: rest → exec (.uartRxRead u) s = .next (busOut (c.setWidth 32) (put { k with rx := rest }))) ∧
    (k.rx = [] → exec (.uartRxRead u) s = .next (busOut 0x800#32 s)) ∧
    exec (.uartLostRead u) s = .next (busOut (k.lost.setWidth 32) (put { k with lost := 0 }))) ∧
  (∀ (u : Fin 3) d ferr brk s, let k := s.peri.uart[u]
    s.isUsable dPERI = true → s.awake = true → bitAt k.ctrl 0 = true → bitAt k.ctrl 1 = true →
    let put (k : Uart) : State := { s with peri.uart := s.peri.uart.set u k }
    let k1 : Uart := { k with err := k.err || ferr || brk, active := true }
    exec (.uartRxCharacter u d false ferr brk) s = .next (put (
      if k.rx.length < 16 then { k1 with rx := k.rx ++ [BitVec.ofNat 11 (BitVec.toNat d + b2n ferr * 512 + b2n brk * 1024)] }
      else { k1 with rxovr := true, lost := satInc16 k.lost })) ∧
    (k.active = true → exec (.rxidle u) s = .next (put { k with rxidle := true, active := false })) ∧
    (∀ c, s.power.hfxo = true → k.wire = some c → exec (.uartTxCharacter u) s = .next (put (Uart.advance { k with wire := none }))))

/-- R379 to R387, R444, R447, R449: the ADC, the DMA engine and the read-to-clear counts of the Kerb window and the PMU. -/
def Sys2Proof.Statements.converterAndDmaAct : Prop :=
  (∀ s, pageOpen s dPERI = true → bitAt s.peri.adc.ctrl 0 = true → s.isUsable dKERB = true →
    let a := s.peri.adc
    let a1 : Adc := if a.busy = none then { a with busy := some 0, delayed := false }
      else if a.pend = false then { a with pend := true } else { a with trigLost := satInc16 a.trigLost, lostSeen := true }
    exec .adcStart s = .next { s with peri.adc := a1 }) ∧
  (∀ s, pageOpen s dPERI = true →
    (∀ r rest, s.peri.adc.fifo = r :: rest → exec .adcDataRead s = .next (busOut (r.setWidth 32) { s with peri.adc.fifo := rest })) ∧
    exec .adcLostRead s = .next (busOut (W (s.peri.adc.trigLost.toNat + s.peri.adc.resLost.toNat * 2 ^ 16))
      { s with peri.adc := { s.peri.adc with trigLost := 0, resLost := 0, lostSeen := false } })) ∧
  (∀ i r n s, let a := s.peri.adc
    a.busy = some i → s.isUsable dPERI = true → s.isUsable dKERB = true → s.awake = true → adcChannel a i ≠ 8 →
    let a1 : Adc := if a.fifo.length < 8 then { a with fifo := a.fifo ++ [BitVec.ofNat 18 (BitVec.toNat r + adcChannel a i * 2 ^ 12 + 2 ^ 16 + b2n a.delayed * 2 ^ 17)] } else { a with resLost := satInc16 a.resLost, lostSeen := true }
    let a2 : Adc := if i < fld a.seq 17 16 then { a1 with busy := some (i + 1) }
      else if a.pend = true then { a1 with busy := some 0, pend := false, delayed := false }
      else { a1 with busy := none, delayed := false }
    exec (.adcConversionEnd r n) s = .next { s with peri.adc := a2 }) ∧
  (∀ s, pageOpen s dPERI = true →
    (∀ w, exec (.dmaSwreq w) s = .next ((List.finRange 16).foldl (fun t (n : Fin 16) => if bitAt w n.val then dmaEvent n t else t) s)) ∧
    (∀ ch : Fin 16, let c := s.peri.dma[ch]
      let put (c : DmaCh) : State := { s with peri.dma := s.peri.dma.set ch c }
      exec (.dmaChStatusRead ch) s = .next (busOut (W (b2n c.serving + b2n c.pend * 2 + b2n c.halted * 4 + c.err.toNat * 8
        + c.lost.toNat * 2 ^ 16)) (put { c with lost := 0 })) ∧
      (bitAt c.ctrl 0 = false → exec (.dmaAbort ch) s = .next (put { c with ctrl := c.ctrl &&& 0x1FFC#32 })) ∧
      (bitAt c.ctrl 0 = true → exec (.dmaAbort ch) s = .next (setCh ch (fun k => { k with ctrl := c.ctrl &&& 0x1FFC#32 })
        (dmaStop ch 0 true (dmaWriteBack ch 3 s)))) ∧
      ∀ ctrl, bitAt c.ctrl 0 = false → bitAt ctrl 1 = false → exec (.dmaChannelEnable ch ctrl) s = .next (dmaLoad ch c.desc
        (put { c with ctrl := (ctrl &&& 0x1FFC#32) ||| 1#32, halted := false, err := 0, total := 0 })))) ∧
  (∀ s, s.peri.dmaEn = false ∨ dmaPick (fun _ => true) s = none → exec .dmaBurst s = .next s) ∧
  (∀ ch s, s.awake = true → s.isUsable dPERI = true → s.peri.dmaEn = true → dmaPick (fun _ => true) s = some ch →
    let c := s.peri.dma[ch]
    let n := if 0 < c.burstLeft then c.burstLeft else if c.serving = true ∧ c.block = true then c.left.toNat else c.burst
    let r := dmaItems ch c.serving n { s with peri.dmaLast := ch }
    let t := setCh ch (fun k => { k with burstLeft := if bitAt k.ctrl 0 then r.2 else 0 }) r.1
    exec .dmaBurst s = .next (if r.2 = 0 ∧ c.serving = true ∧ bitAt t.peri.dma[ch].ctrl 0 = true then
      setCh ch (fun k => { k with serving := k.pend, pend := false }) t else t)) ∧
  (∀ s, pageOpen s dKERB = true →
    (s.kerb.running = false → ∃ t, exec .kerbSwtrig s = .next t ∧ t.kerb.held = s.kerb.held ∧ t.kerb.trigLost = s.kerb.trigLost) ∧
    (s.kerb.running = true → s.kerb.held = false → ∃ t, exec .kerbSwtrig s = .next t ∧ t.kerb.held = true ∧ t.kerb.trigLost = s.kerb.trigLost) ∧
    (s.kerb.running = true → s.kerb.held = true →
      ∃ t, exec .kerbSwtrig s = .next t ∧ t.kerb.held = true ∧ t.kerb.trigLost = satInc16 s.kerb.trigLost) ∧
    exec .kerbTrigRead s = .next (busOut (s.kerb.trigLost.setWidth 32) { s with kerb.trigLost := 0 }) ∧
    exec .kerbDecidedRead s = .next (busOut (s.kerb.decided.setWidth 32) { s with kerb.decided := 0 })) ∧
  (∀ s, pageOpen s 0 = true →
    exec .pmuEventsRead s = .next (busOut (s.power.pmuEvents.setWidth 32) { s with power.pmuEvents := 0 }))

/-- R386: the channel that a burst serves has work, no channel of higher PRIO has, and none of the same PRIO is in the midst of a burst
unless it is itself. -/
def Sys2Proof.Statements.dmaServesTheHighestPriority : Prop :=
  ∀ s ch, dmaPick (fun _ => true) s = some ch → dmaWork s ch = true ∧ ∀ k : Fin 16, dmaWork s k = true →
    s.peri.dma[k].prio ≤ s.peri.dma[ch].prio ∧
    (s.peri.dma[k].prio = s.peri.dma[ch].prio → 0 < s.peri.dma[k].burstLeft → 0 < s.peri.dma[ch].burstLeft)

/-- Both parts, or all three, above. -/
def Obligations.ConverterAndDmaAct : Prop :=
  Sys2Proof.Statements.converterAndDmaAct ∧ Sys2Proof.Statements.dmaServesTheHighestPriority

/-- R102, R130, R131, R135, R144, R194 to R199, R203 to R205, R210 to R213: how reception contexts begin, go on and end. Nothing is
detected while the radio is not in RX, blanked or draining; the Alley's free context takes a detection of its profile's K at 10 dB and
more, with its path's gain set; of two in one sample period the Alley's comes first; a block with more erasures than its code carries
releases the context as BLANKED; a foreign network, a missing mark, no sync within 60 symbols, a bad header or a full Frame Store
release it under those counts; a good header commits it and reserves its bytes; the last payload symbol hands the frame to the pipeline. -/
def Obligations.ReceptionContextsAct : Prop :=
  (∀ d s, (s.radio.mode ≠ .rx ∨ s.radio.blanked = true ∨ s.bg.drain ≠ none ∨ pathReception d.boulevard s = none) →
    exec (.detection d none) s = .next s) ∧
  (∀ d r s, d.boulevard = false → s.radio.mode = .rx → s.radio.blanked = false → s.bg.drain = none → s.rx.alley = some r →
    r.draining = none → (s.phy.profiles[r.profile]).ofdm = false → d.k = (s.phy.profiles[r.profile]).k → 40 ≤ d.metric →
    s.rx.alleyCtx.st ≠ .committed → s.rx.alleyCtx.provisional = false →
    exec (.detection d none) s = .next (seatAlley { d with entry := 0 } s.phy.profiles[r.profile] s)) ∧
  (∀ d r pl fc mk a b c s, d.boulevard = true → s.radio.mode = .rx → s.radio.blanked = false → s.bg.drain = none → s.rx.blvd = some r →
    r.draining = none → s.rx.plan = some pl → pl.entries[d.entry.val]? = some (.chirp fc mk a b c) → 6 ≤ d.k →
    mk.getLsbD (d.k - 6) = true → (pl.detThresh : Int) ≤ d.metric → (∀ n : Fin 64, (s.rx.ctxs[n].entry = d.entry ∧ sameFrame d s.rx.ctxs[n] = true) → False) →
    overlapped d s = none → exec (.detection d none) s = .next (claimFor d (entryProfile pl (.chirp fc mk a b c) d.k) s)) ∧
  (∀ d e s s1 t, d.boulevard = true → e.boulevard = false → exec (.detection e none) s = .next s1 → exec (.detection d none) s1 = .next t →
    exec (.detection d (some e)) s = .next t) ∧
  (∀ id o s, ctxPresent id s = true → (ctxOf id s).busy = true →
    let x := ctxOf id s
    (x.ofdm = true → exec (.symbolDecision id o) s =
      .next (setCtx id { ofdmSymbol s.radio.region o.bins (countSymbol o x) with symbols := x.symbols + 1 } s)) ∧
    (x.ofdm = false →
      let hit := if x.late = true then lateHit x else x.touched || s.radio.blanked
      let spent := x.blockErased + b2n (hit && !pilotSlot x.blockPos)
      exec (.symbolDecision id o) s = .next (
        if hit = true ∧ x.st ≠ .sync ∧ (if x.st = .header then 6 else 2 * codeT x.hdr.code) < spent
        then checkDrains (bumpRx (isBlvd id) .blanked (freeCtx id s))
        else setCtx id (nextSymbol s.radio.blanked (chirpSymbol (strongDb id s) (throughLine o x s) hit x))
          (feedLine (throughLine o x s) hit x s)))) ∧
  (∀ id first second s, ctxPresent id s = true → (ctxOf id s).st = .sync → (ctxOf id s).synced = false →
    let x := ctxOf id s
    let high := syncHalf x first
    let low := syncHalf x second
    let mine := if ctxAnyNet id s then high ≠ 0#6 && low ≠ 0#6 else high ++ low == x.profile.netid
    (x.symbols ≤ 60 → mine = true → exec (.syncDecision id first second) s = .next (setCtx id { x with synced := true, netid := high ++ low } s)) ∧
    (x.symbols ≤ 60 → mine = false → exec (.syncDecision id first second) s = .next (bumpRx (isBlvd id) .foreign (freeCtx id s))) ∧
    (60 < x.symbols → exec (.syncDecision id first second) s = .next (bumpRx (isBlvd id) .noMark (freeCtx id s)))) ∧
  (∀ id s, ctxPresent id s = true → (ctxOf id s).st = .sync →
    let x := ctxOf id s
    ((x.synced = true ∨ 60 ≤ x.symbols) → exec (.noMark id) s = .next (bumpRx (isBlvd id) .noMark (freeCtx id s))) ∧
    (x.synced = false → x.symbols < 60 → exec (.noMark id) s = .next s) ∧
    (∀ first second, x.synced = true →
      let track := trackMark x.preamble ((first + second) / 2)
      exec (.timingMark id first second) s = .next (setCtx id { x with
        st := .header, blockPos := 0, blockErased := 0, cols := [], bits := [], track, markCarrier := track.carrier
        stamp := s.time.nt - BitVec.ofNat 64 (usU ((if x.late then 4 else 2) * symbolUs x.k x.profile.bw)) } s))) ∧
  (∀ id s, ctxPresent id s = true → (ctxOf id s).st = .header → headerHeard (ctxOf id s) = true →
    let x := ctxOf id s
    let bits := (headerBits x).1
    let h := headerOf x bits s
    let ok := if x.ofdm then ofdmHeaderOk bits else chirpHeaderOk (BitVec.setWidth 32 bits) (headerBits x).2
    (ok = false → exec (.headerDecision id) s = .next (bumpRx (isBlvd id) .headerFail (freeCtx id s))) ∧
    (ok = true → x.ofdm = true → mapContent s h.map.toNat = none →
      exec (.headerDecision id) s = .next (bumpRx (isBlvd id) .mapAbsent (freeCtx id s))) ∧
    (ok = true → (x.ofdm = false ∨ mapContent s h.map.toNat ≠ none) →
      let need := 4 * (12 + ceilDiv h.length 4)
      exec (.headerDecision id) s = .next (
        if storeFree s < need then bumpRx (isBlvd id) .storeFull (freeCtx id s)
        else setCtx id { x with st := .committed, hdr := h, bits := [], reserved := need } s))) ∧
  (∀ id level r s, ctxPresent id s = true → (ctxOf id s).st = .committed → pathReception (isBlvd id) s = some r →
    payloadBits (ctxOf id s) s ≤ (ctxOf id s).bits.length →
    let s1 := freeCtx id s
    exec (.lastPayloadDecision id level) s = .next (checkDrains { s1 with
      rx.pipe := s1.rx.pipe ++ [pipeFrameOf id (ctxOf id s) r level s] })) ∧
  (∀ up s, (s.rx.blvd = none ∨ s.rx.plan = none ∨ s.radio.mode ≠ .rx) → exec (.gainChange up) s = .next s) ∧
  (∀ up r pl s, s.rx.blvd = some r → s.rx.plan = some pl → pl.gainFixed = false → s.radio.mode = .rx →
    (up = true → ∀ id ∈ allCtxs, (ctxOf id s).st ≠ .header ∧ (ctxOf id s).st ≠ .committed) →
    let g := gainStep (s.radio.rfNow.extLna && s.radio.rfNow.lnaBypass) up s.rx.gain
    g ≠ s.rx.gain →
    let s1 := releaseWhere (fun _ x => x.busy && x.ofdm) .gain { s with rx.gain := g, radio.alleyGain := g }
    exec (.gainChange up) s = .next (checkDrains { s1 with
      rx.alleyCtx := loseSymbol s1.elapsed.now (some s.elapsed.now) s1.rx.alleyCtx
      rx.ctxs := s1.rx.ctxs.map (loseSymbol s1.elapsed.now (some s.elapsed.now)) }))

/-- R234, R236, R230, R233, R105: the decision pipeline takes the waiting frame whose decision comes first and acks leave at their
instants: a due ack that was judged late, suppressed or collided is only counted; one to be sent goes on the air once the turnaround stands. -/
def Obligations.DecisionsAndAcksAct : Prop :=
  (∀ err s, s.rx.pipe = [] → exec (.decisionPipeline err) s = .next s) ∧
  (∀ err f s, nextPipe s.rx.pipe = some f →
    exec (.decisionPipeline err) s = .next (endSpeculation (decideFrame f err { s with rx.pipe := s.rx.pipe.erase f }))) ∧
  (∀ f s, f.crcOk = true → ∀ err, parseMac f.psdu = none → decideFrame f err s = bumpPipe .malformed s) ∧
  (∀ f m s, f.crcOk = true → ∀ err, parseMac f.psdu = some m → forMe m s = false → decideFrame f err s = bumpPipe .notForMe s) ∧
  (∀ s, s.link.acks = [] → (s.radio.mode ≠ .turnTx ∨ s.radio.speculative = false) → exec .ack s = .next s) ∧
  (∀ a s, firstAck s.link.acks = some a →
    let s1 : State := { s with link.acks := s.link.acks.erase a }
    (a.verdict = .late → exec .ack s = .next (endSpeculation (bumpPipe .lateDecision s1))) ∧
    (a.verdict = .suppressed → exec .ack s = .next (endSpeculation (bumpPipe .ackSuppressed s1))) ∧
    (a.verdict = .collided → exec .ack s = .next (endSpeculation (bumpPipe .ackCollided s1))) ∧
    (∀ b t n, a.verdict = .send b t n → s.radio.mode = .turnTx → s.radio.speculative = true → s.radio.settleFor = none →
      (s.power.bodWarn = false ∨ t ≤ 2000) → exec .ack s = .next (sendAck a t s1)) ∧
    (∀ b t n, a.verdict = .send b t n → s.radio.mode = .turnTx → s.radio.speculative = true → s.radio.settleFor = none →
      s.power.bodWarn = true → 2000 < t → exec .ack s = .next (endSpeculation (bumpPipe .ackSuppressed (refund b t n s1)))))

/-- R236: the frame that the pipeline decides next waits in it, and no waiting frame is to be decided before it. -/
def Obligations.PipelineTakesTheFirst : Prop :=
  ∀ l f, nextPipe l = some f → f ∈ l ∧ ∀ g ∈ l, decidesFirst g f = true → decidesFirst f g = true ∨ g = f

/-- R105, R106, R109, R292, R293, R300 to R303, R438: what the transmitter's instants do. At a choice instant with the transmitter free
the preferred head is prepared, and nothing without one; at the ramp the attempt is charged and sent, or its frame goes back to the head of
its queue; at its end a frame that asked for no ack ends SENT, one that did awaits it. -/
def Sys2Proof.Statements.transmissionsAct : Prop :=
  (∀ s, transmitterFree s = false → exec .txChoice s = .next s) ∧
  (∀ s t cs, transmitterFree s = true → judgeAll s = (t, cs) →
    (bestOf cs = none → exec .txChoice s = .next t) ∧ ∀ c, bestOf cs = some c → exec .txChoice s = .next (prepare c t)) ∧
  (∀ s, (s.radio.mode ≠ .turnTx ∨ s.radio.settleFor ≠ none ∨ (∀ f ∈ s.link.frames, f.stage ≠ .prepared)) → exec .txAttempt s = .next s) ∧
  (∀ f b s, s.radio.mode = .turnTx → s.radio.settleFor = none → (s.link.frames.find? fun f => f.stage = .prepared) = some f →
    (s.radio.region.bind fun r => admitBand r f.prof) = some b →
    let t := airtimeOf s f.prof f.mapBits f.psdu.length
    let start := max f.startAt.toNat (s.time.nt.toNat + usUp s.radio.shape.rampUs.toNat)
    let s1 := updateFrame f.fid (fun g => { g with
      stage := .onAir, startAt := BitVec.ofNat 64 start, endAt := BitVec.ofNat 64 (start + usUp t)
      charged := some (b, t, s.traffic.bucketNo), powerUsed := (powerFor f.power (some b) s).2
      paSetting := (powerFor f.power (some b) s).1 }) s
    (budgetFits b t false s = true → (s.power.bodWarn = false ∨ t ≤ 2000) → (f.kind ≠ .beacon ∨ start = f.startAt.toNat) →
      exec .txAttempt s = .next (proposalSent f (markSlotSent f.fid (charge b t
        { s1 with radio.mode := .tx, radio.air := frameSymbols f s, radio.airRate := airRateOf f.prof s })))) ∧
    (budgetFits b t false s = true → (s.power.bodWarn = false ∨ t ≤ 2000) → f.kind = .beacon → f.startAt.toNat < start →
      exec .txAttempt s = .next (startReturn (endFrame f.fid .late s))) ∧
    (frameById f.fid s = some f → (budgetFits b t false s = false ∨ (s.power.bodWarn = true ∧ 2000 < t)) →
      exec .txAttempt s = .next (startReturn (if f.flushing = true then endFrame f.fid .flushed s else returnFrame f.fid s)))) ∧
  (∀ s, s.radio.mode ≠ .tx → exec .txEnd s = .next s) ∧
  (∀ f s, s.radio.mode = .tx → s.link.ackOnAir = none → (s.link.frames.find? fun f => f.stage = .onAir) = some f →
    let sent (g : TxFrame) : TxFrame := { g with
      attempts := g.attempts + 1, airtime := g.airtime + airtimeOf s f.prof f.mapBits f.psdu.length
      stage := if g.ackReq then .awaitAck else .onAir, stamp := g.startAt + BitVec.ofNat 64 (usU (stampOffset g.prof)) }
    let s1 := startReturn (updateFrame f.fid sent s)
    (f.ackReq = true → exec .txEnd s = .next s1) ∧
    (f.ackReq = false → f.flushing = false → exec .txEnd s = .next (endFrame f.fid .sent s1)) ∧
    (f.ackReq = false → f.flushing = true → exec .txEnd s = .next (endFrame f.fid .flushed s1))) ∧
  (∀ a s, s.radio.mode = .tx → s.link.ackOnAir = some a → a.child = none →
    exec .txEnd s = .next (startReturn { s with link.ackOnAir := none }))

/-- R231, R232, R302, R303, R305: how a frame that awaits its ack, backs off, runs out of its TTL or slips past its START goes on. An ack that
does not match, or falls outside the window, fails the attempt; a matching one ends the frame ACKED. -/
def Sys2Proof.Statements.attemptsEnd : Prop :=
  (∀ psdu crc w r y s, (awaiting s = none ∨ s.isUsable dALLEY = false) → exec (.ackReception psdu crc w r y) s = .next s) ∧
  (∀ s, awaiting s = none → exec .ackWindowClose s = .next s) ∧
  (∀ f s, awaiting s = some f →
    exec .ackWindowClose s = .next (leaveWindow f.prof.carrier (attemptFailed f s)) ∧
    (∀ psdu crc w r y, s.isUsable dALLEY = true → (inAckWindow f w = false ∨ crc ≠ crc32 psdu ∨ ackMatches f psdu s = false) →
      exec (.ackReception psdu crc w r y) s = .next (leaveWindow f.prof.carrier (attemptFailed f (bumpPipe .ackRxBad s)))) ∧
    (∀ psdu w r y i, s.isUsable dALLEY = true → inAckWindow f w = true → ackMatches f psdu s = true → f.link = some i → frameRdv f s = none →
      exec (.ackReception psdu (crc32 psdu) w r y) s = .next (leaveWindow f.prof.carrier (endFrame f.fid .acked
        (updateLink i (fun e => { e with lastMargin := psdu.getD 4 0#8 }) (updateFrame f.fid (fun g => { g with
          ackPending := bitAt ((psdu.getD 5 0#8).setWidth 32) 0, ackMargin := psdu.getD 4 0#8, ackRssi :=
            aerialRssi r (y && s.radio.rfNow.extLna && s.radio.rfNow.lnaBypass) s }) s)))))) ∧
  (∀ f s, (f.flushing = true → attemptFailed f s = endFrame f.fid .flushed s) ∧
    (f.flushing = false → 1 + f.retries ≤ f.attempts → attemptFailed f s = endFrame f.fid .noAck s) ∧
    (f.flushing = false → f.attempts < 1 + f.retries → ∀ t, f.ttlEnd = some t → t.toNat ≤ s.elapsed.now.toNat →
      attemptFailed f s = endFrame f.fid .expired s)) ∧
  (∀ n s, frameById n s = none → exec (.retryDelayExpiry n) s = .next s ∧ exec (.expired n) s = .next s ∧ exec (.late n) s = .next s) ∧
  (∀ n f s, frameById n s = some f →
    (f.stage = .backOff → f.eligibleAt.toNat ≤ s.elapsed.now.toNat →
      exec (.retryDelayExpiry n) s = .next (updateFrame n (fun g => { g with stage := .queued }) s)) ∧
    (∀ t, f.ttlEnd = some t → t.toNat ≤ s.elapsed.now.toNat → (f.stage = .queued ∨ f.stage = .backOff) →
      exec (.expired n) s = .next (endFrame n .expired s)) ∧
    (∀ t, f.start = some t → t.toNat + usU f.lateTol < s.time.nt.toNat → f.attempts = 0 → f.stage = .queued →
      exec (.late n) s = .next (endFrame n .late s))) ∧
  (∀ s, s.rx.pipe = [] → s.link.acks = [] → exec .speculativeTurnaround s = .next s) ∧
  (∀ a b t n s, s.rx.pipe = [] → s.link.acks = [a] → a.verdict = .send b t n → s.isUsable dRFFE = true →
    s.lifecycle ≠ .retired → a.at_.toNat ≤ s.time.nt.toNat + unitsU (prepUnits a.prof.carrier s) →
    (s.radio.mode = .rx →
      exec .speculativeTurnaround s = .next { turnToTx a.prof.carrier .ack s with radio.speculative := true, radio.backToRx := receptionInForce s }) ∧
    (s.radio.mode = .idle →
      exec .speculativeTurnaround s = .next { idleToTx a.prof.carrier .ack s with radio.speculative := true, radio.backToRx := receptionInForce s }))

/-- Both parts, or all three, above. -/
def Obligations.TransmissionsActAndEnd : Prop :=
  Sys2Proof.Statements.transmissionsAct ∧ Sys2Proof.Statements.attemptsEnd

/-- R301 rank 4, R279: the head that is chosen is one of those that take part, and it is green whenever any of them is. -/
def Obligations.GreenGoesBeforeYellow : Prop :=
  ∀ l c, bestOf l = some c → c ∈ l ∧ (c.yellow = true → ∀ d ∈ l, d.yellow = true)

/-- R104, R105, R106, R108, R109, R113, R114: the synthesiser and the turnarounds. A settle ends in RX or in the TX_ON steps of a frame or
an ack, a frame that would be late ends LATE; a first missed lock takes one OSC step and tries again, a second one is counted and gives the
frame back, or tries the reception again; TURN_RX ends in the reception that is in force, on the carrier whose ack is awaited, or in IDLE. -/
def Sys2Proof.Statements.radioTurnsAct : Prop :=
  (∀ s, s.radio.settleFor = none → exec .settleDone s = .next s ∧ ∀ w, exec (.synthLockTimeout w) s = .next s) ∧
  (∀ s, s.radio.mode ≠ .settle → s.radio.mode ≠ .turnTx → s.radio.mode ≠ .turnRx →
    exec .settleDone s = .next s ∧ ∀ w, exec (.synthLockTimeout w) s = .next s) ∧
  (∀ f s, s.radio.settleFor = some f →
    let s1 : State := { s with
      radio.lo := s.radio.loAsked, radio.loNominal := s.radio.askedHz, radio.settleFor := none, radio.lockFailed := false }
    let s2 := if s.radio.mode = .settle then startBlank { s1 with radio.mode := .turnTx } else s1
    (f = .rx → s.radio.mode = .settle → exec .settleDone s = .next (runSeq s.radio.fem.rxOn (endBlank { s1 with radio.mode := .rx }))) ∧
    (f = .ack → (s.radio.mode = .settle ∨ s.radio.mode = .turnTx) → exec .settleDone s = .next (runSeq s2.radio.fem.txOn s2)) ∧
    (∀ n fr, f = .tx n → (s.radio.mode = .settle ∨ s.radio.mode = .turnTx) → frameById n s2 = some fr → fr.stage = .prepared →
      let start := max fr.startAt.toNat (s2.time.nt.toNat + unitsU (rampUnits s.radio.fem.txOn + 8 * s.radio.shape.rampUs.toNat))
      (lateAtSettle fr start = false → exec .settleDone s =
        .next (runSeq s2.radio.fem.txOn (updateFrame n (fun x => { x with startAt := BitVec.ofNat 64 start }) s2))) ∧
      (lateAtSettle fr start = true → exec .settleDone s = .next (startReturn (endFrame n .late s2)))) ∧
    (s.radio.mode = .turnRx → exec .settleDone s = .next s1)) ∧
  (∀ f w s, s.radio.settleFor = some f → (s.radio.mode = .settle ∨ s.radio.mode = .turnTx ∨ s.radio.mode = .turnRx) →
    let s1 : State := { s with rx.radioCnt := s.rx.radioCnt.set 0 (satInc s.rx.radioCnt[0]), radio.lockFailed := false }
    let block := s.radio.cal.results[1].words.set (nearestPoint s.radio.askedHz) (w &&& 0xFFFFFF#32)
    (s.radio.lockFailed = false → exec (.synthLockTimeout w) s = .next { startSettle s.radio.askedHz f (femPins s.radio.fem.idleLevel
      { s with radio.cal.results := s.radio.cal.results.set 1 { s.radio.cal.results[1] with words := block } }) with radio.lockFailed := true }) ∧
    (s.radio.lockFailed = true → f = .rx → exec (.synthLockTimeout w) s = .next (startSettle (rxFrequency s1) .rx s1)) ∧
    (s.radio.lockFailed = true → f = .back → exec (.synthLockTimeout w) s = .next (startSettle (rxFrequency s1) .back s1)) ∧
    (∀ n, s.radio.lockFailed = true → f = .tx n → exec (.synthLockTimeout w) s = .next (giveUpTx (sendBack n s1))) ∧
    (∀ a rest b t n, s.radio.lockFailed = true → f = .ack → s.link.acks = a :: rest → a.verdict = .send b t n →
      exec (.synthLockTimeout w) s = .next (giveUpTx (bumpPipe .ackSuppressed (refund b t n { s1 with link.acks := rest }))))) ∧
  (∀ s, (s.radio.mode ≠ .turnRx ∨ s.radio.settleFor ≠ none) → exec .turnRxDone s = .next s) ∧
  (∀ s, s.radio.mode = .turnRx → s.radio.settleFor = none →
    let s1 : State := { s with radio.speculative := false }
    let heard (s : State) := runSeq s.radio.fem.rxOn { s with radio.mode := .rx }
    (∀ f, awaiting s1 = some f → exec .turnRxDone s = .next (
      if receptionInForce (heard s1) = true ∧ needsRetune f.prof.carrier (heard s1) = true then heard s1 else endBlank (heard s1))) ∧
    (awaiting s1 = none → exec .turnRxDone s = .next (
      if receptionInForce (endBlank s1) = false then toIdle (endBlank s1)
      else if s.radio.moved = true ∨ s.radio.loNominal ≠ rxFrequency (endBlank s1) then settleRx (endBlank s1)
      else heard (endBlank s1))))

/-- R103, R109 to R112, R116: calibration. A due block takes its steps one at a time while the radio may be taken: entering one releases the
provisional contexts, an inner step keeps its word and counts up, the last one completes the block; a CAL_RUN whose WAIT_MAX passes ends EXPIRED; the
period makes the periodic blocks due. -/
def Sys2Proof.Statements.calibrationActs : Prop :=
  (∀ s, (nextCal s = none ∨ calAdmitted s = false) → exec .calStep s = .next s) ∧
  (∀ k s, nextCal s = some k → calAdmitted s = true →
    let s1 := releaseWhere (fun _ x => x.provisional) .calibration s
    exec .calStep s = .next (femPins s1.radio.fem.idleLevel { s1 with
      radio.mode := .cal, radio.cal.running := some (k, s.radio.cal.progress[k.idx])
      radio.cal.enteredFrom := if s.radio.mode = .cal then s.radio.cal.enteredFrom else s.radio.mode })) ∧
  (∀ r s, s.radio.cal.running = none → exec (.calStepEnd r) s = .next s) ∧
  (∀ k i r s, s.radio.cal.running = some (k, i) →
    let words := s.radio.cal.partials[k.idx] ++ [stepWord k (r.headD 0#32)]
    let s1 := endDrain { s with radio.cal.running := none }
    (i + 1 < calSteps k → exec (.calStepEnd r) s = .next (afterStep { s1 with
      radio.cal.progress := s1.radio.cal.progress.set k.idx (i + 1), radio.cal.partials := s1.radio.cal.partials.set k.idx words })) ∧
    (calSteps k ≤ i + 1 → exec (.calStepEnd r) s = .next (afterStep (finishCal k words s1)))) ∧
  (∀ o s, s.radio.cal.calRun = some o → elapsedBy o.since s.elapsed.now (msU o.waitMax.toNat) = true →
    exec .calRunExpired s = .next (completeEvent o.port 0x0B0 o.handle [W o.handle.toNat, W (statusCode .expired + o.done.toNat * 2 ^ 16)]
      { s with radio.cal.calRun := none })) ∧
  (∀ t n s, s.radio.cal.periodCount.toNat < secU s.radio.rfNow.calPeriod.toNat → exec (.calPeriodExpiry t n) s = .next s) ∧
  (∀ t n s, s.awake = true → s.on dRFFE = true → secU s.radio.rfNow.calPeriod.toNat ≤ s.radio.cal.periodCount.toNat →
    let c := s.radio.cal
    exec (.calPeriodExpiry t n) s = .next (sampleTemp t n { s with radio.cal := { c with
      due := c.due ||| 0b1101#4, periodic := 0b1101#4
      periodCount := c.periodCount - BitVec.ofNat 64 (secU s.radio.rfNow.calPeriod.toNat)
      dueSince := if c.periodic = 0#4 then s.elapsed.now else c.dueSince } }))

/-- Both parts, or all three, above. -/
def Obligations.RadioTurnsAndCalibrationAct : Prop :=
  Sys2Proof.Statements.radioTurnsAct ∧ Sys2Proof.Statements.calibrationActs

/-- R249, R250, R254, R258 to R262: what a rendezvous and a join do at their instants. At its slot the parent listens around it, the child
sends its oldest eligible frame, and a child whose guard has grown past a quarter of the period acquires its parent anew;
windows open around expected beacons or for a scan; a window ends once its end has passed and nothing that began in it is being received. A beacon
is queued for its instant, once; a due join request asks the PKA for two operations and is queued with its fresh key when they are done; a
place is freed 10 s after its request. -/
def Sys2Proof.Statements.rendezvousAndJoinAct : Prop :=
  (∀ a s, rdvOf a s = none → exec (.rdvSlot a) s = .next s ∧ exec (.reacquisitionWindow a) s = .next s ∧ exec (.scan a) s = .next s ∧
    exec (.rdvWindowClose a) s = .next s) ∧
  (∀ a r s, rdvOf a s = some r → s.fwRun = true → r.window = none →
    let x := nextSlot r s
    let g := guardAt r x s
    (r.parent = true → x ≤ s.time.nt.toNat + parentGuard r x s → exec (.rdvSlot a) s =
      .next (openWindow r x (x + parentGuard r x s + sixTs r.profile s) r.profile (if r.period.toNat / 4 < g then markStale r s else s))) ∧
    (r.parent = false → r.stage = .slots → r.slotFrame = none → x ≤ s.time.nt.toNat + msU 2 →
      (r.period.toNat / 4 < g → exec (.rdvSlot a) s = .next (reacquire r.short s)) ∧
      (∀ f, g ≤ r.period.toNat / 4 → slotCandidate r x s = some f → exec (.rdvSlot a) s = .next (updateRdv r.short
        (fun r => { r with lastSlot := some (BitVec.ofNat 64 x), slotFrame := some f.fid, slotSent := false })
        (updateFrame f.fid (fun f => { f with ackReq := f.ackReq || !f.inFlight }) s)))) ∧
    ((if r.parent then s.time.nt.toNat + parentGuard r x s < x else s.time.nt.toNat + msU 2 < x) → exec (.rdvSlot a) s = .next s)) ∧
  (∀ a r b s, rdvOf a s = some r → sourceOf a s = some b → s.fwRun = true → r.parent = false → r.stage = .windows → r.window = none →
    let c := expectedBeacon b s
    let half := halfWindow r b c s
    (∀ l, r.lastSlot = some l → l.toNat < c) → c ≤ s.time.nt.toNat + half → exec (.reacquisitionWindow a) s =
      .next (openWindow r c (c + half + sixTs s.rdv.cfg.scanProfile s) s.rdv.cfg.scanProfile
        (updateRdv a (fun r => { r with guard0 := firstGuard r c s }) s))) ∧
  (∀ a r s, rdvOf a s = some r → s.fwRun = true → r.parent = false → r.stage = .scan → r.window = none →
    (∀ l, r.lastSlot = some l → l.toNat + secU s.rdv.cfg.scanPeriod ≤ s.time.nt.toNat) → exec (.scan a) s =
      .next (openWindow r s.time.nt.toNat (s.time.nt.toNat + msU s.rdv.cfg.scanMs) s.rdv.cfg.scanProfile s)) ∧
  (∀ a r t e heard s, rdvOf a s = some r → r.parent = true → r.eligibleUntil = none → r.window = some (t, e, heard) →
    (s.time.nt.toNat < e.toNat → exec (.rdvWindowClose a) s = .next s) ∧
    (e.toNat ≤ s.time.nt.toNat → stillReceiving e s = false → (heard = true ∨ r.period.toNat / 4 < guardAt r t.toNat s) → exec (.rdvWindowClose a) s =
      .next (closeListening (updateRdv r.short (fun r => { r with window := none }) s)))) ∧
  (∀ s, (s.fwRun = false ∨ s.rdv.cfg.send = false ∨ beaconTaken (beaconAfter s.rdv.cfg s.time.nt.toNat) s = true) →
    exec .beacon s = .next s) ∧
  (∀ o s1 s, s.fwRun = true → s.rdv.cfg.send = true → s.rdv.cfg.secured = false → drawFw s = (o, s1) →
    let t := beaconAfter s.rdv.cfg s.time.nt.toNat
    beaconTaken t s = false →
    let f : TxFrame := { fwFrame .beacon { o with queue := s.rdv.cfg.queue, retries := 0 } s.rdv.cfg.profile s1 with
      start := some (BitVec.ofNat 64 t), lateTol := 0, payload := beaconPayload s, dst := 0xFFFFFF#64 }
    exec .beacon s = .next (fwQueue f { s1 with rdv.lastBeacon := some (BitVec.ofNat 64 t) })) ∧
  (∀ s, (s.rdv.node.due = none ∨ s.rdv.cfg.joinEn = false ∨ s.link.own ≠ noShort ∨ s.isUsable dCRYPTO = false) →
    exec .joinRequestSend s = .next s) ∧
  (∀ root t s, s.rdv.node.due = some (root, t) → s.fwRun = true → t.toNat ≤ s.elapsed.now.toNat → s.rdv.cfg.joinEn = true →
    s.link.own = noShort → s.sec.trngOk = true → s.isUsable dCRYPTO = true →
    (let r : PkaReq := { port := .spi, tag := 0, job := .joinRequest, left := 2 }
    (∀ q, (s.sec.pka = some q ∨ q ∈ s.sec.pkaFirst) → q.job ≠ .joinRequest) → exec .joinRequestSend s = .next (
      if s.sec.pka = none then { s with sec.pka := some r } else { s with sec.pkaFirst := s.sec.pkaFirst ++ [r] })) ∧
    (∀ r, s.sec.pka = some r → r.job = .joinRequest → r.left ≤ 1 →
      let k := freshKey (pkaGoesOn s)
      let o := drawFw k.2
      let head := [0x01#8, 0x01#8, 0#8, 0#8] ++ pubBytes (publicOf k.1) ++ bytesBE (hi32 s.time.nt)
      let request := head ++ signBytes (attestKey s) (head ++ bytesOfBE 8 root.toNat)
      exec .pkaDone s = .next (thenFree (fun _ _ => fwQueue
        { fwFrame .join { o.1 with retries := 0 } s.rdv.cfg.scanProfile o.2 with srcLong := true, payload := request }
        { o.2 with rdv.node := {
            due := some (root, retryAt root s.rdv.node.backoff s)
            sent := some (k.1, pubBytes (publicOf k.1), hi32 s.time.nt, root, s.elapsed.now)
            backoff := min 8 (2 * s.rdv.node.backoff) } }) ⟨r.port, r.tag, 0, []⟩ (pkaGoesOn s)))) ∧
  (∀ (i : Fin 8) s, s.rdv.joins[i] = none → exec (.joinPlaceExpiry i) s = .next s) ∧
  (∀ (i : Fin 8) p s, s.rdv.joins[i] = some p → exec (.joinPlaceExpiry i) s = .next (
    if elapsedBy p.since s.elapsed.now (secU 10) = true then { s with rdv.joins := s.rdv.joins.set i none } else s))

/-- R286, R288, R291, R292, R295: the instants of the traffic state. At X the waiting gate list becomes the operational one, its
cycle counted from X; at a bucket's end every sub-band begins an empty bucket and keeps N; every 60 s of
elapsed time the budgets are journalled, unless a brown-out warning defers it. -/
def Sys2Proof.Statements.trafficInstantsAct : Prop :=
  (∀ s, (s.awake = false ∨ s.traffic.admin = none) → exec .gateSwapped s = .next s) ∧
  (∀ a s, s.awake = true → s.traffic.admin = some a → s.time.nt.toNat < a.x.toNat → exec .gateSwapped s = .next s) ∧
  (∀ a s, s.awake = true → s.traffic.admin = some a → a.x.toNat ≤ s.time.nt.toNat →
    ∃ t, exec .gateSwapped s = .next t ∧ t.traffic.admin = none ∧ t.traffic.oper = a.result.map (fun l => (l, a.x)) ∧
      t.traffic.queues = s.traffic.queues ∧ t.ledger = s.ledger ∧ t.link.frames.length = s.link.frames.length) ∧
  (∀ s, bucketOf s ≤ s.traffic.bucketNo → exec .bucketRoll s = .next s) ∧
  (∀ s, s.traffic.bucketNo < bucketOf s → exec .bucketRoll s = .next (checkAllLow { s with
    traffic.bucketNo := s.traffic.bucketNo + 1
    traffic.accounts := s.traffic.accounts.map fun a => { a with buckets := (0 :: a.buckets).take (s.traffic.n + 1) } })) ∧
  (∀ s, s.inRun = true → s.traffic.journalAt.toNat / secU 60 < s.elapsed.now.toNat / secU 60 →
    let s1 : State := { s with traffic.journalAt := s.elapsed.now }
    (s.power.bodWarn = false → exec .budgetJournalWrite s =
      .next { s1 with traffic.journal := some (journalNow s1), traffic.journalDue := false }) ∧
    (s.power.bodWarn = true → exec .budgetJournalWrite s = .next { s1 with traffic.journalDue := true }))

/-- Both parts, or all three, above. -/
def Obligations.LinkInstantsAct : Prop :=
  Sys2Proof.Statements.rendezvousAndJoinAct ∧ Sys2Proof.Statements.trafficInstantsAct

/-- R392, R396, R399, R401, R411: operations on flash. An erase that verifies leaves each of its sectors erased with its flag clear; a
program that verifies leaves each of its units written; FLASH_DONE reports OK and how many. A unit that is not blank ends the program
there with VERIFY_FAIL, itself unchanged. A read of another sector suspends an erase that has run for
1 ms, which the idle interval resumes. How far an operation that runs has come when it is stopped or looked at is a free value, short of
all of it (log 5). -/
def Obligations.FlashOperationsEnd : Prop :=
  (∀ b s, (s.awake = false ∨ (s.flash.inner = none ∧ s.flash.op = none)) → exec (.flashDone b) s = .next s) ∧
  (∀ b o s, s.flash.inner = none → s.flash.op = some o → flashRuns s = false → exec (.flashDone b) s = .next s) ∧
  (∀ o s, s.awake = true → s.flash.inner = none → s.flash.op = some o → flashRuns s = true →
    let s1 : State := { s with flash.op := none }
    let done (st : Status) (n a : Nat) (s : State) : State := completeEvent o.port 0x050 o.handle
      [o.handle.setWidth 32, BitVec.ofNat 32 (statusCode st + b2n o.erase * 2 ^ 16), BitVec.ofNat 32 n, BitVec.ofNat 32 a] s
    (o.erase = true → exec (.flashDone false) s = .next (done .ok (o.done + o.left) 0
      ((List.range' o.sector o.left).foldl (fun t k => eraseSector k t) s1))) ∧
    (o.erase = false → (∀ i (h : i < o.units.length), unitBlank ((o.units.take i).foldl (fun t u => writeUnit u.1 u.2 t) s1) o.units[i].1 = true) →
      exec (.flashDone false) s = .next (done .ok (o.done + o.units.length) 0 (o.units.foldl (fun t u => writeUnit u.1 u.2 t) s1))) ∧
    (∀ f bs rest, o.erase = false → o.units = (f, bs) :: rest → unitBlank s1 f = false →
      exec (.flashDone false) s = .next (done .verifyFail o.done f s1))) ∧
  (∀ o s, s.flash.op = some o → o.erase = true → flashRuns s = true → elapsedBy s.flash.eraseSince s.elapsed.now (msU 1) = true →
    exec .flashAutoSuspend s = .next { flashProgress s with flash.suspAuto := true }) ∧
  (∀ s, (s.flash.op = none ∨ elapsedBy s.flash.eraseSince s.elapsed.now (msU 1) = false) → exec .flashAutoSuspend s = .next s) ∧
  (∀ s, exec .flashAutoResume s = .next (
    if s.flash.suspAuto then { s with flash.suspAuto := false, flash.eraseSince := s.elapsed.now } else s)) ∧
  (∀ o s, s.flash.inner = none → s.flash.op = some o → flashRuns s = true → o.erase = true →
    (o.left ≤ 1 → flashProgress s = s) ∧
    (1 < o.left →
      let k := (Config.freeWord s.free).toNat % o.left
      let t := (List.range' o.sector k).foldl (fun t j => eraseSector j t) { s with free := s.free + 1 }
      flashProgress s = { setFlag (o.sector + k) true t with
        flash.op := some { o with sector := o.sector + k, left := o.left - k, done := o.done + k } }))

/-- R315 to R317, R320, R323, R328, R330, R341: what the security unit's instants do. An open message without a command for 10 s is
abandoned; a health test that fails stops the DRBG and is counted and told; the start-up test that passes starts it; 120 µs after CRYPTO came
on the key store is loaded and the waiting commands go on; the PKA answers its request and takes the next; a debug request is answered in run and during the entry into stop, and
held in stop. -/
def Obligations.SecurityInstantsAct : Prop :=
  (∀ (c : Fin 5) s, s.sec.ctxs[c] = none → exec (.openMessageTimeout ⟨c.val, by omega⟩) s = .next s) ∧
  (∀ (c : Fin 5) m s, s.sec.ctxs[c] = some m → s.sec.waiting = [] → exec (.openMessageTimeout ⟨c.val, by omega⟩) s = .next (
    if elapsedBy m.last s.elapsed.now (secU 10) = true then { s with sec.ctxs := s.sec.ctxs.set c none } else s)) ∧
  (∀ (test : Fin 3) s, s.isUsable dCRYPTO = true → (test = 2 → startUpDue s = true) → exec (.trngHealthFail test) s = .next (
    raise 0x0C9 [BitVec.ofNat 32 test.val, satInc s.sec.trngFails] { s with
      sec.trngOk := false, sec.trngFailAt := some s.elapsed.now, sec.trngFails := satInc s.sec.trngFails })) ∧
  (∀ s, startUpDue s = true → exec (.trngStartUpTest true) s = .next { s with sec.trngOk := true, sec.trngFailAt := none } ∧
    exec (.trngStartUpTest false) s = .next (raise 0x0C9 [2#32, satInc s.sec.trngFails] { s with
      sec.trngOk := false, sec.trngFailAt := some s.elapsed.now, sec.trngFails := satInc s.sec.trngFails })) ∧
  (∀ p s, startUpDue s = false → exec (.trngStartUpTest p) s = .next s) ∧
  (∀ s, s.isUsable dCRYPTO = true → s.sec.ready = false → elapsedBy s.sec.onAt s.elapsed.now (usU 120) = true →
    exec .keyStoreReady s = .next (runWaiting { s with sec.ready := true, sec.slots := loadedSlots s })) ∧
  (∀ s, (s.isUsable dCRYPTO = false ∨ s.sec.ready = true) → exec .keyStoreReady s = .next s) ∧
  (∀ s, s.sec.pka = none → exec .pkaDone s = .next s) ∧
  (∀ r s, s.sec.pka = some r → 1 < r.left → exec .pkaDone s = .next { s with sec.pka := some { r with left := r.left - 1 } }) ∧
  (∀ r s, s.sec.pka = some r → r.left ≤ 1 →
    let done (f : State → State) : Host.Outcome State Fault Refusal :=
      .next (thenFree (fun _ t => f t) ⟨r.port, r.tag, 0, []⟩ (pkaGoesOn s))
    (∀ root key d x y, r.job = .verify root key d x y → exec .pkaDone s =
      done (finish ⟨r.port, r.tag, 0x70B, []⟩ (if root = true ∧ verifies key d x y = true then .ok else .authFail) [])) ∧
    (∀ slot d, r.job = .sign slot d → usableSlot slot (pkaGoesOn s) = none →
      exec .pkaDone s = done (finish ⟨r.port, r.tag, 0x70A, []⟩ .keyAbsent [])) ∧
    (∀ slot d k, r.job = .sign slot d → usableSlot slot (pkaGoesOn s) = some k → exec .pkaDone s =
      done fun t => let sg := privResult k.key (fun e => words512 (ecdsaSign e d)) t; finish ⟨r.port, r.tag, 0x70A, []⟩ .ok sg.1 sg.2) ∧
    (∀ slot usage persist, r.job = .genKey slot usage persist → s.sec.sealedSlots.getLsbD slot = false →
      exec .pkaDone s = done fun t =>
        let k := freshKey t
        finish ⟨r.port, r.tag, 0x709, []⟩ .ok (words512 (publicOf k.1))
          (putSlot slot { type := .p256, usage, key := k.1, pub := some (publicOf k.1), persist } k.2)) ∧
    (∀ slot priv peer k, r.job = .agree slot priv peer → usableSlot priv (pkaGoesOn s) = some k →
      exec .pkaDone s = done fun t =>
        let z := privResult k.key (fun d => words256 (ecdh d peer)) t
        finish ⟨r.port, r.tag, 0x709, []⟩ .ok (words512 k.publicKey) (putSlot slot
          { type := .secret256, usage := 0b01000#5, key := mk256 z.1, pub := some k.publicKey, fromEcdh := true } z.2)) ∧
    (r.job = .joinRequest → exec .pkaDone s = done joinRequestWork) ∧
    (∀ link ch, r.job = .remoteReport link ch → exec .pkaDone s = done (remoteReport link ch)) ∧
    (∀ psdu m, r.job = .joinResponse psdu → parseMac psdu = some m → exec .pkaDone s = done (joinResponseWork m m.body))) ∧
  (∀ s, s.power.phase = .stop →
    exec .unlockChal s = .next { s with sec.debugHeld := some .chal } ∧
    ∀ scope k g, exec (.unlockResp scope k g) s = .next { s with sec.debugHeld := some (.resp scope k g) }) ∧
  (∀ s, (s.power.phase = .run ∨ s.power.phase = .entering) → s.sec.extest = false → s.sec.ready = false →
    (∀ scope k g, (scope = 0#2 ∨ scope = 3#2) →
      exec (.unlockResp scope k g) s = .next (dapEnd .badParam (if s.power.wakeArm.getLsbD 13 then holdWake 7 0 s else s))) ∧
    (∀ st, debugChallenge (if s.power.wakeArm.getLsbD 13 then holdWake 7 0 s else s) = .error st →
      exec .unlockChal s = .next (dapEnd st (if s.power.wakeArm.getLsbD 13 then holdWake 7 0 s else s))))

/-- R418, R419, R422, R433, R437, R438, R440, R444, R491: the supply, the domains and the operating point. A warning below W aborts what is
on the air and holds flash; VBAT at W + 50 mV and above ends it, flash first, then a deferred journal write; a change of operating point
begins at an allowed instant, blanks reception and ends OK 40 or 60 µs later, or BUSY after 100 ms; a domain that is on becomes usable its
time after it was switched on and its prerequisite became usable. -/
def Sys2Proof.Statements.supplyAndDomainsAct : Prop :=
  (∀ mv s, (s.power.bodWarn = true ∨ s.power.phase = .booting ∨ 2000 + 50 * s.power.bodLevel.toNat ≤ mv) → exec (.bodWarn mv) s = .next s) ∧
  (∀ mv s, s.power.bodWarn = false → s.power.phase ≠ .booting → mv < 2000 + 50 * s.power.bodLevel.toNat →
    ∀ cut s1, abortAir s = (cut, s1) →
      let p := flashProgress s1
      exec (.bodWarn mv) s = .next (raise 0x002 (BitVec.ofNat 32 (s.power.bodLevel.toNat + b2n cut * 32) :: words64 s.time.nt) { p with
        flash.suspBod := p.flash.op.isSome || p.flash.inner.isSome
        power.bodWarn := true, power.bodSince := s.elapsed.now, power.bodLowest := mv, power.vbat := BitVec.ofNat 12 mv
        power.pmuEvents := s1.power.pmuEvents ||| 1#4 })) ∧
  (∀ mv s, (s.power.bodWarn = false ∨ mv < 2000 + 50 * s.power.bodLevel.toNat + 50) → exec (.bodClear mv) s = .next s) ∧
  (∀ mv s, s.power.bodWarn = true → 2000 + 50 * s.power.bodLevel.toNat + 50 ≤ mv →
    let s1 : State := { s with
      flash.eraseSince := s.elapsed.now, flash.suspBod := false, power.bodWarn := false, power.pmuEvents := s.power.pmuEvents ||| 2#4 }
    let s2 : State := if s.traffic.journalDue = true then { s1 with traffic.journal := some (journalNow s1), traffic.journalDue := false } else s1
    exec (.bodClear mv) s = .next (raise 0x003
      [BitVec.ofNat 32 (min (inUs (s.elapsed.now.toNat - s.power.bodSince.toNat)) 0xFFFFFFFF), BitVec.ofNat 32 s.power.bodLowest]
      { s2 with bg.dueAt := s.bg.dueAt.mapFinIdx fun i t _ => if i = 1 || i = 2 then t + (s.elapsed.now - s.power.bodSince) else t })) ∧
  (∀ mv s, exec (.vbatSample mv) s = .next { s with
    power.vbat := BitVec.ofNat 12 mv, power.bodLowest := if s.power.bodWarn then min mv s.power.bodLowest else s.power.bodLowest }) ∧
  (∀ s, s.power.oppWait = none → exec .oppointSwitch s = .next s ∧ exec .oppointTimeout s = .next s) ∧
  (∀ p t point since s, s.power.oppWait = some (p, t, point, since) →
    (s.power.switching = true → exec .oppointTimeout s = .next s) ∧
    (s.power.switching = true → s.elapsed.now.toNat < since.toNat + usU (if point then 40 else 60) → exec .oppointSwitch s = .next s) ∧
    (s.power.switching = true → since.toNat + usU (if point then 40 else 60) ≤ s.elapsed.now.toNat → exec .oppointSwitch s = .next (finish ⟨p, t, 0x106, []⟩ .ok []
      (endOppBlank { s with power.switching := false, power.oppWait := none, power.lp := point, power.pmuEvents := s.power.pmuEvents ||| 8#4 }))) ∧
    (s.power.switching = false → oppAllowed s = false → exec .oppointSwitch s = .next s) ∧
    (s.power.switching = false → oppAllowed s = true → point = true → s.on dBLVD = true →
      exec .oppointSwitch s = .next (finish ⟨p, t, 0x106, []⟩ .badState [] { s with power.oppWait := none })) ∧
    (s.power.switching = false → oppAllowed s = true → (point = false ∨ s.on dBLVD = false) →
      exec .oppointSwitch s = .next (startBlank { s with power.switching := true, power.oppWait := some (p, t, point, s.elapsed.now) })) ∧
    (s.power.switching = false → elapsedBy since s.elapsed.now (msU 100) = true →
      exec .oppointTimeout s = .next (finish ⟨p, t, 0x106, []⟩ .busy [] { s with power.oppWait := none }))) ∧
  (∀ (d : Fin 12) s, s.on d.val = true → s.isUsable d.val = false → s.awake = true → (needs d.val = 0 ∨ s.isUsable (needs d.val) = true) →
    s.power.onAt[d].toNat + usU (usableUs d.val) ≤ s.elapsed.now.toNat →
    exec (.domainUsable d) s = .next (answerDomains (domainOn d.val { s with
      power.usable := s.power.usable ||| domBit d.val, power.onAt := stampOn (dependants d.val s) s }))) ∧
  (∀ (d : Fin 12) s, (s.on d.val = false ∨ s.isUsable d.val = true ∨ s.awake = false ∨
    s.elapsed.now.toNat < s.power.onAt[d].toNat + usU (usableUs d.val)) → exec (.domainUsable d) s = .next s) ∧
  (∀ s, s.awake = true → s.power.pll = false → s.power.hfxo = true → exec .sysplllocked s = .next { s with
    power.pll := true, power.domains := s.power.domains ||| (s.power.atEntry &&& 0xF00#12)
    power.onAt := stampOn (s.power.atEntry &&& 0xF00#12) s }) ∧
  (∀ s, s.isUsable dPERI = false → exec .vioRemoved s = .next { s with power.vio := false } ∧
    exec .vioRestored s = .next { s with power.vio := true })

/-- R428 to R436: stop and wake. Entry happens once the response to STOP_ENTER has been taken: the phase becomes stop on LFXO with HFXO and
SYSPLL off, NT at entry is recorded and the retained banks are sealed. A wake needs an armed source; it returns to run, restores the
domains, records the lowest source, clears what was not retained, and raises WAKE first (stated for a wake whose seals all hold, with the Kerb off during the
stop and CRYPTO off at entry). -/
def Sys2Proof.Statements.stopAndWakeAct : Prop :=
  (∀ s, s.power.stopPort = none → exec .stopEntry s = .next s) ∧
  (∀ p s, s.power.stopPort = some p → s.power.phase = .entering → responseTaken (s.port p) = true →
    ∃ t, exec .stopEntry s = .next t ∧ t.power.phase = .stop ∧ t.power.stopPort = none ∧ t.power.hfxo = false ∧ t.power.pll = false ∧
      t.time.onLf = true ∧ t.power.stopAt = s.elapsed.now ∧ t.power.atEntry = s.power.domains ∧
      t.power.domains = (s.power.domains &&& 0x003#12) ||| 1#12 ∧ t.power.sealedBanks = s.power.retain ||| s.saveBanks ∧
      t.power.wake.ntEntry = s.time.nt ∧ t.power.wake.entries = s.power.wake.entries + 1) ∧
  (∀ src d f c n s, s.power.phase ≠ .stop → s.power.phase ≠ .entering → exec (.wake src d f c n) s = .next s) ∧
  (∀ src d f c n s, s.power.phase = .entering → armedSources (BitVec.toNat d) (src &&& 0xFE#8) s ≠ 0#8 →
    let m := armedSources (BitVec.toNat d) (src &&& 0xFE#8) s
    exec (.wake src d f c n) s = .next { s with
      power.heldWake := s.power.heldWake ||| m
      power.heldDetail := if s.power.heldWake = 0#8 ∨ lowestCode m < lowestCode s.power.heldWake
        then (if lowestCode m ≤ 4 then d else 0#6) else s.power.heldDetail }) ∧
  (∀ src d f c n s, s.power.phase = .stop → s.power.heldWake = 0#8 → armedSources (BitVec.toNat d) (src &&& 0xFE#8) s = 0#8 →
    exec (.wake src d f c n) s = .next s) ∧
  (∀ src d c n s, s.power.phase = .stop →
    let held := s.power.heldWake
    let m := if held = 0#8 then armedSources (BitVec.toNat d) (src &&& 0xFE#8) s else held
    m ≠ 0#8 → s.sec.debugHeld = none → s.power.atEntry &&& 0x040#12 = 0#12 → s.power.domains &&& 0x002#12 = 0#12 →
    let code := lowestCode m
    let on_ : BitVec 12 := (s.power.atEntry &&& 0x0F0#12) ||| 0x00D#12
    let record : WakeRecord := { s.power.wake with
      source := BitVec.ofNat 4 code, detail := if held ≠ 0#8 then s.power.heldDetail else if code ≤ 4 then d else 0#6
      duringEntry := held ≠ 0#8, sources := m, ntWake := if held ≠ 0#8 then s.power.wake.ntEntry else s.time.nt
      retFail := 0, saveArea := false, restored := s.power.atEntry }
    let away := s.elapsed.now - s.power.stopAt
    let s1 := clearBanks (~~~s.power.sealedBanks) { s with
      radio.cal.dueSince := s.radio.cal.dueSince + away, bg.lastPause := s.bg.lastPause.map fun p => (p.1 + away, p.2)
      bg.dueAt := s.bg.dueAt.map fun t => t + away }
    let s2 : State := { s1 with
      power := { s.power with phase := .run, domains := on_, usable := on_ ||| s.power.usable, wake := record, heldWake := 0, heldDetail := 0 }
      radio.refInUse := s.radio.rf.ref, radio.trimInUse := s.radio.rf.hfxoTrim, plaza.rdy := true
      plaza.uartBitNs := if m.getLsbD 6 then none else s.plaza.uartBitNs }
    let s2 := periReset (raise 0x004 ((wakeWords record).take 7) s2)
    let s3 := sampleTemp c n (raisePending (ageBuckets (if on_.getLsbD dXMEM then linksBack s2 else s2)))
    s3.sec.debugHeld = none → exec (.wake src d 0#16 c n) s = .next (if on_.getLsbD dAPP then coreStart 1 s3 else s3))

/-- Both parts, or all three, above. -/
def Obligations.PowerInstantsAct : Prop :=
  Sys2Proof.Statements.supplyAndDomainsAct ∧ Sys2Proof.Statements.stopAndWakeAct

/-- R458, R460 to R466: the instants of an update. At a gap the handover begins; its record complete, it flips to the staged image and
starts its trial unless the application core stands before a delay slot, or it ends with BROWNOUT_HOLD; the cores leave the stub; adoption
ends it or rolls it back. Without a gap in WAIT_MAX it ends EXPIRED, the package still staged. A trial that ends for a reason of R465 is
rolled back by a warm reset with CAUSE 4; the erase of the inactive bank answers UPD_BEGIN; the checks of a package answer UPD_VERIFY. -/
def Sys2Proof.Statements.updateInstantsAct : Prop :=
  (∀ b s, (s.upd.act = none ∨ s.inRun = false) → exec (.handover b) s = .next s) ∧
  (∀ a b s, s.upd.act = some a → s.inRun = true → s.upd.hand = none → exec (.handover b) s = .next (
    if s.upd.staged ≠ none ∧ gapNow s = true then { s with upd.hand := some { phase := .record, t0 := s.elapsed.now } } else s)) ∧
  (∀ a h img b s, s.upd.act = some a → s.inRun = true → s.upd.hand = some h → h.phase = .record → s.upd.staged = some img →
    (s.power.bodWarn = true → exec (.handover b) s = .next (activationEnds a .brownoutHold s)) ∧
    (s.power.bodWarn = false → coreMidTransfer s = true → exec (.handover b) s = .next s) ∧
    (s.power.bodWarn = false → coreMidTransfer s = false → exec (.handover b) s = .next (flip img a h s))) ∧
  (∀ a h b s, s.upd.act = some a → s.inRun = true → s.upd.hand = some h → h.phase = .parked →
    (s.on dAPP = false → exec (.handover b) s = .next { s with upd.hand := some { h with phase := .adopting, entry := false } }) ∧
    (∀ e t, s.on dAPP = true → coreHandover s = (e, t) →
      exec (.handover b) s = .next { t with upd.hand := some { h with phase := .adopting, entry := e } })) ∧
  (∀ a h s, s.upd.act = some a → s.inRun = true → s.upd.hand = some h → h.phase = .adopting →
    exec (.handover true) s = .next (adopt a h s) ∧
    exec (.handover false) s = .next (warmResetTo 4 (some 1) (strapLevel s) s)) ∧
  (∀ s, s.upd.act = none → exec .handoverWaitExpiry s = .next s) ∧
  (∀ a s, s.upd.act = some a → s.inRun = true → s.upd.hand = none → elapsedBy a.since s.elapsed.now (msU a.waitMax) = true →
    exec .handoverWaitExpiry s = .next (activationEnds a .expired s)) ∧
  (∀ r s, s.upd.trial = none → exec .trialExpiry s = .next s ∧ exec (.rollback r) s = .next s) ∧
  (∀ t s, s.upd.trial = some t → s.inRun = true → s.upd.hand = none → elapsedBy t.since s.elapsed.now (secU t.trialS) = true →
    exec .trialExpiry s = .next (warmResetTo 4 (some 4) (strapLevel s) s)) ∧
  (∀ t s, s.upd.trial = some t → s.inRun = true → s.elapsed.now.toNat ≤ t.since.toNat + secU 2 →
    exec (.rollback .selfTest) s = .next (warmResetTo 4 (some (reasonCode .selfTest)) (strapLevel s) s)) ∧
  (∀ r t s, s.upd.trial = some t → s.inRun = true → r ≠ .selfTest → r ≠ .trialElapsed → t.due = some (reasonCode r) →
    exec (.rollback r) s = .next (warmResetTo 4 (some (reasonCode r)) (strapLevel s) s)) ∧
  (∀ s, s.upd.session = none → exec .inactiveBankErased s = .next s ∧ exec .updVerifyDone s = .next s) ∧
  (∀ u t s, s.upd.session = some u → u.erasing = some t → s.power.bodWarn = false → s.inRun = true →
    let s1 := (List.range' (inactiveFirst s) s.bankSectors).foldl (fun v k => eraseSector k v) s
    exec .inactiveBankErased s = .next (finish ⟨u.port, t, 0x901, []⟩ .ok [] { s1 with upd.session := some { u with erasing := none } })) ∧
  (∀ u p t s, s.upd.session = some u → s.upd.verifying = some (p, t) → s.inRun = true → ∀ st reason kind staged,
    checkPackage u s = (st, reason, kind, staged) →
    let m := bankBytes s (1 - activeArray s) 0 1024
    exec .updVerifyDone s = .next (finish ⟨p, t, 0x903, []⟩ st
      [BitVec.ofNat 32 (reason + kind % 8 * 16), BitVec.ofNat 32 (mNum m 8 4), BitVec.ofNat 32 (mNum m 248 4)]
      { s with upd.verifying := none, upd.staged := staged }))

/-- R394, R403, R475 to R483: the background activities. A quantum that may not run changes nothing; one that runs clears its urgency and
advances: a scrub of 64 words, a refresh of one sector (not of an array in use), a compaction, a telemetry sample; an overdue activity becomes
urgent and is counted, and an overdue calibration step drains the radio. -/
def Sys2Proof.Statements.backgroundQuantaAct : Prop :=
  (∀ m e s, (quantumMay .scrub s = false ∨ m = .flash) → exec (.scrubQuantum m e) s = .next s) ∧
  (∀ m s, Quantum .scrub s → m ≠ .flash →
    let s1 := afterQuantum .scrub s
    let s2 : State := if s.bg.scrubPos + 64 < scrubWords s then { s1 with bg.scrubPos := s.bg.scrubPos + 64 }
      else { s1 with bg.scrubPos := 0, bg.scrubPasses := satInc s1.bg.scrubPasses, bg.scrubNow := s1.bg.scrubS }
    exec (.scrubQuantum m .none) s = .next s2 ∧
    ∀ a, exec (.scrubQuantum m (.corrected a)) s = .next { s2 with bg.scrubCorrected := satInc s2.bg.scrubCorrected }) ∧
  (∀ e b s, quantumMay .refresh s = false → exec (.flashRefreshQuantum e b) s = .next s) ∧
  (∀ s, Quantum .refresh s → s.flash.op = none → bankErasing s = false →
    let s1 := afterQuantum .refresh s
    let s2 : State := if s.bg.refreshPos + 1 < s.sectors then { s1 with bg.refreshPos := s.bg.refreshPos + 1 }
      else { s1 with bg.refreshPos := 0, bg.refreshNow := s1.bg.refreshH }
    exec (.flashRefreshQuantum .none false) s = .next s2 ∧
    exec (.flashRefreshQuantum .none true) s = .next { s2 with bg.refreshMargin := satInc s2.bg.refreshMargin } ∧
    ∀ a, exec (.flashRefreshQuantum (.corrected a) false) s = .next { s2 with flash.corrected := satInc s2.flash.corrected }) ∧
  (∀ x s, quantumMay .compaction s = false → exec (.journalCompactionQuantum x) s = .next s) ∧
  (∀ s, Quantum .compaction s → exec (.journalCompactionQuantum none) s = .next (afterQuantum .compaction s) ∧
    ∀ x, x < s.sectors → arrayOf s x = 2 →
      exec (.journalCompactionQuantum (some x)) s = .next (eraseSector x (afterQuantum .compaction s))) ∧
  (∀ t n mv s, quantumMay .telemetry s = false → exec (.telemetryQuantum t n mv) s = .next s) ∧
  (∀ t n mv s, Quantum .telemetry s →
    let s1 := sampleTemp t n (afterQuantum .telemetry s)
    exec (.telemetryQuantum t n mv) s = .next { s1 with bg.temp := BitVec.ofInt 16 t, bg.vbat := BitVec.ofNat 16 mv }) ∧
  (∀ a s, (s.inRun = false ∨ s.bg.pause ≠ none ∨ isUrgent a s = true) → exec (.urgent a) s = .next s) ∧
  (∀ a s, a ≠ .calibration → s.inRun = true → s.bg.pause = none → isUrgent a s = false → s.power.bodWarn = false →
    elapsedBy s.bg.dueAt[activityIdx a] s.elapsed.now (deferralBound a) = true →
    exec (.urgent a) s = .next { s with bg.urgent := s.bg.urgent ||| (1#5 <<< activityBit a), bg.urgentCount := satInc s.bg.urgentCount }) ∧
  (∀ s, s.inRun = true → s.bg.pause = none → isUrgent .calibration s = false → s.radio.cal.periodic ≠ 0#4 →
    elapsedBy s.radio.cal.dueSince s.elapsed.now (secU 30) = true → calAdmitted s = false → s.bg.drain = none →
    exec (.urgent .calibration) s = .next { s with
      bg.urgent := s.bg.urgent ||| (1#5 <<< activityBit .calibration), bg.urgentCount := satInc s.bg.urgentCount
      bg.drain := some s.elapsed.now, bg.drains := satInc s.bg.drains })

/-- R238, R481, R484 to R486: what a pause, a context test, a bank test, a loopback and a directory snapshot end with. -/
def Sys2Proof.Statements.testsAndPausesEnd : Prop :=
  (∀ s, s.bg.pause = none → exec .bgPauseEnd s = .next s) ∧
  (∀ t ms s, s.bg.pause = some (t, ms) → elapsedBy t s.elapsed.now (msU ms) = true → exec .bgPauseEnd s = .next (pauseEnds ms s)) ∧
  (∀ p n s, s.bg.ctxTest = none → exec (.ctxTestDone p n) s = .next s) ∧
  (∀ p n t s, s.bg.ctxTest = some t →
    ((s.rx.ctxs[t.ctx]).st = .offline → s.isUsable dBLVD = true → elapsedBy t.offAt s.elapsed.now (usU 1500) = false →
      exec (.ctxTestDone p n) s = .next s) ∧
    ((s.rx.ctxs[t.ctx]).st = .offline → s.isUsable dBLVD = true → elapsedBy t.offAt s.elapsed.now (usU 1500) = true → exec (.ctxTestDone p n) s = .next (completeEvent t.port 0x0CB t.handle
      [t.handle.setWidth 32, BitVec.ofNat 32 (b2n p * 2 ^ 16 + t.ctx.val * 2 ^ 17), BitVec.ofNat 32 n]
      { s with bg.ctxTest := none, rx.ctxs := s.rx.ctxs.set t.ctx {} })) ∧
    ((s.rx.ctxs[t.ctx]).st ≠ .offline → elapsedBy t.since s.elapsed.now (msU t.waitMax) = true →
      exec (.ctxTestDone p n) s = .next (completeEvent t.port 0x0CB t.handle
        [t.handle.setWidth 32, BitVec.ofNat 32 (statusCode .expired + t.ctx.val * 2 ^ 17), 0#32] { s with bg.ctxTest := none }))) ∧
  (∀ n f s, s.bg.bist = none → exec (.bistDone n f) s = .next s) ∧
  (∀ n f t s, s.bg.bist = some t → elapsedBy t.since s.elapsed.now (usU (if s.power.lp then 3410 else 1280)) = false →
    exec (.bistDone n f) s = .next s) ∧
  (∀ n f t s, s.bg.bist = some t → elapsedBy t.since s.elapsed.now (usU (if s.power.lp then 3410 else 1280)) = true → exec (.bistDone n f) s = .next (completeEvent t.port 0x0CC t.handle
    [t.handle.setWidth 32, BitVec.ofNat 32 (b2n (decide (n = 0)) * 2 ^ 16), BitVec.ofNat 32 (min n 0xFFFFFFFF), if n = 0 then 0#32 else f]
    { s with bg.bist := none, sram := s.sram.filter fun c => c.1 / 65536 ≠ t.bank.val })) ∧
  (∀ p a b c d s, s.bg.loop = none → exec (.loopbackEnd p a b c d) s = .next s) ∧
  (∀ p a b c d o s, s.bg.loop = some o → elapsedBy o.since s.elapsed.now (usU o.durationUs) = false →
    exec (.loopbackEnd p a b c d) s = .next s) ∧
  (∀ p a b c d o s, s.bg.loop = some o → elapsedBy o.since s.elapsed.now (usU o.durationUs) = true →
    let answer (results : List Word) (s : State) := finish ⟨o.port, o.tag, 0xB03, []⟩ .ok results s
    let s1 : State := { s with bg.loop := none }
    (o.kerb = false → exec (.loopbackEnd p a b c d) s = .next (answer [BitVec.ofNat 32 (b2n p), a, b, c, d]
      (if s.radio.blanked = true ∧ s.radio.mode = .rx then endBlank s1 else s1))) ∧
    (o.kerb = true → exec (.loopbackEnd p a b c d) s = .next (answer
      [1#32, (s.kerb.passes - o.passes).setWidth 32, BitVec.ofNat 32 (decisionCount s - o.decisions), 0#32, 0#32]
      (kerbLevelEdge s { s1 with kerb.bypass := none })))) ∧
  (∀ s, s.dir.snapshot = none → exec .dirSnapshotDone s = .next s) ∧
  (∀ o s, s.dir.snapshot = some o → dirCfg s = none →
    exec .dirSnapshotDone s = .next (finish ⟨o.port, o.tag, 0x506, []⟩ .badState [] { s with dir.snapshot := none })) ∧
  (∀ o d s, s.dir.snapshot = some o → dirCfg s = some d → o.restore = false →
    let c : Cmd := ⟨o.port, o.tag, 0x506, []⟩
    let x := xspiFails (flushDirty o.first (o.first + o.num) { s with dir.snapshot := none })
    exec .dirSnapshotDone s = .next (if x.1 then finish c .directoryFault [] (dirFault o.first 2 x.2)
      else sendEntries c (if d.ext then 31 else 63) o.num 0 ((List.range o.num).map fun i => storedEntry d (o.first + i) x.2) x.2)) ∧
  (∀ o d s, s.dir.snapshot = some o → dirCfg s = some d → o.restore = true →
    let c : Cmd := ⟨o.port, o.tag, 0x506, []⟩
    let x := xspiFails { s with dir.snapshot := none }
    let r := restoreAll d o.first (chunks (4 * entryWords d) (unpackLE o.words))
      { x.2 with dir.epoch := x.2.dir.epoch + 1, dir.seq := 0, dir.epochDue := false }
    exec .dirSnapshotDone s = .next (if x.1 then finish c .directoryFault [] (dirFault o.first 3 x.2)
      else finish c .ok [W (r.2.1 + r.2.2 * 2 ^ 16)] r.1))

/-- Both parts, or all three, above. -/
def Obligations.UpdateBackgroundAndTestsAct : Prop :=
  Sys2Proof.Statements.updateInstantsAct ∧ Sys2Proof.Statements.backgroundQuantaAct ∧ Sys2Proof.Statements.testsAndPausesEnd

/-- R447, R448, R450: the steps of the Kerb. The value steps compute VD, saturating; the jumps compare VD with VS, signed; DIN reads and DOUT
drives pins; LOG appends a record; END ends the pass. A step at another position, or of a Kerb that is not in a pass, does nothing. -/
def Sys2Proof.Statements.kerbStepsAct : Prop :=
  (∀ row ∈ valueSteps, ∀ w s, AtStep row.2.1 w s → exec row.1 s =
    .next (setVar w (row.2.2 s.kerb.vars[varD w].toInt s.kerb.vars[varS w].toInt w) s)) ∧
  (∀ w s, AtStep 0 w s → exec .kerbEnd s = .next (passEnds false s)) ∧
  (∀ r n w s, AtStep 1 w s → s.kerb.bypass = none → s.peri.adc.busy = none → w.toNat % 16 ≠ 8 →
    exec (.kerbSample r n) s = .next (setVar w (BitVec.setWidth 16 r) s)) ∧
  (∀ w s, AtStep 2 w s → exec .kerbDin s = .next (setVar w ((kinLevels s &&& w.setWidth 8).setWidth 16) s)) ∧
  (∀ w s, AtStep 3 w s →
    let m : BitVec 8 := w.setWidth 8
    (w.getLsbD 25 = true → exec .kerbDout s = .next (withEdges (fun s => stepDone (s.kerb.step + 1)
      { s with kerb.driven := s.kerb.driven &&& ~~~m }) s)) ∧
    (w.getLsbD 25 = false → exec .kerbDout s = .next (withEdges (fun s => stepDone (s.kerb.step + 1) { s with
      kerb.driven := s.kerb.driven ||| m
      kerb.driveLevel := (s.kerb.driveLevel &&& ~~~m) ||| (w.extractLsb' 8 8 &&& m) }) s))) ∧
  (∀ w s, AtStep 4 w s → exec .kerbWait s = .next (stepDone (s.kerb.step + 1) s)) ∧
  (∀ w s, AtStep 10 w s → exec .kerbJgt s = .next (stepDone
    (if s.kerb.vars[varS w].toInt < s.kerb.vars[varD w].toInt then fld w 21 16 else s.kerb.step + 1) s)) ∧
  (∀ w s, AtStep 11 w s → exec .kerbJle s = .next (stepDone
    (if s.kerb.vars[varD w].toInt ≤ s.kerb.vars[varS w].toInt then fld w 21 16 else s.kerb.step + 1) s)) ∧
  (∀ w s, AtStep 12 w s → exec .kerbJmp s = .next (stepDone (fld w 21 16) s)) ∧
  (∀ w s, AtStep 13 w s →
    let rec_ := BitVec.ofNat 32 (s.kerb.step * 2 ^ 24 + (varD w).val * 2 ^ 21 + s.kerb.vars[varD w].toNat)
    let ws := if s.kerb.timeDue then [BitVec.ofNat 32 (2 ^ 31 + s.time.nt.toNat / 2 ^ 18 % 2 ^ 30), rec_] else [rec_]
    (s.kerb.log.length + ws.length ≤ 256 → exec .kerbLog s = .next (stepDone (s.kerb.step + 1) { s with
      kerb.log := s.kerb.log ++ ws, kerb.timeDue := false })) ∧
    (256 < s.kerb.log.length + ws.length → exec .kerbLog s = .next (stepDone (s.kerb.step + 1) { s with
      kerb.lost := BitVec.ofNat 16 (min 0xFFFF (s.kerb.lost.toNat + ws.length)), kerb.timeDue := false }))) ∧
  (∀ i ∈ [Instr.kerbEnd, .kerbDin, .kerbDout, .kerbWait, .kerbLoadi, .kerbAdd, .kerbSub, .kerbAbsd, .kerbIir, .kerbJgt, .kerbJle, .kerbJmp,
    .kerbLog, .kerbDecide, .kerbMov], ∀ s, (s.kerb.running = false ∨ s.kerb.inPass = false ∨ s.isUsable dKERB = false) → exec i s = .next s)

/-- R447, R449, R450: passes and decisions. A held trigger begins a pass at step 0; the period begins
one, or is held, or counted as lost, while a pass runs; an edge changes the level that KIN shows, of a Kerb that does not run nothing more.
DECIDE counts its code, sets its DECIDED bit and goes on with the next step. -/
def Sys2Proof.Statements.kerbPassesAndDecisionsAct : Prop :=
  (∀ t s, s.isUsable dKERB = false → exec (.kerbPass t) s = .next s) ∧
  (∀ t s, (t = .marker ∨ t = .software ∨ t = .start ∨ t = .held) → s.isUsable dKERB = true →
    (s.kerb.running = true → s.kerb.held = true → s.kerb.inPass = false → exec (.kerbPass t) s = .next { s with
      kerb.held := false, kerb.inPass := true, kerb.step := 0, kerb.executed := 0, kerb.timeDue := true }) ∧
    ((s.kerb.running = false ∨ s.kerb.held = false ∨ s.kerb.inPass = true) → exec (.kerbPass t) s = .next s)) ∧
  (∀ s, s.isUsable dKERB = true → s.kerb.running = true → s.kerb.period ≠ 0 →
    (s.kerb.inPass = false → exec (.kerbPass .periodic) s = .next { s with
      kerb.inPass := true, kerb.step := 0, kerb.executed := 0, kerb.timeDue := true }) ∧
    (s.kerb.inPass = true → s.kerb.held = false → exec (.kerbPass .periodic) s = .next { s with kerb.held := true }) ∧
    (s.kerb.inPass = true → s.kerb.held = true →
      exec (.kerbPass .periodic) s = .next { s with kerb.trigLost := satInc16 s.kerb.trigLost })) ∧
  (∀ pin up s, s.isUsable dKERB = true → s.kerb.running = false → ∃ t, exec (.kerbPass (.edge pin up)) s = .next t ∧
    t.kerb.kin.getLsbD (Fin.val pin) = up ∧ t.kerb.inPass = s.kerb.inPass ∧ t.kerb.vars = s.kerb.vars) ∧
  (∀ w s, AtStep 14 w s → ∃ t, exec .kerbDecide s = .next t ∧
    let c : Fin 16 := Fin.ofNat 16 (w.toNat % 16)
    t.kerb.counts[c] = s.kerb.counts[c] + 1 ∧ t.kerb.decided = s.kerb.decided ||| (1#16 <<< c.val) ∧ t.kerb.vars = s.kerb.vars ∧
    t.kerb.executed = s.kerb.executed + 1 ∧ (s.kerb.executed < 255 → t.kerb.inPass = true ∧ t.kerb.step = (s.kerb.step + 1) % 64))

/-- Both parts, or all three, above. -/
def Obligations.KerbActs : Prop :=
  Sys2Proof.Statements.kerbStepsAct ∧ Sys2Proof.Statements.kerbPassesAndDecisionsAct

end
end

