-- ==== Sys2Proof/Laws/Events.lean ====
section
/-! SUPPORT. What the shared operations that answer, raise and place events change: the ports and the mailbox, nothing else. -/

namespace Sys2Proof.Machine
open Sys2Proof

/-- Nothing but the ports and the mailbox (the Plaza) differs from s to t. -/
def OnlyPlaza (s t : State) : Prop := t = { s with plaza := t.plaza }

theorem OnlyPlaza.refl (s : State) : OnlyPlaza s s := rfl
theorem OnlyPlaza.trans {s t u : State} (a : OnlyPlaza s t) (b : OnlyPlaza t u) : OnlyPlaza s u := by
  unfold OnlyPlaza at *; rw [b, a]
theorem OnlyPlaza.mk (s : State) (pl : PlazaState) : OnlyPlaza s { s with plaza := pl } := rfl
theorem OnlyPlaza.ite {s a b : State} {c : Prop} [Decidable c] (ha : OnlyPlaza s a) (hb : OnlyPlaza s b) : OnlyPlaza s (if c then a else b) := by
  split <;> assumption
theorem setPort_only (s : State) (p : PortId) (q : Port) : OnlyPlaza s (s.setPort p q) := rfl
theorem settleHold_only (s : State) : OnlyPlaza s (settleHold s) := by
  unfold settleHold
  split
  · exact OnlyPlaza.ite rfl rfl
  · rfl
theorem beginPorts_only (s : State) : OnlyPlaza s (beginPorts s) :=
  (((setPort_only s _ _).trans (setPort_only _ _ _)).trans (setPort_only _ _ _)).trans (settleHold_only _)
theorem stampReset_only (p : PortId) (l : Lane) (s : State) : OnlyPlaza s (stampReset p l s) := by
  unfold stampReset
  split
  · exact OnlyPlaza.ite rfl rfl
  · rfl
theorem settleLane_only (p : PortId) (i : Fin 5) (s : State) : OnlyPlaza s (settleLane p i s) := by
  unfold settleLane
  dsimp only
  refine OnlyPlaza.ite ?_ (OnlyPlaza.trans ?_ (beginPorts_only _)) <;>
    exact OnlyPlaza.trans (t := if p = .mbx then _ else _) (by split <;> rfl)
      (OnlyPlaza.ite (stampReset_only _ _ _) (OnlyPlaza.refl _))
theorem produce_only (p : PortId) (i : Fin 5) (ws) (s : State) : OnlyPlaza s (produce p i ws s) :=
  (setPort_only s p _).trans (settleLane_only p i _)
theorem placeEvent_only (p : PortId) (pkt : List Word) (due : Bool) (s : State) : OnlyPlaza s (placeEvent p pkt due s) :=
  OnlyPlaza.ite (produce_only _ _ _ _) (OnlyPlaza.ite rfl rfl)
theorem placeLost_only (p : PortId) (s : State) : OnlyPlaza s (placeLost p s) :=
  OnlyPlaza.ite (OnlyPlaza.ite ((setPort_only s p _).trans (produce_only _ _ _ _)) rfl) rfl
theorem raiseOn_only (p : PortId) (code : Nat) (body : List Word) (s : State) : OnlyPlaza s (raiseOn p code body s) :=
  OnlyPlaza.ite (placeEvent_only _ _ _ _) rfl
theorem raise_only (code : Nat) (body : List Word) (s : State) : OnlyPlaza s (raise code body s) :=
  OnlyPlaza.ite rfl (((raiseOn_only .spi code body s).trans (raiseOn_only .uart code body _)).trans (raiseOn_only .mbx code body _))
theorem raiseAll_only (code : Nat) (body : List Word) (s : State) : OnlyPlaza s (raiseAll code body s) := by
  have one : ∀ p t, OnlyPlaza t (if takesEvents t p then placeEvent p (eventPacket code body) false t else t) :=
    fun p t => OnlyPlaza.ite (placeEvent_only _ _ _ _) rfl
  exact ((one .spi s).trans (one .uart _)).trans (one .mbx _)
theorem finish_only (c : Cmd) (st : Status) (res : List Word) (s : State) : OnlyPlaza s (finish c st res s) := produce_only _ _ _ _
theorem segment_only (c : Cmd) (res : List Word) (s : State) : OnlyPlaza s (segment c res s) := produce_only _ _ _ _
theorem completeEvent_only (p : PortId) (code : Nat) (h : BitVec 16) (body : List Word) (s : State) :
    OnlyPlaza s (completeEvent p code h body s) :=
  (OnlyPlaza.ite (c := takesEvents s p = true) ((setPort_only s p _).trans (placeEvent_only _ _ _ _)) (setPort_only s p _)).trans
    (placeLost_only _ _)

theorem OnlyPlaza.time {s t} (h : OnlyPlaza s t) : t.time = s.time := by rw [h]
theorem OnlyPlaza.power {s t} (h : OnlyPlaza s t) : t.power = s.power := by rw [h]
theorem OnlyPlaza.flash {s t} (h : OnlyPlaza s t) : t.flash = s.flash := by rw [h]
theorem OnlyPlaza.ledger {s t} (h : OnlyPlaza s t) : t.ledger = s.ledger := by rw [h]
theorem OnlyPlaza.link {s t} (h : OnlyPlaza s t) : t.link = s.link := by rw [h]
theorem OnlyPlaza.rx {s t} (h : OnlyPlaza s t) : t.rx = s.rx := by rw [h]
theorem OnlyPlaza.sec {s t} (h : OnlyPlaza s t) : t.sec = s.sec := by rw [h]

end Sys2Proof.Machine
end

