-- ==== Sys2Proof/Laws/Commands.lean ====
section
/-! SUPPORT. What a taken command packet does, whatever its opcode: the checks of R70 in order, then its owner; and small facts about the
fields of parameter words. -/

namespace Sys2Proof
open Sys2Proof.Machine Sys2Proof.Statements

theorem pkaNext_eq (s : State) : pkaNext s = pkaGoesOn s := by
  unfold pkaNext pkaGoesOn
  cases h : s.sec.pkaFirst <;> simp [h]

theorem pkaDone_ends {r : PkaReq} {s : State} (h : s.sec.pka = some r) (l : r.left ≤ 1) (c : Cmd) (f : Cmd → State → State)
    (e : pkaFinish r (pkaGoesOn s) = f c (pkaGoesOn s)) : exec .pkaDone s = .next (thenFree f c (pkaGoesOn s)) := by
  show Host.Outcome.next (pkaDone s) = _
  unfold pkaDone
  rw [h]; dsimp only
  rw [if_neg (by omega)]
  unfold thenFree
  simp only [pkaNext_eq, e]
  rfl

theorem WorkDone.of {code pre out} (work : Cmd → State → State)
    (d : ∀ r ps s, r.job = .command (BitVec.ofNat 12 code) ps → pkaFinish r s = work ⟨r.port, r.tag, code, ps⟩ s)
    (h : ∀ c b, c.code = code → pre c b → work c b = out c b) : WorkDone code pre out := by
  intro r ps s hr hj hl hp
  exact pkaDone_ends hr hl _ _ ((d r ps _ hj).trans (h _ _ rfl hp))

theorem Does.plaza {code i lenOk owner pre out}
    (e : ∀ p s, (waitsForCal code = true → s.radio.cal.full = false) → exec (i p) s = .next (plazaRun code lenOk owner p s))
    (h : ∀ c b, c.code = code → pre c b → lenOk c.ps = true ∧ owner c b = out c b) : Does code i pre out := by
  rintro p s b ⟨ho, hpk, hf, s1, ha, hh, ht, rfl⟩ hp
  obtain ⟨h1, h2⟩ := h _ _ rfl hp
  have h1 : lenOk p.params = true := h1
  have : (hostOnly code && !s.isHostPort p.port) = false := by
    cases hc : hostOnly code <;> simp_all
  have hk : (s.parked && !inHardware code) = false := by
    cases hs : s.parked <;> simp_all
  rw [e p s hf, ← h2]
  simp only [plazaRun, ho, hk, ha, this, ht, h1, Bool.not_true, Bool.or_false, Bool.false_eq_true, if_false]
  rfl

theorem radioRun_free {code lenOk f p s} (h : s.radio.cal.full = false) : radioRun code lenOk f p s = plazaRun code lenOk (immediate f) p s := by
  simp [radioRun, h]
theorem Does.radio {code i lenOk f pre out}
    (e : ∀ p s, exec (i p) s = .next (radioRun code lenOk f p s)) (w : waitsForCal code = true)
    (h : ∀ c b, c.code = code → pre c b → lenOk c.ps = true ∧ immediate f c b = out c b) : Does code i pre out :=
  Does.plaza (fun p s hf => by rw [e, radioRun_free (hf w)]) h
theorem immediate_ok {f : Cmd → State → Except Status (List Word × State)} {c s res s'} (h : f c s = .ok (res, s')) :
    immediate f c s = finish c .ok res s' := by rw [immediate, h]
theorem small_only {w : Word} {n : Nat} {m : Word} (h : w.toNat < 2 ^ n) (hm : ∀ i < n, m.getLsbD i = true) : onlyBits w m = true := by
  simp only [onlyBits, beq_iff_eq]
  apply BitVec.eq_of_getLsbD_eq; intro i hi
  by_cases h5 : i < n
  · simp [-BitVec.getLsbD_eq_getElem, BitVec.getLsbD_and, BitVec.getLsbD_not, hm i h5]
  · have e : w.getLsbD i = false := by
      rw [BitVec.getLsbD, Nat.testBit_lt_two_pow]
      exact lt_of_lt_of_le h (Nat.pow_le_pow_right (by omega) (by omega))
    simp [-BitVec.getLsbD_eq_getElem, BitVec.getLsbD_and, e]
theorem bit_of_only {w m : Word} (h : onlyBits w m = true) (k : Nat) (hk : m.getLsbD k = false) : w.getLsbD k = false := by
  by_cases hl : k < 32
  · have : w &&& ~~~m = 0#32 := by simpa [onlyBits] using h
    have := congrArg (fun x => x.getLsbD k) this
    cases hw : w.getLsbD k with
    | false => rfl
    | true => simp [-BitVec.getLsbD_eq_getElem, BitVec.getLsbD_and, BitVec.getLsbD_not, hk, hw, hl] at this
  · simp [BitVec.getLsbD_of_ge, Nat.le_of_not_lt hl]
theorem only_mono {w m n : Word} (h : onlyBits w m = true) (hm : m &&& ~~~n = 0#32) : onlyBits w n = true := by
  have h' : w &&& ~~~m = 0#32 := by simpa [onlyBits] using h
  simp only [onlyBits, beq_iff_eq]
  apply BitVec.eq_of_getLsbD_eq
  intro i hi
  have a := congrArg (fun x => x.getLsbD i) h'
  have b := congrArg (fun x => x.getLsbD i) hm
  simp [hi] at a b ⊢
  intro hw; exact b (a hw)
theorem fld_of_only {w m : Word} (h : onlyBits w m = true) (hi lo : Nat) (hk : ∀ k, lo ≤ k → k ≤ hi → m.getLsbD k = false) : fld w hi lo = 0 := by
  apply Nat.eq_of_testBit_eq
  intro i
  simp only [fld, Nat.zero_testBit, Nat.testBit_mod_two_pow, Nat.testBit_shiftRight]
  by_cases hi' : i < hi + 1 - lo
  · have := bit_of_only h (lo + i) (hk _ (by omega) (by omega))
    simp only [BitVec.getLsbD] at this
    simp [this]
  · simp [hi']
theorem small_of_onlyBits64 {w : Word} (h : onlyBits w 0x3F#32 = true) : w.toNat < 64 :=
  Nat.lt_pow_two_of_testBit (n := 6) w.toNat fun i hi => bit_of_only h i (by
          by_cases h32 : i < 32
          · interval_cases i <;> rfl
          · simp [BitVec.getLsbD_of_ge, Nat.le_of_not_lt h32])

/-- DOMAIN_SET switching XMEM off while links have no place is refused (R20). -/
theorem domainSetNow_busy (c : Cmd) (b : State) (w : Word) (h0 : c.ps = [w]) (hw : XmemOff w b) (h1 : b.on dXMEM = true) (h2 : b.is80 = true)
    (h3 : dirCfg b = none) (h4 : b.link.links ≠ []) : domainSetNow c b = finish c .domainBusy [] b := by
  have k : noKeeping b = true := by unfold noKeeping; rw [h2, h3]; simp [h4]
  have k2 : domainBusy 7 b = true := by simp [domainBusy, dKERB, dAPP, dCRYPTO, dXMEM, k]
  have hx : b.power.domains.getLsbD 7 = true := h1
  have hp : param c.ps 1 = w := by rw [h0]; rfl
  obtain ⟨w1, w2, w3, w4, w5, w6, w7⟩ := hw
  have e7 : (w.setWidth 12).getLsbD 7 = true := by simp only [BitVec.getLsbD_setWidth]; exact w2
  have e (n : Nat) (hn : n < 12) : (w.setWidth 12).getLsbD n = bitAt w n := by
    simp only [BitVec.getLsbD_setWidth, bitAt]; simp [hn]
  have hz : (w.setWidth 12 == 0#12) = false := by
    rw [beq_eq_false_iff_ne]; intro h; rw [h] at e7; exact absurd e7 (by decide)
  have ha : ((List.range 12).any fun n => (w.setWidth 12 &&& b.power.domains).getLsbD n && domainBusy n b) = true := by
    rw [List.any_eq_true]; refine ⟨7, by decide, ?_⟩
    rw [k2, BitVec.getLsbD_and, hx, e7]; rfl
  have w7' : (bitAt w dAPP && b.flash.hostApp) = false := by
    cases h : bitAt w dAPP
    · rfl
    · simp [w7 h]
  have hz' : decide (w.setWidth 12 = 0#12) = false := by
    rw [decide_eq_false_iff_not]; intro h; rw [h] at e7; exact absurd e7 (by decide)
  simp only [domainSetNow, hp]
  simp only [e 0 (by decide), e dFLASH (by decide), e dLINK (by decide), e dAPP (by decide), e dBLVD (by decide), w1, w3, w4, w5, w6, w7',
    ha, hz', Bool.false_and, Bool.not_true, Bool.not_false, Bool.true_and, Bool.or_false, Bool.false_or, Bool.false_eq_true, if_false]
  cases closed (b.power.domains &&& ~~~(w.setWidth 12)) <;> rfl

theorem eventMaskRun_eq (c : Cmd) (b : State) : eventMaskRun c b = if (maskOf c.ps &&& ~~~definedEvents != 0#256) || !onlyBits (param c.ps 9) 1#32 then .error .badParam
  else .ok ([], b.setPort c.port { b.port c.port with mask := maskOf c.ps, diagEn := bitAt (param c.ps 9) 0 }) := rfl

theorem eventMaskRun_ok (c : Cmd) (b : State) (hm : (maskOf c.ps &&& ~~~definedEvents != 0#256) = false) (h9 : onlyBits (param c.ps 9) 1#32 = true) : eventMaskRun c b = .ok ([], (b.setPort c.port { b.port c.port with mask := maskOf c.ps, diagEn := bitAt (param c.ps 9) 0 })) := by
  rw [eventMaskRun_eq, hm, h9]; rfl

theorem W_toNat (n : Nat) (h : n < 2^32) : (W n).toNat = n := by
  simp [W]; omega

theorem bitAt_eq (w : Word) (k : Nat) : bitAt w k = w.getLsbD k := rfl

theorem rfConfigRun_ok {c : Cmd} {b : State} {r : RfConfig} (h1 : rfOf c.ps = some r) : rfConfigRun c b = .ok ([], { b with
      radio.rf := r
      radio.cal.due := if b.radio.rf.extLna ≠ r.extLna || b.radio.rf.extLnaGain ≠ r.extLnaGain then b.radio.cal.due ||| 4#4
        else b.radio.cal.due
      radio.cal.unchanged := b.radio.cal.unchanged && b.radio.rf.ref = r.ref }) := by
  unfold rfConfigRun
  rw [h1]

theorem fld_small {w : Word} {n : Nat} (h : w.toNat < 2 ^ n) (k : Nat) (hk : k + 1 = n) : fld w k 0 = w.toNat := by
  subst hk; simp [fld, Nat.mod_eq_of_lt h]

theorem waitKeys_ready {f : Cmd → State → State} {c s} (h : s.isUsable dCRYPTO = true) (h' : s.sec.ready = true) : waitKeys f c s = f c s := by
  simp [waitKeys, h, h']

theorem askPka_eq (c : Cmd) (b : State) : pkaCommand c b = askPka c b := by
  simp only [pkaCommand, pkaPut, askPka]; cases b.sec.pka <;> rfl

theorem any_false_of_forall {α} {l : List α} {p q : α → Bool} (h : ∀ x ∈ l, p x = true ∧ q x = false) : (l.any fun x => !p x || q x) = false := by
  simp only [List.any_eq_false, Bool.or_eq_true, Bool.not_eq_true']
  intro x hx; simp [h x hx]

theorem plaza_order {code : Nat} {i : Packet → Instr} {lenOk owner} (e : ∀ p s, (waitsForCal code = true → s.radio.cal.full = false) → exec (i p) s = .next (plazaRun code lenOk owner p s))
   (e0 : ∀ p s, plazaOpen p.port s = false ∨ (s.parked = true ∧ inHardware code = false) → exec (i p) s = .next s) (p : Packet) (s : State) :
    (plazaOpen p.port s = false ∨ (s.parked = true ∧ inHardware code = false) → exec (i p) s = .next s) ∧
    (plazaOpen p.port s = true → (s.parked = true → inHardware code = true) → (waitsForCal code = true → s.radio.cal.full = false) →
      ∀ s1 crc, arrive 0 code p s = some (s1, crc) →
      let allowed := !hostOnly code || s.isHostPort p.port
      let clash := (s.port p.port).tags.contains p.tag
      (crc = false → exec (i p) s = .next (refuseCrc p code s1)) ∧
      (crc = true → allowed = false → exec (i p) s = .next (refuseUnseen p.port code p.tag .denied false s1)) ∧
      (crc = true → allowed = true → clash = true → exec (i p) s = .next (refuseUnseen p.port code p.tag .busy true s1)) ∧
      (crc = true → allowed = true → clash = false → lenOk p.params = false →
        exec (i p) s = .next (finish (asCmd code p) .badLength [] (markOutstanding p s1)))) := by
  have key : ∀ q : Bool, (q → inHardware code = true) → (q && !inHardware code) = false := by
    intro q hq; cases q <;> simp_all
  refine ⟨e0 p s, fun h hp hf s1 crc ha => ⟨?_, ?_, ?_, ?_⟩⟩
  all_goals rw [e p s hf]; unfold plazaRun; simp only [h, key s.parked hp, ha, Bool.not_true, Bool.or_false, Bool.false_eq_true, if_false]
  · rintro rfl; rfl
  · rintro rfl h1
    have : (hostOnly code && !s.isHostPort p.port) = true := by cases hc : hostOnly code <;> simp_all
    simp only [this]; rfl
  · rintro rfl h1 h2
    have : (hostOnly code && !s.isHostPort p.port) = false := by cases hc : hostOnly code <;> simp_all
    simp only [this, h2]; rfl
  · rintro rfl h1 h2 h3
    have : (hostOnly code && !s.isHostPort p.port) = false := by cases hc : hostOnly code <;> simp_all
    simp only [this, h2, h3]; rfl

theorem plazaRun_closed {code lenOk owner p s} (h : plazaOpen p.port s = false ∨ (s.parked = true ∧ inHardware code = false)) :
    plazaRun code lenOk owner p s = s := by
  rcases h with h | ⟨h, h1⟩
  · simp [plazaRun, h]
  · simp [plazaRun, h, h1]

theorem radioRun_closed {code lenOk owner p s} (h : plazaOpen p.port s = false ∨ (s.parked = true ∧ inHardware code = false)) : radioRun code lenOk owner p s = s := by
  simp [radioRun, plazaRun_closed h]

theorem radio_order {code : Nat} {i : Packet → Instr} {lenOk f} (e : ∀ p s, exec (i p) s = .next (radioRun code lenOk f p s)) (w : waitsForCal code = true) (p : Packet) (s : State) :
    (plazaOpen p.port s = false ∨ (s.parked = true ∧ inHardware code = false) → exec (i p) s = .next s) ∧
    (plazaOpen p.port s = true → (s.parked = true → inHardware code = true) → (waitsForCal code = true → s.radio.cal.full = false) →
      ∀ s1 crc, arrive 0 code p s = some (s1, crc) →
      let allowed := !hostOnly code || s.isHostPort p.port
      let clash := (s.port p.port).tags.contains p.tag
      (crc = false → exec (i p) s = .next (refuseCrc p code s1)) ∧
      (crc = true → allowed = false → exec (i p) s = .next (refuseUnseen p.port code p.tag .denied false s1)) ∧
      (crc = true → allowed = true → clash = true → exec (i p) s = .next (refuseUnseen p.port code p.tag .busy true s1)) ∧
      (crc = true → allowed = true → clash = false → lenOk p.params = false →
        exec (i p) s = .next (finish (asCmd code p) .badLength [] (markOutstanding p s1)))) :=
  plaza_order (owner := immediate f) (fun p s h => by rw [e, radioRun_free (h w)]) (fun p s h => by rw [e, radioRun_closed h]) p s

end Sys2Proof
end

