-- ==== Sys2Proof/Laws/Cipher.lean ====
section
/-! SUPPORT. What CIPHER_RUN's owner does with a step that it accepts. -/

namespace Sys2Proof
open Sys2Proof.Machine Sys2Proof.Statements

theorem runStep_done (c n final m s) : runStep c n final m s = cipherDone c n final m s := by
  unfold runStep cipherDone cipherData
  cases final
  · simp
  · dsimp only
    generalize stepMsg m ((unpackLE (c.ps.drop 12)).take (fld (param c.ps 2) 12 0)) = R
    cases hv : verifiesTag m <;> cases hs : m.stream <;>
      by_cases e : endTag R.2 = (unpackBE ((c.ps.drop 8).take 4)).take m.tagLen <;> simp [e]

theorem cipherOwner_runs (c b) (hu : b.isUsable dCRYPTO = true) (hr : fld (param c.ps 1) 5 3 = 6 ∨ b.sec.ready = true) (hb : staticBad c.ps = false) :
    cipherOwner c b = if stepOf c.ps ≤ 1 then cipherOpen c b else cipherNext c b := by
  unfold cipherOwner
  dsimp only
  rcases hr with h | h
  · rw [if_pos h]; simp [hu, hb]
  · by_cases h6 : fld (param c.ps 1) 5 3 = 6
    · rw [if_pos h6]; simp [hu, hb]
    · rw [if_neg h6]; simp [waitKeys, hu, h, hb]

theorem cipherOwner_opens (c b single n m1 s1) (h : cipherMayOpen c b single n m1 s1) : cipherOwner c b = runStep c n single (openMsg m1) s1 := by
  obtain ⟨h0, h1, h2, h3, h4, h5, key, h6, h7, h8, h9, h10, h11⟩ := h
  rw [cipherOwner_runs c b h1 h2 h3, if_pos (by cases single <;> simp_all)]
  have hsg : decide (stepOf c.ps = 0) = single := by cases single <;> simp_all
  have f7 : tagBad (newMsg c [] b) single c.ps = false := h7
  have f8 : lengthBad (newMsg c [] b) single (fld (param c.ps 2) 12 0) = false := h8
  unfold cipherOpen
  simp only [h5, h6, hsg, f7, f8, h9, h10, firstFail, Bool.or_self, Bool.false_eq_true, if_false]
  cases ha : (newMsg c key b).autoNonce
  · simp only [ha, Bool.false_eq_true, if_false] at h11 ⊢; obtain ⟨rfl, rfl⟩ := h11; rfl
  · simp only [ha, if_true] at h11 ⊢; rw [h11]

theorem cipherOwner_continues (c b final m) (h : cipherMeets c b final m) : cipherOwner c b = runStep c (fld (param c.ps 1) 18 16) final m b := by
  obtain ⟨h0, h1, h2, h3, h4, h5, h6, h7, h8, h9, h10, h11, h12, h13, h14, h15⟩ := h
  rw [cipherOwner_runs c b h1 h2 h3, if_neg (by cases final <;> simp_all)]
  have hsg : decide (stepOf c.ps = 3) = final := by cases final <;> simp_all
  unfold cipherNext
  simp only [h5, hsg, h6, Option.filter_some, h7, decide_true, h8, h9, h10, h11, h12, h13, h14, h15, firstFail, Bool.false_eq_true, if_false]
  simp [h14, h15]

end Sys2Proof
end

