-- ==== Sys2Proof/Laws/CoreRun.lean ====
section
/-! SUPPORT. What the PB32 core does with an instruction that it executes: reading and writing registers, the shared shapes of its
instructions, and the spec's numbers for the bit operations. -/

namespace Sys2Proof
open Sys2Proof.Machine Sys2Proof.Statements

theorem atLoopEnd_false (s : State) (h : s.core.slot = none) (h' : noLoopEnd s) : atLoopEnd s = false := by
  unfold atLoopEnd; rw [List.any_eq_false]; intro n _
  have := h' n
  simp only [Bool.and_eq_true, decide_eq_true_eq, not_and, decide_not, Bool.not_eq_true', decide_eq_false_iff_not, not_not]
  rcases this with a | a
  · exact fun h => absurd h a
  · exact fun _ => a

theorem pbRow_runs {s b f} (h : Executes s b) : pbRow f s = conclude (f b) := by
  obtain ⟨h1, h2, rfl⟩ := h
  simp only [pbRow, h1, h2, Bool.not_true, Bool.false_eq_true, if_false]

theorem rg_ok {b r} (h : settledIn b r) : rg r b = (valueOf r b, b) := by
  unfold rg valueOf; rcases h with rfl | h
  · rfl
  · split; rfl; rw [if_neg (by simp [h])]

theorem wr_ok {b r} (w) (h : settledIn b r) : wr r w b = putReg r w b := by
  unfold wr putReg; rcases h with rfl | h
  · rfl
  · split; rfl; rw [if_neg (by simp [h])]

theorem alu2_ok {op rd ra rb s b} (h : Executes s b) (h1 : settledIn b rd) (h2 : settledIn b ra) (h3 : settledIn b rb) :
    pb (alu2 op rd ra rb) s = .next (advance (putReg rd (op (valueOf ra b) (valueOf rb b)) b)) := by
  unfold pb; rw [pbRow_runs h, alu2, rg_ok h2]; dsimp only; rw [rg_ok h3]; dsimp only; rw [wr_ok _ h1]; rfl

theorem alu1_ok {op rd ra s b} (h : Executes s b) (h1 : settledIn b rd) (h2 : settledIn b ra) :
    pb (alu1 op rd ra) s = .next (advance (putReg rd (op (valueOf ra b)) b)) := by
  unfold pb; rw [pbRow_runs h, alu1, rg_ok h2]; dsimp only; rw [wr_ok _ h1]; rfl

theorem slt_truth (a b : Word) : (if a.slt b then (1#32) else 0#32) = truth (a.toInt < b.toInt) := by simp [truth, BitVec.slt]

theorem ult_truth (a b : Word) : (if a.ult b then (1#32) else 0#32) = truth (a.toNat < b.toNat) := by simp [truth, BitVec.ult]

theorem shiftLeft_mul (a : Word) (n : Nat) : a <<< n = BitVec.ofNat 32 (a.toNat * 2 ^ n) := by
  apply BitVec.eq_of_toNat_eq; simp [Nat.shiftLeft_eq]

theorem shiftRight_div (a : Word) (n : Nat) : a >>> n = BitVec.ofNat 32 (a.toNat / 2 ^ n) := by
  apply BitVec.eq_of_toNat_eq; simp [Nat.shiftRight_eq_div_pow]; rw [Nat.mod_eq_of_lt]
  exact lt_of_le_of_lt (Nat.div_le_self _ _) a.isLt

theorem sshiftRight_div (a : Word) (n : Nat) : a.sshiftRight n = BitVec.ofInt 32 (a.toInt / 2 ^ n) := by
  simp [BitVec.sshiftRight, Int.shiftRight_eq_div_pow]

theorem clz_spec : ∀ w : Word, ∃ n, clz w = BitVec.ofNat 32 n ∧ n ≤ 32 ∧ w.toNat < 2 ^ (32 - n) ∧ (n < 32 → 2 ^ (31 - n) ≤ w.toNat) := by
  intro w
  have key : ∀ k, k ≤ 32 → let n := (List.range k).foldl (fun acc i => if bitAt w i then 31 - i else acc) 32
      (n = 32 ∧ w.toNat % 2 ^ k = 0) ∨ (n < 32 ∧ 31 - n < k ∧ 2 ^ (31 - n) ≤ w.toNat % 2 ^ k ∧ w.toNat % 2 ^ k < 2 ^ (32 - n)) := by
    intro k
    induction k with
    | zero => intro _; left; exact ⟨rfl, Nat.mod_one _⟩
    | succ k ih =>
      intro hk
      have ih := ih (by omega)
      simp only [List.range_succ, List.foldl_append, List.foldl_cons, List.foldl_nil]
      generalize (List.range k).foldl (fun acc i => if bitAt w i then 31 - i else acc) 32 = n at ih
      have hm : w.toNat % 2 ^ (k + 1) = w.toNat % 2 ^ k + 2 ^ k * (w.toNat / 2 ^ k % 2) := Nat.mod_pow_succ
      have hb : bitAt w k = decide (w.toNat / 2 ^ k % 2 = 1) := by
        simp only [bitAt, BitVec.getLsbD, Nat.testBit_eq_decide_div_mod_eq]
      have hlt : w.toNat % 2 ^ k < 2 ^ k := Nat.mod_lt _ (by positivity)
      rcases Nat.mod_two_eq_zero_or_one (w.toNat / 2 ^ k) with h | h
      · rw [hb, h]; simp only [h, Nat.mul_zero, Nat.add_zero] at hm; rw [hm]; simp only [Nat.zero_ne_one, decide_false, Bool.false_eq_true, if_false]
        rcases ih with ih | ih
        · left; exact ih
        · right; refine ⟨ih.1, by omega, ih.2.2⟩
      · rw [hb, h]; simp only [h, Nat.mul_one] at hm; simp only [decide_true, if_true]
        right
        refine ⟨by omega, by omega, ?_, ?_⟩
        · rw [show 31 - (31 - k) = k by omega, hm]; omega
        · rw [show 32 - (31 - k) = k + 1 by omega, hm, Nat.pow_succ]; omega
  have := key 32 le_rfl
  refine ⟨_, rfl, ?_⟩
  dsimp only at this
  generalize (List.range 32).foldl (fun acc i => if bitAt w i then 31 - i else acc) 32 = n at this
  rw [Nat.mod_eq_of_lt w.isLt] at this
  rcases this with ⟨rfl, h⟩ | h
  · simp [h]
  · exact ⟨by omega, h.2.2.2, fun _ => h.2.2.1⟩

theorem shiftCount_mod (b : Word) : fld b 4 0 = b.toNat % 32 := by simp [fld]

theorem pbTransfer_runs {s b f} (h : Executes s b) (h1 : s.core.slot = none) (h2 : atLoopEnd s = false) : pbTransfer f s = .next (conclude (f b)) := by
  unfold pbTransfer; rw [h1, h2]; simp [pbRow_runs h]

theorem settledIn_g30 {b} (h : hasHazard b 30#5 = false) : settledIn b 30#5 := .inr h

theorem pushed_ok {w k b t} (h : pushWord w b = some t) : pushed w k b = k t := by
  unfold pushWord at h
  split at h; · cases h
  rename_i hh
  split at h; · cases h
  rename_i ha
  unfold pushed; rw [rg_ok (settledIn_g30 (by simpa using hh))]
  have hv : valueOf 30#5 b = b.core.regs[30] := rfl
  dsimp only; rw [hv, if_neg ha]
  cases hw : busWrite (b.core.regs[30] - 4).toNat 4 w b with
  | error _ => rw [hw] at h; cases h
  | ok u =>
    rw [hw] at h; dsimp only at h ⊢
    split at h; · cases h
    rename_i hu
    rw [wr_ok _ (settledIn_g30 (by simpa using hu))]; cases h; rfl

theorem popped_ok {w k b t} (h : popWord b = some (w, t)) : popped k b = k w t := by
  unfold popWord at h
  split at h; · cases h
  rename_i hh
  split at h; · cases h
  rename_i ha
  unfold popped; rw [rg_ok (settledIn_g30 (by simpa using hh))]
  have hv : valueOf 30#5 b = b.core.regs[30] := rfl
  dsimp only; rw [hv, if_neg ha]
  cases hw : busRead (b.core.regs[30]).toNat 4 b with
  | error _ => rw [hw] at h; cases h
  | ok u =>
    obtain ⟨v, u⟩ := u
    rw [hw] at h; dsimp only at h ⊢
    split at h; · cases h
    rename_i hu
    rw [wr_ok _ (settledIn_g30 (by simpa using hu))]; cases h; rfl

theorem pushAll_ok {k} : ∀ {ws b t}, pushWords ws b = some t → pushAll ws k b = k t
  | [], b, t, h => by cases h; rfl
  | w :: ws, b, t, h => by
    obtain ⟨u, hu, h⟩ := Option.bind_eq_some_iff.mp h
    rw [pushAll, pushed_ok hu, pushAll_ok h]

theorem offset_words (n) (hn : n ≤ 30) (off : BitVec n) : (off.signExtend 32 <<< 2) = BitVec.ofInt 32 (4 * off.toInt) := by
  rw [BitVec.signExtend]
  apply BitVec.eq_of_toNat_eq
  simp only [BitVec.toNat_shiftLeft, BitVec.toNat_ofInt, Nat.shiftLeft_eq]
  omega

theorem orderPage_settled {t : State} {rd : BitVec 5} {a : Nat} (h : settledIn t rd) : settledIn (orderPage a t) rd := by
  unfold orderPage; split <;> exact h

theorem load_ok {n ext rd ra imm s b} (h : Executes s b) (h1 : settledIn b ra) :
    let a := accessAt ra imm b
    (∀ w t, a.toNat % n = 0 → busRead a.toNat n b = .ok (w, t) → settledIn t rd → pb (load n ext rd ra imm) s =
      .next (advance (usableAt 2 rd (putReg rd (ext w) (orderPage a.toNat { t with core.busRead := w }))))) ∧
    (a.toNat % n ≠ 0 → pb (load n ext rd ra imm) s = .next (takeExc { vector := 3, addr := some a } b)) ∧
    (∀ k, a.toNat % n = 0 → busRead a.toNat n b = .error k →
      pb (load n ext rd ra imm) s = .next (takeExc { vector := 2, addr := some a, kind := some k } b)) := by
  refine ⟨fun w t a r hd => ?_, fun a => ?_, fun k a r => ?_⟩ <;> unfold pb <;> rw [pbRow_runs h, load, rg_ok h1] <;> dsimp only <;> change _ = _ <;>
    rw [show valueOf ra b + sext imm = accessAt ra imm b from rfl]
  · rw [if_neg (by simp [a]), r]; dsimp only; rw [wr_ok _ (orderPage_settled (t := { t with core.busRead := w }) hd)]; rfl
  · rw [if_pos a]; rfl
  · rw [if_neg (by simp [a]), r]; rfl

theorem store_ok {n rs ra imm s b} (h : Executes s b) (h1 : settledIn b ra) (h2 : settledIn b rs) :
    let a := accessAt ra imm b
    (∀ t, a.toNat % n = 0 → busWrite a.toNat n (valueOf rs b) b = .ok t → pb (store n rs ra imm) s = .next (advance (noteCleared a.toNat b t))) ∧
    (a.toNat % n ≠ 0 → pb (store n rs ra imm) s = .next (takeExc { vector := 3, addr := some a } b)) ∧
    (∀ k, a.toNat % n = 0 → busWrite a.toNat n (valueOf rs b) b = .error k →
      pb (store n rs ra imm) s = .next (takeExc { vector := 2, addr := some a, kind := some k } b)) := by
  refine ⟨fun t a r => ?_, fun a => ?_, fun k a r => ?_⟩ <;> unfold pb <;> rw [pbRow_runs h, store, rg_ok h1] <;> dsimp only <;> rw [rg_ok h2] <;> dsimp only <;>
    rw [show valueOf ra b + sext imm = accessAt ra imm b from rfl]
  · rw [if_neg (by simp [a]), r]; rfl
  · rw [if_pos a]; rfl
  · rw [if_neg (by simp [a]), r]; rfl

theorem branch_ok {cond ra rb off s b} (h : Executes s b) (a : s.core.slot = none) (l : atLoopEnd s = false) (h1 : settledIn b ra) (h2 : settledIn b rb) :
    pbTransfer (branch cond ra rb off) s = .next (if cond (valueOf ra b) (valueOf rb b) then slotThen (b.core.pc + BitVec.ofInt 32 (4 * BitVec.toInt off)) true none b else slotThen (b.core.pc + 8) false none b) := by
  rw [pbTransfer_runs h a l, branch, rg_ok h1]; dsimp only; rw [rg_ok h2]; dsimp only
  rw [← offset_words 16 (by decide)]
  split <;> rfl

theorem startLoop_ok {n : BitVec 2} {len : BitVec 12} {count b} (h : n.toNat < 3) (h2 : 2 ≤ len.toNat) : conclude (startLoop n count len b) =
    age { b with
      core.ls := b.core.ls.set n.toNat (b.core.pc + 4), core.le := b.core.le.set n.toNat (b.core.pc + BitVec.ofNat 32 (4 * len.toNat)),
      core.lc := b.core.lc.set n.toNat count, core.specHazards := b.core.specHazards.filter fun h => h.sr.toNat / 3 ≠ n.toNat
      core.pc := if count = 0#32 then b.core.pc + BitVec.ofNat 32 (4 * len.toNat) + 4 else b.core.pc + 4
      core.cycles := if count = 0#32 then b.core.cycles + 1 else b.core.cycles } := by
  have e : (len.setWidth 32 <<< 2) = BitVec.ofNat 32 (4 * len.toNat) := by
    apply BitVec.eq_of_toNat_eq; simp [Nat.shiftLeft_eq]; omega
  unfold startLoop; rw [dif_pos h, if_neg (by omega), e]
  split <;> rfl

theorem startLoop_illegal {n : BitVec 2} {len : BitVec 12} {count b} (h : n = 3#2 ∨ len.toNat < 2) : conclude (startLoop n count len b) = takeExc { vector := 1 } b := by
  unfold startLoop
  split
  · rename_i h3
    rcases h with rfl | h
    · simp at h3
    · rw [if_pos h]; rfl
  · rfl

theorem settled_none {sr w s} (h : s.core.specHazards = []) : settled sr w s = (w, s) := by unfold settled; rw [h]; rfl

theorem loopNext_none {s} (h : s.core.specHazards = []) (hl : noLoopEnd s) : ∀ k, k ≤ 3 → loopNext k s = (s.core.pc + 4, s)
  | 0, _ => rfl
  | k + 1, hk => by
    unfold loopNext; simp only [settled_none h]
    rw [if_neg, loopNext_none h hl k (by omega)]
    have := hl (Fin.ofNat 3 (2 - k))
    simp only [Bool.and_eq_true, decide_eq_true_eq]
    rintro ⟨a, b⟩; rcases this with c | c; exact c a; exact b c

theorem entryFrame_ok {v r x s w t} (h : Framed v r x s w t) : entryFrame v r x s = (t, some w) := by
  obtain ⟨h1, h2, s1, s2, h3, h4, h5⟩ := h
  unfold entryFrame; dsimp only; rw [if_neg (not_not.mpr h1), h3]; dsimp only; rw [h4]; dsimp only
  have hv : s.core.vbase + W (4 * v) = s.core.vbase + BitVec.ofNat 32 (4 * v) := rfl
  rw [hv, h5]; dsimp only; rw [if_pos h2]

theorem staleEntry_ok {s h} (r : coreRuns s = true) (a : s.core.slot = none) (hz : s.core.specHazards = []) (i : intcTop s = none)
    (f : (s.core.stale.find? fun k => decide (s.core.status.getLsbD 0 = true ∧ fld s.core.status 3 1 < k.level ∧
      s.core.status.getLsbD 4 = false)) = some h) : exec .interruptEntry s =
    .next (if (drawBool { s with core.stale := s.core.stale.filter fun k => k.vector ≠ h.vector }).1 then
      takeIrq h.vector h.level (drawBool { s with core.stale := s.core.stale.filter fun k => k.vector ≠ h.vector }).2
      else (drawBool { s with core.stale := s.core.stale.filter fun k => k.vector ≠ h.vector }).2) := by
  have q : (fun k : StaleIrq => admitsIrq s.core.status k.level) = fun k => decide (s.core.status.getLsbD 0 = true ∧ fld s.core.status 3 1 < k.level ∧
      s.core.status.getLsbD 4 = false) := by
    funext k; rw [Bool.eq_iff_iff]; simp [admitsIrq, ieOf, iplOf, excOf, bitAt, and_assoc]; exact fun _ _ => decide_eq_true_iff
  have f' : s.core.stale.find? (fun k => admitsIrq s.core.status k.level) = some h := by rw [q]; exact f
  simp only [exec, execInterruptEntry, interruptEntry, r, a, i, settled_none hz]
  have ne : s.core.stale.isEmpty = false := by cases hs : s.core.stale with | nil => rw [hs] at f; cases f | cons _ _ => rfl
  rw [if_neg (by simp), ne]
  simp only [Bool.false_eq_true, if_false]; unfold staleEntry; simp only [f', a]

end Sys2Proof
end

