-- ==== Sys2Proof/Laws/FlashRuns.lean ====
section
/-! SUPPORT. Erasing and programming a whole run of sectors or units without a failure. -/

namespace Sys2Proof
open Sys2Proof.Machine Sys2Proof.Statements

theorem eraseSectors_all : ∀ k a n s, eraseSectors k a none n s = (⟨n + k, none⟩, (List.range' a k).foldl (fun t k => eraseSector k t) s)
  | 0, _, _, _ => rfl
  | k + 1, a, n, s => by
    rw [eraseSectors, eraseSectors_all k]; simp [List.range'_succ]; omega

theorem programUnits_all : ∀ (us : List (Nat × List Byte)) n s, (∀ i (h : i < us.length), unitBlank ((us.take i).foldl (fun t u => writeUnit u.1 u.2 t) s) us[i].1 = true) →
    programUnits us none n s = (⟨n + us.length, none⟩, us.foldl (fun t u => writeUnit u.1 u.2 t) s)
  | [], _, _, _ => rfl
  | (f, bs) :: us, n, s, h => by
    have h0 := h 0 (by simp)
    simp only [List.take_zero, List.foldl_nil, List.getElem_cons_zero] at h0
    rw [programUnits, h0, if_neg (by simp)]
    rw [programUnits_all us (n + 1) _ (fun i hi => by have := h (i + 1) (by simpa using hi); simpa using this)]
    simp; omega

end Sys2Proof
end

