-- ==== Sys2Proof/Laws/Memory.lean ====
section
/-! SUPPORT. The laws of the three memories: a read after a write, and the canonical form that every operation keeps. -/

namespace Sys2Proof.Machine
open Sys2Proof

@[simp] theorem memRead_nil (d : Byte) (a : Nat) : memRead d [] a = d := rfl

theorem memWfFrom_mono (d : Byte) (m : List Host.Cell) {lo hi : Nat} (h : lo ≤ hi) (w : memWfFrom d hi m = true) :
    memWfFrom d lo m = true := by
  cases m with
  | nil => rfl
  | cons c rest =>
    obtain ⟨k, v⟩ := c
    simp only [memWfFrom, Bool.and_eq_true, decide_eq_true_eq] at w ⊢
    exact ⟨⟨by omega, w.1.2⟩, w.2⟩

/-- Below the lowest listed address a memory reads as its default. -/
theorem memRead_below (d : Byte) (m : List Host.Cell) {lo a : Nat} (w : memWfFrom d lo m = true) (h : a < lo) :
    memRead d m a = d := by
  cases m with
  | nil => rfl
  | cons c rest =>
    obtain ⟨k, v⟩ := c
    simp only [memWfFrom, Bool.and_eq_true, decide_eq_true_eq] at w
    have h1 : ¬ k = a := by omega
    have h2 : k > a := by omega
    simp [memRead, h1, h2]

theorem memWfFrom_memWrite (d : Byte) (m : List Host.Cell) (lo a : Nat) (b : Byte) (h : lo ≤ a)
    (w : memWfFrom d lo m = true) : memWfFrom d lo (memWrite d m a b) = true := by
  induction m generalizing lo with
  | nil =>
    by_cases hb : b = d <;> simp [memWrite, memWfFrom, hb, h]
  | cons c rest ih =>
    obtain ⟨k, v⟩ := c
    simp only [memWfFrom, Bool.and_eq_true, decide_eq_true_eq, bne_iff_ne, ne_eq] at w
    obtain ⟨⟨hk, hv⟩, hr⟩ := w
    simp only [memWrite]
    split
    · simp [memWfFrom, hk, hv, ih (k + 1) (by omega) hr]
    · split
      · rename_i _ e
        subst e
        by_cases hb : b = d
        · simp [hb, memWfFrom_mono d rest (show lo ≤ k + 1 by omega) hr]
        · simp [hb, memWfFrom, h, hr]
      · rename_i h1 h2
        have h3 : a + 1 ≤ k := by omega
        by_cases hb : b = d
        · simp [hb, memWfFrom, hk, hv, hr]
        · simp [hb, memWfFrom, h, h3, hv, hr]

/-- A write keeps the canonical form. -/
theorem wf_memWrite (d : Byte) (m : List Host.Cell) (a : Nat) (b : Byte) (w : Memory.wf d m = true) :
    Memory.wf d (memWrite d m a b) = true := memWfFrom_memWrite d m 0 a b (Nat.zero_le a) w

/-- Writing bytes at rising addresses keeps the canonical form. -/
theorem wf_memWriteList (d : Byte) (bs : List Byte) (m : List Host.Cell) (a : Nat) (w : Memory.wf d m = true) :
    Memory.wf d (memWriteList d m a bs) = true := by
  induction bs generalizing m a with
  | nil => exact w
  | cons b bs ih => exact ih _ _ (wf_memWrite d m a b w)

theorem memWfFrom_filter (d : Byte) (f : Host.Cell → Bool) (m : List Host.Cell) (lo : Nat) (w : memWfFrom d lo m = true) :
    memWfFrom d lo (m.filter f) = true := by
  induction m generalizing lo with
  | nil => rfl
  | cons c rest ih =>
    obtain ⟨k, v⟩ := c
    simp only [memWfFrom, Bool.and_eq_true, decide_eq_true_eq] at w
    by_cases hf : f (k, v) = true
    · simp [List.filter_cons, hf, memWfFrom, w.1.1, ih (k + 1) w.2]
      simpa using w.1.2
    · simp [List.filter_cons, hf, memWfFrom_mono d _ (show lo ≤ k + 1 by omega) (ih (k + 1) w.2)]

/-- Dropping entries keeps the canonical form. -/
theorem wf_filter (d : Byte) (f : Host.Cell → Bool) (m : List Host.Cell) (w : Memory.wf d m = true) :
    Memory.wf d (m.filter f) = true := memWfFrom_filter d f m 0 w

/-- Returning addresses to their default keeps the canonical form. -/
theorem wf_memClear (d : Byte) (m : List Host.Cell) (a n : Nat) (w : Memory.wf d m = true) :
    Memory.wf d (memClear m a n) = true := wf_filter d _ m w

theorem memRead_memWriteFrom (d : Byte) (m : List Host.Cell) (lo a : Nat) (b : Byte) (x : Nat)
    (w : memWfFrom d lo m = true) : memRead d (memWrite d m a b) x = if x = a then b else memRead d m x := by
  induction m generalizing lo with
  | nil =>
    by_cases hb : b = d <;> by_cases hx : x = a
    · simp [memWrite, hb]
    · simp [memWrite, hb]
    · simp [memWrite, hb, memRead, hx]
    · have : ¬ a = x := fun e => hx e.symm
      simp [memWrite, hb, memRead, hx, this]
  | cons c rest ih =>
    obtain ⟨k, v⟩ := c
    simp only [memWfFrom, Bool.and_eq_true, decide_eq_true_eq, bne_iff_ne, ne_eq] at w
    obtain ⟨⟨hk, hv⟩, hr⟩ := w
    simp only [memWrite]
    split
    · rename_i h1
      simp only [memRead]
      by_cases h2 : k = x
      · have : ¬ x = a := by omega
        simp [h2, this]
      · by_cases h3 : k > x
        · have : ¬ x = a := by omega
          simp [h2, h3, this]
        · simp [h2, h3, ih (k + 1) hr]
    · split
      · rename_i _ e
        subst e
        by_cases hb : b = d
        · by_cases hx : x = k
          · subst hx
            simp [hb, memRead_below d rest hr (Nat.lt_succ_self x)]
          · by_cases h3 : k > x
            · have := memRead_below d rest hr (show x < k + 1 by omega)
              have h4 : ¬ k = x := fun e => hx e.symm
              simp [hb, hx, memRead, h3, h4, this]
            · have h4 : ¬ k = x := fun e => hx e.symm
              simp [hb, hx, memRead, h3, h4]
        · by_cases hx : x = k
          · simp [hb, hx, memRead]
          · have h4 : ¬ k = x := fun e => hx e.symm
            simp [hb, hx, memRead, h4]
      · rename_i h1 h2
        have h3 : k > a := by omega
        by_cases hb : b = d
        · by_cases hx : x = a
          · have h4 : ¬ k = a := h2
            simp [hb, hx, memRead, h4, h3]
          · simp [hb, hx]
        · by_cases hx : x = a
          · simp [hb, hx, memRead]
          · have h4 : ¬ a = x := fun e => hx e.symm
            by_cases h5 : a > x
            · have h6 : ¬ k = x := by omega
              have h7 : k > x := by omega
              simp [hb, hx, memRead, h4, h5, h6, h7]
            · simp [hb, hx, memRead, h4, h5]

/-- A read after a write: the byte written at its address, every other byte as before. -/
theorem memRead_memWrite (d : Byte) (m : List Host.Cell) (a : Nat) (b : Byte) (x : Nat) (w : Memory.wf d m = true) :
    memRead d (memWrite d m a b) x = if x = a then b else memRead d m x := memRead_memWriteFrom d m 0 a b x w

/-- Bytes outside those written at rising addresses read as before. -/
theorem memRead_memWriteList_outside (d : Byte) (bs : List Byte) (m : List Host.Cell) (a x : Nat)
    (w : Memory.wf d m = true) (h : x < a ∨ a + bs.length ≤ x) : memRead d (memWriteList d m a bs) x = memRead d m x := by
  induction bs generalizing m a with
  | nil => rfl
  | cons b bs ih =>
    simp only [List.length_cons] at h
    rw [memWriteList, ih _ _ (wf_memWrite d m a b w) (by omega), memRead_memWrite d m a b x w]
    have : ¬ x = a := by omega
    simp [this]

end Sys2Proof.Machine
end

