-- ==== Sys2Proof/Laws/Kept.lean ====
section
/-! SUPPORT. `Kept s t`: what every operation of the model leaves true from s to t, whatever it does. One lemma per operation, in
the Laws/Kept files, says that it keeps it; the invariants of every step follow from them. -/

namespace Sys2Proof.Machine
open Sys2Proof

/-- The queue is untouched; the memories stay canonical; the ledger stays balanced; the Lanes stay within 64 stages; no OTP bit
clears. -/
structure Kept (s t : State) : Prop where
  pending : t.pending = s.pending
  memory : MemoryOk s → MemoryOk t
  ledger : LedgerOk s → LedgerOk t
  lanes : LanesOk s → LanesOk t
  otp : OtpGrows s t

theorem Kept.refl (s : State) : Kept s s := ⟨rfl, id, id, id, fun _ _ h => h⟩

theorem Kept.trans {s t u : State} (a : Kept s t) (b : Kept t u) : Kept s u :=
  ⟨b.pending.trans a.pending, fun h => b.memory (a.memory h), fun h => b.ledger (a.ledger h), fun h => b.lanes (a.lanes h),
   fun i k h => b.otp i k (a.otp i k h)⟩

theorem otpGrows_of_eq {s t : State} (h : t.flash.otp = s.flash.otp) : OtpGrows s t := by
  intro i b w
  simpa [otpWord, h] using w

/-- A step that leaves the queue, the memories, the ledger, the ports and the OTP as they are. -/
theorem Kept.same {s x t : State} (h : Kept s x) (hq : t.pending = x.pending) (hs : t.sram = x.sram)
    (hf : t.flash.cells = x.flash.cells) (ho : t.flash.otp = x.flash.otp) (hm : t.dir.mem = x.dir.mem)
    (hl : t.ledger = x.ledger) (hp : t.plaza.ports = x.plaza.ports) : Kept s t := by
  refine h.trans ⟨hq, ?_, ?_, ?_, otpGrows_of_eq ho⟩
  · simp only [MemoryOk, hs, hf, hm]; exact id
  · simp only [LedgerOk, hl]; exact id
  · simp only [LanesOk, hp]; exact id

/-- A step that changes the ports, with Lanes that stay within their stages. -/
theorem Kept.relane {s x t : State} (h : Kept s x) (hl : LanesOk x → LanesOk t) (hq : t.pending = x.pending) (hs : t.sram = x.sram)
    (hf : t.flash.cells = x.flash.cells) (ho : t.flash.otp = x.flash.otp) (hm : t.dir.mem = x.dir.mem)
    (hg : t.ledger = x.ledger) : Kept s t := by
  refine h.trans ⟨hq, ?_, ?_, hl, otpGrows_of_eq ho⟩
  · simp only [MemoryOk, hs, hf, hm]; exact id
  · simp only [LedgerOk, hg]; exact id

/-- The same for a state written out as an update of x. -/
theorem Kept.upd {s x : State} {tm cm el pl ra ph rx lk rd di tr se co pe pa fl po ke up bg fr} (h : Kept s x)
    (hp : pl.ports = x.plaza.ports) (hf : fl.cells = x.flash.cells) (ho : fl.otp = x.flash.otp) (hm : di.mem = x.dir.mem) :
    Kept s (State.mk x.pending tm cm el pl ra ph rx lk rd di tr x.ledger se co pe pa fl po ke up bg x.sram fr) :=
  h.same rfl rfl hf ho hm rfl hp

/-- The state that a meaning answers. -/
theorem next_kept {s a t : State} (e : (Host.Outcome.next a : Host.Outcome State Fault Refusal) = .next t) (h : Kept s a) :
    Kept s t := by
  injection e with e
  exact e ▸ h

theorem Kept.ite {s a b : State} {c : Prop} [Decidable c] (ha : Kept s a) (hb : Kept s b) : Kept s (if c then a else b) := by
  split <;> assumption

theorem Kept.foldl {α : Type} {s : State} (f : State → α → State) (l : List α) (x : State)
    (h : Kept s x) (hf : ∀ t a, Kept s t → Kept s (f t a)) : Kept s (l.foldl f x) := by
  induction l generalizing x with
  | nil => exact h
  | cons a l ih => exact ih _ (hf _ _ h)

theorem Kept.foldl_fst {α β : Type} {s : State} (f : State × β → α → State × β) (l : List α) (x : State × β)
    (h : Kept s x.1) (hf : ∀ t a, Kept s t.1 → Kept s (f t a).1) : Kept s (l.foldl f x).1 := by
  induction l generalizing x with
  | nil => exact h
  | cons a l ih => exact ih _ (hf _ _ h)

theorem Kept.foldl_snd {α β : Type} {s : State} (f : β × State → α → β × State) (l : List α) (x : β × State)
    (h : Kept s x.2) (hf : ∀ t a, Kept s t.2 → Kept s (f t a).2) : Kept s (l.foldl f x).2 := by
  induction l generalizing x with
  | nil => exact h
  | cons a l ih => exact ih _ (hf _ _ h)

/-- A port replaced by one whose Lanes hold what they held. -/
theorem Kept.setPort {s x : State} {p : PortId} {q : Port} (h : Kept s x)
    (hq : LanesOk x → ∀ i : Fin 5, (q.lanes[i]).stages.length ≤ 64) : Kept s (x.setPort p q) := by
  refine h.trans ⟨rfl, id, id, ?_, fun _ _ h => h⟩
  intro hl k i
  by_cases e : (portIdx p) = k
  · subst e
    simpa [State.setPort] using hq hl i
  · have : (portIdx p : Nat) ≠ k := fun c => e (Fin.ext c)
    have := hl k i
    simpa [State.setPort, Vector.getElem_set, *] using this

theorem Kept.setPortSame {s x : State} {p : PortId} {q : Port} (h : Kept s x) (hq : q.lanes = (x.port p).lanes) :
    Kept s (x.setPort p q) :=
  h.setPort fun hl i => by rw [hq]; exact hl (portIdx p) i

end Sys2Proof.Machine
end

