-- ==== Sys2Proof/Laws/KeptOps.lean ====
section
/-! SUPPORT. Every operation of Machine/Ops.lean keeps what `Kept` says. -/

namespace Sys2Proof.Machine
open Sys2Proof

/-- A Lane that its stalled words fill holds at most 64 words (R75, R77). -/
theorem fillLane_stages (ws : List (Word × Option (BitVec 6))) (l : Lane) (h : l.stages.length ≤ 64) :
    (fillLane ws l).1.stages.length ≤ 64 := by
  induction ws generalizing l with
  | nil => exact h
  | cons w ws ih =>
    obtain ⟨w, t⟩ := w
    simp only [fillLane]
    split
    · apply ih
      simp only [List.length_append, List.length_singleton]
      omega
    · exact h

/-- A Lane at a port with one Lane replaced. -/
theorem lanes_set {v : Vector Lane 5} {i : Fin 5} {l : Lane} (hv : ∀ k : Fin 5, (v[k]).stages.length ≤ 64)
    (h : l.stages.length ≤ 64) (k : Fin 5) : ((v.set i l)[k]).stages.length ≤ 64 := by
  by_cases e : i = k
  · subst e
    simpa using h
  · have : (i : Nat) ≠ k := fun c => e (Fin.ext c)
    have := hv k
    simpa [Vector.getElem_set, *] using this

theorem port_lanes {x : State} (h : LanesOk x) (p : PortId) (k : Fin 5) : (((x.port p).lanes)[k]).stages.length ≤ 64 :=
  h (portIdx p) k

@[simp] theorem setPort_port (x : State) (p : PortId) (q : Port) : (x.setPort p q).port p = q := by
  simp [State.port, State.setPort]

theorem drawWord_kept {s : State} (x : State) (h : Kept s x) :
    Kept s (drawWord x).2 := by
  unfold drawWord
  try dsimp only
  with_reducible repeat' first | assumption | fail_if_no_progress refine Kept.upd ?_ rfl rfl rfl rfl


theorem drawWords_kept {s : State} (n : Nat) (x : State) (h : Kept s x) : Kept s (drawWords n x).2 := by
  induction n generalizing x with
  | zero => exact h
  | succ n ih => exact ih _ (drawWord_kept x h)

theorem drawBool_kept {s : State} (x : State) (h : Kept s x) :
    Kept s (drawBool x).2 := by
  unfold drawBool
  try dsimp only
  with_reducible repeat' first | assumption | fail_if_no_progress refine Kept.upd ?_ rfl rfl rfl rfl


theorem drbgWords_kept {s : State} (n : ℕ) (x : State) (h : Kept s x) :
    Kept s (drbgWords n x).2 := by
  unfold drbgWords
  try dsimp only
  with_reducible repeat' first
    | assumption | rfl | apply drawWords_kept | split | refine Kept.setPortSame ?_ rfl
    | fail_if_no_progress refine Kept.upd ?_ rfl rfl rfl rfl | apply Kept.foldl | apply Kept.foldl_fst
    | apply Kept.foldl_snd | apply Kept.ite | intro _



theorem settleHold_kept {s : State} (x : State) (h : Kept s x) : Kept s (settleHold x) := by
  unfold settleHold
  split
  · rename_i w _
    dsimp only
    split
    · have h1 : Kept s (x.setPort .mbx { x.port .mbx with cmd := (x.port .mbx).cmd.accept false (plazaRoom .mbx x) w }) := h.setPortSame rfl
      exact h1.same rfl rfl rfl rfl rfl rfl rfl
    · exact h
  · exact h

theorem beginPort_kept {s : State} (p : PortId) (x : State) (h : Kept s x) :
    Kept s (beginPort p x) := by
  unfold beginPort
  try dsimp only
  with_reducible repeat' first
    | assumption | rfl | split | refine Kept.setPortSame ?_ rfl
    | fail_if_no_progress refine Kept.upd ?_ rfl rfl rfl rfl | apply Kept.foldl | apply Kept.foldl_fst
    | apply Kept.foldl_snd | apply Kept.ite | intro _


theorem beginPorts_kept {s : State} (x : State) (h : Kept s x) :
    Kept s (beginPorts x) := by
  unfold beginPorts
  try dsimp only
  with_reducible repeat' first
    | assumption | rfl | apply settleHold_kept | apply beginPort_kept | split | refine Kept.setPortSame ?_ rfl
    | fail_if_no_progress refine Kept.upd ?_ rfl rfl rfl rfl | apply Kept.foldl | apply Kept.foldl_fst
    | apply Kept.foldl_snd | apply Kept.ite | intro _


theorem stampReset_kept {s : State} (p : PortId) (l : Lane) (x : State) (h : Kept s x) :
    Kept s (stampReset p l x) := by
  unfold stampReset
  try dsimp only
  with_reducible repeat' first
    | assumption | rfl | split | refine Kept.setPortSame ?_ rfl
    | fail_if_no_progress refine Kept.upd ?_ rfl rfl rfl rfl | apply Kept.foldl | apply Kept.foldl_fst
    | apply Kept.foldl_snd | apply Kept.ite | intro _


theorem settleLane_kept {s : State} (p : PortId) (i : Fin 5) (x : State) (h : Kept s x) :
    Kept s (settleLane p i x) := by
  have h1 : Kept s (x.setPort p { x.port p with
      lanes := (x.port p).lanes.set i (fillLane (x.port p).lanes[i].waiting (x.port p).lanes[i]).1,
      tags := (x.port p).tags.filter fun t =>
        !((fillLane (x.port p).lanes[i].waiting (x.port p).lanes[i]).2.1.contains t) }) :=
    h.setPort fun hl k => lanes_set (port_lanes hl p) (fillLane_stages _ _ (port_lanes hl p i)) k
  have h2 : Kept s (if p = .mbx then { (x.setPort p { x.port p with
      lanes := (x.port p).lanes.set i (fillLane (x.port p).lanes[i].waiting (x.port p).lanes[i]).1,
      tags := (x.port p).tags.filter fun t =>
        !((fillLane (x.port p).lanes[i].waiting (x.port p).lanes[i]).2.1.contains t) }) with
      plaza.mbxIntstat := mbxNotice i.val (fillLane (x.port p).lanes[i].waiting (x.port p).lanes[i]).2.2
        (x.port p).lanes[i].stages.length (fillLane (x.port p).lanes[i].waiting (x.port p).lanes[i]).1 (x.setPort p { x.port p with
      lanes := (x.port p).lanes.set i (fillLane (x.port p).lanes[i].waiting (x.port p).lanes[i]).1,
      tags := (x.port p).tags.filter fun t =>
        !((fillLane (x.port p).lanes[i].waiting (x.port p).lanes[i]).2.1.contains t) }).plaza.mbxIntstat } else (x.setPort p { x.port p with
      lanes := (x.port p).lanes.set i (fillLane (x.port p).lanes[i].waiting (x.port p).lanes[i]).1,
      tags := (x.port p).tags.filter fun t =>
        !((fillLane (x.port p).lanes[i].waiting (x.port p).lanes[i]).2.1.contains t) })) := by
    split
    · exact h1.same rfl rfl rfl rfl rfl rfl rfl
    · exact h1
  unfold settleLane
  dsimp only
  generalize (if p = .mbx then _ else _ : State) = y at h2 ⊢
  have h3 : Kept s (if i.val = 0 then stampReset p (fillLane (x.port p).lanes[i].waiting (x.port p).lanes[i]).1 y else y) := by
    split
    · exact stampReset_kept _ _ _ h2
    · exact h2
  generalize (if i.val = 0 then _ else y : State) = z at h3 ⊢
  split
  · exact h3
  · exact beginPorts_kept _ h3

theorem produce_kept {s : State} (p : PortId) (i : Fin 5) (ws : List (Word × Option (BitVec 6))) (x : State) (h : Kept s x) :
    Kept s (produce p i ws x) :=
  settleLane_kept p i _ (h.setPort fun hl k => by
    have := lanes_set (i := i) (l := { (x.port p).lanes[i] with waiting := (x.port p).lanes[i].waiting ++ ws }) (port_lanes hl p)
      (port_lanes hl p i) k
    exact this)

theorem placeLost_kept {s : State} (p : PortId) (x : State) (h : Kept s x) : Kept s (placeLost p x) := by
  unfold placeLost
  dsimp only
  repeat' split
  · exact produce_kept _ _ _ _ (h.setPortSame rfl)
  · exact h.setPortSame rfl
  · exact h

theorem placeEvent_kept {s : State} (p : PortId) (pkt : List Word) (due : Bool) (x : State) (h : Kept s x) :
    Kept s (placeEvent p pkt due x) := by
  unfold placeEvent
  try dsimp only
  with_reducible repeat' first | assumption | apply produce_kept | split | refine Kept.setPortSame ?_ rfl


theorem raiseOn_kept {s : State} (p : PortId) (code : ℕ) (body : List Word) (x : State) (h : Kept s x) :
    Kept s (raiseOn p code body x) := by
  unfold raiseOn
  try dsimp only
  with_reducible repeat' first | assumption | apply placeEvent_kept | split


theorem raise_kept {s : State} (code : ℕ) (body : List Word) (x : State) (h : Kept s x) :
    Kept s (raise code body x) := by
  unfold raise
  try dsimp only
  with_reducible repeat' first
    | assumption | rfl | apply raiseOn_kept | split | refine Kept.setPortSame ?_ rfl
    | fail_if_no_progress refine Kept.upd ?_ rfl rfl rfl rfl | apply Kept.foldl | apply Kept.foldl_fst
    | apply Kept.foldl_snd | apply Kept.ite | intro _


theorem raiseAll_kept {s : State} (code : ℕ) (body : List Word) (x : State) (h : Kept s x) :
    Kept s (raiseAll code body x) := by
  unfold raiseAll
  try dsimp only
  with_reducible repeat' first | assumption | apply placeEvent_kept | split


theorem finish_kept {s : State} (c : Cmd) (st : Status) (res : List Word) (x : State) (h : Kept s x) :
    Kept s (finish c st res x) := by
  unfold finish
  try dsimp only
  with_reducible repeat' first | assumption | apply produce_kept


theorem segment_kept {s : State} (c : Cmd) (res : List Word) (x : State) (h : Kept s x) :
    Kept s (segment c res x) := by
  unfold segment
  try dsimp only
  with_reducible repeat' first | assumption | apply produce_kept


theorem refuseUnseen_kept {s : State} (p : PortId) (code : ℕ) (tag : BitVec 6) (st : Status) (clash : Bool) (x : State) (h : Kept s x) :
    Kept s (refuseUnseen p code tag st clash x) := by
  unfold refuseUnseen
  try dsimp only
  with_reducible repeat' first | assumption | apply produce_kept


theorem takeHandle_kept {s : State} (p : PortId) (x : State) (h : Kept s x) :
    Kept s (takeHandle p x).2 := by
  unfold takeHandle
  try dsimp only
  with_reducible repeat' first | assumption | refine Kept.setPortSame ?_ rfl


theorem respondAccepted_kept {s : State} (c : Cmd) (h0 : BitVec 16) (x : State) (h : Kept s x) :
    Kept s (respondAccepted c h0 x) := by
  unfold respondAccepted
  try dsimp only
  with_reducible repeat' first | assumption | apply finish_kept


theorem completeEvent_kept {s : State} (p : PortId) (code : ℕ) (h0 : BitVec 16) (body : List Word) (x : State) (h : Kept s x) :
    Kept s (completeEvent p code h0 body x) := by
  unfold completeEvent
  try dsimp only
  with_reducible repeat' first
    | assumption | rfl | apply placeLost_kept | apply placeEvent_kept | split | refine Kept.setPortSame ?_ rfl
    | fail_if_no_progress refine Kept.upd ?_ rfl rfl rfl rfl | apply Kept.foldl | apply Kept.foldl_fst
    | apply Kept.foldl_snd | apply Kept.ite | intro _


theorem arrive_kept {s : State} (cls code : Nat) (p : Packet) (x : State) (r t) (e : arrive cls code p x = some (t, r)) (h : Kept s x) :
    Kept s t := by
  unfold arrive at e
  dsimp only at e
  repeat' split at e
  all_goals first
    | (cases e; done)
    | skip
  all_goals cases e
  · exact h.same rfl rfl rfl rfl rfl rfl rfl
  · refine settleHold_kept _ (Kept.same (x := x.setPort p.port _) (h.setPortSame ?_) rfl rfl rfl rfl rfl rfl rfl)
    rfl

theorem refuseCrc_kept {s : State} (p : Packet) (code : ℕ) (x : State) (h : Kept s x) :
    Kept s (refuseCrc p code x) := by
  unfold refuseCrc
  try dsimp only
  with_reducible repeat' first | assumption | apply refuseUnseen_kept | refine Kept.setPortSame ?_ rfl


theorem markOutstanding_kept {s : State} (p : Packet) (x : State) (h : Kept s x) :
    Kept s (markOutstanding p x) := by
  unfold markOutstanding
  try dsimp only
  with_reducible repeat' first | assumption | refine Kept.setPortSame ?_ rfl


theorem plazaRun_kept {s : State} (code : Nat) (lenOk : List Word → Bool) (owner : Cmd → State → State) (p : Packet) (x : State)
    (ho : ∀ c y, Kept s y → Kept s (owner c y)) (h : Kept s x) : Kept s (plazaRun code lenOk owner p x) := by
  unfold plazaRun
  split
  · exact h
  · split
    · exact h
    · have h1 := arrive_kept _ _ _ _ _ _ ‹_› h
      dsimp only
      split
      · exact refuseCrc_kept _ _ _ h1
      · split
        · exact refuseUnseen_kept _ _ _ _ _ _ h1
        · split
          · exact refuseUnseen_kept _ _ _ _ _ _ h1
          · split
            · exact finish_kept _ _ _ _ (markOutstanding_kept _ _ h1)
            · exact ho _ _ (markOutstanding_kept _ _ h1)

theorem immediate_kept {s : State} (f : Cmd → State → Except Status (List Word × State)) (c : Cmd) (x : State)
    (hf : ∀ c y r t, f c y = .ok (r, t) → Kept s y → Kept s t) (h : Kept s x) : Kept s (immediate f c x) := by
  unfold immediate
  split
  · exact finish_kept _ _ _ _ h
  · exact finish_kept _ _ _ _ (hf _ _ _ _ ‹_› h)

theorem pkaPut_kept {s : State} (c : Cmd) (j : PkaJob) (x : State) (h : Kept s x) :
    Kept s (pkaPut c j x) := by
  unfold pkaPut
  try dsimp only
  with_reducible repeat' first
    | assumption | rfl | split | refine Kept.setPortSame ?_ rfl
    | fail_if_no_progress refine Kept.upd ?_ rfl rfl rfl rfl | apply Kept.foldl | apply Kept.foldl_fst
    | apply Kept.foldl_snd | apply Kept.ite | intro _


theorem pkaFirst_kept {s : State} (r0 : PkaReq) (x : State) (h : Kept s x) :
    Kept s (pkaFirst r0 x) := by
  unfold pkaFirst
  try dsimp only
  with_reducible repeat' first
    | assumption | rfl | split | refine Kept.setPortSame ?_ rfl
    | fail_if_no_progress refine Kept.upd ?_ rfl rfl rfl rfl | apply Kept.foldl | apply Kept.foldl_fst
    | apply Kept.foldl_snd | apply Kept.ite | intro _


theorem pkaOwn_kept {s : State} (j : PkaJob) (n : ℕ) (x : State) (h : Kept s x) :
    Kept s (pkaOwn j n x) := by
  unfold pkaOwn
  try dsimp only
  with_reducible repeat' first
    | assumption | rfl | apply pkaFirst_kept | split | refine Kept.setPortSame ?_ rfl
    | fail_if_no_progress refine Kept.upd ?_ rfl rfl rfl rfl | apply Kept.foldl | apply Kept.foldl_fst
    | apply Kept.foldl_snd | apply Kept.ite | intro _


theorem pkaCommand_kept {s : State} (c : Cmd) (x : State) (h : Kept s x) :
    Kept s (pkaCommand c x) := by
  unfold pkaCommand
  try dsimp only
  with_reducible repeat' first
    | assumption | rfl | apply pkaPut_kept | split | refine Kept.setPortSame ?_ rfl
    | fail_if_no_progress refine Kept.upd ?_ rfl rfl rfl rfl | apply Kept.foldl | apply Kept.foldl_fst
    | apply Kept.foldl_snd | apply Kept.ite | intro _


end Sys2Proof.Machine
end

