-- ==== Sys2Proof/Laws/KeptTime.lean ====
section
/-! SUPPORT. Every operation of Machine/Time.lean keeps what `Kept` says. -/

namespace Sys2Proof.Machine
open Sys2Proof


theorem ntcIrq_kept {s : State} (bit : ℕ) (x : State) (h : Kept s x) :
    Kept s (ntcIrq bit x) := by
  unfold ntcIrq
  try dsimp only
  with_reducible repeat' first | assumption | fail_if_no_progress refine Kept.upd ?_ rfl rfl rfl rfl


theorem captureAt_kept {s : State} (u : Fin 4) (v : DWord) (x : State) (h : Kept s x) :
    Kept s (captureAt u v x) := by
  unfold captureAt
  try dsimp only
  with_reducible repeat' first | assumption | apply ntcIrq_kept | fail_if_no_progress refine Kept.upd ?_ rfl rfl rfl rfl


theorem captureNow_kept {s : State} (u : Fin 4) (x : State) (h : Kept s x) :
    Kept s (captureNow u x) := by
  unfold captureNow
  try dsimp only
  with_reducible repeat' first | assumption | apply captureAt_kept


theorem captureFrom_kept {s : State} (selects : Word → Bool) (x : State) (h : Kept s x) :
    Kept s (captureFrom selects x) := by
  unfold captureFrom
  try dsimp only
  with_reducible repeat' first | assumption | apply captureNow_kept | split


theorem tickClocks_kept {s : State} (x : State) (h : Kept s x) :
    Kept s (tickClocks x) := by
  unfold tickClocks
  try dsimp only
  with_reducible repeat' first
    | assumption | rfl | split | refine Kept.setPortSame ?_ rfl
    | fail_if_no_progress refine Kept.upd ?_ rfl rfl rfl rfl | apply Kept.foldl | apply Kept.foldl_fst
    | apply Kept.foldl_snd | apply Kept.ite | intro _


theorem diagTrace_kept {s : State} (p : PortId) (x : State) (h : Kept s x) :
    Kept s (diagTrace p x) := by
  unfold diagTrace
  try dsimp only
  with_reducible repeat' first
    | assumption | rfl | apply produce_kept | split | refine Kept.setPortSame ?_ rfl
    | fail_if_no_progress refine Kept.upd ?_ rfl rfl rfl rfl | apply Kept.foldl | apply Kept.foldl_fst
    | apply Kept.foldl_snd | apply Kept.ite | intro _


theorem tick_kept {s : State} (x : State) (h : Kept s x) :
    Kept s (tick x) := by
  unfold tick
  try dsimp only
  with_reducible repeat' first
    | assumption | rfl | apply diagTrace_kept | apply tickClocks_kept | split | refine Kept.setPortSame ?_ rfl
    | fail_if_no_progress refine Kept.upd ?_ rfl rfl rfl rfl | apply Kept.foldl | apply Kept.foldl_fst
    | apply Kept.foldl_snd | apply Kept.ite | intro _


theorem jumpNt_kept {s : State} (off : DWord) (x : State) (h : Kept s x) :
    Kept s (jumpNt off x) := by
  unfold jumpNt
  try dsimp only
  with_reducible repeat' first
    | assumption | rfl | split | refine Kept.setPortSame ?_ rfl
    | fail_if_no_progress refine Kept.upd ?_ rfl rfl rfl rfl | apply Kept.foldl | apply Kept.foldl_fst
    | apply Kept.foldl_snd | apply Kept.ite | intro _


theorem tempTrigger_kept {s : State} (x : State) (h : Kept s x) :
    Kept s (tempTrigger x) := by
  unfold tempTrigger
  try dsimp only
  with_reducible repeat' first
    | assumption | rfl | split | refine Kept.setPortSame ?_ rfl
    | fail_if_no_progress refine Kept.upd ?_ rfl rfl rfl rfl | apply Kept.foldl | apply Kept.foldl_fst
    | apply Kept.foldl_snd | apply Kept.ite | intro _


theorem sampleTemp_kept {s : State} (tenths : ℤ) (o : Sensors) (x : State) (h : Kept s x) :
    Kept s (sampleTemp tenths o x) := by
  unfold sampleTemp
  try dsimp only
  with_reducible repeat' first
    | assumption | rfl | apply tempTrigger_kept | split | refine Kept.setPortSame ?_ rfl
    | fail_if_no_progress refine Kept.upd ?_ rfl rfl rfl rfl | apply Kept.foldl | apply Kept.foldl_fst
    | apply Kept.foldl_snd | apply Kept.ite | intro _


theorem setPps_kept {s : State} (st : PpsState) (x : State) (h : Kept s x) :
    Kept s (setPps st x) := by
  unfold setPps
  try dsimp only
  with_reducible repeat' first
    | assumption | apply ntcIrq_kept | split | fail_if_no_progress refine Kept.upd ?_ rfl rfl rfl rfl


theorem judgeEdge_kept {s : State} (e0 : ℤ) (c : DWord) (x : State) (h : Kept s x) :
    Kept s (judgeEdge e0 c x) := by
  unfold judgeEdge
  try dsimp only
  with_reducible repeat' first
    | assumption | apply setPps_kept | apply raise_kept | split
    | fail_if_no_progress refine Kept.upd ?_ rfl rfl rfl rfl


theorem loadAtEdge_kept {s : State} (x : State) (h : Kept s x) :
    Kept s (loadAtEdge x) := by
  unfold loadAtEdge
  try dsimp only
  with_reducible repeat' first
    | assumption | apply finish_kept | split | fail_if_no_progress refine Kept.upd ?_ rfl rfl rfl rfl


theorem ppsEdge_kept {s : State} (rising : Bool) (lfCycles : ℕ) (x : State) (h : Kept s x) :
    Kept s (ppsEdge rising lfCycles x) := by
  unfold ppsEdge
  try dsimp only
  with_reducible repeat' first
    | assumption | rfl | apply loadAtEdge_kept | apply captureAt_kept | apply judgeEdge_kept | split
    | refine Kept.setPortSame ?_ rfl | fail_if_no_progress refine Kept.upd ?_ rfl rfl rfl rfl | apply Kept.foldl
    | apply Kept.foldl_fst | apply Kept.foldl_snd | apply Kept.ite | intro _


theorem execPpsEdge_kept {s : State} (rising : Bool) (lfCycles : ℕ) (x : State) (t : State) (e : execPpsEdge rising lfCycles x = .next t) (h : Kept s x) : Kept s t :=
  next_kept e (ppsEdge_kept _ _ _ h)

theorem ppsLost_kept {s : State} (x : State) (h : Kept s x) :
    Kept s (ppsLost x) := by
  unfold ppsLost
  try dsimp only
  with_reducible repeat' first
    | assumption | apply raise_kept | apply setPps_kept | split
    | fail_if_no_progress refine Kept.upd ?_ rfl rfl rfl rfl


theorem execPpsLost_kept {s : State} (x : State) (t : State) (e : execPpsLost x = .next t) (h : Kept s x) : Kept s t :=
  next_kept e (ppsLost_kept _ h)

theorem ntSetExpired_kept {s : State} (x : State) (h : Kept s x) :
    Kept s (ntSetExpired x) := by
  unfold ntSetExpired
  try dsimp only
  with_reducible repeat' first
    | assumption | rfl | apply finish_kept | split | refine Kept.setPortSame ?_ rfl
    | fail_if_no_progress refine Kept.upd ?_ rfl rfl rfl rfl | apply Kept.foldl | apply Kept.foldl_fst
    | apply Kept.foldl_snd | apply Kept.ite | intro _


theorem execNtSetExpired_kept {s : State} (x : State) (t : State) (e : execNtSetExpired x = .next t) (h : Kept s x) : Kept s t :=
  next_kept e (ntSetExpired_kept _ h)

theorem ppsOutRise_kept {s : State} (x : State) (h : Kept s x) :
    Kept s (ppsOutRise x) := by
  unfold ppsOutRise
  try dsimp only
  with_reducible repeat' first
    | assumption | rfl | split | refine Kept.setPortSame ?_ rfl
    | fail_if_no_progress refine Kept.upd ?_ rfl rfl rfl rfl | apply Kept.foldl | apply Kept.foldl_fst
    | apply Kept.foldl_snd | apply Kept.ite | intro _


theorem execPpsOutRise_kept {s : State} (x : State) (t : State) (e : execPpsOutRise x = .next t) (h : Kept s x) : Kept s t :=
  next_kept e (ppsOutRise_kept _ h)

theorem ppsOutFall_kept {s : State} (x : State) (h : Kept s x) :
    Kept s (ppsOutFall x) := by
  unfold ppsOutFall
  try dsimp only
  with_reducible repeat' first | assumption | split | fail_if_no_progress refine Kept.upd ?_ rfl rfl rfl rfl


theorem execPpsOutFall_kept {s : State} (x : State) (t : State) (e : execPpsOutFall x = .next t) (h : Kept s x) : Kept s t :=
  next_kept e (ppsOutFall_kept _ h)

theorem ntSlewComplete_kept {s : State} (x : State) (h : Kept s x) :
    Kept s (ntSlewComplete x) := by
  unfold ntSlewComplete
  try dsimp only
  with_reducible repeat' first | assumption | split | fail_if_no_progress refine Kept.upd ?_ rfl rfl rfl rfl


theorem execNtSlewComplete_kept {s : State} (x : State) (t : State) (e : execNtSlewComplete x = .next t) (h : Kept s x) : Kept s t :=
  next_kept e (ntSlewComplete_kept _ h)

theorem toLfxo_kept {s : State} (x : State) (h : Kept s x) :
    Kept s (toLfxo x) := by
  unfold toLfxo
  try dsimp only
  with_reducible repeat' first | assumption | fail_if_no_progress refine Kept.upd ?_ rfl rfl rfl rfl


theorem ntToHfxo_kept {s : State} (x : State) (h : Kept s x) :
    Kept s (ntToHfxo x) := by
  unfold ntToHfxo
  try dsimp only
  with_reducible repeat' first
    | assumption | rfl | split | refine Kept.setPortSame ?_ rfl
    | fail_if_no_progress refine Kept.upd ?_ rfl rfl rfl rfl | apply Kept.foldl | apply Kept.foldl_fst
    | apply Kept.foldl_snd | apply Kept.ite | intro _


theorem execNtToHfxo_kept {s : State} (x : State) (t : State) (e : execNtToHfxo x = .next t) (h : Kept s x) : Kept s t :=
  next_kept e (ntToHfxo_kept _ h)

theorem wakeDriftSample_kept {s : State} (sv : ℤ) (x : State) (h : Kept s x) :
    Kept s (wakeDriftSample sv x) := by
  unfold wakeDriftSample
  try dsimp only
  with_reducible repeat' first
    | assumption | rfl | split | refine Kept.setPortSame ?_ rfl
    | fail_if_no_progress refine Kept.upd ?_ rfl rfl rfl rfl | apply Kept.foldl | apply Kept.foldl_fst
    | apply Kept.foldl_snd | apply Kept.ite | intro _


theorem execWakeDriftSample_kept {s : State} (sv : ℤ) (x : State) (t : State) (e : execWakeDriftSample sv x = .next t) (h : Kept s x) : Kept s t :=
  next_kept e (wakeDriftSample_kept _ _ h)

theorem ntSetRun_kept {s : State} (c : Cmd) (x : State) (h : Kept s x) :
    Kept s (ntSetRun c x) := by
  unfold ntSetRun
  try dsimp only
  with_reducible repeat' first
    | assumption | rfl | apply finish_kept | split | refine Kept.setPortSame ?_ rfl
    | fail_if_no_progress refine Kept.upd ?_ rfl rfl rfl rfl | apply Kept.foldl | apply Kept.foldl_fst
    | apply Kept.foldl_snd | apply Kept.ite | intro _


theorem execNtSet_kept {s : State} (p : Packet) (x : State) (t : State) (e : execNtSet p x = .next t) (h : Kept s x) : Kept s t :=
  next_kept e (plazaRun_kept _ _ _ _ _ ntSetRun_kept h)

theorem ntCaptureRun_kept {s : State} (c : Cmd) (x : State) (r t) (e : ntCaptureRun c x = .ok (r, t)) (h : Kept s x) :
    Kept s t := by
  unfold ntCaptureRun at e
  try dsimp only at e
  all_goals first
    | (cases e; done)
    | (injection e with e; have e := congrArg Prod.snd e; dsimp only at e; subst e)
  all_goals
   with_reducible repeat' first | assumption


theorem execNtCapture_kept {s : State} (p : Packet) (x : State) (t : State) (e : execNtCapture p x = .next t) (h : Kept s x) : Kept s t :=
  next_kept e (plazaRun_kept _ _ _ _ _ (fun c y => immediate_kept _ c y ntCaptureRun_kept) h)

theorem ppsRestate_kept {s : State} (x : State) (h : Kept s x) :
    Kept s (ppsRestate x) := by
  unfold ppsRestate
  try dsimp only
  with_reducible repeat' first
    | assumption | rfl | apply setPps_kept | split | refine Kept.setPortSame ?_ rfl
    | fail_if_no_progress refine Kept.upd ?_ rfl rfl rfl rfl | apply Kept.foldl | apply Kept.foldl_fst
    | apply Kept.foldl_snd | apply Kept.ite | intro _


theorem ppsConfigRun_kept {s : State} (c : Cmd) (x : State) (r t) (e : ppsConfigRun c x = .ok (r, t)) (h : Kept s x) :
    Kept s t := by
  unfold ppsConfigRun at e
  try dsimp only at e
  repeat' split at e
  all_goals first
    | (cases e; done)
    | (injection e with e; have e := congrArg Prod.snd e; dsimp only at e; subst e)
  all_goals
   with_reducible repeat' first | assumption | apply ppsRestate_kept | fail_if_no_progress refine Kept.upd ?_ rfl rfl rfl rfl


theorem execPpsConfig_kept {s : State} (p : Packet) (x : State) (t : State) (e : execPpsConfig p x = .next t) (h : Kept s x) : Kept s t :=
  next_kept e (plazaRun_kept _ _ _ _ _ (fun c y => immediate_kept _ c y ppsConfigRun_kept) h)

theorem ppsStatusRun_kept {s : State} (c : Cmd) (x : State) (r t) (e : ppsStatusRun c x = .ok (r, t)) (h : Kept s x) :
    Kept s t := by
  unfold ppsStatusRun at e
  try dsimp only at e
  all_goals first
    | (cases e; done)
    | (injection e with e; have e := congrArg Prod.snd e; dsimp only at e; subst e)
  all_goals
   with_reducible repeat' first | assumption


theorem execPpsStatus_kept {s : State} (p : Packet) (x : State) (t : State) (e : execPpsStatus p x = .next t) (h : Kept s x) : Kept s t :=
  next_kept e (plazaRun_kept _ _ _ _ _ (fun c y => immediate_kept _ c y ppsStatusRun_kept) h)

theorem ntSlewRun_kept {s : State} (c : Cmd) (x : State) (r t) (e : ntSlewRun c x = .ok (r, t)) (h : Kept s x) :
    Kept s t := by
  unfold ntSlewRun at e
  try dsimp only at e
  repeat' split at e
  all_goals first
    | (cases e; done)
    | (injection e with e; have e := congrArg Prod.snd e; dsimp only at e; subst e)
  all_goals
   with_reducible repeat' first | assumption | fail_if_no_progress refine Kept.upd ?_ rfl rfl rfl rfl


theorem execNtSlew_kept {s : State} (p : Packet) (x : State) (t : State) (e : execNtSlew p x = .next t) (h : Kept s x) : Kept s t :=
  next_kept e (plazaRun_kept _ _ _ _ _ (fun c y => immediate_kept _ c y ntSlewRun_kept) h)

theorem ntJumpRun_kept {s : State} (c : Cmd) (x : State) (h : Kept s x) :
    Kept s (ntJumpRun c x) := by
  unfold ntJumpRun
  try dsimp only
  with_reducible repeat' first | assumption | apply finish_kept | apply jumpNt_kept | apply raise_kept | split


theorem execNtJump_kept {s : State} (p : Packet) (x : State) (t : State) (e : execNtJump p x = .next t) (h : Kept s x) : Kept s t :=
  next_kept e (plazaRun_kept _ _ _ _ _ ntJumpRun_kept h)

end Sys2Proof.Machine
end

