-- ==== Sys2Proof/Laws/KeptPeriph.lean ====
section
/-! SUPPORT. Every operation of Machine/Periph.lean keeps what `Kept` says. -/

namespace Sys2Proof.Machine
open Sys2Proof

/-- An action of a marker (R47). -/
theorem markerAct_kept {s : State} (sel ok : Bool) (f : State → State) (x : State × Bool)
    (hf : ∀ y, Kept s y → Kept s (f y)) (h : Kept s x.1) : Kept s (markerAct sel ok f x).1 := by
  unfold markerAct
  repeat' split
  · exact hf _ h
  · exact h
  · exact h

theorem dmaEvent_kept {s : State} (ch : Fin 16) (x : State) (h : Kept s x) :
    Kept s (dmaEvent ch x) := by
  unfold dmaEvent
  try dsimp only
  with_reducible repeat' first
    | assumption | rfl | split | refine Kept.setPortSame ?_ rfl
    | fail_if_no_progress refine Kept.upd ?_ rfl rfl rfl rfl | apply Kept.foldl | apply Kept.foldl_fst
    | apply Kept.foldl_snd | apply Kept.ite | intro _


theorem dmaNamed_kept {s : State} (ch : Fin 16) (x : State) (h : Kept s x) :
    Kept s (dmaNamed ch x) := by
  unfold dmaNamed
  try dsimp only
  with_reducible repeat' first
    | assumption | rfl | apply dmaEvent_kept | split | refine Kept.setPortSame ?_ rfl
    | fail_if_no_progress refine Kept.upd ?_ rfl rfl rfl rfl | apply Kept.foldl | apply Kept.foldl_fst
    | apply Kept.foldl_snd | apply Kept.ite | intro _


theorem adcTrigger_kept {s : State} (x : State) (h : Kept s x) :
    Kept s (adcTrigger x) := by
  unfold adcTrigger
  try dsimp only
  with_reducible repeat' first | assumption | split | fail_if_no_progress refine Kept.upd ?_ rfl rfl rfl rfl


theorem kerbTrigger_kept {s : State} (x : State) (h : Kept s x) :
    Kept s (kerbTrigger x) := by
  unfold kerbTrigger
  try dsimp only
  with_reducible repeat' first | assumption | split | fail_if_no_progress refine Kept.upd ?_ rfl rfl rfl rfl


theorem btTrigger_kept {s : State} (t0 : ℕ) (x : State) (h : Kept s x) :
    Kept s (btTrigger t0 x) := by
  unfold btTrigger
  try dsimp only
  with_reducible repeat' first | assumption | fail_if_no_progress refine Kept.upd ?_ rfl rfl rfl rfl


theorem tinTick_kept {s : State} (i : ℕ) (x : State) (h : Kept s x) :
    Kept s (tinTick i x) := by
  unfold tinTick
  try dsimp only
  with_reducible repeat' first | assumption | fail_if_no_progress refine Kept.upd ?_ rfl rfl rfl rfl


theorem btEnd_kept {s : State} (n : Fin 8) (x : State) (h : Kept s x) :
    Kept s (btEnd n x) := by
  unfold btEnd
  try dsimp only
  with_reducible repeat' first
    | assumption | rfl | apply adcTrigger_kept | apply dmaNamed_kept | apply btTrigger_kept | apply captureFrom_kept
    | split | refine Kept.setPortSame ?_ rfl | fail_if_no_progress refine Kept.upd ?_ rfl rfl rfl rfl
    | apply Kept.foldl | apply Kept.foldl_fst | apply Kept.foldl_snd | apply Kept.ite | intro _


theorem execBtEnd_kept {s : State} (n : Fin 8) (x : State) (t : State) (e : execBtEnd n x = .next t) (h : Kept s x) : Kept s t :=
  next_kept e (btEnd_kept _ _ h)

theorem setBt_kept {s : State} (n : Fin 8) (f : BasicTimer → BasicTimer) (x : State) (h : Kept s x) :
    Kept s (setBt n f x) := by
  unfold setBt
  try dsimp only
  with_reducible repeat' first | assumption | split | fail_if_no_progress refine Kept.upd ?_ rfl rfl rfl rfl


theorem execBtStart_kept {s : State} (n : Fin 8) (x : State) (t : State) (e : execBtStart n x = .next t) (h : Kept s x) : Kept s t :=
  next_kept e (setBt_kept _ _ _ h)

theorem execBtStop_kept {s : State} (n : Fin 8) (x : State) (t : State) (e : execBtStop n x = .next t) (h : Kept s x) : Kept s t :=
  next_kept e (setBt_kept _ _ _ h)

theorem execBtPeriodWrite_kept {s : State} (n : Fin 8) (period : Word) (x : State) (t : State) (e : execBtPeriodWrite n period x = .next t) (h : Kept s x) : Kept s t :=
  next_kept e (setBt_kept _ _ _ h)

theorem pinEdge_kept {s : State} (k : Fin 64) (rising : Bool) (x : State) (h : Kept s x) :
    Kept s (pinEdge k rising x) := by
  unfold pinEdge
  try dsimp only
  with_reducible repeat' first
    | assumption | rfl | apply captureFrom_kept | apply tinTick_kept | split | refine Kept.setPortSame ?_ rfl
    | fail_if_no_progress refine Kept.upd ?_ rfl rfl rfl rfl | apply Kept.foldl | apply Kept.foldl_fst
    | apply Kept.foldl_snd | apply Kept.ite | intro _


theorem withEdges_kept {s : State} (f : State → State) (x : State) (hf : ∀ y, Kept s y → Kept s (f y)) (h : Kept s x) :
    Kept s (withEdges f x) := by
  unfold withEdges
  dsimp only
  split
  · apply Kept.foldl _ _ _ (hf x h)
    intro t k ht
    split
    · exact pinEdge_kept _ _ _ ht
    · exact ht
  · exact hf x h

theorem setOut_kept {s : State} (p : Fin 4) (f : BitVec 16 → BitVec 16) (x : State) (h : Kept s x) :
    Kept s (setOut p f x) := by
  unfold setOut
  try dsimp only
  with_reducible repeat' first
    | assumption | apply withEdges_kept | fail_if_no_progress refine Kept.upd ?_ rfl rfl rfl rfl | intro _


theorem gpioToggle_kept {s : State} (k : Fin 64) (x : State) (h : Kept s x) :
    Kept s (gpioToggle k x) := by
  unfold gpioToggle
  try dsimp only
  with_reducible repeat' first | assumption | apply setOut_kept


theorem gpioWrite_kept {s : State} (p : Fin 4) (f : BitVec 16 → BitVec 16) (x : State) (h : Kept s x) :
    Kept s (gpioWrite p f x) := by
  unfold gpioWrite
  try dsimp only
  with_reducible repeat' first | assumption | apply setOut_kept | split


theorem execGpioSet_kept {s : State} (port : Fin 4) (w : Word) (x : State) (t : State) (e : execGpioSet port w x = .next t) (h : Kept s x) : Kept s t :=
  next_kept e (gpioWrite_kept _ _ _ h)

theorem execGpioClr_kept {s : State} (port : Fin 4) (w : Word) (x : State) (t : State) (e : execGpioClr port w x = .next t) (h : Kept s x) : Kept s t :=
  next_kept e (gpioWrite_kept _ _ _ h)

theorem execGpioTgl_kept {s : State} (port : Fin 4) (w : Word) (x : State) (t : State) (e : execGpioTgl port w x = .next t) (h : Kept s x) : Kept s t :=
  next_kept e (gpioWrite_kept _ _ _ h)

theorem gpioEdge_kept {s : State} (k : Fin 64) (level : Bool) (cycles : ℕ) (x : State) (h : Kept s x) :
    Kept s (gpioEdge k level cycles x) := by
  unfold gpioEdge
  try dsimp only
  with_reducible repeat' first
    | assumption | rfl | apply withEdges_kept | split | refine Kept.setPortSame ?_ rfl
    | fail_if_no_progress refine Kept.upd ?_ rfl rfl rfl rfl | apply Kept.foldl | apply Kept.foldl_fst
    | apply Kept.foldl_snd | apply Kept.ite | intro _


theorem execGpioEdge_kept {s : State} (pin : Fin 64) (level : Bool) (cycles : ℕ) (x : State) (t : State) (e : execGpioEdge pin level cycles x = .next t) (h : Kept s x) : Kept s t :=
  next_kept e (gpioEdge_kept _ _ _ _ h)

theorem markerFired_kept {s : State} (n : Fin 16) (x : State) (h : Kept s x) : Kept s (markerFired n x) := by
  unfold markerFired
  extract_lets m m1 c1 s1 peri w x0 x1 x2 x3 x4 x5 s3 s2 c2 s4
  have k1 : Kept s s1 := h.same rfl rfl rfl rfl rfl rfl rfl
  have k0 : Kept s x0.1 := Kept.ite (ntcIrq_kept _ _ k1) k1
  have k5 : Kept s x5.1 := by
    apply markerAct_kept _ _ _ _ kerbTrigger_kept
    apply markerAct_kept _ _ _ _ (gpioToggle_kept _)
    refine markerAct_kept _ _ _ _ ?_ ?_
    · exact fun y hy => Kept.same hy rfl rfl rfl rfl rfl rfl rfl
    apply markerAct_kept _ _ _ _ (dmaNamed_kept _)
    exact markerAct_kept _ _ _ _ adcTrigger_kept k0
  have k2 : Kept s s2 := Kept.ite (captureFrom_kept _ _ (Kept.ite (btTrigger_kept _ _ k5) k5)) k5
  have k4 : Kept s s4 := k2.same rfl rfl rfl rfl rfl rfl rfl
  split
  · exact Kept.ite (raise_kept _ _ _ k4) k4
  · exact h

theorem execMarkerFired_kept {s : State} (n : Fin 16) (x : State) (t : State) (e : execMarkerFired n x = .next t) (h : Kept s x) : Kept s t :=
  next_kept e (markerFired_kept _ _ h)

theorem writeMkCtrl_kept {s : State} (n : Fin 8) (w : Word) (x : State) (h : Kept s x) :
    Kept s (writeMkCtrl n w x) := by
  unfold writeMkCtrl
  try dsimp only
  with_reducible repeat' first
    | assumption | rfl | apply markerFired_kept | split | refine Kept.setPortSame ?_ rfl
    | fail_if_no_progress refine Kept.upd ?_ rfl rfl rfl rfl | apply Kept.foldl | apply Kept.foldl_fst
    | apply Kept.foldl_snd | apply Kept.ite | intro _


theorem execMarkerArm_kept {s : State} (n : Fin 8) (ctrl : Word) (x : State) (t : State) (e : execMarkerArm n ctrl x = .next t) (h : Kept s x) :
    Kept s t := by
  unfold execMarkerArm at e
  try dsimp only at e
  repeat' split at e
  all_goals first
    | (cases e; done)
    | (injection e with e; subst e)
    | skip
  all_goals
   with_reducible repeat' first | assumption | apply writeMkCtrl_kept


theorem captureEvent_kept {s : State} (u : Fin 3) (x : State) (h : Kept s x) :
    Kept s (captureEvent u x) := by
  unfold captureEvent
  try dsimp only
  with_reducible repeat' first | assumption | apply captureNow_kept | split


theorem execCapture_kept {s : State} (u : Fin 3) (x : State) (t : State) (e : execCapture u x = .next t) (h : Kept s x) : Kept s t :=
  next_kept e (captureEvent_kept _ _ h)

theorem busOut_kept {s : State} (w : Word) (x : State) (h : Kept s x) :
    Kept s (busOut w x) := by
  unfold busOut
  try dsimp only
  with_reducible repeat' first
    | assumption | rfl | split | refine Kept.setPortSame ?_ rfl
    | fail_if_no_progress refine Kept.upd ?_ rfl rfl rfl rfl | apply Kept.foldl | apply Kept.foldl_fst
    | apply Kept.foldl_snd | apply Kept.ite | intro _


theorem readCpLo_kept {s : State} (u : Fin 4) (x : State) (h : Kept s x) :
    Kept s (readCpLo u x).2 := by
  unfold readCpLo
  try dsimp only
  with_reducible repeat' first
    | assumption | rfl | split | refine Kept.setPortSame ?_ rfl
    | fail_if_no_progress refine Kept.upd ?_ rfl rfl rfl rfl | apply Kept.foldl | apply Kept.foldl_fst
    | apply Kept.foldl_snd | apply Kept.ite | intro _


theorem readCpHi_kept {s : State} (u : Fin 4) (x : State) (h : Kept s x) :
    Kept s (readCpHi u x).2 := by
  unfold readCpHi
  try dsimp only
  with_reducible repeat' first
    | assumption | rfl | split | refine Kept.setPortSame ?_ rfl
    | fail_if_no_progress refine Kept.upd ?_ rfl rfl rfl rfl | apply Kept.foldl | apply Kept.foldl_fst
    | apply Kept.foldl_snd | apply Kept.ite | intro _


theorem pageReadAs_kept {s : State} (d : Nat) (f : State → Word × State) (x : State)
    (hf : ∀ y, Kept s y → Kept s (f y).2) (h : Kept s x) : Kept s (pageReadAs d f x) := by
  unfold pageReadAs
  split
  · exact busOut_kept _ _ (hf x h)
  · exact h

theorem execNtcCpLoRead_kept {s : State} (u : Fin 4) (x : State) (t : State) (e : execNtcCpLoRead u x = .next t) (h : Kept s x) : Kept s t :=
  next_kept e (pageReadAs_kept _ _ _ (readCpLo_kept _) h)

theorem execNtcCpHiRead_kept {s : State} (u : Fin 4) (x : State) (t : State) (e : execNtcCpHiRead u x = .next t) (h : Kept s x) : Kept s t :=
  next_kept e (pageReadAs_kept _ _ _ (readCpHi_kept _) h)

theorem swtrig_kept {s : State} (u : Fin 4) (x : State) (h : Kept s x) :
    Kept s (swtrig u x) := by
  unfold swtrig
  try dsimp only
  with_reducible repeat' first | assumption | apply captureNow_kept | split


theorem execSwtrig_kept {s : State} (u : Fin 4) (x : State) (t : State) (e : execSwtrig u x = .next t) (h : Kept s x) :
    Kept s t := by
  unfold execSwtrig at e
  try dsimp only at e
  repeat' split at e
  all_goals first
    | (cases e; done)
    | (injection e with e; subst e)
    | skip
  all_goals
   with_reducible repeat' first | assumption | apply swtrig_kept


theorem readGlitch_kept {s : State} (x : State) (h : Kept s x) :
    Kept s (readGlitch x).2 := by
  unfold readGlitch
  try dsimp only
  with_reducible repeat' first | assumption | fail_if_no_progress refine Kept.upd ?_ rfl rfl rfl rfl


theorem readCpLost_kept {s : State} (u : Fin 4) (x : State) (h : Kept s x) :
    Kept s (readCpLost u x).2 := by
  unfold readCpLost
  try dsimp only
  with_reducible repeat' first | assumption | fail_if_no_progress refine Kept.upd ?_ rfl rfl rfl rfl


theorem execNtcPpsGlitchRead_kept {s : State} (x : State) (t : State) (e : execNtcPpsGlitchRead x = .next t) (h : Kept s x) : Kept s t :=
  next_kept e (pageReadAs_kept _ _ _ readGlitch_kept h)

theorem execNtcCpLostRead_kept {s : State} (u : Fin 4) (x : State) (t : State) (e : execNtcCpLostRead u x = .next t) (h : Kept s x) : Kept s t :=
  next_kept e (pageReadAs_kept _ _ _ (readCpLost_kept _) h)

theorem spicMask_kept {s : State} (c : Spic) (w : Word) (x : State) (h : Kept s x) :
    Kept s (spicMask c w x).2 := by
  unfold spicMask
  try dsimp only
  with_reducible repeat' first | assumption | apply drawWord_kept | split


theorem setSpic_kept {s : State} (i : Fin 2) (f : Spic → Spic) (x : State) (h : Kept s x) :
    Kept s (setSpic i f x) := by
  unfold setSpic
  try dsimp only
  with_reducible repeat' first | assumption | fail_if_no_progress refine Kept.upd ?_ rfl rfl rfl rfl


theorem spicRx_kept {s : State} (i : Fin 2) (x : State) (h : Kept s x) :
    Kept s (spicRx i x).2 := by
  unfold spicRx
  try dsimp only
  with_reducible repeat' first | assumption | apply setSpic_kept


theorem spicFrameEnd_kept {s : State} (i : Fin 2) (miso : Word) (x : State) (h : Kept s x) :
    Kept s (spicFrameEnd i miso x) := by
  unfold spicFrameEnd
  try dsimp only
  with_reducible repeat' first | assumption | apply spicMask_kept | apply setSpic_kept | split


theorem execSpicTxWrite_kept {s : State} (c : Fin 2) (w : Word) (x : State) (t : State) (e : execSpicTxWrite c w x = .next t) (h : Kept s x) :
    Kept s t := by
  unfold execSpicTxWrite at e
  try dsimp only at e
  repeat' split at e
  all_goals first
    | (cases e; done)
    | (injection e with e; subst e)
    | skip
  all_goals
   with_reducible repeat' first | assumption | apply setSpic_kept


theorem execSpicRxRead_kept {s : State} (c : Fin 2) (x : State) (t : State) (e : execSpicRxRead c x = .next t) (h : Kept s x) : Kept s t :=
  next_kept e (pageReadAs_kept _ _ _ (spicRx_kept _) h)

theorem execCsEnd_kept {s : State} (c : Fin 2) (x : State) (t : State) (e : execCsEnd c x = .next t) (h : Kept s x) :
    Kept s t := by
  unfold execCsEnd at e
  try dsimp only at e
  repeat' split at e
  all_goals first
    | (cases e; done)
    | (injection e with e; subst e)
    | skip
  all_goals
   with_reducible repeat' first | assumption | apply setSpic_kept


theorem execSpicFrameEnd_kept {s : State} (c : Fin 2) (miso : Word) (x : State) (t : State) (e : execSpicFrameEnd c miso x = .next t) (h : Kept s x) : Kept s t :=
  next_kept e (spicFrameEnd_kept _ _ _ h)

theorem setI2c_kept {s : State} (i : Fin 2) (f : I2c → I2c) (x : State) (h : Kept s x) :
    Kept s (setI2c i f x) := by
  unfold setI2c
  try dsimp only
  with_reducible repeat' first | assumption | fail_if_no_progress refine Kept.upd ?_ rfl rfl rfl rfl


theorem i2cCmd_kept {s : State} (i : Fin 2) (w : Word) (x : State) (h : Kept s x) :
    Kept s (i2cCmd i w x) := by
  unfold i2cCmd
  try dsimp only
  with_reducible repeat' first | assumption | apply drawWord_kept | apply setI2c_kept | split


theorem i2cRx_kept {s : State} (i : Fin 2) (x : State) (h : Kept s x) :
    Kept s (i2cRx i x).2 := by
  unfold i2cRx
  try dsimp only
  with_reducible repeat' first | assumption | apply setI2c_kept


theorem execI2cCmdWrite_kept {s : State} (c : Fin 2) (w : Word) (x : State) (t : State) (e : execI2cCmdWrite c w x = .next t) (h : Kept s x) :
    Kept s t := by
  unfold execI2cCmdWrite at e
  try dsimp only at e
  repeat' split at e
  all_goals first
    | (cases e; done)
    | (injection e with e; subst e)
    | skip
  all_goals
   with_reducible repeat' first | assumption | apply i2cCmd_kept


theorem execI2cTxWrite_kept {s : State} (c : Fin 2) (w : Word) (x : State) (t : State) (e : execI2cTxWrite c w x = .next t) (h : Kept s x) :
    Kept s t := by
  unfold execI2cTxWrite at e
  try dsimp only at e
  repeat' split at e
  all_goals first
    | (cases e; done)
    | (injection e with e; subst e)
    | skip
  all_goals
   with_reducible repeat' first | assumption | apply setI2c_kept


theorem execI2cRxRead_kept {s : State} (c : Fin 2) (x : State) (t : State) (e : execI2cRxRead c x = .next t) (h : Kept s x) : Kept s t :=
  next_kept e (pageReadAs_kept _ _ _ (i2cRx_kept _) h)

theorem execI2cByteEnd_kept {s : State} (c : Fin 2) (acked : Bool) (rx : Byte) (x : State) (t : State) (e : execI2cByteEnd c acked rx x = .next t) (h : Kept s x) :
    Kept s t := by
  unfold execI2cByteEnd at e
  try dsimp only at e
  repeat' split at e
  all_goals first
    | (cases e; done)
    | (injection e with e; subst e)
    | skip
  all_goals
   with_reducible repeat' first | assumption | apply setI2c_kept


theorem execI2cTimeout_kept {s : State} (c : Fin 2) (x : State) (t : State) (e : execI2cTimeout c x = .next t) (h : Kept s x) :
    Kept s t := by
  unfold execI2cTimeout at e
  try dsimp only at e
  repeat' split at e
  all_goals first
    | (cases e; done)
    | (injection e with e; subst e)
    | skip
  all_goals
   with_reducible repeat' first | assumption | apply setI2c_kept


theorem setUart_kept {s : State} (u : Fin 3) (f : Uart → Uart) (x : State) (h : Kept s x) :
    Kept s (setUart u f x) := by
  unfold setUart
  try dsimp only
  with_reducible repeat' first | assumption | fail_if_no_progress refine Kept.upd ?_ rfl rfl rfl rfl


theorem uartRx_kept {s : State} (i : Fin 3) (x : State) (h : Kept s x) :
    Kept s (uartRx i x).2 := by
  unfold uartRx
  try dsimp only
  with_reducible repeat' first | assumption | apply setUart_kept | split


theorem uartLost_kept {s : State} (i : Fin 3) (x : State) (h : Kept s x) :
    Kept s (uartLost i x).2 := by
  unfold uartLost
  try dsimp only
  with_reducible repeat' first | assumption | apply setUart_kept


theorem execUartTxWrite_kept {s : State} (u : Fin 3) (w : Word) (x : State) (t : State) (e : execUartTxWrite u w x = .next t) (h : Kept s x) :
    Kept s t := by
  unfold execUartTxWrite at e
  try dsimp only at e
  repeat' split at e
  all_goals first
    | (cases e; done)
    | (injection e with e; subst e)
    | skip
  all_goals
   with_reducible repeat' first | assumption | apply setUart_kept


theorem execUartRxRead_kept {s : State} (u : Fin 3) (x : State) (t : State) (e : execUartRxRead u x = .next t) (h : Kept s x) : Kept s t :=
  next_kept e (pageReadAs_kept _ _ _ (uartRx_kept _) h)

theorem execUartLostRead_kept {s : State} (u : Fin 3) (x : State) (t : State) (e : execUartLostRead u x = .next t) (h : Kept s x) : Kept s t :=
  next_kept e (pageReadAs_kept _ _ _ (uartLost_kept _) h)

theorem execUartRxCharacter_kept {s : State} (u : Fin 3) (data : Byte) (perr : Bool) (ferr : Bool) (brk : Bool) (x : State) (t : State) (e : execUartRxCharacter u data perr ferr brk x = .next t) (h : Kept s x) :
    Kept s t := by
  unfold execUartRxCharacter at e
  try dsimp only at e
  repeat' split at e
  all_goals first
    | (cases e; done)
    | (injection e with e; subst e)
    | skip
  all_goals
   with_reducible repeat' first
    | assumption | rfl | apply setUart_kept | split | refine Kept.setPortSame ?_ rfl
    | fail_if_no_progress refine Kept.upd ?_ rfl rfl rfl rfl | apply Kept.foldl | apply Kept.foldl_fst
    | apply Kept.foldl_snd | apply Kept.ite | intro _ | dsimp only | refine EKept.seq ?_ | refine EKept.goto ?_
    | refine EKept.transfer ?_ | refine EKept.exc ?_ | apply EKept.ite


theorem execUartTxCharacter_kept {s : State} (u : Fin 3) (x : State) (t : State) (e : execUartTxCharacter u x = .next t) (h : Kept s x) :
    Kept s t := by
  unfold execUartTxCharacter at e
  try dsimp only at e
  repeat' split at e
  all_goals first
    | (cases e; done)
    | (injection e with e; subst e)
    | skip
  all_goals
   with_reducible repeat' first
    | assumption | rfl | apply setUart_kept | split | refine Kept.setPortSame ?_ rfl
    | fail_if_no_progress refine Kept.upd ?_ rfl rfl rfl rfl | apply Kept.foldl | apply Kept.foldl_fst
    | apply Kept.foldl_snd | apply Kept.ite | intro _ | dsimp only | refine EKept.seq ?_ | refine EKept.goto ?_
    | refine EKept.transfer ?_ | refine EKept.exc ?_ | apply EKept.ite


theorem execRxidle_kept {s : State} (u : Fin 3) (x : State) (t : State) (e : execRxidle u x = .next t) (h : Kept s x) :
    Kept s t := by
  unfold execRxidle at e
  try dsimp only at e
  repeat' split at e
  all_goals first
    | (cases e; done)
    | (injection e with e; subst e)
    | skip
  all_goals
   with_reducible repeat' first
    | assumption | rfl | apply setUart_kept | split | refine Kept.setPortSame ?_ rfl
    | fail_if_no_progress refine Kept.upd ?_ rfl rfl rfl rfl | apply Kept.foldl | apply Kept.foldl_fst
    | apply Kept.foldl_snd | apply Kept.ite | intro _ | dsimp only | refine EKept.seq ?_ | refine EKept.goto ?_
    | refine EKept.transfer ?_ | refine EKept.exc ?_ | apply EKept.ite


theorem adcData_kept {s : State} (x : State) (h : Kept s x) :
    Kept s (adcData x).2 := by
  unfold adcData
  try dsimp only
  with_reducible repeat' first | assumption | split | fail_if_no_progress refine Kept.upd ?_ rfl rfl rfl rfl


theorem adcLost_kept {s : State} (x : State) (h : Kept s x) :
    Kept s (adcLost x).2 := by
  unfold adcLost
  try dsimp only
  with_reducible repeat' first | assumption | fail_if_no_progress refine Kept.upd ?_ rfl rfl rfl rfl


theorem adcConversionEnd_kept {s : State} (result : BitVec 12) (sensors : Sensors) (x : State) (h : Kept s x) :
    Kept s (adcConversionEnd result sensors x) := by
  unfold adcConversionEnd
  try dsimp only
  with_reducible repeat' first
    | assumption | rfl | apply sampleTemp_kept | split | refine Kept.setPortSame ?_ rfl
    | fail_if_no_progress refine Kept.upd ?_ rfl rfl rfl rfl | apply Kept.foldl | apply Kept.foldl_fst
    | apply Kept.foldl_snd | apply Kept.ite | intro _


theorem execAdcStart_kept {s : State} (x : State) (t : State) (e : execAdcStart x = .next t) (h : Kept s x) :
    Kept s t := by
  unfold execAdcStart at e
  try dsimp only at e
  repeat' split at e
  all_goals first
    | (cases e; done)
    | (injection e with e; subst e)
    | skip
  all_goals
   with_reducible repeat' first | assumption | apply adcTrigger_kept


theorem execAdcDataRead_kept {s : State} (x : State) (t : State) (e : execAdcDataRead x = .next t) (h : Kept s x) : Kept s t :=
  next_kept e (pageReadAs_kept _ _ _ adcData_kept h)

theorem execAdcLostRead_kept {s : State} (x : State) (t : State) (e : execAdcLostRead x = .next t) (h : Kept s x) : Kept s t :=
  next_kept e (pageReadAs_kept _ _ _ adcLost_kept h)

theorem execAdcConversionEnd_kept {s : State} (result : BitVec 12) (sensors : Sensors) (x : State) (t : State) (e : execAdcConversionEnd result sensors x = .next t) (h : Kept s x) : Kept s t :=
  next_kept e (adcConversionEnd_kept _ _ _ h)

end Sys2Proof.Machine
end

