-- ==== Sys2Proof/Laws/KeptPlaza.lean ====
section
/-! SUPPORT. Every operation of Machine/Plaza.lean keeps what `Kept` says. -/

namespace Sys2Proof.Machine
open Sys2Proof

@[simp] theorem resync_lanes (q : Port) : (resync q).lanes = q.lanes := by
  unfold resync
  dsimp only
  split <;> rfl

@[simp] theorem applyResync_lanes (ctrl : Word) (q : Port) : (applyResync ctrl q).lanes = q.lanes := by
  unfold applyResync
  split
  · simp
  · rfl

@[simp] theorem afterStatus_lanes (ctrl : Word) (q : Port) : (afterStatus ctrl q).lanes = q.lanes := rfl

theorem Kept.iterate {s : State} (f : State → State) (n : Nat) (x : State) (hf : ∀ y, Kept s y → Kept s (f y)) (h : Kept s x) :
    Kept s (iterate f n x) := by
  induction n generalizing x with
  | zero => exact h
  | succ n ih => exact ih _ (hf _ h)

/-- Taking the head word leaves fewer stages. -/
theorem takeLane_stages {l l' : Lane} {w : Word} {b : Bool} (e : takeLane l = some (w, l', b)) :
    l'.stages.length ≤ l.stages.length := by
  unfold takeLane at e
  split at e
  · cases e
  · rename_i w ws hw
    cases e
    simp [hw]

theorem readOne_stages {l l' : Lane} {w : Word} {b : Bool} (e : readOne l = some (w, l', b)) :
    l'.stages.length ≤ l.stages.length := by
  unfold readOne at e
  split at e
  · cases e
    exact Nat.le_refl _
  · split at e
    · cases e
    · have h := takeLane_stages ‹_›
      dsimp only at e
      split at e <;> (cases e; exact h)

/-- What a read delivers leaves no more stages than there were. -/
theorem readMany_stages (n : Nat) (l : Lane) : (readMany n l).2.1.stages.length ≤ l.stages.length := by
  induction n generalizing l with
  | zero => exact Nat.le_refl _
  | succ n ih =>
    unfold readMany
    split
    · exact Nat.le_refl _
    · exact Nat.le_trans (ih _) (readOne_stages ‹_›)

theorem releaseFrame_kept {s : State} (p : PortId) (high : Bool) (x : State) (h : Kept s x) :
    Kept s (releaseFrame p high x) := by
  unfold releaseFrame
  try dsimp only
  repeat' first
    | with_reducible assumption | with_reducible rfl | split | with_reducible refine Kept.setPortSame ?_ rfl
    | (with_reducible refine Kept.setPortSame ?_ ?_ <;> [skip; (simp; done)])
    | fail_if_no_progress with_reducible refine Kept.upd ?_ rfl rfl rfl rfl | with_reducible apply Kept.foldl
    | with_reducible apply Kept.foldl_fst | with_reducible apply Kept.foldl_snd | with_reducible apply Kept.ite
    | intro _


theorem packetTaken_kept {s : State} (p : PortId) (i : Fin 5) (x : State) (h : Kept s x) :
    Kept s (packetTaken p i x) := by
  unfold packetTaken
  try dsimp only
  with_reducible repeat' first | assumption | apply releaseFrame_kept | split


theorem overrunAt_kept {s : State} (p : PortId) (crc : Bool) (w : Word) (x : State) (h : Kept s x) :
    Kept s (overrunAt p crc w x) := refuseUnseen_kept _ _ _ _ _ _ (h.setPortSame rfl)

theorem writeWords_kept {s : State} (p : PortId) (n : Nat) (ws : List Word) (x : State) (h : Kept s x) :
    Kept s (writeWords p n ws x) := by
  induction ws generalizing n x with
  | nil => exact h
  | cons w ws ih =>
    apply ih
    exact Kept.ite (h.setPortSame rfl) (Kept.ite (overrunAt_kept _ _ _ _ (h.setPortSame rfl)) (h.setPortSame rfl))

theorem lineErrors_kept {s : State} (n : ℕ) (x : State) (h : Kept s x) :
    Kept s (lineErrors n x) := by
  unfold lineErrors
  try dsimp only
  repeat' first
    | with_reducible assumption | with_reducible rfl | split | with_reducible refine Kept.setPortSame ?_ rfl
    | (with_reducible refine Kept.setPortSame ?_ ?_ <;> [skip; (simp; done)])
    | fail_if_no_progress with_reducible refine Kept.upd ?_ rfl rfl rfl rfl | with_reducible apply Kept.foldl
    | with_reducible apply Kept.foldl_fst | with_reducible apply Kept.foldl_snd | with_reducible apply Kept.ite
    | intro _


theorem onWire_kept {s : State} (wire : Wire) (x : State) (h : Kept s x) :
    Kept s (onWire wire x) := by
  unfold onWire
  try dsimp only
  repeat' first
    | with_reducible assumption | with_reducible rfl | with_reducible apply lineErrors_kept | split
    | with_reducible refine Kept.setPortSame ?_ rfl
    | (with_reducible refine Kept.setPortSame ?_ ?_ <;> [skip; (simp; done)])
    | fail_if_no_progress with_reducible refine Kept.upd ?_ rfl rfl rfl rfl | with_reducible apply Kept.foldl
    | with_reducible apply Kept.foldl_fst | with_reducible apply Kept.foldl_snd | with_reducible apply Kept.ite
    | intro _


theorem deadPort_kept {s : State} (uart : Bool) (n : ℕ) (x : State) (h : Kept s x) :
    Kept s (deadPort uart n x) := by
  unfold deadPort
  try dsimp only
  with_reducible repeat' first | assumption | split | refine Kept.setPortSame ?_ rfl


theorem hostWrite_kept {s : State} (uart : Bool) (ctrl : Word) (data : List Word) (x : State) (h : Kept s x) :
    Kept s (hostWrite uart ctrl data x) := by
  have k : ∀ o, Kept s (x.setPort (extPort uart)
      { applyResync ctrl (afterStatus ctrl (x.port (extPort uart))) with out := o }) := fun o => h.setPortSame (by simp)
  unfold hostWrite
  extract_lets p q q1 idle s1
  exact Kept.ite h (Kept.ite (deadPort_kept _ _ _ h) (Kept.ite (k _) (writeWords_kept _ _ _ _ (k _))))

theorem execHostWriteTransaction_kept {s : State} (wire : Wire) (ctrl : Word) (data : List Word) (x : State) (t : State) (e : execHostWriteTransaction wire ctrl data x = .next t) (h : Kept s x) :
    Kept s t := by
  unfold execHostWriteTransaction at e
  try dsimp only at e
  repeat' split at e
  all_goals first
    | (cases e; done)
    | (injection e with e; subst e)
    | skip
  all_goals
   repeat' first
    | with_reducible assumption | with_reducible rfl | with_reducible apply hostWrite_kept
    | with_reducible apply onWire_kept | split | with_reducible refine Kept.setPortSame ?_ rfl
    | (with_reducible refine Kept.setPortSame ?_ ?_ <;> [skip; (simp; done)])
    | fail_if_no_progress with_reducible refine Kept.upd ?_ rfl rfl rfl rfl | with_reducible apply Kept.foldl
    | with_reducible apply Kept.foldl_fst | with_reducible apply Kept.foldl_snd | with_reducible apply Kept.ite
    | intro _ | dsimp only | with_reducible refine EKept.seq ?_ | with_reducible refine EKept.goto ?_
    | with_reducible refine EKept.transfer ?_ | with_reducible refine EKept.exc ?_ | with_reducible apply EKept.ite


theorem hostRead_kept {s : State} (uart : Bool) (ctrl : Word) (clocked : Nat) (x : State) (h : Kept s x) :
    Kept s (hostRead uart ctrl clocked x) := by
  have k : ∀ o, Kept s (x.setPort (extPort uart)
      { applyResync ctrl (afterStatus ctrl (x.port (extPort uart))) with out := o }) := fun o => h.setPortSame (by simp)
  unfold hostRead
  extract_lets p q q1 i asked n r pad s1
  have k1 : Kept s s1 := h.setPort fun hl j => by
    have e : q1.lanes = q.lanes := by simp [q1]
    simp only [e]
    exact lanes_set (port_lanes hl p) (Nat.le_trans (readMany_stages n _) (port_lanes hl p i)) j
  exact Kept.ite h (Kept.ite (deadPort_kept _ _ _ h) (Kept.ite (k _)
    (settleLane_kept _ _ _ (Kept.iterate _ _ _ (packetTaken_kept _ _) k1))))

theorem execHostReadTransaction_kept {s : State} (wire : Wire) (ctrl : Word) (clocked : ℕ) (x : State) (t : State) (e : execHostReadTransaction wire ctrl clocked x = .next t) (h : Kept s x) :
    Kept s t := by
  unfold execHostReadTransaction at e
  try dsimp only at e
  repeat' split at e
  all_goals first
    | (cases e; done)
    | (injection e with e; subst e)
    | skip
  all_goals
   repeat' first
    | with_reducible assumption | with_reducible rfl | with_reducible apply hostRead_kept
    | with_reducible apply onWire_kept | split | with_reducible refine Kept.setPortSame ?_ rfl
    | (with_reducible refine Kept.setPortSame ?_ ?_ <;> [skip; (simp; done)])
    | fail_if_no_progress with_reducible refine Kept.upd ?_ rfl rfl rfl rfl | with_reducible apply Kept.foldl
    | with_reducible apply Kept.foldl_fst | with_reducible apply Kept.foldl_snd | with_reducible apply Kept.ite
    | intro _ | dsimp only | with_reducible refine EKept.seq ?_ | with_reducible refine EKept.goto ?_
    | with_reducible refine EKept.transfer ?_ | with_reducible refine EKept.exc ?_ | with_reducible apply EKept.ite


theorem hostPoll_kept {s : State} (uart : Bool) (ctrl : Word) (clocked : ℕ) (x : State) (h : Kept s x) :
    Kept s (hostPoll uart ctrl clocked x) := by
  unfold hostPoll
  try dsimp only
  repeat' first
    | with_reducible assumption | with_reducible apply deadPort_kept | split
    | (with_reducible refine Kept.setPortSame ?_ ?_ <;> [skip; (simp; done)])


theorem execHostPollTransaction_kept {s : State} (wire : Wire) (ctrl : Word) (clocked : ℕ) (x : State) (t : State) (e : execHostPollTransaction wire ctrl clocked x = .next t) (h : Kept s x) :
    Kept s t := by
  unfold execHostPollTransaction at e
  try dsimp only at e
  repeat' split at e
  all_goals first
    | (cases e; done)
    | (injection e with e; subst e)
    | skip
  all_goals
   repeat' first
    | with_reducible assumption | with_reducible rfl | with_reducible apply hostPoll_kept
    | with_reducible apply onWire_kept | split | with_reducible refine Kept.setPortSame ?_ rfl
    | (with_reducible refine Kept.setPortSame ?_ ?_ <;> [skip; (simp; done)])
    | fail_if_no_progress with_reducible refine Kept.upd ?_ rfl rfl rfl rfl | with_reducible apply Kept.foldl
    | with_reducible apply Kept.foldl_fst | with_reducible apply Kept.foldl_snd | with_reducible apply Kept.ite
    | intro _ | dsimp only | with_reducible refine EKept.seq ?_ | with_reducible refine EKept.goto ?_
    | with_reducible refine EKept.transfer ?_ | with_reducible refine EKept.exc ?_ | with_reducible apply EKept.ite


theorem hostNop_kept {s : State} (uart : Bool) (ctrl : Word) (clocked : ℕ) (x : State) (h : Kept s x) :
    Kept s (hostNop uart ctrl clocked x) := by
  unfold hostNop
  try dsimp only
  repeat' first
    | with_reducible assumption | with_reducible apply deadPort_kept | split
    | (with_reducible refine Kept.setPortSame ?_ ?_ <;> [skip; (simp; done)])


theorem execHostNopTransaction_kept {s : State} (wire : Wire) (ctrl : Word) (clocked : ℕ) (x : State) (t : State) (e : execHostNopTransaction wire ctrl clocked x = .next t) (h : Kept s x) :
    Kept s t := by
  unfold execHostNopTransaction at e
  try dsimp only at e
  repeat' split at e
  all_goals first
    | (cases e; done)
    | (injection e with e; subst e)
    | skip
  all_goals
   repeat' first
    | with_reducible assumption | with_reducible rfl | with_reducible apply hostNop_kept
    | with_reducible apply onWire_kept | split | with_reducible refine Kept.setPortSame ?_ rfl
    | (with_reducible refine Kept.setPortSame ?_ ?_ <;> [skip; (simp; done)])
    | fail_if_no_progress with_reducible refine Kept.upd ?_ rfl rfl rfl rfl | with_reducible apply Kept.foldl
    | with_reducible apply Kept.foldl_fst | with_reducible apply Kept.foldl_snd | with_reducible apply Kept.ite
    | intro _ | dsimp only | with_reducible refine EKept.seq ?_ | with_reducible refine EKept.goto ?_
    | with_reducible refine EKept.transfer ?_ | with_reducible refine EKept.exc ?_ | with_reducible apply EKept.ite


theorem uartBreak_kept {s : State} (ctrlBytes : ℕ) (x : State) (h : Kept s x) :
    Kept s (uartBreak ctrlBytes x) := by
  unfold uartBreak
  try dsimp only
  repeat' first
    | with_reducible assumption | with_reducible rfl | with_reducible apply lineErrors_kept | split
    | with_reducible refine Kept.setPortSame ?_ rfl
    | (with_reducible refine Kept.setPortSame ?_ ?_ <;> [skip; (simp; done)])
    | fail_if_no_progress with_reducible refine Kept.upd ?_ rfl rfl rfl rfl | with_reducible apply Kept.foldl
    | with_reducible apply Kept.foldl_fst | with_reducible apply Kept.foldl_snd | with_reducible apply Kept.ite
    | intro _


theorem execUartBreak_kept {s : State} (ctrlBytes : ℕ) (x : State) (t : State) (e : execUartBreak ctrlBytes x = .next t) (h : Kept s x) : Kept s t :=
  next_kept e (uartBreak_kept _ _ h)

theorem uartRateByte_kept {s : State} (byte : Byte) (cellsOk : Bool) (bitNs : ℕ) (x : State) (h : Kept s x) :
    Kept s (uartRateByte byte cellsOk bitNs x) := by
  unfold uartRateByte
  try dsimp only
  repeat' first
    | with_reducible assumption | with_reducible rfl | with_reducible apply lineErrors_kept | split
    | with_reducible refine Kept.setPortSame ?_ rfl
    | (with_reducible refine Kept.setPortSame ?_ ?_ <;> [skip; (simp; done)])
    | fail_if_no_progress with_reducible refine Kept.upd ?_ rfl rfl rfl rfl | with_reducible apply Kept.foldl
    | with_reducible apply Kept.foldl_fst | with_reducible apply Kept.foldl_snd | with_reducible apply Kept.ite
    | intro _


theorem execUartRateByte_kept {s : State} (byte : Byte) (cellsOk : Bool) (bitNs : ℕ) (x : State) (t : State) (e : execUartRateByte byte cellsOk bitNs x = .next t) (h : Kept s x) : Kept s t :=
  next_kept e (uartRateByte_kept _ _ _ _ h)

theorem mbxStore_kept {s : State} (w : Word) (x : State) (h : Kept s x) :
    Kept s (mbxStore w x) := by
  unfold mbxStore
  try dsimp only
  repeat' first
    | with_reducible assumption | with_reducible rfl | split | with_reducible refine Kept.setPortSame ?_ rfl
    | (with_reducible refine Kept.setPortSame ?_ ?_ <;> [skip; (simp; done)])
    | fail_if_no_progress with_reducible refine Kept.upd ?_ rfl rfl rfl rfl | with_reducible apply Kept.foldl
    | with_reducible apply Kept.foldl_fst | with_reducible apply Kept.foldl_snd | with_reducible apply Kept.ite
    | intro _


theorem execMbxCmdWrite_kept {s : State} (w : Word) (x : State) (t : State) (e : execMbxCmdWrite w x = .next t) (h : Kept s x) :
    Kept s t := by
  unfold execMbxCmdWrite at e
  try dsimp only at e
  repeat' split at e
  all_goals first
    | (cases e; done)
    | (injection e with e; subst e)
    | skip
  all_goals
   with_reducible repeat' first | assumption | apply mbxStore_kept


theorem mbxHoldExpiry_kept {s : State} (x : State) (h : Kept s x) :
    Kept s (mbxHoldExpiry x) := by
  unfold mbxHoldExpiry
  try dsimp only
  repeat' first
    | with_reducible assumption | with_reducible rfl | with_reducible apply overrunAt_kept | split
    | with_reducible refine Kept.setPortSame ?_ rfl
    | (with_reducible refine Kept.setPortSame ?_ ?_ <;> [skip; (simp; done)])
    | fail_if_no_progress with_reducible refine Kept.upd ?_ rfl rfl rfl rfl | with_reducible apply Kept.foldl
    | with_reducible apply Kept.foldl_fst | with_reducible apply Kept.foldl_snd | with_reducible apply Kept.ite
    | intro _


theorem execMbxCmdHoldExpiry_kept {s : State} (x : State) (t : State) (e : execMbxCmdHoldExpiry x = .next t) (h : Kept s x) : Kept s t :=
  next_kept e (mbxHoldExpiry_kept _ h)

theorem mbxLane_kept {s : State} (i : Fin 5) (x : State) (h : Kept s x) : Kept s (mbxLane i x).2 := by
  unfold mbxLane
  dsimp only
  split
  · exact h
  · rename_i w l ended e
    have k := h.setPort (p := .mbx) (q := { x.port .mbx with lanes := (x.port .mbx).lanes.set i l })
      fun hl j => lanes_set (port_lanes hl .mbx) (Nat.le_trans (takeLane_stages e) (port_lanes hl .mbx i)) j
    dsimp only
    refine settleLane_kept _ _ _ ?_
    split
    · exact packetTaken_kept _ _ _ k
    · exact k

theorem execMbxLaneRead_kept {s : State} (lane : Fin 5) (x : State) (t : State) (e : execMbxLaneRead lane x = .next t) (h : Kept s x) : Kept s t :=
  next_kept e (pageReadAs_kept _ _ _ (mbxLane_kept _) h)

theorem mbxWrite_kept {s : State} (off : ℕ) (w : Word) (x : State) (h : Kept s x) :
    Kept s (mbxWrite off w x) := by
  unfold mbxWrite
  try dsimp only
  repeat' first
    | with_reducible assumption | with_reducible rfl | split | with_reducible refine Kept.setPortSame ?_ rfl
    | (with_reducible refine Kept.setPortSame ?_ ?_ <;> [skip; (simp; done)])
    | fail_if_no_progress with_reducible refine Kept.upd ?_ rfl rfl rfl rfl | with_reducible apply Kept.foldl
    | with_reducible apply Kept.foldl_fst | with_reducible apply Kept.foldl_snd | with_reducible apply Kept.ite
    | intro _


theorem backlogDrain_kept {s : State} (p : PortId) (x : State) (h : Kept s x) :
    Kept s (backlogDrain p x) := by
  unfold backlogDrain
  try dsimp only
  with_reducible repeat' first
    | assumption | apply placeLost_kept | apply produce_kept | split | refine Kept.setPortSame ?_ rfl


theorem execEventBacklogDrain_kept {s : State} (port : PortId) (x : State) (t : State) (e : execEventBacklogDrain port x = .next t) (h : Kept s x) : Kept s t :=
  next_kept e (backlogDrain_kept _ _ h)

theorem frameStoreMove_kept {s : State} (high : Bool) (x : State) (h : Kept s x) :
    Kept s (frameStoreMove high x) := by
  unfold frameStoreMove
  try dsimp only
  repeat' first
    | with_reducible assumption | with_reducible rfl | with_reducible apply produce_kept | split
    | with_reducible refine Kept.setPortSame ?_ rfl
    | (with_reducible refine Kept.setPortSame ?_ ?_ <;> [skip; (simp; done)])
    | fail_if_no_progress with_reducible refine Kept.upd ?_ rfl rfl rfl rfl | with_reducible apply Kept.foldl
    | with_reducible apply Kept.foldl_fst | with_reducible apply Kept.foldl_snd | with_reducible apply Kept.ite
    | intro _


theorem execFrameStoreMove_kept {s : State} (high : Bool) (x : State) (t : State) (e : execFrameStoreMove high x = .next t) (h : Kept s x) : Kept s t :=
  next_kept e (frameStoreMove_kept _ _ h)

theorem pingRun_kept {s : State} (c : Cmd) (x : State) (r t) (e : pingRun c x = .ok (r, t)) (h : Kept s x) :
    Kept s t := by
  unfold pingRun at e
  try dsimp only at e
  all_goals first
    | (cases e; done)
    | (injection e with e; have e := congrArg Prod.snd e; dsimp only at e; subst e)
  all_goals
   with_reducible repeat' first | assumption


theorem execPing_kept {s : State} (p : Packet) (x : State) (t : State) (e : execPing p x = .next t) (h : Kept s x) : Kept s t :=
  next_kept e (plazaRun_kept _ _ _ _ _ (fun c y => immediate_kept _ c y pingRun_kept) h)

theorem devInfoRun_kept {s : State} (c : Cmd) (x : State) (r t) (e : devInfoRun c x = .ok (r, t)) (h : Kept s x) :
    Kept s t := by
  unfold devInfoRun at e
  try dsimp only at e
  repeat' split at e
  all_goals first
    | (cases e; done)
    | (injection e with e; have e := congrArg Prod.snd e; dsimp only at e; subst e)
  all_goals
   with_reducible repeat' first | assumption


theorem execDevInfo_kept {s : State} (p : Packet) (x : State) (t : State) (e : execDevInfo p x = .next t) (h : Kept s x) : Kept s t :=
  next_kept e (plazaRun_kept _ _ _ _ _ (fun c y => immediate_kept _ c y devInfoRun_kept) h)

theorem oweReset_kept {s : State} (p : PortId) (x : State) (h : Kept s x) :
    Kept s (oweReset p x) := by
  unfold oweReset
  try dsimp only
  repeat' first
    | with_reducible assumption | with_reducible rfl | split | with_reducible refine Kept.setPortSame ?_ rfl
    | (with_reducible refine Kept.setPortSame ?_ ?_ <;> [skip; (simp; done)])
    | fail_if_no_progress with_reducible refine Kept.upd ?_ rfl rfl rfl rfl | with_reducible apply Kept.foldl
    | with_reducible apply Kept.foldl_fst | with_reducible apply Kept.foldl_snd | with_reducible apply Kept.ite
    | intro _


theorem softResetRun_kept {s : State} (c : Cmd) (x : State) (r t) (e : softResetRun c x = .ok (r, t)) (h : Kept s x) :
    Kept s t := by
  unfold softResetRun at e
  try dsimp only at e
  repeat' split at e
  all_goals first
    | (cases e; done)
    | (injection e with e; have e := congrArg Prod.snd e; dsimp only at e; subst e)
  all_goals
   repeat' first
    | with_reducible assumption | with_reducible rfl | with_reducible apply oweReset_kept | split
    | with_reducible refine Kept.setPortSame ?_ rfl
    | (with_reducible refine Kept.setPortSame ?_ ?_ <;> [skip; (simp; done)])
    | fail_if_no_progress with_reducible refine Kept.upd ?_ rfl rfl rfl rfl | with_reducible apply Kept.foldl
    | with_reducible apply Kept.foldl_fst | with_reducible apply Kept.foldl_snd | with_reducible apply Kept.ite
    | intro _


theorem execSoftReset_kept {s : State} (p : Packet) (x : State) (t : State) (e : execSoftReset p x = .next t) (h : Kept s x) : Kept s t :=
  next_kept e (plazaRun_kept _ _ _ _ _ (fun c y => immediate_kept _ c y softResetRun_kept) h)

theorem eventMaskRun_kept {s : State} (c : Cmd) (x : State) (r t) (e : eventMaskRun c x = .ok (r, t)) (h : Kept s x) :
    Kept s t := by
  unfold eventMaskRun at e
  try dsimp only at e
  repeat' split at e
  all_goals first
    | (cases e; done)
    | (injection e with e; have e := congrArg Prod.snd e; dsimp only at e; subst e)
  all_goals
   with_reducible repeat' first | assumption | refine Kept.setPortSame ?_ rfl


theorem execEventMask_kept {s : State} (p : Packet) (x : State) (t : State) (e : execEventMask p x = .next t) (h : Kept s x) : Kept s t :=
  next_kept e (plazaRun_kept _ _ _ _ _ (fun c y => immediate_kept _ c y eventMaskRun_kept) h)

theorem dropWord_kept {s : State} (p : PortId) (i : Fin 5) (x : State) (h : Kept s x) : Kept s (dropWord p i x) := by
  unfold dropWord
  dsimp only
  split
  · exact h
  · rename_i w l ended e
    have n := takeLane_stages e
    have k := h.setPort (p := p) (q := { x.port p with lanes := (x.port p).lanes.set i { l with taken := [] } })
      fun hl j => lanes_set (l := { l with taken := [] }) (port_lanes hl p) (Nat.le_trans n (port_lanes hl p i)) j
    refine settleLane_kept _ _ _ ?_
    split
    · exact packetTaken_kept _ _ _ k
    · exact k

theorem laneDropRun_kept {s : State} (c : Cmd) (x : State) (r t) (e : laneDropRun c x = .ok (r, t)) (h : Kept s x) :
    Kept s t := by
  unfold laneDropRun at e
  extract_lets w1 lane i n s1 q s2 at e
  have k1 : Kept s s1 := Kept.iterate _ _ _ (dropWord_kept _ _) h
  have k2 : Kept s s2 := Kept.ite (k1.setPortSame rfl) k1
  split at e
  · cases e
  · split at e
    · cases e
      exact h
    · injection e with e
      injection e with _ e
      exact e ▸ k2

theorem execLaneDrop_kept {s : State} (p : Packet) (x : State) (t : State) (e : execLaneDrop p x = .next t) (h : Kept s x) : Kept s t :=
  next_kept e (plazaRun_kept _ _ _ _ _ (fun c y => immediate_kept _ c y laneDropRun_kept) h)

theorem badOpcode_kept {s : State} (p : Packet) (cls : BitVec 4) (code : BitVec 12) (x : State) (h : Kept s x) :
    Kept s (badOpcode p cls code x) := by
  unfold badOpcode
  try dsimp only
  with_reducible repeat' first
    | assumption | refine arrive_kept _ _ _ _ _ _ ‹_› ?_ | apply refuseCrc_kept | apply refuseUnseen_kept | split


theorem execBadOpcode_kept {s : State} (p : Packet) (cls : BitVec 4) (code : BitVec 12) (x : State) (t : State) (e : execBadOpcode p cls code x = .next t) (h : Kept s x) : Kept s t :=
  next_kept e (badOpcode_kept _ _ _ _ h)

theorem badCrc_kept {s : State} (p : Packet) (code : BitVec 12) (x : State) (h : Kept s x) :
    Kept s (badCrc p code x) := by
  unfold badCrc
  try dsimp only
  with_reducible repeat' first | assumption | refine arrive_kept _ _ _ _ _ _ ‹_› ?_ | apply refuseCrc_kept | split


theorem execBadCrc_kept {s : State} (p : Packet) (code : BitVec 12) (x : State) (t : State) (e : execBadCrc p code x = .next t) (h : Kept s x) : Kept s t :=
  next_kept e (badCrc_kept _ _ _ h)

end Sys2Proof.Machine
end

