-- ==== Sys2Proof/Laws/KeptFlash.lean ====
section
/-! SUPPORT. Every operation of Machine/Flash.lean keeps what `Kept` says. -/

namespace Sys2Proof.Machine
open Sys2Proof

/-- Flash cells replaced by canonical ones. -/
theorem Kept.cells {s x : State} {m : List Host.Cell} (h : Kept s x)
    (hm : Memory.wf 0xFF#8 x.flash.cells = true → Memory.wf 0xFF#8 m = true) : Kept s { x with flash.cells := m } :=
  h.trans ⟨rfl, fun w => ⟨w.1, hm w.2.1, w.2.2⟩, id, id, fun _ _ k => k⟩

/-- The word that a list of OTP words holds at an index. -/
def otpLookup (l : List (Nat × Word)) (i : Nat) : Word := ((l.find? fun e => e.1 = i).map Prod.snd).getD 0#32

theorem otpWord_eq (s : State) (i : Nat) : otpWord s i = otpLookup s.flash.otp i := rfl

theorem otpLookup_otpSet_other (i j : Nat) (w : Word) (l : List (Nat × Word)) (h : j ≠ i) :
    otpLookup (otpSet i w l) j = otpLookup l j := by
  have hi : ¬ i = j := fun e => h e.symm
  induction l with
  | nil => by_cases hw : w = 0#32 <;> simp [otpSet, otpLookup, hw, hi]
  | cons c rest ih =>
    obtain ⟨k, v⟩ := c
    simp only [otpSet]
    split
    · by_cases hk : k = j
      · simp [otpLookup, hk]
      · simpa [otpLookup, hk] using ih
    · repeat' split
      · rename_i e
        have : ¬ k = j := fun c => h (c.symm.trans e)
        simp [otpLookup, this]
      · rfl
      · rename_i e
        have : ¬ k = j := fun c => h (c.symm.trans e)
        simp [otpLookup, this, hi]
      · simp [otpLookup, hi]

theorem otpLookup_otpSet_self (i : Nat) (w : Word) (l : List (Nat × Word)) (hw : w ≠ 0#32) :
    otpLookup (otpSet i w l) i = w := by
  induction l with
  | nil => simp [otpSet, otpLookup, hw]
  | cons c rest ih =>
    obtain ⟨k, v⟩ := c
    simp only [otpSet]
    split
    · rename_i e
      have : ¬ k = i := by omega
      simpa [otpLookup, this] using ih
    · simp [otpLookup, hw]

/-- An OTP word replaced by one that has its bits. -/
theorem Kept.otpSet {s x : State} {i : Nat} {w : Word} (h : Kept s x)
    (hw : ∀ b, (otpWord x i).getLsbD b = true → w.getLsbD b = true) :
    Kept s { x with flash.otp := Machine.otpSet i w x.flash.otp } := by
  refine h.trans ⟨rfl, id, id, id, ?_⟩
  intro j b hb
  simp only [otpWord_eq] at hb hw ⊢
  by_cases e : j = i
  · subst e
    by_cases z : w = 0#32
    · have := hw b hb
      simp [z] at this
    · rw [otpLookup_otpSet_self _ _ _ z]
      exact hw b hb
  · rw [otpLookup_otpSet_other _ _ _ _ e]
    exact hb

theorem setFlag_kept {s : State} (sector : ℕ) (on : Bool) (x : State) (h : Kept s x) :
    Kept s (setFlag sector on x) := by
  unfold setFlag
  try dsimp only
  with_reducible repeat' first
    | assumption | rfl | split | refine Kept.setPortSame ?_ rfl
    | fail_if_no_progress refine Kept.upd ?_ rfl rfl rfl rfl | apply Kept.foldl | apply Kept.foldl_fst
    | apply Kept.foldl_snd | apply Kept.ite | intro _


theorem eraseSector_kept {s : State} (sector : Nat) (x : State) (h : Kept s x) : Kept s (eraseSector sector x) :=
  setFlag_kept _ _ _ (h.cells fun w => wf_memClear _ _ _ _ w)

theorem writeUnit_kept {s : State} (f : Nat) (bs : List Byte) (x : State) (h : Kept s x) : Kept s (writeUnit f bs x) :=
  h.cells fun w => wf_memWriteList _ _ _ _ w

theorem programUnits_kept {s : State} (us : List (Nat × List Byte)) (bad : Option Nat) (n : Nat) (x : State) (h : Kept s x) :
    Kept s (programUnits us bad n x).2 := by
  induction us generalizing bad n x with
  | nil => exact h
  | cons u us ih =>
    unfold programUnits
    repeat' first
      | with_reducible assumption | apply ih | apply writeUnit_kept | apply drawWord_kept | apply drawWords_kept | split

theorem eraseSectors_kept {s : State} (k sector : Nat) (bad : Option Nat) (n : Nat) (x : State) (h : Kept s x) :
    Kept s (eraseSectors k sector bad n x).2 := by
  induction k generalizing sector bad n x with
  | zero => exact h
  | succ k ih =>
    unfold eraseSectors
    repeat' first
      | with_reducible assumption | apply ih | apply eraseSector_kept | exact setFlag_kept _ _ _ h | split

theorem flashDoneEvent_kept {s : State} (o : FlashOp) (e0 : FlashEnd) (x : State) (h : Kept s x) :
    Kept s (flashDoneEvent o e0 x) := by
  unfold flashDoneEvent
  try dsimp only
  with_reducible repeat' first | assumption | apply completeEvent_kept


theorem pickBad_kept {s : State} (fails : Bool) (n : ℕ) (x : State) (h : Kept s x) :
    Kept s (pickBad fails n x).2 := by
  unfold pickBad
  try dsimp only
  with_reducible repeat' first | assumption | apply drawWord_kept | split


theorem runFlashOp_kept {s : State} (o : FlashOp) (fails : Bool) (x : State) (h : Kept s x) :
    Kept s (runFlashOp o fails x) := by
  unfold runFlashOp
  try dsimp only
  with_reducible repeat' first
    | assumption | apply pickBad_kept | apply eraseSectors_kept | apply programUnits_kept | apply flashDoneEvent_kept
    | split


theorem stepOp_kept {s : State} (k : ℕ) (o : FlashOp) (x : State) (h : Kept s x) :
    Kept s (stepOp k o x).2 := by
  unfold stepOp
  try dsimp only
  with_reducible repeat' first
    | assumption | rfl | apply eraseSectors_kept | apply setFlag_kept | apply programUnits_kept
    | apply flashDoneEvent_kept | split | refine Kept.setPortSame ?_ rfl
    | fail_if_no_progress refine Kept.upd ?_ rfl rfl rfl rfl | apply Kept.foldl | apply Kept.foldl_fst
    | apply Kept.foldl_snd | apply Kept.ite | intro _


theorem progressed_kept {s : State} (o : FlashOp) (x : State) (h : Kept s x) :
    Kept s (progressed o x).2 := by
  unfold progressed
  try dsimp only
  with_reducible repeat' first
    | assumption | rfl | apply drawWord_kept | apply stepOp_kept | split | refine Kept.setPortSame ?_ rfl
    | fail_if_no_progress refine Kept.upd ?_ rfl rfl rfl rfl | apply Kept.foldl | apply Kept.foldl_fst
    | apply Kept.foldl_snd | apply Kept.ite | intro _


theorem resumeErase_kept {s : State} (x : State) (h : Kept s x) :
    Kept s (resumeErase x) := by
  unfold resumeErase
  try dsimp only
  with_reducible repeat' first
    | assumption | rfl | split | refine Kept.setPortSame ?_ rfl
    | fail_if_no_progress refine Kept.upd ?_ rfl rfl rfl rfl | apply Kept.foldl | apply Kept.foldl_fst
    | apply Kept.foldl_snd | apply Kept.ite | intro _


theorem flashProgress_kept {s : State} (x : State) (h : Kept s x) :
    Kept s (flashProgress x) := by
  unfold flashProgress
  try dsimp only
  with_reducible repeat' first
    | assumption | rfl | apply progressed_kept | apply resumeErase_kept | split | refine Kept.setPortSame ?_ rfl
    | fail_if_no_progress refine Kept.upd ?_ rfl rfl rfl rfl | apply Kept.foldl | apply Kept.foldl_fst
    | apply Kept.foldl_snd | apply Kept.ite | intro _


theorem flashDone_kept {s : State} (fails : Bool) (x : State) (h : Kept s x) :
    Kept s (flashDone fails x) := by
  unfold flashDone
  try dsimp only
  with_reducible repeat' first
    | assumption | rfl | apply resumeErase_kept | apply runFlashOp_kept | split | refine Kept.setPortSame ?_ rfl
    | fail_if_no_progress refine Kept.upd ?_ rfl rfl rfl rfl | apply Kept.foldl | apply Kept.foldl_fst
    | apply Kept.foldl_snd | apply Kept.ite | intro _


theorem execFlashDone_kept {s : State} (verifyFails : Bool) (x : State) (t : State) (e : execFlashDone verifyFails x = .next t) (h : Kept s x) : Kept s t :=
  next_kept e (flashDone_kept _ _ h)

theorem flashAutoSuspend_kept {s : State} (x : State) (h : Kept s x) :
    Kept s (flashAutoSuspend x) := by
  unfold flashAutoSuspend
  try dsimp only
  with_reducible repeat' first
    | assumption | rfl | apply flashProgress_kept | split | refine Kept.setPortSame ?_ rfl
    | fail_if_no_progress refine Kept.upd ?_ rfl rfl rfl rfl | apply Kept.foldl | apply Kept.foldl_fst
    | apply Kept.foldl_snd | apply Kept.ite | intro _


theorem execFlashAutoSuspend_kept {s : State} (x : State) (t : State) (e : execFlashAutoSuspend x = .next t) (h : Kept s x) : Kept s t :=
  next_kept e (flashAutoSuspend_kept _ h)

theorem flashAutoResume_kept {s : State} (x : State) (h : Kept s x) :
    Kept s (flashAutoResume x) := by
  unfold flashAutoResume
  try dsimp only
  with_reducible repeat' first
    | assumption | rfl | apply resumeErase_kept | split | refine Kept.setPortSame ?_ rfl
    | fail_if_no_progress refine Kept.upd ?_ rfl rfl rfl rfl | apply Kept.foldl | apply Kept.foldl_fst
    | apply Kept.foldl_snd | apply Kept.ite | intro _


theorem execFlashAutoResume_kept {s : State} (x : State) (t : State) (e : execFlashAutoResume x = .next t) (h : Kept s x) : Kept s t :=
  next_kept e (flashAutoResume_kept _ h)

theorem flashProgramRun_kept {s : State} (c : Cmd) (x : State) (h : Kept s x) :
    Kept s (flashProgramRun c x) := by
  unfold flashProgramRun
  try dsimp only
  with_reducible repeat' first
    | assumption | rfl | apply finish_kept | apply takeHandle_kept | apply respondAccepted_kept | split
    | refine Kept.setPortSame ?_ rfl | fail_if_no_progress refine Kept.upd ?_ rfl rfl rfl rfl | apply Kept.foldl
    | apply Kept.foldl_fst | apply Kept.foldl_snd | apply Kept.ite | intro _


theorem execFlashProgram_kept {s : State} (p : Packet) (x : State) (t : State) (e : execFlashProgram p x = .next t) (h : Kept s x) : Kept s t :=
  next_kept e (plazaRun_kept _ _ _ _ _ flashProgramRun_kept h)

theorem flashEraseRun_kept {s : State} (c : Cmd) (x : State) (h : Kept s x) :
    Kept s (flashEraseRun c x) := by
  unfold flashEraseRun
  try dsimp only
  with_reducible repeat' first
    | assumption | rfl | apply finish_kept | apply takeHandle_kept | apply respondAccepted_kept | apply setFlag_kept
    | split | refine Kept.setPortSame ?_ rfl | fail_if_no_progress refine Kept.upd ?_ rfl rfl rfl rfl
    | apply Kept.foldl | apply Kept.foldl_fst | apply Kept.foldl_snd | apply Kept.ite | intro _


theorem execFlashErase_kept {s : State} (p : Packet) (x : State) (t : State) (e : execFlashErase p x = .next t) (h : Kept s x) : Kept s t :=
  next_kept e (plazaRun_kept _ _ _ _ _ flashEraseRun_kept h)

theorem flashSuspendRun_kept {s : State} (c : Cmd) (x : State) (h : Kept s x) :
    Kept s (flashSuspendRun c x) := by
  unfold flashSuspendRun
  try dsimp only
  with_reducible repeat' first
    | assumption | rfl | apply flashProgress_kept | apply finish_kept | split | refine Kept.setPortSame ?_ rfl
    | fail_if_no_progress refine Kept.upd ?_ rfl rfl rfl rfl | apply Kept.foldl | apply Kept.foldl_fst
    | apply Kept.foldl_snd | apply Kept.ite | intro _


theorem execFlashSuspend_kept {s : State} (p : Packet) (x : State) (t : State) (e : execFlashSuspend p x = .next t) (h : Kept s x) : Kept s t :=
  next_kept e (plazaRun_kept _ _ _ _ _ flashSuspendRun_kept h)

theorem flashResumeRun_kept {s : State} (c : Cmd) (x : State) (r t) (e : flashResumeRun c x = .ok (r, t)) (h : Kept s x) :
    Kept s t := by
  unfold flashResumeRun at e
  try dsimp only at e
  repeat' split at e
  all_goals first
    | (cases e; done)
    | (injection e with e; have e := congrArg Prod.snd e; dsimp only at e; subst e)
  all_goals
   with_reducible repeat' first
    | assumption | rfl | apply resumeErase_kept | split | refine Kept.setPortSame ?_ rfl
    | fail_if_no_progress refine Kept.upd ?_ rfl rfl rfl rfl | apply Kept.foldl | apply Kept.foldl_fst
    | apply Kept.foldl_snd | apply Kept.ite | intro _


theorem execFlashResume_kept {s : State} (p : Packet) (x : State) (t : State) (e : execFlashResume p x = .next t) (h : Kept s x) : Kept s t :=
  next_kept e (plazaRun_kept _ _ _ _ _ (fun c y => immediate_kept _ c y flashResumeRun_kept) h)

theorem protectSetRun_kept {s : State} (c : Cmd) (x : State) (r t) (e : protectSetRun c x = .ok (r, t)) (h : Kept s x) :
    Kept s t := by
  unfold protectSetRun at e
  try dsimp only at e
  repeat' split at e
  all_goals first
    | (cases e; done)
    | (injection e with e; have e := congrArg Prod.snd e; dsimp only at e; subst e)
  all_goals
   with_reducible repeat' first
    | assumption | rfl | split | refine Kept.setPortSame ?_ rfl
    | fail_if_no_progress refine Kept.upd ?_ rfl rfl rfl rfl | apply Kept.foldl | apply Kept.foldl_fst
    | apply Kept.foldl_snd | apply Kept.ite | intro _


theorem execProtectSet_kept {s : State} (p : Packet) (x : State) (t : State) (e : execProtectSet p x = .next t) (h : Kept s x) : Kept s t :=
  next_kept e (plazaRun_kept _ _ _ _ _ (fun c y => immediate_kept _ c y protectSetRun_kept) h)

theorem setUnlocked_kept {s : State} (p : PortId) (b : Bool) (x : State) (h : Kept s x) :
    Kept s (setUnlocked p b x) := by
  unfold setUnlocked
  try dsimp only
  with_reducible repeat' first
    | assumption | rfl | split | refine Kept.setPortSame ?_ rfl
    | fail_if_no_progress refine Kept.upd ?_ rfl rfl rfl rfl | apply Kept.foldl | apply Kept.foldl_fst
    | apply Kept.foldl_snd | apply Kept.ite | intro _


theorem protectUnlockRun_kept {s : State} (c : Cmd) (x : State) (h : Kept s x) :
    Kept s (protectUnlockRun c x) := by
  unfold protectUnlockRun
  try dsimp only
  with_reducible repeat' first
    | assumption | rfl | apply finish_kept | apply setUnlocked_kept | split | refine Kept.setPortSame ?_ rfl
    | fail_if_no_progress refine Kept.upd ?_ rfl rfl rfl rfl | apply Kept.foldl | apply Kept.foldl_fst
    | apply Kept.foldl_snd | apply Kept.ite | intro _


theorem execProtectUnlock_kept {s : State} (p : Packet) (x : State) (t : State) (e : execProtectUnlock p x = .next t) (h : Kept s x) : Kept s t :=
  next_kept e (plazaRun_kept _ _ _ _ _ protectUnlockRun_kept h)

theorem otpReadRun_kept {s : State} (c : Cmd) (x : State) (r t) (e : otpReadRun c x = .ok (r, t)) (h : Kept s x) :
    Kept s t := by
  unfold otpReadRun at e
  try dsimp only at e
  repeat' split at e
  all_goals first
    | (cases e; done)
    | (injection e with e; have e := congrArg Prod.snd e; dsimp only at e; subst e)
  all_goals
   with_reducible repeat' first | assumption


theorem execOtpRead_kept {s : State} (p : Packet) (x : State) (t : State) (e : execOtpRead p x = .next t) (h : Kept s x) : Kept s t :=
  next_kept e (plazaRun_kept _ _ _ _ _ (fun c y => immediate_kept _ c y otpReadRun_kept) h)

theorem otpProgramWords_kept {s : State} (i : Nat) (ws : List Word) (n : Nat) (x : State) (h : Kept s x) :
    Kept s (otpProgramWords i ws n x).2.2 := by
  induction ws generalizing i n x with
  | nil => exact h
  | cons w ws ih =>
    unfold otpProgramWords
    dsimp only
    split
    · exact (drawWord_kept _ (drawBool_kept _ h)).otpSet fun b hb => by
        have : otpWord (drawWord (drawBool x).2).2 i = otpWord x i := rfl
        rw [this] at hb
        simp [hb]
    · exact ih _ _ _ ((drawBool_kept _ h).otpSet fun b hb => by
        have : otpWord (drawBool x).2 i = otpWord x i := rfl
        rw [this] at hb
        simp [hb])

theorem otpProgramRun_kept {s : State} (c : Cmd) (x : State) (h : Kept s x) :
    Kept s (otpProgramRun c x) := by
  unfold otpProgramRun
  try dsimp only
  with_reducible repeat' first | assumption | apply finish_kept | apply otpProgramWords_kept | split


theorem execOtpProgram_kept {s : State} (p : Packet) (x : State) (t : State) (e : execOtpProgram p x = .next t) (h : Kept s x) : Kept s t :=
  next_kept e (plazaRun_kept _ _ _ _ _ otpProgramRun_kept h)

theorem readSuspends_kept {s : State} (secs : List ℕ) (x : State) (h : Kept s x) :
    Kept s (readSuspends secs x) := by
  unfold readSuspends
  try dsimp only
  with_reducible repeat' first
    | assumption | rfl | split | refine Kept.setPortSame ?_ rfl
    | fail_if_no_progress refine Kept.upd ?_ rfl rfl rfl rfl | apply Kept.foldl | apply Kept.foldl_fst
    | apply Kept.foldl_snd | apply Kept.ite | intro _


theorem flashStatusRun_kept {s : State} (c : Cmd) (x : State) (r t) (e : flashStatusRun c x = .ok (r, t)) (h : Kept s x) :
    Kept s t := by
  unfold flashStatusRun at e
  try dsimp only at e
  repeat' split at e
  all_goals first
    | (cases e; done)
    | (injection e with e; have e := congrArg Prod.snd e; dsimp only at e; subst e)
  all_goals
   with_reducible repeat' first
    | assumption | rfl | apply flashProgress_kept | apply readSuspends_kept | split | refine Kept.setPortSame ?_ rfl
    | fail_if_no_progress refine Kept.upd ?_ rfl rfl rfl rfl | apply Kept.foldl | apply Kept.foldl_fst
    | apply Kept.foldl_snd | apply Kept.ite | intro _


theorem execFlashStatus_kept {s : State} (p : Packet) (x : State) (t : State) (e : execFlashStatus p x = .next t) (h : Kept s x) : Kept s t :=
  next_kept e (plazaRun_kept _ _ _ _ _ (fun c y => immediate_kept _ c y flashStatusRun_kept) h)

end Sys2Proof.Machine
end

