-- ==== Sys2Proof/Laws/KeptMeasure.lean ====
section
/-! SUPPORT. Every operation of Machine/Measure.lean keeps what `Kept` says. -/

namespace Sys2Proof.Machine
open Sys2Proof


theorem extendMr_kept {s : State} (n : Fin 4) (et : Byte) (d : BitVec 256) (x : State) (h : Kept s x) :
    Kept s (extendMr n et d x) := by
  unfold extendMr
  try dsimp only
  with_reducible repeat' first
    | assumption | rfl | split | refine Kept.setPortSame ?_ rfl
    | fail_if_no_progress refine Kept.upd ?_ rfl rfl rfl rfl | apply Kept.foldl | apply Kept.foldl_fst
    | apply Kept.foldl_snd | apply Kept.ite | intro _


end Sys2Proof.Machine
end

