-- ==== Sys2Proof/Laws/KeptKerb.lean ====
section
/-! SUPPORT. Every operation of Machine/Kerb.lean keeps what `Kept` says. -/

namespace Sys2Proof.Machine
open Sys2Proof


theorem kerbAnswerStops_kept {s : State} (l : List (PortId × BitVec 6)) (x : State) (h : Kept s x) :
    Kept s (kerbAnswerStops l x) := by
  induction l generalizing x with
  | nil => exact h
  | cons a l ih => exact ih _ (finish_kept _ _ _ _ h)

theorem kerbPassEnd_kept {s : State} (overrun : Bool) (x : State) (h : Kept s x) :
    Kept s (kerbPassEnd overrun x) := by
  unfold kerbPassEnd
  try dsimp only
  with_reducible repeat' first
    | assumption | apply kerbAnswerStops_kept | split | fail_if_no_progress refine Kept.upd ?_ rfl rfl rfl rfl


theorem kerbNext_kept {s : State} (nextStep : ℕ) (x : State) (h : Kept s x) :
    Kept s (kerbNext nextStep x) := by
  unfold kerbNext
  try dsimp only
  with_reducible repeat' first
    | assumption | apply kerbPassEnd_kept | split | fail_if_no_progress refine Kept.upd ?_ rfl rfl rfl rfl


theorem kerbRow_kept {s : State} (op : Nat) (f : Word → State → State) (x : State)
    (hf : ∀ w y, Kept s y → Kept s (f w y)) (h : Kept s x) : Kept s (kerbRow op f x) := by
  unfold kerbRow
  split
  · exact hf _ x h
  · exact h

theorem kerbSet_kept {s : State} (w : Word) (v : BitVec 16) (x : State) (h : Kept s x) :
    Kept s (kerbSet w v x) := by
  unfold kerbSet
  try dsimp only
  with_reducible repeat' first | assumption | apply kerbNext_kept | fail_if_no_progress refine Kept.upd ?_ rfl rfl rfl rfl


theorem kerbLevel_kept {s : State} (pin : Fin 8) (rising : Bool) (x : State) (h : Kept s x) :
    Kept s (kerbLevel pin rising x) := by
  unfold kerbLevel
  try dsimp only
  with_reducible repeat' first
    | assumption | rfl | apply withEdges_kept | split | refine Kept.setPortSame ?_ rfl
    | fail_if_no_progress refine Kept.upd ?_ rfl rfl rfl rfl | apply Kept.foldl | apply Kept.foldl_fst
    | apply Kept.foldl_snd | apply Kept.ite | intro _


theorem kerbStartOr_kept {s : State} (x : State) (h : Kept s x) :
    Kept s (kerbStartOr x) := by
  unfold kerbStartOr
  try dsimp only
  with_reducible repeat' first
    | assumption | apply kerbTrigger_kept | split | fail_if_no_progress refine Kept.upd ?_ rfl rfl rfl rfl


theorem kerbPass_kept {s : State} (t0 : KerbTrigger) (x : State) (h : Kept s x) :
    Kept s (kerbPass t0 x) := by
  unfold kerbPass
  try dsimp only
  with_reducible repeat' first
    | assumption | apply kerbStartOr_kept | apply kerbLevel_kept | split
    | fail_if_no_progress refine Kept.upd ?_ rfl rfl rfl rfl


theorem execKerbPass_kept {s : State} (t0 : KerbTrigger) (x : State) (t : State) (e : execKerbPass t0 x = .next t) (h : Kept s x) : Kept s t :=
  next_kept e (kerbPass_kept _ _ h)

theorem kerbRecord_kept {s : State} (w : Word) (x : State) (h : Kept s x) :
    Kept s (kerbRecord w x) := by
  unfold kerbRecord
  try dsimp only
  with_reducible repeat' first | assumption | split | fail_if_no_progress refine Kept.upd ?_ rfl rfl rfl rfl


theorem kerbEnd_kept {s : State} (x : State) (h : Kept s x) :
    Kept s (kerbEnd x) := by
  unfold kerbEnd
  try dsimp only
  with_reducible repeat' first | assumption | apply kerbRow_kept | apply kerbPassEnd_kept | intro _


theorem kerbSample_kept {s : State} (result : BitVec 12) (sensors : Sensors) (x : State) (h : Kept s x) :
    Kept s (kerbSample result sensors x) := by
  unfold kerbSample
  try dsimp only
  with_reducible repeat' first
    | assumption | rfl | apply kerbRow_kept | apply sampleTemp_kept | apply kerbSet_kept | split
    | refine Kept.setPortSame ?_ rfl | fail_if_no_progress refine Kept.upd ?_ rfl rfl rfl rfl | apply Kept.foldl
    | apply Kept.foldl_fst | apply Kept.foldl_snd | apply Kept.ite | intro _


theorem kerbDin_kept {s : State} (x : State) (h : Kept s x) :
    Kept s (kerbDin x) := by
  unfold kerbDin
  try dsimp only
  with_reducible repeat' first | assumption | apply kerbRow_kept | apply kerbSet_kept | intro _


theorem kerbDout_kept {s : State} (x : State) (h : Kept s x) :
    Kept s (kerbDout x) := by
  unfold kerbDout
  try dsimp only
  with_reducible repeat' first
    | assumption | rfl | apply kerbRow_kept | apply withEdges_kept | apply kerbNext_kept | split
    | refine Kept.setPortSame ?_ rfl | fail_if_no_progress refine Kept.upd ?_ rfl rfl rfl rfl | apply Kept.foldl
    | apply Kept.foldl_fst | apply Kept.foldl_snd | apply Kept.ite | intro _


theorem kerbWait_kept {s : State} (x : State) (h : Kept s x) :
    Kept s (kerbWait x) := by
  unfold kerbWait
  try dsimp only
  with_reducible repeat' first | assumption | apply kerbRow_kept | apply kerbNext_kept | intro _


theorem kerbLoadi_kept {s : State} (x : State) (h : Kept s x) :
    Kept s (kerbLoadi x) := by
  unfold kerbLoadi
  try dsimp only
  with_reducible repeat' first | assumption | apply kerbRow_kept | apply kerbSet_kept | intro _


theorem kerbAdd_kept {s : State} (x : State) (h : Kept s x) :
    Kept s (kerbAdd x) := by
  unfold kerbAdd
  try dsimp only
  with_reducible repeat' first | assumption | apply kerbRow_kept | apply kerbSet_kept | intro _


theorem kerbSub_kept {s : State} (x : State) (h : Kept s x) :
    Kept s (kerbSub x) := by
  unfold kerbSub
  try dsimp only
  with_reducible repeat' first | assumption | apply kerbRow_kept | apply kerbSet_kept | intro _


theorem kerbAbsd_kept {s : State} (x : State) (h : Kept s x) :
    Kept s (kerbAbsd x) := by
  unfold kerbAbsd
  try dsimp only
  with_reducible repeat' first | assumption | apply kerbRow_kept | apply kerbSet_kept | intro _


theorem kerbIir_kept {s : State} (x : State) (h : Kept s x) :
    Kept s (kerbIir x) := by
  unfold kerbIir
  try dsimp only
  with_reducible repeat' first | assumption | apply kerbRow_kept | apply kerbSet_kept | intro _


theorem kerbJgt_kept {s : State} (x : State) (h : Kept s x) :
    Kept s (kerbJgt x) := by
  unfold kerbJgt
  try dsimp only
  with_reducible repeat' first | assumption | apply kerbRow_kept | apply kerbNext_kept | intro _


theorem kerbJle_kept {s : State} (x : State) (h : Kept s x) :
    Kept s (kerbJle x) := by
  unfold kerbJle
  try dsimp only
  with_reducible repeat' first | assumption | apply kerbRow_kept | apply kerbNext_kept | intro _


theorem kerbJmp_kept {s : State} (x : State) (h : Kept s x) :
    Kept s (kerbJmp x) := by
  unfold kerbJmp
  try dsimp only
  with_reducible repeat' first | assumption | apply kerbRow_kept | apply kerbNext_kept | intro _


theorem kerbLog_kept {s : State} (x : State) (h : Kept s x) :
    Kept s (kerbLog x) := by
  unfold kerbLog
  try dsimp only
  with_reducible repeat' first | assumption | apply kerbRow_kept | apply kerbNext_kept | apply kerbRecord_kept | intro _


theorem holdWake_kept {s : State} (code : ℕ) (detail : ℕ) (x : State) (h : Kept s x) :
    Kept s (holdWake code detail x) := by
  unfold holdWake
  try dsimp only
  with_reducible repeat' first
    | assumption | rfl | split | refine Kept.setPortSame ?_ rfl
    | fail_if_no_progress refine Kept.upd ?_ rfl rfl rfl rfl | apply Kept.foldl | apply Kept.foldl_fst
    | apply Kept.foldl_snd | apply Kept.ite | intro _


theorem kerbDecide_kept {s : State} (x : State) (h : Kept s x) :
    Kept s (kerbDecide x) := by
  unfold kerbDecide
  try dsimp only
  with_reducible repeat' first
    | assumption | apply kerbRow_kept | apply kerbRecord_kept | apply raise_kept | apply captureFrom_kept
    | apply holdWake_kept | apply kerbNext_kept | split | fail_if_no_progress refine Kept.upd ?_ rfl rfl rfl rfl
    | intro _


theorem kerbMov_kept {s : State} (x : State) (h : Kept s x) :
    Kept s (kerbMov x) := by
  unfold kerbMov
  try dsimp only
  with_reducible repeat' first | assumption | apply kerbRow_kept | apply kerbSet_kept | intro _


theorem execKerbEnd_kept {s : State} (x : State) (t : State) (e : execKerbEnd x = .next t) (h : Kept s x) : Kept s t :=
  next_kept e (kerbEnd_kept _ h)

theorem execKerbSample_kept {s : State} (result : BitVec 12) (sensors : Sensors) (x : State) (t : State) (e : execKerbSample result sensors x = .next t) (h : Kept s x) : Kept s t :=
  next_kept e (kerbSample_kept _ _ _ h)

theorem execKerbDin_kept {s : State} (x : State) (t : State) (e : execKerbDin x = .next t) (h : Kept s x) : Kept s t :=
  next_kept e (kerbDin_kept _ h)

theorem execKerbDout_kept {s : State} (x : State) (t : State) (e : execKerbDout x = .next t) (h : Kept s x) : Kept s t :=
  next_kept e (kerbDout_kept _ h)

theorem execKerbWait_kept {s : State} (x : State) (t : State) (e : execKerbWait x = .next t) (h : Kept s x) : Kept s t :=
  next_kept e (kerbWait_kept _ h)

theorem execKerbLoadi_kept {s : State} (x : State) (t : State) (e : execKerbLoadi x = .next t) (h : Kept s x) : Kept s t :=
  next_kept e (kerbLoadi_kept _ h)

theorem execKerbAdd_kept {s : State} (x : State) (t : State) (e : execKerbAdd x = .next t) (h : Kept s x) : Kept s t :=
  next_kept e (kerbAdd_kept _ h)

theorem execKerbSub_kept {s : State} (x : State) (t : State) (e : execKerbSub x = .next t) (h : Kept s x) : Kept s t :=
  next_kept e (kerbSub_kept _ h)

theorem execKerbAbsd_kept {s : State} (x : State) (t : State) (e : execKerbAbsd x = .next t) (h : Kept s x) : Kept s t :=
  next_kept e (kerbAbsd_kept _ h)

theorem execKerbIir_kept {s : State} (x : State) (t : State) (e : execKerbIir x = .next t) (h : Kept s x) : Kept s t :=
  next_kept e (kerbIir_kept _ h)

theorem execKerbJgt_kept {s : State} (x : State) (t : State) (e : execKerbJgt x = .next t) (h : Kept s x) : Kept s t :=
  next_kept e (kerbJgt_kept _ h)

theorem execKerbJle_kept {s : State} (x : State) (t : State) (e : execKerbJle x = .next t) (h : Kept s x) : Kept s t :=
  next_kept e (kerbJle_kept _ h)

theorem execKerbJmp_kept {s : State} (x : State) (t : State) (e : execKerbJmp x = .next t) (h : Kept s x) : Kept s t :=
  next_kept e (kerbJmp_kept _ h)

theorem execKerbLog_kept {s : State} (x : State) (t : State) (e : execKerbLog x = .next t) (h : Kept s x) : Kept s t :=
  next_kept e (kerbLog_kept _ h)

theorem execKerbDecide_kept {s : State} (x : State) (t : State) (e : execKerbDecide x = .next t) (h : Kept s x) : Kept s t :=
  next_kept e (kerbDecide_kept _ h)

theorem execKerbMov_kept {s : State} (x : State) (t : State) (e : execKerbMov x = .next t) (h : Kept s x) : Kept s t :=
  next_kept e (kerbMov_kept _ h)

theorem kerbSync_kept {s : State} (x : State) (h : Kept s x) :
    Kept s (kerbSync x) := by
  unfold kerbSync
  try dsimp only
  with_reducible repeat' first | assumption | fail_if_no_progress refine Kept.upd ?_ rfl rfl rfl rfl


theorem readTrig_kept {s : State} (x : State) (h : Kept s x) :
    Kept s (readTrig x).2 := by
  unfold readTrig
  try dsimp only
  with_reducible repeat' first | assumption | fail_if_no_progress refine Kept.upd ?_ rfl rfl rfl rfl


theorem readDecided_kept {s : State} (x : State) (h : Kept s x) :
    Kept s (readDecided x).2 := by
  unfold readDecided
  try dsimp only
  with_reducible repeat' first | assumption | fail_if_no_progress refine Kept.upd ?_ rfl rfl rfl rfl


theorem execKerbTrigRead_kept {s : State} (x : State) (t : State) (e : execKerbTrigRead x = .next t) (h : Kept s x) : Kept s t :=
  next_kept e (pageReadAs_kept _ _ _ readTrig_kept h)

theorem execKerbDecidedRead_kept {s : State} (x : State) (t : State) (e : execKerbDecidedRead x = .next t) (h : Kept s x) : Kept s t :=
  next_kept e (pageReadAs_kept _ _ _ readDecided_kept h)

theorem execKerbSwtrig_kept {s : State} (x : State) (t : State) (e : execKerbSwtrig x = .next t) (h : Kept s x) :
    Kept s t := by
  unfold execKerbSwtrig at e
  try dsimp only at e
  repeat' split at e
  all_goals first
    | (cases e; done)
    | (injection e with e; subst e)
    | skip
  all_goals
   with_reducible repeat' first | assumption | apply kerbSync_kept | apply kerbTrigger_kept


theorem kerbWrite_kept {s : State} (off : ℕ) (w : Word) (x : State) (h : Kept s x) :
    Kept s (kerbWrite off w x) := by
  unfold kerbWrite
  try dsimp only
  with_reducible repeat' first
    | assumption | apply kerbSync_kept | apply kerbTrigger_kept | split
    | fail_if_no_progress refine Kept.upd ?_ rfl rfl rfl rfl


theorem kerbLoadRun_kept {s : State} (c : Cmd) (x : State) (r t) (e : kerbLoadRun c x = .ok (r, t)) (h : Kept s x) :
    Kept s t := by
  unfold kerbLoadRun at e
  try dsimp only at e
  repeat' split at e
  all_goals first
    | (cases e; done)
    | (injection e with e; have e := congrArg Prod.snd e; dsimp only at e; subst e)
  all_goals
   with_reducible repeat' first
    | assumption | rfl | apply extendMr_kept | split | refine Kept.setPortSame ?_ rfl
    | fail_if_no_progress refine Kept.upd ?_ rfl rfl rfl rfl | apply Kept.foldl | apply Kept.foldl_fst
    | apply Kept.foldl_snd | apply Kept.ite | intro _


theorem execKerbLoad_kept {s : State} (p : Packet) (x : State) (t : State) (e : execKerbLoad p x = .next t) (h : Kept s x) : Kept s t :=
  next_kept e (plazaRun_kept _ _ _ _ _ (fun c y => immediate_kept _ c y kerbLoadRun_kept) h)

theorem kerbStartRun_kept {s : State} (c : Cmd) (x : State) (r t) (e : kerbStartRun c x = .ok (r, t)) (h : Kept s x) :
    Kept s t := by
  unfold kerbStartRun at e
  try dsimp only at e
  repeat' split at e
  all_goals first
    | (cases e; done)
    | (injection e with e; have e := congrArg Prod.snd e; dsimp only at e; subst e)
  all_goals
   with_reducible repeat' first | assumption | fail_if_no_progress refine Kept.upd ?_ rfl rfl rfl rfl


theorem execKerbStart_kept {s : State} (p : Packet) (x : State) (t : State) (e : execKerbStart p x = .next t) (h : Kept s x) : Kept s t :=
  next_kept e (plazaRun_kept _ _ _ _ _ (fun c y => immediate_kept _ c y kerbStartRun_kept) h)

theorem kerbStopRun_kept {s : State} (c : Cmd) (x : State) (h : Kept s x) :
    Kept s (kerbStopRun c x) := by
  unfold kerbStopRun
  try dsimp only
  with_reducible repeat' first
    | assumption | apply finish_kept | split | fail_if_no_progress refine Kept.upd ?_ rfl rfl rfl rfl


theorem execKerbStop_kept {s : State} (p : Packet) (x : State) (t : State) (e : execKerbStop p x = .next t) (h : Kept s x) : Kept s t :=
  next_kept e (plazaRun_kept _ _ _ _ _ kerbStopRun_kept h)

theorem kerbLogReadRun_kept {s : State} (c : Cmd) (x : State) (r t) (e : kerbLogReadRun c x = .ok (r, t)) (h : Kept s x) :
    Kept s t := by
  unfold kerbLogReadRun at e
  try dsimp only at e
  repeat' split at e
  all_goals first
    | (cases e; done)
    | (injection e with e; have e := congrArg Prod.snd e; dsimp only at e; subst e)
  all_goals
   with_reducible repeat' first | assumption | fail_if_no_progress refine Kept.upd ?_ rfl rfl rfl rfl


theorem execKerbLogRead_kept {s : State} (p : Packet) (x : State) (t : State) (e : execKerbLogRead p x = .next t) (h : Kept s x) : Kept s t :=
  next_kept e (plazaRun_kept _ _ _ _ _ (fun c y => immediate_kept _ c y kerbLogReadRun_kept) h)

end Sys2Proof.Machine
end

