-- ==== Sys2Proof/Laws/KeptBus.lean ====
section
/-! SUPPORT. Every operation of Machine/Bus.lean keeps what `Kept` says. -/

namespace Sys2Proof.Machine
open Sys2Proof


theorem readSpic_kept {s : State} (i : Fin 2) (off : ℕ) (x : State) (h : Kept s x) :
    Kept s (readSpic i off x).2 := by
  unfold readSpic
  try dsimp only
  with_reducible repeat' first | assumption | apply spicRx_kept | split


theorem readI2c_kept {s : State} (i : Fin 2) (off : ℕ) (x : State) (h : Kept s x) :
    Kept s (readI2c i off x).2 := by
  unfold readI2c
  try dsimp only
  with_reducible repeat' first | assumption | apply i2cRx_kept | split


theorem readUart_kept {s : State} (i : Fin 3) (off : ℕ) (x : State) (h : Kept s x) :
    Kept s (readUart i off x).2 := by
  unfold readUart
  try dsimp only
  with_reducible repeat' first | assumption | apply uartRx_kept | apply uartLost_kept | split


theorem readAdc_kept {s : State} (off : ℕ) (x : State) (h : Kept s x) :
    Kept s (readAdc off x).2 := by
  unfold readAdc
  try dsimp only
  with_reducible repeat' first | assumption | apply adcData_kept | apply adcLost_kept | split


theorem readDmaStatus_kept {s : State} (ch : Fin 16) (x : State) (h : Kept s x) :
    Kept s (readDmaStatus ch x).2 := by
  unfold readDmaStatus
  try dsimp only
  with_reducible repeat' first
    | assumption | rfl | split | refine Kept.setPortSame ?_ rfl
    | fail_if_no_progress refine Kept.upd ?_ rfl rfl rfl rfl | apply Kept.foldl | apply Kept.foldl_fst
    | apply Kept.foldl_snd | apply Kept.ite | intro _


theorem readDma_kept {s : State} (off : ℕ) (x : State) (h : Kept s x) :
    Kept s (readDma off x).2 := by
  unfold readDma
  try dsimp only
  with_reducible repeat' first | assumption | apply readDmaStatus_kept | split


theorem btCount_kept {s : State} (n : Fin 8) (x : State) (h : Kept s x) :
    Kept s (btCount n x).2 := by
  unfold btCount
  try dsimp only
  with_reducible repeat' first
    | assumption | rfl | apply drawWord_kept | split | refine Kept.setPortSame ?_ rfl
    | fail_if_no_progress refine Kept.upd ?_ rfl rfl rfl rfl | apply Kept.foldl | apply Kept.foldl_fst
    | apply Kept.foldl_snd | apply Kept.ite | intro _


theorem readBtim_kept {s : State} (off : ℕ) (x : State) (h : Kept s x) :
    Kept s (readBtim off x).2 := by
  unfold readBtim
  try dsimp only
  with_reducible repeat' first
    | assumption | rfl | apply btCount_kept | split | refine Kept.setPortSame ?_ rfl
    | fail_if_no_progress refine Kept.upd ?_ rfl rfl rfl rfl | apply Kept.foldl | apply Kept.foldl_fst
    | apply Kept.foldl_snd | apply Kept.ite | intro _


theorem readNtc_kept {s : State} (off : ℕ) (x : State) (h : Kept s x) :
    Kept s (readNtc off x).2 := by
  unfold readNtc
  try dsimp only
  with_reducible repeat' first
    | assumption | apply readCpLo_kept | apply readCpHi_kept | apply readCpLost_kept | apply readGlitch_kept | split


theorem readPmuEvents_kept {s : State} (x : State) (h : Kept s x) :
    Kept s (readPmuEvents x).2 := by
  unfold readPmuEvents
  try dsimp only
  with_reducible repeat' first
    | assumption | rfl | split | refine Kept.setPortSame ?_ rfl
    | fail_if_no_progress refine Kept.upd ?_ rfl rfl rfl rfl | apply Kept.foldl | apply Kept.foldl_fst
    | apply Kept.foldl_snd | apply Kept.ite | intro _


theorem readPmu_kept {s : State} (off : ℕ) (x : State) (h : Kept s x) :
    Kept s (readPmu off x).2 := by
  unfold readPmu
  try dsimp only
  with_reducible repeat' first | assumption | apply readPmuEvents_kept | split


theorem execPmuEventsRead_kept {s : State} (x : State) (t : State) (e : execPmuEventsRead x = .next t) (h : Kept s x) : Kept s t :=
  next_kept e (pageReadAs_kept _ _ _ readPmuEvents_kept h)

theorem readKerb_kept {s : State} (off : ℕ) (x : State) (h : Kept s x) :
    Kept s (readKerb off x).2 := by
  unfold readKerb
  try dsimp only
  with_reducible repeat' first | assumption | apply readTrig_kept | apply readDecided_kept | split


theorem readMbx_kept {s : State} (off : ℕ) (x : State) (h : Kept s x) :
    Kept s (readMbx off x).2 := by
  unfold readMbx
  try dsimp only
  with_reducible repeat' first | assumption | apply mbxLane_kept | split


theorem setGpio_kept {s : State} (p : Fin 4) (f : GpioPort → GpioPort) (x : State) (h : Kept s x) :
    Kept s (setGpio p f x) := by
  unfold setGpio
  try dsimp only
  with_reducible repeat' first
    | assumption | apply withEdges_kept | fail_if_no_progress refine Kept.upd ?_ rfl rfl rfl rfl | intro _


theorem writeGpio_kept {s : State} (off : ℕ) (w : Word) (x : State) (h : Kept s x) :
    Kept s (writeGpio off w x) := by
  unfold writeGpio
  try dsimp only
  with_reducible repeat' first | assumption | apply setOut_kept | apply setGpio_kept | split


theorem writeSpic_kept {s : State} (i : Fin 2) (off : ℕ) (w : Word) (x : State) (h : Kept s x) :
    Kept s (writeSpic i off w x) := by
  unfold writeSpic
  try dsimp only
  with_reducible repeat' first | assumption | apply setSpic_kept | split


theorem writeI2c_kept {s : State} (i : Fin 2) (off : ℕ) (w : Word) (x : State) (h : Kept s x) :
    Kept s (writeI2c i off w x) := by
  unfold writeI2c
  try dsimp only
  with_reducible repeat' first | assumption | apply setI2c_kept | apply i2cCmd_kept | split


theorem writeUart_kept {s : State} (i : Fin 3) (off : ℕ) (w : Word) (x : State) (h : Kept s x) :
    Kept s (writeUart i off w x) := by
  unfold writeUart
  try dsimp only
  with_reducible repeat' first | assumption | apply setUart_kept | split


theorem writeAdc_kept {s : State} (off : ℕ) (w : Word) (x : State) (h : Kept s x) :
    Kept s (writeAdc off w x) := by
  unfold writeAdc
  try dsimp only
  with_reducible repeat' first
    | assumption | apply adcTrigger_kept | split | fail_if_no_progress refine Kept.upd ?_ rfl rfl rfl rfl


theorem writeBtCtrl_kept {s : State} (n : Fin 8) (w : Word) (x : State) (h : Kept s x) :
    Kept s (writeBtCtrl n w x) := by
  unfold writeBtCtrl
  try dsimp only
  with_reducible repeat' first
    | assumption | rfl | apply drawBool_kept | split | refine Kept.setPortSame ?_ rfl
    | fail_if_no_progress refine Kept.upd ?_ rfl rfl rfl rfl | apply Kept.foldl | apply Kept.foldl_fst
    | apply Kept.foldl_snd | apply Kept.ite | intro _


theorem writeBtim_kept {s : State} (off : ℕ) (w : Word) (x : State) (h : Kept s x) :
    Kept s (writeBtim off w x) := by
  unfold writeBtim
  try dsimp only
  with_reducible repeat' first
    | assumption | rfl | apply writeBtCtrl_kept | split | refine Kept.setPortSame ?_ rfl
    | fail_if_no_progress refine Kept.upd ?_ rfl rfl rfl rfl | apply Kept.foldl | apply Kept.foldl_fst
    | apply Kept.foldl_snd | apply Kept.ite | intro _


theorem writeTarget_kept {s : State} (n : Fin 8) (high : Bool) (w : Word) (x : State) (h : Kept s x) :
    Kept s (writeTarget n high w x) := by
  unfold writeTarget
  try dsimp only
  with_reducible repeat' first | assumption | split | fail_if_no_progress refine Kept.upd ?_ rfl rfl rfl rfl


theorem clearMkStatus_kept {s : State} (w : Word) (x : State) (h : Kept s x) :
    Kept s (clearMkStatus w x) := by
  unfold clearMkStatus
  try dsimp only
  with_reducible repeat' first | assumption | fail_if_no_progress refine Kept.upd ?_ rfl rfl rfl rfl


theorem writeNtc_kept {s : State} (off : ℕ) (w : Word) (x : State) (h : Kept s x) :
    Kept s (writeNtc off w x) := by
  unfold writeNtc
  try dsimp only
  with_reducible repeat' first
    | assumption | apply writeTarget_kept | apply writeMkCtrl_kept | apply swtrig_kept | apply clearMkStatus_kept
    | split | fail_if_no_progress refine Kept.upd ?_ rfl rfl rfl rfl


theorem swSet_kept {s : State} (w : Word) (x : State) (h : Kept s x) :
    Kept s (swSet w x) := by
  unfold swSet
  try dsimp only
  with_reducible repeat' first
    | assumption | rfl | split | refine Kept.setPortSame ?_ rfl
    | fail_if_no_progress refine Kept.upd ?_ rfl rfl rfl rfl | apply Kept.foldl | apply Kept.foldl_fst
    | apply Kept.foldl_snd | apply Kept.ite | intro _


theorem swClr_kept {s : State} (w : Word) (x : State) (h : Kept s x) :
    Kept s (swClr w x) := by
  unfold swClr
  try dsimp only
  with_reducible repeat' first
    | assumption | rfl | split | refine Kept.setPortSame ?_ rfl
    | fail_if_no_progress refine Kept.upd ?_ rfl rfl rfl rfl | apply Kept.foldl | apply Kept.foldl_fst
    | apply Kept.foldl_snd | apply Kept.ite | intro _


theorem execIntcSwset_kept {s : State} (w : Word) (x : State) (t : State) (e : execIntcSwset w x = .next t) (h : Kept s x) :
    Kept s t := by
  unfold execIntcSwset at e
  try dsimp only at e
  repeat' split at e
  all_goals first
    | (cases e; done)
    | (injection e with e; subst e)
    | skip
  all_goals
   with_reducible repeat' first | assumption | apply swSet_kept


theorem execIntcSwclr_kept {s : State} (w : Word) (x : State) (t : State) (e : execIntcSwclr w x = .next t) (h : Kept s x) :
    Kept s t := by
  unfold execIntcSwclr at e
  try dsimp only at e
  repeat' split at e
  all_goals first
    | (cases e; done)
    | (injection e with e; subst e)
    | skip
  all_goals
   with_reducible repeat' first | assumption | apply swClr_kept


theorem writeIntc_kept {s : State} (off : ℕ) (w : Word) (x : State) (h : Kept s x) :
    Kept s (writeIntc off w x) := by
  unfold writeIntc
  try dsimp only
  with_reducible repeat' first
    | assumption | rfl | apply swSet_kept | apply swClr_kept | split | refine Kept.setPortSame ?_ rfl
    | fail_if_no_progress refine Kept.upd ?_ rfl rfl rfl rfl | apply Kept.foldl | apply Kept.foldl_fst
    | apply Kept.foldl_snd | apply Kept.ite | intro _


theorem writePad_kept {s : State} (off : ℕ) (w : Word) (x : State) (h : Kept s x) :
    Kept s (writePad off w x) := by
  unfold writePad
  try dsimp only
  with_reducible repeat' first
    | assumption | apply withEdges_kept | split | fail_if_no_progress refine Kept.upd ?_ rfl rfl rfl rfl | intro _


theorem writeMbx_kept {s : State} (off : ℕ) (w : Word) (x : State) (h : Kept s x) :
    Kept s (writeMbx off w x) := by
  unfold writeMbx
  try dsimp only
  with_reducible repeat' first | assumption | apply mbxStore_kept | apply mbxWrite_kept | split


theorem setCh_kept {s : State} (ch : Fin 16) (f : DmaCh → DmaCh) (x : State) (h : Kept s x) :
    Kept s (setCh ch f x) := by
  unfold setCh
  try dsimp only
  with_reducible repeat' first | assumption | fail_if_no_progress refine Kept.upd ?_ rfl rfl rfl rfl


theorem sramWrite_kept {s : State} (a n : Nat) (w : Word) (x : State) (h : Kept s x) : Kept s (sramWrite a n w x) :=
  h.trans ⟨rfl, fun k => ⟨wf_memWriteList _ _ _ _ k.1, k.2⟩, id, id, fun _ _ k => k⟩

theorem dmaStop_kept {s : State} (ch : Fin 16) (err : ℕ) (halted : Bool) (x : State) (h : Kept s x) :
    Kept s (dmaStop ch err halted x) := by
  unfold dmaStop
  try dsimp only
  with_reducible repeat' first
    | assumption | rfl | apply setCh_kept | split | refine Kept.setPortSame ?_ rfl
    | fail_if_no_progress refine Kept.upd ?_ rfl rfl rfl rfl | apply Kept.foldl | apply Kept.foldl_fst
    | apply Kept.foldl_snd | apply Kept.ite | intro _


theorem dmaLoad_kept {s : State} (ch : Fin 16) (d : Word) (x : State) (h : Kept s x) :
    Kept s (dmaLoad ch d x) := by
  unfold dmaLoad
  try dsimp only
  with_reducible repeat' first
    | assumption | rfl | apply dmaStop_kept | apply setCh_kept | split | refine Kept.setPortSame ?_ rfl
    | fail_if_no_progress refine Kept.upd ?_ rfl rfl rfl rfl | apply Kept.foldl | apply Kept.foldl_fst
    | apply Kept.foldl_snd | apply Kept.ite | intro _


theorem dmaWriteBack_kept {s : State} (ch : Fin 16) (code : ℕ) (x : State) (h : Kept s x) :
    Kept s (dmaWriteBack ch code x) := by
  unfold dmaWriteBack
  try dsimp only
  with_reducible repeat' first | assumption | apply sramWrite_kept | split


theorem dmaHalt_kept {s : State} (code : ℕ) (err : ℕ) (ch : Fin 16) (x : State) (h : Kept s x) :
    Kept s (dmaHalt code err ch x) := by
  unfold dmaHalt
  try dsimp only
  with_reducible repeat' first | assumption | apply dmaStop_kept | apply dmaWriteBack_kept | split


theorem writeChCtrl_kept {s : State} (ch : Fin 16) (w : Word) (x : State) (h : Kept s x) :
    Kept s (writeChCtrl ch w x) := by
  unfold writeChCtrl
  try dsimp only
  with_reducible repeat' first
    | assumption | rfl | apply setCh_kept | apply dmaHalt_kept | apply dmaLoad_kept | split
    | refine Kept.setPortSame ?_ rfl | fail_if_no_progress refine Kept.upd ?_ rfl rfl rfl rfl | apply Kept.foldl
    | apply Kept.foldl_fst | apply Kept.foldl_snd | apply Kept.ite | intro _


theorem dmaSwreq_kept {s : State} (w : Word) (x : State) (h : Kept s x) :
    Kept s (dmaSwreq w x) := by
  unfold dmaSwreq
  try dsimp only
  with_reducible repeat' first | assumption | apply dmaEvent_kept | split | apply Kept.foldl | intro _


theorem execDmaSwreq_kept {s : State} (w : Word) (x : State) (t : State) (e : execDmaSwreq w x = .next t) (h : Kept s x) :
    Kept s t := by
  unfold execDmaSwreq at e
  try dsimp only at e
  repeat' split at e
  all_goals first
    | (cases e; done)
    | (injection e with e; subst e)
    | skip
  all_goals
   with_reducible repeat' first | assumption | apply dmaSwreq_kept


theorem execDmaChannelEnable_kept {s : State} (ch : Fin 16) (ctrl : Word) (x : State) (t : State) (e : execDmaChannelEnable ch ctrl x = .next t) (h : Kept s x) :
    Kept s t := by
  unfold execDmaChannelEnable at e
  try dsimp only at e
  repeat' split at e
  all_goals first
    | (cases e; done)
    | (injection e with e; subst e)
    | skip
  all_goals
   with_reducible repeat' first | assumption | apply writeChCtrl_kept


theorem execDmaAbort_kept {s : State} (ch : Fin 16) (x : State) (t : State) (e : execDmaAbort ch x = .next t) (h : Kept s x) :
    Kept s t := by
  unfold execDmaAbort at e
  try dsimp only at e
  repeat' split at e
  all_goals first
    | (cases e; done)
    | (injection e with e; subst e)
    | skip
  all_goals
   with_reducible repeat' first | assumption | apply writeChCtrl_kept


theorem execDmaChStatusRead_kept {s : State} (ch : Fin 16) (x : State) (t : State) (e : execDmaChStatusRead ch x = .next t) (h : Kept s x) : Kept s t :=
  next_kept e (pageReadAs_kept _ _ _ (readDmaStatus_kept _) h)

theorem writeDma_kept {s : State} (off : ℕ) (w : Word) (x : State) (h : Kept s x) :
    Kept s (writeDma off w x) := by
  unfold writeDma
  try dsimp only
  with_reducible repeat' first
    | assumption | rfl | apply writeChCtrl_kept | apply setCh_kept | apply dmaSwreq_kept | split
    | refine Kept.setPortSame ?_ rfl | fail_if_no_progress refine Kept.upd ?_ rfl rfl rfl rfl | apply Kept.foldl
    | apply Kept.foldl_fst | apply Kept.foldl_snd | apply Kept.ite | intro _


theorem pageRead_kept {s : State} (a : ℕ) (x : State) (h : Kept s x) :
    Kept s (pageRead a x).2 := by
  unfold pageRead
  try dsimp only
  with_reducible repeat' first
    | assumption | apply readMbx_kept | apply readSpic_kept | apply readI2c_kept | apply readUart_kept
    | apply readAdc_kept | apply readDma_kept | apply readBtim_kept | apply readNtc_kept | apply readKerb_kept
    | apply readPmu_kept | split


theorem pageWrite_kept {s : State} (a : ℕ) (w : Word) (x : State) (h : Kept s x) :
    Kept s (pageWrite a w x) := by
  unfold pageWrite
  try dsimp only
  with_reducible repeat' first
    | assumption | apply writeMbx_kept | apply writeGpio_kept | apply writeSpic_kept | apply writeI2c_kept
    | apply writeUart_kept | apply writeAdc_kept | apply writeDma_kept | apply writeBtim_kept | apply writeNtc_kept
    | apply writeIntc_kept | apply writePad_kept | apply kerbWrite_kept | split


theorem sramOrSaved_kept {s : State} (a : ℕ) (n : ℕ) (x : State) (h : Kept s x) :
    Kept s (sramOrSaved a n x).2 := by
  unfold sramOrSaved
  try dsimp only
  with_reducible repeat' first
    | assumption | rfl | apply drawWord_kept | split | refine Kept.setPortSame ?_ rfl
    | fail_if_no_progress refine Kept.upd ?_ rfl rfl rfl rfl | apply Kept.foldl | apply Kept.foldl_fst
    | apply Kept.foldl_snd | apply Kept.ite | intro _


theorem busRead_kept {s : State} (a : ℕ) (n : ℕ) (x : State) (r t) (e : busRead a n x = .ok (r, t)) (h : Kept s x) :
    Kept s t := by
  unfold busRead at e
  try extract_lets at e
  repeat' split at e
  all_goals first
    | (cases e; done)
    | (injection e with e; have e := congrArg Prod.snd e; dsimp only at e; subst e)
  all_goals
   with_reducible repeat' first
    | assumption | rfl | apply drawWord_kept | apply sramOrSaved_kept | apply pageRead_kept | split
    | refine Kept.setPortSame ?_ rfl | fail_if_no_progress refine Kept.upd ?_ rfl rfl rfl rfl | apply Kept.foldl
    | apply Kept.foldl_fst | apply Kept.foldl_snd | apply Kept.ite | intro _


theorem busWrite_kept {s : State} (a : ℕ) (n : ℕ) (w : Word) (x : State) (t : State) (e : busWrite a n w x = .ok t) (h : Kept s x) :
    Kept s t := by
  unfold busWrite at e
  try dsimp only at e
  repeat' split at e
  all_goals first
    | (cases e; done)
    | (injection e with e; subst e)
  all_goals
   with_reducible repeat' first | assumption | apply sramWrite_kept | apply pageWrite_kept


theorem registerWrite_kept {s : State} (a : Word) (w : Word) (x : State) (h : Kept s x) :
    Kept s (registerWrite a w x) := by
  unfold registerWrite
  try dsimp only
  with_reducible repeat' first
    | assumption | rfl | refine busWrite_kept _ _ _ _ _ ‹_› ?_ | split | refine Kept.setPortSame ?_ rfl
    | fail_if_no_progress refine Kept.upd ?_ rfl rfl rfl rfl | apply Kept.foldl | apply Kept.foldl_fst
    | apply Kept.foldl_snd | apply Kept.ite | intro _


theorem execRegisterWrite_kept {s : State} (addr : Word) (value : Word) (x : State) (t : State) (e : execRegisterWrite addr value x = .next t) (h : Kept s x) : Kept s t :=
  next_kept e (registerWrite_kept _ _ _ h)

theorem dmaRead_kept {s : State} (size : ℕ) (a : ℕ) (x : State) (r t) (e : dmaRead size a x = some (r, t)) (h : Kept s x) :
    Kept s t := by
  unfold dmaRead at e
  try dsimp only at e
  repeat' split at e
  all_goals first
    | (cases e; done)
    | (injection e with e; have e := congrArg Prod.snd e; dsimp only at e; subst e)
  all_goals
   with_reducible repeat' first
    | assumption | rfl | apply sramOrSaved_kept | apply pageRead_kept | split | refine Kept.setPortSame ?_ rfl
    | fail_if_no_progress refine Kept.upd ?_ rfl rfl rfl rfl | apply Kept.foldl | apply Kept.foldl_fst
    | apply Kept.foldl_snd | apply Kept.ite | intro _


theorem dmaWrite_kept {s : State} (size : ℕ) (a : ℕ) (w : Word) (x : State) (h : Kept s x) :
    Kept s (dmaWrite size a w x).1 := by
  unfold dmaWrite
  try dsimp only
  with_reducible repeat' first
    | assumption | rfl | apply sramWrite_kept | apply overrunAt_kept | apply pageWrite_kept | split
    | refine Kept.setPortSame ?_ rfl | fail_if_no_progress refine Kept.upd ?_ rfl rfl rfl rfl | apply Kept.foldl
    | apply Kept.foldl_fst | apply Kept.foldl_snd | apply Kept.ite | intro _


theorem dmaDescEnd_kept {s : State} (ch : Fin 16) (x : State) (h : Kept s x) :
    Kept s (dmaDescEnd ch x) := by
  unfold dmaDescEnd
  try dsimp only
  with_reducible repeat' first
    | assumption | apply dmaWriteBack_kept | apply dmaStop_kept | apply dmaLoad_kept | split
    | fail_if_no_progress refine Kept.upd ?_ rfl rfl rfl rfl


theorem dmaItem_kept {s : State} (ch : Fin 16) (x : State) (h : Kept s x) : Kept s (dmaItem ch x).1 := by
  unfold dmaItem
  dsimp only
  split
  · dsimp only
    exact dmaStop_kept _ _ _ _ (dmaWriteBack_kept _ _ _ h)
  · rename_i w s1 e
    have k1 := dmaRead_kept _ _ _ _ _ e h
    have k2 := dmaWrite_kept x.peri.dma[ch].size x.peri.dma[ch].dst.toNat w s1 k1
    split
    · rename_i s2 e2
      rw [e2] at k2
      dsimp only at k2 ⊢
      exact dmaStop_kept _ _ _ _ (dmaWriteBack_kept _ _ _ k2)
    · rename_i s2 e2
      rw [e2] at k2
      dsimp only at k2 ⊢
      split
      · exact dmaDescEnd_kept _ _ (setCh_kept _ _ _ k2)
      · dsimp only
        exact setCh_kept _ _ _ k2

theorem dmaItems_kept {s : State} (ch : Fin 16) (event : Bool) (n : Nat) (x : State) (h : Kept s x) :
    Kept s (dmaItems ch event n x).1 := by
  induction n generalizing x with
  | zero => exact h
  | succ n ih =>
    unfold dmaItems
    dsimp only
    repeat' split
    · exact h
    · exact dmaItem_kept _ _ h
    · exact dmaItem_kept _ _ h
    · exact ih _ (dmaItem_kept _ _ h)

theorem dmaBurst_kept {s : State} (x : State) (h : Kept s x) :
    Kept s (dmaBurst x) := by
  unfold dmaBurst
  try dsimp only
  repeat' first
    | with_reducible assumption | with_reducible rfl | with_reducible apply dmaItems_kept
    | with_reducible apply setCh_kept | split | with_reducible refine Kept.setPortSame ?_ rfl
    | fail_if_no_progress with_reducible refine Kept.upd ?_ rfl rfl rfl rfl | with_reducible apply Kept.foldl
    | with_reducible apply Kept.foldl_fst | with_reducible apply Kept.foldl_snd | with_reducible apply Kept.ite
    | intro _


theorem dmaDrain_kept {s : State} (fuel cycles : Nat) (x : State) (h : Kept s x) : Kept s (dmaDrain fuel cycles x) := by
  induction fuel generalizing cycles x with
  | zero => exact h
  | succ n ih =>
    unfold dmaDrain
    dsimp only
    repeat' split
    · exact h
    · exact h
    · exact h
    · exact ih _ _ (dmaItem_kept _ _ (h.same rfl rfl rfl rfl rfl rfl rfl))

theorem execDmaBurst_kept {s : State} (x : State) (t : State) (e : execDmaBurst x = .next t) (h : Kept s x) : Kept s t :=
  next_kept e (dmaBurst_kept _ h)

end Sys2Proof.Machine
end

