-- ==== Sys2Proof/Laws/KeptAppCore.lean ====
section
/-! SUPPORT. Every operation of Machine/AppCore.lean keeps what `Kept` says. -/

namespace Sys2Proof.Machine
open Sys2Proof

/-- What an instruction's end keeps. -/
def EKept (s : State) : Ended → Prop
  | .seq t => Kept s t
  | .goto _ t => Kept s t
  | .transfer _ _ _ t => Kept s t
  | .exc _ t => Kept s t

theorem EKept.seq {s t : State} (h : Kept s t) : EKept s (.seq t) := h
theorem EKept.goto {s t : State} {a : Word} (h : Kept s t) : EKept s (.goto a t) := h
theorem EKept.transfer {s t : State} {a : Word} {k : Bool} {w : Option Word} (h : Kept s t) : EKept s (.transfer a k w t) := h
theorem EKept.exc {s t : State} {e : Exc} (h : Kept s t) : EKept s (.exc e t) := h
theorem EKept.ite {s : State} {a b : Ended} {c : Prop} [Decidable c] (ha : EKept s a) (hb : EKept s b) :
    EKept s (if c then a else b) := by
  split <;> assumption

theorem coreStart_kept {s : State} (cause : ℕ) (x : State) (h : Kept s x) :
    Kept s (coreStart cause x) := by
  unfold coreStart
  try dsimp only
  with_reducible repeat' first
    | assumption | rfl | refine busRead_kept _ _ _ _ _ ‹_› ?_ | split | refine Kept.setPortSame ?_ rfl
    | fail_if_no_progress refine Kept.upd ?_ rfl rfl rfl rfl | apply Kept.foldl | apply Kept.foldl_fst
    | apply Kept.foldl_snd | apply Kept.ite | intro _


theorem coreHold_kept {s : State} (x : State) (h : Kept s x) :
    Kept s (coreHold x) := by
  unfold coreHold
  try dsimp only
  with_reducible repeat' first
    | assumption | rfl | split | refine Kept.setPortSame ?_ rfl
    | fail_if_no_progress refine Kept.upd ?_ rfl rfl rfl rfl | apply Kept.foldl | apply Kept.foldl_fst
    | apply Kept.foldl_snd | apply Kept.ite | intro _


theorem rg_kept {s : State} (r0 : BitVec 5) (x : State) (h : Kept s x) :
    Kept s (rg r0 x).2 := by
  unfold rg
  try dsimp only
  with_reducible repeat' first | assumption | apply drawWord_kept | split


theorem wr_kept {s : State} (r0 : BitVec 5) (w : Word) (x : State) (h : Kept s x) :
    Kept s (wr r0 w x) := by
  unfold wr
  try dsimp only
  with_reducible repeat' first
    | assumption | rfl | apply drawWord_kept | split | refine Kept.setPortSame ?_ rfl
    | fail_if_no_progress refine Kept.upd ?_ rfl rfl rfl rfl | apply Kept.foldl | apply Kept.foldl_fst
    | apply Kept.foldl_snd | apply Kept.ite | intro _


theorem hazard_kept {s : State} (r0 : BitVec 5) (d : ℕ) (x : State) (h : Kept s x) :
    Kept s (hazard r0 d x) := by
  unfold hazard
  try dsimp only
  with_reducible repeat' first
    | assumption | rfl | split | refine Kept.setPortSame ?_ rfl
    | fail_if_no_progress refine Kept.upd ?_ rfl rfl rfl rfl | apply Kept.foldl | apply Kept.foldl_fst
    | apply Kept.foldl_snd | apply Kept.ite | intro _


theorem age_kept {s : State} (x : State) (h : Kept s x) :
    Kept s (age x) := by
  unfold age
  try dsimp only
  with_reducible repeat' first
    | assumption | rfl | split | refine Kept.setPortSame ?_ rfl
    | fail_if_no_progress refine Kept.upd ?_ rfl rfl rfl rfl | apply Kept.foldl | apply Kept.foldl_fst
    | apply Kept.foldl_snd | apply Kept.ite | intro _


theorem settled_kept {s : State} (sr : ℕ) (new : Word) (x : State) (h : Kept s x) :
    Kept s (settled sr new x).2 := by
  unfold settled
  try dsimp only
  with_reducible repeat' first | assumption | apply drawBool_kept | split


theorem fetchAt_kept {s : State} (x : State) (h : Kept s x) :
    Kept s (fetchAt x) := by
  unfold fetchAt
  try dsimp only
  with_reducible repeat' first
    | assumption | rfl | apply settled_kept | split | refine Kept.setPortSame ?_ rfl
    | fail_if_no_progress refine Kept.upd ?_ rfl rfl rfl rfl | apply Kept.foldl | apply Kept.foldl_fst
    | apply Kept.foldl_snd | apply Kept.ite | intro _


theorem entryFailed_kept {s : State} (a : Word) (kind : Option ℕ) (x : State) (h : Kept s x) :
    Kept s (entryFailed a kind x).1 := by
  unfold entryFailed
  try dsimp only
  with_reducible repeat' first
    | assumption | rfl | split | refine Kept.setPortSame ?_ rfl
    | fail_if_no_progress refine Kept.upd ?_ rfl rfl rfl rfl | apply Kept.foldl | apply Kept.foldl_fst
    | apply Kept.foldl_snd | apply Kept.ite | intro _


theorem entryFrame_kept {s : State} (v : ℕ) (resume : Word) (status : Word) (x : State) (h : Kept s x) :
    Kept s (entryFrame v resume status x).1 := by
  unfold entryFrame
  try dsimp only
  with_reducible repeat' first
    | assumption | rfl | apply entryFailed_kept | refine busWrite_kept _ _ _ _ _ ‹_› ?_
    | refine busRead_kept _ _ _ _ _ ‹_› ?_ | split | refine Kept.setPortSame ?_ rfl
    | fail_if_no_progress refine Kept.upd ?_ rfl rfl rfl rfl | apply Kept.foldl | apply Kept.foldl_fst
    | apply Kept.foldl_snd | apply Kept.ite | intro _


theorem loopNext_kept {s : State} (n : Nat) (x : State) (h : Kept s x) : Kept s (loopNext n x).2 := by
  induction n generalizing x with
  | zero => exact h
  | succ n ih =>
    unfold loopNext
    extract_lets k e c b sp s1
    have kc : Kept s c.2 := settled_kept _ _ _ (settled_kept _ _ _ h)
    have kb : Kept s b.2 := settled_kept _ _ _ kc
    split
    · exact kb.same rfl rfl rfl rfl rfl rfl rfl
    · exact ih _ kc

theorem faultRestart_kept {s : State} (x : State) (h : Kept s x) :
    Kept s (faultRestart x) := by
  unfold faultRestart
  try dsimp only
  with_reducible repeat' first
    | assumption | rfl | apply coreStart_kept | split | refine Kept.setPortSame ?_ rfl
    | fail_if_no_progress refine Kept.upd ?_ rfl rfl rfl rfl | apply Kept.foldl | apply Kept.foldl_fst
    | apply Kept.foldl_snd | apply Kept.ite | intro _


theorem noteExc_kept {s : State} (e0 : Exc) (slot : Bool) (x : State) (h : Kept s x) :
    Kept s (noteExc e0 slot x) := by
  unfold noteExc
  try dsimp only
  with_reducible repeat' first
    | assumption | rfl | split | refine Kept.setPortSame ?_ rfl
    | fail_if_no_progress refine Kept.upd ?_ rfl rfl rfl rfl | apply Kept.foldl | apply Kept.foldl_fst
    | apply Kept.foldl_snd | apply Kept.ite | intro _


theorem entryFrame_fst {s : State} {v : Nat} {resume status : Word} {x t : State} {o : Option Word}
    (e : entryFrame v resume status x = (t, o)) (h : Kept s x) : Kept s t := by
  have := entryFrame_kept v resume status x h
  rwa [e] at this

theorem takeExc_kept {s : State} (e : Exc) (x : State) (h : Kept s x) : Kept s (takeExc e x) := by
  have k0 : ∀ y, Kept s y → Kept s (noteExc e x.core.slot.isSome y) := fun y hy => hy.same rfl rfl rfl rfl rfl rfl rfl
  have ks := settled_kept 16 x.core.status x h
  unfold takeExc
  dsimp only
  generalize settled 16 x.core.status x = st at ks ⊢
  have ka : Kept s (if e.next = true then loopNext 3 st.2 else (x.core.pc, st.2)).2 := by
    split
    · exact loopNext_kept _ _ ks
    · exact ks
  generalize (if e.next = true then loopNext 3 st.2 else (x.core.pc, st.2)) = after at ka ⊢
  have k1 : Kept s { noteExc e x.core.slot.isSome after.2 with
      core.slot := none, core.slotStatus := none, core.slotTaken := false } :=
    (k0 _ ka).same rfl rfl rfl rfl rfl rfl rfl
  split
  · exact faultRestart_kept _ k1
  · split
    · rename_i e2
      exact faultRestart_kept _ (entryFrame_fst e2 k1)
    · rename_i e2
      exact Kept.same (entryFrame_fst e2 k1) rfl rfl rfl rfl rfl rfl rfl

theorem advance_kept {s : State} (x : State) (h : Kept s x) :
    Kept s (advance x) := by
  unfold advance
  try dsimp only
  with_reducible repeat' first
    | assumption | rfl | apply age_kept | apply loopNext_kept | split | refine Kept.setPortSame ?_ rfl
    | fail_if_no_progress refine Kept.upd ?_ rfl rfl rfl rfl | apply Kept.foldl | apply Kept.foldl_fst
    | apply Kept.foldl_snd | apply Kept.ite | intro _


/-- The end of an instruction. -/
theorem conclude_kept {s : State} (r : Ended) (h : EKept s r) : Kept s (conclude r) := by
  cases r with
  | seq t => exact advance_kept _ h
  | goto a t => exact age_kept _ (Kept.same (x := t) h rfl rfl rfl rfl rfl rfl rfl)
  | transfer a k w t => exact age_kept _ (Kept.same (x := t) h rfl rfl rfl rfl rfl rfl rfl)
  | exc e t => exact takeExc_kept _ _ h

theorem pbRow_kept {s : State} (f : State → Ended) (x : State) (hf : ∀ y, Kept s y → EKept s (f y)) (h : Kept s x) :
    Kept s (pbRow f x) := by
  have k0 : Kept s { x with core.waiting := false, core.cycles := x.core.cycles + 1 } := h.same rfl rfl rfl rfl rfl rfl rfl
  unfold pbRow
  split
  · exact h
  · dsimp only
    split
    · exact takeExc_kept _ _ k0
    · exact conclude_kept _ (hf _ (fetchAt_kept _ k0))

theorem pb_kept {s : State} (f : State → Ended) (x t : State) (e : pb f x = .next t)
    (hf : ∀ y, Kept s y → EKept s (f y)) (h : Kept s x) : Kept s t := by
  injection e with e
  exact e ▸ pbRow_kept f x hf h

theorem pbNoSlot_kept {s : State} (f : State → Ended) (x t : State) (e : pbNoSlot f x = .next t)
    (hf : ∀ y, Kept s y → EKept s (f y)) (h : Kept s x) : Kept s t := by
  unfold pbNoSlot at e
  repeat' split at e
  all_goals first
    | (cases e; done)
    | (injection e with e; exact e ▸ pbRow_kept f x hf h)

theorem pbTransfer_kept {s : State} (f : State → Ended) (x t : State) (e : pbTransfer f x = .next t)
    (hf : ∀ y, Kept s y → EKept s (f y)) (h : Kept s x) : Kept s t := by
  unfold pbTransfer at e
  repeat' split at e
  all_goals first
    | (cases e; done)
    | (injection e with e; exact e ▸ pbRow_kept f x hf h)

theorem alu2_kept {s : State} (op : Word → Word → Word) (rd : BitVec 5) (ra : BitVec 5) (rb : BitVec 5) (x : State) (h : Kept s x) :
    EKept s (alu2 op rd ra rb x) := by
  unfold alu2
  try dsimp only
  with_reducible repeat' first | assumption | apply rg_kept | apply wr_kept | refine EKept.seq ?_


theorem alu1_kept {s : State} (op : Word → Word) (rd : BitVec 5) (ra : BitVec 5) (x : State) (h : Kept s x) :
    EKept s (alu1 op rd ra x) := by
  unfold alu1
  try dsimp only
  with_reducible repeat' first | assumption | apply rg_kept | apply wr_kept | refine EKept.seq ?_


theorem execPbAdd_kept {s : State} (rd : BitVec 5) (ra : BitVec 5) (rb : BitVec 5) (x : State) (t : State) (e : execPbAdd rd ra rb x = .next t) (h : Kept s x) : Kept s t :=
  pb_kept _ _ _ e (alu2_kept _ _ _ _) h

theorem execPbSub_kept {s : State} (rd : BitVec 5) (ra : BitVec 5) (rb : BitVec 5) (x : State) (t : State) (e : execPbSub rd ra rb x = .next t) (h : Kept s x) : Kept s t :=
  pb_kept _ _ _ e (alu2_kept _ _ _ _) h

theorem execPbAnd_kept {s : State} (rd : BitVec 5) (ra : BitVec 5) (rb : BitVec 5) (x : State) (t : State) (e : execPbAnd rd ra rb x = .next t) (h : Kept s x) : Kept s t :=
  pb_kept _ _ _ e (alu2_kept _ _ _ _) h

theorem execPbOr_kept {s : State} (rd : BitVec 5) (ra : BitVec 5) (rb : BitVec 5) (x : State) (t : State) (e : execPbOr rd ra rb x = .next t) (h : Kept s x) : Kept s t :=
  pb_kept _ _ _ e (alu2_kept _ _ _ _) h

theorem execPbXor_kept {s : State} (rd : BitVec 5) (ra : BitVec 5) (rb : BitVec 5) (x : State) (t : State) (e : execPbXor rd ra rb x = .next t) (h : Kept s x) : Kept s t :=
  pb_kept _ _ _ e (alu2_kept _ _ _ _) h

theorem execPbNor_kept {s : State} (rd : BitVec 5) (ra : BitVec 5) (rb : BitVec 5) (x : State) (t : State) (e : execPbNor rd ra rb x = .next t) (h : Kept s x) : Kept s t :=
  pb_kept _ _ _ e (alu2_kept _ _ _ _) h

theorem execPbSlt_kept {s : State} (rd : BitVec 5) (ra : BitVec 5) (rb : BitVec 5) (x : State) (t : State) (e : execPbSlt rd ra rb x = .next t) (h : Kept s x) : Kept s t :=
  pb_kept _ _ _ e (alu2_kept _ _ _ _) h

theorem execPbSltu_kept {s : State} (rd : BitVec 5) (ra : BitVec 5) (rb : BitVec 5) (x : State) (t : State) (e : execPbSltu rd ra rb x = .next t) (h : Kept s x) : Kept s t :=
  pb_kept _ _ _ e (alu2_kept _ _ _ _) h

theorem execPbSll_kept {s : State} (rd : BitVec 5) (ra : BitVec 5) (rb : BitVec 5) (x : State) (t : State) (e : execPbSll rd ra rb x = .next t) (h : Kept s x) : Kept s t :=
  pb_kept _ _ _ e (alu2_kept _ _ _ _) h

theorem execPbSrl_kept {s : State} (rd : BitVec 5) (ra : BitVec 5) (rb : BitVec 5) (x : State) (t : State) (e : execPbSrl rd ra rb x = .next t) (h : Kept s x) : Kept s t :=
  pb_kept _ _ _ e (alu2_kept _ _ _ _) h

theorem execPbSra_kept {s : State} (rd : BitVec 5) (ra : BitVec 5) (rb : BitVec 5) (x : State) (t : State) (e : execPbSra rd ra rb x = .next t) (h : Kept s x) : Kept s t :=
  pb_kept _ _ _ e (alu2_kept _ _ _ _) h

theorem execPbSlli_kept {s : State} (rd : BitVec 5) (ra : BitVec 5) (sh : BitVec 5) (x : State) (t : State) (e : execPbSlli rd ra sh x = .next t) (h : Kept s x) : Kept s t :=
  pb_kept _ _ _ e (alu1_kept _ _ _) h

theorem execPbSrli_kept {s : State} (rd : BitVec 5) (ra : BitVec 5) (sh : BitVec 5) (x : State) (t : State) (e : execPbSrli rd ra sh x = .next t) (h : Kept s x) : Kept s t :=
  pb_kept _ _ _ e (alu1_kept _ _ _) h

theorem execPbSrai_kept {s : State} (rd : BitVec 5) (ra : BitVec 5) (sh : BitVec 5) (x : State) (t : State) (e : execPbSrai rd ra sh x = .next t) (h : Kept s x) : Kept s t :=
  pb_kept _ _ _ e (alu1_kept _ _ _) h

theorem execPbMin_kept {s : State} (rd : BitVec 5) (ra : BitVec 5) (rb : BitVec 5) (x : State) (t : State) (e : execPbMin rd ra rb x = .next t) (h : Kept s x) : Kept s t :=
  pb_kept _ _ _ e (alu2_kept _ _ _ _) h

theorem execPbMax_kept {s : State} (rd : BitVec 5) (ra : BitVec 5) (rb : BitVec 5) (x : State) (t : State) (e : execPbMax rd ra rb x = .next t) (h : Kept s x) : Kept s t :=
  pb_kept _ _ _ e (alu2_kept _ _ _ _) h

theorem execPbMinu_kept {s : State} (rd : BitVec 5) (ra : BitVec 5) (rb : BitVec 5) (x : State) (t : State) (e : execPbMinu rd ra rb x = .next t) (h : Kept s x) : Kept s t :=
  pb_kept _ _ _ e (alu2_kept _ _ _ _) h

theorem execPbMaxu_kept {s : State} (rd : BitVec 5) (ra : BitVec 5) (rb : BitVec 5) (x : State) (t : State) (e : execPbMaxu rd ra rb x = .next t) (h : Kept s x) : Kept s t :=
  pb_kept _ _ _ e (alu2_kept _ _ _ _) h

theorem execPbClz_kept {s : State} (rd : BitVec 5) (ra : BitVec 5) (x : State) (t : State) (e : execPbClz rd ra x = .next t) (h : Kept s x) : Kept s t :=
  pb_kept _ _ _ e (alu1_kept _ _ _) h

theorem execPbSextb_kept {s : State} (rd : BitVec 5) (ra : BitVec 5) (x : State) (t : State) (e : execPbSextb rd ra x = .next t) (h : Kept s x) : Kept s t :=
  pb_kept _ _ _ e (alu1_kept _ _ _) h

theorem execPbSexth_kept {s : State} (rd : BitVec 5) (ra : BitVec 5) (x : State) (t : State) (e : execPbSexth rd ra x = .next t) (h : Kept s x) : Kept s t :=
  pb_kept _ _ _ e (alu1_kept _ _ _) h

theorem execPbAddi_kept {s : State} (rd : BitVec 5) (ra : BitVec 5) (imm : BitVec 16) (x : State) (t : State) (e : execPbAddi rd ra imm x = .next t) (h : Kept s x) : Kept s t :=
  pb_kept _ _ _ e (alu1_kept _ _ _) h

theorem execPbAndi_kept {s : State} (rd : BitVec 5) (ra : BitVec 5) (imm : BitVec 16) (x : State) (t : State) (e : execPbAndi rd ra imm x = .next t) (h : Kept s x) : Kept s t :=
  pb_kept _ _ _ e (alu1_kept _ _ _) h

theorem execPbOri_kept {s : State} (rd : BitVec 5) (ra : BitVec 5) (imm : BitVec 16) (x : State) (t : State) (e : execPbOri rd ra imm x = .next t) (h : Kept s x) : Kept s t :=
  pb_kept _ _ _ e (alu1_kept _ _ _) h

theorem execPbXori_kept {s : State} (rd : BitVec 5) (ra : BitVec 5) (imm : BitVec 16) (x : State) (t : State) (e : execPbXori rd ra imm x = .next t) (h : Kept s x) : Kept s t :=
  pb_kept _ _ _ e (alu1_kept _ _ _) h

theorem execPbSlti_kept {s : State} (rd : BitVec 5) (ra : BitVec 5) (imm : BitVec 16) (x : State) (t : State) (e : execPbSlti rd ra imm x = .next t) (h : Kept s x) : Kept s t :=
  pb_kept _ _ _ e (alu1_kept _ _ _) h

theorem execPbSltiu_kept {s : State} (rd : BitVec 5) (ra : BitVec 5) (imm : BitVec 16) (x : State) (t : State) (e : execPbSltiu rd ra imm x = .next t) (h : Kept s x) : Kept s t :=
  pb_kept _ _ _ e (alu1_kept _ _ _) h

theorem illegal_kept {s : State} (x : State) (h : Kept s x) :
    EKept s (illegal x) := by
  unfold illegal
  try dsimp only
  with_reducible repeat' first
    | assumption | refine EKept.seq ?_ | refine EKept.goto ?_ | refine EKept.transfer ?_ | refine EKept.exc ?_


theorem execPbLui_kept {s : State} (rd : BitVec 5) (ra : BitVec 5) (imm : BitVec 16) (x : State) (t : State) (e : execPbLui rd ra imm x = .next t) (h : Kept s x) :
    Kept s t := by
  unfold execPbLui at e
  try dsimp only at e
  repeat' split at e
  all_goals first
    | (cases e; done)
    | (injection e with e; subst e)
    | skip
  all_goals
   with_reducible repeat' first
    | assumption | refine pb_kept _ _ _ e ?_ ?_ | apply pbRow_kept | apply wr_kept | apply illegal_kept | intro _
    | refine EKept.seq ?_


theorem mul2_kept {s : State} (op : Word → Word → Word → Word) (acc : Bool) (rd : BitVec 5) (ra : BitVec 5) (rb : BitVec 5) (x : State) (h : Kept s x) :
    EKept s (mul2 op acc rd ra rb x) := by
  unfold mul2
  try dsimp only
  with_reducible repeat' first
    | assumption | apply rg_kept | apply hazard_kept | apply wr_kept | split | refine EKept.seq ?_


theorem execPbMul_kept {s : State} (rd : BitVec 5) (ra : BitVec 5) (rb : BitVec 5) (x : State) (t : State) (e : execPbMul rd ra rb x = .next t) (h : Kept s x) : Kept s t :=
  pb_kept _ _ _ e (mul2_kept _ _ _ _ _) h

theorem execPbMulh_kept {s : State} (rd : BitVec 5) (ra : BitVec 5) (rb : BitVec 5) (x : State) (t : State) (e : execPbMulh rd ra rb x = .next t) (h : Kept s x) : Kept s t :=
  pb_kept _ _ _ e (mul2_kept _ _ _ _ _) h

theorem execPbMulhu_kept {s : State} (rd : BitVec 5) (ra : BitVec 5) (rb : BitVec 5) (x : State) (t : State) (e : execPbMulhu rd ra rb x = .next t) (h : Kept s x) : Kept s t :=
  pb_kept _ _ _ e (mul2_kept _ _ _ _ _) h

theorem execPbMac_kept {s : State} (rd : BitVec 5) (ra : BitVec 5) (rb : BitVec 5) (x : State) (t : State) (e : execPbMac rd ra rb x = .next t) (h : Kept s x) : Kept s t :=
  pb_kept _ _ _ e (mul2_kept _ _ _ _ _) h

theorem execPbMsu_kept {s : State} (rd : BitVec 5) (ra : BitVec 5) (rb : BitVec 5) (x : State) (t : State) (e : execPbMsu rd ra rb x = .next t) (h : Kept s x) : Kept s t :=
  pb_kept _ _ _ e (mul2_kept _ _ _ _ _) h

theorem alignExc_kept {s : State} (a : Word) (x : State) (h : Kept s x) :
    EKept s (alignExc a x) := by
  unfold alignExc
  try dsimp only
  with_reducible repeat' first
    | assumption | refine EKept.seq ?_ | refine EKept.goto ?_ | refine EKept.transfer ?_ | refine EKept.exc ?_


theorem busExc_kept {s : State} (a : Word) (k : ℕ) (x : State) (h : Kept s x) :
    EKept s (busExc a k x) := by
  unfold busExc
  try dsimp only
  with_reducible repeat' first
    | assumption | refine EKept.seq ?_ | refine EKept.goto ?_ | refine EKept.transfer ?_ | refine EKept.exc ?_


theorem orderPage_kept {s : State} (a : ℕ) (x : State) (h : Kept s x) :
    Kept s (orderPage a x) := by
  unfold orderPage
  try dsimp only
  with_reducible repeat' first
    | assumption | rfl | split | refine Kept.setPortSame ?_ rfl
    | fail_if_no_progress refine Kept.upd ?_ rfl rfl rfl rfl | apply Kept.foldl | apply Kept.foldl_fst
    | apply Kept.foldl_snd | apply Kept.ite | intro _


theorem load_kept {s : State} (n : ℕ) (ext : Word → Word) (rd : BitVec 5) (ra : BitVec 5) (imm : BitVec 16) (x : State) (h : Kept s x) :
    EKept s (load n ext rd ra imm x) := by
  unfold load
  try dsimp only
  with_reducible repeat' first
    | assumption | rfl | apply rg_kept | apply alignExc_kept | refine busRead_kept _ _ _ _ _ ‹_› ?_
    | apply busExc_kept | apply hazard_kept | apply wr_kept | apply orderPage_kept | split
    | refine Kept.setPortSame ?_ rfl | fail_if_no_progress refine Kept.upd ?_ rfl rfl rfl rfl | apply Kept.foldl
    | apply Kept.foldl_fst | apply Kept.foldl_snd | apply Kept.ite | intro _ | dsimp only | refine EKept.seq ?_
    | refine EKept.goto ?_ | refine EKept.transfer ?_ | refine EKept.exc ?_ | apply EKept.ite


theorem noteCleared_kept {s : State} (a : Nat) (old x : State) (h : Kept s x) : Kept s (noteCleared a old x) := by
  unfold noteCleared
  dsimp only
  repeat' split
  · exact h
  · exact h.same rfl rfl rfl rfl rfl rfl rfl
  · exact h

theorem store_kept {s : State} (n : Nat) (rs ra : BitVec 5) (imm : BitVec 16) (x : State) (h : Kept s x) :
    EKept s (store n rs ra imm x) := by
  have h2 := rg_kept rs _ (rg_kept ra _ h)
  unfold store
  dsimp only
  split
  · exact alignExc_kept _ _ h2
  · split
    · exact busExc_kept _ _ _ h2
    · exact EKept.seq (noteCleared_kept _ _ _ (busWrite_kept _ _ _ _ _ ‹_› h2))

theorem execPbLw_kept {s : State} (rd : BitVec 5) (ra : BitVec 5) (imm : BitVec 16) (x : State) (t : State) (e : execPbLw rd ra imm x = .next t) (h : Kept s x) : Kept s t :=
  pb_kept _ _ _ e (load_kept _ _ _ _ _) h

theorem execPbLh_kept {s : State} (rd : BitVec 5) (ra : BitVec 5) (imm : BitVec 16) (x : State) (t : State) (e : execPbLh rd ra imm x = .next t) (h : Kept s x) : Kept s t :=
  pb_kept _ _ _ e (load_kept _ _ _ _ _) h

theorem execPbLhu_kept {s : State} (rd : BitVec 5) (ra : BitVec 5) (imm : BitVec 16) (x : State) (t : State) (e : execPbLhu rd ra imm x = .next t) (h : Kept s x) : Kept s t :=
  pb_kept _ _ _ e (load_kept _ _ _ _ _) h

theorem execPbLb_kept {s : State} (rd : BitVec 5) (ra : BitVec 5) (imm : BitVec 16) (x : State) (t : State) (e : execPbLb rd ra imm x = .next t) (h : Kept s x) : Kept s t :=
  pb_kept _ _ _ e (load_kept _ _ _ _ _) h

theorem execPbLbu_kept {s : State} (rd : BitVec 5) (ra : BitVec 5) (imm : BitVec 16) (x : State) (t : State) (e : execPbLbu rd ra imm x = .next t) (h : Kept s x) : Kept s t :=
  pb_kept _ _ _ e (load_kept _ _ _ _ _) h

theorem execPbSw_kept {s : State} (rs : BitVec 5) (ra : BitVec 5) (imm : BitVec 16) (x : State) (t : State) (e : execPbSw rs ra imm x = .next t) (h : Kept s x) : Kept s t :=
  pb_kept _ _ _ e (store_kept _ _ _ _) h

theorem execPbSh_kept {s : State} (rs : BitVec 5) (ra : BitVec 5) (imm : BitVec 16) (x : State) (t : State) (e : execPbSh rs ra imm x = .next t) (h : Kept s x) : Kept s t :=
  pb_kept _ _ _ e (store_kept _ _ _ _) h

theorem execPbSb_kept {s : State} (rs : BitVec 5) (ra : BitVec 5) (imm : BitVec 16) (x : State) (t : State) (e : execPbSb rs ra imm x = .next t) (h : Kept s x) : Kept s t :=
  pb_kept _ _ _ e (store_kept _ _ _ _) h

theorem branch_kept {s : State} (cond : Word → Word → Bool) (ra : BitVec 5) (rb : BitVec 5) (off : BitVec 16) (x : State) (h : Kept s x) :
    EKept s (branch cond ra rb off x) := by
  unfold branch
  try dsimp only
  with_reducible repeat' first
    | assumption | apply rg_kept | split | refine EKept.seq ?_ | refine EKept.goto ?_ | refine EKept.transfer ?_


theorem execPbBeq_kept {s : State} (ra : BitVec 5) (rb : BitVec 5) (off : BitVec 16) (x : State) (t : State) (e : execPbBeq ra rb off x = .next t) (h : Kept s x) : Kept s t :=
  pbTransfer_kept _ _ _ e (branch_kept _ _ _ _) h

theorem execPbBne_kept {s : State} (ra : BitVec 5) (rb : BitVec 5) (off : BitVec 16) (x : State) (t : State) (e : execPbBne ra rb off x = .next t) (h : Kept s x) : Kept s t :=
  pbTransfer_kept _ _ _ e (branch_kept _ _ _ _) h

theorem execPbBlt_kept {s : State} (ra : BitVec 5) (rb : BitVec 5) (off : BitVec 16) (x : State) (t : State) (e : execPbBlt ra rb off x = .next t) (h : Kept s x) : Kept s t :=
  pbTransfer_kept _ _ _ e (branch_kept _ _ _ _) h

theorem execPbBge_kept {s : State} (ra : BitVec 5) (rb : BitVec 5) (off : BitVec 16) (x : State) (t : State) (e : execPbBge ra rb off x = .next t) (h : Kept s x) : Kept s t :=
  pbTransfer_kept _ _ _ e (branch_kept _ _ _ _) h

theorem execPbBltu_kept {s : State} (ra : BitVec 5) (rb : BitVec 5) (off : BitVec 16) (x : State) (t : State) (e : execPbBltu ra rb off x = .next t) (h : Kept s x) : Kept s t :=
  pbTransfer_kept _ _ _ e (branch_kept _ _ _ _) h

theorem execPbBgeu_kept {s : State} (ra : BitVec 5) (rb : BitVec 5) (off : BitVec 16) (x : State) (t : State) (e : execPbBgeu ra rb off x = .next t) (h : Kept s x) : Kept s t :=
  pbTransfer_kept _ _ _ e (branch_kept _ _ _ _) h

theorem toAddr_kept {s : State} (a : Word) (f : State → Ended) (x : State) (hf : ∀ y, Kept s y → EKept s (f y)) (h : Kept s x) :
    EKept s (toAddr a f x) := by
  unfold toAddr
  split
  · exact alignExc_kept _ _ h
  · exact hf _ h

theorem pushed_kept {s : State} (w : Word) (k : State → Ended) (x : State) (hk : ∀ y, Kept s y → EKept s (k y)) (h : Kept s x) :
    EKept s (pushed w k x) := by
  have kp := rg_kept 30#5 x h
  unfold pushed
  dsimp only
  split
  · exact alignExc_kept _ _ kp
  · split
    · exact busExc_kept _ _ _ kp
    · exact hk _ (wr_kept _ _ _ (busWrite_kept _ _ _ _ _ ‹_› kp))

theorem popped_kept {s : State} (k : Word → State → Ended) (x : State) (hk : ∀ w y, Kept s y → EKept s (k w y)) (h : Kept s x) :
    EKept s (popped k x) := by
  have kp := rg_kept 30#5 x h
  unfold popped
  dsimp only
  split
  · exact alignExc_kept _ _ kp
  · split
    · exact busExc_kept _ _ _ kp
    · exact hk _ _ (wr_kept _ _ _ (busRead_kept _ _ _ _ _ ‹_› kp))

theorem execPbJmp_kept {s : State} (off : BitVec 26) (x : State) (t : State) (e : execPbJmp off x = .next t) (h : Kept s x) :
    Kept s t := by
  unfold execPbJmp at e
  try dsimp only at e
  all_goals first
    | (cases e; done)
    | (injection e with e; subst e)
    | skip
  all_goals
   with_reducible repeat' first
    | assumption | refine pbTransfer_kept _ _ _ e ?_ ?_ | apply pbRow_kept | intro _ | refine EKept.seq ?_
    | refine EKept.goto ?_ | refine EKept.transfer ?_


theorem execPbCall_kept {s : State} (off : BitVec 26) (x : State) (t : State) (e : execPbCall off x = .next t) (h : Kept s x) :
    Kept s t := by
  unfold execPbCall at e
  try dsimp only at e
  all_goals first
    | (cases e; done)
    | (injection e with e; subst e)
    | skip
  all_goals
   with_reducible repeat' first
    | assumption | refine pbTransfer_kept _ _ _ e ?_ ?_ | apply pbRow_kept | apply pushed_kept | intro _
    | refine EKept.seq ?_ | refine EKept.goto ?_ | refine EKept.transfer ?_


theorem execPbJr_kept {s : State} (ra : BitVec 5) (x : State) (t : State) (e : execPbJr ra x = .next t) (h : Kept s x) :
    Kept s t := by
  unfold execPbJr at e
  try dsimp only at e
  all_goals first
    | (cases e; done)
    | (injection e with e; subst e)
    | skip
  all_goals
   with_reducible repeat' first
    | assumption | refine pbTransfer_kept _ _ _ e ?_ ?_ | apply pbRow_kept | apply rg_kept | apply toAddr_kept
    | intro _ | refine EKept.seq ?_ | refine EKept.goto ?_ | refine EKept.transfer ?_


theorem execPbCallr_kept {s : State} (ra : BitVec 5) (x : State) (t : State) (e : execPbCallr ra x = .next t) (h : Kept s x) :
    Kept s t := by
  unfold execPbCallr at e
  try dsimp only at e
  all_goals first
    | (cases e; done)
    | (injection e with e; subst e)
    | skip
  all_goals
   with_reducible repeat' first
    | assumption | refine pbTransfer_kept _ _ _ e ?_ ?_ | apply pbRow_kept | apply rg_kept | apply toAddr_kept
    | apply pushed_kept | intro _ | refine EKept.seq ?_ | refine EKept.goto ?_ | refine EKept.transfer ?_


theorem execPbRet_kept {s : State} (x t : State) (e : execPbRet x = .next t) (h : Kept s x) : Kept s t := by
  refine pbTransfer_kept _ _ _ e (fun y hy => popped_kept _ _ (fun w z hz => ?_) hy) h
  exact EKept.ite (alignExc_kept _ _ hy) hz

theorem execPbReti_kept {s : State} (x t : State) (e : execPbReti x = .next t) (h : Kept s x) : Kept s t := by
  refine pbTransfer_kept _ _ _ e (fun y hy => popped_kept _ _ (fun _ _ hz => popped_kept _ _ (fun w z hz => ?_) hz) hy) h
  exact EKept.ite (alignExc_kept _ _ hy) hz

theorem startLoop_kept {s : State} (n : BitVec 2) (count : Word) (len : BitVec 12) (x : State) (h : Kept s x) :
    EKept s (startLoop n count len x) := by
  unfold startLoop
  try dsimp only
  with_reducible repeat' first
    | assumption | rfl | apply illegal_kept | split | refine Kept.setPortSame ?_ rfl
    | fail_if_no_progress refine Kept.upd ?_ rfl rfl rfl rfl | apply Kept.foldl | apply Kept.foldl_fst
    | apply Kept.foldl_snd | apply Kept.ite | intro _ | dsimp only | refine EKept.seq ?_ | refine EKept.goto ?_
    | refine EKept.transfer ?_ | refine EKept.exc ?_ | apply EKept.ite


theorem execPbLoop_kept {s : State} (n : BitVec 2) (ra : BitVec 5) (len : BitVec 12) (x : State) (t : State) (e : execPbLoop n ra len x = .next t) (h : Kept s x) :
    Kept s t := by
  unfold execPbLoop at e
  try dsimp only at e
  all_goals first
    | (cases e; done)
    | (injection e with e; subst e)
    | skip
  all_goals
   with_reducible repeat' first
    | assumption | refine pbTransfer_kept _ _ _ e ?_ ?_ | apply pbRow_kept | apply rg_kept | apply startLoop_kept
    | intro _


theorem execPbLoopi_kept {s : State} (n : BitVec 2) (cnt : BitVec 12) (len : BitVec 12) (x : State) (t : State) (e : execPbLoopi n cnt len x = .next t) (h : Kept s x) : Kept s t :=
  pbTransfer_kept _ _ _ e (startLoop_kept _ _ _) h

theorem readCycle_kept {s : State} (x : State) (h : Kept s x) :
    Kept s (readCycle x).2 := by
  unfold readCycle
  try dsimp only
  with_reducible repeat' first
    | assumption | rfl | apply drawWord_kept | split | refine Kept.setPortSame ?_ rfl
    | fail_if_no_progress refine Kept.upd ?_ rfl rfl rfl rfl | apply Kept.foldl | apply Kept.foldl_fst
    | apply Kept.foldl_snd | apply Kept.ite | intro _


theorem readMiss_kept {s : State} (x : State) (h : Kept s x) :
    Kept s (readMiss x).2 := by
  unfold readMiss
  try dsimp only
  with_reducible repeat' first
    | assumption | rfl | split | refine Kept.setPortSame ?_ rfl
    | fail_if_no_progress refine Kept.upd ?_ rfl rfl rfl rfl | apply Kept.foldl | apply Kept.foldl_fst
    | apply Kept.foldl_snd | apply Kept.ite | intro _


theorem readLc_kept {s : State} (i : Fin 3) (x : State) (h : Kept s x) :
    Kept s (readLc i x).2 := by
  unfold readLc
  try dsimp only
  with_reducible repeat' first | assumption | apply drawBool_kept | split


theorem readSr_kept {s : State} (n : ℕ) (x : State) (h : Kept s x) :
    Kept s (readSr n x).2 := by
  unfold readSr
  try dsimp only
  with_reducible repeat' first
    | assumption | apply readCycle_kept | apply readMiss_kept | apply readLc_kept | apply settled_kept | split


theorem invalidate_kept {s : State} (x : State) (h : Kept s x) :
    Kept s (invalidate x) := by
  unfold invalidate
  try dsimp only
  with_reducible repeat' first
    | assumption | rfl | split | refine Kept.setPortSame ?_ rfl
    | fail_if_no_progress refine Kept.upd ?_ rfl rfl rfl rfl | apply Kept.foldl | apply Kept.foldl_fst
    | apply Kept.foldl_snd | apply Kept.ite | intro _


theorem writeSr_kept {s : State} (n : ℕ) (w : Word) (x : State) (h : Kept s x) :
    Kept s (writeSr n w x) := by
  unfold writeSr
  try dsimp only
  with_reducible repeat' first
    | assumption | rfl | apply invalidate_kept | split | refine Kept.setPortSame ?_ rfl
    | fail_if_no_progress refine Kept.upd ?_ rfl rfl rfl rfl | apply Kept.foldl | apply Kept.foldl_fst
    | apply Kept.foldl_snd | apply Kept.ite | intro _


theorem execPbMoveTo_kept {s : State} (sr : BitVec 5) (ra : BitVec 5) (x : State) (t : State) (e : execPbMoveTo sr ra x = .next t) (h : Kept s x) :
    Kept s t := by
  unfold execPbMoveTo at e
  try dsimp only at e
  repeat' split at e
  all_goals first
    | (cases e; done)
    | (injection e with e; subst e)
    | skip
  all_goals
   with_reducible repeat' first
    | assumption | refine pb_kept _ _ _ e ?_ ?_ | apply pbRow_kept | apply illegal_kept | apply rg_kept
    | apply writeSr_kept | intro _ | refine EKept.seq ?_


theorem execPbMoveFrom_kept {s : State} (rd : BitVec 5) (sr : BitVec 5) (x : State) (t : State) (e : execPbMoveFrom rd sr x = .next t) (h : Kept s x) :
    Kept s t := by
  unfold execPbMoveFrom at e
  try dsimp only at e
  repeat' split at e
  all_goals first
    | (cases e; done)
    | (injection e with e; subst e)
    | skip
  all_goals
   with_reducible repeat' first
    | assumption | refine pb_kept _ _ _ e ?_ ?_ | apply pbRow_kept | apply illegal_kept | apply readSr_kept
    | apply wr_kept | intro _ | refine EKept.seq ?_


theorem execCycleLoRead_kept {s : State} (rd : BitVec 5) (x : State) (t : State) (e : execCycleLoRead rd x = .next t) (h : Kept s x) :
    Kept s t := by
  unfold execCycleLoRead at e
  try dsimp only at e
  all_goals first
    | (cases e; done)
    | (injection e with e; subst e)
    | skip
  all_goals
   with_reducible repeat' first
    | assumption | refine pb_kept _ _ _ e ?_ ?_ | apply pbRow_kept | apply readCycle_kept | apply wr_kept | intro _
    | refine EKept.seq ?_


theorem execCacheMissRead_kept {s : State} (rd : BitVec 5) (x : State) (t : State) (e : execCacheMissRead rd x = .next t) (h : Kept s x) :
    Kept s t := by
  unfold execCacheMissRead at e
  try dsimp only at e
  all_goals first
    | (cases e; done)
    | (injection e with e; subst e)
    | skip
  all_goals
   with_reducible repeat' first
    | assumption | refine pb_kept _ _ _ e ?_ ?_ | apply pbRow_kept | apply readMiss_kept | apply wr_kept | intro _
    | refine EKept.seq ?_


theorem execCachectlInv_kept {s : State} (x : State) (t : State) (e : execCachectlInv x = .next t) (h : Kept s x) :
    Kept s t := by
  unfold execCachectlInv at e
  try dsimp only at e
  all_goals first
    | (cases e; done)
    | (injection e with e; subst e)
    | skip
  all_goals
   with_reducible repeat' first
    | assumption | refine pb_kept _ _ _ e ?_ ?_ | apply pbRow_kept | apply writeSr_kept | intro _
    | refine EKept.seq ?_


theorem execPbPush_kept {s : State} (ra : BitVec 5) (x : State) (t : State) (e : execPbPush ra x = .next t) (h : Kept s x) :
    Kept s t := by
  unfold execPbPush at e
  try dsimp only at e
  all_goals first
    | (cases e; done)
    | (injection e with e; subst e)
    | skip
  all_goals
   with_reducible repeat' first
    | assumption | refine pb_kept _ _ _ e ?_ ?_ | apply pbRow_kept | apply rg_kept | apply pushed_kept | intro _
    | refine EKept.seq ?_


theorem execPbPop_kept {s : State} (rd : BitVec 5) (x : State) (t : State) (e : execPbPop rd x = .next t) (h : Kept s x) :
    Kept s t := by
  unfold execPbPop at e
  try dsimp only at e
  repeat' split at e
  all_goals first
    | (cases e; done)
    | (injection e with e; subst e)
    | skip
  all_goals
   with_reducible repeat' first
    | assumption | rfl | refine pb_kept _ _ _ e ?_ ?_ | apply pbRow_kept | apply popped_kept | apply drawWord_kept
    | apply hazard_kept | apply wr_kept | split | refine Kept.setPortSame ?_ rfl
    | fail_if_no_progress refine Kept.upd ?_ rfl rfl rfl rfl | apply Kept.foldl | apply Kept.foldl_fst
    | apply Kept.foldl_snd | apply Kept.ite | intro _ | dsimp only | refine EKept.seq ?_ | refine EKept.goto ?_
    | refine EKept.transfer ?_ | refine EKept.exc ?_ | apply EKept.ite


theorem pushAll_kept {s : State} (ws : List Word) (k : State → Ended) (x : State) (hk : ∀ y, Kept s y → EKept s (k y)) (h : Kept s x) :
    EKept s (pushAll ws k x) := by
  induction ws generalizing x with
  | nil => exact hk _ h
  | cons w ws ih => exact pushed_kept _ _ _ ih h

theorem execPbPushl_kept {s : State} (mask : BitVec 3) (x : State) (t : State) (e : execPbPushl mask x = .next t) (h : Kept s x) :
    Kept s t := by
  unfold execPbPushl at e
  try dsimp only at e
  repeat' split at e
  all_goals first
    | (cases e; done)
    | (injection e with e; subst e)
    | skip
  all_goals
   with_reducible repeat' first
    | assumption | rfl | refine pb_kept _ _ _ e ?_ ?_ | apply pbRow_kept | apply pushAll_kept | split
    | refine Kept.setPortSame ?_ rfl | fail_if_no_progress refine Kept.upd ?_ rfl rfl rfl rfl | apply Kept.foldl
    | apply Kept.foldl_fst | apply Kept.foldl_snd | apply Kept.ite | intro _ | dsimp only | refine EKept.seq ?_
    | refine EKept.goto ?_ | refine EKept.transfer ?_ | refine EKept.exc ?_ | apply EKept.ite


theorem popSet_kept {s : State} (n : Nat) (k : State → Ended) (x : State) (hk : ∀ y, Kept s y → EKept s (k y)) (h : Kept s x) :
    EKept s (popSet n k x) := by
  unfold popSet
  refine popped_kept _ _ (fun c y hy => popped_kept _ _ (fun e z hz => popped_kept _ _ (fun l w hw => ?_) hz) hy) h
  exact hk _ (writeSr_kept _ _ _ (writeSr_kept _ _ _ (writeSr_kept _ _ _ hw)))

theorem popSets_kept {s : State} (mask : BitVec 3) (n : Nat) (x : State) (h : Kept s x) : EKept s (popSets mask n x) := by
  induction n generalizing x with
  | zero => exact h
  | succ n ih => exact EKept.ite (popSet_kept _ _ _ ih h) (ih _ h)

theorem execPbPopl_kept {s : State} (mask : BitVec 3) (x : State) (t : State) (e : execPbPopl mask x = .next t) (h : Kept s x) : Kept s t :=
  pb_kept _ _ _ e (popSets_kept _ _) h

theorem execPbTrap_kept {s : State} (code : BitVec 5) (x : State) (t : State) (e : execPbTrap code x = .next t) (h : Kept s x) :
    Kept s t := by
  unfold execPbTrap at e
  try dsimp only at e
  all_goals first
    | (cases e; done)
    | (injection e with e; subst e)
    | skip
  all_goals
   with_reducible repeat' first
    | assumption | refine pbNoSlot_kept _ _ _ e ?_ ?_ | apply pbRow_kept | intro _ | refine EKept.seq ?_
    | refine EKept.goto ?_ | refine EKept.transfer ?_ | refine EKept.exc ?_


theorem execPbWait_kept {s : State} (x : State) (t : State) (e : execPbWait x = .next t) (h : Kept s x) :
    Kept s t := by
  unfold execPbWait at e
  try dsimp only at e
  repeat' split at e
  all_goals first
    | (cases e; done)
    | (injection e with e; subst e)
    | skip
  all_goals
   with_reducible repeat' first
    | assumption | rfl | refine pbNoSlot_kept _ _ _ e ?_ ?_ | apply pbRow_kept | split
    | refine Kept.setPortSame ?_ rfl | fail_if_no_progress refine Kept.upd ?_ rfl rfl rfl rfl | apply Kept.foldl
    | apply Kept.foldl_fst | apply Kept.foldl_snd | apply Kept.ite | intro _ | dsimp only | refine EKept.seq ?_
    | refine EKept.goto ?_ | refine EKept.transfer ?_ | refine EKept.exc ?_ | apply EKept.ite


theorem execPbFence_kept {s : State} (x : State) (t : State) (e : execPbFence x = .next t) (h : Kept s x) :
    Kept s t := by
  unfold execPbFence at e
  try dsimp only at e
  all_goals first
    | (cases e; done)
    | (injection e with e; subst e)
    | skip
  all_goals
   with_reducible repeat' first
    | assumption | refine pb_kept _ _ _ e ?_ ?_ | apply pbRow_kept | intro _ | refine EKept.seq ?_


theorem execPbIcinv_kept {s : State} (x : State) (t : State) (e : execPbIcinv x = .next t) (h : Kept s x) :
    Kept s t := by
  unfold execPbIcinv at e
  try dsimp only at e
  repeat' split at e
  all_goals first
    | (cases e; done)
    | (injection e with e; subst e)
    | skip
  all_goals
   with_reducible repeat' first
    | assumption | rfl | refine pb_kept _ _ _ e ?_ ?_ | apply pbRow_kept | apply invalidate_kept | split
    | refine Kept.setPortSame ?_ rfl | fail_if_no_progress refine Kept.upd ?_ rfl rfl rfl rfl | apply Kept.foldl
    | apply Kept.foldl_fst | apply Kept.foldl_snd | apply Kept.ite | intro _ | dsimp only | refine EKept.seq ?_
    | refine EKept.goto ?_ | refine EKept.transfer ?_ | refine EKept.exc ?_ | apply EKept.ite


theorem execPbBreak_kept {s : State} (x : State) (t : State) (e : execPbBreak x = .next t) (h : Kept s x) :
    Kept s t := by
  unfold execPbBreak at e
  try dsimp only at e
  repeat' split at e
  all_goals first
    | (cases e; done)
    | (injection e with e; subst e)
    | skip
  all_goals
   with_reducible repeat' first
    | assumption | rfl | refine pbNoSlot_kept _ _ _ e ?_ ?_ | apply pbRow_kept | split
    | refine Kept.setPortSame ?_ rfl | fail_if_no_progress refine Kept.upd ?_ rfl rfl rfl rfl | apply Kept.foldl
    | apply Kept.foldl_fst | apply Kept.foldl_snd | apply Kept.ite | intro _ | dsimp only | refine EKept.seq ?_
    | refine EKept.goto ?_ | refine EKept.transfer ?_ | refine EKept.exc ?_ | apply EKept.ite


theorem takeIrq_kept {s : State} (v l : Nat) (x : State) (h : Kept s x) : Kept s (takeIrq v l x) := by
  have k1 : Kept s { x with core.waiting := false } := h.same rfl rfl rfl rfl rfl rfl rfl
  unfold takeIrq
  split
  · rename_i e2
    exact faultRestart_kept _ (entryFrame_fst e2 k1)
  · rename_i e2
    exact Kept.same (entryFrame_fst e2 k1) rfl rfl rfl rfl rfl rfl rfl

theorem staleEntry_kept {s : State} (st : Word) (x : State) (h : Kept s x) :
    Kept s (staleEntry st x) := by
  unfold staleEntry
  try dsimp only
  with_reducible repeat' first
    | assumption | rfl | apply drawBool_kept | apply takeIrq_kept | split | refine Kept.setPortSame ?_ rfl
    | fail_if_no_progress refine Kept.upd ?_ rfl rfl rfl rfl | apply Kept.foldl | apply Kept.foldl_fst
    | apply Kept.foldl_snd | apply Kept.ite | intro _


theorem interruptEntry_kept {s : State} (x : State) (h : Kept s x) : Kept s (interruptEntry x) := by
  have ks := settled_kept 16 x.core.status x h
  unfold interruptEntry
  dsimp only
  split
  · exact h
  · split
    · exact Kept.ite h (staleEntry_kept _ _ ks)
    · exact Kept.ite (takeIrq_kept _ _ _ ks) (staleEntry_kept _ _ ks)

theorem execInterruptEntry_kept {s : State} (x : State) (t : State) (e : execInterruptEntry x = .next t) (h : Kept s x) : Kept s t :=
  next_kept e (interruptEntry_kept _ h)

theorem coreHandover_kept {s : State} (x : State) (h : Kept s x) : Kept s (coreHandover x).2 := by
  unfold coreHandover
  split
  · exact coreHold_kept _ h
  · split
    · exact coreStart_kept _ _ h
    · split
      · rename_i w s0 e
        have k0 := busRead_kept _ _ _ _ _ e h
        split
        · exact coreStart_kept _ _ k0
        · dsimp only
          have k1 : Kept s { s0 with core.vbase := 0x08000000#32, core.slot := none, core.slotStatus := none, core.slotTaken := false } :=
            k0.same rfl rfl rfl rfl rfl rfl rfl
          split
          · rename_i e2
            exact faultRestart_kept _ (entryFrame_fst e2 k1)
          · rename_i e2
            exact invalidate_kept _ (Kept.same (entryFrame_fst e2 k1) rfl rfl rfl rfl rfl rfl rfl)
      · exact coreStart_kept _ _ h

end Sys2Proof.Machine
end

