-- ==== Sys2Proof/Laws/KeptPhy.lean ====
section
/-! SUPPORT. Every operation of Machine/Phy.lean keeps what `Kept` says. -/

namespace Sys2Proof.Machine
open Sys2Proof


theorem phyProfileSetRun_kept {s : State} (c : Cmd) (x : State) (r t) (e : phyProfileSetRun c x = .ok (r, t)) (h : Kept s x) :
    Kept s t := by
  unfold phyProfileSetRun at e
  try dsimp only at e
  repeat' split at e
  all_goals first
    | (cases e; done)
    | (injection e with e; have e := congrArg Prod.snd e; dsimp only at e; subst e)
  all_goals
   with_reducible repeat' first | assumption | fail_if_no_progress refine Kept.upd ?_ rfl rfl rfl rfl


theorem execPhyProfileSet_kept {s : State} (p : Packet) (x : State) (t : State) (e : execPhyProfileSet p x = .next t) (h : Kept s x) : Kept s t :=
  next_kept e (plazaRun_kept _ _ _ _ _ (fun c y => immediate_kept _ c y phyProfileSetRun_kept) h)

theorem setLibraryId_kept {s : State} (id : BitVec 16) (x : State) (h : Kept s x) :
    Kept s (setLibraryId id x) := by
  unfold setLibraryId
  try dsimp only
  with_reducible repeat' first
    | assumption | rfl | split | refine Kept.setPortSame ?_ rfl
    | fail_if_no_progress refine Kept.upd ?_ rfl rfl rfl rfl | apply Kept.foldl | apply Kept.foldl_fst
    | apply Kept.foldl_snd | apply Kept.ite | intro _


theorem loadmapSetRun_kept {s : State} (c : Cmd) (x : State) (r t) (e : loadmapSetRun c x = .ok (r, t)) (h : Kept s x) :
    Kept s t := by
  unfold loadmapSetRun at e
  try dsimp only at e
  repeat' split at e
  all_goals first
    | (cases e; done)
    | (injection e with e; have e := congrArg Prod.snd e; dsimp only at e; subst e)
  all_goals
   with_reducible repeat' first
    | assumption | rfl | apply setLibraryId_kept | apply extendMr_kept | split | refine Kept.setPortSame ?_ rfl
    | fail_if_no_progress refine Kept.upd ?_ rfl rfl rfl rfl | apply Kept.foldl | apply Kept.foldl_fst
    | apply Kept.foldl_snd | apply Kept.ite | intro _


theorem execLoadmapSet_kept {s : State} (p : Packet) (x : State) (t : State) (e : execLoadmapSet p x = .next t) (h : Kept s x) : Kept s t :=
  next_kept e (plazaRun_kept _ _ _ _ _ (fun c y => immediate_kept _ c y loadmapSetRun_kept) h)

end Sys2Proof.Machine
end

