-- ==== Sys2Proof/Laws/KeptContexts.lean ====
section
/-! SUPPORT. Every operation of Machine/Contexts.lean keeps what `Kept` says. -/

namespace Sys2Proof.Machine
open Sys2Proof


theorem bumpRx_kept {s : State} (boulevard : Bool) (r0 : RxCount) (x : State) (h : Kept s x) :
    Kept s (bumpRx boulevard r0 x) := by
  unfold bumpRx
  try dsimp only
  with_reducible repeat' first
    | assumption | rfl | split | refine Kept.setPortSame ?_ rfl
    | fail_if_no_progress refine Kept.upd ?_ rfl rfl rfl rfl | apply Kept.foldl | apply Kept.foldl_fst
    | apply Kept.foldl_snd | apply Kept.ite | intro _


theorem bumpPipe_kept {s : State} (r0 : PipeCount) (x : State) (h : Kept s x) :
    Kept s (bumpPipe r0 x) := by
  unfold bumpPipe
  try dsimp only
  with_reducible repeat' first
    | assumption | rfl | split | refine Kept.setPortSame ?_ rfl
    | fail_if_no_progress refine Kept.upd ?_ rfl rfl rfl rfl | apply Kept.foldl | apply Kept.foldl_fst
    | apply Kept.foldl_snd | apply Kept.ite | intro _


theorem setCtx_kept {s : State} (id : CtxId) (x0 : Context) (x : State) (h : Kept s x) :
    Kept s (setCtx id x0 x) := by
  unfold setCtx
  try dsimp only
  with_reducible repeat' first
    | assumption | rfl | split | refine Kept.setPortSame ?_ rfl
    | fail_if_no_progress refine Kept.upd ?_ rfl rfl rfl rfl | apply Kept.foldl | apply Kept.foldl_fst
    | apply Kept.foldl_snd | apply Kept.ite | intro _


theorem freeCtx_kept {s : State} (id : CtxId) (x : State) (h : Kept s x) :
    Kept s (freeCtx id x) := by
  unfold freeCtx
  try dsimp only
  with_reducible repeat' first
    | assumption | rfl | apply setCtx_kept | split | refine Kept.setPortSame ?_ rfl
    | fail_if_no_progress refine Kept.upd ?_ rfl rfl rfl rfl | apply Kept.foldl | apply Kept.foldl_fst
    | apply Kept.foldl_snd | apply Kept.ite | intro _


theorem release_kept {s : State} (id : CtxId) (r0 : RxCount) (x : State) (h : Kept s x) :
    Kept s (release id r0 x) := by
  unfold release
  try dsimp only
  with_reducible repeat' first | assumption | apply bumpRx_kept | apply freeCtx_kept


theorem releaseWhere_kept {s : State} (sel : CtxId → Context → Bool) (r0 : RxCount) (x : State) (h : Kept s x) :
    Kept s (releaseWhere sel r0 x) := by
  unfold releaseWhere
  try dsimp only
  with_reducible repeat' first | assumption | apply release_kept | split | apply Kept.foldl | intro _


theorem femPins_kept {s : State} (levels : BitVec 6) (x : State) (h : Kept s x) :
    Kept s (femPins levels x) := by
  unfold femPins
  try dsimp only
  with_reducible repeat' first
    | assumption | rfl | split | refine Kept.setPortSame ?_ rfl
    | fail_if_no_progress refine Kept.upd ?_ rfl rfl rfl rfl | apply Kept.foldl | apply Kept.foldl_fst
    | apply Kept.foldl_snd | apply Kept.ite | intro _


theorem startSettle_kept {s : State} (hz : ℕ) (for_ : SettleFor) (x : State) (h : Kept s x) :
    Kept s (startSettle hz for_ x) := by
  unfold startSettle
  try dsimp only
  with_reducible repeat' first
    | assumption | rfl | split | refine Kept.setPortSame ?_ rfl
    | fail_if_no_progress refine Kept.upd ?_ rfl rfl rfl rfl | apply Kept.foldl | apply Kept.foldl_fst
    | apply Kept.foldl_snd | apply Kept.ite | intro _


theorem settleRx_kept {s : State} (x : State) (h : Kept s x) :
    Kept s (settleRx x) := by
  unfold settleRx
  try dsimp only
  with_reducible repeat' first
    | assumption | rfl | apply startSettle_kept | split | refine Kept.setPortSame ?_ rfl
    | fail_if_no_progress refine Kept.upd ?_ rfl rfl rfl rfl | apply Kept.foldl | apply Kept.foldl_fst
    | apply Kept.foldl_snd | apply Kept.ite | intro _


theorem toIdle_kept {s : State} (x : State) (h : Kept s x) :
    Kept s (toIdle x) := by
  unfold toIdle
  try dsimp only
  with_reducible repeat' first
    | assumption | rfl | apply femPins_kept | split | refine Kept.setPortSame ?_ rfl
    | fail_if_no_progress refine Kept.upd ?_ rfl rfl rfl rfl | apply Kept.foldl | apply Kept.foldl_fst
    | apply Kept.foldl_snd | apply Kept.ite | intro _


theorem endReception_kept {s : State} (boulevard : Bool) (x : State) (h : Kept s x) :
    Kept s (endReception boulevard x) := by
  unfold endReception
  try dsimp only
  with_reducible repeat' first
    | assumption | rfl | apply settleRx_kept | apply femPins_kept | split | refine Kept.setPortSame ?_ rfl
    | fail_if_no_progress refine Kept.upd ?_ rfl rfl rfl rfl | apply Kept.foldl | apply Kept.foldl_fst
    | apply Kept.foldl_snd | apply Kept.ite | intro _


theorem checkDrain_kept {s : State} (boulevard : Bool) (x : State) (h : Kept s x) :
    Kept s (checkDrain boulevard x) := by
  unfold checkDrain
  try dsimp only
  with_reducible repeat' first | assumption | apply finish_kept | apply endReception_kept | split


theorem checkDrains_kept {s : State} (x : State) (h : Kept s x) :
    Kept s (checkDrains x) := by
  unfold checkDrains
  try dsimp only
  with_reducible repeat' first | assumption | apply checkDrain_kept


theorem loseSymbols_kept {s : State} (ends : Option DWord) (x : State) (h : Kept s x) :
    Kept s (loseSymbols ends x) := by
  unfold loseSymbols
  try dsimp only
  with_reducible repeat' first
    | assumption | rfl | split | refine Kept.setPortSame ?_ rfl
    | fail_if_no_progress refine Kept.upd ?_ rfl rfl rfl rfl | apply Kept.foldl | apply Kept.foldl_fst
    | apply Kept.foldl_snd | apply Kept.ite | intro _


theorem startBlank_kept {s : State} (x : State) (h : Kept s x) : Kept s (startBlank x) := by
  have k : Kept s { x with radio.blanked := true } := h.same rfl rfl rfl rfl rfl rfl rfl
  have k2 := releaseWhere_kept (fun _ x => x.st = .sync || (x.busy && x.ofdm)) .blanked _ k
  unfold startBlank
  generalize releaseWhere (fun _ x => x.st = .sync || (x.busy && x.ofdm)) .blanked { x with radio.blanked := true } = y at k2
  exact checkDrains_kept _ (k2.same rfl rfl rfl rfl rfl rfl rfl)

theorem endBlank_kept {s : State} (x : State) (h : Kept s x) :
    Kept s (endBlank x) := by
  unfold endBlank
  try dsimp only
  with_reducible repeat' first
    | assumption | rfl | split | refine Kept.setPortSame ?_ rfl
    | fail_if_no_progress refine Kept.upd ?_ rfl rfl rfl rfl | apply Kept.foldl | apply Kept.foldl_fst
    | apply Kept.foldl_snd | apply Kept.ite | intro _


end Sys2Proof.Machine
end

