-- ==== Sys2Proof/Laws/KeptDir.lean ====
section
/-! SUPPORT. Every operation of Machine/Dir.lean keeps what `Kept` says. -/

namespace Sys2Proof.Machine
open Sys2Proof

/-- Directory memory replaced by a canonical one. -/
theorem Kept.dirMem {s x : State} {m : List Host.Cell} (h : Kept s x)
    (hm : Memory.wf dirFill x.dir.mem = true → Memory.wf dirFill m = true) : Kept s { x with dir.mem := m } :=
  h.trans ⟨rfl, fun w => ⟨w.1, w.2.1, hm w.2.2⟩, id, id, fun _ _ k => k⟩

theorem updateLink_kept {s : State} (i : BitVec 24 × DWord) (f : LinkEntry → LinkEntry) (x : State) (h : Kept s x) :
    Kept s (updateLink i f x) := by
  unfold updateLink
  try dsimp only
  with_reducible repeat' first
    | assumption | rfl | split | refine Kept.setPortSame ?_ rfl
    | fail_if_no_progress refine Kept.upd ?_ rfl rfl rfl rfl | apply Kept.foldl | apply Kept.foldl_fst
    | apply Kept.foldl_snd | apply Kept.ite | intro _


theorem removeLink_kept {s : State} (i : BitVec 24 × DWord) (x : State) (h : Kept s x) :
    Kept s (removeLink i x) := by
  unfold removeLink
  try dsimp only
  with_reducible repeat' first
    | assumption | rfl | split | refine Kept.setPortSame ?_ rfl
    | fail_if_no_progress refine Kept.upd ?_ rfl rfl rfl rfl | apply Kept.foldl | apply Kept.foldl_fst
    | apply Kept.foldl_snd | apply Kept.ite | intro _


theorem nextVersion_kept {s : State} (x : State) (h : Kept s x) :
    Kept s (nextVersion x).2 := by
  unfold nextVersion
  try dsimp only
  with_reducible repeat' first
    | assumption | rfl | split | refine Kept.setPortSame ?_ rfl
    | fail_if_no_progress refine Kept.upd ?_ rfl rfl rfl rfl | apply Kept.foldl | apply Kept.foldl_fst
    | apply Kept.foldl_snd | apply Kept.ite | intro _


theorem dirWrite_kept {s : State} (c : DirConfig) (e : LinkEntry) (state : Nat) (x : State) (h : Kept s x) :
    Kept s (dirWrite c e state x) := by
  unfold dirWrite
  exact (nextVersion_kept _ h).dirMem fun w => by
    split
    · exact wf_memWriteList _ _ _ _ (wf_memWriteList _ _ _ _ w)
    · exact wf_memWriteList _ _ _ _ w

theorem dirFault_kept {s : State} (a : ℕ) (reason : ℕ) (x : State) (h : Kept s x) :
    Kept s (dirFault a reason x) := by
  unfold dirFault
  try dsimp only
  with_reducible repeat' first
    | assumption | rfl | apply raise_kept | split | refine Kept.setPortSame ?_ rfl
    | fail_if_no_progress refine Kept.upd ?_ rfl rfl rfl rfl | apply Kept.foldl | apply Kept.foldl_fst
    | apply Kept.foldl_snd | apply Kept.ite | intro _


theorem xspiFails_kept {s : State} (x : State) (h : Kept s x) :
    Kept s (xspiFails x).2 := by
  unfold xspiFails
  try dsimp only
  with_reducible repeat' first | assumption | apply drawBool_kept


theorem clockHand_kept {s : State} (c : DirConfig) (n : Nat) (x : State) (h : Kept s x) : Kept s (clockHand c n x).2 := by
  induction n generalizing x with
  | zero => exact h
  | succ n ih =>
    unfold clockHand
    dsimp only
    split
    · exact h
    · rename_i e _
      have k : ∀ i : Nat, Kept s { x with link.hand := i } := fun i => h.same rfl rfl rfl rfl rfl rfl rfl
      repeat' first
        | with_reducible assumption | apply ih | apply dirWrite_kept | apply dirFault_kept | apply xspiFails_kept
        | apply updateLink_kept | exact k _ | split

theorem placeLink_kept {s : State} (e0 : LinkEntry) (x : State) (h : Kept s x) :
    Kept s (placeLink e0 x).2 := by
  unfold placeLink
  try dsimp only
  with_reducible repeat' first
    | assumption | rfl | apply clockHand_kept | split | refine Kept.setPortSame ?_ rfl
    | fail_if_no_progress refine Kept.upd ?_ rfl rfl rfl rfl | apply Kept.foldl | apply Kept.foldl_fst
    | apply Kept.foldl_snd | apply Kept.ite | intro _


theorem fetchShort_kept {s : State} (a : BitVec 24) (eui : Option DWord) (err : Bool) (x : State) (h : Kept s x) :
    Kept s (fetchShort a eui err x).2 := by
  unfold fetchShort
  try dsimp only
  with_reducible repeat' first
    | assumption | rfl | apply updateLink_kept | apply dirFault_kept | apply placeLink_kept | split
    | refine Kept.setPortSame ?_ rfl | fail_if_no_progress refine Kept.upd ?_ rfl rfl rfl rfl | apply Kept.foldl
    | apply Kept.foldl_fst | apply Kept.foldl_snd | apply Kept.ite | intro _


theorem lookupShort_kept {s : State} (a : BitVec 24) (x : State) (h : Kept s x) :
    Kept s (lookupShort a x).2 := by
  unfold lookupShort
  try dsimp only
  with_reducible repeat' first | assumption | apply fetchShort_kept | apply xspiFails_kept | split


theorem writeThrough_kept {s : State} (i : BitVec 24 × DWord) (x : State) (h : Kept s x) :
    Kept s (writeThrough i x) := by
  unfold writeThrough
  try dsimp only
  with_reducible repeat' first
    | assumption | rfl | apply xspiFails_kept | apply dirFault_kept | apply updateLink_kept | apply dirWrite_kept
    | split | refine Kept.setPortSame ?_ rfl | fail_if_no_progress refine Kept.upd ?_ rfl rfl rfl rfl
    | apply Kept.foldl | apply Kept.foldl_fst | apply Kept.foldl_snd | apply Kept.ite | intro _


theorem dirForget_kept {s : State} (e0 : LinkEntry) (x : State) (h : Kept s x) :
    Kept s (dirForget e0 x) := by
  unfold dirForget
  try dsimp only
  with_reducible repeat' first
    | assumption | rfl | apply xspiFails_kept | apply dirFault_kept | apply dirWrite_kept | split
    | refine Kept.setPortSame ?_ rfl | fail_if_no_progress refine Kept.upd ?_ rfl rfl rfl rfl | apply Kept.foldl
    | apply Kept.foldl_fst | apply Kept.foldl_snd | apply Kept.ite | intro _


theorem flushDirty_kept {s : State} (lo : ℕ) (hi : ℕ) (x : State) (h : Kept s x) :
    Kept s (flushDirty lo hi x) := by
  unfold flushDirty
  try dsimp only
  with_reducible repeat' first | assumption | apply writeThrough_kept | split | apply Kept.foldl | intro _


end Sys2Proof.Machine
end

