-- ==== Sys2Proof/Laws/KeptFrames.lean ====
section
/-! SUPPORT. Every operation of Machine/Frames.lean keeps what `Kept` says. -/

namespace Sys2Proof.Machine
open Sys2Proof

theorem balanced_submit (l : LedgerScope) (h : Balanced l) : Balanced l.submit := by
  simp only [Balanced, LedgerScope.submit, endedFrames] at h ⊢
  rw [h]
  ac_rfl

theorem balanced_fly (l : LedgerScope) (h : Balanced l) : Balanced l.fly := h

/-- One more outcome of one kind is one more ended frame. -/
theorem endedFrames_set (v : Vector DWord 9) (o : Fin 9) (l : LedgerScope) :
    endedFrames { l with outcomes := v.set o (v[o] + 1) } = endedFrames { l with outcomes := v } + 1 := by
  simp only [endedFrames]
  match o with
  | 0 | 1 | 2 | 3 | 4 | 5 | 6 | 7 | 8 => simp [Vector.getElem_set]; ac_rfl

theorem balanced_close (flying : Bool) (o : Fin 9) (l : LedgerScope) (h : Balanced l) : Balanced (l.close flying o) := by
  have e : endedFrames (l.close flying o) = endedFrames l + 1 := endedFrames_set l.outcomes o _
  unfold Balanced at h ⊢
  rw [e]
  simp only [LedgerScope.close, h]
  bv_omega

theorem updateFrame_kept {s : State} (fid : ℕ) (g : TxFrame → TxFrame) (x : State) (h : Kept s x) :
    Kept s (updateFrame fid g x) := by
  unfold updateFrame
  try dsimp only
  with_reducible repeat' first
    | assumption | rfl | split | refine Kept.setPortSame ?_ rfl
    | fail_if_no_progress refine Kept.upd ?_ rfl rfl rfl rfl | apply Kept.foldl | apply Kept.foldl_fst
    | apply Kept.foldl_snd | apply Kept.ite | intro _


theorem returnFrame_kept {s : State} (fid : ℕ) (x : State) (h : Kept s x) :
    Kept s (returnFrame fid x) := by
  unfold returnFrame
  try dsimp only
  with_reducible repeat' first
    | assumption | rfl | split | refine Kept.setPortSame ?_ rfl
    | fail_if_no_progress refine Kept.upd ?_ rfl rfl rfl rfl | apply Kept.foldl | apply Kept.foldl_fst
    | apply Kept.foldl_snd | apply Kept.ite | intro _


theorem inLedger_kept {s : State} (k : FrameKind) (g : LedgerScope → LedgerScope) (x : State)
    (hg : ∀ l, Balanced l → Balanced (g l)) (h : Kept s x) : Kept s (inLedger k g x) := by
  unfold inLedger
  split
  · exact h.trans ⟨rfl, id, fun w => ⟨hg _ w.1, w.2⟩, id, fun _ _ k => k⟩
  · exact h.trans ⟨rfl, id, fun w => ⟨w.1, hg _ w.2⟩, id, fun _ _ k => k⟩

theorem submitFrame_kept {s : State} (f : TxFrame) (x : State) (h : Kept s x) :
    Kept s (submitFrame f x) := by
  unfold submitFrame
  try dsimp only
  repeat' first
    | exact balanced_submit | exact balanced_fly | exact balanced_close _ _ | with_reducible assumption
    | with_reducible rfl | with_reducible apply updateLink_kept | with_reducible apply inLedger_kept | split
    | with_reducible refine Kept.setPortSame ?_ rfl
    | fail_if_no_progress with_reducible refine Kept.upd ?_ rfl rfl rfl rfl | with_reducible apply Kept.foldl
    | with_reducible apply Kept.foldl_fst | with_reducible apply Kept.foldl_snd | with_reducible apply Kept.ite
    | intro _


theorem loadmapEvent_kept {s : State} (short : BitVec 24) (cause : ℕ) (old : ℕ) (new : ℕ) (margin : Byte) (x : State) (h : Kept s x) :
    Kept s (loadmapEvent short cause old new margin x) := by
  unfold loadmapEvent
  try dsimp only
  with_reducible repeat' first | assumption | apply raise_kept


theorem mapFallback_kept {s : State} (f : TxFrame) (o : TxResult) (x : State) (h : Kept s x) :
    Kept s (mapFallback f o x) := by
  unfold mapFallback
  try dsimp only
  with_reducible repeat' first
    | assumption | rfl | apply updateLink_kept | apply loadmapEvent_kept | split | refine Kept.setPortSame ?_ rfl
    | fail_if_no_progress refine Kept.upd ?_ rfl rfl rfl rfl | apply Kept.foldl | apply Kept.foldl_fst
    | apply Kept.foldl_snd | apply Kept.ite | intro _


theorem dropLink_kept {s : State} (e0 : LinkEntry) (x : State) (h : Kept s x) :
    Kept s (dropLink e0 x) := by
  unfold dropLink
  try dsimp only
  with_reducible repeat' first
    | assumption | apply dirForget_kept | apply removeLink_kept
    | fail_if_no_progress refine Kept.upd ?_ rfl rfl rfl rfl


theorem answerDeletes_kept {s : State} (x : State) (h : Kept s x) :
    Kept s (answerDeletes x) := by
  unfold answerDeletes
  try dsimp only
  with_reducible repeat' first | assumption | apply finish_kept | apply dropLink_kept | split | apply Kept.foldl | intro _


theorem endFrame_kept {s : State} (fid : ℕ) (o : TxResult) (x : State) (h : Kept s x) :
    Kept s (endFrame fid o x) := by
  unfold endFrame
  try dsimp only
  repeat' first
    | exact balanced_submit | exact balanced_fly | exact balanced_close _ _ | with_reducible assumption
    | with_reducible rfl | with_reducible apply updateLink_kept | with_reducible apply inLedger_kept
    | with_reducible apply mapFallback_kept | with_reducible apply completeEvent_kept
    | with_reducible apply answerDeletes_kept | split | with_reducible refine Kept.setPortSame ?_ rfl
    | fail_if_no_progress with_reducible refine Kept.upd ?_ rfl rfl rfl rfl | with_reducible apply Kept.foldl
    | with_reducible apply Kept.foldl_fst | with_reducible apply Kept.foldl_snd | with_reducible apply Kept.ite
    | intro _


theorem sendBack_kept {s : State} (fid : ℕ) (x : State) (h : Kept s x) :
    Kept s (sendBack fid x) := by
  unfold sendBack
  try dsimp only
  with_reducible repeat' first
    | assumption | rfl | apply endFrame_kept | apply returnFrame_kept | split | refine Kept.setPortSame ?_ rfl
    | fail_if_no_progress refine Kept.upd ?_ rfl rfl rfl rfl | apply Kept.foldl | apply Kept.foldl_fst
    | apply Kept.foldl_snd | apply Kept.ite | intro _


theorem takeSeed_kept {s : State} (x : State) (h : Kept s x) :
    Kept s (takeSeed x).2 := by
  unfold takeSeed
  try dsimp only
  with_reducible repeat' first | assumption | fail_if_no_progress refine Kept.upd ?_ rfl rfl rfl rfl


theorem takeCounter_kept {s : State} (f : TxFrame) (x : State) (h : Kept s x) :
    Kept s (takeCounter f x).2 := by
  unfold takeCounter
  try dsimp only
  with_reducible repeat' first
    | assumption | rfl | apply updateLink_kept | split | refine Kept.setPortSame ?_ rfl
    | fail_if_no_progress refine Kept.upd ?_ rfl rfl rfl rfl | apply Kept.foldl | apply Kept.foldl_fst
    | apply Kept.foldl_snd | apply Kept.ite | intro _


theorem formFrame_kept {s : State} (fid : ℕ) (x : State) (h : Kept s x) :
    Kept s (formFrame fid x) := by
  unfold formFrame
  try dsimp only
  repeat' first
    | exact balanced_submit | exact balanced_fly | exact balanced_close _ _ | with_reducible assumption
    | with_reducible rfl | with_reducible apply takeSeed_kept | with_reducible apply updateFrame_kept
    | with_reducible apply takeCounter_kept | with_reducible apply updateLink_kept
    | with_reducible apply inLedger_kept | split | with_reducible refine Kept.setPortSame ?_ rfl
    | fail_if_no_progress with_reducible refine Kept.upd ?_ rfl rfl rfl rfl | with_reducible apply Kept.foldl
    | with_reducible apply Kept.foldl_fst | with_reducible apply Kept.foldl_snd | with_reducible apply Kept.ite
    | intro _


end Sys2Proof.Machine
end

