-- ==== Sys2Proof/Laws/KeptTraffic.lean ====
section
/-! SUPPORT. Every operation of Machine/Traffic.lean keeps what `Kept` says. -/

namespace Sys2Proof.Machine
open Sys2Proof


theorem queueConfigRun_kept {s : State} (c : Cmd) (x : State) (r t) (e : queueConfigRun c x = .ok (r, t)) (h : Kept s x) :
    Kept s t := by
  unfold queueConfigRun at e
  try dsimp only at e
  repeat' split at e
  all_goals first
    | (cases e; done)
    | (injection e with e; have e := congrArg Prod.snd e; dsimp only at e; subst e)
  all_goals
   with_reducible repeat' first | assumption | fail_if_no_progress refine Kept.upd ?_ rfl rfl rfl rfl


theorem execQueueConfig_kept {s : State} (p : Packet) (x : State) (t : State) (e : execQueueConfig p x = .next t) (h : Kept s x) : Kept s t :=
  next_kept e (plazaRun_kept _ _ _ _ _ (fun c y => immediate_kept _ c y queueConfigRun_kept) h)

theorem fixColour_kept {s : State} (fid : ℕ) (x : State) (h : Kept s x) :
    Kept s (fixColour fid x) := by
  unfold fixColour
  try dsimp only
  with_reducible repeat' first
    | assumption | rfl | apply updateFrame_kept | split | refine Kept.setPortSame ?_ rfl
    | fail_if_no_progress refine Kept.upd ?_ rfl rfl rfl rfl | apply Kept.foldl | apply Kept.foldl_fst
    | apply Kept.foldl_snd | apply Kept.ite | intro _


theorem loadProfile_kept {s : State} (n : ℕ) (m : MeterConfig) (x : State) (h : Kept s x) :
    Kept s (loadProfile n m x) := by
  unfold loadProfile
  try dsimp only
  with_reducible repeat' first
    | assumption | rfl | split | refine Kept.setPortSame ?_ rfl
    | fail_if_no_progress refine Kept.upd ?_ rfl rfl rfl rfl | apply Kept.foldl | apply Kept.foldl_fst
    | apply Kept.foldl_snd | apply Kept.ite | intro _


theorem meterSetRun_kept {s : State} (c : Cmd) (x : State) (r t) (e : meterSetRun c x = .ok (r, t)) (h : Kept s x) :
    Kept s t := by
  unfold meterSetRun at e
  try dsimp only at e
  repeat' split at e
  all_goals first
    | (cases e; done)
    | (injection e with e; have e := congrArg Prod.snd e; dsimp only at e; subst e)
  all_goals
   with_reducible repeat' first
    | assumption | apply loadProfile_kept | fail_if_no_progress refine Kept.upd ?_ rfl rfl rfl rfl


theorem execMeterSet_kept {s : State} (p : Packet) (x : State) (t : State) (e : execMeterSet p x = .next t) (h : Kept s x) : Kept s t :=
  next_kept e (plazaRun_kept _ _ _ _ _ (fun c y => immediate_kept _ c y meterSetRun_kept) h)

theorem loadGates_kept {s : State} (l : GateList) (clear : Bool) (x : State) (h : Kept s x) :
    Kept s (loadGates l clear x) := by
  unfold loadGates
  try dsimp only
  with_reducible repeat' first | assumption | fail_if_no_progress refine Kept.upd ?_ rfl rfl rfl rfl


theorem gatelistLoadRun_kept {s : State} (c : Cmd) (x : State) (r t) (e : gatelistLoadRun c x = .ok (r, t)) (h : Kept s x) :
    Kept s t := by
  unfold gatelistLoadRun at e
  try dsimp only at e
  repeat' split at e
  all_goals first
    | (cases e; done)
    | (injection e with e; have e := congrArg Prod.snd e; dsimp only at e; subst e)
  all_goals
   with_reducible repeat' first
    | assumption | rfl | apply loadGates_kept | split | refine Kept.setPortSame ?_ rfl
    | fail_if_no_progress refine Kept.upd ?_ rfl rfl rfl rfl | apply Kept.foldl | apply Kept.foldl_fst
    | apply Kept.foldl_snd | apply Kept.ite | intro _


theorem execGatelistLoad_kept {s : State} (p : Packet) (x : State) (t : State) (e : execGatelistLoad p x = .next t) (h : Kept s x) : Kept s t :=
  next_kept e (plazaRun_kept _ _ _ _ _ (fun c y => immediate_kept _ c y gatelistLoadRun_kept) h)

theorem gatelistStatusRun_kept {s : State} (c : Cmd) (x : State) (r t) (e : gatelistStatusRun c x = .ok (r, t)) (h : Kept s x) :
    Kept s t := by
  unfold gatelistStatusRun at e
  try dsimp only at e
  repeat' split at e
  all_goals first
    | (cases e; done)
    | (injection e with e; have e := congrArg Prod.snd e; dsimp only at e; subst e)
  all_goals
   with_reducible repeat' first | assumption


theorem execGatelistStatus_kept {s : State} (p : Packet) (x : State) (t : State) (e : execGatelistStatus p x = .next t) (h : Kept s x) : Kept s t :=
  next_kept e (plazaRun_kept _ _ _ _ _ (fun c y => immediate_kept _ c y gatelistStatusRun_kept) h)

theorem gateSwap_kept {s : State} (x : State) (h : Kept s x) :
    Kept s (gateSwap x) := by
  unfold gateSwap
  try dsimp only
  with_reducible repeat' first
    | assumption | rfl | apply raise_kept | split | refine Kept.setPortSame ?_ rfl
    | fail_if_no_progress refine Kept.upd ?_ rfl rfl rfl rfl | apply Kept.foldl | apply Kept.foldl_fst
    | apply Kept.foldl_snd | apply Kept.ite | intro _


theorem execGateSwapped_kept {s : State} (x : State) (t : State) (e : execGateSwapped x = .next t) (h : Kept s x) :
    Kept s t := by
  unfold execGateSwapped at e
  try dsimp only at e
  repeat' split at e
  all_goals first
    | (cases e; done)
    | (injection e with e; subst e)
    | skip
  all_goals
   with_reducible repeat' first
    | assumption | rfl | apply gateSwap_kept | split | refine Kept.setPortSame ?_ rfl
    | fail_if_no_progress refine Kept.upd ?_ rfl rfl rfl rfl | apply Kept.foldl | apply Kept.foldl_fst
    | apply Kept.foldl_snd | apply Kept.ite | intro _ | dsimp only | refine EKept.seq ?_ | refine EKept.goto ?_
    | refine EKept.transfer ?_ | refine EKept.exc ?_ | apply EKept.ite


theorem signedUs_kept {s : State} (x0 : ℤ) (x : State) (h : Kept s x) :
    Kept s (signedUs x0 x).2 := by
  unfold signedUs
  try dsimp only
  with_reducible repeat' first | assumption | apply drawWord_kept | split


theorem checkLow_kept {s : State} (i : Fin 16) (x : State) (h : Kept s x) :
    Kept s (checkLow i x) := by
  unfold checkLow
  try dsimp only
  with_reducible repeat' first
    | assumption | apply signedUs_kept | apply raise_kept | split
    | fail_if_no_progress refine Kept.upd ?_ rfl rfl rfl rfl


theorem checkAllLow_kept {s : State} (x : State) (h : Kept s x) :
    Kept s (checkAllLow x) := by
  unfold checkAllLow
  try dsimp only
  with_reducible repeat' first | assumption | apply checkLow_kept | apply Kept.foldl | intro _


theorem charge_kept {s : State} (i : Fin 16) (t0 : ℕ) (x : State) (h : Kept s x) :
    Kept s (charge i t0 x) := by
  unfold charge
  try dsimp only
  with_reducible repeat' first | assumption | apply checkLow_kept | fail_if_no_progress refine Kept.upd ?_ rfl rfl rfl rfl


theorem refund_kept {s : State} (i : Fin 16) (t0 : ℕ) (number : ℕ) (x : State) (h : Kept s x) :
    Kept s (refund i t0 number x) := by
  unfold refund
  try dsimp only
  with_reducible repeat' first
    | assumption | apply checkLow_kept | split | fail_if_no_progress refine Kept.upd ?_ rfl rfl rfl rfl


theorem rollBuckets_kept {s : State} (x : State) (h : Kept s x) :
    Kept s (rollBuckets x) := by
  unfold rollBuckets
  try dsimp only
  with_reducible repeat' first | assumption | fail_if_no_progress refine Kept.upd ?_ rfl rfl rfl rfl


theorem ageBuckets_kept {s : State} (x : State) (h : Kept s x) :
    Kept s (ageBuckets x) := by
  unfold ageBuckets
  try dsimp only
  with_reducible repeat' first
    | assumption | rfl | apply checkAllLow_kept | split | refine Kept.setPortSame ?_ rfl
    | fail_if_no_progress refine Kept.upd ?_ rfl rfl rfl rfl | apply Kept.foldl | apply Kept.foldl_fst
    | apply Kept.foldl_snd | apply Kept.ite | intro _


theorem bucketRoll_kept {s : State} (x : State) (h : Kept s x) :
    Kept s (bucketRoll x) := by
  unfold bucketRoll
  try dsimp only
  with_reducible repeat' first | assumption | apply checkAllLow_kept | apply rollBuckets_kept | split


theorem execBucketRoll_kept {s : State} (x : State) (t : State) (e : execBucketRoll x = .next t) (h : Kept s x) : Kept s t :=
  next_kept e (bucketRoll_kept _ h)

theorem budgetWrite_kept {s : State} (x : State) (h : Kept s x) :
    Kept s (budgetWrite x) := by
  unfold budgetWrite
  try dsimp only
  with_reducible repeat' first | assumption | split | fail_if_no_progress refine Kept.upd ?_ rfl rfl rfl rfl


theorem budgetJournalWrite_kept {s : State} (x : State) (h : Kept s x) :
    Kept s (budgetJournalWrite x) := by
  unfold budgetJournalWrite
  try dsimp only
  with_reducible repeat' first
    | assumption | apply budgetWrite_kept | split | fail_if_no_progress refine Kept.upd ?_ rfl rfl rfl rfl


theorem execBudgetJournalWrite_kept {s : State} (x : State) (t : State) (e : execBudgetJournalWrite x = .next t) (h : Kept s x) : Kept s t :=
  next_kept e (budgetJournalWrite_kept _ h)

theorem budgetRestore_kept {s : State} (aged : Bool) (x : State) (h : Kept s x) :
    Kept s (budgetRestore aged x) := by
  unfold budgetRestore
  try dsimp only
  with_reducible repeat' first | assumption | split | fail_if_no_progress refine Kept.upd ?_ rfl rfl rfl rfl


theorem moveCharges_kept {s : State} (now : ℕ) (x : State) (h : Kept s x) :
    Kept s (moveCharges now x) := by
  unfold moveCharges
  try dsimp only
  with_reducible repeat' first
    | assumption | rfl | split | refine Kept.setPortSame ?_ rfl
    | fail_if_no_progress refine Kept.upd ?_ rfl rfl rfl rfl | apply Kept.foldl | apply Kept.foldl_fst
    | apply Kept.foldl_snd | apply Kept.ite | intro _


theorem setWindow_kept {s : State} (n : ℕ) (sec : ℕ) (x : State) (h : Kept s x) :
    Kept s (setWindow n sec x) := by
  unfold setWindow
  try dsimp only
  with_reducible repeat' first
    | assumption | rfl | apply moveCharges_kept | split | refine Kept.setPortSame ?_ rfl
    | fail_if_no_progress refine Kept.upd ?_ rfl rfl rfl rfl | apply Kept.foldl | apply Kept.foldl_fst
    | apply Kept.foldl_snd | apply Kept.ite | intro _


theorem setLimits_kept {s : State} (i : Nat) (ws : List Word) (x : State) (h : Kept s x) : Kept s (setLimits i ws x) := by
  fun_induction setLimits i ws x with
  | case1 i l r rest x k a ih => exact ih (h.same rfl rfl rfl rfl rfl rfl rfl)
  | case2 => exact h

theorem applyBudget_kept {s : State} (ps : List Word) (x : State) (h : Kept s x) :
    Kept s (applyBudget ps x) := by
  unfold applyBudget
  try dsimp only
  with_reducible repeat' first | assumption | apply checkAllLow_kept | apply setLimits_kept | apply setWindow_kept


theorem budgetLoadRun_kept {s : State} (c : Cmd) (x : State) (r t) (e : budgetLoadRun c x = .ok (r, t)) (h : Kept s x) :
    Kept s t := by
  unfold budgetLoadRun at e
  try dsimp only at e
  repeat' split at e
  all_goals first
    | (cases e; done)
    | (injection e with e; have e := congrArg Prod.snd e; dsimp only at e; subst e)
  all_goals
   with_reducible repeat' first
    | assumption | rfl | apply applyBudget_kept | apply extendMr_kept | apply budgetWrite_kept | split
    | refine Kept.setPortSame ?_ rfl | fail_if_no_progress refine Kept.upd ?_ rfl rfl rfl rfl | apply Kept.foldl
    | apply Kept.foldl_fst | apply Kept.foldl_snd | apply Kept.ite | intro _


theorem execBudgetLoad_kept {s : State} (p : Packet) (x : State) (t : State) (e : execBudgetLoad p x = .next t) (h : Kept s x) : Kept s t :=
  next_kept e (plazaRun_kept _ _ _ _ _ (fun c y => immediate_kept _ c y budgetLoadRun_kept) h)

theorem budgetReadRun_kept {s : State} (c : Cmd) (x : State) (r t) (e : budgetReadRun c x = .ok (r, t)) (h : Kept s x) :
    Kept s t := by
  unfold budgetReadRun at e
  try dsimp only at e
  repeat' split at e
  all_goals first
    | (cases e; done)
    | (injection e with e; have e := congrArg Prod.snd e; dsimp only at e; subst e)
  all_goals
   with_reducible repeat' first | assumption | apply signedUs_kept


theorem execBudgetRead_kept {s : State} (p : Packet) (x : State) (t : State) (e : execBudgetRead p x = .next t) (h : Kept s x) : Kept s t :=
  next_kept e (plazaRun_kept _ _ _ _ _ (fun c y => immediate_kept _ c y budgetReadRun_kept) h)

theorem ledgerReadRun_kept {s : State} (c : Cmd) (x : State) (r t) (e : ledgerReadRun c x = .ok (r, t)) (h : Kept s x) :
    Kept s t := by
  unfold ledgerReadRun at e
  try dsimp only at e
  repeat' split at e
  all_goals first
    | (cases e; done)
    | (injection e with e; have e := congrArg Prod.snd e; dsimp only at e; subst e)
  all_goals
   with_reducible repeat' first | assumption


theorem execLedgerRead_kept {s : State} (p : Packet) (x : State) (t : State) (e : execLedgerRead p x = .next t) (h : Kept s x) : Kept s t :=
  next_kept e (plazaRun_kept _ _ _ _ _ (fun c y => immediate_kept _ c y ledgerReadRun_kept) h)

end Sys2Proof.Machine
end

