-- ==== Sys2Proof/Laws/KeptRadio.lean ====
section
/-! SUPPORT. Every operation of Machine/Radio.lean keeps what `Kept` says. -/

namespace Sys2Proof.Machine
open Sys2Proof


theorem runSeq_kept {s : State} (q : List FemStep) (x : State) (h : Kept s x) :
    Kept s (runSeq q x) := by
  unfold runSeq
  try dsimp only
  with_reducible repeat' first | assumption | apply femPins_kept


theorem takeShape_kept {s : State} (x : State) (h : Kept s x) :
    Kept s (takeShape x) := by
  unfold takeShape
  try dsimp only
  with_reducible repeat' first
    | assumption | rfl | split | refine Kept.setPortSame ?_ rfl
    | fail_if_no_progress refine Kept.upd ?_ rfl rfl rfl rfl | apply Kept.foldl | apply Kept.foldl_fst
    | apply Kept.foldl_snd | apply Kept.ite | intro _


theorem idleToTx_kept {s : State} (carrier : ℕ) (for_ : SettleFor) (x : State) (h : Kept s x) :
    Kept s (idleToTx carrier for_ x) := by
  unfold idleToTx
  try dsimp only
  with_reducible repeat' first
    | assumption | rfl | apply startSettle_kept | apply takeShape_kept | split | refine Kept.setPortSame ?_ rfl
    | fail_if_no_progress refine Kept.upd ?_ rfl rfl rfl rfl | apply Kept.foldl | apply Kept.foldl_fst
    | apply Kept.foldl_snd | apply Kept.ite | intro _


theorem startReturn_kept {s : State} (x : State) (h : Kept s x) :
    Kept s (startReturn x) := by
  unfold startReturn
  try dsimp only
  with_reducible repeat' first
    | assumption | rfl | apply runSeq_kept | apply startSettle_kept | split | refine Kept.setPortSame ?_ rfl
    | fail_if_no_progress refine Kept.upd ?_ rfl rfl rfl rfl | apply Kept.foldl | apply Kept.foldl_fst
    | apply Kept.foldl_snd | apply Kept.ite | intro _


theorem giveUpTx_kept {s : State} (x : State) (h : Kept s x) :
    Kept s (giveUpTx x) := by
  unfold giveUpTx
  try dsimp only
  with_reducible repeat' first
    | assumption | rfl | apply startReturn_kept | apply settleRx_kept | apply toIdle_kept | split
    | refine Kept.setPortSame ?_ rfl | fail_if_no_progress refine Kept.upd ?_ rfl rfl rfl rfl | apply Kept.foldl
    | apply Kept.foldl_fst | apply Kept.foldl_snd | apply Kept.ite | intro _


theorem readyFrame_kept {s : State} (fid : ℕ) (units : ℕ) (x : State) (h : Kept s x) :
    Kept s (readyFrame fid units x) := by
  unfold readyFrame
  try dsimp only
  with_reducible repeat' first
    | assumption | rfl | apply startReturn_kept | apply endFrame_kept | apply runSeq_kept | apply updateFrame_kept
    | split | refine Kept.setPortSame ?_ rfl | fail_if_no_progress refine Kept.upd ?_ rfl rfl rfl rfl
    | apply Kept.foldl | apply Kept.foldl_fst | apply Kept.foldl_snd | apply Kept.ite | intro _


theorem readyTx_kept {s : State} (for_ : SettleFor) (units : ℕ) (x : State) (h : Kept s x) :
    Kept s (readyTx for_ units x) := by
  unfold readyTx
  try dsimp only
  with_reducible repeat' first
    | assumption | rfl | apply readyFrame_kept | apply runSeq_kept | split | refine Kept.setPortSame ?_ rfl
    | fail_if_no_progress refine Kept.upd ?_ rfl rfl rfl rfl | apply Kept.foldl | apply Kept.foldl_fst
    | apply Kept.foldl_snd | apply Kept.ite | intro _


theorem turnToTx_kept {s : State} (carrier : ℕ) (for_ : SettleFor) (x : State) (h : Kept s x) :
    Kept s (turnToTx carrier for_ x) := by
  unfold turnToTx
  try dsimp only
  with_reducible repeat' first
    | assumption | rfl | apply runSeq_kept | apply startBlank_kept | apply takeShape_kept | apply startSettle_kept
    | apply readyTx_kept | split | refine Kept.setPortSame ?_ rfl
    | fail_if_no_progress refine Kept.upd ?_ rfl rfl rfl rfl | apply Kept.foldl | apply Kept.foldl_fst
    | apply Kept.foldl_snd | apply Kept.ite | intro _


theorem turnRxDone_kept {s : State} (x : State) (h : Kept s x) :
    Kept s (turnRxDone x) := by
  unfold turnRxDone
  try dsimp only
  with_reducible repeat' first
    | assumption | rfl | apply runSeq_kept | apply endBlank_kept | apply toIdle_kept | apply settleRx_kept | split
    | refine Kept.setPortSame ?_ rfl | fail_if_no_progress refine Kept.upd ?_ rfl rfl rfl rfl | apply Kept.foldl
    | apply Kept.foldl_fst | apply Kept.foldl_snd | apply Kept.ite | intro _


theorem leaveWindow_kept {s : State} (carrier : ℕ) (x : State) (h : Kept s x) :
    Kept s (leaveWindow carrier x) := by
  unfold leaveWindow
  try dsimp only
  with_reducible repeat' first
    | assumption | rfl | apply settleRx_kept | apply endBlank_kept | apply toIdle_kept | split
    | refine Kept.setPortSame ?_ rfl | fail_if_no_progress refine Kept.upd ?_ rfl rfl rfl rfl | apply Kept.foldl
    | apply Kept.foldl_fst | apply Kept.foldl_snd | apply Kept.ite | intro _


theorem execTurnRxDone_kept {s : State} (x : State) (t : State) (e : execTurnRxDone x = .next t) (h : Kept s x) : Kept s t :=
  next_kept e (turnRxDone_kept _ h)

theorem settleDone_kept {s : State} (x : State) (h : Kept s x) :
    Kept s (settleDone x) := by
  unfold settleDone
  try dsimp only
  with_reducible repeat' first
    | assumption | rfl | apply runSeq_kept | apply endBlank_kept | apply readyTx_kept | apply startBlank_kept | split
    | refine Kept.setPortSame ?_ rfl | fail_if_no_progress refine Kept.upd ?_ rfl rfl rfl rfl | apply Kept.foldl
    | apply Kept.foldl_fst | apply Kept.foldl_snd | apply Kept.ite | intro _


theorem execSettleDone_kept {s : State} (x : State) (t : State) (e : execSettleDone x = .next t) (h : Kept s x) : Kept s t :=
  next_kept e (settleDone_kept _ h)

theorem oscStep_kept {s : State} (result : Word) (x : State) (h : Kept s x) :
    Kept s (oscStep result x) := by
  unfold oscStep
  try dsimp only
  with_reducible repeat' first
    | assumption | rfl | apply femPins_kept | split | refine Kept.setPortSame ?_ rfl
    | fail_if_no_progress refine Kept.upd ?_ rfl rfl rfl rfl | apply Kept.foldl | apply Kept.foldl_fst
    | apply Kept.foldl_snd | apply Kept.ite | intro _


theorem lockTimeout_kept {s : State} (result : Word) (x : State) (h : Kept s x) :
    Kept s (lockTimeout result x) := by
  unfold lockTimeout
  try dsimp only
  with_reducible repeat' first
    | assumption | rfl | apply startSettle_kept | apply oscStep_kept | apply giveUpTx_kept | apply bumpPipe_kept
    | apply refund_kept | apply sendBack_kept | split | refine Kept.setPortSame ?_ rfl
    | fail_if_no_progress refine Kept.upd ?_ rfl rfl rfl rfl | apply Kept.foldl | apply Kept.foldl_fst
    | apply Kept.foldl_snd | apply Kept.ite | intro _


theorem execSynthLockTimeout_kept {s : State} (osc : Word) (x : State) (t : State) (e : execSynthLockTimeout osc x = .next t) (h : Kept s x) : Kept s t :=
  next_kept e (lockTimeout_kept _ _ h)

theorem calStep_kept {s : State} (x : State) (h : Kept s x) :
    Kept s (calStep x) := by
  unfold calStep
  try dsimp only
  with_reducible repeat' first
    | assumption | rfl | apply releaseWhere_kept | apply femPins_kept | split | refine Kept.setPortSame ?_ rfl
    | fail_if_no_progress refine Kept.upd ?_ rfl rfl rfl rfl | apply Kept.foldl | apply Kept.foldl_fst
    | apply Kept.foldl_snd | apply Kept.ite | intro _


theorem execCalStep_kept {s : State} (x : State) (t : State) (e : execCalStep x = .next t) (h : Kept s x) : Kept s t :=
  next_kept e (calStep_kept _ h)

theorem calDone_kept {s : State} (o : CalRunOp) (st : Status) (x : State) (h : Kept s x) :
    Kept s (calDone o st x) := by
  unfold calDone
  try dsimp only
  with_reducible repeat' first
    | assumption | rfl | apply completeEvent_kept | split | refine Kept.setPortSame ?_ rfl
    | fail_if_no_progress refine Kept.upd ?_ rfl rfl rfl rfl | apply Kept.foldl | apply Kept.foldl_fst
    | apply Kept.foldl_snd | apply Kept.ite | intro _


theorem finishCal_kept {s : State} (k : CalKind) (words : List Word) (x : State) (h : Kept s x) :
    Kept s (finishCal k words x) := by
  unfold finishCal
  try dsimp only
  with_reducible repeat' first
    | assumption | rfl | apply calDone_kept | split | refine Kept.setPortSame ?_ rfl
    | fail_if_no_progress refine Kept.upd ?_ rfl rfl rfl rfl | apply Kept.foldl | apply Kept.foldl_fst
    | apply Kept.foldl_snd | apply Kept.ite | intro _


theorem afterStep_kept {s : State} (x : State) (h : Kept s x) :
    Kept s (afterStep x) := by
  unfold afterStep
  try dsimp only
  with_reducible repeat' first
    | assumption | rfl | apply turnToTx_kept | apply idleToTx_kept | apply runSeq_kept | apply settleRx_kept | split
    | refine Kept.setPortSame ?_ rfl | fail_if_no_progress refine Kept.upd ?_ rfl rfl rfl rfl | apply Kept.foldl
    | apply Kept.foldl_fst | apply Kept.foldl_snd | apply Kept.ite | intro _


theorem endDrain_kept {s : State} (x : State) (h : Kept s x) :
    Kept s (endDrain x) := by
  unfold endDrain
  try dsimp only
  with_reducible repeat' first
    | assumption | rfl | split | refine Kept.setPortSame ?_ rfl
    | fail_if_no_progress refine Kept.upd ?_ rfl rfl rfl rfl | apply Kept.foldl | apply Kept.foldl_fst
    | apply Kept.foldl_snd | apply Kept.ite | intro _


theorem calStepEnd_kept {s : State} (result : List Word) (x : State) (h : Kept s x) :
    Kept s (calStepEnd result x) := by
  unfold calStepEnd
  try dsimp only
  with_reducible repeat' first
    | assumption | rfl | apply endDrain_kept | apply afterStep_kept | apply finishCal_kept | split
    | refine Kept.setPortSame ?_ rfl | fail_if_no_progress refine Kept.upd ?_ rfl rfl rfl rfl | apply Kept.foldl
    | apply Kept.foldl_fst | apply Kept.foldl_snd | apply Kept.ite | intro _


theorem execCalStepEnd_kept {s : State} (result : List Word) (x : State) (t : State) (e : execCalStepEnd result x = .next t) (h : Kept s x) : Kept s t :=
  next_kept e (calStepEnd_kept _ _ h)

theorem calRunExpired_kept {s : State} (x : State) (h : Kept s x) :
    Kept s (calRunExpired x) := by
  unfold calRunExpired
  try dsimp only
  with_reducible repeat' first | assumption | apply calDone_kept | split


theorem execCalRunExpired_kept {s : State} (x : State) (t : State) (e : execCalRunExpired x = .next t) (h : Kept s x) : Kept s t :=
  next_kept e (calRunExpired_kept _ h)

theorem calPeriodExpiry_kept {s : State} (tempTenths : ℤ) (sensors : Sensors) (x : State) (h : Kept s x) :
    Kept s (calPeriodExpiry tempTenths sensors x) := by
  unfold calPeriodExpiry
  try dsimp only
  with_reducible repeat' first
    | assumption | rfl | apply sampleTemp_kept | split | refine Kept.setPortSame ?_ rfl
    | fail_if_no_progress refine Kept.upd ?_ rfl rfl rfl rfl | apply Kept.foldl | apply Kept.foldl_fst
    | apply Kept.foldl_snd | apply Kept.ite | intro _


theorem execCalPeriodExpiry_kept {s : State} (tempTenths : ℤ) (sensors : Sensors) (x : State) (t : State) (e : execCalPeriodExpiry tempTenths sensors x = .next t) (h : Kept s x) : Kept s t :=
  next_kept e (calPeriodExpiry_kept _ _ _ h)

theorem rffeOn_kept {s : State} (x : State) (h : Kept s x) :
    Kept s (rffeOn x) := by
  unfold rffeOn
  try dsimp only
  with_reducible repeat' first
    | assumption | rfl | apply femPins_kept | split | refine Kept.setPortSame ?_ rfl
    | fail_if_no_progress refine Kept.upd ?_ rfl rfl rfl rfl | apply Kept.foldl | apply Kept.foldl_fst
    | apply Kept.foldl_snd | apply Kept.ite | intro _


theorem rffeOff_kept {s : State} (x : State) (h : Kept s x) :
    Kept s (rffeOff x) := by
  unfold rffeOff
  try dsimp only
  with_reducible repeat' first
    | assumption | rfl | apply femPins_kept | split | refine Kept.setPortSame ?_ rfl
    | fail_if_no_progress refine Kept.upd ?_ rfl rfl rfl rfl | apply Kept.foldl | apply Kept.foldl_fst
    | apply Kept.foldl_snd | apply Kept.ite | intro _


theorem radioRun_kept {s : State} (code : Nat) (lenOk : List Word → Bool) (f : Cmd → State → Except Status (List Word × State))
    (p : Packet) (x : State) (hf : ∀ c y r t, f c y = .ok (r, t) → Kept s y → Kept s t) (h : Kept s x) :
    Kept s (radioRun code lenOk f p x) := by
  unfold radioRun
  split
  · exact h
  · exact plazaRun_kept _ _ _ _ _ (fun c y => immediate_kept f c y hf) h

theorem rfConfigRun_kept {s : State} (c : Cmd) (x : State) (r t) (e : rfConfigRun c x = .ok (r, t)) (h : Kept s x) :
    Kept s t := by
  unfold rfConfigRun at e
  try dsimp only at e
  repeat' split at e
  all_goals first
    | (cases e; done)
    | (injection e with e; have e := congrArg Prod.snd e; dsimp only at e; subst e)
  all_goals
   with_reducible repeat' first
    | assumption | rfl | split | refine Kept.setPortSame ?_ rfl
    | fail_if_no_progress refine Kept.upd ?_ rfl rfl rfl rfl | apply Kept.foldl | apply Kept.foldl_fst
    | apply Kept.foldl_snd | apply Kept.ite | intro _


theorem execRfConfig_kept {s : State} (p : Packet) (x : State) (t : State) (e : execRfConfig p x = .next t) (h : Kept s x) : Kept s t :=
  next_kept e (radioRun_kept _ _ _ _ _ rfConfigRun_kept h)

theorem calRunRun_kept {s : State} (c : Cmd) (x : State) (h : Kept s x) :
    Kept s (calRunRun c x) := by
  unfold calRunRun
  try dsimp only
  with_reducible repeat' first
    | assumption | rfl | apply finish_kept | apply takeHandle_kept | apply respondAccepted_kept | split
    | refine Kept.setPortSame ?_ rfl | fail_if_no_progress refine Kept.upd ?_ rfl rfl rfl rfl | apply Kept.foldl
    | apply Kept.foldl_fst | apply Kept.foldl_snd | apply Kept.ite | intro _


theorem execCalRun_kept {s : State} (p : Packet) (x : State) (t : State) (e : execCalRun p x = .next t) (h : Kept s x) :
    Kept s t := by
  unfold execCalRun at e
  try dsimp only at e
  repeat' split at e
  all_goals first
    | (cases e; done)
    | (injection e with e; subst e)
    | skip
  all_goals
   with_reducible repeat' first | assumption | apply plazaRun_kept | apply calRunRun_kept


theorem calReadRun_kept {s : State} (c : Cmd) (x : State) (r t) (e : calReadRun c x = .ok (r, t)) (h : Kept s x) :
    Kept s t := by
  unfold calReadRun at e
  try dsimp only at e
  repeat' split at e
  all_goals first
    | (cases e; done)
    | (injection e with e; have e := congrArg Prod.snd e; dsimp only at e; subst e)
  all_goals
   with_reducible repeat' first | assumption | apply drawWords_kept


theorem execCalRead_kept {s : State} (p : Packet) (x : State) (t : State) (e : execCalRead p x = .next t) (h : Kept s x) : Kept s t :=
  next_kept e (radioRun_kept _ _ _ _ _ calReadRun_kept h)

theorem txshapeSetRun_kept {s : State} (c : Cmd) (x : State) (r t) (e : txshapeSetRun c x = .ok (r, t)) (h : Kept s x) :
    Kept s t := by
  unfold txshapeSetRun at e
  try dsimp only at e
  repeat' split at e
  all_goals first
    | (cases e; done)
    | (injection e with e; have e := congrArg Prod.snd e; dsimp only at e; subst e)
  all_goals
   with_reducible repeat' first
    | assumption | rfl | split | refine Kept.setPortSame ?_ rfl
    | fail_if_no_progress refine Kept.upd ?_ rfl rfl rfl rfl | apply Kept.foldl | apply Kept.foldl_fst
    | apply Kept.foldl_snd | apply Kept.ite | intro _


theorem execTxshapeSet_kept {s : State} (p : Packet) (x : State) (t : State) (e : execTxshapeSet p x = .next t) (h : Kept s x) : Kept s t :=
  next_kept e (plazaRun_kept _ _ _ _ _ (fun c y => immediate_kept _ c y txshapeSetRun_kept) h)

theorem femSeqSetRun_kept {s : State} (c : Cmd) (x : State) (r t) (e : femSeqSetRun c x = .ok (r, t)) (h : Kept s x) :
    Kept s t := by
  unfold femSeqSetRun at e
  try dsimp only at e
  repeat' split at e
  all_goals first
    | (cases e; done)
    | (injection e with e; have e := congrArg Prod.snd e; dsimp only at e; subst e)
  all_goals
   with_reducible repeat' first
    | assumption | rfl | apply femPins_kept | split | refine Kept.setPortSame ?_ rfl
    | fail_if_no_progress refine Kept.upd ?_ rfl rfl rfl rfl | apply Kept.foldl | apply Kept.foldl_fst
    | apply Kept.foldl_snd | apply Kept.ite | intro _


theorem execFemSeqSet_kept {s : State} (p : Packet) (x : State) (t : State) (e : execFemSeqSet p x = .next t) (h : Kept s x) : Kept s t :=
  next_kept e (plazaRun_kept _ _ _ _ _ (fun c y => immediate_kept _ c y femSeqSetRun_kept) h)

theorem takeRegion_kept {s : State} (ps : List Word) (r0 : Region) (x : State) (h : Kept s x) :
    Kept s (takeRegion ps r0 x) := by
  unfold takeRegion
  try dsimp only
  with_reducible repeat' first
    | assumption | rfl | apply extendMr_kept | split | refine Kept.setPortSame ?_ rfl
    | fail_if_no_progress refine Kept.upd ?_ rfl rfl rfl rfl | apply Kept.foldl | apply Kept.foldl_fst
    | apply Kept.foldl_snd | apply Kept.ite | intro _


theorem regionLoadRun_kept {s : State} (c : Cmd) (x : State) (r t) (e : regionLoadRun c x = .ok (r, t)) (h : Kept s x) :
    Kept s t := by
  unfold regionLoadRun at e
  try dsimp only at e
  repeat' split at e
  all_goals first
    | (cases e; done)
    | (injection e with e; have e := congrArg Prod.snd e; dsimp only at e; subst e)
  all_goals
   with_reducible repeat' first
    | assumption | rfl | apply takeRegion_kept | split | refine Kept.setPortSame ?_ rfl
    | fail_if_no_progress refine Kept.upd ?_ rfl rfl rfl rfl | apply Kept.foldl | apply Kept.foldl_fst
    | apply Kept.foldl_snd | apply Kept.ite | intro _


theorem execRegionLoad_kept {s : State} (p : Packet) (x : State) (t : State) (e : execRegionLoad p x = .next t) (h : Kept s x) : Kept s t :=
  next_kept e (radioRun_kept _ _ _ _ _ regionLoadRun_kept h)

end Sys2Proof.Machine
end

