-- ==== Sys2Proof/Laws/KeptMeet.lean ====
section
/-! SUPPORT. Every operation of Machine/Meet.lean keeps what `Kept` says. -/

namespace Sys2Proof.Machine
open Sys2Proof


theorem drawRandom_kept {s : State} (x : State) (h : Kept s x) :
    Kept s (drawRandom x).2 := by
  unfold drawRandom
  try dsimp only
  with_reducible repeat' first | assumption | apply drbgWords_kept | split


theorem randomUpTo_kept {s : State} (n : ℕ) (x : State) (h : Kept s x) :
    Kept s (randomUpTo n x).2 := by
  unfold randomUpTo
  try dsimp only
  with_reducible repeat' first | assumption | apply drawRandom_kept


theorem updateRdv_kept {s : State} (a : BitVec 24) (f : Rdv → Rdv) (x : State) (h : Kept s x) :
    Kept s (updateRdv a f x) := by
  unfold updateRdv
  try dsimp only
  with_reducible repeat' first | assumption | fail_if_no_progress refine Kept.upd ?_ rfl rfl rfl rfl


theorem raiseMissed_kept {s : State} (r0 : Rdv) (misses : ℕ) (at_ : ℕ) (half : ℕ) (x : State) (h : Kept s x) :
    Kept s (raiseMissed r0 misses at_ half x) := by
  unfold raiseMissed
  try dsimp only
  with_reducible repeat' first | assumption | apply raise_kept


theorem contact_kept {s : State} (a : BitVec 24) (t0 : DWord) (e0 : ℤ) (x : State) (h : Kept s x) :
    Kept s (contact a t0 e0 x) := by
  unfold contact
  try dsimp only
  with_reducible repeat' first
    | assumption | rfl | apply updateRdv_kept | apply raise_kept | split | refine Kept.setPortSame ?_ rfl
    | fail_if_no_progress refine Kept.upd ?_ rfl rfl rfl rfl | apply Kept.foldl | apply Kept.foldl_fst
    | apply Kept.foldl_snd | apply Kept.ite | intro _


end Sys2Proof.Machine
end

