-- ==== Sys2Proof/Laws/KeptLinks.lean ====
section
/-! SUPPORT. Every operation of Machine/Links.lean keeps what `Kept` says. -/

namespace Sys2Proof.Machine
open Sys2Proof


theorem waitKeys_kept {s : State} (f : Cmd → State → State) (c : Cmd) (x : State)
    (hf : ∀ c y, Kept s y → Kept s (f c y)) (h : Kept s x) : Kept s (waitKeys f c x) := by
  unfold waitKeys
  split
  · exact h.same rfl rfl rfl rfl rfl rfl rfl
  · exact hf _ _ h

theorem replaceEntry_kept {s : State} (old : LinkEntry) (e0 : LinkEntry) (x : State) (h : Kept s x) :
    Kept s (replaceEntry old e0 x) := by
  unfold replaceEntry
  try dsimp only
  with_reducible repeat' first
    | assumption | rfl | split | refine Kept.setPortSame ?_ rfl
    | fail_if_no_progress refine Kept.upd ?_ rfl rfl rfl rfl | apply Kept.foldl | apply Kept.foldl_fst
    | apply Kept.foldl_snd | apply Kept.ite | intro _


theorem linkAddDo_kept {s : State} (c : Cmd) (x : State) (h : Kept s x) :
    Kept s (linkAddDo c x) := by
  unfold linkAddDo
  try dsimp only
  with_reducible repeat' first
    | assumption | apply finish_kept | apply lookupShort_kept | apply writeThrough_kept | apply replaceEntry_kept
    | apply placeLink_kept | split


theorem execLinkAdd_kept {s : State} (p : Packet) (x : State) (t : State) (e : execLinkAdd p x = .next t) (h : Kept s x) : Kept s t :=
  next_kept e (plazaRun_kept _ _ _ _ _ (fun c y => waitKeys_kept _ c y linkAddDo_kept) h)

theorem selectEntry_kept {s : State} (ps : List Word) (x : State) (h : Kept s x) :
    Kept s (selectEntry ps x).2 := by
  unfold selectEntry
  try dsimp only
  with_reducible repeat' first | assumption | apply lookupShort_kept | split


theorem flushLink_kept {s : State} (i : BitVec 24 × DWord) (x : State) (h : Kept s x) :
    Kept s (flushLink i x) := by
  unfold flushLink
  try dsimp only
  with_reducible repeat' first
    | assumption | rfl | apply endFrame_kept | apply updateFrame_kept | split | refine Kept.setPortSame ?_ rfl
    | fail_if_no_progress refine Kept.upd ?_ rfl rfl rfl rfl | apply Kept.foldl | apply Kept.foldl_fst
    | apply Kept.foldl_snd | apply Kept.ite | intro _


theorem linkDelRun_kept {s : State} (c : Cmd) (x : State) (h : Kept s x) :
    Kept s (linkDelRun c x) := by
  unfold linkDelRun
  try dsimp only
  with_reducible repeat' first
    | assumption | rfl | apply finish_kept | apply selectEntry_kept | apply flushLink_kept | apply updateLink_kept
    | apply dropLink_kept | split | refine Kept.setPortSame ?_ rfl
    | fail_if_no_progress refine Kept.upd ?_ rfl rfl rfl rfl | apply Kept.foldl | apply Kept.foldl_fst
    | apply Kept.foldl_snd | apply Kept.ite | intro _


theorem execLinkDel_kept {s : State} (p : Packet) (x : State) (t : State) (e : execLinkDel p x = .next t) (h : Kept s x) : Kept s t :=
  next_kept e (plazaRun_kept _ _ _ _ _ linkDelRun_kept h)

theorem linkReadRun_kept {s : State} (c : Cmd) (x : State) (h : Kept s x) :
    Kept s (linkReadRun c x) := by
  unfold linkReadRun
  try dsimp only
  with_reducible repeat' first | assumption | apply finish_kept | apply xspiFails_kept | apply dirFault_kept | split


theorem execLinkRead_kept {s : State} (p : Packet) (x : State) (t : State) (e : execLinkRead p x = .next t) (h : Kept s x) : Kept s t :=
  next_kept e (plazaRun_kept _ _ _ _ _ linkReadRun_kept h)

theorem clearStats_kept {s : State} (g : Nat) (x : State) (h : Kept s x) : Kept s (clearStats g x) := by
  unfold clearStats
  split
  all_goals first
    | exact h
    | exact h.same rfl rfl rfl rfl rfl rfl rfl
    | exact h.relane (fun hl p i => by simpa using hl p i) rfl rfl rfl rfl rfl rfl

theorem statsReadRun_kept {s : State} (c : Cmd) (x : State) (r t) (e : statsReadRun c x = .ok (r, t)) (h : Kept s x) :
    Kept s t := by
  unfold statsReadRun at e
  try dsimp only at e
  repeat' split at e
  all_goals first
    | (cases e; done)
    | (injection e with e; have e := congrArg Prod.snd e; dsimp only at e; subst e)
  all_goals
   with_reducible repeat' first | assumption | apply clearStats_kept


theorem execStatsRead_kept {s : State} (p : Packet) (x : State) (t : State) (e : execStatsRead p x = .next t) (h : Kept s x) : Kept s t :=
  next_kept e (plazaRun_kept _ _ _ _ _ (fun c y => immediate_kept _ c y statsReadRun_kept) h)

end Sys2Proof.Machine
end

