-- ==== Sys2Proof/Laws/KeptTransmit.lean ====
section
/-! SUPPORT. Every operation of Machine/Transmit.lean keeps what `Kept` says. -/

namespace Sys2Proof.Machine
open Sys2Proof


theorem txSubmitRun_kept {s : State} (c : Cmd) (x : State) (h : Kept s x) :
    Kept s (txSubmitRun c x) := by
  unfold txSubmitRun
  try dsimp only
  with_reducible repeat' first
    | assumption | rfl | apply finish_kept | apply selectEntry_kept | apply takeHandle_kept
    | apply respondAccepted_kept | apply submitFrame_kept | split | refine Kept.setPortSame ?_ rfl
    | fail_if_no_progress refine Kept.upd ?_ rfl rfl rfl rfl | apply Kept.foldl | apply Kept.foldl_fst
    | apply Kept.foldl_snd | apply Kept.ite | intro _


theorem execTxSubmit_kept {s : State} (p : Packet) (x : State) (t : State) (e : execTxSubmit p x = .next t) (h : Kept s x) : Kept s t :=
  next_kept e (plazaRun_kept _ _ _ _ _ txSubmitRun_kept h)

theorem txCancelRun_kept {s : State} (c : Cmd) (x : State) (h : Kept s x) :
    Kept s (txCancelRun c x) := by
  unfold txCancelRun
  try dsimp only
  with_reducible repeat' first | assumption | apply finish_kept | apply endFrame_kept | split


theorem execTxCancel_kept {s : State} (p : Packet) (x : State) (t : State) (e : execTxCancel p x = .next t) (h : Kept s x) : Kept s t :=
  next_kept e (plazaRun_kept _ _ _ _ _ txCancelRun_kept h)

theorem keepTags_kept {s : State} (f : TxFrame) (x : State) (h : Kept s x) :
    Kept s (keepTags f x) := by
  unfold keepTags
  try dsimp only
  with_reducible repeat' first | assumption | fail_if_no_progress refine Kept.upd ?_ rfl rfl rfl rfl


theorem setHeld_kept {s : State} (fid : ℕ) (h0 : Bool) (x : State) (h : Kept s x) :
    Kept s (setHeld fid h0 x) := by
  unfold setHeld
  try dsimp only
  with_reducible repeat' first
    | assumption | rfl | apply updateFrame_kept | split | refine Kept.setPortSame ?_ rfl
    | fail_if_no_progress refine Kept.upd ?_ rfl rfl rfl rfl | apply Kept.foldl | apply Kept.foldl_fst
    | apply Kept.foldl_snd | apply Kept.ite | intro _


theorem budgetFails_kept {s : State} (f : TxFrame) (b : Fin 16) (t0 : ℕ) (x : State) (h : Kept s x) :
    Kept s (budgetFails f b t0 x) := by
  unfold budgetFails
  try dsimp only
  with_reducible repeat' first | assumption | apply endFrame_kept | apply setHeld_kept | split


theorem bringLink_kept {s : State} (f : TxFrame) (x : State) (h : Kept s x) :
    Kept s (bringLink f x) := by
  unfold bringLink
  try dsimp only
  with_reducible repeat' first
    | assumption | rfl | apply lookupShort_kept | split | refine Kept.setPortSame ?_ rfl
    | fail_if_no_progress refine Kept.upd ?_ rfl rfl rfl rfl | apply Kept.foldl | apply Kept.foldl_fst
    | apply Kept.foldl_snd | apply Kept.ite | intro _


theorem judgeHead_kept {s : State} (q : Fin 32) (x : State) (h : Kept s x) :
    Kept s (judgeHead q x).1 := by
  unfold judgeHead
  try dsimp only
  with_reducible repeat' first
    | assumption | rfl | apply keepTags_kept | apply bringLink_kept | apply budgetFails_kept | apply setHeld_kept
    | apply endFrame_kept | split | refine Kept.setPortSame ?_ rfl
    | fail_if_no_progress refine Kept.upd ?_ rfl rfl rfl rfl | apply Kept.foldl | apply Kept.foldl_fst
    | apply Kept.foldl_snd | apply Kept.ite | intro _


theorem judgeAll_kept {s : State} (x : State) (h : Kept s x) :
    Kept s (judgeAll x).1 := by
  unfold judgeAll
  try dsimp only
  with_reducible repeat' first | assumption | apply judgeHead_kept | apply Kept.foldl_fst | intro _


theorem advanceTags_kept {s : State} (c : Candidate) (x : State) (h : Kept s x) :
    Kept s (advanceTags c x) := by
  unfold advanceTags
  try dsimp only
  with_reducible repeat' first | assumption | fail_if_no_progress refine Kept.upd ?_ rfl rfl rfl rfl


theorem prepare_kept {s : State} (c : Candidate) (x : State) (h : Kept s x) :
    Kept s (prepare c x) := by
  unfold prepare
  try dsimp only
  with_reducible repeat' first
    | assumption | rfl | apply fixColour_kept | apply advanceTags_kept | apply formFrame_kept | apply updateFrame_kept
    | apply turnToTx_kept | apply idleToTx_kept | split | refine Kept.setPortSame ?_ rfl
    | fail_if_no_progress refine Kept.upd ?_ rfl rfl rfl rfl | apply Kept.foldl | apply Kept.foldl_fst
    | apply Kept.foldl_snd | apply Kept.ite | intro _


theorem txChoice_kept {s : State} (x : State) (h : Kept s x) :
    Kept s (txChoice x) := by
  unfold txChoice
  try dsimp only
  with_reducible repeat' first | assumption | apply judgeAll_kept | apply prepare_kept | split


theorem execTxChoice_kept {s : State} (x : State) (t : State) (e : execTxChoice x = .next t) (h : Kept s x) : Kept s t :=
  next_kept e (txChoice_kept _ h)

theorem markSlotSent_kept {s : State} (fid : ℕ) (x : State) (h : Kept s x) :
    Kept s (markSlotSent fid x) := by
  unfold markSlotSent
  try dsimp only
  with_reducible repeat' first
    | assumption | rfl | split | refine Kept.setPortSame ?_ rfl
    | fail_if_no_progress refine Kept.upd ?_ rfl rfl rfl rfl | apply Kept.foldl | apply Kept.foldl_fst
    | apply Kept.foldl_snd | apply Kept.ite | intro _


theorem proposalSent_kept {s : State} (f : TxFrame) (x : State) (h : Kept s x) :
    Kept s (proposalSent f x) := by
  unfold proposalSent
  try dsimp only
  with_reducible repeat' first
    | assumption | rfl | apply loadmapEvent_kept | apply updateFrame_kept | split | refine Kept.setPortSame ?_ rfl
    | fail_if_no_progress refine Kept.upd ?_ rfl rfl rfl rfl | apply Kept.foldl | apply Kept.foldl_fst
    | apply Kept.foldl_snd | apply Kept.ite | intro _


theorem txAttempt_kept {s : State} (x : State) (h : Kept s x) :
    Kept s (txAttempt x) := by
  unfold txAttempt
  try dsimp only
  with_reducible repeat' first
    | assumption | rfl | apply startReturn_kept | apply sendBack_kept | apply endFrame_kept | apply updateFrame_kept
    | apply proposalSent_kept | apply markSlotSent_kept | apply charge_kept | split | refine Kept.setPortSame ?_ rfl
    | fail_if_no_progress refine Kept.upd ?_ rfl rfl rfl rfl | apply Kept.foldl | apply Kept.foldl_fst
    | apply Kept.foldl_snd | apply Kept.ite | intro _


theorem execTxAttempt_kept {s : State} (x : State) (t : State) (e : execTxAttempt x = .next t) (h : Kept s x) : Kept s t :=
  next_kept e (txAttempt_kept _ h)

theorem txEnd_kept {s : State} (x : State) (h : Kept s x) :
    Kept s (txEnd x) := by
  unfold txEnd
  try dsimp only
  with_reducible repeat' first
    | assumption | rfl | apply startReturn_kept | apply updateRdv_kept | apply updateFrame_kept | apply endFrame_kept
    | split | refine Kept.setPortSame ?_ rfl | fail_if_no_progress refine Kept.upd ?_ rfl rfl rfl rfl
    | apply Kept.foldl | apply Kept.foldl_fst | apply Kept.foldl_snd | apply Kept.ite | intro _


theorem execTxEnd_kept {s : State} (x : State) (t : State) (e : execTxEnd x = .next t) (h : Kept s x) : Kept s t :=
  next_kept e (txEnd_kept _ h)

theorem refundAck_kept {s : State} (a : AckDue) (used : ℕ) (x : State) (h : Kept s x) :
    Kept s (refundAck a used x) := by
  unfold refundAck
  try dsimp only
  with_reducible repeat' first
    | assumption | rfl | apply refund_kept | split | refine Kept.setPortSame ?_ rfl
    | fail_if_no_progress refine Kept.upd ?_ rfl rfl rfl rfl | apply Kept.foldl | apply Kept.foldl_fst
    | apply Kept.foldl_snd | apply Kept.ite | intro _


theorem abortAir_kept {s : State} (x : State) (h : Kept s x) :
    Kept s (abortAir x).2 := by
  unfold abortAir
  try dsimp only
  with_reducible repeat' first
    | assumption | rfl | apply startReturn_kept | apply refundAck_kept | apply refund_kept | apply sendBack_kept
    | apply updateFrame_kept | split | refine Kept.setPortSame ?_ rfl
    | fail_if_no_progress refine Kept.upd ?_ rfl rfl rfl rfl | apply Kept.foldl | apply Kept.foldl_fst
    | apply Kept.foldl_snd | apply Kept.ite | intro _


theorem attemptFailed_kept {s : State} (f : TxFrame) (x : State) (h : Kept s x) :
    Kept s (attemptFailed f x) := by
  unfold attemptFailed
  try dsimp only
  with_reducible repeat' first
    | assumption | rfl | apply endFrame_kept | apply randomUpTo_kept | apply updateFrame_kept | split
    | refine Kept.setPortSame ?_ rfl | fail_if_no_progress refine Kept.upd ?_ rfl rfl rfl rfl | apply Kept.foldl
    | apply Kept.foldl_fst | apply Kept.foldl_snd | apply Kept.ite | intro _


theorem listenOn_kept {s : State} (port : PortId) (profile : Fin 16) (x : State) (h : Kept s x) :
    Kept s (listenOn port profile x) := by
  unfold listenOn
  try dsimp only
  with_reducible repeat' first
    | assumption | rfl | split | refine Kept.setPortSame ?_ rfl
    | fail_if_no_progress refine Kept.upd ?_ rfl rfl rfl rfl | apply Kept.foldl | apply Kept.foldl_fst
    | apply Kept.foldl_snd | apply Kept.ite | intro _


theorem listenAfterAck_kept {s : State} (r0 : Rdv) (x : State) (h : Kept s x) :
    Kept s (listenAfterAck r0 x) := by
  unfold listenAfterAck
  try dsimp only
  with_reducible repeat' first
    | assumption | rfl | apply listenOn_kept | apply updateRdv_kept | split | refine Kept.setPortSame ?_ rfl
    | fail_if_no_progress refine Kept.upd ?_ rfl rfl rfl rfl | apply Kept.foldl | apply Kept.foldl_fst
    | apply Kept.foldl_snd | apply Kept.ite | intro _


theorem ackReception_kept {s : State} (psdu : List Byte) (crc : Word) (stamp : DWord) (rfio : ℤ) (bypass : Bool) (x : State) (h : Kept s x) :
    Kept s (ackReception psdu crc stamp rfio bypass x) := by
  unfold ackReception
  try dsimp only
  with_reducible repeat' first
    | assumption | rfl | apply leaveWindow_kept | apply attemptFailed_kept | apply bumpPipe_kept
    | apply updateFrame_kept | apply updateLink_kept | apply contact_kept | apply listenAfterAck_kept
    | apply endFrame_kept | split | refine Kept.setPortSame ?_ rfl
    | fail_if_no_progress refine Kept.upd ?_ rfl rfl rfl rfl | apply Kept.foldl | apply Kept.foldl_fst
    | apply Kept.foldl_snd | apply Kept.ite | intro _


theorem execAckReception_kept {s : State} (psdu : List Byte) (crc : Word) (stamp : DWord) (rfioHalfDb : ℤ) (bypass : Bool) (x : State) (t : State) (e : execAckReception psdu crc stamp rfioHalfDb bypass x = .next t) (h : Kept s x) : Kept s t :=
  next_kept e (ackReception_kept _ _ _ _ _ _ h)

theorem ackWindowClose_kept {s : State} (x : State) (h : Kept s x) :
    Kept s (ackWindowClose x) := by
  unfold ackWindowClose
  try dsimp only
  with_reducible repeat' first | assumption | apply leaveWindow_kept | apply attemptFailed_kept | split


theorem execAckWindowClose_kept {s : State} (x : State) (t : State) (e : execAckWindowClose x = .next t) (h : Kept s x) : Kept s t :=
  next_kept e (ackWindowClose_kept _ h)

theorem retryDelayExpiry_kept {s : State} (fid : ℕ) (x : State) (h : Kept s x) :
    Kept s (retryDelayExpiry fid x) := by
  unfold retryDelayExpiry
  try dsimp only
  with_reducible repeat' first
    | assumption | rfl | apply updateFrame_kept | split | refine Kept.setPortSame ?_ rfl
    | fail_if_no_progress refine Kept.upd ?_ rfl rfl rfl rfl | apply Kept.foldl | apply Kept.foldl_fst
    | apply Kept.foldl_snd | apply Kept.ite | intro _


theorem execRetryDelayExpiry_kept {s : State} (frame : ℕ) (x : State) (t : State) (e : execRetryDelayExpiry frame x = .next t) (h : Kept s x) : Kept s t :=
  next_kept e (retryDelayExpiry_kept _ _ h)

theorem expired_kept {s : State} (fid : ℕ) (x : State) (h : Kept s x) :
    Kept s (expired fid x) := by
  unfold expired
  try dsimp only
  with_reducible repeat' first | assumption | apply endFrame_kept | split


theorem execExpired_kept {s : State} (frame : ℕ) (x : State) (t : State) (e : execExpired frame x = .next t) (h : Kept s x) : Kept s t :=
  next_kept e (expired_kept _ _ h)

theorem lateFrame_kept {s : State} (fid : ℕ) (x : State) (h : Kept s x) :
    Kept s (lateFrame fid x) := by
  unfold lateFrame
  try dsimp only
  with_reducible repeat' first | assumption | apply endFrame_kept | split


theorem execLate_kept {s : State} (frame : ℕ) (x : State) (t : State) (e : execLate frame x = .next t) (h : Kept s x) : Kept s t :=
  next_kept e (lateFrame_kept _ _ h)

end Sys2Proof.Machine
end

