-- ==== Sys2Proof/Laws/KeptRx.lean ====
section
/-! SUPPORT. Every operation of Machine/Rx.lean keeps what `Kept` says. -/

namespace Sys2Proof.Machine
open Sys2Proof


theorem blvdConfigRun_kept {s : State} (c : Cmd) (x : State) (r t) (e : blvdConfigRun c x = .ok (r, t)) (h : Kept s x) :
    Kept s t := by
  unfold blvdConfigRun at e
  try dsimp only at e
  repeat' split at e
  all_goals first
    | (cases e; done)
    | (injection e with e; have e := congrArg Prod.snd e; dsimp only at e; subst e)
  all_goals
   with_reducible repeat' first
    | assumption | rfl | split | refine Kept.setPortSame ?_ rfl
    | fail_if_no_progress refine Kept.upd ?_ rfl rfl rfl rfl | apply Kept.foldl | apply Kept.foldl_fst
    | apply Kept.foldl_snd | apply Kept.ite | intro _


theorem execBlvdConfig_kept {s : State} (p : Packet) (x : State) (t : State) (e : execBlvdConfig p x = .next t) (h : Kept s x) : Kept s t :=
  next_kept e (plazaRun_kept _ _ _ _ _ (fun c y => immediate_kept _ c y blvdConfigRun_kept) h)

theorem retuneReceptions_kept {s : State} (x : State) (h : Kept s x) :
    Kept s (retuneReceptions x) := by
  unfold retuneReceptions
  try dsimp only
  with_reducible repeat' first
    | assumption | rfl | apply settleRx_kept | split | refine Kept.setPortSame ?_ rfl
    | fail_if_no_progress refine Kept.upd ?_ rfl rfl rfl rfl | apply Kept.foldl | apply Kept.foldl_fst
    | apply Kept.foldl_snd | apply Kept.ite | intro _


theorem rxStartRun_kept {s : State} (c : Cmd) (x : State) (r t) (e : rxStartRun c x = .ok (r, t)) (h : Kept s x) :
    Kept s t := by
  unfold rxStartRun at e
  try dsimp only at e
  repeat' split at e
  all_goals first
    | (cases e; done)
    | (injection e with e; have e := congrArg Prod.snd e; dsimp only at e; subst e)
  all_goals
   with_reducible repeat' first
    | assumption | rfl | apply retuneReceptions_kept | split | refine Kept.setPortSame ?_ rfl
    | fail_if_no_progress refine Kept.upd ?_ rfl rfl rfl rfl | apply Kept.foldl | apply Kept.foldl_fst
    | apply Kept.foldl_snd | apply Kept.ite | intro _


theorem execRxStart_kept {s : State} (p : Packet) (x : State) (t : State) (e : execRxStart p x = .next t) (h : Kept s x) : Kept s t :=
  next_kept e (plazaRun_kept _ _ _ _ _ (fun c y => immediate_kept _ c y rxStartRun_kept) h)

theorem rxStopRun_kept {s : State} (c : Cmd) (x : State) (h : Kept s x) :
    Kept s (rxStopRun c x) := by
  unfold rxStopRun
  try dsimp only
  with_reducible repeat' first
    | assumption | rfl | apply finish_kept | apply releaseWhere_kept | apply endReception_kept | split
    | refine Kept.setPortSame ?_ rfl | fail_if_no_progress refine Kept.upd ?_ rfl rfl rfl rfl | apply Kept.foldl
    | apply Kept.foldl_fst | apply Kept.foldl_snd | apply Kept.ite | intro _


theorem execRxStop_kept {s : State} (p : Packet) (x : State) (t : State) (e : execRxStop p x = .next t) (h : Kept s x) : Kept s t :=
  next_kept e (plazaRun_kept _ _ _ _ _ rxStopRun_kept h)

theorem claim_kept {s : State} (metric : ℤ) (keep : Option (Fin 64)) (x : State) (h : Kept s x) :
    Kept s (claim metric keep x).2 := by
  unfold claim
  try dsimp only
  with_reducible repeat' first | assumption | apply release_kept | apply bumpRx_kept | split


theorem seat_kept {s : State} (d : Detect) (pr : Profile) (n : Fin 64) (x : State) (h : Kept s x) :
    Kept s (seat d pr n x) := by
  unfold seat
  try dsimp only
  with_reducible repeat' first | assumption | apply setCtx_kept


theorem formPair_kept {s : State} (p : Fin 8) (newStrong : Bool) (n : Fin 64) (m : Fin 64) (x : State) (h : Kept s x) :
    Kept s (formPair p newStrong n m x) := by
  unfold formPair
  try dsimp only
  with_reducible repeat' first
    | assumption | rfl | apply setCtx_kept | apply bumpRx_kept | split | refine Kept.setPortSame ?_ rfl
    | fail_if_no_progress refine Kept.upd ?_ rfl rfl rfl rfl | apply Kept.foldl | apply Kept.foldl_fst
    | apply Kept.foldl_snd | apply Kept.ite | intro _


theorem claimFor_kept {s : State} (d : Detect) (pr : Profile) (x : State) (h : Kept s x) :
    Kept s (claimFor d pr x) := by
  unfold claimFor
  try dsimp only
  with_reducible repeat' first | assumption | apply claim_kept | apply seat_kept | split


theorem resolveChirp_kept {s : State} (d : Detect) (pr : Profile) (pl : Plan) (n : Fin 64) (x : State) (h : Kept s x) :
    Kept s (resolveChirp d pr pl n x) := by
  unfold resolveChirp
  try dsimp only
  with_reducible repeat' first
    | assumption | apply bumpRx_kept | apply claim_kept | apply formPair_kept | apply seat_kept | apply claimFor_kept
    | apply checkDrains_kept | apply release_kept | split


theorem detectGroup_kept {s : State} (d : Detect) (pr : Profile) (pl : Plan) (x : State) (h : Kept s x) :
    Kept s (detectGroup d pr pl x) := by
  unfold detectGroup
  try dsimp only
  with_reducible repeat' first
    | assumption | apply seat_kept | apply release_kept | apply bumpRx_kept | apply checkDrains_kept
    | apply claimFor_kept | split


theorem detectBlvd_kept {s : State} (d : Detect) (pl : Plan) (x : State) (h : Kept s x) :
    Kept s (detectBlvd d pl x) := by
  unfold detectBlvd
  try dsimp only
  with_reducible repeat' first | assumption | apply detectGroup_kept | apply resolveChirp_kept | apply claimFor_kept | split


theorem alleyGainAt_kept {s : State} (g : Fin 7) (x : State) (h : Kept s x) :
    Kept s (alleyGainAt g x) := by
  unfold alleyGainAt
  try dsimp only
  with_reducible repeat' first
    | assumption | rfl | split | refine Kept.setPortSame ?_ rfl
    | fail_if_no_progress refine Kept.upd ?_ rfl rfl rfl rfl | apply Kept.foldl | apply Kept.foldl_fst
    | apply Kept.foldl_snd | apply Kept.ite | intro _


theorem seatAlley_kept {s : State} (d : Detect) (pr : Profile) (x : State) (h : Kept s x) :
    Kept s (seatAlley d pr x) := by
  unfold seatAlley
  try dsimp only
  with_reducible repeat' first
    | assumption | rfl | apply alleyGainAt_kept | apply setCtx_kept | split | refine Kept.setPortSame ?_ rfl
    | fail_if_no_progress refine Kept.upd ?_ rfl rfl rfl rfl | apply Kept.foldl | apply Kept.foldl_fst
    | apply Kept.foldl_snd | apply Kept.ite | intro _


theorem detectAlley_kept {s : State} (d : Detect) (r0 : Reception) (x : State) (h : Kept s x) :
    Kept s (detectAlley d r0 x) := by
  unfold detectAlley
  try dsimp only
  with_reducible repeat' first
    | assumption | rfl | apply seatAlley_kept | apply release_kept | apply bumpRx_kept | split
    | refine Kept.setPortSame ?_ rfl | fail_if_no_progress refine Kept.upd ?_ rfl rfl rfl rfl | apply Kept.foldl
    | apply Kept.foldl_fst | apply Kept.foldl_snd | apply Kept.ite | intro _


theorem detectOne_kept {s : State} (d : Detect) (x : State) (h : Kept s x) :
    Kept s (detectOne d x) := by
  unfold detectOne
  try dsimp only
  with_reducible repeat' first
    | assumption | rfl | apply detectBlvd_kept | apply detectAlley_kept | split | refine Kept.setPortSame ?_ rfl
    | fail_if_no_progress refine Kept.upd ?_ rfl rfl rfl rfl | apply Kept.foldl | apply Kept.foldl_fst
    | apply Kept.foldl_snd | apply Kept.ite | intro _


theorem detection_kept {s : State} (d : Detect) (rival : Option Detect) (x : State) (h : Kept s x) :
    Kept s (detection d rival x) := by
  unfold detection
  try dsimp only
  with_reducible repeat' first
    | assumption | rfl | apply detectOne_kept | split | refine Kept.setPortSame ?_ rfl
    | fail_if_no_progress refine Kept.upd ?_ rfl rfl rfl rfl | apply Kept.foldl | apply Kept.foldl_fst
    | apply Kept.foldl_snd | apply Kept.ite | intro _


theorem execDetection_kept {s : State} (d : Detect) (rival : Option Detect) (x : State) (t : State) (e : execDetection d rival x = .next t) (h : Kept s x) : Kept s t :=
  next_kept e (detection_kept _ _ _ h)

theorem feedLine_kept {s : State} (o : SymbolObs) (hit : Bool) (x0 : Context) (x : State) (h : Kept s x) :
    Kept s (feedLine o hit x0 x) := by
  unfold feedLine
  try dsimp only
  with_reducible repeat' first
    | assumption | rfl | split | refine Kept.setPortSame ?_ rfl
    | fail_if_no_progress refine Kept.upd ?_ rfl rfl rfl rfl | apply Kept.foldl | apply Kept.foldl_fst
    | apply Kept.foldl_snd | apply Kept.ite | intro _


theorem symbolDecision_kept {s : State} (id : CtxId) (o : SymbolObs) (x : State) (h : Kept s x) :
    Kept s (symbolDecision id o x) := by
  unfold symbolDecision
  try dsimp only
  with_reducible repeat' first
    | assumption | rfl | apply setCtx_kept | apply checkDrains_kept | apply release_kept | apply feedLine_kept | split
    | refine Kept.setPortSame ?_ rfl | fail_if_no_progress refine Kept.upd ?_ rfl rfl rfl rfl | apply Kept.foldl
    | apply Kept.foldl_fst | apply Kept.foldl_snd | apply Kept.ite | intro _


theorem execSymbolDecision_kept {s : State} (c : CtxId) (o : SymbolObs) (x : State) (t : State) (e : execSymbolDecision c o x = .next t) (h : Kept s x) : Kept s t :=
  next_kept e (symbolDecision_kept _ _ _ h)

theorem syncDecision_kept {s : State} (id : CtxId) (first : ℚ) (second : ℚ) (x : State) (h : Kept s x) :
    Kept s (syncDecision id first second x) := by
  unfold syncDecision
  try dsimp only
  with_reducible repeat' first
    | assumption | rfl | apply release_kept | apply setCtx_kept | split | refine Kept.setPortSame ?_ rfl
    | fail_if_no_progress refine Kept.upd ?_ rfl rfl rfl rfl | apply Kept.foldl | apply Kept.foldl_fst
    | apply Kept.foldl_snd | apply Kept.ite | intro _


theorem execSyncDecision_kept {s : State} (c : CtxId) (first : ℚ) (second : ℚ) (x : State) (t : State) (e : execSyncDecision c first second x = .next t) (h : Kept s x) : Kept s t :=
  next_kept e (syncDecision_kept _ _ _ _ h)

theorem timingMark_kept {s : State} (id : CtxId) (first : ℚ) (second : ℚ) (x : State) (h : Kept s x) :
    Kept s (timingMark id first second x) := by
  unfold timingMark
  try dsimp only
  with_reducible repeat' first
    | assumption | rfl | apply setCtx_kept | split | refine Kept.setPortSame ?_ rfl
    | fail_if_no_progress refine Kept.upd ?_ rfl rfl rfl rfl | apply Kept.foldl | apply Kept.foldl_fst
    | apply Kept.foldl_snd | apply Kept.ite | intro _


theorem execTimingMark_kept {s : State} (c : CtxId) (first : ℚ) (second : ℚ) (x : State) (t : State) (e : execTimingMark c first second x = .next t) (h : Kept s x) : Kept s t :=
  next_kept e (timingMark_kept _ _ _ _ h)

theorem noMark_kept {s : State} (id : CtxId) (x : State) (h : Kept s x) :
    Kept s (noMark id x) := by
  unfold noMark
  try dsimp only
  with_reducible repeat' first
    | assumption | rfl | apply release_kept | split | refine Kept.setPortSame ?_ rfl
    | fail_if_no_progress refine Kept.upd ?_ rfl rfl rfl rfl | apply Kept.foldl | apply Kept.foldl_fst
    | apply Kept.foldl_snd | apply Kept.ite | intro _


theorem execNoMark_kept {s : State} (c : CtxId) (x : State) (t : State) (e : execNoMark c x = .next t) (h : Kept s x) : Kept s t :=
  next_kept e (noMark_kept _ _ h)

theorem headerDecision_kept {s : State} (id : CtxId) (x : State) (h : Kept s x) :
    Kept s (headerDecision id x) := by
  unfold headerDecision
  try dsimp only
  with_reducible repeat' first
    | assumption | rfl | apply release_kept | apply setCtx_kept | split | refine Kept.setPortSame ?_ rfl
    | fail_if_no_progress refine Kept.upd ?_ rfl rfl rfl rfl | apply Kept.foldl | apply Kept.foldl_fst
    | apply Kept.foldl_snd | apply Kept.ite | intro _


theorem execHeaderDecision_kept {s : State} (c : CtxId) (x : State) (t : State) (e : execHeaderDecision c x = .next t) (h : Kept s x) : Kept s t :=
  next_kept e (headerDecision_kept _ _ h)

theorem lastDecision_kept {s : State} (id : CtxId) (level : FrameLevel) (x : State) (h : Kept s x) :
    Kept s (lastDecision id level x) := by
  unfold lastDecision
  try dsimp only
  with_reducible repeat' first
    | assumption | rfl | apply freeCtx_kept | apply checkDrains_kept | split | refine Kept.setPortSame ?_ rfl
    | fail_if_no_progress refine Kept.upd ?_ rfl rfl rfl rfl | apply Kept.foldl | apply Kept.foldl_fst
    | apply Kept.foldl_snd | apply Kept.ite | intro _


theorem execLastPayloadDecision_kept {s : State} (c : CtxId) (level : FrameLevel) (x : State) (t : State) (e : execLastPayloadDecision c level x = .next t) (h : Kept s x) : Kept s t :=
  next_kept e (lastDecision_kept _ _ _ h)

theorem gainChange_kept {s : State} (up : Bool) (x : State) (h : Kept s x) :
    Kept s (gainChange up x) := by
  unfold gainChange
  try dsimp only
  with_reducible repeat' first
    | assumption | rfl | apply checkDrains_kept | apply loseSymbols_kept | apply releaseWhere_kept | split
    | refine Kept.setPortSame ?_ rfl | fail_if_no_progress refine Kept.upd ?_ rfl rfl rfl rfl | apply Kept.foldl
    | apply Kept.foldl_fst | apply Kept.foldl_snd | apply Kept.ite | intro _


theorem execGainChange_kept {s : State} (up : Bool) (x : State) (t : State) (e : execGainChange up x = .next t) (h : Kept s x) : Kept s t :=
  next_kept e (gainChange_kept _ _ h)

end Sys2Proof.Machine
end

