-- ==== Sys2Proof/Laws/KeptFirmware.lean ====
section
/-! SUPPORT. Every operation of Machine/Firmware.lean keeps what `Kept` says. -/

namespace Sys2Proof.Machine
open Sys2Proof


theorem drawFw_kept {s : State} (x : State) (h : Kept s x) :
    Kept s (drawFw x).2 := by
  unfold drawFw
  try dsimp only
  with_reducible repeat' first | assumption | apply drawWord_kept


theorem fwQueue_kept {s : State} (f : TxFrame) (x : State) (h : Kept s x) :
    Kept s (fwQueue f x) := by
  unfold fwQueue
  try dsimp only
  with_reducible repeat' first | assumption | apply submitFrame_kept | split


theorem freshKey_kept {s : State} (x : State) (h : Kept s x) :
    Kept s (freshKey x).2 := by
  unfold freshKey
  try dsimp only
  with_reducible repeat' first | assumption | apply drbgWords_kept


theorem attestServed_kept {s : State} (requester : BitVec 24) (remote : Bool) (refused : Bool) (x : State) (h : Kept s x) :
    Kept s (attestServed requester remote refused x) := by
  unfold attestServed
  try dsimp only
  with_reducible repeat' first | assumption | apply raise_kept


theorem remoteAttest_kept {s : State} (e0 : LinkEntry) (challenge : List Byte) (x : State) (h : Kept s x) :
    Kept s (remoteAttest e0 challenge x) := by
  unfold remoteAttest
  try dsimp only
  with_reducible repeat' first
    | assumption | rfl | apply attestServed_kept | apply pkaOwn_kept | split | refine Kept.setPortSame ?_ rfl
    | fail_if_no_progress refine Kept.upd ?_ rfl rfl rfl rfl | apply Kept.foldl | apply Kept.foldl_fst
    | apply Kept.foldl_snd | apply Kept.ite | intro _


theorem remoteReport_kept {s : State} (link : BitVec 24 × DWord) (challenge : List Byte) (x : State) (h : Kept s x) :
    Kept s (remoteReport link challenge x) := by
  unfold remoteReport
  try dsimp only
  with_reducible repeat' first
    | assumption | rfl | apply attestServed_kept | apply drawFw_kept | apply fwQueue_kept | split
    | refine Kept.setPortSame ?_ rfl | fail_if_no_progress refine Kept.upd ?_ rfl rfl rfl rfl | apply Kept.foldl
    | apply Kept.foldl_fst | apply Kept.foldl_snd | apply Kept.ite | intro _


end Sys2Proof.Machine
end

