-- ==== Sys2Proof/Laws/KeptCipher.lean ====
section
/-! SUPPORT. Every operation of Machine/Cipher.lean keeps what `Kept` says. -/

namespace Sys2Proof.Machine
open Sys2Proof


theorem putMsg_kept {s : State} (n : ℕ) (m : Option CipherMsg) (x : State) (h : Kept s x) :
    Kept s (putMsg n m x) := by
  unfold putMsg
  try dsimp only
  with_reducible repeat' first
    | assumption | rfl | split | refine Kept.setPortSame ?_ rfl
    | fail_if_no_progress refine Kept.upd ?_ rfl rfl rfl rfl | apply Kept.foldl | apply Kept.foldl_fst
    | apply Kept.foldl_snd | apply Kept.ite | intro _


theorem abandonSlots_kept {s : State} (f : ℕ → Bool) (x : State) (h : Kept s x) :
    Kept s (abandonSlots f x) := by
  unfold abandonSlots
  try dsimp only
  with_reducible repeat' first
    | assumption | rfl | split | refine Kept.setPortSame ?_ rfl
    | fail_if_no_progress refine Kept.upd ?_ rfl rfl rfl rfl | apply Kept.foldl | apply Kept.foldl_fst
    | apply Kept.foldl_snd | apply Kept.ite | intro _


theorem runStep_kept {s : State} (c : Cmd) (ctx : ℕ) (final : Bool) (m : CipherMsg) (x : State) (h : Kept s x) :
    Kept s (runStep c ctx final m x) := by
  unfold runStep
  try dsimp only
  with_reducible repeat' first
    | assumption | apply finish_kept | apply putMsg_kept | apply segment_kept | apply produce_kept | split


theorem takeNonce_kept {s : State} (m : CipherMsg) (x : State) (r t) (e : takeNonce m x = .ok (r, t)) (h : Kept s x) :
    Kept s t := by
  unfold takeNonce at e
  try dsimp only at e
  repeat' split at e
  all_goals first
    | (cases e; done)
    | (injection e with e; have e := congrArg Prod.snd e; dsimp only at e; subst e)
  all_goals
   with_reducible repeat' first
    | assumption | rfl | split | refine Kept.setPortSame ?_ rfl
    | fail_if_no_progress refine Kept.upd ?_ rfl rfl rfl rfl | apply Kept.foldl | apply Kept.foldl_fst
    | apply Kept.foldl_snd | apply Kept.ite | intro _


theorem cipherOpen_kept {s : State} (c : Cmd) (x : State) (h : Kept s x) :
    Kept s (cipherOpen c x) := by
  unfold cipherOpen
  try dsimp only
  with_reducible repeat' first
    | assumption | rfl | apply finish_kept | refine takeNonce_kept _ _ _ _ ‹_› ?_ | apply runStep_kept | split
    | refine Kept.setPortSame ?_ rfl | fail_if_no_progress refine Kept.upd ?_ rfl rfl rfl rfl | apply Kept.foldl
    | apply Kept.foldl_fst | apply Kept.foldl_snd | apply Kept.ite | intro _
  · rename_i e
    split at e
    · exact takeNonce_kept _ _ _ _ e h
    · cases e
      exact h


theorem cipherNext_kept {s : State} (c : Cmd) (x : State) (h : Kept s x) :
    Kept s (cipherNext c x) := by
  unfold cipherNext
  try dsimp only
  with_reducible repeat' first | assumption | apply finish_kept | apply runStep_kept | split


theorem cipherOwner_kept {s : State} (c : Cmd) (x : State) (h : Kept s x) :
    Kept s (cipherOwner c x) := by
  unfold cipherOwner
  try dsimp only
  with_reducible repeat' first
    | assumption | apply finish_kept | apply cipherOpen_kept | apply cipherNext_kept | apply waitKeys_kept | split
    | intro _


end Sys2Proof.Machine
end

