-- ==== Sys2Proof/Laws/KeptAttest.lean ====
section
/-! SUPPORT. Every operation of Machine/Attest.lean keeps what `Kept` says. -/

namespace Sys2Proof.Machine
open Sys2Proof


theorem segments_kept {s : State} (c : Cmd) (ps : List (List Word)) (x : State) (h : Kept s x) : Kept s (segments c ps x) := by
  fun_induction segments c ps x with
  | case1 => exact finish_kept _ _ _ _ h
  | case2 => exact finish_kept _ _ _ _ h
  | case3 p ps x _ ih => exact ih (segment_kept _ _ _ h)

theorem attestWork_kept {s : State} (c : Cmd) (x : State) (h : Kept s x) :
    Kept s (attestWork c x) := by
  unfold attestWork
  try dsimp only
  with_reducible repeat' first
    | assumption | rfl | apply finish_kept | apply attestServed_kept | apply segments_kept | split
    | refine Kept.setPortSame ?_ rfl | fail_if_no_progress refine Kept.upd ?_ rfl rfl rfl rfl | apply Kept.foldl
    | apply Kept.foldl_fst | apply Kept.foldl_snd | apply Kept.ite | intro _


theorem attestDo_kept {s : State} (c : Cmd) (x : State) (h : Kept s x) :
    Kept s (attestDo c x) := by
  unfold attestDo
  try dsimp only
  with_reducible repeat' first
    | assumption | rfl | apply pkaCommand_kept | apply attestWork_kept | split | refine Kept.setPortSame ?_ rfl
    | fail_if_no_progress refine Kept.upd ?_ rfl rfl rfl rfl | apply Kept.foldl | apply Kept.foldl_fst
    | apply Kept.foldl_snd | apply Kept.ite | intro _


theorem attestOwner_kept {s : State} (a : Cmd) (x : State) (h : Kept s x) :
    Kept s (attestOwner a x) := by
  unfold attestOwner
  try dsimp only
  with_reducible repeat' first | assumption | apply waitKeys_kept | apply attestDo_kept


theorem execAttest_kept {s : State} (p : Packet) (x : State) (t : State) (e : execAttest p x = .next t) (h : Kept s x) : Kept s t :=
  next_kept e (plazaRun_kept _ _ _ _ _ attestOwner_kept h)

theorem freshChal_kept {s : State} (x : State) (h : Kept s x) :
    Kept s (freshChal x).2 := by
  unfold freshChal
  try dsimp only
  with_reducible repeat' first | assumption | apply drbgWords_kept


theorem stopTransmit_kept {s : State} (x : State) (h : Kept s x) :
    Kept s (stopTransmit x) := by
  unfold stopTransmit
  try dsimp only
  with_reducible repeat' first
    | assumption | rfl | apply startReturn_kept | apply giveUpTx_kept | split | refine Kept.setPortSame ?_ rfl
    | fail_if_no_progress refine Kept.upd ?_ rfl rfl rfl rfl | apply Kept.foldl | apply Kept.foldl_fst
    | apply Kept.foldl_snd | apply Kept.ite | intro _


theorem advanceEffects_kept {s : State} (target : Nat) (x : State) (h : Kept s x) : Kept s (advanceEffects target x) := by
  have k : Kept s { x with flash.otp := Machine.otpSet 0 (otpWord x 0 ||| thermometer target) x.flash.otp } :=
    h.otpSet fun b hb => by simp [hb]
  unfold advanceEffects
  dsimp only
  split
  · exact k.same rfl rfl rfl rfl rfl rfl rfl
  · split
    · exact stopTransmit_kept _ (k.same rfl rfl rfl rfl rfl rfl rfl)
    · exact k

theorem lifecycleWork_kept {s : State} (c : Cmd) (x : State) (h : Kept s x) :
    Kept s (lifecycleWork c x) := by
  unfold lifecycleWork
  try dsimp only
  with_reducible repeat' first
    | assumption | rfl | apply finish_kept | apply freshChal_kept | apply oweReset_kept | apply advanceEffects_kept
    | split | refine Kept.setPortSame ?_ rfl | fail_if_no_progress refine Kept.upd ?_ rfl rfl rfl rfl
    | apply Kept.foldl | apply Kept.foldl_fst | apply Kept.foldl_snd | apply Kept.ite | intro _


theorem lifecycleDo_kept {s : State} (c : Cmd) (x : State) (h : Kept s x) :
    Kept s (lifecycleDo c x) := by
  unfold lifecycleDo
  try dsimp only
  with_reducible repeat' first
    | assumption | rfl | apply pkaCommand_kept | apply lifecycleWork_kept | split | refine Kept.setPortSame ?_ rfl
    | fail_if_no_progress refine Kept.upd ?_ rfl rfl rfl rfl | apply Kept.foldl | apply Kept.foldl_fst
    | apply Kept.foldl_snd | apply Kept.ite | intro _


theorem execLifecycleAdvance_kept {s : State} (p : Packet) (x : State) (t : State) (e : execLifecycleAdvance p x = .next t) (h : Kept s x) : Kept s t :=
  next_kept e (plazaRun_kept _ _ _ _ _ lifecycleDo_kept h)

theorem grantUnlock_kept {s : State} (scope : ℕ) (key : List Byte) (jtag : Bool) (x : State) (h : Kept s x) :
    Kept s (grantUnlock scope key jtag x) := by
  unfold grantUnlock
  try dsimp only
  with_reducible repeat' first
    | assumption | rfl | apply extendMr_kept | apply abandonSlots_kept | apply raise_kept | split
    | refine Kept.setPortSame ?_ rfl | fail_if_no_progress refine Kept.upd ?_ rfl rfl rfl rfl | apply Kept.foldl
    | apply Kept.foldl_fst | apply Kept.foldl_snd | apply Kept.ite | intro _


theorem tryUnlock_kept {s : State} (scope : ℕ) (owner : BitVec 256 × BitVec 256) (sig : BitVec 256 × BitVec 256) (jtag : Bool) (x : State) (h : Kept s x) :
    Kept s (tryUnlock scope owner sig jtag x).2 := by
  unfold tryUnlock
  try dsimp only
  with_reducible repeat' first
    | assumption | rfl | apply grantUnlock_kept | split | refine Kept.setPortSame ?_ rfl
    | fail_if_no_progress refine Kept.upd ?_ rfl rfl rfl rfl | apply Kept.foldl | apply Kept.foldl_fst
    | apply Kept.foldl_snd | apply Kept.ite | intro _


theorem debugChallenge_kept {s : State} (x : State) (r t) (e : debugChallenge x = .ok (r, t)) (h : Kept s x) :
    Kept s t := by
  unfold debugChallenge at e
  try dsimp only at e
  repeat' split at e
  all_goals first
    | (cases e; done)
    | (injection e with e; have e := congrArg Prod.snd e; dsimp only at e; subst e)
  all_goals
   with_reducible repeat' first
    | assumption | rfl | apply freshChal_kept | split | refine Kept.setPortSame ?_ rfl
    | fail_if_no_progress refine Kept.upd ?_ rfl rfl rfl rfl | apply Kept.foldl | apply Kept.foldl_fst
    | apply Kept.foldl_snd | apply Kept.ite | intro _


theorem debugUnlockWork_kept {s : State} (c : Cmd) (x : State) (h : Kept s x) :
    Kept s (debugUnlockWork c x) := by
  unfold debugUnlockWork
  try dsimp only
  with_reducible repeat' first
    | assumption | rfl | apply finish_kept | apply tryUnlock_kept | refine debugChallenge_kept _ _ _ ‹_› ?_ | split
    | refine Kept.setPortSame ?_ rfl | fail_if_no_progress refine Kept.upd ?_ rfl rfl rfl rfl | apply Kept.foldl
    | apply Kept.foldl_fst | apply Kept.foldl_snd | apply Kept.ite | intro _


theorem debugUnlockDo_kept {s : State} (c : Cmd) (x : State) (h : Kept s x) :
    Kept s (debugUnlockDo c x) := by
  unfold debugUnlockDo
  try dsimp only
  with_reducible repeat' first
    | assumption | rfl | apply pkaCommand_kept | apply debugUnlockWork_kept | split | refine Kept.setPortSame ?_ rfl
    | fail_if_no_progress refine Kept.upd ?_ rfl rfl rfl rfl | apply Kept.foldl | apply Kept.foldl_fst
    | apply Kept.foldl_snd | apply Kept.ite | intro _


theorem dapEnd_kept {s : State} (st : Status) (x : State) (h : Kept s x) :
    Kept s (dapEnd st x) := by
  unfold dapEnd
  try dsimp only
  with_reducible repeat' first
    | assumption | rfl | split | refine Kept.setPortSame ?_ rfl
    | fail_if_no_progress refine Kept.upd ?_ rfl rfl rfl rfl | apply Kept.foldl | apply Kept.foldl_fst
    | apply Kept.foldl_snd | apply Kept.ite | intro _


theorem jtagDo_kept {s : State} (h0 : HeldDebug) (x : State) (h : Kept s x) :
    Kept s (jtagDo h0 x) := by
  unfold jtagDo
  try dsimp only
  with_reducible repeat' first
    | assumption | rfl | refine debugChallenge_kept _ _ _ ‹_› ?_ | apply dapEnd_kept | apply tryUnlock_kept | split
    | refine Kept.setPortSame ?_ rfl | fail_if_no_progress refine Kept.upd ?_ rfl rfl rfl rfl | apply Kept.foldl
    | apply Kept.foldl_fst | apply Kept.foldl_snd | apply Kept.ite | intro _


theorem serveHeld_kept {s : State} (x : State) (h : Kept s x) :
    Kept s (serveHeld x) := by
  unfold serveHeld
  try dsimp only
  with_reducible repeat' first
    | assumption | rfl | apply jtagDo_kept | split | refine Kept.setPortSame ?_ rfl
    | fail_if_no_progress refine Kept.upd ?_ rfl rfl rfl rfl | apply Kept.foldl | apply Kept.foldl_fst
    | apply Kept.foldl_snd | apply Kept.ite | intro _


end Sys2Proof.Machine
end

