-- ==== Sys2Proof/Laws/KeptRdv.lean ====
section
/-! SUPPORT. Every operation of Machine/Rdv.lean keeps what `Kept` says. -/

namespace Sys2Proof.Machine
open Sys2Proof


theorem openWindow_kept {s : State} (r0 : Rdv) (centre : ℕ) (end_ : ℕ) (profile : Fin 16) (x : State) (h : Kept s x) :
    Kept s (openWindow r0 centre end_ profile x) := by
  unfold openWindow
  try dsimp only
  with_reducible repeat' first
    | assumption | rfl | apply updateRdv_kept | apply retuneReceptions_kept | apply listenOn_kept | split
    | refine Kept.setPortSame ?_ rfl | fail_if_no_progress refine Kept.upd ?_ rfl rfl rfl rfl | apply Kept.foldl
    | apply Kept.foldl_fst | apply Kept.foldl_snd | apply Kept.ite | intro _


theorem closeListening_kept {s : State} (x : State) (h : Kept s x) :
    Kept s (closeListening x) := by
  unfold closeListening
  try dsimp only
  with_reducible repeat' first
    | assumption | rfl | apply endReception_kept | apply release_kept | apply freeCtx_kept | split
    | refine Kept.setPortSame ?_ rfl | fail_if_no_progress refine Kept.upd ?_ rfl rfl rfl rfl | apply Kept.foldl
    | apply Kept.foldl_fst | apply Kept.foldl_snd | apply Kept.ite | intro _


theorem reacquire_kept {s : State} (a : BitVec 24) (x : State) (h : Kept s x) :
    Kept s (reacquire a x) := by
  unfold reacquire
  try dsimp only
  with_reducible repeat' first
    | assumption | rfl | apply updateRdv_kept | split | refine Kept.setPortSame ?_ rfl
    | fail_if_no_progress refine Kept.upd ?_ rfl rfl rfl rfl | apply Kept.foldl | apply Kept.foldl_fst
    | apply Kept.foldl_snd | apply Kept.ite | intro _


theorem markStale_kept {s : State} (r0 : Rdv) (x : State) (h : Kept s x) :
    Kept s (markStale r0 x) := by
  unfold markStale
  try dsimp only
  with_reducible repeat' first
    | assumption | rfl | apply raise_kept | apply updateLink_kept | split | refine Kept.setPortSame ?_ rfl
    | fail_if_no_progress refine Kept.upd ?_ rfl rfl rfl rfl | apply Kept.foldl | apply Kept.foldl_fst
    | apply Kept.foldl_snd | apply Kept.ite | intro _


theorem miss_kept {s : State} (r0 : Rdv) (at_ : ℕ) (half : ℕ) (wide : Bool) (x : State) (h : Kept s x) :
    Kept s (miss r0 at_ half wide x) := by
  unfold miss
  try dsimp only
  with_reducible repeat' first
    | assumption | rfl | apply raiseMissed_kept | apply updateRdv_kept | apply markStale_kept | apply reacquire_kept
    | split | refine Kept.setPortSame ?_ rfl | fail_if_no_progress refine Kept.upd ?_ rfl rfl rfl rfl
    | apply Kept.foldl | apply Kept.foldl_fst | apply Kept.foldl_snd | apply Kept.ite | intro _


theorem childSlot_kept {s : State} (r0 : Rdv) (x0 : ℕ) (x : State) (h : Kept s x) :
    Kept s (childSlot r0 x0 x) := by
  unfold childSlot
  try dsimp only
  with_reducible repeat' first
    | assumption | rfl | apply updateRdv_kept | apply reacquire_kept | apply updateFrame_kept | apply drawFw_kept
    | apply fwQueue_kept | split | refine Kept.setPortSame ?_ rfl
    | fail_if_no_progress refine Kept.upd ?_ rfl rfl rfl rfl | apply Kept.foldl | apply Kept.foldl_fst
    | apply Kept.foldl_snd | apply Kept.ite | intro _


theorem parentSlot_kept {s : State} (r0 : Rdv) (x0 : ℕ) (x : State) (h : Kept s x) :
    Kept s (parentSlot r0 x0 x) := by
  unfold parentSlot
  try dsimp only
  with_reducible repeat' first | assumption | apply markStale_kept | apply openWindow_kept | split


theorem rdvSlot_kept {s : State} (a : BitVec 24) (x : State) (h : Kept s x) :
    Kept s (rdvSlot a x) := by
  unfold rdvSlot
  try dsimp only
  with_reducible repeat' first
    | assumption | rfl | apply parentSlot_kept | apply childSlot_kept | split | refine Kept.setPortSame ?_ rfl
    | fail_if_no_progress refine Kept.upd ?_ rfl rfl rfl rfl | apply Kept.foldl | apply Kept.foldl_fst
    | apply Kept.foldl_snd | apply Kept.ite | intro _


theorem execRdvSlot_kept {s : State} (short : BitVec 24) (x : State) (t : State) (e : execRdvSlot short x = .next t) (h : Kept s x) : Kept s t :=
  next_kept e (rdvSlot_kept _ _ h)

theorem reacquisitionWindow_kept {s : State} (a : BitVec 24) (x : State) (h : Kept s x) :
    Kept s (reacquisitionWindow a x) := by
  unfold reacquisitionWindow
  try dsimp only
  with_reducible repeat' first
    | assumption | rfl | apply openWindow_kept | apply updateRdv_kept | split | refine Kept.setPortSame ?_ rfl
    | fail_if_no_progress refine Kept.upd ?_ rfl rfl rfl rfl | apply Kept.foldl | apply Kept.foldl_fst
    | apply Kept.foldl_snd | apply Kept.ite | intro _


theorem execReacquisitionWindow_kept {s : State} (short : BitVec 24) (x : State) (t : State) (e : execReacquisitionWindow short x = .next t) (h : Kept s x) : Kept s t :=
  next_kept e (reacquisitionWindow_kept _ _ h)

theorem scan_kept {s : State} (a : BitVec 24) (x : State) (h : Kept s x) :
    Kept s (scan a x) := by
  unfold scan
  try dsimp only
  with_reducible repeat' first
    | assumption | rfl | apply openWindow_kept | split | refine Kept.setPortSame ?_ rfl
    | fail_if_no_progress refine Kept.upd ?_ rfl rfl rfl rfl | apply Kept.foldl | apply Kept.foldl_fst
    | apply Kept.foldl_snd | apply Kept.ite | intro _


theorem execScan_kept {s : State} (short : BitVec 24) (x : State) (t : State) (e : execScan short x = .next t) (h : Kept s x) : Kept s t :=
  next_kept e (scan_kept _ _ h)

theorem endWindow_kept {s : State} (r0 : Rdv) (x : State) (h : Kept s x) :
    Kept s (endWindow r0 x) := by
  unfold endWindow
  try dsimp only
  with_reducible repeat' first
    | assumption | rfl | apply updateRdv_kept | apply closeListening_kept | apply miss_kept | split
    | refine Kept.setPortSame ?_ rfl | fail_if_no_progress refine Kept.upd ?_ rfl rfl rfl rfl | apply Kept.foldl
    | apply Kept.foldl_fst | apply Kept.foldl_snd | apply Kept.ite | intro _


theorem endChildSlot_kept {s : State} (r0 : Rdv) (x : State) (h : Kept s x) :
    Kept s (endChildSlot r0 x) := by
  unfold endChildSlot
  try dsimp only
  with_reducible repeat' first
    | assumption | rfl | apply updateRdv_kept | apply miss_kept | split | refine Kept.setPortSame ?_ rfl
    | fail_if_no_progress refine Kept.upd ?_ rfl rfl rfl rfl | apply Kept.foldl | apply Kept.foldl_fst
    | apply Kept.foldl_snd | apply Kept.ite | intro _


theorem endEligible_kept {s : State} (r0 : Rdv) (x : State) (h : Kept s x) :
    Kept s (endEligible r0 x) := by
  unfold endEligible
  try dsimp only
  with_reducible repeat' first
    | assumption | rfl | apply updateRdv_kept | split | refine Kept.setPortSame ?_ rfl
    | fail_if_no_progress refine Kept.upd ?_ rfl rfl rfl rfl | apply Kept.foldl | apply Kept.foldl_fst
    | apply Kept.foldl_snd | apply Kept.ite | intro _


theorem rdvWindowClose_kept {s : State} (a : BitVec 24) (x : State) (h : Kept s x) :
    Kept s (rdvWindowClose a x) := by
  unfold rdvWindowClose
  try dsimp only
  with_reducible repeat' first
    | assumption | apply endEligible_kept | apply endChildSlot_kept | apply endWindow_kept | split


theorem execRdvWindowClose_kept {s : State} (short : BitVec 24) (x : State) (t : State) (e : execRdvWindowClose short x = .next t) (h : Kept s x) : Kept s t :=
  next_kept e (rdvWindowClose_kept _ _ h)

theorem tellParent_kept {s : State} (r0 : Rdv) (x : State) (h : Kept s x) :
    Kept s (tellParent r0 x) := by
  unfold tellParent
  try dsimp only
  with_reducible repeat' first
    | assumption | rfl | apply drawFw_kept | apply fwQueue_kept | split | refine Kept.setPortSame ?_ rfl
    | fail_if_no_progress refine Kept.upd ?_ rfl rfl rfl rfl | apply Kept.foldl | apply Kept.foldl_fst
    | apply Kept.foldl_snd | apply Kept.ite | intro _


theorem rdvSetRun_kept {s : State} (c : Cmd) (x : State) (h : Kept s x) :
    Kept s (rdvSetRun c x) := by
  unfold rdvSetRun
  try dsimp only
  with_reducible repeat' first
    | assumption | apply finish_kept | apply selectEntry_kept | apply closeListening_kept | apply tellParent_kept
    | split | fail_if_no_progress refine Kept.upd ?_ rfl rfl rfl rfl


theorem execRdvSet_kept {s : State} (p : Packet) (x : State) (t : State) (e : execRdvSet p x = .next t) (h : Kept s x) : Kept s t :=
  next_kept e (plazaRun_kept _ _ _ _ _ rdvSetRun_kept h)

theorem rdvClearRun_kept {s : State} (c : Cmd) (x : State) (r t) (e : rdvClearRun c x = .ok (r, t)) (h : Kept s x) :
    Kept s t := by
  unfold rdvClearRun at e
  try dsimp only at e
  repeat' split at e
  all_goals first
    | (cases e; done)
    | (injection e with e; have e := congrArg Prod.snd e; dsimp only at e; subst e)
  all_goals
   with_reducible repeat' first
    | assumption | rfl | apply closeListening_kept | split | refine Kept.setPortSame ?_ rfl
    | fail_if_no_progress refine Kept.upd ?_ rfl rfl rfl rfl | apply Kept.foldl | apply Kept.foldl_fst
    | apply Kept.foldl_snd | apply Kept.ite | intro _


theorem execRdvClear_kept {s : State} (p : Packet) (x : State) (t : State) (e : execRdvClear p x = .next t) (h : Kept s x) : Kept s t :=
  next_kept e (plazaRun_kept _ _ _ _ _ (fun c y => immediate_kept _ c y rdvClearRun_kept) h)

end Sys2Proof.Machine
end

