-- ==== Sys2Proof/Laws/KeptJoin.lean ====
section
/-! SUPPORT. Every operation of Machine/Join.lean keeps what `Kept` says. -/

namespace Sys2Proof.Machine
open Sys2Proof


theorem beaconConfigRun_kept {s : State} (c : Cmd) (x : State) (r t) (e : beaconConfigRun c x = .ok (r, t)) (h : Kept s x) :
    Kept s t := by
  unfold beaconConfigRun at e
  try dsimp only at e
  repeat' split at e
  all_goals first
    | (cases e; done)
    | (injection e with e; have e := congrArg Prod.snd e; dsimp only at e; subst e)
  all_goals
   with_reducible repeat' first
    | assumption | rfl | split | refine Kept.setPortSame ?_ rfl
    | fail_if_no_progress refine Kept.upd ?_ rfl rfl rfl rfl | apply Kept.foldl | apply Kept.foldl_fst
    | apply Kept.foldl_snd | apply Kept.ite | intro _


theorem execBeaconConfig_kept {s : State} (p : Packet) (x : State) (t : State) (e : execBeaconConfig p x = .next t) (h : Kept s x) : Kept s t :=
  next_kept e (plazaRun_kept _ _ _ _ _ (fun c y => immediate_kept _ c y beaconConfigRun_kept) h)

theorem beacon_kept {s : State} (x : State) (h : Kept s x) :
    Kept s (beacon x) := by
  unfold beacon
  try dsimp only
  with_reducible repeat' first
    | assumption | rfl | apply drawFw_kept | apply fwQueue_kept | split | refine Kept.setPortSame ?_ rfl
    | fail_if_no_progress refine Kept.upd ?_ rfl rfl rfl rfl | apply Kept.foldl | apply Kept.foldl_fst
    | apply Kept.foldl_snd | apply Kept.ite | intro _


theorem execBeacon_kept {s : State} (x : State) (t : State) (e : execBeacon x = .next t) (h : Kept s x) : Kept s t :=
  next_kept e (beacon_kept _ h)

theorem noteBeacon_kept {s : State} (src : BitVec 24) (b : BeaconBody) (stamp : DWord) (e0 : ℤ) (x : State) (h : Kept s x) :
    Kept s (noteBeacon src b stamp e0 x) := by
  unfold noteBeacon
  try dsimp only
  with_reducible repeat' first | assumption | fail_if_no_progress refine Kept.upd ?_ rfl rfl rfl rfl


theorem correctTime_kept {s : State} (e0 : ℤ) (x : State) (h : Kept s x) :
    Kept s (correctTime e0 x) := by
  unfold correctTime
  try dsimp only
  with_reducible repeat' first
    | assumption | apply jumpNt_kept | apply raise_kept | split
    | fail_if_no_progress refine Kept.upd ?_ rfl rfl rfl rfl


theorem beaconContacts_kept {s : State} (src : BitVec 24) (b : BeaconBody) (stamp : DWord) (e0 : ℤ) (took : Bool) (x : State) (h : Kept s x) :
    Kept s (beaconContacts src b stamp e0 took x) := by
  unfold beaconContacts
  try dsimp only
  with_reducible repeat' first | assumption | apply contact_kept | split | apply Kept.foldl | intro _


theorem heardInvitation_kept {s : State} (b : BeaconBody) (x : State) (h : Kept s x) :
    Kept s (heardInvitation b x) := by
  unfold heardInvitation
  try dsimp only
  with_reducible repeat' first
    | assumption | apply randomUpTo_kept | split | fail_if_no_progress refine Kept.upd ?_ rfl rfl rfl rfl


theorem beaconHeard_kept {s : State} (src : BitVec 24) (payload : List Byte) (stamp : DWord) (unsecured : Bool) (x : State) (h : Kept s x) :
    Kept s (beaconHeard src payload stamp unsecured x) := by
  unfold beaconHeard
  try dsimp only
  with_reducible repeat' first
    | assumption | apply heardInvitation_kept | apply noteBeacon_kept | apply beaconContacts_kept
    | apply correctTime_kept | split | fail_if_no_progress refine Kept.upd ?_ rfl rfl rfl rfl


theorem raiseJoin_kept {s : State} (kind : ℕ) (place : ℕ) (discarded : ℕ) (eui : DWord) (a : BitVec 24) (rssi : BitVec 16) (x : State) (h : Kept s x) :
    Kept s (raiseJoin kind place discarded eui a rssi x) := by
  unfold raiseJoin
  try dsimp only
  with_reducible repeat' first | assumption | apply raise_kept


theorem joinRequestWork_kept {s : State} (x : State) (h : Kept s x) :
    Kept s (joinRequestWork x) := by
  unfold joinRequestWork
  try dsimp only
  with_reducible repeat' first
    | assumption | rfl | apply freshKey_kept | apply drawFw_kept | apply fwQueue_kept | split
    | refine Kept.setPortSame ?_ rfl | fail_if_no_progress refine Kept.upd ?_ rfl rfl rfl rfl | apply Kept.foldl
    | apply Kept.foldl_fst | apply Kept.foldl_snd | apply Kept.ite | intro _


theorem joinRequestSend_kept {s : State} (x : State) (h : Kept s x) :
    Kept s (joinRequestSend x) := by
  unfold joinRequestSend
  try dsimp only
  with_reducible repeat' first
    | assumption | rfl | apply pkaOwn_kept | split | refine Kept.setPortSame ?_ rfl
    | fail_if_no_progress refine Kept.upd ?_ rfl rfl rfl rfl | apply Kept.foldl | apply Kept.foldl_fst
    | apply Kept.foldl_snd | apply Kept.ite | intro _


theorem execJoinRequestSend_kept {s : State} (x : State) (t : State) (e : execJoinRequestSend x = .next t) (h : Kept s x) : Kept s t :=
  next_kept e (joinRequestSend_kept _ h)

theorem joinResponseWork_kept {s : State} (m : MacFrame) (b : List Byte) (x : State) (h : Kept s x) :
    Kept s (joinResponseWork m b x) := by
  unfold joinResponseWork
  try dsimp only
  with_reducible repeat' first
    | assumption | rfl | apply raiseJoin_kept | apply placeLink_kept | apply removeLink_kept | split
    | refine Kept.setPortSame ?_ rfl | fail_if_no_progress refine Kept.upd ?_ rfl rfl rfl rfl | apply Kept.foldl
    | apply Kept.foldl_fst | apply Kept.foldl_snd | apply Kept.ite | intro _


theorem joinResponseHeard_kept {s : State} (m : MacFrame) (psdu : List Byte) (x : State) (h : Kept s x) :
    Kept s (joinResponseHeard m psdu x) := by
  unfold joinResponseHeard
  try dsimp only
  with_reducible repeat' first
    | assumption | rfl | apply pkaOwn_kept | split | refine Kept.setPortSame ?_ rfl
    | fail_if_no_progress refine Kept.upd ?_ rfl rfl rfl rfl | apply Kept.foldl | apply Kept.foldl_fst
    | apply Kept.foldl_snd | apply Kept.ite | intro _


theorem joinRequestHeard_kept {s : State} (m : MacFrame) (b : List Byte) (rssi : BitVec 16) (x : State) (h : Kept s x) :
    Kept s (joinRequestHeard m b rssi x) := by
  unfold joinRequestHeard
  try dsimp only
  with_reducible repeat' first
    | assumption | apply raiseJoin_kept | split | fail_if_no_progress refine Kept.upd ?_ rfl rfl rfl rfl


theorem joinPlaceExpiry_kept {s : State} (i : Fin 8) (x : State) (h : Kept s x) :
    Kept s (joinPlaceExpiry i x) := by
  unfold joinPlaceExpiry
  try dsimp only
  with_reducible repeat' first | assumption | split | fail_if_no_progress refine Kept.upd ?_ rfl rfl rfl rfl


theorem execJoinPlaceExpiry_kept {s : State} (place : Fin 8) (x : State) (t : State) (e : execJoinPlaceExpiry place x = .next t) (h : Kept s x) : Kept s t :=
  next_kept e (joinPlaceExpiry_kept _ _ h)

theorem answerJoin_kept {s : State} (i : Fin 8) (p : JoinPlace) (key : BitVec 256) (body : List Byte) (x : State) (h : Kept s x) :
    Kept s (answerJoin i p key body x) := by
  unfold answerJoin
  try dsimp only
  with_reducible repeat' first
    | assumption | rfl | apply drawFw_kept | apply fwQueue_kept | split | refine Kept.setPortSame ?_ rfl
    | fail_if_no_progress refine Kept.upd ?_ rfl rfl rfl rfl | apply Kept.foldl | apply Kept.foldl_fst
    | apply Kept.foldl_snd | apply Kept.ite | intro _


theorem acceptJoin_kept {s : State} (c : Cmd) (i : Fin 8) (p : JoinPlace) (key : BitVec 256) (a : BitVec 24) (old : Option LinkEntry) (x : State) (h : Kept s x) :
    Kept s (acceptJoin c i p key a old x) := by
  unfold acceptJoin
  try dsimp only
  with_reducible repeat' first
    | assumption | rfl | apply freshKey_kept | apply replaceEntry_kept | apply placeLink_kept | apply finish_kept
    | apply writeThrough_kept | apply answerJoin_kept | split | refine Kept.setPortSame ?_ rfl
    | fail_if_no_progress refine Kept.upd ?_ rfl rfl rfl rfl | apply Kept.foldl | apply Kept.foldl_fst
    | apply Kept.foldl_snd | apply Kept.ite | intro _


theorem joinAddress_kept {s : State} (c : Cmd) (p : JoinPlace) (x : State) (h : Kept s x) :
    Kept s (joinAddress c p x).2 := by
  unfold joinAddress
  try dsimp only
  with_reducible repeat' first | assumption | apply lookupShort_kept | split


theorem addrAssignWork_kept {s : State} (c : Cmd) (x : State) (h : Kept s x) :
    Kept s (addrAssignWork c x) := by
  unfold addrAssignWork
  try dsimp only
  with_reducible repeat' first
    | assumption | rfl | apply finish_kept | apply answerJoin_kept | apply joinAddress_kept | apply acceptJoin_kept
    | split | refine Kept.setPortSame ?_ rfl | fail_if_no_progress refine Kept.upd ?_ rfl rfl rfl rfl
    | apply Kept.foldl | apply Kept.foldl_fst | apply Kept.foldl_snd | apply Kept.ite | intro _


theorem addrAssignDo_kept {s : State} (c : Cmd) (x : State) (h : Kept s x) :
    Kept s (addrAssignDo c x) := by
  unfold addrAssignDo
  try dsimp only
  with_reducible repeat' first
    | assumption | rfl | apply pkaFirst_kept | apply addrAssignWork_kept | split | refine Kept.setPortSame ?_ rfl
    | fail_if_no_progress refine Kept.upd ?_ rfl rfl rfl rfl | apply Kept.foldl | apply Kept.foldl_fst
    | apply Kept.foldl_snd | apply Kept.ite | intro _


theorem execAddrAssign_kept {s : State} (p : Packet) (x : State) (t : State) (e : execAddrAssign p x = .next t) (h : Kept s x) : Kept s t :=
  next_kept e (plazaRun_kept _ _ _ _ _ (fun c y => waitKeys_kept _ c y addrAssignDo_kept) h)

end Sys2Proof.Machine
end

