-- ==== Sys2Proof/Laws/KeptKeyStore.lean ====
section
/-! SUPPORT. Every operation of Machine/KeyStore.lean keeps what `Kept` says. -/

namespace Sys2Proof.Machine
open Sys2Proof


theorem putSlot_kept {s : State} (n : ℕ) (k : KeySlot) (x : State) (h : Kept s x) :
    Kept s (putSlot n k x) := by
  unfold putSlot
  try dsimp only
  with_reducible repeat' first
    | assumption | rfl | split | refine Kept.setPortSame ?_ rfl
    | fail_if_no_progress refine Kept.upd ?_ rfl rfl rfl rfl | apply Kept.foldl | apply Kept.foldl_fst
    | apply Kept.foldl_snd | apply Kept.ite | intro _


theorem eraseSlot_kept {s : State} (n : ℕ) (x : State) (h : Kept s x) :
    Kept s (eraseSlot n x) := by
  unfold eraseSlot
  try dsimp only
  with_reducible repeat' first
    | assumption | rfl | split | refine Kept.setPortSame ?_ rfl
    | fail_if_no_progress refine Kept.upd ?_ rfl rfl rfl rfl | apply Kept.foldl | apply Kept.foldl_fst
    | apply Kept.foldl_snd | apply Kept.ite | intro _


theorem keyLoadWork_kept {s : State} (c : Cmd) (x : State) (h : Kept s x) :
    Kept s (keyLoadWork c x) := by
  unfold keyLoadWork
  try dsimp only
  with_reducible repeat' first
    | assumption | rfl | apply finish_kept | apply putSlot_kept | split | refine Kept.setPortSame ?_ rfl
    | fail_if_no_progress refine Kept.upd ?_ rfl rfl rfl rfl | apply Kept.foldl | apply Kept.foldl_fst
    | apply Kept.foldl_snd | apply Kept.ite | intro _


theorem keyLoadDo_kept {s : State} (c : Cmd) (x : State) (h : Kept s x) :
    Kept s (keyLoadDo c x) := by
  unfold keyLoadDo
  try dsimp only
  with_reducible repeat' first
    | assumption | rfl | apply pkaCommand_kept | apply keyLoadWork_kept | split | refine Kept.setPortSame ?_ rfl
    | fail_if_no_progress refine Kept.upd ?_ rfl rfl rfl rfl | apply Kept.foldl | apply Kept.foldl_fst
    | apply Kept.foldl_snd | apply Kept.ite | intro _


theorem execKeyLoad_kept {s : State} (p : Packet) (x : State) (t : State) (e : execKeyLoad p x = .next t) (h : Kept s x) : Kept s t :=
  next_kept e (plazaRun_kept _ _ _ _ _ (fun c y => waitKeys_kept _ c y keyLoadDo_kept) h)

theorem keyDeriveDo_kept {s : State} (c : Cmd) (x : State) (h : Kept s x) :
    Kept s (keyDeriveDo c x) := by
  unfold keyDeriveDo
  try dsimp only
  with_reducible repeat' first
    | assumption | rfl | apply finish_kept | apply putSlot_kept | split | refine Kept.setPortSame ?_ rfl
    | fail_if_no_progress refine Kept.upd ?_ rfl rfl rfl rfl | apply Kept.foldl | apply Kept.foldl_fst
    | apply Kept.foldl_snd | apply Kept.ite | intro _


theorem execKeyDerive_kept {s : State} (p : Packet) (x : State) (t : State) (e : execKeyDerive p x = .next t) (h : Kept s x) : Kept s t :=
  next_kept e (plazaRun_kept _ _ _ _ _ (fun c y => waitKeys_kept _ c y keyDeriveDo_kept) h)

theorem privResult_kept {s : State} (d : BitVec 256) (f : BitVec 256 → List Word) (x : State) (h : Kept s x) :
    Kept s (privResult d f x).2 := by
  unfold privResult
  try dsimp only
  with_reducible repeat' first | assumption | apply drawWords_kept | split


theorem ecdhDo_kept {s : State} (c : Cmd) (x : State) (h : Kept s x) :
    Kept s (ecdhDo c x) := by
  unfold ecdhDo
  try dsimp only
  with_reducible repeat' first
    | assumption | rfl | apply finish_kept | apply pkaPut_kept | split | refine Kept.setPortSame ?_ rfl
    | fail_if_no_progress refine Kept.upd ?_ rfl rfl rfl rfl | apply Kept.foldl | apply Kept.foldl_fst
    | apply Kept.foldl_snd | apply Kept.ite | intro _


theorem execEcdhRun_kept {s : State} (p : Packet) (x : State) (t : State) (e : execEcdhRun p x = .next t) (h : Kept s x) : Kept s t :=
  next_kept e (plazaRun_kept _ _ _ _ _ (fun c y => waitKeys_kept _ c y ecdhDo_kept) h)

theorem signDo_kept {s : State} (c : Cmd) (x : State) (h : Kept s x) :
    Kept s (signDo c x) := by
  unfold signDo
  try dsimp only
  with_reducible repeat' first
    | assumption | rfl | apply finish_kept | apply pkaPut_kept | split | refine Kept.setPortSame ?_ rfl
    | fail_if_no_progress refine Kept.upd ?_ rfl rfl rfl rfl | apply Kept.foldl | apply Kept.foldl_fst
    | apply Kept.foldl_snd | apply Kept.ite | intro _


theorem execSignRun_kept {s : State} (p : Packet) (x : State) (t : State) (e : execSignRun p x = .next t) (h : Kept s x) : Kept s t :=
  next_kept e (plazaRun_kept _ _ _ _ _ (fun c y => waitKeys_kept _ c y signDo_kept) h)

theorem verifyDo_kept {s : State} (c : Cmd) (x : State) (h : Kept s x) :
    Kept s (verifyDo c x) := by
  unfold verifyDo
  try dsimp only
  with_reducible repeat' first
    | assumption | rfl | apply finish_kept | apply pkaPut_kept | split | refine Kept.setPortSame ?_ rfl
    | fail_if_no_progress refine Kept.upd ?_ rfl rfl rfl rfl | apply Kept.foldl | apply Kept.foldl_fst
    | apply Kept.foldl_snd | apply Kept.ite | intro _


theorem execVerifyRun_kept {s : State} (p : Packet) (x : State) (t : State) (e : execVerifyRun p x = .next t) (h : Kept s x) : Kept s t :=
  next_kept e (plazaRun_kept _ _ _ _ _ verifyDo_kept h)

theorem pkaFinish_kept {s : State} (r0 : PkaReq) (x : State) (h : Kept s x) :
    Kept s (pkaFinish r0 x) := by
  unfold pkaFinish
  try dsimp only
  with_reducible repeat' first
    | assumption | rfl | apply freshKey_kept | apply finish_kept | apply putSlot_kept | apply privResult_kept
    | apply addrAssignWork_kept | apply keyLoadWork_kept | apply attestWork_kept | apply lifecycleWork_kept
    | apply debugUnlockWork_kept | apply joinRequestWork_kept | apply joinResponseWork_kept | apply remoteReport_kept
    | split | refine Kept.setPortSame ?_ rfl | fail_if_no_progress refine Kept.upd ?_ rfl rfl rfl rfl
    | apply Kept.foldl | apply Kept.foldl_fst | apply Kept.foldl_snd | apply Kept.ite | intro _


theorem rngReadRun_kept {s : State} (c : Cmd) (x : State) (r t) (e : rngReadRun c x = .ok (r, t)) (h : Kept s x) :
    Kept s t := by
  unfold rngReadRun at e
  try dsimp only at e
  repeat' split at e
  all_goals first
    | (cases e; done)
    | (injection e with e; have e := congrArg Prod.snd e; dsimp only at e; subst e)
  all_goals
   with_reducible repeat' first
    | assumption | rfl | apply drbgWords_kept | split | refine Kept.setPortSame ?_ rfl
    | fail_if_no_progress refine Kept.upd ?_ rfl rfl rfl rfl | apply Kept.foldl | apply Kept.foldl_fst
    | apply Kept.foldl_snd | apply Kept.ite | intro _


theorem execRngRead_kept {s : State} (p : Packet) (x : State) (t : State) (e : execRngRead p x = .next t) (h : Kept s x) : Kept s t :=
  next_kept e (plazaRun_kept _ _ _ _ _ (fun c y => immediate_kept _ c y rngReadRun_kept) h)

theorem trngFail_kept {s : State} (test : ℕ) (x : State) (h : Kept s x) :
    Kept s (trngFail test x) := by
  unfold trngFail
  try dsimp only
  with_reducible repeat' first
    | assumption | rfl | apply raise_kept | split | refine Kept.setPortSame ?_ rfl
    | fail_if_no_progress refine Kept.upd ?_ rfl rfl rfl rfl | apply Kept.foldl | apply Kept.foldl_fst
    | apply Kept.foldl_snd | apply Kept.ite | intro _


theorem trngHealthFail_kept {s : State} (test : Fin 3) (x : State) (h : Kept s x) :
    Kept s (trngHealthFail test x) := by
  unfold trngHealthFail
  try dsimp only
  with_reducible repeat' first | assumption | apply trngFail_kept | split


theorem execTrngHealthFail_kept {s : State} (test : Fin 3) (x : State) (t : State) (e : execTrngHealthFail test x = .next t) (h : Kept s x) : Kept s t :=
  next_kept e (trngHealthFail_kept _ _ h)

theorem trngStartUpTest_kept {s : State} (pass : Bool) (x : State) (h : Kept s x) :
    Kept s (trngStartUpTest pass x) := by
  unfold trngStartUpTest
  try dsimp only
  with_reducible repeat' first
    | assumption | rfl | apply trngFail_kept | split | refine Kept.setPortSame ?_ rfl
    | fail_if_no_progress refine Kept.upd ?_ rfl rfl rfl rfl | apply Kept.foldl | apply Kept.foldl_fst
    | apply Kept.foldl_snd | apply Kept.ite | intro _


theorem execTrngStartUpTest_kept {s : State} (pass : Bool) (x : State) (t : State) (e : execTrngStartUpTest pass x = .next t) (h : Kept s x) : Kept s t :=
  next_kept e (trngStartUpTest_kept _ _ h)

theorem keyZeroDo_kept {s : State} (c : Cmd) (x : State) (h : Kept s x) :
    Kept s (keyZeroDo c x) := by
  unfold keyZeroDo
  try dsimp only
  with_reducible repeat' first
    | assumption | rfl | apply finish_kept | apply eraseSlot_kept | apply abandonSlots_kept | split
    | refine Kept.setPortSame ?_ rfl | fail_if_no_progress refine Kept.upd ?_ rfl rfl rfl rfl | apply Kept.foldl
    | apply Kept.foldl_fst | apply Kept.foldl_snd | apply Kept.ite | intro _


theorem waitedMeaning_kept {s : State} (code : ℕ) (a : Cmd) (x : State) (h : Kept s x) :
    Kept s (waitedMeaning code a x) := by
  unfold waitedMeaning
  try dsimp only
  with_reducible repeat' first
    | assumption | apply waitKeys_kept | apply linkAddDo_kept | apply addrAssignDo_kept | apply keyLoadDo_kept
    | apply keyDeriveDo_kept | apply keyZeroDo_kept | apply cipherOwner_kept | apply ecdhDo_kept | apply signDo_kept
    | apply attestOwner_kept | split


theorem runWaiting_kept {s : State} (x : State) (h : Kept s x) :
    Kept s (runWaiting x) := by
  unfold runWaiting
  try dsimp only
  with_reducible repeat' first
    | assumption | rfl | apply waitedMeaning_kept | split | refine Kept.setPortSame ?_ rfl
    | fail_if_no_progress refine Kept.upd ?_ rfl rfl rfl rfl | apply Kept.foldl | apply Kept.foldl_fst
    | apply Kept.foldl_snd | apply Kept.ite | intro _


theorem thenFree_kept {s : State} (f : Cmd → State → State) (c : Cmd) (x : State)
    (hf : ∀ c y, Kept s y → Kept s (f c y)) (h : Kept s x) : Kept s (thenFree f c x) := by
  unfold thenFree
  dsimp only
  split
  · exact runWaiting_kept _ (hf _ _ h)
  · exact hf _ _ h

theorem pkaNext_kept {s : State} (x : State) (h : Kept s x) :
    Kept s (pkaNext x) := by
  unfold pkaNext
  try dsimp only
  with_reducible repeat' first
    | assumption | rfl | split | refine Kept.setPortSame ?_ rfl
    | fail_if_no_progress refine Kept.upd ?_ rfl rfl rfl rfl | apply Kept.foldl | apply Kept.foldl_fst
    | apply Kept.foldl_snd | apply Kept.ite | intro _


theorem pkaDone_kept {s : State} (x : State) (h : Kept s x) :
    Kept s (pkaDone x) := by
  unfold pkaDone
  try dsimp only
  with_reducible repeat' first
    | assumption | rfl | apply thenFree_kept | apply pkaFinish_kept | apply pkaNext_kept | split
    | refine Kept.setPortSame ?_ rfl | fail_if_no_progress refine Kept.upd ?_ rfl rfl rfl rfl | apply Kept.foldl
    | apply Kept.foldl_fst | apply Kept.foldl_snd | apply Kept.ite | intro _


theorem execPkaDone_kept {s : State} (x : State) (t : State) (e : execPkaDone x = .next t) (h : Kept s x) : Kept s t :=
  next_kept e (pkaDone_kept _ h)

theorem execKeyZero_kept {s : State} (p : Packet) (x : State) (t : State) (e : execKeyZero p x = .next t) (h : Kept s x) : Kept s t :=
  next_kept e (plazaRun_kept _ _ _ _ _ (fun c y => thenFree_kept _ c y fun c y => waitKeys_kept _ c y keyZeroDo_kept) h)

theorem execCipherRun_kept {s : State} (p : Packet) (x : State) (t : State) (e : execCipherRun p x = .next t) (h : Kept s x) : Kept s t :=
  next_kept e (plazaRun_kept _ _ _ _ _ (fun c y => thenFree_kept _ c y cipherOwner_kept) h)

theorem openMessageTimeout_kept {s : State} (ctx : Fin 8) (x : State) (h : Kept s x) :
    Kept s (openMessageTimeout ctx x) := by
  unfold openMessageTimeout
  try dsimp only
  with_reducible repeat' first
    | assumption | rfl | apply runWaiting_kept | split | refine Kept.setPortSame ?_ rfl
    | fail_if_no_progress refine Kept.upd ?_ rfl rfl rfl rfl | apply Kept.foldl | apply Kept.foldl_fst
    | apply Kept.foldl_snd | apply Kept.ite | intro _


theorem execOpenMessageTimeout_kept {s : State} (ctx : Fin 8) (x : State) (t : State) (e : execOpenMessageTimeout ctx x = .next t) (h : Kept s x) : Kept s t :=
  next_kept e (openMessageTimeout_kept _ _ h)

theorem keyStoreReady_kept {s : State} (x : State) (h : Kept s x) :
    Kept s (keyStoreReady x) := by
  unfold keyStoreReady
  try dsimp only
  with_reducible repeat' first
    | assumption | rfl | apply runWaiting_kept | split | refine Kept.setPortSame ?_ rfl
    | fail_if_no_progress refine Kept.upd ?_ rfl rfl rfl rfl | apply Kept.foldl | apply Kept.foldl_fst
    | apply Kept.foldl_snd | apply Kept.ite | intro _


theorem execKeyStoreReady_kept {s : State} (x : State) (t : State) (e : execKeyStoreReady x = .next t) (h : Kept s x) : Kept s t :=
  next_kept e (keyStoreReady_kept _ h)

theorem execDebugUnlock_kept {s : State} (p : Packet) (x : State) (t : State) (e : execDebugUnlock p x = .next t) (h : Kept s x) : Kept s t :=
  next_kept e (plazaRun_kept _ _ _ _ _ (fun c y => thenFree_kept _ c y debugUnlockDo_kept) h)

theorem jtagRequest_kept {s : State} (h0 : HeldDebug) (x : State) (h : Kept s x) :
    Kept s (jtagRequest h0 x) := by
  unfold jtagRequest
  try dsimp only
  with_reducible repeat' first
    | assumption | rfl | apply holdWake_kept | apply jtagDo_kept | apply runWaiting_kept | split
    | refine Kept.setPortSame ?_ rfl | fail_if_no_progress refine Kept.upd ?_ rfl rfl rfl rfl | apply Kept.foldl
    | apply Kept.foldl_fst | apply Kept.foldl_snd | apply Kept.ite | intro _


theorem execUnlockChal_kept {s : State} (x : State) (t : State) (e : execUnlockChal x = .next t) (h : Kept s x) : Kept s t :=
  next_kept e (jtagRequest_kept _ _ h)

theorem execUnlockResp_kept {s : State} (scope : BitVec 2) (key : List Word) (sig : List Word) (x : State) (t : State) (e : execUnlockResp scope key sig x = .next t) (h : Kept s x) : Kept s t :=
  next_kept e (jtagRequest_kept _ _ h)

theorem cryptoOff_kept {s : State} (x : State) (h : Kept s x) :
    Kept s (cryptoOff x) := by
  unfold cryptoOff
  try dsimp only
  with_reducible repeat' first
    | assumption | rfl | apply runWaiting_kept | apply finish_kept | split | refine Kept.setPortSame ?_ rfl
    | fail_if_no_progress refine Kept.upd ?_ rfl rfl rfl rfl | apply Kept.foldl | apply Kept.foldl_fst
    | apply Kept.foldl_snd | apply Kept.ite | intro _


theorem cryptoOn_kept {s : State} (x : State) (h : Kept s x) :
    Kept s (cryptoOn x) := by
  unfold cryptoOn
  try dsimp only
  with_reducible repeat' first
    | assumption | rfl | split | refine Kept.setPortSame ?_ rfl
    | fail_if_no_progress refine Kept.upd ?_ rfl rfl rfl rfl | apply Kept.foldl | apply Kept.foldl_fst
    | apply Kept.foldl_snd | apply Kept.ite | intro _


end Sys2Proof.Machine
end

