-- ==== Sys2Proof/Laws/KeptPower.lean ====
section
/-! SUPPORT. Every operation of Machine/Power.lean keeps what `Kept` says. -/

namespace Sys2Proof.Machine
open Sys2Proof

theorem lanes_empty (i : Fin 5) : ((Vector.replicate 5 ({} : Lane))[i]).stages.length ≤ 64 := by simp

theorem latchPads_kept {s : State} (x : State) (h : Kept s x) :
    Kept s (latchPads x) := by
  unfold latchPads
  try dsimp only
  with_reducible repeat' first | assumption | fail_if_no_progress refine Kept.upd ?_ rfl rfl rfl rfl


theorem padReleaseRun_kept {s : State} (c : Cmd) (x : State) (r t) (e : padReleaseRun c x = .ok (r, t)) (h : Kept s x) :
    Kept s t := by
  unfold padReleaseRun at e
  try dsimp only at e
  repeat' split at e
  all_goals first
    | (cases e; done)
    | (injection e with e; have e := congrArg Prod.snd e; dsimp only at e; subst e)
  all_goals
   with_reducible repeat' first
    | assumption | apply withEdges_kept | fail_if_no_progress refine Kept.upd ?_ rfl rfl rfl rfl | intro _


theorem execPadRelease_kept {s : State} (p : Packet) (x : State) (t : State) (e : execPadRelease p x = .next t) (h : Kept s x) : Kept s t :=
  next_kept e (plazaRun_kept _ _ _ _ _ (fun c y => immediate_kept _ c y padReleaseRun_kept) h)

theorem periReset_kept {s : State} (x : State) (h : Kept s x) :
    Kept s (periReset x) := by
  unfold periReset
  try dsimp only
  with_reducible repeat' first | assumption | fail_if_no_progress refine Kept.upd ?_ rfl rfl rfl rfl


theorem linksAway_kept {s : State} (x : State) (h : Kept s x) :
    Kept s (linksAway x) := by
  unfold linksAway
  try dsimp only
  with_reducible repeat' first
    | assumption | rfl | apply flushDirty_kept | split | refine Kept.setPortSame ?_ rfl
    | fail_if_no_progress refine Kept.upd ?_ rfl rfl rfl rfl | apply Kept.foldl | apply Kept.foldl_fst
    | apply Kept.foldl_snd | apply Kept.ite | intro _


theorem linksBack_kept {s : State} (x : State) (h : Kept s x) :
    Kept s (linksBack x) := by
  unfold linksBack
  try dsimp only
  with_reducible repeat' first
    | assumption | rfl | split | refine Kept.setPortSame ?_ rfl
    | fail_if_no_progress refine Kept.upd ?_ rfl rfl rfl rfl | apply Kept.foldl | apply Kept.foldl_fst
    | apply Kept.foldl_snd | apply Kept.ite | intro _


theorem kerbOff_kept {s : State} (x : State) (h : Kept s x) :
    Kept s (kerbOff x) := by
  unfold kerbOff
  try dsimp only
  with_reducible repeat' first | assumption | fail_if_no_progress refine Kept.upd ?_ rfl rfl rfl rfl


theorem domainOff_kept {s : State} (d : ℕ) (x : State) (h : Kept s x) :
    Kept s (domainOff d x) := by
  unfold domainOff
  try dsimp only
  with_reducible repeat' first
    | assumption | apply kerbOff_kept | apply coreHold_kept | apply periReset_kept | apply latchPads_kept
    | apply cryptoOff_kept | apply linksAway_kept | apply rffeOff_kept | split


theorem switchOff_kept {s : State} (d : BitVec 12) (x : State) (h : Kept s x) :
    Kept s (switchOff d x) := by
  unfold switchOff
  try dsimp only
  with_reducible repeat' first
    | assumption | rfl | apply domainOff_kept | split | refine Kept.setPortSame ?_ rfl
    | fail_if_no_progress refine Kept.upd ?_ rfl rfl rfl rfl | apply Kept.foldl | apply Kept.foldl_fst
    | apply Kept.foldl_snd | apply Kept.ite | intro _


theorem domainOn_kept {s : State} (d : ℕ) (x : State) (h : Kept s x) :
    Kept s (domainOn d x) := by
  unfold domainOn
  try dsimp only
  with_reducible repeat' first
    | assumption | rfl | apply coreStart_kept | apply periReset_kept | apply cryptoOn_kept | apply linksBack_kept
    | apply rffeOn_kept | split | refine Kept.setPortSame ?_ rfl
    | fail_if_no_progress refine Kept.upd ?_ rfl rfl rfl rfl | apply Kept.foldl | apply Kept.foldl_fst
    | apply Kept.foldl_snd | apply Kept.ite | intro _


theorem answerDomains_kept {s : State} (x : State) (h : Kept s x) :
    Kept s (answerDomains x) := by
  unfold answerDomains
  try dsimp only
  with_reducible repeat' first
    | assumption | rfl | apply finish_kept | split | refine Kept.setPortSame ?_ rfl
    | fail_if_no_progress refine Kept.upd ?_ rfl rfl rfl rfl | apply Kept.foldl | apply Kept.foldl_fst
    | apply Kept.foldl_snd | apply Kept.ite | intro _


theorem domainSetNow_kept {s : State} (c : Cmd) (x : State) (h : Kept s x) :
    Kept s (domainSetNow c x) := by
  unfold domainSetNow
  try dsimp only
  with_reducible repeat' first
    | assumption | rfl | apply finish_kept | apply answerDomains_kept | apply dmaHalt_kept | apply switchOff_kept
    | split | refine Kept.setPortSame ?_ rfl | fail_if_no_progress refine Kept.upd ?_ rfl rfl rfl rfl
    | apply Kept.foldl | apply Kept.foldl_fst | apply Kept.foldl_snd | apply Kept.ite | intro _


theorem domainSetDo_kept {s : State} (c : Cmd) (x : State) (h : Kept s x) :
    Kept s (domainSetDo c x) := by
  unfold domainSetDo
  try dsimp only
  with_reducible repeat' first
    | assumption | rfl | apply domainSetNow_kept | split | refine Kept.setPortSame ?_ rfl
    | fail_if_no_progress refine Kept.upd ?_ rfl rfl rfl rfl | apply Kept.foldl | apply Kept.foldl_fst
    | apply Kept.foldl_snd | apply Kept.ite | intro _


theorem afterHandover_kept {s : State} (x : State) (h : Kept s x) :
    Kept s (afterHandover x) := by
  unfold afterHandover
  try dsimp only
  with_reducible repeat' first
    | assumption | rfl | apply domainSetNow_kept | split | refine Kept.setPortSame ?_ rfl
    | fail_if_no_progress refine Kept.upd ?_ rfl rfl rfl rfl | apply Kept.foldl | apply Kept.foldl_fst
    | apply Kept.foldl_snd | apply Kept.ite | intro _


theorem execDomainSet_kept {s : State} (p : Packet) (x : State) (t : State) (e : execDomainSet p x = .next t) (h : Kept s x) : Kept s t :=
  next_kept e (plazaRun_kept _ _ _ _ _ domainSetDo_kept h)

theorem domainUsable_kept {s : State} (d : Fin 12) (x : State) (h : Kept s x) :
    Kept s (domainUsable d x) := by
  unfold domainUsable
  try dsimp only
  with_reducible repeat' first
    | assumption | rfl | apply answerDomains_kept | apply domainOn_kept | split | refine Kept.setPortSame ?_ rfl
    | fail_if_no_progress refine Kept.upd ?_ rfl rfl rfl rfl | apply Kept.foldl | apply Kept.foldl_fst
    | apply Kept.foldl_snd | apply Kept.ite | intro _


theorem execDomainUsable_kept {s : State} (d : Fin 12) (x : State) (t : State) (e : execDomainUsable d x = .next t) (h : Kept s x) : Kept s t :=
  next_kept e (domainUsable_kept _ _ h)

theorem oppointSetDo_kept {s : State} (c : Cmd) (x : State) (h : Kept s x) :
    Kept s (oppointSetDo c x) := by
  unfold oppointSetDo
  try dsimp only
  with_reducible repeat' first
    | assumption | rfl | apply finish_kept | split | refine Kept.setPortSame ?_ rfl
    | fail_if_no_progress refine Kept.upd ?_ rfl rfl rfl rfl | apply Kept.foldl | apply Kept.foldl_fst
    | apply Kept.foldl_snd | apply Kept.ite | intro _


theorem execOppointSet_kept {s : State} (p : Packet) (x : State) (t : State) (e : execOppointSet p x = .next t) (h : Kept s x) : Kept s t :=
  next_kept e (plazaRun_kept _ _ _ _ _ oppointSetDo_kept h)

theorem endOppBlank_kept {s : State} (x : State) (h : Kept s x) :
    Kept s (endOppBlank x) := by
  unfold endOppBlank
  try dsimp only
  with_reducible repeat' first | assumption | apply endBlank_kept | split


theorem oppointSwitch_kept {s : State} (x : State) (h : Kept s x) :
    Kept s (oppointSwitch x) := by
  unfold oppointSwitch
  try dsimp only
  with_reducible repeat' first
    | assumption | rfl | apply finish_kept | apply endOppBlank_kept | apply startBlank_kept | split
    | refine Kept.setPortSame ?_ rfl | fail_if_no_progress refine Kept.upd ?_ rfl rfl rfl rfl | apply Kept.foldl
    | apply Kept.foldl_fst | apply Kept.foldl_snd | apply Kept.ite | intro _


theorem execOppointSwitch_kept {s : State} (x : State) (t : State) (e : execOppointSwitch x = .next t) (h : Kept s x) : Kept s t :=
  next_kept e (oppointSwitch_kept _ h)

theorem oppointTimeout_kept {s : State} (x : State) (h : Kept s x) :
    Kept s (oppointTimeout x) := by
  unfold oppointTimeout
  try dsimp only
  with_reducible repeat' first
    | assumption | rfl | apply finish_kept | split | refine Kept.setPortSame ?_ rfl
    | fail_if_no_progress refine Kept.upd ?_ rfl rfl rfl rfl | apply Kept.foldl | apply Kept.foldl_fst
    | apply Kept.foldl_snd | apply Kept.ite | intro _


theorem execOppointTimeout_kept {s : State} (x : State) (t : State) (e : execOppointTimeout x = .next t) (h : Kept s x) : Kept s t :=
  next_kept e (oppointTimeout_kept _ h)

theorem wakeArmRun_kept {s : State} (c : Cmd) (x : State) (r t) (e : wakeArmRun c x = .ok (r, t)) (h : Kept s x) :
    Kept s t := by
  unfold wakeArmRun at e
  try dsimp only at e
  repeat' split at e
  all_goals first
    | (cases e; done)
    | (injection e with e; have e := congrArg Prod.snd e; dsimp only at e; subst e)
  all_goals
   with_reducible repeat' first
    | assumption | rfl | split | refine Kept.setPortSame ?_ rfl
    | fail_if_no_progress refine Kept.upd ?_ rfl rfl rfl rfl | apply Kept.foldl | apply Kept.foldl_fst
    | apply Kept.foldl_snd | apply Kept.ite | intro _


theorem execWakeArm_kept {s : State} (p : Packet) (x : State) (t : State) (e : execWakeArm p x = .next t) (h : Kept s x) : Kept s t :=
  next_kept e (plazaRun_kept _ _ _ _ _ (fun c y => immediate_kept _ c y wakeArmRun_kept) h)

theorem wakeRecordReadRun_kept {s : State} (c : Cmd) (x : State) (r t) (e : wakeRecordReadRun c x = .ok (r, t)) (h : Kept s x) :
    Kept s t := by
  unfold wakeRecordReadRun at e
  try dsimp only at e
  all_goals first
    | (cases e; done)
    | (injection e with e; have e := congrArg Prod.snd e; dsimp only at e; subst e)
  all_goals
   with_reducible repeat' first | assumption


theorem execWakeRecordRead_kept {s : State} (p : Packet) (x : State) (t : State) (e : execWakeRecordRead p x = .next t) (h : Kept s x) : Kept s t :=
  next_kept e (plazaRun_kept _ _ _ _ _ (fun c y => immediate_kept _ c y wakeRecordReadRun_kept) h)

theorem retainSetRun_kept {s : State} (c : Cmd) (x : State) (r t) (e : retainSetRun c x = .ok (r, t)) (h : Kept s x) :
    Kept s t := by
  unfold retainSetRun at e
  try dsimp only at e
  repeat' split at e
  all_goals first
    | (cases e; done)
    | (injection e with e; have e := congrArg Prod.snd e; dsimp only at e; subst e)
  all_goals
   with_reducible repeat' first
    | assumption | rfl | split | refine Kept.setPortSame ?_ rfl
    | fail_if_no_progress refine Kept.upd ?_ rfl rfl rfl rfl | apply Kept.foldl | apply Kept.foldl_fst
    | apply Kept.foldl_snd | apply Kept.ite | intro _


theorem execRetainSet_kept {s : State} (p : Packet) (x : State) (t : State) (e : execRetainSet p x = .next t) (h : Kept s x) : Kept s t :=
  next_kept e (plazaRun_kept _ _ _ _ _ (fun c y => immediate_kept _ c y retainSetRun_kept) h)

theorem stopEnterDo_kept {s : State} (c : Cmd) (x : State) (h : Kept s x) :
    Kept s (stopEnterDo c x) := by
  unfold stopEnterDo
  try dsimp only
  with_reducible repeat' first
    | assumption | rfl | apply finish_kept | apply budgetWrite_kept | apply flushDirty_kept | split
    | refine Kept.setPortSame ?_ rfl | fail_if_no_progress refine Kept.upd ?_ rfl rfl rfl rfl | apply Kept.foldl
    | apply Kept.foldl_fst | apply Kept.foldl_snd | apply Kept.ite | intro _


theorem execStopEnter_kept {s : State} (p : Packet) (x : State) (t : State) (e : execStopEnter p x = .next t) (h : Kept s x) : Kept s t :=
  next_kept e (plazaRun_kept _ _ _ _ _ stopEnterDo_kept h)

theorem portStop_kept {s : State} (p : PortId) (x : State) (h : Kept s x) : Kept s (portStop p x) :=
  h.setPort fun _ i => lanes_empty i

theorem stopEntry_kept {s : State} (x : State) (h : Kept s x) :
    Kept s (stopEntry x) := by
  unfold stopEntry
  try dsimp only
  with_reducible repeat' first
    | assumption | rfl | apply portStop_kept | apply dmaHalt_kept | apply dmaDrain_kept | apply switchOff_kept
    | apply latchPads_kept | apply toLfxo_kept | split | refine Kept.setPortSame ?_ rfl
    | fail_if_no_progress refine Kept.upd ?_ rfl rfl rfl rfl | apply Kept.foldl | apply Kept.foldl_fst
    | apply Kept.foldl_snd | apply Kept.ite | intro _


theorem execStopEntry_kept {s : State} (x : State) (t : State) (e : execStopEntry x = .next t) (h : Kept s x) : Kept s t :=
  next_kept e (stopEntry_kept _ h)

theorem clearBanks_kept {s : State} (m : BitVec 16) (x : State) (h : Kept s x) : Kept s (clearBanks m x) :=
  h.trans ⟨rfl, fun k => ⟨wf_filter _ _ _ k.1, k.2⟩, id, id, fun _ _ k => k⟩

theorem clearCounters_kept {s : State} (x : State) (h : Kept s x) :
    Kept s (clearCounters x) := by
  unfold clearCounters
  try dsimp only
  with_reducible repeat' first
    | assumption | rfl | apply clearStats_kept | split | refine Kept.setPortSame ?_ rfl
    | fail_if_no_progress refine Kept.upd ?_ rfl rfl rfl rfl | apply Kept.foldl | apply Kept.foldl_fst
    | apply Kept.foldl_snd | apply Kept.ite | intro _


theorem saveAreaLost_kept {s : State} (x : State) (h : Kept s x) :
    Kept s (saveAreaLost x) := by
  unfold saveAreaLost
  try dsimp only
  with_reducible repeat' first
    | assumption | rfl | apply checkAllLow_kept | apply budgetRestore_kept | apply endFrame_kept
    | apply clearCounters_kept | split | refine Kept.setPortSame ?_ rfl
    | fail_if_no_progress refine Kept.upd ?_ rfl rfl rfl rfl | apply Kept.foldl | apply Kept.foldl_fst
    | apply Kept.foldl_snd | apply Kept.ite | intro _


theorem raisePending_kept {s : State} (x : State) (h : Kept s x) :
    Kept s (raisePending x) := by
  unfold raisePending
  try dsimp only
  with_reducible repeat' first
    | assumption | rfl | apply raise_kept | split | refine Kept.setPortSame ?_ rfl
    | fail_if_no_progress refine Kept.upd ?_ rfl rfl rfl rfl | apply Kept.foldl | apply Kept.foldl_fst
    | apply Kept.foldl_snd | apply Kept.ite | intro _


theorem holdWakes_kept {s : State} (m : BitVec 8) (detail : BitVec 6) (x : State) (h : Kept s x) :
    Kept s (holdWakes m detail x) := by
  unfold holdWakes
  try dsimp only
  with_reducible repeat' first
    | assumption | rfl | split | refine Kept.setPortSame ?_ rfl
    | fail_if_no_progress refine Kept.upd ?_ rfl rfl rfl rfl | apply Kept.foldl | apply Kept.foldl_fst
    | apply Kept.foldl_snd | apply Kept.ite | intro _


theorem woken_kept {s : State} (on_ : BitVec 12) (record : WakeRecord) (x : State) (h : Kept s x) :
    Kept s (woken on_ record x) := by
  unfold woken
  try dsimp only
  with_reducible repeat' first
    | assumption | rfl | apply clearBanks_kept | split | refine Kept.setPortSame ?_ rfl
    | fail_if_no_progress refine Kept.upd ?_ rfl rfl rfl rfl | apply Kept.foldl | apply Kept.foldl_fst
    | apply Kept.foldl_snd | apply Kept.ite | intro _


theorem wake_kept {s : State} (sources : BitVec 8) (detail : BitVec 6) (sealFails : BitVec 16) (tempTenths : ℤ) (sensors : Sensors) (x : State) (h : Kept s x) :
    Kept s (wake sources detail sealFails tempTenths sensors x) := by
  unfold wake
  try extract_lets
  repeat' first
    | with_reducible assumption | with_reducible rfl | with_reducible apply holdWakes_kept
    | with_reducible apply periReset_kept | with_reducible apply raise_kept | with_reducible apply woken_kept
    | with_reducible apply saveAreaLost_kept | with_reducible apply sampleTemp_kept
    | with_reducible apply raisePending_kept | with_reducible apply ageBuckets_kept
    | with_reducible apply linksBack_kept | with_reducible apply serveHeld_kept | with_reducible apply cryptoOn_kept
    | with_reducible apply coreStart_kept | split | with_reducible refine Kept.setPortSame ?_ rfl
    | fail_if_no_progress with_reducible refine Kept.upd ?_ rfl rfl rfl rfl | with_reducible apply Kept.foldl
    | with_reducible apply Kept.foldl_fst | with_reducible apply Kept.foldl_snd | with_reducible apply Kept.ite
    | intro _


theorem execWake_kept {s : State} (sources : BitVec 8) (detail : BitVec 6) (sealFails : BitVec 16) (tempTenths : ℤ) (sensors : Sensors) (x : State) (t : State) (e : execWake sources detail sealFails tempTenths sensors x = .next t) (h : Kept s x) :
    Kept s t := by
  unfold execWake at e
  try dsimp only at e
  repeat' split at e
  all_goals first
    | (cases e; done)
    | (injection e with e; subst e)
    | skip
  all_goals
   repeat' first
    | with_reducible assumption | with_reducible rfl | with_reducible apply wake_kept | split
    | with_reducible refine Kept.setPortSame ?_ rfl
    | fail_if_no_progress with_reducible refine Kept.upd ?_ rfl rfl rfl rfl | with_reducible apply Kept.foldl
    | with_reducible apply Kept.foldl_fst | with_reducible apply Kept.foldl_snd | with_reducible apply Kept.ite
    | intro _ | dsimp only | with_reducible refine EKept.seq ?_ | with_reducible refine EKept.goto ?_
    | with_reducible refine EKept.transfer ?_ | with_reducible refine EKept.exc ?_ | with_reducible apply EKept.ite


theorem sysplllocked_kept {s : State} (x : State) (h : Kept s x) :
    Kept s (sysplllocked x) := by
  unfold sysplllocked
  try dsimp only
  with_reducible repeat' first
    | assumption | rfl | split | refine Kept.setPortSame ?_ rfl
    | fail_if_no_progress refine Kept.upd ?_ rfl rfl rfl rfl | apply Kept.foldl | apply Kept.foldl_fst
    | apply Kept.foldl_snd | apply Kept.ite | intro _


theorem execSysplllocked_kept {s : State} (x : State) (t : State) (e : execSysplllocked x = .next t) (h : Kept s x) : Kept s t :=
  next_kept e (sysplllocked_kept _ h)

theorem bodConfigRun_kept {s : State} (c : Cmd) (x : State) (r t) (e : bodConfigRun c x = .ok (r, t)) (h : Kept s x) :
    Kept s t := by
  unfold bodConfigRun at e
  try dsimp only at e
  repeat' split at e
  all_goals first
    | (cases e; done)
    | (injection e with e; have e := congrArg Prod.snd e; dsimp only at e; subst e)
  all_goals
   with_reducible repeat' first
    | assumption | rfl | split | refine Kept.setPortSame ?_ rfl
    | fail_if_no_progress refine Kept.upd ?_ rfl rfl rfl rfl | apply Kept.foldl | apply Kept.foldl_fst
    | apply Kept.foldl_snd | apply Kept.ite | intro _


theorem execBodConfig_kept {s : State} (p : Packet) (x : State) (t : State) (e : execBodConfig p x = .next t) (h : Kept s x) : Kept s t :=
  next_kept e (plazaRun_kept _ _ _ _ _ (fun c y => immediate_kept _ c y bodConfigRun_kept) h)

theorem vbatTaken_kept {s : State} (mv : ℕ) (x : State) (h : Kept s x) :
    Kept s (vbatTaken mv x) := by
  unfold vbatTaken
  try dsimp only
  with_reducible repeat' first
    | assumption | rfl | split | refine Kept.setPortSame ?_ rfl
    | fail_if_no_progress refine Kept.upd ?_ rfl rfl rfl rfl | apply Kept.foldl | apply Kept.foldl_fst
    | apply Kept.foldl_snd | apply Kept.ite | intro _


theorem execVbatSample_kept {s : State} (mv : ℕ) (x : State) (t : State) (e : execVbatSample mv x = .next t) (h : Kept s x) : Kept s t :=
  next_kept e (vbatTaken_kept _ _ h)

theorem bodWarn_kept {s : State} (mv : ℕ) (x : State) (h : Kept s x) :
    Kept s (bodWarn mv x) := by
  unfold bodWarn
  try dsimp only
  with_reducible repeat' first
    | assumption | rfl | apply abortAir_kept | apply flashProgress_kept | apply raise_kept | split
    | refine Kept.setPortSame ?_ rfl | fail_if_no_progress refine Kept.upd ?_ rfl rfl rfl rfl | apply Kept.foldl
    | apply Kept.foldl_fst | apply Kept.foldl_snd | apply Kept.ite | intro _


theorem execBodWarn_kept {s : State} (mv : ℕ) (x : State) (t : State) (e : execBodWarn mv x = .next t) (h : Kept s x) : Kept s t :=
  next_kept e (bodWarn_kept _ _ h)

theorem bodClear_kept {s : State} (mv : ℕ) (x : State) (h : Kept s x) :
    Kept s (bodClear mv x) := by
  unfold bodClear
  try dsimp only
  with_reducible repeat' first
    | assumption | rfl | apply resumeErase_kept | apply budgetWrite_kept | apply raise_kept | split
    | refine Kept.setPortSame ?_ rfl | fail_if_no_progress refine Kept.upd ?_ rfl rfl rfl rfl | apply Kept.foldl
    | apply Kept.foldl_fst | apply Kept.foldl_snd | apply Kept.ite | intro _


theorem execBodClear_kept {s : State} (mv : ℕ) (x : State) (t : State) (e : execBodClear mv x = .next t) (h : Kept s x) : Kept s t :=
  next_kept e (bodClear_kept _ _ h)

end Sys2Proof.Machine
end

