-- ==== Sys2Proof/Laws/KeptBoot.lean ====
section
/-! SUPPORT. Every operation of Machine/Boot.lean keeps what `Kept` says. -/

namespace Sys2Proof.Machine
open Sys2Proof

theorem balanced_default : Balanced {} := by
  unfold Balanced endedFrames
  decide

theorem lanesOk_of_default {t : State} (h : t.plaza.ports = Vector.replicate 3 {}) : LanesOk t := by
  intro p i
  simp [h]

/-- Ending every pending frame keeps the balance. -/
theorem flushLedger_ok (x : State) (h : LedgerOk x) :
    Balanced (flushLedger x).app ∧ Balanced (flushLedger x).fw := by
  have k : Kept x (x.link.frames.foldl
      (fun s f => inLedger f.kind (LedgerScope.close f.inFlight (outcomeCode .flushed)) s) x) :=
    Kept.foldl _ _ _ (Kept.refl x) fun t f ht => inLedger_kept _ _ _ (balanced_close _ _) ht
  exact k.ledger h

theorem bootScan_kept {s : State} (x : State) (h : Kept s x) :
    Kept s (bootScan x) := by
  unfold bootScan
  try dsimp only
  with_reducible repeat' first
    | assumption | rfl | apply eraseSector_kept | split | refine Kept.setPortSame ?_ rfl
    | fail_if_no_progress refine Kept.upd ?_ rfl rfl rfl rfl | apply Kept.foldl | apply Kept.foldl_fst
    | apply Kept.foldl_snd | apply Kept.ite | intro _


theorem bootTrial_kept {s : State} (x : State) (h : Kept s x) :
    Kept s (bootTrial x) := by
  unfold bootTrial
  try dsimp only
  with_reducible repeat' first
    | assumption | rfl | split | refine Kept.setPortSame ?_ rfl
    | fail_if_no_progress refine Kept.upd ?_ rfl rfl rfl rfl | apply Kept.foldl | apply Kept.foldl_fst
    | apply Kept.foldl_snd | apply Kept.ite | intro _


theorem bootMeasures_kept {s : State} (x : State) (h : Kept s x) :
    Kept s (bootMeasures x) := by
  unfold bootMeasures
  try dsimp only
  with_reducible repeat' first | assumption | apply extendMr_kept | split


theorem recordDigest_kept {s : State} (ws : Option (List Word)) (x : State) (h : Kept s x) :
    Kept s (recordDigest ws x).2 := by
  unfold recordDigest
  try dsimp only
  with_reducible repeat' first | assumption | apply drawWords_kept | split


theorem startRegion_kept {s : State} (x : State) (h : Kept s x) :
    Kept s (startRegion x) := by
  unfold startRegion
  try dsimp only
  with_reducible repeat' first | assumption | apply takeRegion_kept | split


theorem startLibrary_kept {s : State} (x : State) (h : Kept s x) :
    Kept s (startLibrary x) := by
  unfold startLibrary
  try dsimp only
  with_reducible repeat' first
    | assumption | apply recordDigest_kept | apply extendMr_kept | apply setLibraryId_kept | split
    | fail_if_no_progress refine Kept.upd ?_ rfl rfl rfl rfl


theorem putLimits_kept {s : State} (l : List BandLimit) (x : State) (h : Kept s x) :
    Kept s (putLimits l x) := by
  unfold putLimits
  try dsimp only
  with_reducible repeat' first | assumption | fail_if_no_progress refine Kept.upd ?_ rfl rfl rfl rfl


theorem startBudget_kept {s : State} (aged : Bool) (x : State) (h : Kept s x) :
    Kept s (startBudget aged x) := by
  unfold startBudget
  try dsimp only
  with_reducible repeat' first
    | assumption | apply budgetRestore_kept | apply recordDigest_kept | apply extendMr_kept | apply putLimits_kept
    | apply setWindow_kept | apply setLimits_kept | split | fail_if_no_progress refine Kept.upd ?_ rfl rfl rfl rfl


theorem startKerb_kept {s : State} (x : State) (h : Kept s x) :
    Kept s (startKerb x) := by
  unfold startKerb
  try dsimp only
  with_reducible repeat' first
    | assumption | apply extendMr_kept | split | fail_if_no_progress refine Kept.upd ?_ rfl rfl rfl rfl


theorem startOthers_kept {s : State} (x : State) (h : Kept s x) :
    Kept s (startOthers x) := by
  unfold startOthers
  try dsimp only
  with_reducible repeat' first
    | assumption | rfl | apply loadGates_kept | split | refine Kept.setPortSame ?_ rfl
    | fail_if_no_progress refine Kept.upd ?_ rfl rfl rfl rfl | apply Kept.foldl | apply Kept.foldl_fst
    | apply Kept.foldl_snd | apply Kept.ite | intro _


theorem raiseFound_kept {s : State} (x : State) (h : Kept s x) :
    Kept s (raiseFound x) := by
  unfold raiseFound
  try dsimp only
  with_reducible repeat' first | assumption | apply raise_kept | apply Kept.foldl | intro _


theorem bootEvents_kept {s : State} (x : State) (h : Kept s x) :
    Kept s (bootEvents x) := by
  unfold bootEvents
  try dsimp only
  with_reducible repeat' first
    | assumption | rfl | apply raiseAll_kept | apply raiseFound_kept | apply raise_kept | split
    | refine Kept.setPortSame ?_ rfl | fail_if_no_progress refine Kept.upd ?_ rfl rfl rfl rfl | apply Kept.foldl
    | apply Kept.foldl_fst | apply Kept.foldl_snd | apply Kept.ite | intro _


theorem countBoot_kept {s : State} (x : State) (h : Kept s x) :
    Kept s (countBoot x) := by
  unfold countBoot
  try dsimp only
  with_reducible repeat' first
    | assumption | rfl | split | refine Kept.setPortSame ?_ rfl
    | fail_if_no_progress refine Kept.upd ?_ rfl rfl rfl rfl | apply Kept.foldl | apply Kept.foldl_fst
    | apply Kept.foldl_snd | apply Kept.ite | intro _


theorem startDomains_kept {s : State} (x : State) (h : Kept s x) :
    Kept s (startDomains x) := by
  unfold startDomains
  try dsimp only
  with_reducible repeat' first
    | assumption | rfl | split | refine Kept.setPortSame ?_ rfl
    | fail_if_no_progress refine Kept.upd ?_ rfl rfl rfl rfl | apply Kept.foldl | apply Kept.foldl_fst
    | apply Kept.foldl_snd | apply Kept.ite | intro _


theorem startCore_kept {s : State} (x : State) (h : Kept s x) :
    Kept s (startCore x) := by
  unfold startCore
  try dsimp only
  with_reducible repeat' first | assumption | apply coreStart_kept | split


theorem openPorts_kept {s : State} (x : State) (h : Kept s x) : Kept s (openPorts x) :=
  h.relane (fun hl p i => by simpa [openPorts] using hl p i) rfl rfl rfl rfl rfl rfl

theorem boot_kept {s : State} (aged : Bool) (x : State) (h : Kept s x) :
    Kept s (boot aged x) := by
  unfold boot
  try dsimp only
  with_reducible repeat' first
    | assumption | apply bootMeasures_kept | apply countBoot_kept | apply bootTrial_kept | apply bootScan_kept
    | apply startOthers_kept | apply startKerb_kept | apply startBudget_kept | apply startLibrary_kept
    | apply startRegion_kept | apply checkAllLow_kept | apply bootEvents_kept | apply openPorts_kept
    | apply startCore_kept | apply startDomains_kept


theorem abandonOp_kept {s : State} (o : FlashOp) (x : State) (h : Kept s x) :
    Kept s (abandonOp o x) := by
  unfold abandonOp
  try dsimp only
  with_reducible repeat' first
    | assumption | apply drawWord_kept | apply eraseSectors_kept | apply programUnits_kept | split


theorem abandonFlash_kept {s : State} (x : State) (h : Kept s x) :
    Kept s (abandonFlash x) := by
  unfold abandonFlash
  try dsimp only
  with_reducible repeat' first
    | assumption | apply abandonOp_kept | split | fail_if_no_progress refine Kept.upd ?_ rfl rfl rfl rfl


theorem coldState_kept {s : State} (x : State) (h : Kept s x) : Kept s (coldState x) := by
  have k := drawBool_kept _ (abandonFlash_kept x h)
  unfold coldState
  extract_lets s1 kk lose y
  refine k.trans ⟨rfl, fun w => ⟨rfl, w.2.1, ?_⟩, fun _ => ⟨balanced_default, balanced_default⟩, fun _ => lanesOk_of_default rfl, fun _ _ k => k⟩
  dsimp only
  split
  · rfl
  · exact w.2.2

theorem warmState_kept {s : State} (x : State) (h : Kept s x) : Kept s (warmState x) := by
  have k := abandonFlash_kept x h
  unfold warmState
  extract_lets y lost mirror
  exact k.trans ⟨rfl, fun w => ⟨w.1, w.2.1, w.2.2⟩, fun w => flushLedger_ok _ w, fun _ => lanesOk_of_default rfl, fun _ _ k => k⟩

theorem coldReset_kept {s : State} (cause : BitVec 4) (x : State) (h : Kept s x) :
    Kept s (coldReset cause x) := by
  unfold coldReset
  try dsimp only
  with_reducible repeat' first
    | assumption | rfl | apply coldState_kept | split | refine Kept.setPortSame ?_ rfl
    | fail_if_no_progress refine Kept.upd ?_ rfl rfl rfl rfl | apply Kept.foldl | apply Kept.foldl_fst
    | apply Kept.foldl_snd | apply Kept.ite | intro _


theorem warmResetTo_kept {s : State} (cause : BitVec 4) (reason : Option ℕ) (strap : Bool) (x : State) (h : Kept s x) :
    Kept s (warmResetTo cause reason strap x) := by
  unfold warmResetTo
  try dsimp only
  with_reducible repeat' first
    | assumption | rfl | apply warmState_kept | apply boot_kept | split | refine Kept.setPortSame ?_ rfl
    | fail_if_no_progress refine Kept.upd ?_ rfl rfl rfl rfl | apply Kept.foldl | apply Kept.foldl_fst
    | apply Kept.foldl_snd | apply Kept.ite | intro _


theorem execPowerOnReset_kept {s : State} (x : State) (t : State) (e : execPowerOnReset x = .next t) (h : Kept s x) : Kept s t :=
  next_kept e (coldReset_kept _ _ h)

theorem brownoutReset_kept {s : State} (mv : ℕ) (x : State) (h : Kept s x) :
    Kept s (brownoutReset mv x) := by
  unfold brownoutReset
  try dsimp only
  with_reducible repeat' first | assumption | apply coldReset_kept | split


theorem execBrownoutReset_kept {s : State} (mv : ℕ) (x : State) (t : State) (e : execBrownoutReset mv x = .next t) (h : Kept s x) : Kept s t :=
  next_kept e (brownoutReset_kept _ _ h)

theorem resetn_kept {s : State} (lowNs : ℕ) (strap : Bool) (x : State) (h : Kept s x) :
    Kept s (resetn lowNs strap x) := by
  unfold resetn
  try dsimp only
  with_reducible repeat' first | assumption | apply warmResetTo_kept | apply drawBool_kept | split


theorem execResetn_kept {s : State} (lowNs : ℕ) (strap : Bool) (x : State) (t : State) (e : execResetn lowNs strap x = .next t) (h : Kept s x) : Kept s t :=
  next_kept e (resetn_kept _ _ _ h)

theorem warmReset_kept {s : State} (x : State) (h : Kept s x) :
    Kept s (warmReset x) := by
  unfold warmReset
  try dsimp only
  with_reducible repeat' first
    | assumption | rfl | apply warmResetTo_kept | split | refine Kept.setPortSame ?_ rfl
    | fail_if_no_progress refine Kept.upd ?_ rfl rfl rfl rfl | apply Kept.foldl | apply Kept.foldl_fst
    | apply Kept.foldl_snd | apply Kept.ite | intro _


theorem execWarmReset_kept {s : State} (x : State) (t : State) (e : execWarmReset x = .next t) (h : Kept s x) : Kept s t :=
  next_kept e (warmReset_kept _ h)

theorem debugReset_kept {s : State} (x : State) (h : Kept s x) :
    Kept s (debugReset x) := by
  unfold debugReset
  try dsimp only
  with_reducible repeat' first
    | assumption | rfl | apply warmResetTo_kept | split | refine Kept.setPortSame ?_ rfl
    | fail_if_no_progress refine Kept.upd ?_ rfl rfl rfl rfl | apply Kept.foldl | apply Kept.foldl_fst
    | apply Kept.foldl_snd | apply Kept.ite | intro _


theorem execDebugReset_kept {s : State} (x : State) (t : State) (e : execDebugReset x = .next t) (h : Kept s x) : Kept s t :=
  next_kept e (debugReset_kept _ h)

theorem extest_kept {s : State} (select : Bool) (x : State) (h : Kept s x) :
    Kept s (extest select x) := by
  unfold extest
  try dsimp only
  with_reducible repeat' first
    | assumption | rfl | apply cryptoOff_kept | apply coreHold_kept | apply warmResetTo_kept | split
    | refine Kept.setPortSame ?_ rfl | fail_if_no_progress refine Kept.upd ?_ rfl rfl rfl rfl | apply Kept.foldl
    | apply Kept.foldl_fst | apply Kept.foldl_snd | apply Kept.ite | intro _


theorem execExtest_kept {s : State} (select : Bool) (x : State) (t : State) (e : execExtest select x = .next t) (h : Kept s x) : Kept s t :=
  next_kept e (extest_kept _ _ h)

theorem setVio_kept {s : State} (on_ : Bool) (x : State) (h : Kept s x) :
    Kept s (setVio on_ x) := by
  unfold setVio
  try dsimp only
  with_reducible repeat' first
    | assumption | rfl | apply withEdges_kept | split | refine Kept.setPortSame ?_ rfl
    | fail_if_no_progress refine Kept.upd ?_ rfl rfl rfl rfl | apply Kept.foldl | apply Kept.foldl_fst
    | apply Kept.foldl_snd | apply Kept.ite | intro _


theorem execVioRemoved_kept {s : State} (x : State) (t : State) (e : execVioRemoved x = .next t) (h : Kept s x) : Kept s t :=
  next_kept e (setVio_kept _ _ h)

theorem execVioRestored_kept {s : State} (x : State) (t : State) (e : execVioRestored x = .next t) (h : Kept s x) : Kept s t :=
  next_kept e (setVio_kept _ _ h)

theorem lfxoRunning_kept {s : State} (x : State) (h : Kept s x) :
    Kept s (lfxoRunning x) := by
  unfold lfxoRunning
  try dsimp only
  with_reducible repeat' first
    | assumption | rfl | apply boot_kept | split | refine Kept.setPortSame ?_ rfl
    | fail_if_no_progress refine Kept.upd ?_ rfl rfl rfl rfl | apply Kept.foldl | apply Kept.foldl_fst
    | apply Kept.foldl_snd | apply Kept.ite | intro _


theorem execLfxoRunning_kept {s : State} (x : State) (t : State) (e : execLfxoRunning x = .next t) (h : Kept s x) : Kept s t :=
  next_kept e (lfxoRunning_kept _ h)

end Sys2Proof.Machine
end

