-- ==== Sys2Proof/Laws/KeptUpdate.lean ====
section
/-! SUPPORT. Every operation of Machine/Update.lean keeps what `Kept` says. -/

namespace Sys2Proof.Machine
open Sys2Proof


theorem setBank_kept {s : State} (b : Bool) (i : Option Image) (x : State) (h : Kept s x) :
    Kept s (setBank b i x) := by
  unfold setBank
  try dsimp only
  with_reducible repeat' first
    | assumption | rfl | split | refine Kept.setPortSame ?_ rfl
    | fail_if_no_progress refine Kept.upd ?_ rfl rfl rfl rfl | apply Kept.foldl | apply Kept.foldl_fst
    | apply Kept.foldl_snd | apply Kept.ite | intro _


theorem updBeginRun_kept {s : State} (c : Cmd) (x : State) (h : Kept s x) :
    Kept s (updBeginRun c x) := by
  unfold updBeginRun
  try dsimp only
  with_reducible repeat' first
    | assumption | rfl | apply finish_kept | apply setFlag_kept | apply setBank_kept | split
    | refine Kept.setPortSame ?_ rfl | fail_if_no_progress refine Kept.upd ?_ rfl rfl rfl rfl | apply Kept.foldl
    | apply Kept.foldl_fst | apply Kept.foldl_snd | apply Kept.ite | intro _


theorem execUpdBegin_kept {s : State} (p : Packet) (x : State) (t : State) (e : execUpdBegin p x = .next t) (h : Kept s x) : Kept s t :=
  next_kept e (plazaRun_kept _ _ _ _ _ updBeginRun_kept h)

theorem inactiveBankErased_kept {s : State} (x : State) (h : Kept s x) :
    Kept s (inactiveBankErased x) := by
  unfold inactiveBankErased
  try dsimp only
  with_reducible repeat' first
    | assumption | rfl | apply eraseSectors_kept | apply finish_kept | split | refine Kept.setPortSame ?_ rfl
    | fail_if_no_progress refine Kept.upd ?_ rfl rfl rfl rfl | apply Kept.foldl | apply Kept.foldl_fst
    | apply Kept.foldl_snd | apply Kept.ite | intro _


theorem execInactiveBankErased_kept {s : State} (x : State) (t : State) (e : execInactiveBankErased x = .next t) (h : Kept s x) : Kept s t :=
  next_kept e (inactiveBankErased_kept _ h)

theorem updChunkRun_kept {s : State} (c : Cmd) (x : State) (h : Kept s x) :
    Kept s (updChunkRun c x) := by
  unfold updChunkRun
  try dsimp only
  with_reducible repeat' first
    | assumption | rfl | apply finish_kept | apply drawBool_kept | apply pickBad_kept | apply programUnits_kept
    | split | refine Kept.setPortSame ?_ rfl | fail_if_no_progress refine Kept.upd ?_ rfl rfl rfl rfl
    | apply Kept.foldl | apply Kept.foldl_fst | apply Kept.foldl_snd | apply Kept.ite | intro _


theorem execUpdChunk_kept {s : State} (p : Packet) (x : State) (t : State) (e : execUpdChunk p x = .next t) (h : Kept s x) : Kept s t :=
  next_kept e (plazaRun_kept _ _ _ _ _ updChunkRun_kept h)

theorem updVerifyRun_kept {s : State} (c : Cmd) (x : State) (h : Kept s x) :
    Kept s (updVerifyRun c x) := by
  unfold updVerifyRun
  try dsimp only
  with_reducible repeat' first
    | assumption | rfl | apply finish_kept | split | refine Kept.setPortSame ?_ rfl
    | fail_if_no_progress refine Kept.upd ?_ rfl rfl rfl rfl | apply Kept.foldl | apply Kept.foldl_fst
    | apply Kept.foldl_snd | apply Kept.ite | intro _


theorem execUpdVerify_kept {s : State} (p : Packet) (x : State) (t : State) (e : execUpdVerify p x = .next t) (h : Kept s x) : Kept s t :=
  next_kept e (plazaRun_kept _ _ _ _ _ updVerifyRun_kept h)

theorem updVerifyDone_kept {s : State} (x : State) (h : Kept s x) :
    Kept s (updVerifyDone x) := by
  unfold updVerifyDone
  try dsimp only
  with_reducible repeat' first
    | assumption | rfl | apply finish_kept | split | refine Kept.setPortSame ?_ rfl
    | fail_if_no_progress refine Kept.upd ?_ rfl rfl rfl rfl | apply Kept.foldl | apply Kept.foldl_fst
    | apply Kept.foldl_snd | apply Kept.ite | intro _


theorem execUpdVerifyDone_kept {s : State} (x : State) (t : State) (e : execUpdVerifyDone x = .next t) (h : Kept s x) : Kept s t :=
  next_kept e (updVerifyDone_kept _ h)

theorem updActivateRun_kept {s : State} (c : Cmd) (x : State) (h : Kept s x) :
    Kept s (updActivateRun c x) := by
  unfold updActivateRun
  try dsimp only
  with_reducible repeat' first
    | assumption | rfl | apply finish_kept | apply takeHandle_kept | apply respondAccepted_kept | split
    | refine Kept.setPortSame ?_ rfl | fail_if_no_progress refine Kept.upd ?_ rfl rfl rfl rfl | apply Kept.foldl
    | apply Kept.foldl_fst | apply Kept.foldl_snd | apply Kept.ite | intro _


theorem execUpdActivate_kept {s : State} (p : Packet) (x : State) (t : State) (e : execUpdActivate p x = .next t) (h : Kept s x) : Kept s t :=
  next_kept e (plazaRun_kept _ _ _ _ _ updActivateRun_kept h)

theorem handoverEnds_kept {s : State} (a : Activation) (st : Status) (x : State) (h : Kept s x) :
    Kept s (handoverEnds a st x) := by
  unfold handoverEnds
  try dsimp only
  with_reducible repeat' first
    | assumption | rfl | apply afterHandover_kept | apply completeEvent_kept | split | refine Kept.setPortSame ?_ rfl
    | fail_if_no_progress refine Kept.upd ?_ rfl rfl rfl rfl | apply Kept.foldl | apply Kept.foldl_fst
    | apply Kept.foldl_snd | apply Kept.ite | intro _


theorem flip_kept {s : State} (img : Image) (a : Activation) (h0 : Handover) (x : State) (h : Kept s x) :
    Kept s (flip img a h0 x) := by
  unfold flip
  try dsimp only
  with_reducible repeat' first
    | assumption | rfl | apply extendMr_kept | split | refine Kept.setPortSame ?_ rfl
    | fail_if_no_progress refine Kept.upd ?_ rfl rfl rfl rfl | apply Kept.foldl | apply Kept.foldl_fst
    | apply Kept.foldl_snd | apply Kept.ite | intro _


theorem unpark_kept {s : State} (h0 : Handover) (x : State) (h : Kept s x) :
    Kept s (unpark h0 x) := by
  unfold unpark
  try dsimp only
  with_reducible repeat' first
    | assumption | rfl | apply coreHandover_kept | split | refine Kept.setPortSame ?_ rfl
    | fail_if_no_progress refine Kept.upd ?_ rfl rfl rfl rfl | apply Kept.foldl | apply Kept.foldl_fst
    | apply Kept.foldl_snd | apply Kept.ite | intro _


theorem adopt_kept {s : State} (a : Activation) (h0 : Handover) (x : State) (h : Kept s x) :
    Kept s (adopt a h0 x) := by
  unfold adopt
  try dsimp only
  with_reducible repeat' first
    | assumption | rfl | apply completeEvent_kept | apply afterHandover_kept | apply raise_kept | split
    | refine Kept.setPortSame ?_ rfl | fail_if_no_progress refine Kept.upd ?_ rfl rfl rfl rfl | apply Kept.foldl
    | apply Kept.foldl_fst | apply Kept.foldl_snd | apply Kept.ite | intro _


theorem rollBack_kept {s : State} (reason : ℕ) (x : State) (h : Kept s x) :
    Kept s (rollBack reason x) := by
  unfold rollBack
  try dsimp only
  with_reducible repeat' first | assumption | apply warmResetTo_kept


theorem handover_kept {s : State} (adopted : Bool) (x : State) (h : Kept s x) :
    Kept s (handover adopted x) := by
  unfold handover
  try dsimp only
  with_reducible repeat' first
    | assumption | rfl | apply handoverEnds_kept | apply flip_kept | apply unpark_kept | apply adopt_kept
    | apply rollBack_kept | split | refine Kept.setPortSame ?_ rfl
    | fail_if_no_progress refine Kept.upd ?_ rfl rfl rfl rfl | apply Kept.foldl | apply Kept.foldl_fst
    | apply Kept.foldl_snd | apply Kept.ite | intro _


theorem execHandover_kept {s : State} (adopted : Bool) (x : State) (t : State) (e : execHandover adopted x = .next t) (h : Kept s x) : Kept s t :=
  next_kept e (handover_kept _ _ h)

theorem handoverWaitExpiry_kept {s : State} (x : State) (h : Kept s x) :
    Kept s (handoverWaitExpiry x) := by
  unfold handoverWaitExpiry
  try dsimp only
  with_reducible repeat' first
    | assumption | rfl | apply handoverEnds_kept | split | refine Kept.setPortSame ?_ rfl
    | fail_if_no_progress refine Kept.upd ?_ rfl rfl rfl rfl | apply Kept.foldl | apply Kept.foldl_fst
    | apply Kept.foldl_snd | apply Kept.ite | intro _


theorem execHandoverWaitExpiry_kept {s : State} (x : State) (t : State) (e : execHandoverWaitExpiry x = .next t) (h : Kept s x) : Kept s t :=
  next_kept e (handoverWaitExpiry_kept _ h)

theorem trialExpiry_kept {s : State} (x : State) (h : Kept s x) :
    Kept s (trialExpiry x) := by
  unfold trialExpiry
  try dsimp only
  with_reducible repeat' first
    | assumption | rfl | apply rollBack_kept | split | refine Kept.setPortSame ?_ rfl
    | fail_if_no_progress refine Kept.upd ?_ rfl rfl rfl rfl | apply Kept.foldl | apply Kept.foldl_fst
    | apply Kept.foldl_snd | apply Kept.ite | intro _


theorem execTrialExpiry_kept {s : State} (x : State) (t : State) (e : execTrialExpiry x = .next t) (h : Kept s x) : Kept s t :=
  next_kept e (trialExpiry_kept _ h)

theorem rollback_kept {s : State} (reason : RollbackReason) (x : State) (h : Kept s x) :
    Kept s (rollback reason x) := by
  unfold rollback
  try dsimp only
  with_reducible repeat' first | assumption | apply rollBack_kept | split


theorem execRollback_kept {s : State} (reason : RollbackReason) (x : State) (t : State) (e : execRollback reason x = .next t) (h : Kept s x) : Kept s t :=
  next_kept e (rollback_kept _ _ h)

theorem raiseThermo_kept {s : State} (first value : Nat) (x : State) (h : Kept s x) : Kept s (raiseThermo first value x) := by
  unfold raiseThermo
  apply Kept.foldl _ _ _ h
  intro t i ht
  exact ht.otpSet fun b hb => by simp [hb]

theorem updCommitRun_kept {s : State} (c : Cmd) (x : State) (h : Kept s x) :
    Kept s (updCommitRun c x) := by
  unfold updCommitRun
  try dsimp only
  with_reducible repeat' first
    | assumption | rfl | apply finish_kept | apply raiseThermo_kept | apply setBank_kept | split
    | refine Kept.setPortSame ?_ rfl | fail_if_no_progress refine Kept.upd ?_ rfl rfl rfl rfl | apply Kept.foldl
    | apply Kept.foldl_fst | apply Kept.foldl_snd | apply Kept.ite | intro _


theorem execUpdCommit_kept {s : State} (p : Packet) (x : State) (t : State) (e : execUpdCommit p x = .next t) (h : Kept s x) : Kept s t :=
  next_kept e (plazaRun_kept _ _ _ _ _ updCommitRun_kept h)

theorem closeSession_kept {s : State} (x : State) (h : Kept s x) :
    Kept s (closeSession x) := by
  unfold closeSession
  try dsimp only
  with_reducible repeat' first
    | assumption | rfl | apply finish_kept | apply abandonOp_kept | split | refine Kept.setPortSame ?_ rfl
    | fail_if_no_progress refine Kept.upd ?_ rfl rfl rfl rfl | apply Kept.foldl | apply Kept.foldl_fst
    | apply Kept.foldl_snd | apply Kept.ite | intro _


theorem updAbortRun_kept {s : State} (c : Cmd) (x : State) (h : Kept s x) :
    Kept s (updAbortRun c x) := by
  unfold updAbortRun
  try dsimp only
  with_reducible repeat' first
    | assumption | rfl | apply finish_kept | apply closeSession_kept | split | refine Kept.setPortSame ?_ rfl
    | fail_if_no_progress refine Kept.upd ?_ rfl rfl rfl rfl | apply Kept.foldl | apply Kept.foldl_fst
    | apply Kept.foldl_snd | apply Kept.ite | intro _


theorem execUpdAbort_kept {s : State} (p : Packet) (x : State) (t : State) (e : execUpdAbort p x = .next t) (h : Kept s x) : Kept s t :=
  next_kept e (plazaRun_kept _ _ _ _ _ updAbortRun_kept h)

theorem keepLive_kept {s : State} (items : BitVec 8) (x : State) (h : Kept s x) :
    Kept s (keepLive items x) := by
  unfold keepLive
  try dsimp only
  with_reducible repeat' first
    | assumption | rfl | split | refine Kept.setPortSame ?_ rfl
    | fail_if_no_progress refine Kept.upd ?_ rfl rfl rfl rfl | apply Kept.foldl | apply Kept.foldl_fst
    | apply Kept.foldl_snd | apply Kept.ite | intro _


theorem settingsWriteRun_kept {s : State} (c : Cmd) (x : State) (r t) (e : settingsWriteRun c x = .ok (r, t)) (h : Kept s x) :
    Kept s t := by
  unfold settingsWriteRun at e
  try dsimp only at e
  repeat' split at e
  all_goals first
    | (cases e; done)
    | (injection e with e; have e := congrArg Prod.snd e; dsimp only at e; subst e)
  all_goals
   with_reducible repeat' first
    | assumption | rfl | apply keepLive_kept | split | refine Kept.setPortSame ?_ rfl
    | fail_if_no_progress refine Kept.upd ?_ rfl rfl rfl rfl | apply Kept.foldl | apply Kept.foldl_fst
    | apply Kept.foldl_snd | apply Kept.ite | intro _


theorem execSettingsWrite_kept {s : State} (p : Packet) (x : State) (t : State) (e : execSettingsWrite p x = .next t) (h : Kept s x) : Kept s t :=
  next_kept e (plazaRun_kept _ _ _ _ _ (fun c y => immediate_kept _ c y settingsWriteRun_kept) h)

theorem settingsReadRun_kept {s : State} (c : Cmd) (x : State) (r t) (e : settingsReadRun c x = .ok (r, t)) (h : Kept s x) :
    Kept s t := by
  unfold settingsReadRun at e
  try dsimp only at e
  repeat' split at e
  all_goals first
    | (cases e; done)
    | (injection e with e; have e := congrArg Prod.snd e; dsimp only at e; subst e)
  all_goals
   with_reducible repeat' first | assumption


theorem execSettingsRead_kept {s : State} (p : Packet) (x : State) (t : State) (e : execSettingsRead p x = .next t) (h : Kept s x) : Kept s t :=
  next_kept e (plazaRun_kept _ _ _ _ _ (fun c y => immediate_kept _ c y settingsReadRun_kept) h)

end Sys2Proof.Machine
end

