-- ==== Sys2Proof/Laws/KeptBackground.lean ====
section
/-! SUPPORT. Every operation of Machine/Background.lean keeps what `Kept` says. -/

namespace Sys2Proof.Machine
open Sys2Proof

theorem kerbLevelEdge_kept {s : State} (before after : State) (h : Kept s after) : Kept s (kerbLevelEdge before after) := by
  unfold kerbLevelEdge
  apply Kept.foldl _ _ _ h
  intro t k ht
  dsimp only
  split
  · exact kerbStartOr_kept _ ht
  · exact ht

theorem telemetryReadRun_kept {s : State} (c : Cmd) (x : State) (r t) (e : telemetryReadRun c x = .ok (r, t)) (h : Kept s x) :
    Kept s t := by
  unfold telemetryReadRun at e
  try dsimp only at e
  all_goals first
    | (cases e; done)
    | (injection e with e; have e := congrArg Prod.snd e; dsimp only at e; subst e)
  all_goals
   with_reducible repeat' first | assumption


theorem execTelemetryRead_kept {s : State} (p : Packet) (x : State) (t : State) (e : execTelemetryRead p x = .next t) (h : Kept s x) : Kept s t :=
  next_kept e (plazaRun_kept _ _ _ _ _ (fun c y => immediate_kept _ c y telemetryReadRun_kept) h)

theorem clearUrgent_kept {s : State} (a : Activity) (x : State) (h : Kept s x) :
    Kept s (clearUrgent a x) := by
  unfold clearUrgent
  try dsimp only
  with_reducible repeat' first
    | assumption | rfl | split | refine Kept.setPortSame ?_ rfl
    | fail_if_no_progress refine Kept.upd ?_ rfl rfl rfl rfl | apply Kept.foldl | apply Kept.foldl_fst
    | apply Kept.foldl_snd | apply Kept.ite | intro _


theorem quantumDone_kept {s : State} (a : Activity) (x : State) (h : Kept s x) :
    Kept s (quantumDone a x) := by
  unfold quantumDone
  try dsimp only
  with_reducible repeat' first
    | assumption | rfl | apply clearUrgent_kept | split | refine Kept.setPortSame ?_ rfl
    | fail_if_no_progress refine Kept.upd ?_ rfl rfl rfl rfl | apply Kept.foldl | apply Kept.foldl_fst
    | apply Kept.foldl_snd | apply Kept.ite | intro _


theorem uncorrectable_kept {s : State} (m : MemKind) (addr : ℕ) (short : BitVec 24) (x : State) (h : Kept s x) :
    Kept s (uncorrectable m addr short x) := by
  unfold uncorrectable
  try dsimp only
  with_reducible repeat' first
    | assumption | rfl | apply raise_kept | split | refine Kept.setPortSame ?_ rfl
    | fail_if_no_progress refine Kept.upd ?_ rfl rfl rfl rfl | apply Kept.foldl | apply Kept.foldl_fst
    | apply Kept.foldl_snd | apply Kept.ite | intro _


theorem entryLost_kept {s : State} (e0 : LinkEntry) (x : State) (h : Kept s x) :
    Kept s (entryLost e0 x) := by
  unfold entryLost
  try dsimp only
  with_reducible repeat' first
    | assumption | rfl | apply dropLink_kept | apply flushLink_kept | apply xspiFails_kept | apply updateLink_kept
    | apply dirFault_kept | split | refine Kept.setPortSame ?_ rfl
    | fail_if_no_progress refine Kept.upd ?_ rfl rfl rfl rfl | apply Kept.foldl | apply Kept.foldl_fst
    | apply Kept.foldl_snd | apply Kept.ite | intro _


theorem scrubHit_kept {s : State} (m : MemKind) (a : ℕ) (x : State) (h : Kept s x) :
    Kept s (scrubHit m a x) := by
  unfold scrubHit
  try dsimp only
  with_reducible repeat' first
    | assumption | rfl | apply uncorrectable_kept | apply entryLost_kept | apply drawWord_kept | apply sramWrite_kept
    | split | refine Kept.setPortSame ?_ rfl | fail_if_no_progress refine Kept.upd ?_ rfl rfl rfl rfl
    | apply Kept.foldl | apply Kept.foldl_fst | apply Kept.foldl_snd | apply Kept.ite | intro _


theorem scrubQuantum_kept {s : State} (m : MemKind) (e0 : EccFound) (x : State) (h : Kept s x) :
    Kept s (scrubQuantum m e0 x) := by
  unfold scrubQuantum
  try dsimp only
  with_reducible repeat' first
    | assumption | rfl | apply quantumDone_kept | apply scrubHit_kept | split | refine Kept.setPortSame ?_ rfl
    | fail_if_no_progress refine Kept.upd ?_ rfl rfl rfl rfl | apply Kept.foldl | apply Kept.foldl_fst
    | apply Kept.foldl_snd | apply Kept.ite | intro _


theorem execScrubQuantum_kept {s : State} (m : MemKind) (e0 : EccFound) (x : State) (t : State) (e : execScrubQuantum m e0 x = .next t) (h : Kept s x) : Kept s t :=
  next_kept e (scrubQuantum_kept _ _ _ h)

theorem recordLost_kept {s : State} (a : ℕ) (x : State) (h : Kept s x) :
    Kept s (recordLost a x) := by
  unfold recordLost
  try dsimp only
  with_reducible repeat' first
    | assumption | rfl | apply drawWord_kept | split | refine Kept.setPortSame ?_ rfl
    | fail_if_no_progress refine Kept.upd ?_ rfl rfl rfl rfl | apply Kept.foldl | apply Kept.foldl_fst
    | apply Kept.foldl_snd | apply Kept.ite | intro _


theorem flashRefreshQuantum_kept {s : State} (e0 : EccFound) (marginFails : Bool) (x : State) (h : Kept s x) :
    Kept s (flashRefreshQuantum e0 marginFails x) := by
  unfold flashRefreshQuantum
  try dsimp only
  with_reducible repeat' first
    | assumption | rfl | apply quantumDone_kept | apply uncorrectable_kept | apply recordLost_kept | split
    | refine Kept.setPortSame ?_ rfl | fail_if_no_progress refine Kept.upd ?_ rfl rfl rfl rfl | apply Kept.foldl
    | apply Kept.foldl_fst | apply Kept.foldl_snd | apply Kept.ite | intro _


theorem execFlashRefreshQuantum_kept {s : State} (e0 : EccFound) (marginFails : Bool) (x : State) (t : State) (e : execFlashRefreshQuantum e0 marginFails x = .next t) (h : Kept s x) : Kept s t :=
  next_kept e (flashRefreshQuantum_kept _ _ _ h)

theorem journalCompactionQuantum_kept {s : State} (sector : Option ℕ) (x : State) (h : Kept s x) :
    Kept s (journalCompactionQuantum sector x) := by
  unfold journalCompactionQuantum
  try dsimp only
  with_reducible repeat' first
    | assumption | rfl | apply quantumDone_kept | apply eraseSector_kept | split | refine Kept.setPortSame ?_ rfl
    | fail_if_no_progress refine Kept.upd ?_ rfl rfl rfl rfl | apply Kept.foldl | apply Kept.foldl_fst
    | apply Kept.foldl_snd | apply Kept.ite | intro _


theorem execJournalCompactionQuantum_kept {s : State} (eraseSector : Option ℕ) (x : State) (t : State) (e : execJournalCompactionQuantum eraseSector x = .next t) (h : Kept s x) : Kept s t :=
  next_kept e (journalCompactionQuantum_kept _ _ h)

theorem telemetryQuantum_kept {s : State} (tempTenths : ℤ) (sensors : Sensors) (mv : ℕ) (x : State) (h : Kept s x) :
    Kept s (telemetryQuantum tempTenths sensors mv x) := by
  unfold telemetryQuantum
  try dsimp only
  with_reducible repeat' first
    | assumption | rfl | apply sampleTemp_kept | apply quantumDone_kept | split | refine Kept.setPortSame ?_ rfl
    | fail_if_no_progress refine Kept.upd ?_ rfl rfl rfl rfl | apply Kept.foldl | apply Kept.foldl_fst
    | apply Kept.foldl_snd | apply Kept.ite | intro _


theorem execTelemetryQuantum_kept {s : State} (tempTenths : ℤ) (sensors : Sensors) (mv : ℕ) (x : State) (t : State) (e : execTelemetryQuantum tempTenths sensors mv x = .next t) (h : Kept s x) : Kept s t :=
  next_kept e (telemetryQuantum_kept _ _ _ _ h)

theorem urgent_kept {s : State} (a : Activity) (x : State) (h : Kept s x) :
    Kept s (urgent a x) := by
  unfold urgent
  try dsimp only
  with_reducible repeat' first
    | assumption | rfl | split | refine Kept.setPortSame ?_ rfl
    | fail_if_no_progress refine Kept.upd ?_ rfl rfl rfl rfl | apply Kept.foldl | apply Kept.foldl_fst
    | apply Kept.foldl_snd | apply Kept.ite | intro _


theorem execUrgent_kept {s : State} (a : Activity) (x : State) (t : State) (e : execUrgent a x = .next t) (h : Kept s x) : Kept s t :=
  next_kept e (urgent_kept _ _ h)

theorem pauseEnds_kept {s : State} (ms : ℕ) (x : State) (h : Kept s x) :
    Kept s (pauseEnds ms x) := by
  unfold pauseEnds
  try dsimp only
  with_reducible repeat' first
    | assumption | rfl | split | refine Kept.setPortSame ?_ rfl
    | fail_if_no_progress refine Kept.upd ?_ rfl rfl rfl rfl | apply Kept.foldl | apply Kept.foldl_fst
    | apply Kept.foldl_snd | apply Kept.ite | intro _


theorem bgPauseRun_kept {s : State} (c : Cmd) (x : State) (r t) (e : bgPauseRun c x = .ok (r, t)) (h : Kept s x) :
    Kept s t := by
  unfold bgPauseRun at e
  try dsimp only at e
  repeat' split at e
  all_goals first
    | (cases e; done)
    | (injection e with e; have e := congrArg Prod.snd e; dsimp only at e; subst e)
  all_goals
   with_reducible repeat' first
    | assumption | rfl | apply pauseEnds_kept | apply endDrain_kept | split | refine Kept.setPortSame ?_ rfl
    | fail_if_no_progress refine Kept.upd ?_ rfl rfl rfl rfl | apply Kept.foldl | apply Kept.foldl_fst
    | apply Kept.foldl_snd | apply Kept.ite | intro _


theorem execBgPause_kept {s : State} (p : Packet) (x : State) (t : State) (e : execBgPause p x = .next t) (h : Kept s x) : Kept s t :=
  next_kept e (plazaRun_kept _ _ _ _ _ (fun c y => immediate_kept _ c y bgPauseRun_kept) h)

theorem bgPauseEnd_kept {s : State} (x : State) (h : Kept s x) :
    Kept s (bgPauseEnd x) := by
  unfold bgPauseEnd
  try dsimp only
  with_reducible repeat' first | assumption | apply pauseEnds_kept | split


theorem execBgPauseEnd_kept {s : State} (x : State) (t : State) (e : execBgPauseEnd x = .next t) (h : Kept s x) : Kept s t :=
  next_kept e (bgPauseEnd_kept _ h)

theorem bgConfigRun_kept {s : State} (c : Cmd) (x : State) (r t) (e : bgConfigRun c x = .ok (r, t)) (h : Kept s x) :
    Kept s t := by
  unfold bgConfigRun at e
  try dsimp only at e
  repeat' split at e
  all_goals first
    | (cases e; done)
    | (injection e with e; have e := congrArg Prod.snd e; dsimp only at e; subst e)
  all_goals
   with_reducible repeat' first
    | assumption | rfl | split | refine Kept.setPortSame ?_ rfl
    | fail_if_no_progress refine Kept.upd ?_ rfl rfl rfl rfl | apply Kept.foldl | apply Kept.foldl_fst
    | apply Kept.foldl_snd | apply Kept.ite | intro _


theorem execBgConfig_kept {s : State} (p : Packet) (x : State) (t : State) (e : execBgConfig p x = .next t) (h : Kept s x) : Kept s t :=
  next_kept e (plazaRun_kept _ _ _ _ _ (fun c y => immediate_kept _ c y bgConfigRun_kept) h)

theorem ctxTestDo_kept {s : State} (c : Cmd) (x : State) (h : Kept s x) :
    Kept s (ctxTestDo c x) := by
  unfold ctxTestDo
  try dsimp only
  with_reducible repeat' first
    | assumption | rfl | apply finish_kept | apply takeHandle_kept | apply setCtx_kept | apply respondAccepted_kept
    | split | refine Kept.setPortSame ?_ rfl | fail_if_no_progress refine Kept.upd ?_ rfl rfl rfl rfl
    | apply Kept.foldl | apply Kept.foldl_fst | apply Kept.foldl_snd | apply Kept.ite | intro _


theorem execCtxTest_kept {s : State} (p : Packet) (x : State) (t : State) (e : execCtxTest p x = .next t) (h : Kept s x) : Kept s t :=
  next_kept e (plazaRun_kept _ _ _ _ _ ctxTestDo_kept h)

theorem ctxTestDone_kept {s : State} (pass : Bool) (corrected : ℕ) (x : State) (h : Kept s x) :
    Kept s (ctxTestDone pass corrected x) := by
  unfold ctxTestDone
  try dsimp only
  with_reducible repeat' first
    | assumption | rfl | apply completeEvent_kept | apply setCtx_kept | split | refine Kept.setPortSame ?_ rfl
    | fail_if_no_progress refine Kept.upd ?_ rfl rfl rfl rfl | apply Kept.foldl | apply Kept.foldl_fst
    | apply Kept.foldl_snd | apply Kept.ite | intro _


theorem execCtxTestDone_kept {s : State} (pass : Bool) (corrected : ℕ) (x : State) (t : State) (e : execCtxTestDone pass corrected x = .next t) (h : Kept s x) : Kept s t :=
  next_kept e (ctxTestDone_kept _ _ _ h)

theorem bistRunDo_kept {s : State} (c : Cmd) (x : State) (h : Kept s x) :
    Kept s (bistRunDo c x) := by
  unfold bistRunDo
  try dsimp only
  with_reducible repeat' first
    | assumption | rfl | apply finish_kept | apply takeHandle_kept | apply respondAccepted_kept
    | apply clearBanks_kept | split | refine Kept.setPortSame ?_ rfl
    | fail_if_no_progress refine Kept.upd ?_ rfl rfl rfl rfl | apply Kept.foldl | apply Kept.foldl_fst
    | apply Kept.foldl_snd | apply Kept.ite | intro _


theorem execBistRun_kept {s : State} (p : Packet) (x : State) (t : State) (e : execBistRun p x = .next t) (h : Kept s x) : Kept s t :=
  next_kept e (plazaRun_kept _ _ _ _ _ bistRunDo_kept h)

theorem bistDone_kept {s : State} (fails : ℕ) (first : Word) (x : State) (h : Kept s x) :
    Kept s (bistDone fails first x) := by
  unfold bistDone
  try dsimp only
  with_reducible repeat' first
    | assumption | rfl | apply clearBanks_kept | apply completeEvent_kept | split | refine Kept.setPortSame ?_ rfl
    | fail_if_no_progress refine Kept.upd ?_ rfl rfl rfl rfl | apply Kept.foldl | apply Kept.foldl_fst
    | apply Kept.foldl_snd | apply Kept.ite | intro _


theorem execBistDone_kept {s : State} (fails : ℕ) (first : Word) (x : State) (t : State) (e : execBistDone fails first x = .next t) (h : Kept s x) : Kept s t :=
  next_kept e (bistDone_kept _ _ _ h)

theorem loopRfDo_kept {s : State} (c : Cmd) (x : State) (h : Kept s x) :
    Kept s (loopRfDo c x) := by
  unfold loopRfDo
  try dsimp only
  with_reducible repeat' first
    | assumption | rfl | apply finish_kept | apply startBlank_kept | split | refine Kept.setPortSame ?_ rfl
    | fail_if_no_progress refine Kept.upd ?_ rfl rfl rfl rfl | apply Kept.foldl | apply Kept.foldl_fst
    | apply Kept.foldl_snd | apply Kept.ite | intro _


theorem loopKerbDo_kept {s : State} (c : Cmd) (x : State) (h : Kept s x) :
    Kept s (loopKerbDo c x) := by
  unfold loopKerbDo
  try dsimp only
  with_reducible repeat' first
    | assumption | rfl | apply finish_kept | split | refine Kept.setPortSame ?_ rfl
    | fail_if_no_progress refine Kept.upd ?_ rfl rfl rfl rfl | apply Kept.foldl | apply Kept.foldl_fst
    | apply Kept.foldl_snd | apply Kept.ite | intro _


theorem loopbackDo_kept {s : State} (c : Cmd) (x : State) (h : Kept s x) :
    Kept s (loopbackDo c x) := by
  unfold loopbackDo
  try dsimp only
  with_reducible repeat' first
    | apply kerbLevelEdge_kept | assumption | apply finish_kept | apply loopKerbDo_kept | apply loopRfDo_kept | split


theorem execLoopback_kept {s : State} (p : Packet) (x : State) (t : State) (e : execLoopback p x = .next t) (h : Kept s x) : Kept s t :=
  next_kept e (plazaRun_kept _ _ _ _ _ loopbackDo_kept h)

theorem loopbackEnd_kept {s : State} (pass : Bool) (snr : Word) (cfo : Word) (drift : Word) (corrected : Word) (x : State) (h : Kept s x) :
    Kept s (loopbackEnd pass snr cfo drift corrected x) := by
  unfold loopbackEnd
  try dsimp only
  with_reducible repeat' first
    | apply kerbLevelEdge_kept | assumption | rfl | apply finish_kept | apply endBlank_kept | split
    | refine Kept.setPortSame ?_ rfl | fail_if_no_progress refine Kept.upd ?_ rfl rfl rfl rfl | apply Kept.foldl
    | apply Kept.foldl_fst | apply Kept.foldl_snd | apply Kept.ite | intro _


theorem execLoopbackEnd_kept {s : State} (pass : Bool) (snr : Word) (cfo : Word) (drift : Word) (corrected : Word) (x : State) (t : State) (e : execLoopbackEnd pass snr cfo drift corrected x = .next t) (h : Kept s x) : Kept s t :=
  next_kept e (loopbackEnd_kept _ _ _ _ _ _ h)

end Sys2Proof.Machine
end

