-- ==== Sys2Proof/Laws/KeptDecide.lean ====
section
/-! SUPPORT. Every operation of Machine/Decide.lean keeps what `Kept` says. -/

namespace Sys2Proof.Machine
open Sys2Proof


theorem storeFrame_kept {s : State} (f : PipeFrame) (high : Bool) (delivered : Bool) (words : List Word) (x : State) (h : Kept s x) :
    Kept s (storeFrame f high delivered words x) := by
  unfold storeFrame
  try dsimp only
  with_reducible repeat' first
    | assumption | rfl | split | refine Kept.setPortSame ?_ rfl
    | fail_if_no_progress refine Kept.upd ?_ rfl rfl rfl rfl | apply Kept.foldl | apply Kept.foldl_fst
    | apply Kept.foldl_snd | apply Kept.ite | intro _


theorem ackMarginOf_kept {s : State} (f : PipeFrame) (x : State) (h : Kept s x) :
    Kept s (ackMarginOf f x).2 := by
  unfold ackMarginOf
  try dsimp only
  with_reducible repeat' first | assumption | apply drawBool_kept | split


theorem seedAck_kept {s : State} (a : AckDue) (x : State) (h : Kept s x) :
    Kept s (seedAck a x).2 := by
  unfold seedAck
  try dsimp only
  with_reducible repeat' first
    | assumption | rfl | apply takeSeed_kept | split | refine Kept.setPortSame ?_ rfl
    | fail_if_no_progress refine Kept.upd ?_ rfl rfl rfl rfl | apply Kept.foldl | apply Kept.foldl_fst
    | apply Kept.foldl_snd | apply Kept.ite | intro _


theorem chargeAck_kept {s : State} (v : AckVerdict) (x : State) (h : Kept s x) :
    Kept s (chargeAck v x) := by
  unfold chargeAck
  try dsimp only
  with_reducible repeat' first
    | assumption | rfl | apply charge_kept | split | refine Kept.setPortSame ?_ rfl
    | fail_if_no_progress refine Kept.upd ?_ rfl rfl rfl rfl | apply Kept.foldl | apply Kept.foldl_fst
    | apply Kept.foldl_snd | apply Kept.ite | intro _


theorem decideAck_kept {s : State} (f : PipeFrame) (e0 : LinkEntry) (counter : Word) (held : Option (BitVec 8 × Bool)) (child : Option (BitVec 24 × Option DWord)) (x : State) (h : Kept s x) :
    Kept s (decideAck f e0 counter held child x) := by
  unfold decideAck
  try dsimp only
  with_reducible repeat' first
    | assumption | rfl | apply seedAck_kept | apply chargeAck_kept | split | refine Kept.setPortSame ?_ rfl
    | fail_if_no_progress refine Kept.upd ?_ rfl rfl rfl rfl | apply Kept.foldl | apply Kept.foldl_fst
    | apply Kept.foldl_snd | apply Kept.ite | intro _


theorem endSpeculation_kept {s : State} (x : State) (h : Kept s x) :
    Kept s (endSpeculation x) := by
  unfold endSpeculation
  try dsimp only
  with_reducible repeat' first
    | assumption | rfl | apply giveUpTx_kept | split | refine Kept.setPortSame ?_ rfl
    | fail_if_no_progress refine Kept.upd ?_ rfl rfl rfl rfl | apply Kept.foldl | apply Kept.foldl_fst
    | apply Kept.foldl_snd | apply Kept.ite | intro _


theorem adaptMaps_kept {s : State} (f : PipeFrame) (id : BitVec 24 × DWord) (x : State) (h : Kept s x) :
    Kept s (adaptMaps f id x) := by
  unfold adaptMaps
  try dsimp only
  with_reducible repeat' first
    | assumption | rfl | apply updateLink_kept | apply drawFw_kept | apply fwQueue_kept | split
    | refine Kept.setPortSame ?_ rfl | fail_if_no_progress refine Kept.upd ?_ rfl rfl rfl rfl | apply Kept.foldl
    | apply Kept.foldl_fst | apply Kept.foldl_snd | apply Kept.ite | intro _


theorem mapUpdateHeard_kept {s : State} (f : PipeFrame) (b : List Byte) (id : BitVec 24 × DWord) (x : State) (h : Kept s x) :
    Kept s (mapUpdateHeard f b id x) := by
  unfold mapUpdateHeard
  try dsimp only
  with_reducible repeat' first
    | assumption | rfl | apply loadmapEvent_kept | apply updateLink_kept | split | refine Kept.setPortSame ?_ rfl
    | fail_if_no_progress refine Kept.upd ?_ rfl rfl rfl rfl | apply Kept.foldl | apply Kept.foldl_fst
    | apply Kept.foldl_snd | apply Kept.ite | intro _


theorem linkControlHeard_kept {s : State} (b : List Byte) (id : BitVec 24 × DWord) (x : State) (h : Kept s x) :
    Kept s (linkControlHeard b id x) := by
  unfold linkControlHeard
  try dsimp only
  with_reducible repeat' first
    | assumption | rfl | apply updateRdv_kept | apply writeThrough_kept | apply updateLink_kept | split
    | refine Kept.setPortSame ?_ rfl | fail_if_no_progress refine Kept.upd ?_ rfl rfl rfl rfl | apply Kept.foldl
    | apply Kept.foldl_fst | apply Kept.foldl_snd | apply Kept.ite | intro _


theorem heardChild_kept {s : State} (f : PipeFrame) (e0 : LinkEntry) (x : State) (h : Kept s x) :
    Kept s (heardChild f e0 x) := by
  unfold heardChild
  try dsimp only
  with_reducible repeat' first | assumption | apply contact_kept | split


theorem afterDelivery_kept {s : State} (f : PipeFrame) (m : MacFrame) (e0 : LinkEntry) (payload : List Byte) (x : State) (h : Kept s x) :
    Kept s (afterDelivery f m e0 payload x) := by
  unfold afterDelivery
  try dsimp only
  with_reducible repeat' first
    | assumption | apply adaptMaps_kept | apply heardChild_kept | apply beaconHeard_kept | apply mapUpdateHeard_kept
    | apply linkControlHeard_kept | apply remoteAttest_kept | split


theorem acceptFrame_kept {s : State} (f : PipeFrame) (m : MacFrame) (e0 : LinkEntry) (yellow : Bool) (payload : List Byte) (x : State) (h : Kept s x) :
    Kept s (acceptFrame f m e0 yellow payload x) := by
  unfold acceptFrame
  try dsimp only
  with_reducible repeat' first
    | assumption | rfl | apply ackMarginOf_kept | apply updateLink_kept | apply storeFrame_kept | apply bumpPipe_kept
    | apply decideAck_kept | apply afterDelivery_kept | split | refine Kept.setPortSame ?_ rfl
    | fail_if_no_progress refine Kept.upd ?_ rfl rfl rfl rfl | apply Kept.foldl | apply Kept.foldl_fst
    | apply Kept.foldl_snd | apply Kept.ite | intro _


theorem meterFrame_kept {s : State} (f : PipeFrame) (m : MacFrame) (e0 : LinkEntry) (payload : List Byte) (x : State) (h : Kept s x) :
    Kept s (meterFrame f m e0 payload x) := by
  unfold meterFrame
  try dsimp only
  with_reducible repeat' first
    | assumption | rfl | apply updateLink_kept | apply bumpPipe_kept | apply acceptFrame_kept | split
    | refine Kept.setPortSame ?_ rfl | fail_if_no_progress refine Kept.upd ?_ rfl rfl rfl rfl | apply Kept.foldl
    | apply Kept.foldl_fst | apply Kept.foldl_snd | apply Kept.ite | intro _


theorem classify_kept {s : State} (f : PipeFrame) (m : MacFrame) (e0 : LinkEntry) (payload : List Byte) (x : State) (h : Kept s x) :
    Kept s (classify f m e0 payload x) := by
  unfold classify
  try dsimp only
  with_reducible repeat' first
    | assumption | apply meterFrame_kept | apply heardChild_kept | apply bumpPipe_kept | apply decideAck_kept | split


theorem verifyFrame_kept {s : State} (f : PipeFrame) (m : MacFrame) (e0 : LinkEntry) (x : State) (h : Kept s x) :
    Kept s (verifyFrame f m e0 x) := by
  unfold verifyFrame
  try dsimp only
  with_reducible repeat' first
    | assumption | rfl | apply bumpPipe_kept | apply classify_kept | split | refine Kept.setPortSame ?_ rfl
    | fail_if_no_progress refine Kept.upd ?_ rfl rfl rfl rfl | apply Kept.foldl | apply Kept.foldl_fst
    | apply Kept.foldl_snd | apply Kept.ite | intro _


theorem fetchLong_kept {s : State} (u : DWord) (err : Bool) (x : State) (h : Kept s x) :
    Kept s (fetchLong u err x).2 := by
  unfold fetchLong
  try dsimp only
  with_reducible repeat' first
    | assumption | rfl | apply updateLink_kept | apply drawWord_kept | apply fetchShort_kept | split
    | refine Kept.setPortSame ?_ rfl | fail_if_no_progress refine Kept.upd ?_ rfl rfl rfl rfl | apply Kept.foldl
    | apply Kept.foldl_fst | apply Kept.foldl_snd | apply Kept.ite | intro _


theorem lookupSender_kept {s : State} (f : PipeFrame) (m : MacFrame) (err : Bool) (x : State) (h : Kept s x) :
    Kept s (lookupSender f m err x) := by
  unfold lookupSender
  try dsimp only
  with_reducible repeat' first
    | assumption | rfl | apply fetchLong_kept | apply fetchShort_kept | apply bumpPipe_kept | apply verifyFrame_kept
    | split | refine Kept.setPortSame ?_ rfl | fail_if_no_progress refine Kept.upd ?_ rfl rfl rfl rfl
    | apply Kept.foldl | apply Kept.foldl_fst | apply Kept.foldl_snd | apply Kept.ite | intro _


theorem openFrame_kept {s : State} (f : PipeFrame) (m : MacFrame) (x : State) (h : Kept s x) :
    Kept s (openFrame f m x) := by
  unfold openFrame
  try dsimp only
  with_reducible repeat' first
    | assumption | rfl | apply bumpPipe_kept | apply storeFrame_kept | apply beaconHeard_kept
    | apply joinRequestHeard_kept | apply joinResponseHeard_kept | split | refine Kept.setPortSame ?_ rfl
    | fail_if_no_progress refine Kept.upd ?_ rfl rfl rfl rfl | apply Kept.foldl | apply Kept.foldl_fst
    | apply Kept.foldl_snd | apply Kept.ite | intro _


theorem crcFailed_kept {s : State} (f : PipeFrame) (x : State) (h : Kept s x) :
    Kept s (crcFailed f x) := by
  unfold crcFailed
  try dsimp only
  with_reducible repeat' first | assumption | apply bumpPipe_kept | apply bumpRx_kept | apply storeFrame_kept | split


theorem decideFrame_kept {s : State} (f : PipeFrame) (err : Bool) (x : State) (h : Kept s x) :
    Kept s (decideFrame f err x) := by
  unfold decideFrame
  try dsimp only
  with_reducible repeat' first
    | assumption | apply crcFailed_kept | apply bumpPipe_kept | apply openFrame_kept | apply lookupSender_kept | split


theorem decisionPipeline_kept {s : State} (err : Bool) (x : State) (h : Kept s x) :
    Kept s (decisionPipeline err x) := by
  unfold decisionPipeline
  try dsimp only
  with_reducible repeat' first
    | assumption | rfl | apply endSpeculation_kept | apply decideFrame_kept | split | refine Kept.setPortSame ?_ rfl
    | fail_if_no_progress refine Kept.upd ?_ rfl rfl rfl rfl | apply Kept.foldl | apply Kept.foldl_fst
    | apply Kept.foldl_snd | apply Kept.ite | intro _


theorem execDecisionPipeline_kept {s : State} (xspiError : Bool) (x : State) (t : State) (e : execDecisionPipeline xspiError x = .next t) (h : Kept s x) : Kept s t :=
  next_kept e (decisionPipeline_kept _ _ h)

theorem speculativeTurnaround_kept {s : State} (x : State) (h : Kept s x) :
    Kept s (speculativeTurnaround x) := by
  unfold speculativeTurnaround
  try dsimp only
  with_reducible repeat' first
    | assumption | rfl | apply turnToTx_kept | apply idleToTx_kept | split | refine Kept.setPortSame ?_ rfl
    | fail_if_no_progress refine Kept.upd ?_ rfl rfl rfl rfl | apply Kept.foldl | apply Kept.foldl_fst
    | apply Kept.foldl_snd | apply Kept.ite | intro _


theorem execSpeculativeTurnaround_kept {s : State} (x : State) (t : State) (e : execSpeculativeTurnaround x = .next t) (h : Kept s x) : Kept s t :=
  next_kept e (speculativeTurnaround_kept _ h)

theorem sendAck_kept {s : State} (a : AckDue) (t0 : ℕ) (x : State) (h : Kept s x) :
    Kept s (sendAck a t0 x) := by
  unfold sendAck
  try dsimp only
  with_reducible repeat' first
    | assumption | rfl | apply bumpPipe_kept | split | refine Kept.setPortSame ?_ rfl
    | fail_if_no_progress refine Kept.upd ?_ rfl rfl rfl rfl | apply Kept.foldl | apply Kept.foldl_fst
    | apply Kept.foldl_snd | apply Kept.ite | intro _


theorem ackRow_kept {s : State} (x : State) (h : Kept s x) :
    Kept s (ackRow x) := by
  unfold ackRow
  try dsimp only
  with_reducible repeat' first
    | assumption | rfl | apply startReturn_kept | apply endSpeculation_kept | apply bumpPipe_kept | apply sendAck_kept
    | apply refund_kept | split | refine Kept.setPortSame ?_ rfl
    | fail_if_no_progress refine Kept.upd ?_ rfl rfl rfl rfl | apply Kept.foldl | apply Kept.foldl_fst
    | apply Kept.foldl_snd | apply Kept.ite | intro _


theorem execAck_kept {s : State} (x : State) (t : State) (e : execAck x = .next t) (h : Kept s x) : Kept s t :=
  next_kept e (ackRow_kept _ h)

end Sys2Proof.Machine
end

