-- ==== Sys2Proof/Laws/KeptDirectory.lean ====
section
/-! SUPPORT. Every operation of Machine/Directory.lean keeps what `Kept` says. -/

namespace Sys2Proof.Machine
open Sys2Proof


theorem dirConfigRun_kept {s : State} (c : Cmd) (x : State) (r t) (e : dirConfigRun c x = .ok (r, t)) (h : Kept s x) :
    Kept s t := by
  unfold dirConfigRun at e
  try dsimp only at e
  repeat' split at e
  all_goals first
    | (cases e; done)
    | (injection e with e; have e := congrArg Prod.snd e; dsimp only at e; subst e)
  all_goals
   with_reducible repeat' first
    | assumption | rfl | split | refine Kept.setPortSame ?_ rfl
    | fail_if_no_progress refine Kept.upd ?_ rfl rfl rfl rfl | apply Kept.foldl | apply Kept.foldl_fst
    | apply Kept.foldl_snd | apply Kept.ite | intro _


theorem execDirConfig_kept {s : State} (p : Packet) (x : State) (t : State) (e : execDirConfig p x = .next t) (h : Kept s x) : Kept s t :=
  next_kept e (plazaRun_kept _ _ _ _ _ (fun c y => immediate_kept _ c y dirConfigRun_kept) h)

theorem dirSnapshotRun_kept {s : State} (c : Cmd) (x : State) (h : Kept s x) :
    Kept s (dirSnapshotRun c x) := by
  unfold dirSnapshotRun
  try dsimp only
  with_reducible repeat' first
    | assumption | rfl | apply finish_kept | split | refine Kept.setPortSame ?_ rfl
    | fail_if_no_progress refine Kept.upd ?_ rfl rfl rfl rfl | apply Kept.foldl | apply Kept.foldl_fst
    | apply Kept.foldl_snd | apply Kept.ite | intro _


theorem execDirSnapshot_kept {s : State} (p : Packet) (x : State) (t : State) (e : execDirSnapshot p x = .next t) (h : Kept s x) : Kept s t :=
  next_kept e (plazaRun_kept _ _ _ _ _ dirSnapshotRun_kept h)

theorem sendEntries_kept {s : State} (c : Cmd) (per fuel done : Nat) (es : List (List Byte)) (x : State) (h : Kept s x) :
    Kept s (sendEntries c per fuel done es x) := by
  induction fuel generalizing done es x with
  | zero => exact finish_kept _ _ _ _ h
  | succ n ih => exact Kept.ite (finish_kept _ _ _ _ h) (ih _ _ _ (segment_kept _ _ _ h))

theorem writeStored_kept {s : State} (c : DirConfig) (a : Nat) (rec : List Byte) (x : State) (h : Kept s x) :
    Kept s (writeStored c a rec x) :=
  h.dirMem fun w => by
    split
    · exact wf_memWriteList _ _ _ _ (wf_memWriteList _ _ _ _ w)
    · exact wf_memWriteList _ _ _ _ w

theorem restoreAll_kept {s : State} (c : DirConfig) (a : Nat) (rs : List (List Byte)) (x : State) (h : Kept s x) :
    Kept s (restoreAll c a rs x).1 := by
  induction rs generalizing a x with
  | nil => exact h
  | cons r rs ih =>
    unfold restoreAll
    split
    · exact ih _ _ (writeStored_kept _ _ _ _ h)
    · exact ih _ _ h

theorem dirSnapshotDone_kept {s : State} (x : State) (h : Kept s x) :
    Kept s (dirSnapshotDone x) := by
  unfold dirSnapshotDone
  try dsimp only
  with_reducible repeat' first
    | assumption | rfl | apply xspiFails_kept | apply flushDirty_kept | apply finish_kept | apply dirFault_kept
    | apply restoreAll_kept | apply sendEntries_kept | split | refine Kept.setPortSame ?_ rfl
    | fail_if_no_progress refine Kept.upd ?_ rfl rfl rfl rfl | apply Kept.foldl | apply Kept.foldl_fst
    | apply Kept.foldl_snd | apply Kept.ite | intro _


theorem execDirSnapshotDone_kept {s : State} (x : State) (t : State) (e : execDirSnapshotDone x = .next t) (h : Kept s x) : Kept s t :=
  next_kept e (dirSnapshotDone_kept _ h)

end Sys2Proof.Machine
end

