-- ==== Sys2Proof/Laws/Pins.lean ====
section
/-! SUPPORT. Marker actions, capture units, and what an operation on pins leaves in the GPIO registers. -/

namespace Sys2Proof
open Sys2Proof.Machine Sys2Proof.Statements

theorem markerAct_eq (sel ok f x) : markerAct sel ok f x = if sel then (if ok then (f x.1, x.2) else (x.1, true)) else x := rfl

theorem place_eq (v : DWord) (c : CaptureUnit) (m : c.moveDue = false) : c.place v = (if c.new = false ∧ c.frozen = false then { c with value := v, new := true }
      else if c.slot = none then { c with slot := some v } else { c with ovr := true, lost := satInc16 c.lost }) := by
  unfold CaptureUnit.place CaptureUnit.settle
  simp only [m, Bool.false_eq_true, if_false, Bool.and_eq_true, Bool.not_eq_true', Option.isNone_iff_eq_none]

theorem captureFrom_peri (f : Word → Bool) (s : State) : (captureFrom f s).peri = s.peri := by
  unfold captureFrom; dsimp only [captureNow, captureAt, ntcIrq]
  (repeat' split) <;> rfl

theorem pinEdge_gpio (k r s) (p : Fin 4) : (pinEdge k r s).peri.gpio[p].out = s.peri.gpio[p].out ∧ (pinEdge k r s).peri.gpio[p].level = s.peri.gpio[p].level := by
  have a : ∀ (g' : GpioPort), g'.out = s.peri.gpio[portOf k].out → g'.level = s.peri.gpio[portOf k].level →
      ((s.peri.gpio.set (portOf k) g')[p]).out = s.peri.gpio[p].out ∧ ((s.peri.gpio.set (portOf k) g')[p]).level = s.peri.gpio[p].level := by
    intro g' h1 h2
    by_cases h : (portOf k).val = p.val
    · have : portOf k = p := Fin.ext h
      subst this; simp [h1, h2]
    · rw [Fin.getElem_fin, Fin.getElem_fin, Vector.getElem_set_ne _ _ h]; simp
  have b : ∀ (c : Prop) [Decidable c] (x : BitVec 16), (if c then { s.peri.gpio[portOf k] with istat := x } else s.peri.gpio[portOf k]).out = s.peri.gpio[portOf k].out ∧
     (if c then { s.peri.gpio[portOf k] with istat := x } else s.peri.gpio[portOf k]).level = s.peri.gpio[portOf k].level := by
    intro c _ x; split <;> exact ⟨rfl, rfl⟩
  unfold pinEdge
  extract_lets +lift g m g1 w s1 s2
  have h2 : s2.peri = s1.peri := captureFrom_peri _ _
  have h1 : s2.peri.gpio[p].out = s.peri.gpio[p].out ∧ s2.peri.gpio[p].level = s.peri.gpio[p].level := by
    rw [h2]; exact a g1 (b _ _).1 (b _ _).2
  generalize s2 = v at h1 ⊢
  split
  · exact h1
  · exact h1

theorem edges_gpio (f g : Fin 64 → State → Bool) (u : State) (p : Fin 4) : ∀ (l : List (Fin 64)) (a b v : State),
    (l.foldl (fun acc k => if gpioIn a k ≠ gpioIn b k then pinEdge k (gpioIn b k) acc else acc) v).peri.gpio[p].out = v.peri.gpio[p].out ∧
    (l.foldl (fun acc k => if gpioIn a k ≠ gpioIn b k then pinEdge k (gpioIn b k) acc else acc) v).peri.gpio[p].level = v.peri.gpio[p].level
  | [], _, _, _ => ⟨rfl, rfl⟩
  | k :: l, a, b, v => by
    simp only [List.foldl_cons]
    have := edges_gpio f g u p l a b (if gpioIn a k ≠ gpioIn b k then pinEdge k (gpioIn b k) v else v)
    refine ⟨this.1.trans ?_, this.2.trans ?_⟩
    · split; exact (pinEdge_gpio _ _ _ p).1; rfl
    · split; exact (pinEdge_gpio _ _ _ p).2; rfl

theorem withEdges_gpio (f : State → State) (s : State) (p : Fin 4) : (withEdges f s).peri.gpio[p].out = (f s).peri.gpio[p].out ∧ (withEdges f s).peri.gpio[p].level = (f s).peri.gpio[p].level := by
  unfold withEdges; dsimp only; split
  · exact edges_gpio (fun _ _ => true) (fun _ _ => true) s p _ _ _ _
  · exact ⟨rfl, rfl⟩

end Sys2Proof
end

