-- ==== Sys2Proof/Laws/KerbRuns.lean ====
section
/-! SUPPORT. What the Kerb does with the step at hand. -/

namespace Sys2Proof
open Sys2Proof.Machine Sys2Proof.Statements

theorem kerbRow_runs {op f w s} (h : AtStep op w s) : kerbRow op f s = f w s := by
  obtain ⟨a, b, c, _, rfl, e⟩ := h
  unfold kerbRow
  rw [if_pos]; rfl
  have : kOp (kerbWord s.kerb) = op := by
    rw [← e]; unfold kOp kerbWord fld
    rw [Nat.shiftRight_eq_div_pow]; apply Nat.mod_eq_of_lt
    exact Nat.div_lt_of_lt_mul (lt_of_lt_of_le (BitVec.isLt _) (by norm_num))
  simp [a, b, c, this]

theorem kerbPassEnd_eq (o s) (h : s.kerb.stopWait = []) : kerbPassEnd o s = passEnds o s := by
  unfold kerbPassEnd; dsimp only; rw [h]; simp only [List.isEmpty_nil, if_true]; unfold passEnds; simp only [h]

theorem kerbNext_eq (n s) (h : s.kerb.stopWait = []) : kerbNext n s = stepDone n s := by
  unfold kerbNext stepDone; dsimp only
  by_cases h' : s.kerb.executed < 255
  · rw [if_neg (by omega), if_pos h']
  · rw [if_pos (by omega), if_neg h']; exact kerbPassEnd_eq _ _ h

theorem kerbSet_eq (w v s) (h : s.kerb.stopWait = []) : kerbSet w v s = setVar w v s := by
  unfold kerbSet; exact kerbNext_eq _ _ h

theorem withEdges_congr {f g : State → State} {s : State} (h : f s = g s) : withEdges f s = withEdges g s := by
  simp only [withEdges, h]

theorem pinEdge_kerb (k r s) : (pinEdge k r s).kerb = s.kerb := by
  have a : ∀ f s, (captureFrom f s).kerb = s.kerb := by
    intro f s; unfold captureFrom; dsimp only [captureNow, captureAt, ntcIrq]
    (repeat' split) <;> rfl
  unfold pinEdge
  extract_lets +lift g m g1 w s1 s2
  have h2 : s2.kerb = s.kerb := a _ _
  generalize s2 = v at h2 ⊢
  split
  · exact h2
  · exact h2

theorem edges_kerb (f g : Fin 64 → Bool) : ∀ (l : List (Fin 64)) (v : State),
    (l.foldl (fun acc k => if f k ≠ g k then pinEdge k (g k) acc else acc) v).kerb = v.kerb
  | [], _ => rfl
  | k :: l, v => by
    simp only [List.foldl_cons]
    refine (edges_kerb f g l _).trans ?_
    split; exact pinEdge_kerb _ _ _; rfl

theorem withEdges_kerb (f : State → State) (s : State) : (withEdges f s).kerb = (f s).kerb := by
  unfold withEdges; dsimp only; split
  · exact edges_kerb _ _ _ _
  · rfl

theorem sat16_eq (x : Int) : sat16 x = saturated x := by
  unfold sat16 saturated clampI; congr 1; split
  · omega
  · split <;> omega

theorem captureFrom_kerb (f s) : (captureFrom f s).kerb = s.kerb := by
  unfold captureFrom; dsimp only [captureNow, captureAt, ntcIrq]
  (repeat' split) <;> rfl

theorem holdWake_kerb (c d s) : (holdWake c d s).kerb = s.kerb := by unfold holdWake; split <;> rfl

theorem heldWake_kerb (b : Bool) (n d s) : (if b then holdWake n d s else s).kerb = s.kerb := by
  cases b; rfl; exact holdWake_kerb n d s

theorem OnlyPlaza.kerb {a b : State} (h : OnlyPlaza a b) : b.kerb = a.kerb := by rw [h]

theorem kerbRecord_keeps (r s) : (kerbRecord r s).kerb.counts = s.kerb.counts ∧ (kerbRecord r s).kerb.decided = s.kerb.decided ∧
    (kerbRecord r s).kerb.vars = s.kerb.vars ∧ (kerbRecord r s).kerb.executed = s.kerb.executed ∧
    (kerbRecord r s).kerb.stopWait = s.kerb.stopWait ∧ (kerbRecord r s).kerb.inPass = s.kerb.inPass := by
  unfold kerbRecord; dsimp only; (repeat' split) <;> exact ⟨rfl, rfl, rfl, rfl, rfl, rfl⟩

theorem stepDone_keeps (n s) : (stepDone n s).kerb.counts = s.kerb.counts ∧ (stepDone n s).kerb.decided = s.kerb.decided ∧
    (stepDone n s).kerb.vars = s.kerb.vars ∧ (stepDone n s).kerb.executed = s.kerb.executed + 1 ∧
    (s.kerb.executed < 255 → (stepDone n s).kerb.inPass = s.kerb.inPass ∧ (stepDone n s).kerb.step = n % 64) := by
  unfold stepDone passEnds; split <;> simp_all

end Sys2Proof
end

