-- ==== Sys2Proof/Laws/Lanes.lean ====
section
/-! SUPPORT. Lanes as queues: what a read of a whole packet takes, what a settled Lane holds. -/

namespace Sys2Proof
open Sys2Proof.Machine Sys2Proof.Statements

theorem onWire_live (w : Wire) (s : State) (b : Bool) : portLive b (onWire w s) = portLive b s := by
  unfold onWire
  split
  · rfl
  · split <;> rfl

theorem readMany_packet (n : Nat) : ∀ (ps rest tk : List Word) (l : Lane), l.cursor = ps.length + 1 → ps.length + 1 = n → ∀ w, l.crcDue = none → l.taken = tk → l.stages = w :: ps ++ rest →
    readMany (n + 1) l = ((w :: ps) ++ [crcOfWords (tk ++ w :: ps)], { l with stages := rest, complete := l.complete - 1, cursor := 0, taken := [], out := l.out + ps.length + 1 }, 1) := by
  induction n with
  | zero => intro ps rest tk l _ h; omega
  | succ n ih =>
    rintro ps rest tk l hc hn w hd ht hs
    cases ps with
    | nil =>
      obtain rfl : n = 0 := by simpa using hn
      simp [readMany, readOne, hd, takeLane, hs, hc, ht, b2n]
    | cons v ps =>
      rw [readMany, readOne, hd]
      simp only [takeLane, hs, hc, ht, List.cons_append, List.length_cons, Nat.add_one_ne_zero, if_false, Nat.add_sub_cancel, decide_false, Bool.false_eq_true]
      rw [ih ps rest (tk ++ [w]) _ (by simp) (by simpa using hn) v (by exact hd) rfl rfl]
      simp [b2n, hd]; omega

theorem settleHold_lanes (s : State) (p : PortId) : ((settleHold s).port p).lanes = (s.port p).lanes := by
  unfold settleHold
  split
  · dsimp only
    split
    · cases p <;> simp [State.port, State.setPort, portIdx]
    · rfl
  · rfl

theorem beginPorts_lanes (s : State) (p : PortId) : ((beginPorts s).port p).lanes = (s.port p).lanes := by
  rw [beginPorts, settleHold_lanes]; cases p <;> simp [beginPort, State.port, State.setPort, portIdx]

theorem stampReset_lanes (q : PortId) (l : Lane) (s : State) (p : PortId) :
    ((stampReset q l s).port p).lanes = (s.port p).lanes := by
  unfold stampReset
  split
  · split <;> (cases p <;> rfl)
  · rfl

theorem fillLane_fifo : ∀ ws (l : Lane), l.stages.length ≤ 64 → let m := (fillLane ws l).1
    m.stages ++ m.waiting.map (·.1) = l.stages ++ ws.map (·.1) ∧ m.stages.length = min 64 (l.stages.length + ws.length)
  | [], l, h => by simp [fillLane, h]
  | (w, t) :: ws, l, h => by
    unfold fillLane; dsimp only
    split
    · rename_i h'
      have := fillLane_fifo ws { l with stages := l.stages ++ [w], prod := if l.prod = 0 then countOf w else l.prod - 1, complete := if (if l.prod = 0 then countOf w else l.prod - 1) = 0 then l.complete + 1 else l.complete } (by simp; omega)
      simp only [List.length_append, List.length_cons, List.length_nil] at this
      refine ⟨this.1.trans (by simp), this.2.trans ?_⟩
      simp; omega
    · simp; omega

end Sys2Proof
end

