-- ==== Sys2Proof/Laws/PhyRuns.lean ====
section
/-! SUPPORT. The bits of the Gray code. -/

namespace Sys2Proof
open Sys2Proof.Machine Sys2Proof.Statements

theorem gray_testBit (a i : Nat) : (gray a).testBit i = (a.testBit i ^^ a.testBit (i + 1)) := by
  unfold gray; rw [Nat.testBit_xor, Nat.testBit_div_two]

end Sys2Proof
end

