-- ==== Sys2Proof/Laws/RadioRuns.lean ====
section
/-! SUPPORT. What becomes of a prepared frame once its settling has ended. -/

namespace Sys2Proof
open Sys2Proof.Machine Sys2Proof.Statements

/-- What becomes of a prepared frame once its settling has ended. -/
theorem readyFrame_prepared {n : Nat} {fr : TxFrame} {s : State} (units : Nat) (h : frameById n s = some fr) (p : fr.stage = .prepared) :
    readyFrame n units s =
      if lateAtSettle fr (max fr.startAt.toNat (s.time.nt.toNat + unitsU units)) = true then startReturn (endFrame n .late s)
      else runSeq s.radio.fem.txOn (updateFrame n (fun x =>
        { x with startAt := BitVec.ofNat 64 (max fr.startAt.toNat (s.time.nt.toNat + unitsU units)) }) s) := by
  simp only [readyFrame, h, p]; rw [if_neg (by simp)]

end Sys2Proof
end

