-- ==== Sys2Proof/Laws/Resets.lean ====
section
/-! SUPPORT. What the abandonment of flash work at a reset changes, and the ledger of the frames that a reset flushes. -/

namespace Sys2Proof
open Sys2Proof.Machine Sys2Proof.Statements

/-- Only flash cells, flag cells and the free-value counter differ. -/
def OnlyCells (s t : State) : Prop := ∃ c f r, t = { s with flash := { s.flash with cells := c, flags := f }, free := r }

theorem OnlyCells.refl (s) : OnlyCells s s := ⟨_, _, _, rfl⟩

theorem OnlyCells.trans {s t u} (a : OnlyCells s t) (b : OnlyCells t u) : OnlyCells s u := by obtain ⟨_, _, _, rfl⟩ := a; obtain ⟨_, _, _, rfl⟩ := b; exact ⟨_, _, _, rfl⟩

theorem eraseSectors_onlyCells : ∀ k a b n s, OnlyCells s (eraseSectors k a b n s).2
  | 0, _, _, _, s => OnlyCells.refl s
  | k + 1, a, b, n, s => by
    unfold eraseSectors
    rcases b with _ | _ | j
    · exact OnlyCells.trans ⟨_, _, _, rfl⟩ (eraseSectors_onlyCells k _ _ _ _)
    · exact ⟨_, _, _, rfl⟩
    · exact OnlyCells.trans ⟨_, _, _, rfl⟩ (eraseSectors_onlyCells k _ _ _ _)

theorem drawWords_onlyCells : ∀ n s, OnlyCells s (drawWords n s).2
  | 0, s => OnlyCells.refl s
  | n + 1, s => by unfold drawWords; exact OnlyCells.trans (t := (drawWord s).2) ⟨_, _, _, rfl⟩ (drawWords_onlyCells n _)

theorem programUnits_onlyCells : ∀ us b n s, OnlyCells s (programUnits us b n s).2
  | [], _, _, s => OnlyCells.refl s
  | (f, bs) :: us, b, n, s => by
    unfold programUnits
    split
    · exact OnlyCells.refl s
    · rcases b with _ | _ | j
      · exact OnlyCells.trans ⟨_, _, _, rfl⟩ (programUnits_onlyCells us _ _ _)
      · exact OnlyCells.trans (drawWords_onlyCells 4 s) ⟨_, _, _, rfl⟩
      · exact OnlyCells.trans ⟨_, _, _, rfl⟩ (programUnits_onlyCells us _ _ _)

theorem abandonOp_onlyCells (o s) : OnlyCells s (abandonOp o s) := by
  unfold abandonOp; dsimp only
  split
  · exact OnlyCells.trans (t := (drawWord s).2) ⟨_, _, _, rfl⟩ (eraseSectors_onlyCells _ _ _ _ _)
  · exact OnlyCells.trans (t := (drawWord s).2) ⟨_, _, _, rfl⟩ (programUnits_onlyCells _ _ _ _)

theorem abandonFlash_onlyCells (s) : ∃ c f r, abandonFlash s = { s with flash := { cells := c, flags := f, corrected := s.flash.corrected, uncorrectable := s.flash.uncorrectable, prot := s.flash.prot, otp := s.flash.otp, certificate := s.flash.certificate, bootCount := s.flash.bootCount, hostApp := s.flash.hostApp }, free := r } := by
  have h : ∃ x, OnlyCells s x ∧ abandonFlash s = { x with flash := { cells := x.flash.cells, flags := x.flash.flags, corrected := x.flash.corrected, uncorrectable := x.flash.uncorrectable, prot := x.flash.prot, otp := x.flash.otp, certificate := x.flash.certificate, bootCount := x.flash.bootCount, hostApp := x.flash.hostApp } } := by
    refine ⟨_, ?_, rfl⟩
    have A : ∀ (o : Option FlashOp) s, OnlyCells s (match o with | some o => abandonOp o s | none => s) := by
      intro o s; cases o; exact OnlyCells.refl s; exact abandonOp_onlyCells _ _
    refine OnlyCells.trans (A s.flash.inner s) (OnlyCells.trans (A s.flash.op _) ?_)
    cases s.upd.session with
    | none => exact OnlyCells.refl _
    | some u =>
      dsimp only
      by_cases h : u.erasing.isSome = true
      · rw [if_pos h]; exact abandonOp_onlyCells _ _
      · rw [if_neg h]; exact OnlyCells.refl _
  obtain ⟨x, ⟨c, f, r, rfl⟩, h⟩ := h
  exact ⟨c, f, r, h⟩

theorem flushFrames_ledger : ∀ (fs : List TxFrame) (s t : State), s.ledger = t.ledger →
    (fs.foldl (fun s f => inLedger f.kind (LedgerScope.close f.inFlight (outcomeCode .flushed)) s) s).ledger =
    (fs.foldl (fun s f => inLedger f.kind (LedgerScope.close f.inFlight (outcomeCode .flushed)) s) t).ledger
  | [], s, t, h => h
  | f :: fs, s, t, h => flushFrames_ledger fs _ _ (by dsimp only [inLedger]; split <;> simp [h])

end Sys2Proof
end

