-- ==== Sys2Proof/Laws/State.lean ====
section
/-! SUPPORT. The small lemmas of State: what each shared update of one record reads back as, and that it leaves every other record
of the state as it is. -/

namespace Sys2Proof.Machine
open Sys2Proof

/-! ### What an update writes -/

theorem setPort_port_other (s : State) {p r : PortId} (q : Port) (h : r ≠ p) : (s.setPort p q).port r = s.port r := by
  cases p <;> cases r <;> first | exact absurd rfl h | simp [State.setPort, State.port, portIdx]
@[simp] theorem updateLink_links (i f) (s : State) :
    (updateLink i f s).link.links = s.link.links.map fun e => if e.id = i then f e else e := rfl
@[simp] theorem updateFrame_frames (i f) (s : State) :
    (updateFrame i f s).link.frames = s.link.frames.map fun e => if e.fid = i then f e else e := rfl
@[simp] theorem updateRdv_rdvs (a f) (s : State) :
    (updateRdv a f s).rdv.rdvs = s.rdv.rdvs.map fun r => if r.short = a then f r else r := rfl
@[simp] theorem ctxOf_setCtx (i x) (s : State) : ctxOf i (setCtx i x s) = x := by
  cases i with
  | alley => rfl
  | blvd n => exact Vector.getElem_set_self n.isLt
@[simp] theorem setCh_self (c f) (s : State) : (setCh c f s).peri.dma[c] = f s.peri.dma[c] := Vector.getElem_set_self c.isLt
@[simp] theorem setSpic_self (i f) (s : State) : (setSpic i f s).peri.spic[i] = f s.peri.spic[i] := Vector.getElem_set_self i.isLt
@[simp] theorem setUart_self (u f) (s : State) : (setUart u f s).peri.uart[u] = f s.peri.uart[u] := Vector.getElem_set_self u.isLt
@[simp] theorem busOut_busRead (w) (s : State) : (busOut w s).core.busRead = w := rfl
@[simp] theorem drawWord_value (s : State) : (drawWord s).1 = Config.freeWord s.free := rfl
@[simp] theorem drawBool_value (s : State) : (drawBool s).1 = Config.freeBool s.free := rfl
@[simp] theorem drawWord_free (s : State) : (drawWord s).2.free = s.free + 1 := rfl
@[simp] theorem drawBool_free (s : State) : (drawBool s).2.free = s.free + 1 := rfl

/-! ### What it leaves -/

@[simp] theorem setPort_pending (s : State) (p : PortId) (q : Port) : (s.setPort p q).pending = s.pending := rfl
@[simp] theorem setPort_time (s : State) (p : PortId) (q : Port) : (s.setPort p q).time = s.time := rfl
@[simp] theorem setPort_cmps (s : State) (p : PortId) (q : Port) : (s.setPort p q).cmps = s.cmps := rfl
@[simp] theorem setPort_elapsed (s : State) (p : PortId) (q : Port) : (s.setPort p q).elapsed = s.elapsed := rfl
@[simp] theorem setPort_radio (s : State) (p : PortId) (q : Port) : (s.setPort p q).radio = s.radio := rfl
@[simp] theorem setPort_phy (s : State) (p : PortId) (q : Port) : (s.setPort p q).phy = s.phy := rfl
@[simp] theorem setPort_rx (s : State) (p : PortId) (q : Port) : (s.setPort p q).rx = s.rx := rfl
@[simp] theorem setPort_link (s : State) (p : PortId) (q : Port) : (s.setPort p q).link = s.link := rfl
@[simp] theorem setPort_rdv (s : State) (p : PortId) (q : Port) : (s.setPort p q).rdv = s.rdv := rfl
@[simp] theorem setPort_dir (s : State) (p : PortId) (q : Port) : (s.setPort p q).dir = s.dir := rfl
@[simp] theorem setPort_traffic (s : State) (p : PortId) (q : Port) : (s.setPort p q).traffic = s.traffic := rfl
@[simp] theorem setPort_ledger (s : State) (p : PortId) (q : Port) : (s.setPort p q).ledger = s.ledger := rfl
@[simp] theorem setPort_sec (s : State) (p : PortId) (q : Port) : (s.setPort p q).sec = s.sec := rfl
@[simp] theorem setPort_core (s : State) (p : PortId) (q : Port) : (s.setPort p q).core = s.core := rfl
@[simp] theorem setPort_peri (s : State) (p : PortId) (q : Port) : (s.setPort p q).peri = s.peri := rfl
@[simp] theorem setPort_pads (s : State) (p : PortId) (q : Port) : (s.setPort p q).pads = s.pads := rfl
@[simp] theorem setPort_flash (s : State) (p : PortId) (q : Port) : (s.setPort p q).flash = s.flash := rfl
@[simp] theorem setPort_power (s : State) (p : PortId) (q : Port) : (s.setPort p q).power = s.power := rfl
@[simp] theorem setPort_kerb (s : State) (p : PortId) (q : Port) : (s.setPort p q).kerb = s.kerb := rfl
@[simp] theorem setPort_upd (s : State) (p : PortId) (q : Port) : (s.setPort p q).upd = s.upd := rfl
@[simp] theorem setPort_bg (s : State) (p : PortId) (q : Port) : (s.setPort p q).bg = s.bg := rfl
@[simp] theorem setPort_sram (s : State) (p : PortId) (q : Port) : (s.setPort p q).sram = s.sram := rfl
@[simp] theorem setPort_free (s : State) (p : PortId) (q : Port) : (s.setPort p q).free = s.free := rfl

@[simp] theorem updateLink_pending (i f) (s : State) : (updateLink i f s).pending = s.pending := rfl
@[simp] theorem updateLink_time (i f) (s : State) : (updateLink i f s).time = s.time := rfl
@[simp] theorem updateLink_cmps (i f) (s : State) : (updateLink i f s).cmps = s.cmps := rfl
@[simp] theorem updateLink_elapsed (i f) (s : State) : (updateLink i f s).elapsed = s.elapsed := rfl
@[simp] theorem updateLink_plaza (i f) (s : State) : (updateLink i f s).plaza = s.plaza := rfl
@[simp] theorem updateLink_radio (i f) (s : State) : (updateLink i f s).radio = s.radio := rfl
@[simp] theorem updateLink_phy (i f) (s : State) : (updateLink i f s).phy = s.phy := rfl
@[simp] theorem updateLink_rx (i f) (s : State) : (updateLink i f s).rx = s.rx := rfl
@[simp] theorem updateLink_rdv (i f) (s : State) : (updateLink i f s).rdv = s.rdv := rfl
@[simp] theorem updateLink_dir (i f) (s : State) : (updateLink i f s).dir = s.dir := rfl
@[simp] theorem updateLink_traffic (i f) (s : State) : (updateLink i f s).traffic = s.traffic := rfl
@[simp] theorem updateLink_ledger (i f) (s : State) : (updateLink i f s).ledger = s.ledger := rfl
@[simp] theorem updateLink_sec (i f) (s : State) : (updateLink i f s).sec = s.sec := rfl
@[simp] theorem updateLink_core (i f) (s : State) : (updateLink i f s).core = s.core := rfl
@[simp] theorem updateLink_peri (i f) (s : State) : (updateLink i f s).peri = s.peri := rfl
@[simp] theorem updateLink_pads (i f) (s : State) : (updateLink i f s).pads = s.pads := rfl
@[simp] theorem updateLink_flash (i f) (s : State) : (updateLink i f s).flash = s.flash := rfl
@[simp] theorem updateLink_power (i f) (s : State) : (updateLink i f s).power = s.power := rfl
@[simp] theorem updateLink_kerb (i f) (s : State) : (updateLink i f s).kerb = s.kerb := rfl
@[simp] theorem updateLink_upd (i f) (s : State) : (updateLink i f s).upd = s.upd := rfl
@[simp] theorem updateLink_bg (i f) (s : State) : (updateLink i f s).bg = s.bg := rfl
@[simp] theorem updateLink_sram (i f) (s : State) : (updateLink i f s).sram = s.sram := rfl
@[simp] theorem updateLink_free (i f) (s : State) : (updateLink i f s).free = s.free := rfl

@[simp] theorem updateFrame_pending (i f) (s : State) : (updateFrame i f s).pending = s.pending := rfl
@[simp] theorem updateFrame_time (i f) (s : State) : (updateFrame i f s).time = s.time := rfl
@[simp] theorem updateFrame_cmps (i f) (s : State) : (updateFrame i f s).cmps = s.cmps := rfl
@[simp] theorem updateFrame_elapsed (i f) (s : State) : (updateFrame i f s).elapsed = s.elapsed := rfl
@[simp] theorem updateFrame_plaza (i f) (s : State) : (updateFrame i f s).plaza = s.plaza := rfl
@[simp] theorem updateFrame_radio (i f) (s : State) : (updateFrame i f s).radio = s.radio := rfl
@[simp] theorem updateFrame_phy (i f) (s : State) : (updateFrame i f s).phy = s.phy := rfl
@[simp] theorem updateFrame_rx (i f) (s : State) : (updateFrame i f s).rx = s.rx := rfl
@[simp] theorem updateFrame_rdv (i f) (s : State) : (updateFrame i f s).rdv = s.rdv := rfl
@[simp] theorem updateFrame_dir (i f) (s : State) : (updateFrame i f s).dir = s.dir := rfl
@[simp] theorem updateFrame_traffic (i f) (s : State) : (updateFrame i f s).traffic = s.traffic := rfl
@[simp] theorem updateFrame_ledger (i f) (s : State) : (updateFrame i f s).ledger = s.ledger := rfl
@[simp] theorem updateFrame_sec (i f) (s : State) : (updateFrame i f s).sec = s.sec := rfl
@[simp] theorem updateFrame_core (i f) (s : State) : (updateFrame i f s).core = s.core := rfl
@[simp] theorem updateFrame_peri (i f) (s : State) : (updateFrame i f s).peri = s.peri := rfl
@[simp] theorem updateFrame_pads (i f) (s : State) : (updateFrame i f s).pads = s.pads := rfl
@[simp] theorem updateFrame_flash (i f) (s : State) : (updateFrame i f s).flash = s.flash := rfl
@[simp] theorem updateFrame_power (i f) (s : State) : (updateFrame i f s).power = s.power := rfl
@[simp] theorem updateFrame_kerb (i f) (s : State) : (updateFrame i f s).kerb = s.kerb := rfl
@[simp] theorem updateFrame_upd (i f) (s : State) : (updateFrame i f s).upd = s.upd := rfl
@[simp] theorem updateFrame_bg (i f) (s : State) : (updateFrame i f s).bg = s.bg := rfl
@[simp] theorem updateFrame_sram (i f) (s : State) : (updateFrame i f s).sram = s.sram := rfl
@[simp] theorem updateFrame_free (i f) (s : State) : (updateFrame i f s).free = s.free := rfl

@[simp] theorem updateRdv_pending (a f) (s : State) : (updateRdv a f s).pending = s.pending := rfl
@[simp] theorem updateRdv_time (a f) (s : State) : (updateRdv a f s).time = s.time := rfl
@[simp] theorem updateRdv_cmps (a f) (s : State) : (updateRdv a f s).cmps = s.cmps := rfl
@[simp] theorem updateRdv_elapsed (a f) (s : State) : (updateRdv a f s).elapsed = s.elapsed := rfl
@[simp] theorem updateRdv_plaza (a f) (s : State) : (updateRdv a f s).plaza = s.plaza := rfl
@[simp] theorem updateRdv_radio (a f) (s : State) : (updateRdv a f s).radio = s.radio := rfl
@[simp] theorem updateRdv_phy (a f) (s : State) : (updateRdv a f s).phy = s.phy := rfl
@[simp] theorem updateRdv_rx (a f) (s : State) : (updateRdv a f s).rx = s.rx := rfl
@[simp] theorem updateRdv_link (a f) (s : State) : (updateRdv a f s).link = s.link := rfl
@[simp] theorem updateRdv_dir (a f) (s : State) : (updateRdv a f s).dir = s.dir := rfl
@[simp] theorem updateRdv_traffic (a f) (s : State) : (updateRdv a f s).traffic = s.traffic := rfl
@[simp] theorem updateRdv_ledger (a f) (s : State) : (updateRdv a f s).ledger = s.ledger := rfl
@[simp] theorem updateRdv_sec (a f) (s : State) : (updateRdv a f s).sec = s.sec := rfl
@[simp] theorem updateRdv_core (a f) (s : State) : (updateRdv a f s).core = s.core := rfl
@[simp] theorem updateRdv_peri (a f) (s : State) : (updateRdv a f s).peri = s.peri := rfl
@[simp] theorem updateRdv_pads (a f) (s : State) : (updateRdv a f s).pads = s.pads := rfl
@[simp] theorem updateRdv_flash (a f) (s : State) : (updateRdv a f s).flash = s.flash := rfl
@[simp] theorem updateRdv_power (a f) (s : State) : (updateRdv a f s).power = s.power := rfl
@[simp] theorem updateRdv_kerb (a f) (s : State) : (updateRdv a f s).kerb = s.kerb := rfl
@[simp] theorem updateRdv_upd (a f) (s : State) : (updateRdv a f s).upd = s.upd := rfl
@[simp] theorem updateRdv_bg (a f) (s : State) : (updateRdv a f s).bg = s.bg := rfl
@[simp] theorem updateRdv_sram (a f) (s : State) : (updateRdv a f s).sram = s.sram := rfl
@[simp] theorem updateRdv_free (a f) (s : State) : (updateRdv a f s).free = s.free := rfl

@[simp] theorem bumpPipe_pending (r) (s : State) : (bumpPipe r s).pending = s.pending := rfl
@[simp] theorem bumpPipe_time (r) (s : State) : (bumpPipe r s).time = s.time := rfl
@[simp] theorem bumpPipe_cmps (r) (s : State) : (bumpPipe r s).cmps = s.cmps := rfl
@[simp] theorem bumpPipe_elapsed (r) (s : State) : (bumpPipe r s).elapsed = s.elapsed := rfl
@[simp] theorem bumpPipe_plaza (r) (s : State) : (bumpPipe r s).plaza = s.plaza := rfl
@[simp] theorem bumpPipe_radio (r) (s : State) : (bumpPipe r s).radio = s.radio := rfl
@[simp] theorem bumpPipe_phy (r) (s : State) : (bumpPipe r s).phy = s.phy := rfl
@[simp] theorem bumpPipe_link (r) (s : State) : (bumpPipe r s).link = s.link := rfl
@[simp] theorem bumpPipe_rdv (r) (s : State) : (bumpPipe r s).rdv = s.rdv := rfl
@[simp] theorem bumpPipe_dir (r) (s : State) : (bumpPipe r s).dir = s.dir := rfl
@[simp] theorem bumpPipe_traffic (r) (s : State) : (bumpPipe r s).traffic = s.traffic := rfl
@[simp] theorem bumpPipe_ledger (r) (s : State) : (bumpPipe r s).ledger = s.ledger := rfl
@[simp] theorem bumpPipe_sec (r) (s : State) : (bumpPipe r s).sec = s.sec := rfl
@[simp] theorem bumpPipe_core (r) (s : State) : (bumpPipe r s).core = s.core := rfl
@[simp] theorem bumpPipe_peri (r) (s : State) : (bumpPipe r s).peri = s.peri := rfl
@[simp] theorem bumpPipe_pads (r) (s : State) : (bumpPipe r s).pads = s.pads := rfl
@[simp] theorem bumpPipe_flash (r) (s : State) : (bumpPipe r s).flash = s.flash := rfl
@[simp] theorem bumpPipe_power (r) (s : State) : (bumpPipe r s).power = s.power := rfl
@[simp] theorem bumpPipe_kerb (r) (s : State) : (bumpPipe r s).kerb = s.kerb := rfl
@[simp] theorem bumpPipe_upd (r) (s : State) : (bumpPipe r s).upd = s.upd := rfl
@[simp] theorem bumpPipe_bg (r) (s : State) : (bumpPipe r s).bg = s.bg := rfl
@[simp] theorem bumpPipe_sram (r) (s : State) : (bumpPipe r s).sram = s.sram := rfl
@[simp] theorem bumpPipe_free (r) (s : State) : (bumpPipe r s).free = s.free := rfl

@[simp] theorem setCtx_pending (i x) (s : State) : (setCtx i x s).pending = s.pending := by cases i <;> rfl
@[simp] theorem setCtx_time (i x) (s : State) : (setCtx i x s).time = s.time := by cases i <;> rfl
@[simp] theorem setCtx_cmps (i x) (s : State) : (setCtx i x s).cmps = s.cmps := by cases i <;> rfl
@[simp] theorem setCtx_elapsed (i x) (s : State) : (setCtx i x s).elapsed = s.elapsed := by cases i <;> rfl
@[simp] theorem setCtx_plaza (i x) (s : State) : (setCtx i x s).plaza = s.plaza := by cases i <;> rfl
@[simp] theorem setCtx_radio (i x) (s : State) : (setCtx i x s).radio = s.radio := by cases i <;> rfl
@[simp] theorem setCtx_phy (i x) (s : State) : (setCtx i x s).phy = s.phy := by cases i <;> rfl
@[simp] theorem setCtx_link (i x) (s : State) : (setCtx i x s).link = s.link := by cases i <;> rfl
@[simp] theorem setCtx_rdv (i x) (s : State) : (setCtx i x s).rdv = s.rdv := by cases i <;> rfl
@[simp] theorem setCtx_dir (i x) (s : State) : (setCtx i x s).dir = s.dir := by cases i <;> rfl
@[simp] theorem setCtx_traffic (i x) (s : State) : (setCtx i x s).traffic = s.traffic := by cases i <;> rfl
@[simp] theorem setCtx_ledger (i x) (s : State) : (setCtx i x s).ledger = s.ledger := by cases i <;> rfl
@[simp] theorem setCtx_sec (i x) (s : State) : (setCtx i x s).sec = s.sec := by cases i <;> rfl
@[simp] theorem setCtx_core (i x) (s : State) : (setCtx i x s).core = s.core := by cases i <;> rfl
@[simp] theorem setCtx_peri (i x) (s : State) : (setCtx i x s).peri = s.peri := by cases i <;> rfl
@[simp] theorem setCtx_pads (i x) (s : State) : (setCtx i x s).pads = s.pads := by cases i <;> rfl
@[simp] theorem setCtx_flash (i x) (s : State) : (setCtx i x s).flash = s.flash := by cases i <;> rfl
@[simp] theorem setCtx_power (i x) (s : State) : (setCtx i x s).power = s.power := by cases i <;> rfl
@[simp] theorem setCtx_kerb (i x) (s : State) : (setCtx i x s).kerb = s.kerb := by cases i <;> rfl
@[simp] theorem setCtx_upd (i x) (s : State) : (setCtx i x s).upd = s.upd := by cases i <;> rfl
@[simp] theorem setCtx_bg (i x) (s : State) : (setCtx i x s).bg = s.bg := by cases i <;> rfl
@[simp] theorem setCtx_sram (i x) (s : State) : (setCtx i x s).sram = s.sram := by cases i <;> rfl
@[simp] theorem setCtx_free (i x) (s : State) : (setCtx i x s).free = s.free := by cases i <;> rfl

@[simp] theorem setCh_pending (c f) (s : State) : (setCh c f s).pending = s.pending := rfl
@[simp] theorem setCh_time (c f) (s : State) : (setCh c f s).time = s.time := rfl
@[simp] theorem setCh_cmps (c f) (s : State) : (setCh c f s).cmps = s.cmps := rfl
@[simp] theorem setCh_elapsed (c f) (s : State) : (setCh c f s).elapsed = s.elapsed := rfl
@[simp] theorem setCh_plaza (c f) (s : State) : (setCh c f s).plaza = s.plaza := rfl
@[simp] theorem setCh_radio (c f) (s : State) : (setCh c f s).radio = s.radio := rfl
@[simp] theorem setCh_phy (c f) (s : State) : (setCh c f s).phy = s.phy := rfl
@[simp] theorem setCh_rx (c f) (s : State) : (setCh c f s).rx = s.rx := rfl
@[simp] theorem setCh_link (c f) (s : State) : (setCh c f s).link = s.link := rfl
@[simp] theorem setCh_rdv (c f) (s : State) : (setCh c f s).rdv = s.rdv := rfl
@[simp] theorem setCh_dir (c f) (s : State) : (setCh c f s).dir = s.dir := rfl
@[simp] theorem setCh_traffic (c f) (s : State) : (setCh c f s).traffic = s.traffic := rfl
@[simp] theorem setCh_ledger (c f) (s : State) : (setCh c f s).ledger = s.ledger := rfl
@[simp] theorem setCh_sec (c f) (s : State) : (setCh c f s).sec = s.sec := rfl
@[simp] theorem setCh_core (c f) (s : State) : (setCh c f s).core = s.core := rfl
@[simp] theorem setCh_pads (c f) (s : State) : (setCh c f s).pads = s.pads := rfl
@[simp] theorem setCh_flash (c f) (s : State) : (setCh c f s).flash = s.flash := rfl
@[simp] theorem setCh_power (c f) (s : State) : (setCh c f s).power = s.power := rfl
@[simp] theorem setCh_kerb (c f) (s : State) : (setCh c f s).kerb = s.kerb := rfl
@[simp] theorem setCh_upd (c f) (s : State) : (setCh c f s).upd = s.upd := rfl
@[simp] theorem setCh_bg (c f) (s : State) : (setCh c f s).bg = s.bg := rfl
@[simp] theorem setCh_sram (c f) (s : State) : (setCh c f s).sram = s.sram := rfl
@[simp] theorem setCh_free (c f) (s : State) : (setCh c f s).free = s.free := rfl

@[simp] theorem setSpic_pending (i f) (s : State) : (setSpic i f s).pending = s.pending := rfl
@[simp] theorem setSpic_time (i f) (s : State) : (setSpic i f s).time = s.time := rfl
@[simp] theorem setSpic_cmps (i f) (s : State) : (setSpic i f s).cmps = s.cmps := rfl
@[simp] theorem setSpic_elapsed (i f) (s : State) : (setSpic i f s).elapsed = s.elapsed := rfl
@[simp] theorem setSpic_plaza (i f) (s : State) : (setSpic i f s).plaza = s.plaza := rfl
@[simp] theorem setSpic_radio (i f) (s : State) : (setSpic i f s).radio = s.radio := rfl
@[simp] theorem setSpic_phy (i f) (s : State) : (setSpic i f s).phy = s.phy := rfl
@[simp] theorem setSpic_rx (i f) (s : State) : (setSpic i f s).rx = s.rx := rfl
@[simp] theorem setSpic_link (i f) (s : State) : (setSpic i f s).link = s.link := rfl
@[simp] theorem setSpic_rdv (i f) (s : State) : (setSpic i f s).rdv = s.rdv := rfl
@[simp] theorem setSpic_dir (i f) (s : State) : (setSpic i f s).dir = s.dir := rfl
@[simp] theorem setSpic_traffic (i f) (s : State) : (setSpic i f s).traffic = s.traffic := rfl
@[simp] theorem setSpic_ledger (i f) (s : State) : (setSpic i f s).ledger = s.ledger := rfl
@[simp] theorem setSpic_sec (i f) (s : State) : (setSpic i f s).sec = s.sec := rfl
@[simp] theorem setSpic_core (i f) (s : State) : (setSpic i f s).core = s.core := rfl
@[simp] theorem setSpic_pads (i f) (s : State) : (setSpic i f s).pads = s.pads := rfl
@[simp] theorem setSpic_flash (i f) (s : State) : (setSpic i f s).flash = s.flash := rfl
@[simp] theorem setSpic_power (i f) (s : State) : (setSpic i f s).power = s.power := rfl
@[simp] theorem setSpic_kerb (i f) (s : State) : (setSpic i f s).kerb = s.kerb := rfl
@[simp] theorem setSpic_upd (i f) (s : State) : (setSpic i f s).upd = s.upd := rfl
@[simp] theorem setSpic_bg (i f) (s : State) : (setSpic i f s).bg = s.bg := rfl
@[simp] theorem setSpic_sram (i f) (s : State) : (setSpic i f s).sram = s.sram := rfl
@[simp] theorem setSpic_free (i f) (s : State) : (setSpic i f s).free = s.free := rfl

@[simp] theorem setUart_pending (u f) (s : State) : (setUart u f s).pending = s.pending := rfl
@[simp] theorem setUart_time (u f) (s : State) : (setUart u f s).time = s.time := rfl
@[simp] theorem setUart_cmps (u f) (s : State) : (setUart u f s).cmps = s.cmps := rfl
@[simp] theorem setUart_elapsed (u f) (s : State) : (setUart u f s).elapsed = s.elapsed := rfl
@[simp] theorem setUart_plaza (u f) (s : State) : (setUart u f s).plaza = s.plaza := rfl
@[simp] theorem setUart_radio (u f) (s : State) : (setUart u f s).radio = s.radio := rfl
@[simp] theorem setUart_phy (u f) (s : State) : (setUart u f s).phy = s.phy := rfl
@[simp] theorem setUart_rx (u f) (s : State) : (setUart u f s).rx = s.rx := rfl
@[simp] theorem setUart_link (u f) (s : State) : (setUart u f s).link = s.link := rfl
@[simp] theorem setUart_rdv (u f) (s : State) : (setUart u f s).rdv = s.rdv := rfl
@[simp] theorem setUart_dir (u f) (s : State) : (setUart u f s).dir = s.dir := rfl
@[simp] theorem setUart_traffic (u f) (s : State) : (setUart u f s).traffic = s.traffic := rfl
@[simp] theorem setUart_ledger (u f) (s : State) : (setUart u f s).ledger = s.ledger := rfl
@[simp] theorem setUart_sec (u f) (s : State) : (setUart u f s).sec = s.sec := rfl
@[simp] theorem setUart_core (u f) (s : State) : (setUart u f s).core = s.core := rfl
@[simp] theorem setUart_pads (u f) (s : State) : (setUart u f s).pads = s.pads := rfl
@[simp] theorem setUart_flash (u f) (s : State) : (setUart u f s).flash = s.flash := rfl
@[simp] theorem setUart_power (u f) (s : State) : (setUart u f s).power = s.power := rfl
@[simp] theorem setUart_kerb (u f) (s : State) : (setUart u f s).kerb = s.kerb := rfl
@[simp] theorem setUart_upd (u f) (s : State) : (setUart u f s).upd = s.upd := rfl
@[simp] theorem setUart_bg (u f) (s : State) : (setUart u f s).bg = s.bg := rfl
@[simp] theorem setUart_sram (u f) (s : State) : (setUart u f s).sram = s.sram := rfl
@[simp] theorem setUart_free (u f) (s : State) : (setUart u f s).free = s.free := rfl

@[simp] theorem busOut_pending (w) (s : State) : (busOut w s).pending = s.pending := rfl
@[simp] theorem busOut_time (w) (s : State) : (busOut w s).time = s.time := rfl
@[simp] theorem busOut_cmps (w) (s : State) : (busOut w s).cmps = s.cmps := rfl
@[simp] theorem busOut_elapsed (w) (s : State) : (busOut w s).elapsed = s.elapsed := rfl
@[simp] theorem busOut_plaza (w) (s : State) : (busOut w s).plaza = s.plaza := rfl
@[simp] theorem busOut_radio (w) (s : State) : (busOut w s).radio = s.radio := rfl
@[simp] theorem busOut_phy (w) (s : State) : (busOut w s).phy = s.phy := rfl
@[simp] theorem busOut_rx (w) (s : State) : (busOut w s).rx = s.rx := rfl
@[simp] theorem busOut_link (w) (s : State) : (busOut w s).link = s.link := rfl
@[simp] theorem busOut_rdv (w) (s : State) : (busOut w s).rdv = s.rdv := rfl
@[simp] theorem busOut_dir (w) (s : State) : (busOut w s).dir = s.dir := rfl
@[simp] theorem busOut_traffic (w) (s : State) : (busOut w s).traffic = s.traffic := rfl
@[simp] theorem busOut_ledger (w) (s : State) : (busOut w s).ledger = s.ledger := rfl
@[simp] theorem busOut_sec (w) (s : State) : (busOut w s).sec = s.sec := rfl
@[simp] theorem busOut_peri (w) (s : State) : (busOut w s).peri = s.peri := rfl
@[simp] theorem busOut_pads (w) (s : State) : (busOut w s).pads = s.pads := rfl
@[simp] theorem busOut_flash (w) (s : State) : (busOut w s).flash = s.flash := rfl
@[simp] theorem busOut_power (w) (s : State) : (busOut w s).power = s.power := rfl
@[simp] theorem busOut_kerb (w) (s : State) : (busOut w s).kerb = s.kerb := rfl
@[simp] theorem busOut_upd (w) (s : State) : (busOut w s).upd = s.upd := rfl
@[simp] theorem busOut_bg (w) (s : State) : (busOut w s).bg = s.bg := rfl
@[simp] theorem busOut_sram (w) (s : State) : (busOut w s).sram = s.sram := rfl
@[simp] theorem busOut_free (w) (s : State) : (busOut w s).free = s.free := rfl

@[simp] theorem putMsg_pending (n m) (s : State) : (putMsg n m s).pending = s.pending := rfl
@[simp] theorem putMsg_time (n m) (s : State) : (putMsg n m s).time = s.time := rfl
@[simp] theorem putMsg_cmps (n m) (s : State) : (putMsg n m s).cmps = s.cmps := rfl
@[simp] theorem putMsg_elapsed (n m) (s : State) : (putMsg n m s).elapsed = s.elapsed := rfl
@[simp] theorem putMsg_plaza (n m) (s : State) : (putMsg n m s).plaza = s.plaza := rfl
@[simp] theorem putMsg_radio (n m) (s : State) : (putMsg n m s).radio = s.radio := rfl
@[simp] theorem putMsg_phy (n m) (s : State) : (putMsg n m s).phy = s.phy := rfl
@[simp] theorem putMsg_rx (n m) (s : State) : (putMsg n m s).rx = s.rx := rfl
@[simp] theorem putMsg_link (n m) (s : State) : (putMsg n m s).link = s.link := rfl
@[simp] theorem putMsg_rdv (n m) (s : State) : (putMsg n m s).rdv = s.rdv := rfl
@[simp] theorem putMsg_dir (n m) (s : State) : (putMsg n m s).dir = s.dir := rfl
@[simp] theorem putMsg_traffic (n m) (s : State) : (putMsg n m s).traffic = s.traffic := rfl
@[simp] theorem putMsg_ledger (n m) (s : State) : (putMsg n m s).ledger = s.ledger := rfl
@[simp] theorem putMsg_core (n m) (s : State) : (putMsg n m s).core = s.core := rfl
@[simp] theorem putMsg_peri (n m) (s : State) : (putMsg n m s).peri = s.peri := rfl
@[simp] theorem putMsg_pads (n m) (s : State) : (putMsg n m s).pads = s.pads := rfl
@[simp] theorem putMsg_flash (n m) (s : State) : (putMsg n m s).flash = s.flash := rfl
@[simp] theorem putMsg_power (n m) (s : State) : (putMsg n m s).power = s.power := rfl
@[simp] theorem putMsg_kerb (n m) (s : State) : (putMsg n m s).kerb = s.kerb := rfl
@[simp] theorem putMsg_upd (n m) (s : State) : (putMsg n m s).upd = s.upd := rfl
@[simp] theorem putMsg_bg (n m) (s : State) : (putMsg n m s).bg = s.bg := rfl
@[simp] theorem putMsg_sram (n m) (s : State) : (putMsg n m s).sram = s.sram := rfl
@[simp] theorem putMsg_free (n m) (s : State) : (putMsg n m s).free = s.free := rfl

@[simp] theorem putSlot_pending (n k) (s : State) : (putSlot n k s).pending = s.pending := rfl
@[simp] theorem putSlot_time (n k) (s : State) : (putSlot n k s).time = s.time := rfl
@[simp] theorem putSlot_cmps (n k) (s : State) : (putSlot n k s).cmps = s.cmps := rfl
@[simp] theorem putSlot_elapsed (n k) (s : State) : (putSlot n k s).elapsed = s.elapsed := rfl
@[simp] theorem putSlot_plaza (n k) (s : State) : (putSlot n k s).plaza = s.plaza := rfl
@[simp] theorem putSlot_radio (n k) (s : State) : (putSlot n k s).radio = s.radio := rfl
@[simp] theorem putSlot_phy (n k) (s : State) : (putSlot n k s).phy = s.phy := rfl
@[simp] theorem putSlot_rx (n k) (s : State) : (putSlot n k s).rx = s.rx := rfl
@[simp] theorem putSlot_link (n k) (s : State) : (putSlot n k s).link = s.link := rfl
@[simp] theorem putSlot_rdv (n k) (s : State) : (putSlot n k s).rdv = s.rdv := rfl
@[simp] theorem putSlot_dir (n k) (s : State) : (putSlot n k s).dir = s.dir := rfl
@[simp] theorem putSlot_traffic (n k) (s : State) : (putSlot n k s).traffic = s.traffic := rfl
@[simp] theorem putSlot_ledger (n k) (s : State) : (putSlot n k s).ledger = s.ledger := rfl
@[simp] theorem putSlot_core (n k) (s : State) : (putSlot n k s).core = s.core := rfl
@[simp] theorem putSlot_peri (n k) (s : State) : (putSlot n k s).peri = s.peri := rfl
@[simp] theorem putSlot_pads (n k) (s : State) : (putSlot n k s).pads = s.pads := rfl
@[simp] theorem putSlot_flash (n k) (s : State) : (putSlot n k s).flash = s.flash := rfl
@[simp] theorem putSlot_power (n k) (s : State) : (putSlot n k s).power = s.power := rfl
@[simp] theorem putSlot_kerb (n k) (s : State) : (putSlot n k s).kerb = s.kerb := rfl
@[simp] theorem putSlot_upd (n k) (s : State) : (putSlot n k s).upd = s.upd := rfl
@[simp] theorem putSlot_bg (n k) (s : State) : (putSlot n k s).bg = s.bg := rfl
@[simp] theorem putSlot_sram (n k) (s : State) : (putSlot n k s).sram = s.sram := rfl
@[simp] theorem putSlot_free (n k) (s : State) : (putSlot n k s).free = s.free := rfl

@[simp] theorem eraseSlot_pending (n) (s : State) : (eraseSlot n s).pending = s.pending := rfl
@[simp] theorem eraseSlot_time (n) (s : State) : (eraseSlot n s).time = s.time := rfl
@[simp] theorem eraseSlot_cmps (n) (s : State) : (eraseSlot n s).cmps = s.cmps := rfl
@[simp] theorem eraseSlot_elapsed (n) (s : State) : (eraseSlot n s).elapsed = s.elapsed := rfl
@[simp] theorem eraseSlot_plaza (n) (s : State) : (eraseSlot n s).plaza = s.plaza := rfl
@[simp] theorem eraseSlot_radio (n) (s : State) : (eraseSlot n s).radio = s.radio := rfl
@[simp] theorem eraseSlot_phy (n) (s : State) : (eraseSlot n s).phy = s.phy := rfl
@[simp] theorem eraseSlot_rx (n) (s : State) : (eraseSlot n s).rx = s.rx := rfl
@[simp] theorem eraseSlot_link (n) (s : State) : (eraseSlot n s).link = s.link := rfl
@[simp] theorem eraseSlot_rdv (n) (s : State) : (eraseSlot n s).rdv = s.rdv := rfl
@[simp] theorem eraseSlot_dir (n) (s : State) : (eraseSlot n s).dir = s.dir := rfl
@[simp] theorem eraseSlot_traffic (n) (s : State) : (eraseSlot n s).traffic = s.traffic := rfl
@[simp] theorem eraseSlot_ledger (n) (s : State) : (eraseSlot n s).ledger = s.ledger := rfl
@[simp] theorem eraseSlot_core (n) (s : State) : (eraseSlot n s).core = s.core := rfl
@[simp] theorem eraseSlot_peri (n) (s : State) : (eraseSlot n s).peri = s.peri := rfl
@[simp] theorem eraseSlot_pads (n) (s : State) : (eraseSlot n s).pads = s.pads := rfl
@[simp] theorem eraseSlot_flash (n) (s : State) : (eraseSlot n s).flash = s.flash := rfl
@[simp] theorem eraseSlot_power (n) (s : State) : (eraseSlot n s).power = s.power := rfl
@[simp] theorem eraseSlot_kerb (n) (s : State) : (eraseSlot n s).kerb = s.kerb := rfl
@[simp] theorem eraseSlot_upd (n) (s : State) : (eraseSlot n s).upd = s.upd := rfl
@[simp] theorem eraseSlot_bg (n) (s : State) : (eraseSlot n s).bg = s.bg := rfl
@[simp] theorem eraseSlot_sram (n) (s : State) : (eraseSlot n s).sram = s.sram := rfl
@[simp] theorem eraseSlot_free (n) (s : State) : (eraseSlot n s).free = s.free := rfl

@[simp] theorem setUnlocked_pending (p b) (s : State) : (setUnlocked p b s).pending = s.pending := rfl
@[simp] theorem setUnlocked_time (p b) (s : State) : (setUnlocked p b s).time = s.time := rfl
@[simp] theorem setUnlocked_cmps (p b) (s : State) : (setUnlocked p b s).cmps = s.cmps := rfl
@[simp] theorem setUnlocked_elapsed (p b) (s : State) : (setUnlocked p b s).elapsed = s.elapsed := rfl
@[simp] theorem setUnlocked_plaza (p b) (s : State) : (setUnlocked p b s).plaza = s.plaza := rfl
@[simp] theorem setUnlocked_radio (p b) (s : State) : (setUnlocked p b s).radio = s.radio := rfl
@[simp] theorem setUnlocked_phy (p b) (s : State) : (setUnlocked p b s).phy = s.phy := rfl
@[simp] theorem setUnlocked_rx (p b) (s : State) : (setUnlocked p b s).rx = s.rx := rfl
@[simp] theorem setUnlocked_link (p b) (s : State) : (setUnlocked p b s).link = s.link := rfl
@[simp] theorem setUnlocked_rdv (p b) (s : State) : (setUnlocked p b s).rdv = s.rdv := rfl
@[simp] theorem setUnlocked_dir (p b) (s : State) : (setUnlocked p b s).dir = s.dir := rfl
@[simp] theorem setUnlocked_traffic (p b) (s : State) : (setUnlocked p b s).traffic = s.traffic := rfl
@[simp] theorem setUnlocked_ledger (p b) (s : State) : (setUnlocked p b s).ledger = s.ledger := rfl
@[simp] theorem setUnlocked_sec (p b) (s : State) : (setUnlocked p b s).sec = s.sec := rfl
@[simp] theorem setUnlocked_core (p b) (s : State) : (setUnlocked p b s).core = s.core := rfl
@[simp] theorem setUnlocked_peri (p b) (s : State) : (setUnlocked p b s).peri = s.peri := rfl
@[simp] theorem setUnlocked_pads (p b) (s : State) : (setUnlocked p b s).pads = s.pads := rfl
@[simp] theorem setUnlocked_power (p b) (s : State) : (setUnlocked p b s).power = s.power := rfl
@[simp] theorem setUnlocked_kerb (p b) (s : State) : (setUnlocked p b s).kerb = s.kerb := rfl
@[simp] theorem setUnlocked_upd (p b) (s : State) : (setUnlocked p b s).upd = s.upd := rfl
@[simp] theorem setUnlocked_bg (p b) (s : State) : (setUnlocked p b s).bg = s.bg := rfl
@[simp] theorem setUnlocked_sram (p b) (s : State) : (setUnlocked p b s).sram = s.sram := rfl
@[simp] theorem setUnlocked_free (p b) (s : State) : (setUnlocked p b s).free = s.free := rfl

@[simp] theorem drawWord_pending (s : State) : (drawWord s).2.pending = s.pending := rfl
@[simp] theorem drawWord_time (s : State) : (drawWord s).2.time = s.time := rfl
@[simp] theorem drawWord_cmps (s : State) : (drawWord s).2.cmps = s.cmps := rfl
@[simp] theorem drawWord_elapsed (s : State) : (drawWord s).2.elapsed = s.elapsed := rfl
@[simp] theorem drawWord_plaza (s : State) : (drawWord s).2.plaza = s.plaza := rfl
@[simp] theorem drawWord_radio (s : State) : (drawWord s).2.radio = s.radio := rfl
@[simp] theorem drawWord_phy (s : State) : (drawWord s).2.phy = s.phy := rfl
@[simp] theorem drawWord_rx (s : State) : (drawWord s).2.rx = s.rx := rfl
@[simp] theorem drawWord_link (s : State) : (drawWord s).2.link = s.link := rfl
@[simp] theorem drawWord_rdv (s : State) : (drawWord s).2.rdv = s.rdv := rfl
@[simp] theorem drawWord_dir (s : State) : (drawWord s).2.dir = s.dir := rfl
@[simp] theorem drawWord_traffic (s : State) : (drawWord s).2.traffic = s.traffic := rfl
@[simp] theorem drawWord_ledger (s : State) : (drawWord s).2.ledger = s.ledger := rfl
@[simp] theorem drawWord_sec (s : State) : (drawWord s).2.sec = s.sec := rfl
@[simp] theorem drawWord_core (s : State) : (drawWord s).2.core = s.core := rfl
@[simp] theorem drawWord_peri (s : State) : (drawWord s).2.peri = s.peri := rfl
@[simp] theorem drawWord_pads (s : State) : (drawWord s).2.pads = s.pads := rfl
@[simp] theorem drawWord_flash (s : State) : (drawWord s).2.flash = s.flash := rfl
@[simp] theorem drawWord_power (s : State) : (drawWord s).2.power = s.power := rfl
@[simp] theorem drawWord_kerb (s : State) : (drawWord s).2.kerb = s.kerb := rfl
@[simp] theorem drawWord_upd (s : State) : (drawWord s).2.upd = s.upd := rfl
@[simp] theorem drawWord_bg (s : State) : (drawWord s).2.bg = s.bg := rfl
@[simp] theorem drawWord_sram (s : State) : (drawWord s).2.sram = s.sram := rfl

@[simp] theorem drawBool_pending (s : State) : (drawBool s).2.pending = s.pending := rfl
@[simp] theorem drawBool_time (s : State) : (drawBool s).2.time = s.time := rfl
@[simp] theorem drawBool_cmps (s : State) : (drawBool s).2.cmps = s.cmps := rfl
@[simp] theorem drawBool_elapsed (s : State) : (drawBool s).2.elapsed = s.elapsed := rfl
@[simp] theorem drawBool_plaza (s : State) : (drawBool s).2.plaza = s.plaza := rfl
@[simp] theorem drawBool_radio (s : State) : (drawBool s).2.radio = s.radio := rfl
@[simp] theorem drawBool_phy (s : State) : (drawBool s).2.phy = s.phy := rfl
@[simp] theorem drawBool_rx (s : State) : (drawBool s).2.rx = s.rx := rfl
@[simp] theorem drawBool_link (s : State) : (drawBool s).2.link = s.link := rfl
@[simp] theorem drawBool_rdv (s : State) : (drawBool s).2.rdv = s.rdv := rfl
@[simp] theorem drawBool_dir (s : State) : (drawBool s).2.dir = s.dir := rfl
@[simp] theorem drawBool_traffic (s : State) : (drawBool s).2.traffic = s.traffic := rfl
@[simp] theorem drawBool_ledger (s : State) : (drawBool s).2.ledger = s.ledger := rfl
@[simp] theorem drawBool_sec (s : State) : (drawBool s).2.sec = s.sec := rfl
@[simp] theorem drawBool_core (s : State) : (drawBool s).2.core = s.core := rfl
@[simp] theorem drawBool_peri (s : State) : (drawBool s).2.peri = s.peri := rfl
@[simp] theorem drawBool_pads (s : State) : (drawBool s).2.pads = s.pads := rfl
@[simp] theorem drawBool_flash (s : State) : (drawBool s).2.flash = s.flash := rfl
@[simp] theorem drawBool_power (s : State) : (drawBool s).2.power = s.power := rfl
@[simp] theorem drawBool_kerb (s : State) : (drawBool s).2.kerb = s.kerb := rfl
@[simp] theorem drawBool_upd (s : State) : (drawBool s).2.upd = s.upd := rfl
@[simp] theorem drawBool_bg (s : State) : (drawBool s).2.bg = s.bg := rfl
@[simp] theorem drawBool_sram (s : State) : (drawBool s).2.sram = s.sram := rfl

end Sys2Proof.Machine
end

