-- ==== Sys2Proof/Laws/StepKept.lean ====
section
/-! SUPPORT. Whatever command exec runs, the next state keeps what `Kept` says. -/

namespace Sys2Proof.Machine
open Sys2Proof

theorem exec_kept : ∀ i s t, exec i s = .next t → Kept s t := by
  intro i s t e
  cases i
  case ping => exact execPing_kept (e := e) (h := Kept.refl s)
  case devInfo => exact execDevInfo_kept (e := e) (h := Kept.refl s)
  case softReset => exact execSoftReset_kept (e := e) (h := Kept.refl s)
  case ledgerRead => exact execLedgerRead_kept (e := e) (h := Kept.refl s)
  case statsRead => exact execStatsRead_kept (e := e) (h := Kept.refl s)
  case eventMask => exact execEventMask_kept (e := e) (h := Kept.refl s)
  case telemetryRead => exact execTelemetryRead_kept (e := e) (h := Kept.refl s)
  case stopEnter => exact execStopEnter_kept (e := e) (h := Kept.refl s)
  case domainSet => exact execDomainSet_kept (e := e) (h := Kept.refl s)
  case wakeArm => exact execWakeArm_kept (e := e) (h := Kept.refl s)
  case wakeRecordRead => exact execWakeRecordRead_kept (e := e) (h := Kept.refl s)
  case padRelease => exact execPadRelease_kept (e := e) (h := Kept.refl s)
  case oppointSet => exact execOppointSet_kept (e := e) (h := Kept.refl s)
  case bodConfig => exact execBodConfig_kept (e := e) (h := Kept.refl s)
  case retainSet => exact execRetainSet_kept (e := e) (h := Kept.refl s)
  case ntSet => exact execNtSet_kept (e := e) (h := Kept.refl s)
  case ntCapture => exact execNtCapture_kept (e := e) (h := Kept.refl s)
  case ppsConfig => exact execPpsConfig_kept (e := e) (h := Kept.refl s)
  case ppsStatus => exact execPpsStatus_kept (e := e) (h := Kept.refl s)
  case ntSlew => exact execNtSlew_kept (e := e) (h := Kept.refl s)
  case ntJump => exact execNtJump_kept (e := e) (h := Kept.refl s)
  case rfConfig => exact execRfConfig_kept (e := e) (h := Kept.refl s)
  case calRun => exact execCalRun_kept (e := e) (h := Kept.refl s)
  case calRead => exact execCalRead_kept (e := e) (h := Kept.refl s)
  case txshapeSet => exact execTxshapeSet_kept (e := e) (h := Kept.refl s)
  case femSeqSet => exact execFemSeqSet_kept (e := e) (h := Kept.refl s)
  case regionLoad => exact execRegionLoad_kept (e := e) (h := Kept.refl s)
  case phyProfileSet => exact execPhyProfileSet_kept (e := e) (h := Kept.refl s)
  case loadmapSet => exact execLoadmapSet_kept (e := e) (h := Kept.refl s)
  case txSubmit => exact execTxSubmit_kept (e := e) (h := Kept.refl s)
  case txCancel => exact execTxCancel_kept (e := e) (h := Kept.refl s)
  case rxStart => exact execRxStart_kept (e := e) (h := Kept.refl s)
  case rxStop => exact execRxStop_kept (e := e) (h := Kept.refl s)
  case blvdConfig => exact execBlvdConfig_kept (e := e) (h := Kept.refl s)
  case laneDrop => exact execLaneDrop_kept (e := e) (h := Kept.refl s)
  case linkAdd => exact execLinkAdd_kept (e := e) (h := Kept.refl s)
  case linkDel => exact execLinkDel_kept (e := e) (h := Kept.refl s)
  case linkRead => exact execLinkRead_kept (e := e) (h := Kept.refl s)
  case addrAssign => exact execAddrAssign_kept (e := e) (h := Kept.refl s)
  case dirConfig => exact execDirConfig_kept (e := e) (h := Kept.refl s)
  case dirSnapshot => exact execDirSnapshot_kept (e := e) (h := Kept.refl s)
  case rdvSet => exact execRdvSet_kept (e := e) (h := Kept.refl s)
  case rdvClear => exact execRdvClear_kept (e := e) (h := Kept.refl s)
  case beaconConfig => exact execBeaconConfig_kept (e := e) (h := Kept.refl s)
  case queueConfig => exact execQueueConfig_kept (e := e) (h := Kept.refl s)
  case meterSet => exact execMeterSet_kept (e := e) (h := Kept.refl s)
  case gatelistLoad => exact execGatelistLoad_kept (e := e) (h := Kept.refl s)
  case gatelistStatus => exact execGatelistStatus_kept (e := e) (h := Kept.refl s)
  case budgetLoad => exact execBudgetLoad_kept (e := e) (h := Kept.refl s)
  case budgetRead => exact execBudgetRead_kept (e := e) (h := Kept.refl s)
  case keyLoad => exact execKeyLoad_kept (e := e) (h := Kept.refl s)
  case keyDerive => exact execKeyDerive_kept (e := e) (h := Kept.refl s)
  case keyZero => exact execKeyZero_kept (e := e) (h := Kept.refl s)
  case cipherRun => exact execCipherRun_kept (e := e) (h := Kept.refl s)
  case attest => exact execAttest_kept (e := e) (h := Kept.refl s)
  case lifecycleAdvance => exact execLifecycleAdvance_kept (e := e) (h := Kept.refl s)
  case debugUnlock => exact execDebugUnlock_kept (e := e) (h := Kept.refl s)
  case rngRead => exact execRngRead_kept (e := e) (h := Kept.refl s)
  case ecdhRun => exact execEcdhRun_kept (e := e) (h := Kept.refl s)
  case signRun => exact execSignRun_kept (e := e) (h := Kept.refl s)
  case verifyRun => exact execVerifyRun_kept (e := e) (h := Kept.refl s)
  case flashProgram => exact execFlashProgram_kept (e := e) (h := Kept.refl s)
  case flashErase => exact execFlashErase_kept (e := e) (h := Kept.refl s)
  case flashSuspend => exact execFlashSuspend_kept (e := e) (h := Kept.refl s)
  case flashResume => exact execFlashResume_kept (e := e) (h := Kept.refl s)
  case protectSet => exact execProtectSet_kept (e := e) (h := Kept.refl s)
  case protectUnlock => exact execProtectUnlock_kept (e := e) (h := Kept.refl s)
  case otpRead => exact execOtpRead_kept (e := e) (h := Kept.refl s)
  case otpProgram => exact execOtpProgram_kept (e := e) (h := Kept.refl s)
  case flashStatus => exact execFlashStatus_kept (e := e) (h := Kept.refl s)
  case updBegin => exact execUpdBegin_kept (e := e) (h := Kept.refl s)
  case updChunk => exact execUpdChunk_kept (e := e) (h := Kept.refl s)
  case updVerify => exact execUpdVerify_kept (e := e) (h := Kept.refl s)
  case updActivate => exact execUpdActivate_kept (e := e) (h := Kept.refl s)
  case updCommit => exact execUpdCommit_kept (e := e) (h := Kept.refl s)
  case updAbort => exact execUpdAbort_kept (e := e) (h := Kept.refl s)
  case settingsWrite => exact execSettingsWrite_kept (e := e) (h := Kept.refl s)
  case settingsRead => exact execSettingsRead_kept (e := e) (h := Kept.refl s)
  case kerbLoad => exact execKerbLoad_kept (e := e) (h := Kept.refl s)
  case kerbStart => exact execKerbStart_kept (e := e) (h := Kept.refl s)
  case kerbStop => exact execKerbStop_kept (e := e) (h := Kept.refl s)
  case kerbLogRead => exact execKerbLogRead_kept (e := e) (h := Kept.refl s)
  case ctxTest => exact execCtxTest_kept (e := e) (h := Kept.refl s)
  case bistRun => exact execBistRun_kept (e := e) (h := Kept.refl s)
  case loopback => exact execLoopback_kept (e := e) (h := Kept.refl s)
  case bgPause => exact execBgPause_kept (e := e) (h := Kept.refl s)
  case bgConfig => exact execBgConfig_kept (e := e) (h := Kept.refl s)
  case badOpcode => exact execBadOpcode_kept (e := e) (h := Kept.refl s)
  case badCrc => exact execBadCrc_kept (e := e) (h := Kept.refl s)
  case hostWriteTransaction => exact execHostWriteTransaction_kept (e := e) (h := Kept.refl s)
  case hostReadTransaction => exact execHostReadTransaction_kept (e := e) (h := Kept.refl s)
  case hostPollTransaction => exact execHostPollTransaction_kept (e := e) (h := Kept.refl s)
  case hostNopTransaction => exact execHostNopTransaction_kept (e := e) (h := Kept.refl s)
  case uartBreak => exact execUartBreak_kept (e := e) (h := Kept.refl s)
  case uartRateByte => exact execUartRateByte_kept (e := e) (h := Kept.refl s)
  case mbxCmdWrite => exact execMbxCmdWrite_kept (e := e) (h := Kept.refl s)
  case mbxCmdHoldExpiry => exact execMbxCmdHoldExpiry_kept (e := e) (h := Kept.refl s)
  case mbxLaneRead => exact execMbxLaneRead_kept (e := e) (h := Kept.refl s)
  case eventBacklogDrain => exact execEventBacklogDrain_kept (e := e) (h := Kept.refl s)
  case frameStoreMove => exact execFrameStoreMove_kept (e := e) (h := Kept.refl s)
  case powerOnReset => exact execPowerOnReset_kept (e := e) (h := Kept.refl s)
  case brownoutReset => exact execBrownoutReset_kept (e := e) (h := Kept.refl s)
  case resetn => exact execResetn_kept (e := e) (h := Kept.refl s)
  case warmReset => exact execWarmReset_kept (e := e) (h := Kept.refl s)
  case debugReset => exact execDebugReset_kept (e := e) (h := Kept.refl s)
  case ppsEdge => exact execPpsEdge_kept (e := e) (h := Kept.refl s)
  case ppsLost => exact execPpsLost_kept (e := e) (h := Kept.refl s)
  case ntSetExpired => exact execNtSetExpired_kept (e := e) (h := Kept.refl s)
  case ntSlewComplete => exact execNtSlewComplete_kept (e := e) (h := Kept.refl s)
  case markerFired => exact execMarkerFired_kept (e := e) (h := Kept.refl s)
  case capture => exact execCapture_kept (e := e) (h := Kept.refl s)
  case ntcCpLoRead => exact execNtcCpLoRead_kept (e := e) (h := Kept.refl s)
  case ntcCpHiRead => exact execNtcCpHiRead_kept (e := e) (h := Kept.refl s)
  case swtrig => exact execSwtrig_kept (e := e) (h := Kept.refl s)
  case markerArm => exact execMarkerArm_kept (e := e) (h := Kept.refl s)
  case ntcPpsGlitchRead => exact execNtcPpsGlitchRead_kept (e := e) (h := Kept.refl s)
  case ntcCpLostRead => exact execNtcCpLostRead_kept (e := e) (h := Kept.refl s)
  case btStart => exact execBtStart_kept (e := e) (h := Kept.refl s)
  case btStop => exact execBtStop_kept (e := e) (h := Kept.refl s)
  case btPeriodWrite => exact execBtPeriodWrite_kept (e := e) (h := Kept.refl s)
  case btEnd => exact execBtEnd_kept (e := e) (h := Kept.refl s)
  case cycleLoRead => exact execCycleLoRead_kept (e := e) (h := Kept.refl s)
  case cachectlInv => exact execCachectlInv_kept (e := e) (h := Kept.refl s)
  case cacheMissRead => exact execCacheMissRead_kept (e := e) (h := Kept.refl s)
  case intcSwset => exact execIntcSwset_kept (e := e) (h := Kept.refl s)
  case intcSwclr => exact execIntcSwclr_kept (e := e) (h := Kept.refl s)
  case registerWrite => exact execRegisterWrite_kept (e := e) (h := Kept.refl s)
  case gpioSet => exact execGpioSet_kept (e := e) (h := Kept.refl s)
  case gpioClr => exact execGpioClr_kept (e := e) (h := Kept.refl s)
  case gpioTgl => exact execGpioTgl_kept (e := e) (h := Kept.refl s)
  case gpioEdge => exact execGpioEdge_kept (e := e) (h := Kept.refl s)
  case spicTxWrite => exact execSpicTxWrite_kept (e := e) (h := Kept.refl s)
  case spicRxRead => exact execSpicRxRead_kept (e := e) (h := Kept.refl s)
  case csEnd => exact execCsEnd_kept (e := e) (h := Kept.refl s)
  case spicFrameEnd => exact execSpicFrameEnd_kept (e := e) (h := Kept.refl s)
  case i2cCmdWrite => exact execI2cCmdWrite_kept (e := e) (h := Kept.refl s)
  case i2cTxWrite => exact execI2cTxWrite_kept (e := e) (h := Kept.refl s)
  case i2cRxRead => exact execI2cRxRead_kept (e := e) (h := Kept.refl s)
  case i2cByteEnd => exact execI2cByteEnd_kept (e := e) (h := Kept.refl s)
  case i2cTimeout => exact execI2cTimeout_kept (e := e) (h := Kept.refl s)
  case uartTxWrite => exact execUartTxWrite_kept (e := e) (h := Kept.refl s)
  case uartRxRead => exact execUartRxRead_kept (e := e) (h := Kept.refl s)
  case uartLostRead => exact execUartLostRead_kept (e := e) (h := Kept.refl s)
  case uartRxCharacter => exact execUartRxCharacter_kept (e := e) (h := Kept.refl s)
  case uartTxCharacter => exact execUartTxCharacter_kept (e := e) (h := Kept.refl s)
  case rxidle => exact execRxidle_kept (e := e) (h := Kept.refl s)
  case adcStart => exact execAdcStart_kept (e := e) (h := Kept.refl s)
  case adcDataRead => exact execAdcDataRead_kept (e := e) (h := Kept.refl s)
  case adcLostRead => exact execAdcLostRead_kept (e := e) (h := Kept.refl s)
  case adcConversionEnd => exact execAdcConversionEnd_kept (e := e) (h := Kept.refl s)
  case dmaSwreq => exact execDmaSwreq_kept (e := e) (h := Kept.refl s)
  case dmaChannelEnable => exact execDmaChannelEnable_kept (e := e) (h := Kept.refl s)
  case dmaAbort => exact execDmaAbort_kept (e := e) (h := Kept.refl s)
  case dmaChStatusRead => exact execDmaChStatusRead_kept (e := e) (h := Kept.refl s)
  case dmaBurst => exact execDmaBurst_kept (e := e) (h := Kept.refl s)
  case kerbSwtrig => exact execKerbSwtrig_kept (e := e) (h := Kept.refl s)
  case kerbTrigRead => exact execKerbTrigRead_kept (e := e) (h := Kept.refl s)
  case kerbDecidedRead => exact execKerbDecidedRead_kept (e := e) (h := Kept.refl s)
  case pmuEventsRead => exact execPmuEventsRead_kept (e := e) (h := Kept.refl s)
  case pbAdd => exact execPbAdd_kept (e := e) (h := Kept.refl s)
  case pbSub => exact execPbSub_kept (e := e) (h := Kept.refl s)
  case pbAnd => exact execPbAnd_kept (e := e) (h := Kept.refl s)
  case pbOr => exact execPbOr_kept (e := e) (h := Kept.refl s)
  case pbXor => exact execPbXor_kept (e := e) (h := Kept.refl s)
  case pbNor => exact execPbNor_kept (e := e) (h := Kept.refl s)
  case pbSlt => exact execPbSlt_kept (e := e) (h := Kept.refl s)
  case pbSltu => exact execPbSltu_kept (e := e) (h := Kept.refl s)
  case pbSll => exact execPbSll_kept (e := e) (h := Kept.refl s)
  case pbSrl => exact execPbSrl_kept (e := e) (h := Kept.refl s)
  case pbSra => exact execPbSra_kept (e := e) (h := Kept.refl s)
  case pbSlli => exact execPbSlli_kept (e := e) (h := Kept.refl s)
  case pbSrli => exact execPbSrli_kept (e := e) (h := Kept.refl s)
  case pbSrai => exact execPbSrai_kept (e := e) (h := Kept.refl s)
  case pbMin => exact execPbMin_kept (e := e) (h := Kept.refl s)
  case pbMax => exact execPbMax_kept (e := e) (h := Kept.refl s)
  case pbMinu => exact execPbMinu_kept (e := e) (h := Kept.refl s)
  case pbMaxu => exact execPbMaxu_kept (e := e) (h := Kept.refl s)
  case pbClz => exact execPbClz_kept (e := e) (h := Kept.refl s)
  case pbSextb => exact execPbSextb_kept (e := e) (h := Kept.refl s)
  case pbSexth => exact execPbSexth_kept (e := e) (h := Kept.refl s)
  case pbAddi => exact execPbAddi_kept (e := e) (h := Kept.refl s)
  case pbAndi => exact execPbAndi_kept (e := e) (h := Kept.refl s)
  case pbOri => exact execPbOri_kept (e := e) (h := Kept.refl s)
  case pbXori => exact execPbXori_kept (e := e) (h := Kept.refl s)
  case pbSlti => exact execPbSlti_kept (e := e) (h := Kept.refl s)
  case pbSltiu => exact execPbSltiu_kept (e := e) (h := Kept.refl s)
  case pbLui => exact execPbLui_kept (e := e) (h := Kept.refl s)
  case pbMul => exact execPbMul_kept (e := e) (h := Kept.refl s)
  case pbMulh => exact execPbMulh_kept (e := e) (h := Kept.refl s)
  case pbMulhu => exact execPbMulhu_kept (e := e) (h := Kept.refl s)
  case pbMac => exact execPbMac_kept (e := e) (h := Kept.refl s)
  case pbMsu => exact execPbMsu_kept (e := e) (h := Kept.refl s)
  case pbLw => exact execPbLw_kept (e := e) (h := Kept.refl s)
  case pbLh => exact execPbLh_kept (e := e) (h := Kept.refl s)
  case pbLhu => exact execPbLhu_kept (e := e) (h := Kept.refl s)
  case pbLb => exact execPbLb_kept (e := e) (h := Kept.refl s)
  case pbLbu => exact execPbLbu_kept (e := e) (h := Kept.refl s)
  case pbSw => exact execPbSw_kept (e := e) (h := Kept.refl s)
  case pbSh => exact execPbSh_kept (e := e) (h := Kept.refl s)
  case pbSb => exact execPbSb_kept (e := e) (h := Kept.refl s)
  case pbBeq => exact execPbBeq_kept (e := e) (h := Kept.refl s)
  case pbBne => exact execPbBne_kept (e := e) (h := Kept.refl s)
  case pbBlt => exact execPbBlt_kept (e := e) (h := Kept.refl s)
  case pbBge => exact execPbBge_kept (e := e) (h := Kept.refl s)
  case pbBltu => exact execPbBltu_kept (e := e) (h := Kept.refl s)
  case pbBgeu => exact execPbBgeu_kept (e := e) (h := Kept.refl s)
  case pbJmp => exact execPbJmp_kept (e := e) (h := Kept.refl s)
  case pbCall => exact execPbCall_kept (e := e) (h := Kept.refl s)
  case pbJr => exact execPbJr_kept (e := e) (h := Kept.refl s)
  case pbCallr => exact execPbCallr_kept (e := e) (h := Kept.refl s)
  case pbRet => exact execPbRet_kept (e := e) (h := Kept.refl s)
  case pbReti => exact execPbReti_kept (e := e) (h := Kept.refl s)
  case pbLoop => exact execPbLoop_kept (e := e) (h := Kept.refl s)
  case pbLoopi => exact execPbLoopi_kept (e := e) (h := Kept.refl s)
  case pbMoveTo => exact execPbMoveTo_kept (e := e) (h := Kept.refl s)
  case pbMoveFrom => exact execPbMoveFrom_kept (e := e) (h := Kept.refl s)
  case pbPush => exact execPbPush_kept (e := e) (h := Kept.refl s)
  case pbPop => exact execPbPop_kept (e := e) (h := Kept.refl s)
  case pbPushl => exact execPbPushl_kept (e := e) (h := Kept.refl s)
  case pbPopl => exact execPbPopl_kept (e := e) (h := Kept.refl s)
  case pbTrap => exact execPbTrap_kept (e := e) (h := Kept.refl s)
  case pbWait => exact execPbWait_kept (e := e) (h := Kept.refl s)
  case pbFence => exact execPbFence_kept (e := e) (h := Kept.refl s)
  case pbIcinv => exact execPbIcinv_kept (e := e) (h := Kept.refl s)
  case pbBreak => exact execPbBreak_kept (e := e) (h := Kept.refl s)
  case interruptEntry => exact execInterruptEntry_kept (e := e) (h := Kept.refl s)
  case detection => exact execDetection_kept (e := e) (h := Kept.refl s)
  case symbolDecision => exact execSymbolDecision_kept (e := e) (h := Kept.refl s)
  case syncDecision => exact execSyncDecision_kept (e := e) (h := Kept.refl s)
  case timingMark => exact execTimingMark_kept (e := e) (h := Kept.refl s)
  case noMark => exact execNoMark_kept (e := e) (h := Kept.refl s)
  case headerDecision => exact execHeaderDecision_kept (e := e) (h := Kept.refl s)
  case lastPayloadDecision => exact execLastPayloadDecision_kept (e := e) (h := Kept.refl s)
  case gainChange => exact execGainChange_kept (e := e) (h := Kept.refl s)
  case decisionPipeline => exact execDecisionPipeline_kept (e := e) (h := Kept.refl s)
  case ack => exact execAck_kept (e := e) (h := Kept.refl s)
  case txChoice => exact execTxChoice_kept (e := e) (h := Kept.refl s)
  case txAttempt => exact execTxAttempt_kept (e := e) (h := Kept.refl s)
  case txEnd => exact execTxEnd_kept (e := e) (h := Kept.refl s)
  case ackReception => exact execAckReception_kept (e := e) (h := Kept.refl s)
  case ackWindowClose => exact execAckWindowClose_kept (e := e) (h := Kept.refl s)
  case retryDelayExpiry => exact execRetryDelayExpiry_kept (e := e) (h := Kept.refl s)
  case expired => exact execExpired_kept (e := e) (h := Kept.refl s)
  case late => exact execLate_kept (e := e) (h := Kept.refl s)
  case settleDone => exact execSettleDone_kept (e := e) (h := Kept.refl s)
  case synthLockTimeout => exact execSynthLockTimeout_kept (e := e) (h := Kept.refl s)
  case turnRxDone => exact execTurnRxDone_kept (e := e) (h := Kept.refl s)
  case calStep => exact execCalStep_kept (e := e) (h := Kept.refl s)
  case calStepEnd => exact execCalStepEnd_kept (e := e) (h := Kept.refl s)
  case calRunExpired => exact execCalRunExpired_kept (e := e) (h := Kept.refl s)
  case calPeriodExpiry => exact execCalPeriodExpiry_kept (e := e) (h := Kept.refl s)
  case rdvSlot => exact execRdvSlot_kept (e := e) (h := Kept.refl s)
  case reacquisitionWindow => exact execReacquisitionWindow_kept (e := e) (h := Kept.refl s)
  case scan => exact execScan_kept (e := e) (h := Kept.refl s)
  case beacon => exact execBeacon_kept (e := e) (h := Kept.refl s)
  case joinRequestSend => exact execJoinRequestSend_kept (e := e) (h := Kept.refl s)
  case joinPlaceExpiry => exact execJoinPlaceExpiry_kept (e := e) (h := Kept.refl s)
  case gateSwapped => exact execGateSwapped_kept (e := e) (h := Kept.refl s)
  case bucketRoll => exact execBucketRoll_kept (e := e) (h := Kept.refl s)
  case budgetJournalWrite => exact execBudgetJournalWrite_kept (e := e) (h := Kept.refl s)
  case openMessageTimeout => exact execOpenMessageTimeout_kept (e := e) (h := Kept.refl s)
  case trngHealthFail => exact execTrngHealthFail_kept (e := e) (h := Kept.refl s)
  case trngStartUpTest => exact execTrngStartUpTest_kept (e := e) (h := Kept.refl s)
  case unlockChal => exact execUnlockChal_kept (e := e) (h := Kept.refl s)
  case unlockResp => exact execUnlockResp_kept (e := e) (h := Kept.refl s)
  case extest => exact execExtest_kept (e := e) (h := Kept.refl s)
  case flashDone => exact execFlashDone_kept (e := e) (h := Kept.refl s)
  case flashAutoSuspend => exact execFlashAutoSuspend_kept (e := e) (h := Kept.refl s)
  case flashAutoResume => exact execFlashAutoResume_kept (e := e) (h := Kept.refl s)
  case stopEntry => exact execStopEntry_kept (e := e) (h := Kept.refl s)
  case wake => exact execWake_kept (e := e) (h := Kept.refl s)
  case ntToHfxo => exact execNtToHfxo_kept (e := e) (h := Kept.refl s)
  case bodWarn => exact execBodWarn_kept (e := e) (h := Kept.refl s)
  case bodClear => exact execBodClear_kept (e := e) (h := Kept.refl s)
  case oppointSwitch => exact execOppointSwitch_kept (e := e) (h := Kept.refl s)
  case oppointTimeout => exact execOppointTimeout_kept (e := e) (h := Kept.refl s)
  case domainUsable => exact execDomainUsable_kept (e := e) (h := Kept.refl s)
  case kerbPass => exact execKerbPass_kept (e := e) (h := Kept.refl s)
  case kerbEnd => exact execKerbEnd_kept (e := e) (h := Kept.refl s)
  case kerbSample => exact execKerbSample_kept (e := e) (h := Kept.refl s)
  case kerbDin => exact execKerbDin_kept (e := e) (h := Kept.refl s)
  case kerbDout => exact execKerbDout_kept (e := e) (h := Kept.refl s)
  case kerbWait => exact execKerbWait_kept (e := e) (h := Kept.refl s)
  case kerbLoadi => exact execKerbLoadi_kept (e := e) (h := Kept.refl s)
  case kerbAdd => exact execKerbAdd_kept (e := e) (h := Kept.refl s)
  case kerbSub => exact execKerbSub_kept (e := e) (h := Kept.refl s)
  case kerbAbsd => exact execKerbAbsd_kept (e := e) (h := Kept.refl s)
  case kerbIir => exact execKerbIir_kept (e := e) (h := Kept.refl s)
  case kerbJgt => exact execKerbJgt_kept (e := e) (h := Kept.refl s)
  case kerbJle => exact execKerbJle_kept (e := e) (h := Kept.refl s)
  case kerbJmp => exact execKerbJmp_kept (e := e) (h := Kept.refl s)
  case kerbLog => exact execKerbLog_kept (e := e) (h := Kept.refl s)
  case kerbDecide => exact execKerbDecide_kept (e := e) (h := Kept.refl s)
  case kerbMov => exact execKerbMov_kept (e := e) (h := Kept.refl s)
  case handover => exact execHandover_kept (e := e) (h := Kept.refl s)
  case handoverWaitExpiry => exact execHandoverWaitExpiry_kept (e := e) (h := Kept.refl s)
  case trialExpiry => exact execTrialExpiry_kept (e := e) (h := Kept.refl s)
  case rollback => exact execRollback_kept (e := e) (h := Kept.refl s)
  case scrubQuantum => exact execScrubQuantum_kept (e := e) (h := Kept.refl s)
  case flashRefreshQuantum => exact execFlashRefreshQuantum_kept (e := e) (h := Kept.refl s)
  case journalCompactionQuantum => exact execJournalCompactionQuantum_kept (e := e) (h := Kept.refl s)
  case telemetryQuantum => exact execTelemetryQuantum_kept (e := e) (h := Kept.refl s)
  case urgent => exact execUrgent_kept (e := e) (h := Kept.refl s)
  case bgPauseEnd => exact execBgPauseEnd_kept (e := e) (h := Kept.refl s)
  case ctxTestDone => exact execCtxTestDone_kept (e := e) (h := Kept.refl s)
  case bistDone => exact execBistDone_kept (e := e) (h := Kept.refl s)
  case loopbackEnd => exact execLoopbackEnd_kept (e := e) (h := Kept.refl s)
  case ppsOutRise => exact execPpsOutRise_kept (e := e) (h := Kept.refl s)
  case ppsOutFall => exact execPpsOutFall_kept (e := e) (h := Kept.refl s)
  case wakeDriftSample => exact execWakeDriftSample_kept (e := e) (h := Kept.refl s)
  case sysplllocked => exact execSysplllocked_kept (e := e) (h := Kept.refl s)
  case keyStoreReady => exact execKeyStoreReady_kept (e := e) (h := Kept.refl s)
  case pkaDone => exact execPkaDone_kept (e := e) (h := Kept.refl s)
  case inactiveBankErased => exact execInactiveBankErased_kept (e := e) (h := Kept.refl s)
  case updVerifyDone => exact execUpdVerifyDone_kept (e := e) (h := Kept.refl s)
  case dirSnapshotDone => exact execDirSnapshotDone_kept (e := e) (h := Kept.refl s)
  case rdvWindowClose => exact execRdvWindowClose_kept (e := e) (h := Kept.refl s)
  case vioRemoved => exact execVioRemoved_kept (e := e) (h := Kept.refl s)
  case vioRestored => exact execVioRestored_kept (e := e) (h := Kept.refl s)
  case lfxoRunning => exact execLfxoRunning_kept (e := e) (h := Kept.refl s)
  case vbatSample => exact execVbatSample_kept (e := e) (h := Kept.refl s)
  case speculativeTurnaround => exact execSpeculativeTurnaround_kept (e := e) (h := Kept.refl s)

end Sys2Proof.Machine
end

