-- ==== Sys2Proof/Laws/TimeRuns.lean ====
section
/-! SUPPORT. What a tick does to network time. -/

namespace Sys2Proof
open Sys2Proof.Machine Sys2Proof.Statements

theorem addStep_eq (hi sub : DWord) (n : Nat) : (addStep hi sub n).1 ++ (addStep hi sub n).2 = (hi ++ sub) + BitVec.ofNat 128 n := by
  apply BitVec.eq_of_toNat_eq
  have h1 := hi.isLt; have h2 := sub.isLt
  unfold addStep; dsimp only
  rw [BitVec.toNat_add, BitVec.toNat_append, BitVec.toNat_append, BitVec.toNat_ofNat, BitVec.toNat_ofNat, BitVec.toNat_ofNat]
  rw [← Nat.shiftLeft_add_eq_or_of_lt (Nat.mod_lt _ (by norm_num)), ← Nat.shiftLeft_add_eq_or_of_lt h2]
  simp only [Nat.shiftLeft_eq]
  omega

theorem diagTrace_time (p : PortId) (s : State) : (diagTrace p s).time = s.time := by
  unfold diagTrace; dsimp only
  split
  · split
    · rw [produce_only]
    · rfl
  · rfl

theorem tick_time (s : State) : (tick s).time = (tickClocks s).time := by
  unfold tick; rw [diagTrace_time, diagTrace_time, diagTrace_time]

end Sys2Proof
end

