-- ==== Sys2Proof/WellFormed.lean ====
section
/-! DEFINITION. Which commands are well formed: those whose operands the block's surroundings can produce. -/

namespace Sys2Proof

/-- A packet that its word 0 can announce: COUNT is 10 bits (R66); the mailbox has no CRC word that could be wrong (R68). -/
def Packet.wf (p : Packet) : Bool := decide (p.params.length ≤ 1023) && (decide (p.port ≠ .mbx) || p.crcOk)

/-- A data phase that its control word can announce: WORDS is 7 bits (R86). -/
def dataPhaseWf (data : List Word) : Bool := decide (data.length ≤ 127)

/-- The PSDU of a frame: at most 2,047 bytes (R213). -/
def psduWf (psdu : List Byte) : Bool := decide (psdu.length ≤ 2047)

/-- A detection of an OFDM preamble (0) or of a chirp of one of the nine sweep sizes, at a bin of that sweep (R195, R196). -/
def Detect.wf (d : Detect) : Bool := d.k = 0 || (decide (6 ≤ d.k) && decide (d.k ≤ 14) && decide (d.bin < 2 ^ d.k))

/-- A symbol shows at most the 96 used subcarriers (R154). -/
def SymbolObs.wf (o : SymbolObs) : Bool := decide (o.bins.length ≤ 96)

/-- Which commands are well formed; an operand whose every value can come is not constrained. Neither `exec` nor `step` asks
for it: a command that is not well formed has a meaning too. -/
def Instr.wf (i : Instr) : Bool :=
  match i with
  | .ping p | .devInfo p | .softReset p | .ledgerRead p | .statsRead p | .eventMask p | .telemetryRead p | .stopEnter p
  | .domainSet p | .wakeArm p | .wakeRecordRead p | .padRelease p | .oppointSet p | .bodConfig p | .retainSet p | .ntSet p
  | .ntCapture p | .ppsConfig p | .ppsStatus p | .ntSlew p | .ntJump p | .rfConfig p | .calRun p | .calRead p | .txshapeSet p
  | .femSeqSet p | .regionLoad p | .phyProfileSet p | .loadmapSet p | .txSubmit p | .txCancel p | .rxStart p | .rxStop p
  | .blvdConfig p | .laneDrop p | .linkAdd p | .linkDel p | .linkRead p | .addrAssign p | .dirConfig p | .dirSnapshot p
  | .rdvSet p | .rdvClear p | .beaconConfig p | .queueConfig p | .meterSet p | .gatelistLoad p | .gatelistStatus p
  | .budgetLoad p | .budgetRead p | .keyLoad p | .keyDerive p | .keyZero p | .cipherRun p | .attest p | .lifecycleAdvance p
  | .debugUnlock p | .rngRead p | .ecdhRun p | .signRun p | .verifyRun p | .flashProgram p | .flashErase p | .flashSuspend p
  | .flashResume p | .protectSet p | .protectUnlock p | .otpRead p | .otpProgram p | .flashStatus p | .updBegin p
  | .updChunk p | .updVerify p | .updActivate p | .updCommit p | .updAbort p | .settingsWrite p | .settingsRead p
  | .kerbLoad p | .kerbStart p | .kerbStop p | .kerbLogRead p | .ctxTest p | .bistRun p | .loopback p | .bgPause p
  | .bgConfig p | .badOpcode p _ _ | .badCrc p _ => p.wf
  | .hostWriteTransaction _ _ data => dataPhaseWf data
  | .uartRateByte _ _ bitNs => decide (0 < bitNs)
  | .detection d rival => d.wf && rival.all Detect.wf
  | .symbolDecision _ o => o.wf
  | .ackReception psdu _ _ _ _ => psduWf psdu
  | .openMessageTimeout ctx => decide (ctx.val < 5)
  | .unlockResp _ key sig => decide (key.length = 16) && decide (sig.length = 16)
  | .scrubQuantum m _ => decide (m ≠ .flash)
  | .journalCompactionQuantum x => match x with | some k => decide (k < 512) | none => true
  | .hostReadTransaction _ _ _ | .hostPollTransaction _ _ _ | .hostNopTransaction _ _ _ | .uartBreak _ | .mbxCmdWrite _
  | .mbxCmdHoldExpiry | .mbxLaneRead _ | .eventBacklogDrain _ | .frameStoreMove _ | .powerOnReset | .brownoutReset _
  | .resetn _ _ | .warmReset | .debugReset | .ppsEdge _ _ | .ppsLost | .ntSetExpired | .ntSlewComplete | .markerFired _
  | .capture _ | .ntcCpLoRead _ | .ntcCpHiRead _ | .swtrig _ | .markerArm _ _ | .ntcPpsGlitchRead | .ntcCpLostRead _
  | .btStart _ | .btStop _ | .btPeriodWrite _ _ | .btEnd _ | .cycleLoRead _ | .cachectlInv | .cacheMissRead _ | .intcSwset _
  | .intcSwclr _ | .registerWrite _ _ | .gpioSet _ _ | .gpioClr _ _ | .gpioTgl _ _ | .gpioEdge _ _ _ | .spicTxWrite _ _
  | .spicRxRead _ | .csEnd _ | .spicFrameEnd _ _ | .i2cCmdWrite _ _ | .i2cTxWrite _ _ | .i2cRxRead _ | .i2cByteEnd _ _ _
  | .i2cTimeout _ | .uartTxWrite _ _ | .uartRxRead _ | .uartLostRead _ | .uartRxCharacter _ _ _ _ _ | .uartTxCharacter _
  | .rxidle _ | .adcStart | .adcDataRead | .adcLostRead | .adcConversionEnd _ _ | .dmaSwreq _ | .dmaChannelEnable _ _
  | .dmaAbort _ | .dmaChStatusRead _ | .dmaBurst | .kerbSwtrig | .kerbTrigRead | .kerbDecidedRead | .pmuEventsRead
  | .pbAdd _ _ _ | .pbSub _ _ _ | .pbAnd _ _ _ | .pbOr _ _ _ | .pbXor _ _ _ | .pbNor _ _ _ | .pbSlt _ _ _ | .pbSltu _ _ _
  | .pbSll _ _ _ | .pbSrl _ _ _ | .pbSra _ _ _ | .pbSlli _ _ _ | .pbSrli _ _ _ | .pbSrai _ _ _ | .pbMin _ _ _ | .pbMax _ _ _
  | .pbMinu _ _ _ | .pbMaxu _ _ _ | .pbClz _ _ | .pbSextb _ _ | .pbSexth _ _ | .pbAddi _ _ _ | .pbAndi _ _ _ | .pbOri _ _ _
  | .pbXori _ _ _ | .pbSlti _ _ _ | .pbSltiu _ _ _ | .pbLui _ _ _ | .pbMul _ _ _ | .pbMulh _ _ _ | .pbMulhu _ _ _
  | .pbMac _ _ _ | .pbMsu _ _ _ | .pbLw _ _ _ | .pbLh _ _ _ | .pbLhu _ _ _ | .pbLb _ _ _ | .pbLbu _ _ _ | .pbSw _ _ _
  | .pbSh _ _ _ | .pbSb _ _ _ | .pbBeq _ _ _ | .pbBne _ _ _ | .pbBlt _ _ _ | .pbBge _ _ _ | .pbBltu _ _ _ | .pbBgeu _ _ _
  | .pbJmp _ | .pbCall _ | .pbJr _ | .pbCallr _ | .pbRet | .pbReti | .pbLoop _ _ _ | .pbLoopi _ _ _ | .pbMoveTo _ _
  | .pbMoveFrom _ _ | .pbPush _ | .pbPop _ | .pbPushl _ | .pbPopl _ | .pbTrap _ | .pbWait | .pbFence | .pbIcinv | .pbBreak
  | .interruptEntry | .syncDecision _ _ _ | .timingMark _ _ _ | .noMark _ | .headerDecision _ | .lastPayloadDecision _ _
  | .gainChange _ | .decisionPipeline _ | .ack | .txChoice | .txAttempt | .txEnd | .ackWindowClose | .retryDelayExpiry _
  | .expired _ | .late _ | .settleDone | .synthLockTimeout _ | .turnRxDone | .calStep | .calStepEnd _ | .calRunExpired
  | .calPeriodExpiry _ _ | .rdvSlot _ | .reacquisitionWindow _ | .scan _ | .beacon | .joinRequestSend | .joinPlaceExpiry _
  | .gateSwapped | .bucketRoll | .budgetJournalWrite | .trngHealthFail _ | .trngStartUpTest _ | .unlockChal | .extest _
  | .flashDone _ | .flashAutoSuspend | .flashAutoResume | .stopEntry | .wake _ _ _ _ _ | .ntToHfxo | .bodWarn _ | .bodClear _
  | .oppointSwitch | .oppointTimeout | .domainUsable _ | .kerbPass _ | .kerbEnd | .kerbSample _ _ | .kerbDin | .kerbDout
  | .kerbWait | .kerbLoadi | .kerbAdd | .kerbSub | .kerbAbsd | .kerbIir | .kerbJgt | .kerbJle | .kerbJmp | .kerbLog
  | .kerbDecide | .kerbMov | .handover _ | .handoverWaitExpiry | .trialExpiry | .rollback _ | .flashRefreshQuantum _ _
  | .telemetryQuantum _ _ _ | .urgent _ | .bgPauseEnd | .ctxTestDone _ _ | .bistDone _ _ | .loopbackEnd _ _ _ _ _
  | .ppsOutRise | .ppsOutFall | .wakeDriftSample _ | .sysplllocked | .keyStoreReady | .pkaDone | .inactiveBankErased
  | .updVerifyDone | .dirSnapshotDone | .rdvWindowClose _ | .vioRemoved | .vioRestored | .lfxoRunning | .vbatSample _
  | .speculativeTurnaround => true

end Sys2Proof
end

