-- ==== Sys2Proof/Tests/Slice0.lean ====
section
/-! SUPPORT. Tests: for the hypotheses of every statement a concrete state and operands that meet them, and an ill-formed term
for each check of WellFormed. Each theorem test_meets_<statement>_<n> restates the hypotheses of the statement's n-th clause. -/

set_option Elab.async false
set_option linter.unusedVariables false

namespace Sys2Proof.Tests
open Sys2Proof Sys2Proof.Machine Sys2Proof.Statements

/-- A device in run with every domain on and usable and the CRYPTO domain ready: a KR9680 with an external host. -/
def run : State :=
  { State.reset with
    power := { phase := .run, domains := 0xFFF#12, usable := 0xFFF#12, lfxoDue := false }
    plaza := { ports := State.reset.plaza.ports, rdy := true }
    sec := { ready := true, trngOk := true } }

/-- A packet on the host's SPI port with TAG 0 and a right CRC word. -/
def pkt (ps : List Word) : Packet := ⟨.spi, 0, ps, true⟩

/-- The state that the owner of an opcode meets. -/
def met (code : Nat) (ps : List Word) (s : State) : State :=
  match arrive 0 code (pkt ps) s with | some (s1, _) => markOutstanding (pkt ps) s1 | none => s

/-- The Plaza takes the packet and it passes steps 1 to 4 of R70. -/
def takes (code : Nat) (ps : List Word) (s : State) : Bool :=
  plazaOpen .spi s && (!s.parked || inHardware code) && (!waitsForCal code || !s.radio.cal.full) && (match arrive 0 code (pkt ps) s with | some (_, ok) => ok | none => false) &&
    (!hostOnly code || s.isHostPort .spi) && !(s.port .spi).tags.contains 0

/-- Some packet of the opcode is taken and meets a statement's condition. -/
def Reaches (code : Nat) (pre : Cmd → State → Prop) : Prop := ∃ p s b, Taken code p s b ∧ pre (asCmd code p) b

theorem reaches {code : Nat} {pre : Cmd → State → Prop} (ps : List Word) (s : State) (h : takes code ps s = true)
    (h' : pre (asCmd code (pkt ps)) (met code ps s)) : Reaches code pre := by
  refine ⟨pkt ps, s, met code ps s, ?_, h'⟩
  simp only [takes, Bool.and_eq_true, Bool.or_eq_true, Bool.not_eq_true'] at h
  obtain ⟨⟨⟨⟨⟨h1, h2⟩, h6⟩, h3⟩, h4⟩, h5⟩ := h
  refine ⟨h1, fun k => h2.resolve_left fun e => absurd (e.symm.trans k) (by decide),
    fun k => h6.resolve_left fun e => absurd (e.symm.trans k) (by decide), ?_⟩
  cases ha : arrive 0 code (pkt ps) s with
  | none => simp [ha] at h3
  | some r =>
    obtain ⟨s1, ok⟩ := r
    simp only [ha] at h3
    refine ⟨s1, by rw [h3], fun hh => ?_, h5, by simp [met, ha]⟩
    rcases h4 with h4 | h4
    · rw [hh] at h4; cases h4
    · exact h4

/-- The PKA can end the work of a command that meets a statement's condition. -/
def WorkReaches (code : Nat) (pre : Cmd → State → Prop) : Prop :=
  ∃ r ps s, s.sec.pka = some r ∧ r.job = .command (BitVec.ofNat 12 code) ps ∧ r.left ≤ 1 ∧ pre ⟨r.port, r.tag, code, ps⟩ (pkaGoesOn s)

/-- The device with a command's last P-256 operation in the PKA. -/
def asked (code : Nat) (ps : List Word) (s : State) : State :=
  { s with sec.pka := some ⟨.spi, 0, .command (BitVec.ofNat 12 code) ps, 1⟩ }

theorem workReaches {code : Nat} {pre : Cmd → State → Prop} (ps : List Word) (s : State)
    (h : pre ⟨.spi, 0, code, ps⟩ (pkaGoesOn (asked code ps s))) : WorkReaches code pre :=
  ⟨⟨.spi, 0, .command (BitVec.ofNat 12 code) ps, 1⟩, ps, asked code ps s, rfl, rfl, Nat.le_refl 1, h⟩

/-- An AES-128 key, 00 01 … 0F, with every usage. -/
def kek : KeySlot := { type := .aes128, usage := 0x1F#5, key := 0x000102030405060708090A0B0C0D0E0F00000000000000000000000000000000#256 }

/-- The base point's x coordinate. -/
def baseX : BitVec 256 := 0x6b17d1f2e12c4247f8bce6e563a440f277037d812deb33a0f4a13945d898c296#256

/-- Its y coordinate. -/
def baseY : BitVec 256 := 0x4fe342e2fe1a7f9b8ee7eb4a7c0f9e162bce33576b315ececbb6406837bf51f5#256

/-- A P-256 private key, 1, whose public key is the base point. -/
def priv : KeySlot := { type := .p256, usage := 0x1F#5, key := 1#256, pub := some (baseX, baseY) }

/-- The device with one key in a slot. -/
def keyed (n : Fin 32) (k : KeySlot) : State := { run with sec.slots := run.sec.slots.set n (some k) }

/-- The device with its link table holding these entries. -/
def linked (es : List LinkEntry) : State := { run with link.links := es }

/-- A link-table entry. -/
def entry5 : LinkEntry := { short := 5, eui := 7 }

/-- The x coordinate of the base point as words. -/
def wordsX : List Word := [0x6b17d1f2, 0xe12c4247, 0xf8bce6e5, 0x63a440f2, 0x77037d81, 0x2deb33a0, 0xf4a13945, 0xd898c296]

/-- Its y coordinate. -/
def wordsY : List Word := [0x4fe342e2, 0xfe1a7f9b, 0x8ee7eb4a, 0x7c0f9e16, 0x2bce3357, 0x6b315ece, 0xcbb64068, 0x37bf51f5]

/-- The conditions of `linkAddMay` for an address and an AES-128 key, with the key-encryption key and the unwrapped key named. -/
theorem may_of (c : Cmd) (b : State) (key : BitVec 256) (k : KeySlot) (kb : List Byte)
    (h : c.ps.length = 14 ∧ tableOn b = true ∧ b.isUsable dCRYPTO = true ∧ b.sec.ready = true ∧
      onlyBits (param c.ps 1) 0x03FFFFFF#32 = true ∧ onlyBits (param c.ps 4) 0xFFFF03FF#32 = true ∧
      onlyBits (param c.ps 8) 0x1F#32 = true ∧ BitVec.ofNat 24 (fld (param c.ps 1) 23 0) ≠ groupShort ∧
      bitAt (param c.ps 1) 24 = false ∧ slotRefusal (fld (param c.ps 8) 4 0) 2 [.aes128, .aes256] b = none)
    (hk : usableSlot (fld (param c.ps 8) 4 0) b = some k) (ws : List Word)
    (hw : c.ps.drop 8 = ws) (hu : keyUnwrap k.aesBytes (unpackBE ws) = some kb) (hv : key = BitVec.ofNat 256 (natBE (kb ++ zeros 16)))
    (ho : belongsToOther (BitVec.ofNat 24 (fld (param c.ps 1) 23 0)) (mk64 (param c.ps 2) (param c.ps 3)) (linkAddReplaces c b)
      (linkAddMeets c b) = false) (hd : (dirCfg (linkAddMeets c b)).isNone = true) : linkAddMay c b key := by
  obtain ⟨h1, h2, h3, h4, h5, h6, h7, h8, h9, h10⟩ := h
  refine ⟨by simp only [h1, h9]; rfl, h2, h3, h4, h5, h6, h7, fun e => absurd e h8, fun e => absurd (h9.symm.trans e) (by decide), h10, ⟨k, kb, hk, by rw [hw]; exact hu, ?_⟩, ho, .inl hd⟩
  simp only [h9, hv]; rfl

/-- The state that an outcome gives. -/
def after : Host.Outcome State Fault Refusal → State | .next t => t | _ => run

theorem after_eq {o : Host.Outcome State Fault Refusal} (h : (match o with | .next _ => true | _ => false) = true) :
    o = .next (after o) := by
  cases o with
  | next t => rfl
  | fault f => cases h
  | refused r => cases h

/-- The answer of an access, or a default. -/
def okOf {ε α : Type} (d : α) : Except ε α → α | .ok a => a | .error _ => d

theorem ok_eq {ε α : Type} {d : α} (x : Except ε α) (h : x.toBool = true) : x = .ok (okOf d x) := by
  cases x with
  | ok a => rfl
  | error e => cases h

theorem pair_eq {α β : Type} (x : α × β) : x = (x.1, x.2) := rfl

theorem quad_eq {α β γ δ : Type} (x : α × β × γ × δ) : x = (x.1, x.2.1, x.2.2.1, x.2.2.2) := rfl

theorem some_eq {α : Type} {d : α} (x : Option α) (h : x.isSome = true) : x = some (x.getD d) := by
  cases x with
  | some a => rfl
  | none => cases h

/-- The core about to execute the instruction at the pc, which is in ROM, with its stack in SRAM. -/
def core : State := { run with core := { run.core with running := true, regs := run.core.regs.set 30 0x20001000#32, vbase := 0x20000000#32 } }

/-- The state in which an instruction acts. -/
def begun (s : State) : State := fetchAt { s with core.waiting := false, core.cycles := s.core.cycles + 1 }

theorem begins {s : State} (h : coreFetches s = true) : Executes s (begun s) := by
  simp only [coreFetches, Bool.and_eq_true, Option.isNone_iff_eq_none] at h
  exact ⟨h.1, h.2, rfl⟩

/-- What an exception's entry reads and leaves. -/
def entered (v : Nat) (resume status : Word) (s : State) : Word × State :=
  let sp := s.core.regs[30] - 8
  let s2 := okOf s (busWrite sp.toNat 4 status (okOf s (busWrite (sp + 4).toNat 4 resume s)))
  okOf (0, s) (busRead (s.core.vbase + BitVec.ofNat 32 (4 * v)).toNat 4
    { s2 with core.regs := s2.core.regs.set 30 sp, core.hazards := [], core.specHazards := [] })

theorem framed {v : Nat} {resume status : Word} {s : State}
    (h : let sp := s.core.regs[30] - 8
      let w1 := busWrite (sp + 4).toNat 4 resume s
      let w2 := busWrite sp.toNat 4 status (okOf s w1)
      let r := busRead (s.core.vbase + BitVec.ofNat 32 (4 * v)).toNat 4
        { okOf s w2 with core.regs := (okOf s w2).core.regs.set 30 sp, core.hazards := [], core.specHazards := [] }
      sp.toNat % 4 = 0 ∧ (entered v resume status s).1.toNat % 4 = 0 ∧ w1.toBool = true ∧ w2.toBool = true ∧ r.toBool = true) :
    Framed v resume status s (entered v resume status s).1 (entered v resume status s).2 := by
  obtain ⟨h1, h2, h3, h4, h5⟩ := h
  exact ⟨h1, h2, _, _, ok_eq _ h3, ok_eq _ h4, ok_eq (d := (0, s)) _ h5⟩

/-- The core with a software interrupt that its STATUS lets in. -/
def irq : State := { core with core.status := 1, core.intcEn := 0xFFFFFFFF, core.swi := 0xFF }

/-- The wrapped key of RFC 3394, 4.1. -/
def wrapped : List Word := [0x1FA68B0A, 0x8112B447, 0xAEF34BD8, 0xFB5A7B82, 0x9D3E8623, 0x71D2CFE5]

/-- RFC 3394, 4.1: the test vector of a 128-bit key under a 128-bit key-encryption key. -/
theorem test_key_unwrap_rfc3394 : keyUnwrap kek.aesBytes (unpackBE wrapped) =
    some (bytesOfBE 16 0x00112233445566778899AABBCCDDEEFF) := by decide +kernel

/-- The bits of a received chirp header of K = 9: a payload of 10 bytes, its HCRC and fill bits of 0. -/
def headerBitsSent : List Bool := (List.range 112).map fun i => (chirpHeader 10 0#2 false).getLsbD i

/-- What the demodulator reads of an OFDM header that names map 700. -/
def headerSoft : List Rat := (ofdmHeader 10 700 0#2 9#7 false).map fun b => if b then -1 else 1

/-! ### Ill-formed terms, one for each check of WellFormed, and well-formed ones at the bound -/

theorem test_wf_packet_count : (Instr.ping (pkt (List.replicate 1024 0))).wf = false := by decide +kernel
theorem test_wf_packet_count_max : (Instr.ping (pkt (List.replicate 1023 0))).wf = true := by decide +kernel
theorem test_wf_mailbox_crc : (Instr.ping ⟨.mbx, 0, [], false⟩).wf = false := by decide
theorem test_wf_data_phase : (Instr.hostWriteTransaction .spi 0x40000000 (List.replicate 128 0)).wf = false := by decide +kernel
theorem test_wf_bit_time : (Instr.uartRateByte 0x55 true 0).wf = false := by decide
theorem test_wf_detection_k : (Instr.detection ⟨false, 0, 5, 0, 0, 0, 0, 0, 0⟩ none).wf = false := by decide
theorem test_wf_detection_k_high : (Instr.detection ⟨false, 0, 15, 0, 0, 0, 0, 0, 0⟩ none).wf = false := by decide
theorem test_wf_detection_bin : (Instr.detection ⟨false, 0, 6, 64, 0, 0, 0, 0, 0⟩ none).wf = false := by decide
theorem test_wf_psdu : (Instr.ackReception (List.replicate 2048 0) 0 0 0 true).wf = false := by decide +kernel
theorem test_wf_rival : (Instr.detection ⟨true, 0, 6, 0, 0, 0, 0, 0, 0⟩ (some ⟨false, 0, 5, 0, 0, 0, 0, 0, 0⟩)).wf = false := by decide
theorem test_wf_symbol : (Instr.symbolDecision .alley ⟨0, 0, 0, [], List.replicate 97 (0, 0)⟩).wf = false := by decide +kernel
theorem test_wf_context : (Instr.openMessageTimeout 5).wf = false := by decide
theorem test_wf_key : (Instr.unlockResp 1 [] (List.replicate 16 0)).wf = false := by decide
theorem test_wf_signature : (Instr.unlockResp 1 (List.replicate 16 0) []).wf = false := by decide
theorem test_wf_scrub : (Instr.scrubQuantum .flash .none).wf = false := by decide
theorem test_wf_sector : (Instr.journalCompactionQuantum (some 512)).wf = false := by decide

/-! ### Values that the spec works out -/

/-- The worked example of R134: LENGTH 24, CODE C2. -/
theorem test_chirp_header_word : chirpHeader 24 1#2 false = 0x8C000418#32 := by decide +kernel

/-- The worked example of R149: K9/200/C2 with P = 10 and 24 bytes takes 289.28 ms. -/
theorem test_chirp_airtime : chirpAirtime { k := 9, bw := 1#2, code := 1#2, p := 10 } 24 = 289280 := by decide +kernel

/-- The worked example of R184: 2,000 bytes with RS(255,239) and 492 bits a symbol take 3,248 µs, with the 8 µs prefix 2,968 µs. -/
theorem test_ofdm_airtime : ofdmAirtime 1#2 false 2000 492 = 3248 ∧ ofdmAirtime 1#2 true 2000 492 = 2968 := by decide +kernel

/-- The worked example of R137: NETID 0x5A3 loads 0x75A3, and the first eight outputs are 0, 0, 1, 1, 1, 1, 0, 1. -/
theorem test_scrambler : scrambleSeed 0x5A3#12 = 0x75A3#15 ∧
    scramble15 (scrambleSeed 0x5A3#12) (List.replicate 8 false) = [false, false, true, true, true, true, false, true] := by decide +kernel

/-- The servo of the worked example of R34, KP = 1 and KI = 3, judges one edge in ACQUIRING. -/
def servoAt (integ : Word) (e : Int) : Word × Word :=
  let t := judgeEdge e 0 { run with time.ppsState := .acquiring, time.kp := 1, time.ki := 3, time.integ := integ }
  (t.time.integ, t.time.adj)

/-- Its first three edges. -/
theorem test_servo_acquires : servoAt 0 6442 = (WI 6442, WI (-4026)) ∧ servoAt 6442 15301 = (WI 21743, WI (-10367)) ∧
    servoAt 21743 17819 = (WI 39562, WI (-13854)) := by decide +kernel

/-- The meter of the worked example of R277: CIR 100, CBS 200, PIR 400, PBS 600, full at 0. -/
def meterExample : MeterConfig := { cir := 100, cbs := 200, pir := 400, pbs := 600 }

/-- Its four frames, each from the buckets that the table shows after the one before: green, yellow, red, and green with 30 and 480
bytes left. The instants of 0.6 s are cut to 2^-32 s. -/
theorem test_meter_colours :
    (colour meterExample 0 150 false ⟨200 * 65536, 600 * 65536, 0⟩).1 = .green ∧
    colour meterExample 0x80000000 150 false ⟨50 * 65536, 450 * 65536, 0⟩ = (.yellow, ⟨100 * 65536, 450 * 65536, 0x80000000⟩) ∧
    (colour meterExample 0x99999999 500 false ⟨100 * 65536, 450 * 65536, 0x80000000⟩).1 = .red ∧
    colour meterExample 0x100000000 120 false ⟨110 * 65536, 490 * 65536, 0x99999999⟩ =
      (.green, ⟨30 * 65536, 480 * 65536, 0x100000000⟩) := by
  decide +kernel

/-- R68, R213: the CRC-32 of IEEE 802.3, on its customary check string. -/
theorem test_crc32 : crc32 (textBytes "123456789") = 0xCBF43926#32 := by decide +kernel

/-- FIPS 197, C.1, the cipher that R308 names. -/
theorem test_aes128 : aesEnc (bytesOfBE 16 0x000102030405060708090A0B0C0D0E0F) (bytesOfBE 16 0x00112233445566778899AABBCCDDEEFF) =
    bytesOfBE 16 0x69C4E0D86A7B0430D8CDB78070B4C55A := by decide +kernel

/-- FIPS 180-4: the digest of "abc". -/
theorem test_sha256 : sha256 (textBytes "abc") =
    0xBA7816BF8F01CFEA414140DE5DAE2223B00361A396177A9CB410FF61F20015AD#256 := by decide +kernel

/-! ### Hypotheses of StepRunsTheFrontCommand -/

theorem test_meets_stepRunsTheFrontCommand : ∃ (s : State), (s.pending = []) :=
  ⟨run, by decide +kernel⟩

/-! ### Hypotheses of CommandsCompleteOutsideUndefinedPlaces -/

theorem test_meets_commandsCompleteOutsideUndefinedPlaces : ∃ (i : Instr) (s : State), (s.core.slot = none) ∧ (noLoopEnd s) :=
  ⟨Instr.pbRet, run, by decide +kernel, by unfold noLoopEnd; decide +kernel⟩

/-! ### Hypotheses of EveryStepKeepsTheInvariant -/

theorem test_meets_everyStepKeepsTheInvariant : ∃ (s : State) (t : State), (Invariant s) ∧ (step s = .next t) :=
  ⟨{ run with pending := [.ping (pkt [])] }, (after (step { run with pending := [.ping (pkt [])] })), ⟨by unfold MemoryOk; decide +kernel, by unfold LedgerOk Balanced; decide +kernel, by unfold LanesOk; decide +kernel⟩, after_eq (by decide +kernel)⟩

/-! ### Hypotheses of StepTakesOnlyTheFront -/

theorem test_meets_stepTakesOnlyTheFront :
    (∃ (c : _) (rest : _) (s : State) (t : State), (s.pending = c :: rest) ∧ (step s = .next t)) ∧
    (∃ (s : State) (t : State), (s.pending = []) ∧ (step s = .next t)) :=
  ⟨⟨(.ping (pkt [])), [], { run with pending := [.ping (pkt [])] }, (after (step { run with pending := [.ping (pkt [])] })), rfl, after_eq (by decide +kernel)⟩,
  ⟨run, (after (step run)), rfl, after_eq (by decide +kernel)⟩⟩

/-! ### Hypotheses of OtpBitsStaySet -/

theorem test_meets_otpBitsStaySet : ∃ (s : State) (t : State), (step s = .next t) :=
  ⟨{ run with pending := [.ping (pkt [])] }, (after (step { run with pending := [.ping (pkt [])] })), after_eq (by decide +kernel)⟩

/-! ### Hypotheses of StopNeedsAPlaceForLinks -/

theorem test_meets_stopNeedsAPlaceForLinks :
    (Reaches 0x101 (fun c b => c.ps.length = 0 ∧ b.is80 = true ∧ dirCfg b = none ∧ b.link.links ≠ [] ∧ stopBusy b = false ∧
      b.power.bodWarn = false)) ∧
    (∃ (w : _), Reaches 0x102 (fun c b => c.ps = [w] ∧ XmemOff w b ∧ b.on dXMEM = true ∧ b.is80 = true ∧ dirCfg b = none ∧
      b.link.links ≠ [] ∧ b.upd.hand = none)) ∧
    (∃ (h : _) (w : _), Reaches 0x102 (fun c b => c.ps = [w] ∧ bitAt w dXMEM = true ∧ b.upd.hand = some h)) ∧
    (∃ (h : Handover) (w : Word) (s : State) (c : Cmd), (s.upd.hand = some h) ∧ (h.domainSets = [(c.port, c.tag, w)]) ∧ (c.code = 0x102) ∧ (c.ps = [w]) ∧ (XmemOff w s) ∧ (s.on dXMEM = true) ∧ (s.is80 = true) ∧ (dirCfg s = none) ∧ (s.link.links ≠ [])) :=
  ⟨reaches [] ({ run with link.links := [{ short := 5, eui := 7 }] }) (by decide +kernel) (by decide +kernel),
  ⟨0x80#32, reaches [0x80#32] ({ run with power.domains := 0xFFF#12, link.links := [{ short := 5, eui := 7 }] }) (by decide +kernel) (⟨by decide +kernel, ⟨by decide, by decide, by decide, by decide, by decide, by decide, fun h => absurd h (by decide)⟩, by decide +kernel, by decide +kernel, by decide +kernel, by decide +kernel, by decide +kernel⟩)⟩,
  ⟨({ phase := .parked, t0 := 0 } : Handover), 0x80#32, reaches [0x80#32] ({ run with upd.hand := some ({ phase := .parked, t0 := 0 } : Handover) }) (by decide +kernel) (by decide +kernel)⟩,
  ⟨({ phase := .parked, t0 := 0, domainSets := [(.spi, 0, 0x80#32)] } : Handover), 0x80#32, { run with link.links := [{ short := 5, eui := 7 }], upd.hand := some { phase := .parked, t0 := 0, domainSets := [(.spi, 0, 0x80#32)] } }, (⟨.spi, 0, 0x102, [0x80#32]⟩ : Cmd), by decide +kernel, by decide +kernel, by decide +kernel, by decide +kernel, ⟨by decide, by decide, by decide, by decide, by decide, by decide, fun h => absurd h (by decide)⟩, by decide +kernel, by decide +kernel, by decide +kernel, by decide +kernel⟩⟩

/-! ### Hypotheses of TickAdvancesNetworkTime -/

theorem test_meets_tickAdvancesNetworkTime :
    (∃ (s : State), (s.pending = []) ∧ (s.time.onLf = false) ∧ (s.time.slew = none)) ∧
    (∃ (s : State), (s.pending = []) ∧ (s.time.onLf = true)) :=
  ⟨⟨run, by decide +kernel, by decide +kernel, by decide +kernel⟩,
  ⟨{ run with time.onLf := true }, by decide +kernel, by decide +kernel⟩⟩

/-! ### Hypotheses of CaptureUnitsKeepTheOldest -/

theorem test_meets_captureUnitsKeepTheOldest :
    (∃ (u : Fin 4) (v : DWord) (s : State), (s.cmps.caps[u].moveDue = false) ∧ 
    let c := s.cmps.caps[u]
    (c.new = false) ∧ (c.frozen = false)) ∧
    (∃ (u : Fin 4) (v : DWord) (s : State), (s.cmps.caps[u].moveDue = false) ∧ 
    let c := s.cmps.caps[u]
    ((c.new = true ∨ c.frozen = true)) ∧ (c.slot = none)) ∧
    (∃ (u : Fin 4) (v : DWord) (s : State), (s.cmps.caps[u].moveDue = false) ∧ 
    let c := s.cmps.caps[u]
    ∃ (w : _), ((c.new = true ∨ c.frozen = true)) ∧ (c.slot = some w)) ∧
    (∃ (u : Fin 4) (s : State), (pageOpen s 0 = true) ∧ ((if u = 0 then s.time.enable else bitAt s.cmps.caps[u].ctrl 0) = true)) ∧
    (∃ (k : Fin 3) (s : State), (bitAt s.cmps.caps[k.val + 1].ctrl 0 = true) ∧ (1 ≤ fld s.cmps.caps[k.val + 1].ctrl 4 2) ∧ (fld s.cmps.caps[k.val + 1].ctrl 4 2 ≤ 4)) :=
  ⟨⟨3, 7, run, by decide +kernel, by decide +kernel, by decide +kernel⟩,
  ⟨3, 7, { run with cmps.caps := run.cmps.caps.set 3 { frozen := true } }, by decide +kernel, by decide +kernel, by decide +kernel⟩,
  ⟨0, 7, { run with cmps.caps := run.cmps.caps.set 0 { new := true, slot := some 5 } }, by decide +kernel, 5, by decide +kernel, by decide +kernel⟩,
  ⟨3, { run with cmps.caps := run.cmps.caps.set 3 { ctrl := 1 } }, by decide +kernel, by decide +kernel⟩,
  ⟨2, { run with cmps.caps := run.cmps.caps.set 3 { ctrl := 0x11 } }, by decide +kernel, by decide +kernel, by decide +kernel⟩⟩

/-! ### Hypotheses of SettingsReadReports -/

theorem test_meets_settingsReadReports :
    (Reaches 0x908 (fun c b => c.ps.length = 1 ∧ (param c.ps 1).toNat < 8 ∧
      (itemBits b.upd.settings).testBit (param c.ps 1).toNat = true)) ∧
    (Reaches 0x908 (fun c b => c.ps.length = 1 ∧ (param c.ps 1).toNat < 8 ∧
      (itemBits b.upd.settings).testBit (param c.ps 1).toNat = false)) ∧
    (∃ (r : _), Reaches 0x908 (fun c b => c.ps.length = 1 ∧ 8 ≤ (param c.ps 1).toNat ∧ (param c.ps 1).toNat < 65536 ∧
      (b.upd.settings.customer.find? fun r => r.1.toNat = (param c.ps 1).toNat) = some r)) ∧
    (Reaches 0x908 (fun c b => c.ps.length = 1 ∧ 8 ≤ (param c.ps 1).toNat ∧ (param c.ps 1).toNat < 65536 ∧
      (b.upd.settings.customer.find? fun r => r.1.toNat = (param c.ps 1).toNat) = none)) ∧
    (Reaches 0x908 (fun c _ => c.ps.length = 1 ∧ 65536 ≤ (param c.ps 1).toNat)) :=
  ⟨reaches [0#32] ({ run with upd.settings := { region := some [] } }) (by decide +kernel) (by decide +kernel),
  reaches [7#32] (run) (by decide +kernel) (by decide +kernel),
  ⟨(0x100#16, 3#16, [1#8]), reaches [0x100#32] ({ run with upd.settings := { customer := [(0x100#16, 3#16, [1#8])] } }) (by decide +kernel) (by decide +kernel)⟩,
  reaches [0xFFFF#32] (run) (by decide +kernel) (by decide +kernel),
  reaches [0x10000#32] (run) (by decide +kernel) (by decide +kernel)⟩

/-! ### Hypotheses of ProtectSetGuardsRegions -/

theorem test_meets_protectSetGuardsRegions :
    (Reaches 0x805 (fun c b =>
      let w := param c.ps 2
      c.ps.length = 2 ∧ (param c.ps 1).toNat < 64 ∧ onlyBits w 0x01FF01FF#32 = true ∧ fld w 8 0 ≤ fld w 24 16 ∧
      fld w 24 16 < 2 * b.bankSectors ∧ (passwordSet b = true → b.flash.unlocked[portIdx c.port] = true) ∧ b.power.bodWarn = false)) ∧
    (Reaches 0x805 (fun c b => c.ps.length = 2 ∧ (64 ≤ (param c.ps 1).toNat ∨ onlyBits (param c.ps 2) 0x01FF01FF#32 = false ∨
      fld (param c.ps 2) 24 16 < fld (param c.ps 2) 8 0 ∨ 2 * b.bankSectors ≤ fld (param c.ps 2) 24 16))) ∧
    (Reaches 0x805 (fun c b =>
      let w := param c.ps 2
      c.ps.length = 2 ∧ (param c.ps 1).toNat < 64 ∧ onlyBits w 0x01FF01FF#32 = true ∧ fld w 8 0 ≤ fld w 24 16 ∧
      fld w 24 16 < 2 * b.bankSectors ∧ passwordSet b = true ∧ b.flash.unlocked[portIdx c.port] = false)) :=
  ⟨reaches [0x3F#32, 0x01EF01EF#32] (run) (by decide +kernel) (by decide +kernel),
  reaches [0x40#32, 0#32] (run) (by decide +kernel) (by decide +kernel),
  reaches [0x3F#32, 0#32] ({ run with flash.otp := [(1, 0x80#32), (32, 1#32)] }) (by decide +kernel) (by decide +kernel)⟩

/-! ### Hypotheses of PhyCodingInverts -/

theorem test_meets_phyCodingInverts : ∃ (a : Nat) (b : Nat), (gray a = gray b) :=
  ⟨3, 3, by decide +kernel⟩

/-! ### Hypotheses of systemCommandsAnswer -/

theorem test_meets_systemCommandsAnswer_1 :
    (Reaches 0x001 (fun c _ => c.ps.length ≤ 1022)) ∧
    (Reaches 0x002 (fun c _ => c.ps.length = 0)) ∧
    (Reaches 0x003 (fun c _ => c.ps.length = 0)) ∧
    (Reaches 0x004 (fun c _ => c.ps = [0])) ∧
    (Reaches 0x004 (fun c _ => c.ps = [1])) :=
  ⟨reaches (List.replicate 1022 0) (run) (by decide +kernel) (by decide +kernel),
  reaches [] (run) (by decide +kernel) (by decide +kernel),
  reaches [] (run) (by decide +kernel) (by decide +kernel),
  reaches [0] (run) (by decide +kernel) (by decide +kernel),
  reaches [1] (run) (by decide +kernel) (by decide +kernel)⟩

theorem test_meets_systemCommandsAnswer_2 :
    (Reaches 0x004 (fun c _ => c.ps = [2])) ∧
    (Reaches 0x005 (fun c b => ∃ g : Nat, g ≤ 4 ∧ (g = 1 → b.is20 = false) ∧ c.ps = [W g])) ∧
    (Reaches 0x005 (fun c b => ∃ g : Nat, g ≤ 4 ∧ (g = 1 → b.is20 = false) ∧ c.ps = [W (g + 8)])) ∧
    (Reaches 0x006 (fun c _ => c.ps.length = 9 ∧ maskOf c.ps &&& ~~~definedEvents = 0#256 ∧ param c.ps 9 ≤ 1#32)) ∧
    (Reaches 0x007 (fun c _ => c.ps.length = 0)) :=
  ⟨reaches [2] (run) (by decide +kernel) (by decide +kernel),
  reaches [W 4] (run) (by decide +kernel) (⟨4, by decide⟩),
  reaches [W 12] (run) (by decide +kernel) (⟨4, by decide⟩),
  reaches [0, 0, 0, 0, 0, 0, 0, 0, 1] (run) (by decide +kernel) (by decide +kernel),
  reaches [] (run) (by decide +kernel) (by decide +kernel)⟩

/-! ### Hypotheses of powerCommandsAnswer -/

theorem test_meets_powerCommandsAnswer_1 :
    (Reaches 0x101 (fun c b => c.ps.length = 0 ∧ stopBusy b = false ∧ b.power.bodWarn = false ∧ noKeeping b = false ∧
      canWake b = true)) ∧
    (Reaches 0x102 (fun c b => c.ps.length = 1 ∧ b.upd.hand ≠ none ∧
      (bitAt (param c.ps 1) dXMEM = true ∨ (bitAt (param c.ps 1) dRFFE = true ∧ bitAt (param c.ps 1) 12 = true)))) ∧
    (Reaches 0x102 (fun c b => c.ps.length = 1 ∧ b.upd.hand = none ∧ onlyBits (param c.ps 1) 0x1FFE#32 = true ∧ bitAt (param c.ps 1) 12 = true ∧
      (param c.ps 1).setWidth 12 ≠ 0#12 ∧ (param c.ps 1).setWidth 12 &&& ~~~b.present = 0#12 ∧
      closed (b.power.domains ||| (param c.ps 1).setWidth 12) = true ∧ (bitAt (param c.ps 1) dBLVD = true → b.power.lp = false))) ∧
    (Reaches 0x102 (fun c b => c.ps.length = 1 ∧ b.upd.hand = none ∧ onlyBits (param c.ps 1) 0xFF2#32 = true ∧
      (param c.ps 1).setWidth 12 ≠ 0#12 ∧ (bitAt (param c.ps 1) dAPP = true → b.flash.hostApp = false) ∧
      closed (b.power.domains &&& ~~~(param c.ps 1).setWidth 12) = true ∧
      ∀ n < 12, ((param c.ps 1).setWidth 12 &&& b.power.domains).getLsbD n = true →
        domainBusy n b = false ∧ ∀ ch, dmaUses b n ch = false)) ∧
    (Reaches 0x103 (fun c _ => c.ps.length = 2 ∧ onlyBits (param c.ps 1) 0x3FFF#32 = true ∧
      onlyBits (param c.ps 2) 0xFFFF#32 = true)) ∧
    (Reaches 0x104 (fun c _ => c.ps.length = 0)) :=
  ⟨reaches [] ({ run with power.wakeArm := 0x800#14 }) (by decide +kernel) (by decide +kernel),
  reaches [0x80#32] ({ run with upd.hand := some ({ phase := .parked, t0 := 0 } : Handover) }) (by decide +kernel) (by decide +kernel),
  reaches [0x1FFE#32] (run) (by decide +kernel) (by decide +kernel),
  reaches [0x100#32] ({ run with power.domains := 0x1FF#12 }) (by decide +kernel) (by decide +kernel),
  reaches [0x3FFF#32, 0xFFFF#32] (run) (by decide +kernel) (by decide +kernel),
  reaches [] (run) (by decide +kernel) (by decide +kernel)⟩

theorem test_meets_powerCommandsAnswer_2 :
    (Reaches 0x105 (fun c b => c.ps.length = 2 ∧ b.isUsable dPERI = false ∧
      ∀ k ∈ allPins, (mk64 (param c.ps 1) (param c.ps 2)).getLsbD k = true → pinPresent b k.val = true)) ∧
    (Reaches 0x105 (fun c b => c.ps.length = 2 ∧ b.isUsable dPERI = true ∧
      ∀ k ∈ allPins, (mk64 (param c.ps 1) (param c.ps 2)).getLsbD k = true → pinPresent b k.val = true)) ∧
    (Reaches 0x106 (fun c b => c.ps = [W (b2n b.power.lp)] ∧ b.power.oppWait = none)) ∧
    (Reaches 0x106 (fun c b => c.ps = [W (b2n !b.power.lp)] ∧ b.power.oppWait = none ∧ (b.power.lp = false → b.on dBLVD = false))) ∧
    (Reaches 0x107 (fun c _ => c.ps.length = 1 ∧ (param c.ps 1).toNat ≤ 16)) ∧
    (Reaches 0x108 (fun c b => c.ps.length = 1 ∧ onlyBits (param c.ps 1) 0xFFFF#32 = true ∧
      (param c.ps 1).setWidth 16 &&& ~~~b.bankMask = 0#16)) :=
  ⟨reaches [0xFFFFFFFF#32, 0xFFFFFFFF#32] ({ run with power.usable := 0xFDF#12 }) (by decide +kernel) (by decide +kernel),
  reaches [0xFFFFFFFF#32, 0xFFFFFFFF#32] (run) (by decide +kernel) (by decide +kernel),
  reaches [0#32] (run) (by decide +kernel) (by decide +kernel),
  reaches [1#32] ({ run with power.domains := 0xBFF#12 }) (by decide +kernel) (by decide +kernel),
  reaches [16#32] (run) (by decide +kernel) (by decide +kernel),
  reaches [0xFFFF#32] (run) (by decide +kernel) (by decide +kernel)⟩

/-! ### Hypotheses of TimeCommandsAnswer -/

theorem test_meets_timeCommandsAnswer_1 :
    (Reaches 0x201 (fun c b => c.ps.length = 3 ∧ param c.ps 3 = 0#32 ∧ anyArmed b = false ∧ b.time.setPending = none)) ∧
    (Reaches 0x201 (fun c b => c.ps.length = 3 ∧ param c.ps 3 = 1#32 ∧ param c.ps 2 = 0#32 ∧ anyArmed b = false ∧
      b.time.enable = true ∧ b.time.setPending = none)) ∧
    (Reaches 0x202 (fun c _ => c.ps.length = 0)) :=
  ⟨reaches [1, 2, 0] (run) (by decide +kernel) (by decide +kernel),
  reaches [1, 0, 1] ({ run with time.enable := true }) (by decide +kernel) (by decide +kernel),
  reaches [] (run) (by decide +kernel) (by decide +kernel)⟩

theorem test_meets_timeCommandsAnswer_2 :
    (Reaches 0x203 (fun c _ => c.ps.length = 2 ∧ onlyBits (param c.ps 1) 0x001F1F0F#32 = true ∧
      onlyBits (param c.ps 2) 0xFFFF#32 = true ∧ (bitAt (param c.ps 1) 3 = true → fld (param c.ps 2) 15 0 ≠ 0))) ∧
    (Reaches 0x204 (fun c _ => c.ps.length = 0)) ∧
    (Reaches 0x205 (fun c b => c.ps.length = 2 ∧ 1 ≤ (param c.ps 2).toNat ∧ (param c.ps 2).toNat ≤ 200 ∧ b.time.servo = false)) ∧
    (Reaches 0x206 (fun c b => c.ps.length = 3 ∧ (param c.ps 3 = 1#32 ∨ param c.ps 3 = 0#32 ∧ anyArmed b = false))) :=
  ⟨reaches [0x001F1F0F#32, 1#32] (run) (by decide +kernel) (by decide +kernel),
  reaches [] (run) (by decide +kernel) (by decide +kernel),
  reaches [5, 200] (run) (by decide +kernel) (by decide +kernel),
  reaches [5, 0, 0] (run) (by decide +kernel) (by decide +kernel)⟩

/-! ### Hypotheses of RadioCommandsAnswer -/

theorem test_meets_radioCommandsAnswer_1 :
    (∃ (r : _), Reaches 0x301 (fun c _ => c.ps.length = 5 ∧ rfOf c.ps = some r)) ∧
    (Reaches 0x302 (fun c b => c.ps.length = 2 ∧ b.isUsable dRFFE = true ∧ 1 ≤ (param c.ps 1).toNat ∧ (param c.ps 1).toNat ≤ 15 ∧
      1 ≤ (param c.ps 2).toNat ∧ (param c.ps 2).toNat ≤ 65535 ∧ b.radio.cal.calRun = none ∧ canAccept c.port b = true)) ∧
    (∃ (k : Fin 4), Reaches 0x303 (fun c b => c.ps = [W k.val] ∧ b.radio.cal.results[k].valid = true)) ∧
    (∃ (k : Fin 4), Reaches 0x303 (fun c b => c.ps = [W k.val] ∧ b.radio.cal.results[k].valid = false)) :=
  ⟨⟨(rfOf [0x8000#32, 0, 0, 20, 0x3C05#32]).getD {}, reaches [0x8000#32, 0, 0, 20, 0x3C05#32] (run) (by decide +kernel) (by decide +kernel)⟩,
  reaches [15, 65535] (run) (by decide +kernel) (by decide +kernel),
  ⟨3, reaches [W 3] ({ run with radio.cal.results := (Vector.replicate 4 {}).set 3 { valid := true } }) (by decide +kernel) (by decide +kernel)⟩,
  ⟨3, reaches [W 3] (run) (by decide +kernel) (by decide +kernel)⟩⟩

theorem test_meets_radioCommandsAnswer_2 :
    (Reaches 0x304 (fun c b => (c.ps.length = if bitAt (param c.ps 1) 24 then 25 else 1) ∧
      onlyBits (param c.ps 1) 0x011F0F1F#32 = true ∧ 2 ≤ fld (param c.ps 1) 4 0 ∧ fld (param c.ps 1) 4 0 ≤ 16 ∧
      fld (param c.ps 1) 11 8 ≤ 8 ∧ fld (param c.ps 1) 20 16 ≤ 16 ∧ turnsOk b.radio.fem (fld (param c.ps 1) 4 0) = true ∧
      txInFlight b = false ∧ b.link.ackOnAir = none)) ∧
    (∃ (f : _), Reaches 0x305 (fun c b => fld (param c.ps 1) 2 0 < 4 ∧ c.ps.length = 1 + fld (param c.ps 1) 11 8 ∧
      femOf c.ps b.radio.fem (rampUs b) = some f ∧ (b.radio.mode = .off ∨ b.radio.mode = .idle))) ∧
    (∃ (f : _), Reaches 0x305 (fun c b => fld (param c.ps 1) 2 0 = 4 ∧ c.ps.length = 2 ∧
      femOf c.ps b.radio.fem (rampUs b) = some f ∧ (b.radio.mode = .off ∨ b.radio.mode = .idle))) ∧
    (∃ (r : _), Reaches 0x306 (fun c b => c.ps.length = 1 + 3 * fld (param c.ps 1) 4 0 + 2 * fld (param c.ps 1) 11 8 ∧
      regionOf c.ps = some r ∧ b.link.frames = [])) :=
  ⟨reaches [0x08#32] (run) (by decide +kernel) (by decide +kernel),
  ⟨(femOf [0x100#32, 0#32] {} 8).getD {}, reaches [0x100#32, 0#32] (run) (by decide +kernel) (by decide +kernel)⟩,
  ⟨(femOf [4#32, 0x3F3F3F#32] {} 8).getD {}, reaches [4#32, 0x3F3F3F#32] (run) (by decide +kernel) (by decide +kernel)⟩,
  ⟨(regionOf [0x00010001#32, 868000000, 870000000, 0x0000081E#32]).getD ⟨0, [], []⟩, reaches [0x00010001#32, 868000000, 870000000, 0x0000081E#32] (run) (by decide +kernel) (by decide +kernel)⟩⟩

/-! ### Hypotheses of profileAndReceptionCommandsAnswer -/

theorem test_meets_profileAndReceptionCommandsAnswer_1 :
    (∃ (r : _), Reaches 0x401 (fun c b => c.ps.length = 3 ∧
      profileOf b.phy.profiles[Fin.ofNat 16 (fld (param c.ps 1) 3 0)] (param c.ps 1) (param c.ps 2) (param c.ps 3) = some r ∧
      profileInUse b (Fin.ofNat 16 (fld (param c.ps 1) 3 0)) = false)) ∧
    (∃ (maps : _) (id : _), Reaches 0x407 (fun c b => 2 ≤ c.ps.length ∧ c.ps.length = 2 + 9 * fld (param c.ps 1) 20 16 ∧
      loadMaps c.ps b.phy.maps = some (maps, id) ∧ b.power.bodWarn = false)) ∧
    (Reaches 0x404 (fun c b => c.ps.length = 1 ∧ onlyBits (param c.ps 1) 0x7E#32 = true ∧
      (∀ d ∈ [dRFFE, dCRYPTO, dXMEM, dALLEY], b.isUsable d = true) ∧
      (b.phy.profiles[Fin.ofNat 16 (fld (param c.ps 1) 4 1)].ofdm = true → b.isUsable dOFDM = true) ∧
      (b.phy.profiles[Fin.ofNat 16 (fld (param c.ps 1) 4 1)].ofdm && bitAt (param c.ps 1) 5) = false ∧
      b.rx.alley = none ∧ (∀ plan, b.rx.plan = some plan → b.rx.blvd = none ∨
        alleyFits b.phy.profiles[Fin.ofNat 16 (fld (param c.ps 1) 4 1)] plan = true))) ∧
    (∃ (plan : _), Reaches 0x404 (fun c b => (c.ps = [1] ∨ c.ps = [0x41]) ∧
      (∀ d ∈ [dRFFE, dCRYPTO, dXMEM, dBLVD], b.isUsable d = true) ∧
      (∀ width grid, PlanEntry.ofdm width grid ∈ plan.entries → b.isUsable dOFDM = true) ∧ b.rx.plan = some plan ∧
      b.rx.blvd = none ∧ (∀ a, b.rx.alley = some a → alleyFits b.phy.profiles[a.profile] plan = true))) :=
  ⟨⟨(profileOf {} 0#32 869525000#32 0x00410A59#32).getD {}, reaches [0#32, 869525000, 0x00410A59#32] (run) (by decide +kernel) (by decide +kernel)⟩,
  ⟨[], 1#16, reaches [0x00000002#32, 0x00010001#32] (run) (by decide +kernel) (by decide +kernel)⟩,
  reaches [0] (run) (by decide +kernel) (⟨by decide +kernel, by decide +kernel, by decide +kernel, by decide +kernel, by decide +kernel, by decide +kernel, fun _ h => nomatch h⟩),
  ⟨({ entries := [.chirp 0 1 false 0 0], capture := false, cancelMin := 1, cancelMax := 10, captureDb := 0, centre := 868000000, detThresh := 24, gain := 0, gainFixed := false } : Plan), reaches [1] ({ run with rx := { plan := some ({ entries := [.chirp 0 1 false 0 0], capture := false, cancelMin := 1, cancelMax := 10, captureDb := 0, centre := 868000000, detThresh := 24, gain := 0, gainFixed := false } : Plan) } }) (by decide +kernel) (⟨by decide +kernel, by decide +kernel, fun _ _ h => by simp at h, rfl, rfl, fun _ h => nomatch h⟩)⟩⟩

theorem test_meets_profileAndReceptionCommandsAnswer_2 :
    (∃ (boulevard drain : Bool) (r : _), 
    let out (id : CtxId) (x : Context) : Bool := isBlvd id = boulevard && (x.provisional || (!drain && x.st = .committed))
    
    let left (b : State) := allCtxs.countP fun id => isBlvd id = boulevard && (ctxOf id (releaseWhere out .stopped b)).st = .committed
    
    let pre (c : Cmd) (b : State) : Prop := c.ps = [W (b2n boulevard + b2n drain * 2)] ∧ pathReception boulevard b = some r ∧
      r.byLink = false ∧ r.draining = none
    Reaches 0x405 (fun c b => pre c b ∧ left b = 0)) ∧
    (∃ (boulevard drain : Bool) (r : _), 
    let out (id : CtxId) (x : Context) : Bool := isBlvd id = boulevard && (x.provisional || (!drain && x.st = .committed))
    
    let left (b : State) := allCtxs.countP fun id => isBlvd id = boulevard && (ctxOf id (releaseWhere out .stopped b)).st = .committed
    
    let pre (c : Cmd) (b : State) : Prop := c.ps = [W (b2n boulevard + b2n drain * 2)] ∧ pathReception boulevard b = some r ∧
      r.byLink = false ∧ r.draining = none
    Reaches 0x405 (fun c b => pre c b ∧ left b ≠ 0)) ∧
    (∃ (plan : _), Reaches 0x406 (fun c b => c.ps.length = 3 + 2 * fld (param c.ps 1) 4 0 ∧ b.isUsable dBLVD = true ∧
      planOf c.ps b = some plan ∧ b.rx.blvd = none)) ∧
    (∃ (i : Fin 5), Reaches 0x40A (fun c b => c.ps = [W (i.val + 1)] ∧ (b.port c.port).lanes[i].cursor = 0)) ∧
    (∃ (i : Fin 5), Reaches 0x40A (fun c b => c.ps = [W (i.val + 1)] ∧ (b.port c.port).lanes[i].cursor ≠ 0)) :=
  ⟨⟨false, false, ({ port := .spi, profile := 0, anyNet := false, monitor := false } : Reception), reaches [0] ({ run with rx := { alley := some ({ port := .spi, profile := 0, anyNet := false, monitor := false } : Reception) } }) (by decide +kernel) (by decide +kernel)⟩,
  ⟨false, true, ({ port := .spi, profile := 0, anyNet := false, monitor := false } : Reception), reaches [2] ({ run with rx := { alley := some ({ port := .spi, profile := 0, anyNet := false, monitor := false } : Reception), alleyCtx := { st := .committed } } }) (by decide +kernel) (by decide +kernel)⟩,
  ⟨(planOf [0x000A1001#32, 868000000#32, 24#32, 0x1008#32, 0#32] run).getD ({ entries := [.chirp 0 1 false 0 0], capture := false, cancelMin := 1, cancelMax := 10, captureDb := 0, centre := 868000000, detThresh := 24, gain := 0, gainFixed := false } : Plan), reaches [0x000A1001#32, 868000000#32, 24#32, 0x1008#32, 0#32] (run) (by decide +kernel) (by decide +kernel)⟩,
  ⟨0, reaches [1] (run) (by decide +kernel) (by decide +kernel)⟩,
  ⟨4, reaches [5] ({ run with plaza.ports := State.reset.plaza.ports.set 0 { mask := 0, lanes := (Vector.replicate 5 {}).set 4 { cursor := 1 } } }) (by decide +kernel) (by decide +kernel)⟩⟩

/-! ### Hypotheses of transmitCommandsAnswer -/

theorem test_meets_transmitCommandsAnswer :
    (∃ (region : _) (e : _), Reaches 0x402 (fun c b =>
      let f := submittedFrame c 0 (0, 0) b
      let found := txDestination c b
      let frame := submittedFrame c 0 e.id found.2
      8 ≤ c.ps.length ∧ c.ps.length = 8 + (fld (param c.ps 4) 10 0 + 3) / 4 ∧ radioDomains (profileFor f b) b = true ∧
      b.radio.region = some region ∧ b.lifecycle ≠ .retired ∧ submitBad c f b = false ∧
      (admitBand region (profileFor f b)).isSome = true ∧
      ((profileFor f b).ofdm = true → notchOk region (profileFor f b) = true) ∧
      found.1 = .entry e ∧ e.deleting = none ∧ e.outCtr.toNat + e.reserved + 1 < 0xFFFFFFFF ∧
      found.2.link.frames.length < 128 ∧ trafficRefusal frame found.2 = none ∧ canAccept c.port found.2 = true)) ∧
    (∃ (f : _), Reaches 0x403 (fun c b => c.ps.length = 1 ∧ (param c.ps 1).toNat < 65536 ∧
      (b.link.frames.find? fun g => g.kind = .data && g.port = c.port && g.handle = (param c.ps 1).setWidth 16) = some f ∧
      (f.stage = .queued ∨ f.stage = .backOff))) ∧
    (∃ (f : _), Reaches 0x403 (fun c b => c.ps.length = 1 ∧ (param c.ps 1).toNat < 65536 ∧
      (b.link.frames.find? fun g => g.kind = .data && g.port = c.port && g.handle = (param c.ps 1).setWidth 16) = some f ∧
      f.stage ≠ .queued ∧ f.stage ≠ .backOff)) :=
  ⟨⟨(⟨1, [⟨868000000, 870000000, 28, 0xF#4, 0⟩], []⟩ : Region), entry5, reaches [0x00010200, 5, 0, 0x01000004, 0, 0, 0, 0, 0x04030201] ({ linked [entry5] with radio.region := some (⟨1, [⟨868000000, 870000000, 28, 0xF#4, 0⟩], []⟩ : Region) }) (by decide +kernel) (by decide +kernel)⟩,
  ⟨({ fid := 0, kind := .data, handle := 3, queue := 0, profile := 0, stage := .backOff } : TxFrame), reaches [3] ({ run with link.frames := [({ fid := 0, kind := .data, handle := 3, queue := 0, profile := 0, stage := .backOff } : TxFrame)] }) (by decide +kernel) (by decide +kernel)⟩,
  ⟨({ fid := 0, kind := .data, handle := 3, queue := 0, profile := 0, stage := .onAir } : TxFrame), reaches [3] ({ run with link.frames := [({ fid := 0, kind := .data, handle := 3, queue := 0, profile := 0, stage := .onAir } : TxFrame)] }) (by decide +kernel) (by decide +kernel)⟩⟩

/-! ### Hypotheses of linkTableCommandsAnswer -/

theorem test_meets_linkTableCommandsAnswer :
    (∃ (key : _), Reaches 0x501 (fun c b => linkAddMay c b key ∧ bitAt (param c.ps 1) 25 = false ∧
      (placeLink (addedEntry c none key (linkAddMeets c b)) (linkAddMeets c b)).1 = true)) ∧
    (∃ (key : _) (old : _), Reaches 0x501 (fun c b => linkAddMay c b key ∧ linkAddReplaces c b = some old)) ∧
    (∃ (e : _), Reaches 0x502 (fun c b => c.ps.length = 3 ∧ tableOn b = true ∧ selectorOk 0x03FFFFFF#32 c.ps = true ∧
      (selectEntry c.ps b).1 = .entry e ∧ e.deleting = none ∧
      ((selectEntry c.ps b).2.link.frames.any fun f => f.link = some e.id) = false)) ∧
    (∃ (e : _), Reaches 0x502 (fun c b => c.ps.length = 3 ∧ tableOn b = true ∧ selectorOk 0x03FFFFFF#32 c.ps = true ∧
      (selectEntry c.ps b).1 = .entry e ∧ e.deleting = none ∧ bitAt (param c.ps 1) 25 = true ∧
      ((selectEntry c.ps b).2.link.frames.any fun f => f.link = some e.id) = true)) ∧
    (∃ (e : _), Reaches 0x503 (fun c b => c.ps.length = 3 ∧ tableOn b = true ∧ selectorOk 0x01FFFFFF#32 c.ps = true ∧
      (if bitAt (param c.ps 1) 24 then linkByEui (mk64 (param c.ps 2) (param c.ps 3)) b
        else linkByShort (BitVec.ofNat 24 (fld (param c.ps 1) 23 0)) b) = some e)) ∧
    (∃ (d : _), Reaches 0x503 (fun c b =>
      let a : BitVec 24 := BitVec.ofNat 24 (fld (param c.ps 1) 23 0)
      c.ps.length = 3 ∧ tableOn b = true ∧ selectorOk 0x01FFFFFF#32 c.ps = true ∧ bitAt (param c.ps 1) 24 = false ∧
      linkByShort a b = none ∧ dirCfg b = some d ∧ a ≠ groupShort ∧ a ≠ noShort ∧ a ≠ 0#24 ∧ a.toNat ≤ b.dir.highWater)) :=
  ⟨⟨0x00112233445566778899AABBCCDDEEFF00000000000000000000000000000000#256, reaches ([5, 7, 0, 0x3FF, 1, 1, 1, 4] ++ wrapped) (keyed 4 kek) (by decide +kernel) (⟨may_of _ _ _ kek (bytesOfBE 16 0x00112233445566778899AABBCCDDEEFF) (by decide +kernel) (by decide +kernel) wrapped (by decide +kernel) test_key_unwrap_rfc3394 (by decide +kernel) (by decide +kernel) (by decide +kernel), by decide +kernel, by decide +kernel⟩)⟩,
  ⟨0x00112233445566778899AABBCCDDEEFF00000000000000000000000000000000#256, entry5, reaches ([0x02000005, 7, 0, 0x3FF, 1, 1, 1, 4] ++ wrapped) ({ keyed 4 kek with link.links := [entry5] }) (by decide +kernel) (⟨may_of _ _ _ kek (bytesOfBE 16 0x00112233445566778899AABBCCDDEEFF) (by decide +kernel) (by decide +kernel) wrapped (by decide +kernel) test_key_unwrap_rfc3394 (by decide +kernel) (by decide +kernel) (by decide +kernel), by decide +kernel⟩)⟩,
  ⟨entry5, reaches [5, 0, 0] (linked [entry5]) (by decide +kernel) (by decide +kernel)⟩,
  ⟨entry5, reaches [0x02000005, 0, 0] ({ linked [entry5] with link.frames := [{ fid := 0, kind := .data, queue := 0, profile := 0, link := some (5, 7) }] }) (by decide +kernel) (by decide +kernel)⟩,
  ⟨entry5, reaches [0x01000000, 7, 0] (linked [entry5]) (by decide +kernel) (by decide +kernel)⟩,
  ⟨({ enable := true, volatile := false, dual := false, log2cap := 14, ext := false, base := 0, clkMhz := 100, dummy := 3 } : DirConfig), reaches [5, 0, 0] ({ run with dir.cfg := some ({ enable := true, volatile := false, dual := false, log2cap := 14, ext := false, base := 0, clkMhz := 100, dummy := 3 } : DirConfig), dir.highWater := 5 }) (by decide +kernel) (by decide +kernel)⟩⟩

/-! ### Hypotheses of networkCommandsAnswer -/

theorem test_meets_networkCommandsAnswer_1 :
    (Reaches 0x504 (fun c b =>
      c.ps.length = (if bitAt (param c.ps 1) 3 then 1 else 19) ∧ b.is80 = true ∧ b.isUsable dCRYPTO = true ∧ b.sec.ready = true ∧
      b.rdv.joins[(Fin.ofNat 8 (fld (param c.ps 1) 2 0) : Fin 8)] ≠ none)) ∧
    (∃ (p : _) (k : _), WorkReaches 0x504 (fun c b =>
      let i : Fin 8 := Fin.ofNat 8 (fld (param c.ps 1) 2 0)
      bitAt (param c.ps 1) 3 = true ∧ onlyBits (param c.ps 1) 0x1F#32 = true ∧ b.is80 = true ∧
      b.isUsable dCRYPTO = true ∧ tableOn b = true ∧ b.power.bodWarn = false ∧ b.rdv.joins[i] = some p ∧
      slotRefusal b.rdv.cfg.joinSignSlot.val 4 [.p256] b = none ∧ usableSlot b.rdv.cfg.joinSignSlot.val b = some k)) ∧
    (∃ (p : _) (k : _) (a : _) (old : _), WorkReaches 0x504 (fun c b =>
      let i : Fin 8 := Fin.ofNat 8 (fld (param c.ps 1) 2 0)
      let node := pair256 (c.ps.drop 3)
      onlyBits (param c.ps 1) 0x17#32 = true ∧ onlyBits (param c.ps 2) 0xFFFFFF#32 = true ∧
      onlyBits (param c.ps 3) 0xFFFF#32 = true ∧ onCurve node.1.toNat node.2.toNat = true ∧ b.is80 = true ∧
      b.isUsable dCRYPTO = true ∧ tableOn b = true ∧ b.power.bodWarn = false ∧ b.rdv.joins[i] = some p ∧
      slotRefusal b.rdv.cfg.joinSignSlot.val 4 [.p256] b = none ∧ usableSlot b.rdv.cfg.joinSignSlot.val b = some k ∧
      verifies node (sha256 (p.request.take 72 ++ bytesOfBE 8 b.eui.toNat)) (pairBytes (p.request.drop 72)).1
        (pairBytes (p.request.drop 72)).2 = true ∧
      onCurve (pairBytes (p.request.drop 4)).1.toNat (pairBytes (p.request.drop 4)).2.toNat = true ∧
      (joinAddress c p b).1 = .ok (a, old) ∧ b.sec.trngOk = true)) ∧
    (∃ (d : _), Reaches 0x505 (fun c b => c.ps.length = 3 ∧ b.is80 = true ∧ tableOn b = true ∧ dirConfigOf c.ps = some d ∧
      receptionInForce b = false ∧ b.dir.snapshot = none ∧ dirConfigBlocked (bitAt (param c.ps 1) 1) d b = false)) :=
  ⟨reaches [0xF] ({ keyed 4 priv with rdv := { run.rdv with joins := run.rdv.joins.set 7 (some ({ eui := 7, request := List.replicate 136 0, rssi := 0, since := 0 } : JoinPlace)), cfg := { run.rdv.cfg with joinSignSlot := 4 } } }) (by decide +kernel) (by decide +kernel),
  ⟨({ eui := 7, request := List.replicate 136 0, rssi := 0, since := 0 } : JoinPlace), priv, workReaches [0xF] ({ keyed 4 priv with rdv := { run.rdv with joins := run.rdv.joins.set 7 (some ({ eui := 7, request := List.replicate 136 0, rssi := 0, since := 0 } : JoinPlace)), cfg := { run.rdv.cfg with joinSignSlot := 4 } } }) (by decide +kernel)⟩,
  ⟨({ eui := 7, request := ((bytesOfBE 72 0x6b17d1f2e12c4247f8bce6e563a440f277037d812deb33a0f4a13945d898c2964fe342e2fe1a7f9b8ee7eb4a7c0f9e162bce33576b315ececbb6406837bf51f500000000) ++ bytesOfBE 32 baseX.toNat ++ bytesOfBE 32 0x58a54efe0844b0788be5b4f761fb08d170990bea74609fc87bdfe8588c73f752), rssi := 0, since := 0 } : JoinPlace), priv, 1, none, workReaches ([7, 0, 0] ++ wordsX ++ wordsY) ({ keyed 4 priv with rdv := { run.rdv with joins := run.rdv.joins.set 7 (some ({ eui := 7, request := ((bytesOfBE 72 0x6b17d1f2e12c4247f8bce6e563a440f277037d812deb33a0f4a13945d898c2964fe342e2fe1a7f9b8ee7eb4a7c0f9e162bce33576b315ececbb6406837bf51f500000000) ++ bytesOfBE 32 baseX.toNat ++ bytesOfBE 32 0x58a54efe0844b0788be5b4f761fb08d170990bea74609fc87bdfe8588c73f752), rssi := 0, since := 0 } : JoinPlace)), cfg := { run.rdv.cfg with joinSignSlot := 4 } }, dir.cfg := some ({ enable := true, volatile := false, dual := false, log2cap := 14, ext := false, base := 0, clkMhz := 100, dummy := 3 } : DirConfig) }) (by decide +kernel)⟩,
  ⟨(dirConfigOf [0x0E1, 0, 0x364]).getD ({ enable := true, volatile := false, dual := false, log2cap := 14, ext := false, base := 0, clkMhz := 100, dummy := 3 } : DirConfig), reaches [0x0E1, 0, 0x364] (run) (by decide +kernel) (by decide +kernel)⟩⟩

theorem test_meets_networkCommandsAnswer_2 :
    (∃ (d : _), Reaches 0x506 (fun c b =>
      let restore := bitAt (param c.ps 1) 0
      let num := fld (param c.ps 3) 12 0
      c.ps.length = 3 + (if restore then (if d.ext then 32 else 16) * num else 0) ∧ b.is80 = true ∧ tableOn b = true ∧
      dirCfg b = some d ∧ b.dir.snapshot = none ∧ onlyBits (param c.ps 1) 1#32 = true ∧ onlyBits (param c.ps 2) 0xFFFFFF#32 = true ∧
      onlyBits (param c.ps 3) 0x1FFF#32 = true ∧ 1 ≤ num ∧ num ≤ (if restore then (if d.ext then 31 else 63) else 4096) ∧
      1 ≤ fld (param c.ps 2) 23 0 ∧ fld (param c.ps 2) 23 0 + num ≤ b.dir.highWater + 1)) ∧
    (∃ (e : _), Reaches 0x507 (fun c b =>
      let a : BitVec 24 := BitVec.ofNat 24 (fld (param c.ps 1) 23 0)
      let found := selectEntry [param c.ps 1 &&& 0xFFFFFF#32, 0, 0] b
      c.ps.length = 6 ∧ tableOn b = true ∧ rdvSetBad c.ps = false ∧ (bitAt (param c.ps 1) 24 = true → b.is20 = false) ∧
      found.1 = .entry e ∧ ((rdvOf a found.2).isSome = true ∨ found.2.rdv.rdvs.length < rdvCapacity b) ∧
      ((dirCfg found.2).isNone = true ∨ pinned found.2 e = true ∨ pinnedCount found.2 < 15360))) ∧
    (∃ (all : Bool), Reaches 0x508 (fun c _ => c.ps.length = 1 ∧ onlyBits (param c.ps 1) 0x01FFFFFF#32 = true ∧ bitAt (param c.ps 1) 24 = all)) ∧
    (Reaches 0x509 (fun c b => (c.ps.length = if bitAt (param c.ps 1) 3 then 23 else 6) ∧ beaconBad c.ps = false ∧
      (bitAt (param c.ps 1) 2 = true → 4 ≤ fld (param c.ps 1) 17 13 ∧ b.is80 = true))) :=
  ⟨⟨({ enable := true, volatile := false, dual := false, log2cap := 14, ext := false, base := 0, clkMhz := 100, dummy := 3 } : DirConfig), reaches [0, 1, 4] ({ run with dir.cfg := some ({ enable := true, volatile := false, dual := false, log2cap := 14, ext := false, base := 0, clkMhz := 100, dummy := 3 } : DirConfig), dir.highWater := 9 }) (by decide +kernel) (by decide +kernel)⟩,
  ⟨entry5, reaches [0x02000005, 0, 1, 0, 0, 0x000103E8] (linked [entry5]) (by decide +kernel) (by decide +kernel)⟩,
  ⟨true, reaches [0x01000000] (run) (by decide +kernel) (by decide +kernel)⟩,
  reaches [0x00400002, 1000, 0, 0x01000000, 0x00010064, 0] (run) (by decide +kernel) (by decide +kernel)⟩

/-! ### Hypotheses of TrafficCommandsAnswer -/

theorem test_meets_trafficCommandsAnswer_1 :
    (Reaches 0x601 (fun c b =>
      let w := param c.ps 1
      let q : Fin 32 := Fin.ofNat 32 (fld w 4 0)
      c.ps.length = 1 ∧ onlyBits w 0x07F7FFFF#32 = true ∧ fld w 15 8 ≠ 0 ∧ fld w 17 16 ≠ 3 ∧
      ((queueFrames q b).length = 0 ∨ b.traffic.queues[q].cls = Fin.ofNat 8 (fld w 7 5) ∧
        (fld w 26 20 = 0 ∨ (queueFrames q b).length ≤ fld w 26 20)))) ∧
    (∃ (m : _), Reaches 0x602 (fun c _ => c.ps.length = 6 ∧ onlyBits (param c.ps 1) 0x00FF0003#32 = true ∧
      bitAt (param c.ps 1) 0 = true ∧ param c.ps 2 = 0#32 ∧ fld (param c.ps 1) 23 16 ≠ 0 ∧ meterOf (param c.ps 1) c.ps = some m)) ∧
    (∃ (any : Bool) (bound : Option (Fin 256 × TxMeter)), 
    let dst (c : Cmd) : Option (BitVec 24) := if any then none else some ((param c.ps 2).setWidth 24)
    
    let cls (c : Cmd) : Fin 8 := Fin.ofNat 8 (fld (param c.ps 1) 10 8)
    
    let pre (del : Bool) (c : Cmd) (b : State) : Prop :=
      onlyBits (param c.ps 1) 0x00000F06#32 = true ∧ onlyBits (param c.ps 2) 0xFFFFFF#32 = true ∧
      (any = true → param c.ps 2 = 0#32) ∧ bitAt (param c.ps 1) 11 = any ∧ bitAt (param c.ps 1) 2 = del ∧
      (b.traffic.meters.find? fun m => m.2.cls = cls c && m.2.dst = dst c) = bound
    ∃ (o : _), (bound = some o) ∧ Reaches 0x602 (fun c b => c.ps.length = 2 ∧ pre true c b)) ∧
    (∃ (any : Bool) (bound : Option (Fin 256 × TxMeter)), 
    let dst (c : Cmd) : Option (BitVec 24) := if any then none else some ((param c.ps 2).setWidth 24)
    
    let cls (c : Cmd) : Fin 8 := Fin.ofNat 8 (fld (param c.ps 1) 10 8)
    
    let pre (del : Bool) (c : Cmd) (b : State) : Prop :=
      onlyBits (param c.ps 1) 0x00000F06#32 = true ∧ onlyBits (param c.ps 2) 0xFFFFFF#32 = true ∧
      (any = true → param c.ps 2 = 0#32) ∧ bitAt (param c.ps 1) 11 = any ∧ bitAt (param c.ps 1) 2 = del ∧
      (b.traffic.meters.find? fun m => m.2.cls = cls c && m.2.dst = dst c) = bound
    ∃ (o : _) (m : _), (bound = some o) ∧ Reaches 0x602 (fun c b => c.ps.length = 6 ∧ pre false c b ∧ meterOf (param c.ps 1) c.ps = some m)) :=
  ⟨reaches [0x00000100] (run) (by decide +kernel) (by decide +kernel),
  ⟨(meterOf 0x00010001 [0x00010001, 0, 8, 4, 8, 4]).getD {}, reaches [0x00010001, 0, 8, 4, 8, 4] (run) (by decide +kernel) (by decide +kernel)⟩,
  ⟨false, (some ((3, { cls := 0, dst := some 5, cfg := {}, buckets := {} }) : Fin 256 × TxMeter)), ((3, { cls := 0, dst := some 5, cfg := {}, buckets := {} }) : Fin 256 × TxMeter), by decide +kernel, reaches [4, 5] ({ run with traffic.meters := [((3, { cls := 0, dst := some 5, cfg := {}, buckets := {} }) : Fin 256 × TxMeter)] }) (by decide +kernel) (by decide +kernel)⟩,
  ⟨false, (some ((3, { cls := 0, dst := some 5, cfg := {}, buckets := {} }) : Fin 256 × TxMeter)), ((3, { cls := 0, dst := some 5, cfg := {}, buckets := {} }) : Fin 256 × TxMeter), (meterOf 0 [0, 5, 8, 4, 8, 4]).getD {}, by decide +kernel, reaches [0, 5, 8, 4, 8, 4] ({ run with traffic.meters := [((3, { cls := 0, dst := some 5, cfg := {}, buckets := {} }) : Fin 256 × TxMeter)] }) (by decide +kernel) (by decide +kernel)⟩⟩

theorem test_meets_trafficCommandsAnswer_2 :
    (∃ (any : Bool) (bound : Option (Fin 256 × TxMeter)), 
    let dst (c : Cmd) : Option (BitVec 24) := if any then none else some ((param c.ps 2).setWidth 24)
    
    let cls (c : Cmd) : Fin 8 := Fin.ofNat 8 (fld (param c.ps 1) 10 8)
    
    let pre (del : Bool) (c : Cmd) (b : State) : Prop :=
      onlyBits (param c.ps 1) 0x00000F06#32 = true ∧ onlyBits (param c.ps 2) 0xFFFFFF#32 = true ∧
      (any = true → param c.ps 2 = 0#32) ∧ bitAt (param c.ps 1) 11 = any ∧ bitAt (param c.ps 1) 2 = del ∧
      (b.traffic.meters.find? fun m => m.2.cls = cls c && m.2.dst = dst c) = bound
    ∃ (m : _) (i : _), (bound = none) ∧ Reaches 0x602 (fun c b => c.ps.length = 6 ∧ pre false c b ∧ meterOf (param c.ps 1) c.ps = some m ∧ freeMeter b = some i)) ∧
    (∃ (clear : Bool), Reaches 0x603 (fun c b =>
      let n := fld (param c.ps 1) 8 0
      let cycle := (mk64 (param c.ps 4) (param c.ps 5)).toNat
      c.ps.length = 5 + 2 * n ∧ onlyBits (param c.ps 1) 0x3FF#32 = true ∧ bitAt (param c.ps 1) 9 = clear ∧
      (if clear then n = 0 else 1 ≤ n ∧ n ≤ 256) ∧ 2 ^ 32 ≤ cycle * 1000 ∧ cycle ≤ secU 86400 ∧
      gateWordsOk (c.ps.drop 5) = true ∧ b.power.bodWarn = false)) ∧
    (Reaches 0x604 (fun c _ => c.ps.length = 0)) ∧
    (Reaches 0x605 (fun c b =>
      let nsub := fld (param c.ps 1) 8 4
      let n := fld (param c.ps 1) 23 16
      let sec := fld (param c.ps 2) 11 0
      c.ps.length = 2 + 2 * nsub ∧ onlyBits (param c.ps 1) 0x00FF01FF#32 = true ∧ onlyBits (param c.ps 2) 0xFFF#32 = true ∧
      1 ≤ nsub ∧ fld (param c.ps 1) 3 0 + nsub ≤ 16 ∧ 1 ≤ n ∧ n ≤ 120 ∧ 1 ≤ sec ∧ sec ≤ 3600 ∧ n * sec ≤ 4000 ∧
      limitsOk (c.ps.drop 2) = true ∧ b.power.bodWarn = false)) ∧
    (∃ (i : Fin 16), 
    let credit (b : State) := signedUs (frameCredit i b) b
    Reaches 0x606 (fun c _ => c.ps = [W i.val])) :=
  ⟨⟨true, none, (meterOf 0x800 [0x800, 0, 8, 4, 8, 4]).getD {}, (freeMeter run).getD 0, by decide +kernel, reaches [0x800, 0, 8, 4, 8, 4] (run) (by decide +kernel) (by decide +kernel)⟩,
  ⟨false, reaches [1, 0, 0, 0, 0x10, 0xFF, 1] (run) (by decide +kernel) (by decide +kernel)⟩,
  reaches [] (run) (by decide +kernel) (by decide +kernel),
  reaches [0x00010010, 1, 1000, 0] (run) (by decide +kernel) (by decide +kernel),
  ⟨15, reaches [15] (run) (by decide +kernel) (by decide +kernel)⟩⟩

/-! ### Hypotheses of KeyStoreCommandsAnswer -/

theorem test_meets_keyStoreCommandsAnswer :
    (
    let mayLoad (material : List Byte) (c : Cmd) (b : State) : Prop :=
      let w := param c.ps 1
      let slot := fld w 4 0
      b.isUsable dCRYPTO = true ∧ onlyBits w 0x000FFFFF#32 = true ∧
      fld w 6 5 ≠ 3 ∧ fld w 13 12 ≠ 3 ∧ (bitAt w 14 = true → isSession slot = false) ∧ b.lifecycle ≠ .retired ∧ 4 ≤ slot ∧
      b.sec.sealedSlots.getLsbD slot = false ∧ (fld w 13 12 = 0 → slot < 12 → b.lifecycle ≠ .secured) ∧
      loadedKey c b = .ok material ∧ slotOpen slot b = false ∧ (bitAt w 14 = true → b.power.bodWarn = false)
    ∃ (material : _), Reaches 0x701 (fun c b => keyLoadLen c.ps = true ∧ b.sec.ready = true ∧ fld (param c.ps 1) 13 12 ≠ 2 ∧
      mayLoad material c b)) ∧
    (Reaches 0x701 (fun c b => keyLoadLen c.ps = true ∧ b.sec.ready = true ∧ fld (param c.ps 1) 13 12 = 2 ∧ b.isUsable dCRYPTO = true)) ∧
    (
    let mayLoad (material : List Byte) (c : Cmd) (b : State) : Prop :=
      let w := param c.ps 1
      let slot := fld w 4 0
      b.isUsable dCRYPTO = true ∧ onlyBits w 0x000FFFFF#32 = true ∧
      fld w 6 5 ≠ 3 ∧ fld w 13 12 ≠ 3 ∧ (bitAt w 14 = true → isSession slot = false) ∧ b.lifecycle ≠ .retired ∧ 4 ≤ slot ∧
      b.sec.sealedSlots.getLsbD slot = false ∧ (fld w 13 12 = 0 → slot < 12 → b.lifecycle ≠ .secured) ∧
      loadedKey c b = .ok material ∧ slotOpen slot b = false ∧ (bitAt w 14 = true → b.power.bodWarn = false)
    ∃ (material : _), WorkReaches 0x701 (mayLoad material)) ∧
    (∃ (k : _), Reaches 0x702 (fun c b =>
      let w := param c.ps 1
      let nl := fld (param c.ps 2) 6 0
      deriveLen c.ps = true ∧ b.isUsable dCRYPTO = true ∧ b.sec.ready = true ∧ onlyBits w 0x0003FFFF#32 = true ∧
      onlyBits (param c.ps 2) 0x0000FF7F#32 = true ∧ fld w 11 10 < 2 ∧ 1 ≤ nl ∧ nl ≤ 64 ∧ fld (param c.ps 2) 15 8 ≤ 128 ∧
      (bitAt w 17 = true → isSession (fld w 9 5) = false) ∧ b.lifecycle ≠ .retired ∧ 4 ≤ fld w 9 5 ∧
      b.sec.sealedSlots.getLsbD (fld w 9 5) = false ∧ slotRefusal (fld w 4 0) 3 [.aes128, .aes256, .secret256] b = none ∧
      usableSlot (fld w 4 0) b = some k ∧ slotOpen (fld w 9 5) b = false ∧ (bitAt w 17 = true → b.power.bodWarn = false))) ∧
    (Reaches 0x703 (fun c b =>
      let w := param c.ps 1
      c.ps.length = 1 ∧ b.isUsable dCRYPTO = true ∧ b.sec.ready = true ∧ onlyBits w 0x3F#32 = true ∧ 4 ≤ fld w 4 0 ∧
      b.sec.sealedSlots.getLsbD (fld w 4 0) = false ∧ (slotOpen (fld w 4 0) b = false ∨ bitAt w 5 = true))) ∧
    (Reaches 0x708 (fun c b => c.ps.length = 1 ∧ b.isUsable dCRYPTO = true ∧ 1 ≤ (param c.ps 1).toNat ∧
      (param c.ps 1).toNat ≤ 1020 ∧ b.sec.trngOk = true)) :=
  ⟨⟨((loadedKey (asCmd 0x701 (pkt [0xF84, 1, 2, 3, 4])) run).toOption.getD []), reaches [0xF84, 1, 2, 3, 4] (run) (by decide +kernel) (by decide +kernel)⟩,
  reaches ([0xc2f84] ++ [0xea39d38f, 0x4649c11c, 0x3fbeeb87, 0xbfe66d3a, 0xa39d9d06, 0x184cd339] ++ wordsX ++ wordsY ++ wordsX ++ [0x944f4740, 0x7342b37a, 0xeae784d0, 0x7ca8b3c9, 0xea0e82ee, 0xe95b4d29, 0x1cdab682, 0xccc4e441]) ({ keyed 24 ({ type := .secret256, usage := 0x1F#5, key := 0x000102030405060708090a0b0c0d0e0f101112131415161718191a1b1c1d1e1f#256, pub := some (baseX, baseY), fromEcdh := true } : KeySlot) with flash.otp := [(0, 0x00030303), (24, 0x7ddb75d8), (25, 0x362223ef), (26, 0xc638c7ae), (27, 0x803ebbb0), (28, 0x0f5d2f14), (29, 0x24dff4d8), (30, 0xf5eed6fe), (31, 0x9f0db5cb)] }) (by decide +kernel) (by decide +kernel),
  ⟨(bytesOfBE 16 0x00112233445566778899AABBCCDDEEFF), workReaches ([0xc2f84] ++ [0xea39d38f, 0x4649c11c, 0x3fbeeb87, 0xbfe66d3a, 0xa39d9d06, 0x184cd339] ++ wordsX ++ wordsY ++ wordsX ++ [0x944f4740, 0x7342b37a, 0xeae784d0, 0x7ca8b3c9, 0xea0e82ee, 0xe95b4d29, 0x1cdab682, 0xccc4e441]) ({ keyed 24 ({ type := .secret256, usage := 0x1F#5, key := 0x000102030405060708090a0b0c0d0e0f101112131415161718191a1b1c1d1e1f#256, pub := some (baseX, baseY), fromEcdh := true } : KeySlot) with flash.otp := [(0, 0x00030303), (24, 0x7ddb75d8), (25, 0x362223ef), (26, 0xc638c7ae), (27, 0x803ebbb0), (28, 0x0f5d2f14), (29, 0x24dff4d8), (30, 0xf5eed6fe), (31, 0x9f0db5cb)] }) (by decide +kernel)⟩,
  ⟨kek, reaches [0x00A4, 1, 0x41] (keyed 4 kek) (by decide +kernel) (by decide +kernel)⟩,
  reaches [0x3F] (run) (by decide +kernel) (by decide +kernel),
  reaches [1020] (run) (by decide +kernel) (by decide +kernel)⟩

/-! ### Hypotheses of publicKeyCommandsQueue -/

theorem test_meets_publicKeyCommandsQueue :
    (Reaches 0x709 (fun c b =>
      let w := param c.ps 1
      c.ps.length = 1 ∧ b.isUsable dCRYPTO = true ∧ b.sec.ready = true ∧ onlyBits w 0x0001FFFE#32 = true ∧
      (bitAt w 16 = true → isSession (fld w 5 1) = false ∧ b.power.bodWarn = false) ∧ BitVec.ofNat 5 (fld w 15 11) &&& 7#5 = 0#5 ∧
      b.lifecycle ≠ .retired ∧ 4 ≤ fld w 5 1 ∧ b.sec.sealedSlots.getLsbD (fld w 5 1) = false ∧ b.sec.trngOk = true)) ∧
    (∃ (k : _), Reaches 0x709 (fun c b =>
      let w := param c.ps 1
      let peer := pair256 (c.ps.drop 1)
      c.ps.length = 17 ∧ bitAt w 0 = true ∧ b.isUsable dCRYPTO = true ∧ b.sec.ready = true ∧ onlyBits w 0x0001FFFF#32 = true ∧
      isSession (fld w 5 1) = true ∧ 4 ≤ fld w 5 1 ∧ onCurve peer.1.toNat peer.2.toNat = true ∧ b.lifecycle ≠ .retired ∧
      b.sec.sealedSlots.getLsbD (fld w 5 1) = false ∧ 4 ≤ fld w 10 6 ∧ usableSlot (fld w 10 6) b = some k ∧ k.type = .p256)) ∧
    (Reaches 0x70A (fun c b => c.ps.length = 9 ∧ b.isUsable dCRYPTO = true ∧ b.sec.ready = true ∧ (param c.ps 1).toNat < 32 ∧
      slotRefusal (param c.ps 1).toNat 4 [.p256] b = none)) ∧
    (Reaches 0x70B (fun c b =>
      let key := pair256 (c.ps.drop 1)
      c.ps.length = 41 ∧ b.isUsable dCRYPTO = true ∧ (param c.ps 1).toNat < 3 ∧ onCurve key.1.toNat key.2.toNat = true)) :=
  ⟨reaches [0x08] (run) (by decide +kernel) (by decide +kernel),
  ⟨priv, reaches ([0x131] ++ wordsX ++ wordsY) (keyed 4 priv) (by decide +kernel) (by decide +kernel)⟩,
  reaches (4 :: List.replicate 8 0) (keyed 4 priv) (by decide +kernel) (by decide +kernel),
  reaches ([2] ++ wordsX ++ wordsY ++ List.replicate 24 0) (run) (by decide +kernel) (by decide +kernel)⟩

/-! ### Hypotheses of CipherRunAnswers -/

theorem test_meets_cipherRunAnswers :
    (∃ (single : _) (n : _) (m1 : _) (s1 : _), Reaches 0x704 (fun c b => cipherMayOpen c b single n m1 s1)) ∧
    (∃ (final : _) (m : _), Reaches 0x704 (fun c b => cipherMeets c b final m)) :=
  ⟨⟨true, 0, newMsg (asCmd 0x704 (pkt ([0x30, 0, 0, 0] ++ List.replicate 8 0))) [] (met 0x704 ([0x30, 0, 0, 0] ++ List.replicate 8 0) run), met 0x704 ([0x30, 0, 0, 0] ++ List.replicate 8 0) run, reaches ([0x30, 0, 0, 0] ++ List.replicate 8 0) (run) (by decide +kernel) (⟨by decide +kernel, by decide +kernel, by decide +kernel, by decide +kernel, by decide +kernel, by decide +kernel, ⟨[], by decide +kernel, by decide +kernel, by decide +kernel, by decide +kernel, by decide +kernel, Eq.mpr (if_neg (by decide +kernel)) ⟨rfl, rfl⟩⟩⟩)⟩,
  ⟨true, (newMsg (asCmd 0x704 (pkt ([0x30, 0, 0, 0] ++ List.replicate 8 0))) [] run), reaches ([0x33, 0, 0, 0] ++ List.replicate 8 0) ({ run with sec.ctxs := run.sec.ctxs.set 0 (some (newMsg (asCmd 0x704 (pkt ([0x30, 0, 0, 0] ++ List.replicate 8 0))) [] run)) }) (by decide +kernel) (by unfold cipherMeets; decide +kernel)⟩⟩

/-! ### Hypotheses of attestationCommandsAnswer -/

theorem test_meets_attestationCommandsAnswer_1 :
    (Reaches 0x705 (fun c b => c.ps.length = 5 ∧ param c.ps 1 = 0#32 ∧ b.isUsable dCRYPTO = true ∧ b.sec.ready = true)) ∧
    (WorkReaches 0x705 (fun c b => param c.ps 1 = 0#32 ∧ b.isUsable dCRYPTO = true)) ∧
    (Reaches 0x705 (fun c b => c.ps.length = 2 ∧ param c.ps 1 = 1#32 ∧ b.isUsable dCRYPTO = true ∧ b.sec.ready = true ∧
      onlyBits (param c.ps 2) 0x0FFF1F01#32 = true ∧ fld (param c.ps 2) 27 20 ≠ 0)) ∧
    (Reaches 0x705 (fun c b => c.ps.length = 2 ∧ param c.ps 1 = 2#32 ∧ b.isUsable dCRYPTO = true ∧ b.sec.ready = true ∧
      (param c.ps 2).toNat < 256)) :=
  ⟨reaches [0, 1, 2, 3, 4] (run) (by decide +kernel) (by decide +kernel),
  workReaches [0, 1, 2, 3, 4] (run) (by decide +kernel),
  reaches [1, 0x0FF00000] (run) (by decide +kernel) (by decide +kernel),
  reaches [2, 255] (run) (by decide +kernel) (by decide +kernel)⟩

theorem test_meets_attestationCommandsAnswer_2 :
    (Reaches 0x705 (fun c b => c.ps.length = 1 ∧ param c.ps 1 = 3#32 ∧ b.isUsable dCRYPTO = true ∧ b.sec.ready = true)) ∧
    (Reaches 0x706 (fun c b => c.ps.length = 1 ∧ onlyBits (param c.ps 1) 0x6#32 = true ∧ b.isHostPort c.port = true ∧
      b.isUsable dCRYPTO = true ∧ b.power.bodWarn = false ∧ b.sec.trngOk = true)) ∧
    (Reaches 0x706 (fun c b => c.ps.length = 1 ∧ onlyBits (param c.ps 1) 0x7#32 = true ∧ bitAt (param c.ps 1) 0 = true ∧
      fld (param c.ps 1) 2 1 ≠ 0 ∧ b.isHostPort c.port = true ∧ mayAdvance (fld (param c.ps 1) 2 1) b = true ∧
      b.lifecycle ≠ .secured ∧ b.power.bodWarn = false)) ∧
    (Reaches 0x706 (fun c b => c.ps.length = 33 ∧ bitAt (param c.ps 1) 0 = true ∧ b.lifecycle = .secured ∧
      b.isUsable dCRYPTO = true)) :=
  ⟨reaches [3] (run) (by decide +kernel) (by decide +kernel),
  reaches [6] (run) (by decide +kernel) (by decide +kernel),
  reaches [3] (run) (by decide +kernel) (by decide +kernel),
  reaches (1 :: List.replicate 32 0) ({ run with flash.otp := [(0, 0x00030303)] }) (by decide +kernel) (by decide +kernel)⟩

theorem test_meets_attestationCommandsAnswer_3 :
    (∃ (ch : _), WorkReaches 0x706 (fun c b =>
      let owner := pair256 (c.ps.drop 1)
      c.ps.length = 33 ∧ param c.ps 1 = 7#32 ∧ b.isHostPort c.port = true ∧ b.isUsable dCRYPTO = true ∧ b.lifecycle = .secured ∧
      b.power.bodWarn = false ∧ onCurve owner.1.toNat owner.2.toNat = true ∧ validChal b.sec.lifeChal b = some ch ∧
      ownerSigned owner (pair256 (c.ps.drop 17)) (textBytes "KR96-RETIRE" ++ bytesOfBE 8 b.eui.toNat ++ bytes256 ch) b = true)) ∧
    (Reaches 0x707 (fun c b => c.ps.length = 1 ∧ onlyBits (param c.ps 1) 0x6#32 = true ∧ b.isUsable dCRYPTO = true ∧
      b.lifecycle ≠ .retired ∧ b.sec.trngOk = true)) ∧
    (∃ (scope : Nat), (scope = 1 ∨ scope = 2) ∧ Reaches 0x707 (fun c b => c.ps = [W (1 + 2 * scope)] ∧ b.lifecycle = .develop)) ∧
    (Reaches 0x707 (fun c b => c.ps.length = 33 ∧ bitAt (param c.ps 1) 0 = true ∧ b.lifecycle = .secured ∧
      b.isUsable dCRYPTO = true)) ∧
    (∃ (ch : _), WorkReaches 0x707 (fun c b =>
      let owner := pair256 (c.ps.drop 1)
      c.ps.length = 33 ∧ param c.ps 1 = 3#32 ∧ b.lifecycle = .secured ∧ b.sec.failedSigs < 3 ∧ b.isUsable dCRYPTO = true ∧
      onCurve owner.1.toNat owner.2.toNat = true ∧ validChal b.sec.debugChal b = some ch ∧
      ownerSigned owner (pair256 (c.ps.drop 17)) (textBytes "KR96-DEBUG" ++ bytesOfBE 8 b.eui.toNat ++ bytes256 ch ++ [1#8]) b = true)) :=
  ⟨⟨5, workReaches ([7] ++ wordsX ++ wordsY ++ wordsX ++ [0x26f05393, 0x9057a654, 0x5565b0eb, 0x8818dab9, 0x21881335, 0x205d6fe1, 0x130228e8, 0x918f3901]) ({ run with flash.otp := [(0, 0x00030303), (24, 0x7ddb75d8), (25, 0x362223ef), (26, 0xc638c7ae), (27, 0x803ebbb0), (28, 0x0f5d2f14), (29, 0x24dff4d8), (30, 0xf5eed6fe), (31, 0x9f0db5cb)], sec.lifeChal := some (5, 0) }) (by decide +kernel)⟩,
  reaches [6] (run) (by decide +kernel) (by decide +kernel),
  ⟨2, by decide +kernel, reaches [W 5] ({ run with flash.otp := [(0, 0x00010101)] }) (by decide +kernel) (by decide +kernel)⟩,
  reaches (1 :: List.replicate 32 0) ({ run with flash.otp := [(0, 0x00030303)] }) (by decide +kernel) (by decide +kernel),
  ⟨5, workReaches ([3] ++ wordsX ++ wordsY ++ wordsX ++ [0xc0746ffd, 0xeca88d6d, 0x3d6df23c, 0x4e1d1bad, 0x40c31790, 0x8d99f222, 0x67963f15, 0x1b380bb5]) ({ run with flash.otp := [(0, 0x00030303), (24, 0x7ddb75d8), (25, 0x362223ef), (26, 0xc638c7ae), (27, 0x803ebbb0), (28, 0x0f5d2f14), (29, 0x24dff4d8), (30, 0xf5eed6fe), (31, 0x9f0db5cb)], sec.debugChal := some (5, 0) }) (by decide +kernel)⟩⟩

/-! ### Hypotheses of FlashCommandsAnswer -/

theorem test_meets_flashCommandsAnswer_1 :
    (Reaches 0x801 (fun c b =>
      let addr := (param c.ps 1).toNat
      let n := fld (param c.ps 2) 8 0
      let secs := sectorRange (addr / 8192) ((addr + 16 * n - 1) / 8192 + 1 - addr / 8192)
      c.ps.length = 2 + 4 * n ∧ onlyBits (param c.ps 2) 0x1FF#32 = true ∧ addr % 16 = 0 ∧ 1 ≤ n ∧ n ≤ 252 ∧
      addr + 16 * n ≤ b.flashSize ∧ arrayOf b (addr / 8192) = arrayOf b ((addr + 16 * n - 1) / 8192) ∧
      (∀ x ∈ secs, inDataArea b x = true ∧ protectedFor b c.port (·.wp) x = false ∧ staleFlag b x = false) ∧
      b.power.bodWarn = false ∧ flashBusy b (some secs) = false ∧ canAccept c.port b = true)) ∧
    (Reaches 0x802 (fun c b =>
      let first := (param c.ps 1).toNat / 8192
      let n := (param c.ps 2).toNat
      c.ps.length = 2 ∧ (param c.ps 1).toNat % 8192 = 0 ∧ 1 ≤ n ∧ n ≤ 248 ∧ first + n ≤ b.sectors ∧
      arrayOf b first = arrayOf b (first + n - 1) ∧
      (∀ x ∈ sectorRange first n, inDataArea b x = true ∧ protectedFor b c.port (·.wp) x = false) ∧
      b.power.bodWarn = false ∧ b.flash.op = none ∧ (∀ u, b.upd.session = some u → u.erasing = none) ∧ canAccept c.port b = true)) ∧
    (
    let come := fun (b : State) => if b.flash.suspCmd then b else flashProgress b
    Reaches 0x803 (fun c b => c.ps.length = 0 ∧ (come b).flash.op.isSome = true)) ∧
    (Reaches 0x804 (fun c b => c.ps.length = 0 ∧ b.flash.op.isSome = true ∧ b.flash.suspCmd = true ∧
      b.flash.resumeAfter = false ∧ b.power.bodWarn = false)) ∧
    (Reaches 0x805 (fun c b =>
      let w := param c.ps 2
      c.ps.length = 2 ∧ (param c.ps 1).toNat < 64 ∧ onlyBits w 0x01FF01FF#32 = true ∧ fld w 8 0 ≤ fld w 24 16 ∧
      fld w 24 16 < 2 * b.bankSectors ∧ (passwordSet b = true → b.flash.unlocked[portIdx c.port] = true) ∧ b.power.bodWarn = false)) :=
  ⟨reaches [0x2000, 1, 1, 2, 3, 4] (run) (by decide +kernel) (by decide +kernel),
  reaches [0x2000, 1] (run) (by decide +kernel) (by decide +kernel),
  reaches [] ({ run with flash.op := some ({ port := .spi, handle := 0, erase := true, sector := 1, left := 1 } : FlashOp) }) (by decide +kernel) (by decide +kernel),
  reaches [] ({ run with flash.op := some ({ port := .spi, handle := 0, erase := true, sector := 1, left := 1 } : FlashOp), flash.suspCmd := true }) (by decide +kernel) (by decide +kernel),
  reaches [0x3F, 0x01EF01EF] (run) (by decide +kernel) (by decide +kernel)⟩

theorem test_meets_flashCommandsAnswer_2 :
    (Reaches 0x806 (fun c _ => c.ps = [1])) ∧
    (Reaches 0x806 (fun c b => c.ps.length = 5 ∧ param c.ps 1 = 0#32 ∧ passwordSet b = true ∧ b.flash.wrongPw < 3 ∧
      sha256 (unpackLE (c.ps.drop 1)) = otpHash b 32)) ∧
    (Reaches 0x806 (fun c b => c.ps.length = 5 ∧ param c.ps 1 = 0#32 ∧ passwordSet b = true ∧ b.flash.wrongPw < 3 ∧
      sha256 (unpackLE (c.ps.drop 1)) ≠ otpHash b 32)) ∧
    (Reaches 0x807 (fun c _ => c.ps.length = 1 ∧ onlyBits (param c.ps 1) 0x01FF01FF#32 = true ∧
      1 ≤ fld (param c.ps 1) 24 16 ∧ fld (param c.ps 1) 24 16 ≤ 256 ∧ fld (param c.ps 1) 8 0 + fld (param c.ps 1) 24 16 ≤ 512)) ∧
    (Reaches 0x808 (fun c b =>
      let w := param c.ps 1
      let first := fld w 8 0
      c.ps.length = 1 + fld w 19 16 ∧ onlyBits w 0x000F01FF#32 = true ∧ 1 ≤ fld w 19 16 ∧ fld w 19 16 ≤ 8 ∧
      inOneField first (fld w 19 16) = true ∧ (first = 2 → onlyBits (param c.ps 2) 7#32 = true ∧
        fld (otpWord b 2 ||| param c.ps 2) 1 0 ≠ 3) ∧ (first = 2 ∨ 24 ≤ first ∧ first < 40) ∧
      (b.lifecycle = .blank ∨ b.lifecycle = .develop) ∧ b.isHostPort c.port = true ∧ b.power.bodWarn = false)) ∧
    (Reaches 0x809 (fun c b =>
      let n := (param c.ps 1).toNat
      let addr := (param c.ps 2).toNat
      let t := flashProgress b
      c.ps.length = 2 ∧ n ≤ 256 ∧ addr % 4 = 0 ∧ (n = 0 → addr = 0) ∧
      (n ≠ 0 → addr + 4 * n ≤ t.flashSize ∧ ∀ x ∈ sectorRange (addr / 8192) ((addr + 4 * n - 1) / 8192 + 1 - addr / 8192),
        inDataArea t x = true ∧ protectedFor t c.port (·.rp) x = false))) :=
  ⟨reaches [1] (run) (by decide +kernel) (by decide +kernel),
  reaches [0, 1, 2, 3, 4] ({ run with flash.otp := [(32, 0xeead97cf), (33, 0x5be059db), (34, 0xb4a273fd), (35, 0x5788a8c2), (36, 0xf7f4c408), (37, 0x4bc6840c), (38, 0x720e1227), (39, 0x723b73ab)] }) (by decide +kernel) (by decide +kernel),
  reaches [0, 1, 2, 3, 5] ({ run with flash.otp := [(32, 0xeead97cf), (33, 0x5be059db), (34, 0xb4a273fd), (35, 0x5788a8c2), (36, 0xf7f4c408), (37, 0x4bc6840c), (38, 0x720e1227), (39, 0x723b73ab)] }) (by decide +kernel) (by decide +kernel),
  reaches [0x01000100] (run) (by decide +kernel) (by decide +kernel),
  reaches [0x00080018, 0, 0, 0, 0, 0, 0, 0, 1] (run) (by decide +kernel) (by decide +kernel),
  reaches [256, 0x2000] (run) (by decide +kernel) (by decide +kernel)⟩

/-! ### Hypotheses of updateCommandsAnswer -/

theorem test_meets_updateCommandsAnswer_1 :
    (Reaches 0x901 (fun c b =>
      let bytes := fld (param c.ps 1) 20 0
      let slot := (param c.ps 2).toNat
      c.ps.length = 2 ∧ onlyBits (param c.ps 1) 0x1FFFFF#32 = true ∧ bytes % 16 = 0 ∧ bytes ≤ b.bankSectors * 8192 ∧
      (slot = 0 ∨ 4 ≤ slot ∧ slot < 32) ∧ b.lifecycle ≠ .retired ∧ b.upd.trial = none ∧ b.upd.act = none ∧ b.upd.session = none ∧
      inactiveProtected b = false ∧ b.power.bodWarn = false ∧ b.flash.op = none)) ∧
    (∃ (u : _), Reaches 0x902 (fun c b =>
      let off := fld (param c.ps 1) 20 0
      let len := fld (param c.ps 2) 12 0
      c.ps.length = 2 + len / 4 ∧ onlyBits (param c.ps 1) 0x1FFFFF#32 = true ∧ onlyBits (param c.ps 2) 0x1FFF#32 = true ∧
      off % 16 = 0 ∧ len % 16 = 0 ∧ 16 ≤ len ∧ len ≤ 4064 ∧ off + len ≤ u.bytes ∧ b.upd.session = some u ∧ u.port = c.port ∧
      u.erasing = none ∧ b.upd.staged = none ∧ b.upd.verifying = none ∧ b.power.bodWarn = false)) ∧
    (∃ (u : _), Reaches 0x903 (fun c b => c.ps.length = 0 ∧ b.upd.session = some u ∧ u.erasing = none ∧ b.upd.act = none ∧
      b.upd.verifying = none)) :=
  ⟨reaches [0x100000, 31] (run) (by decide +kernel) (by decide +kernel),
  ⟨({ port := .spi, bytes := 4096, ownerSlot := 0, erasing := none } : UpdSession), reaches ([0xFF0, 16, 1, 2, 3, 4]) ({ run with upd.session := some ({ port := .spi, bytes := 4096, ownerSlot := 0, erasing := none } : UpdSession) }) (by decide +kernel) (by decide +kernel)⟩,
  ⟨({ port := .spi, bytes := 4096, ownerSlot := 0, erasing := none } : UpdSession), reaches [] ({ run with upd.session := some ({ port := .spi, bytes := 4096, ownerSlot := 0, erasing := none } : UpdSession) }) (by decide +kernel) (by decide +kernel)⟩⟩

theorem test_meets_updateCommandsAnswer_2 :
    (Reaches 0x904 (fun c b =>
      let w := param c.ps 1
      c.ps.length = 1 ∧ onlyBits w 0x1FFFFFFF#32 = true ∧ fld w 15 0 ≠ 0 ∧ 10 ≤ fld w 27 16 ∧ fld w 27 16 ≤ 3600 ∧
      b.upd.staged.isSome = true ∧ b.upd.act = none ∧ b.power.bodWarn = false ∧ canAccept c.port b = true)) ∧
    (Reaches 0x905 (fun c b => c.ps.length = 0 ∧ b.upd.trial.isSome = true ∧ b.power.bodWarn = false)) ∧
    (Reaches 0x906 (fun c b => c.ps.length = 0 ∧ b.upd.act = none ∧ (b.upd.session.isSome = true ∨ b.upd.staged.isSome = true))) ∧
    (∃ (t : _), Reaches 0x906 (fun c b => c.ps.length = 0 ∧ b.upd.act = none ∧ b.upd.session = none ∧ b.upd.staged = none ∧
      b.upd.trial = some t)) :=
  ⟨reaches [0x000A0001] ({ run with upd.staged := some {} }) (by decide +kernel) (by decide +kernel),
  reaches [] ({ run with upd.trial := some ({ since := 0, trialS := 10, rollbackOnFault := false } : Trial) }) (by decide +kernel) (by decide +kernel),
  reaches [] ({ run with upd.staged := some {} }) (by decide +kernel) (by decide +kernel),
  ⟨({ since := 0, trialS := 10, rollbackOnFault := false } : Trial), reaches [] ({ run with upd.trial := some ({ since := 0, trialS := 10, rollbackOnFault := false } : Trial) }) (by decide +kernel) (by decide +kernel)⟩⟩

/-! ### Hypotheses of settingsCommandsAnswer -/

theorem test_meets_settingsCommandsAnswer :
    (
    let key (c : Cmd) : BitVec 16 := BitVec.ofNat 16 (fld (param c.ps 1) 31 16)
    Reaches 0x907 (fun c b =>
      let len := fld (param c.ps 2) 26 16
      c.ps.length = 2 + ceilDiv len 4 ∧ onlyBits (param c.ps 1) 0xFFFF0000#32 = true ∧ onlyBits (param c.ps 2) 0x07FFFFFF#32 = true ∧
      0x100 ≤ (key c).toNat ∧ len ≤ 1024 ∧ b.power.bodWarn = false ∧ otherBytes (key c) b + len ≤ Config.settingsRoom)) ∧
    (Reaches 0x907 (fun c b => c.ps.length = 2 ∧ param c.ps 1 = 1#32 ∧ (param c.ps 2).toNat < 256 ∧
      b.upd.provisioning.isSome = true ∧ b.power.bodWarn = false)) ∧
    (
    let key (c : Cmd) : BitVec 16 := BitVec.ofNat 16 (fld (param c.ps 1) 31 16)
    Reaches 0x907 (fun c b => c.ps.length = 2 ∧ onlyBits (param c.ps 1) 0xFFFF0003#32 = true ∧ fld (param c.ps 1) 1 0 = 2 ∧
      onlyBits (param c.ps 2) 0xFFFF#32 = true ∧ 0x100 ≤ (key c).toNat ∧ (b.upd.settings.customer.any fun r => r.1 = key c) = true ∧
      b.power.bodWarn = false)) ∧
    (Reaches 0x908 (fun c b => c.ps.length = 1 ∧ (param c.ps 1).toNat < 8 ∧
      (itemBits b.upd.settings).testBit (param c.ps 1).toNat = true)) ∧
    (∃ (r : _), Reaches 0x908 (fun c b => c.ps.length = 1 ∧ 8 ≤ (param c.ps 1).toNat ∧ (param c.ps 1).toNat < 65536 ∧
      (b.upd.settings.customer.find? fun r => r.1.toNat = (param c.ps 1).toNat) = some r)) :=
  ⟨reaches [0x01000000, 0] (run) (by decide +kernel) (⟨by decide +kernel, by decide +kernel, by decide +kernel, by decide +kernel, by decide +kernel, by decide +kernel, le_of_eq_of_le (by decide +kernel : _ = 0) (Nat.zero_le _)⟩),
  reaches [1, 255] ({ run with upd.provisioning := some ⟨0, false, 0, 0⟩ }) (by decide +kernel) (by decide +kernel),
  reaches [0x01000002, 3] ({ run with upd.settings := { customer := [(0x100#16, 3#16, [1#8])] } }) (by decide +kernel) (by decide +kernel),
  reaches [0#32] ({ run with upd.settings := { region := some [] } }) (by decide +kernel) (by decide +kernel),
  ⟨(0x100#16, 3#16, [1#8]), reaches [0x100#32] ({ run with upd.settings := { customer := [(0x100#16, 3#16, [1#8])] } }) (by decide +kernel) (by decide +kernel)⟩⟩

/-! ### Hypotheses of kerbCommandsAnswer -/

theorem test_meets_kerbCommandsAnswer :
    (Reaches 0xA01 (fun c b => c.ps.length = 4 + fld (param c.ps 1) 6 0 ∧ b.isUsable dKERB = true ∧
      badKerbLoad c.ps = false ∧ b.kerb.running = false ∧ b.power.bodWarn = false)) ∧
    (∃ (clear : Bool), Reaches 0xA02 (fun c b => c.ps = [W (b2n clear)] ∧ b.isUsable dKERB = true ∧ b.kerb.prog ≠ [] ∧
      b.kerb.running = false)) ∧
    (Reaches 0xA03 (fun c b => c.ps.length = 0 ∧ b.kerb.running = true ∧ b.kerb.inPass = false)) ∧
    (Reaches 0xA03 (fun c b => c.ps.length = 0 ∧ b.kerb.running = true ∧ b.kerb.inPass = true)) ∧
    (Reaches 0xA04 (fun c b => c.ps.length = 1 ∧ b.isUsable dKERB = true ∧ 1 ≤ (param c.ps 1).toNat ∧
      (param c.ps 1).toNat ≤ 256)) :=
  ⟨reaches [1, 0, 0, 0, 0] (run) (by decide +kernel) (by decide +kernel),
  ⟨true, reaches [W 1] ({ run with kerb.prog := [0] }) (by decide +kernel) (by decide +kernel)⟩,
  reaches [] ({ run with kerb.running := true }) (by decide +kernel) (by decide +kernel),
  reaches [] ({ run with kerb.running := true, kerb.inPass := true }) (by decide +kernel) (by decide +kernel),
  reaches [256] (run) (by decide +kernel) (by decide +kernel)⟩

/-! ### Hypotheses of testCommandsAnswer -/

theorem test_meets_testCommandsAnswer_1 :
    (Reaches 0xB01 (fun c b => c.ps.length = 2 ∧ b.isUsable dBLVD = true ∧ onlyBits (param c.ps 1) 0x3F#32 = true ∧
      fld (param c.ps 1) 5 0 < b.ctxCount ∧ 1 ≤ (param c.ps 2).toNat ∧ (param c.ps 2).toNat < 65536 ∧ b.bg.ctxTest = none ∧
      canAccept c.port b = true)) ∧
    (Reaches 0xB02 (fun c b => c.ps.length = 1 ∧ (param c.ps 1).toNat < 16 ∧ (param c.ps 1).toNat < b.banks ∧
      b.saveBanks.getLsbD (param c.ps 1).toNat = false ∧ b.peri.dma.toList.any (dmaInBank (param c.ps 1).toNat) = false ∧
      b.bg.bist = none ∧ canAccept c.port b = true)) ∧
    (Reaches 0xB03 (fun c b => c.ps.length = 3 ∧ onlyBits (param c.ps 1) 0x1FFFF#32 = true ∧ bitAt (param c.ps 1) 0 = true ∧
      onlyBits (param c.ps 2) 0x0FFF07FF#32 = true ∧ 1 ≤ (param c.ps 3).toNat ∧ (param c.ps 3).toNat < 65536 ∧
      b.isUsable dKERB = true ∧ b.bg.loop = none)) ∧
    (Reaches 0xB03 (fun c b =>
      let n : Fin 16 := Fin.ofNat 16 (fld (param c.ps 1) 4 1)
      let len := fld (param c.ps 2) 10 0
      let us := loopAirtime n len b
      c.ps.length = 3 ∧ onlyBits (param c.ps 1) 0x1FFFF#32 = true ∧ bitAt (param c.ps 1) 0 = false ∧
      onlyBits (param c.ps 2) 0x0FFF07FF#32 = true ∧ param c.ps 3 = 0#32 ∧ 1 ≤ len ∧ -20 ≤ sfld (param c.ps 1) 13 6 ∧
      sfld (param c.ps 1) 13 6 ≤ 30 ∧ us ≤ 30000000 ∧ b.isUsable dRFFE = true ∧ b.isUsable dALLEY = true ∧
      (b.phy.profiles[n].ofdm = true → b.isUsable dOFDM = true) ∧
      (b.radio.mode = .idle ∨ b.radio.mode = .rx ∧ anyCommitted b = false) ∧ b.bg.loop = none ∧ ackPendingNow b = false ∧
      awaiting b = none ∧ fixedStartBefore (b.time.nt.toNat + usUp us + msU 2) b = false)) :=
  ⟨reaches [63, 65535] (run) (by decide +kernel) (by decide +kernel),
  reaches [1] (run) (by decide +kernel) (by decide +kernel),
  reaches [1, 0x0FFF07FF, 65535] (run) (by decide +kernel) (by decide +kernel),
  reaches [0, 8, 0] ({ run with radio.mode := .idle }) (by decide +kernel) (by decide +kernel)⟩

theorem test_meets_testCommandsAnswer_2 :
    (Reaches 0xB04 (fun c b => c.ps.length = 1 ∧ 1 ≤ (param c.ps 1).toNat ∧ (param c.ps 1).toNat ≤ 10000 ∧ b.bg.pause = none ∧
      ∀ t n, b.bg.lastPause = some (t, n) → t.toNat + msU n ≤ b.elapsed.now.toNat)) ∧
    (∃ (t : _) (n : _), Reaches 0xB04 (fun c b => c.ps = [0] ∧ b.bg.pause = some (t, n))) ∧
    (Reaches 0xB04 (fun c b => c.ps = [0] ∧ b.bg.pause = none)) ∧
    (∃ (a : BitVec 8) (r : BitVec 8) (t : BitVec 8), (a ≠ 0 ∧ r ≠ 0 ∧ t ≠ 0) ∧ Reaches 0xB05 (fun c _ => c.ps = [W (a.toNat + r.toNat * 2 ^ 8 + t.toNat * 2 ^ 16)])) :=
  ⟨reaches [10000] (run) (by decide +kernel) (⟨by decide +kernel, by decide +kernel, by decide +kernel, by decide +kernel, fun _ _ h => nomatch h⟩),
  ⟨0, 5, reaches [0] ({ run with bg.pause := some (0, 5) }) (by decide +kernel) (by decide +kernel)⟩,
  reaches [0] (run) (by decide +kernel) (by decide +kernel),
  ⟨1, 1, 1, by decide +kernel, reaches [W (1 + 1 * 2 ^ 8 + 1 * 2 ^ 16)] (run) (by decide +kernel) (by decide +kernel)⟩⟩

/-! ### Hypotheses of CommandChecksInOrder -/

theorem test_meets_commandChecksInOrder :
    (∃ row ∈ commandTable, ∃ (p : Packet) (s : State), (plazaOpen p.port s = false ∨ (s.parked = true ∧ inHardware row.1 = false))) ∧
    (∃ row ∈ commandTable, ∃ (p : Packet) (s : State), (plazaOpen p.port s = true) ∧ ((s.parked = true → inHardware row.1 = true)) ∧ ((waitsForCal row.1 = true → s.radio.cal.full = false)) ∧ ∃ (s1 : State) (crc : _), (arrive 0 row.1 p s = some (s1, crc)) ∧ (crc = false)) ∧
    (∃ row ∈ commandTable, ∃ (p : Packet) (s : State), (plazaOpen p.port s = true) ∧ ((s.parked = true → inHardware row.1 = true)) ∧ ((waitsForCal row.1 = true → s.radio.cal.full = false)) ∧ ∃ (s1 : State) (crc : _), (arrive 0 row.1 p s = some (s1, crc)) ∧ 
    let allowed := !hostOnly row.1 || s.isHostPort p.port
    (crc = true) ∧ (allowed = false)) ∧
    (∃ row ∈ commandTable, ∃ (p : Packet) (s : State), (plazaOpen p.port s = true) ∧ ((s.parked = true → inHardware row.1 = true)) ∧ ((waitsForCal row.1 = true → s.radio.cal.full = false)) ∧ ∃ (s1 : State) (crc : _), (arrive 0 row.1 p s = some (s1, crc)) ∧ 
    let allowed := !hostOnly row.1 || s.isHostPort p.port
    
    let clash := (s.port p.port).tags.contains p.tag
    (crc = true) ∧ (allowed = true) ∧ (clash = true)) ∧
    (∃ row ∈ commandTable, ∃ (p : Packet) (s : State), (plazaOpen p.port s = true) ∧ ((s.parked = true → inHardware row.1 = true)) ∧ ((waitsForCal row.1 = true → s.radio.cal.full = false)) ∧ ∃ (s1 : State) (crc : _), (arrive 0 row.1 p s = some (s1, crc)) ∧ 
    let allowed := !hostOnly row.1 || s.isHostPort p.port
    
    let clash := (s.port p.port).tags.contains p.tag
    (crc = true) ∧ (allowed = true) ∧ (clash = false) ∧ (row.2.2 p.params = false)) :=
  ⟨⟨(commandTable.get ⟨0, by decide⟩), List.get_mem _ _, (pkt []), State.reset, by decide +kernel⟩,
  ⟨(commandTable.get ⟨0, by decide⟩), List.get_mem _ _, (⟨.spi, 0, [], false⟩ : Packet), run, by decide +kernel, by decide +kernel, by decide +kernel, ((arrive 0 (commandTable.get ⟨0, by decide⟩).1 (⟨.spi, 0, [], false⟩ : Packet) (run)).getD (run, false)).1, false, by decide +kernel, by decide +kernel⟩,
  ⟨(commandTable.get ⟨2, by decide⟩), List.get_mem _ _, (pkt []), ({ run with flash.hostApp := true }), by decide +kernel, by decide +kernel, by decide +kernel, ((arrive 0 (commandTable.get ⟨2, by decide⟩).1 (pkt []) (({ run with flash.hostApp := true }))).getD (run, false)).1, true, by decide +kernel, by decide +kernel, by decide +kernel⟩,
  ⟨(commandTable.get ⟨0, by decide⟩), List.get_mem _ _, (pkt []), { run with plaza.ports := run.plaza.ports.set 0 { tags := [0] } }, by decide +kernel, by decide +kernel, by decide +kernel, ((arrive 0 (commandTable.get ⟨0, by decide⟩).1 (pkt []) ({ run with plaza.ports := run.plaza.ports.set 0 { tags := [0] } })).getD (run, false)).1, true, by decide +kernel, by decide +kernel, by decide +kernel, by decide +kernel⟩,
  ⟨(commandTable.get ⟨2, by decide⟩), List.get_mem _ _, (pkt [1]), run, by decide +kernel, by decide +kernel, by decide +kernel, ((arrive 0 (commandTable.get ⟨2, by decide⟩).1 (pkt [1]) (run)).getD (run, false)).1, true, by decide +kernel, by decide +kernel, by decide +kernel, by decide +kernel, by decide +kernel⟩⟩

/-! ### Hypotheses of RefusedPacketsAnswer -/

theorem test_meets_refusedPacketsAnswer :
    (∃ (p : Packet) (cls : BitVec 4) (code : BitVec 12) (s : State) (s1 : State), (plazaOpen p.port s = true) ∧ ((cls ≠ 0#4 ∨ code.toNat ∉ commandTable.map (·.1))) ∧ (arrive cls.toNat code.toNat p s = some (s1, true))) ∧
    (∃ (p : Packet) (code : BitVec 12) (s : State) (s1 : State), (plazaOpen p.port s = true) ∧ (arrive 0 (BitVec.toNat code) p s = some (s1, false))) :=
  ⟨⟨(pkt []), 7, 1, run, ((arrive (BitVec.toNat 7#4) (BitVec.toNat 1#12) (pkt []) run).getD (run, false)).1, by decide +kernel, .inl (by decide), by decide +kernel⟩,
  ⟨(⟨.spi, 0, [], false⟩ : Packet), 1, run, ((arrive 0 (BitVec.toNat 1#12) (⟨.spi, 0, [], false⟩ : Packet) (run)).getD (run, false)).1, by decide +kernel, by decide +kernel⟩⟩

/-! ### Hypotheses of HostPortTransactionsAnswer -/

theorem test_meets_hostPortTransactionsAnswer_1 :
    (∃ (wire : Wire) (ctrl : Word) (data : List Word) (s0 : _), (portLive wire.isUart s0 = true) ∧ (typeOf ctrl = 1)) ∧
    (∃ (wire : Wire) (ctrl : Word) (clocked : Nat) (s0 : _), (portLive wire.isUart s0 = true) ∧ (typeOf ctrl = 3) ∧ (malformed ctrl = false)) ∧
    (∃ (wire : Wire) (ctrl : Word) (clocked : Nat) (s0 : _), (portLive wire.isUart s0 = true) ∧ (typeOf ctrl = 0)) :=
  ⟨⟨(.uart 3), 0x40000000, [0], { run with plaza := { run.plaza with rdy := true, uartBitNs := some 1000 } }, by decide +kernel, by decide +kernel⟩,
  ⟨.spi, 0xC0000000, 2, { run with plaza := { run.plaza with rdy := true, uartBitNs := some 1000 } }, by decide +kernel, by decide +kernel, by decide +kernel⟩,
  ⟨(.uart 0), 0, 0, { run with plaza := { run.plaza with rdy := true, uartBitNs := some 1000 } }, by decide +kernel, by decide +kernel⟩⟩

theorem test_meets_hostPortTransactionsAnswer_2 :
    (∃ (n : Nat) (s : State), (portLive true s = true) ∧ (0 < n)) ∧
    (∃ (n : Nat) (s : State), (s.awake = true) ∧ (s.power.vio = true)) ∧
    (∃ (n : Nat) (s : State), (s.awake = false ∨ s.power.vio = false)) ∧
    (∃ (byte : Byte) (cellsOk : Bool) (bitNs : Nat) (s : State), (s.plaza.uartRateDue = true)) :=
  ⟨⟨1, { run with plaza := { run.plaza with rdy := true, uartBitNs := some 1000 } }, by decide +kernel, by decide +kernel⟩,
  ⟨1, { run with plaza := { run.plaza with rdy := true, uartBitNs := some 1000 } }, by decide +kernel, by decide +kernel⟩,
  ⟨0, State.reset, by decide +kernel⟩,
  ⟨0, true, 1000, { run with plaza.uartRateDue := true }, by decide +kernel⟩⟩

/-! ### Hypotheses of MailboxAndMoverAct -/

theorem test_meets_mailboxAndMoverAct :
    (∃ (w : Word) (s : State), (pageOpen s dLINK = true) ∧ (s.plaza.mbxHold = none) ∧ ((s.port .mbx).cmd.discard = 0)) ∧
    (∃ (w : Word) (s : State), (s.plaza.mbxHold = some w)) ∧
    (∃ (i : Fin 5) (s : State), (pageOpen s dLINK = true) ∧ (((s.port .mbx).lanes[i]).stages = [])) ∧
    (∃ (i : Fin 5) (w : Word) (rest : _) (s : State), (pageOpen s dLINK = true) ∧ (((s.port .mbx).lanes[i]).stages = w :: rest)) ∧
    (∃ (p : PortId) (pkt : _) (rest : _) (s : State), (s.inRun = true) ∧ ((s.port p).backlog = pkt :: rest) ∧ (((s.port p).lanes[laneEvt]).waiting = []) ∧ (((s.port p).lanes[laneEvt]).stages.length + pkt.length ≤ 64)) ∧
    (∃ (high : Bool) (f : _) (s : State), (s.inRun = true) ∧ (nextMove high s = some f)) :=
  ⟨⟨5, run, by decide +kernel, by decide +kernel, by decide +kernel⟩,
  ⟨5, { run with plaza.mbxHold := some 5 }, by decide +kernel⟩,
  ⟨4, run, by decide +kernel, by decide +kernel⟩,
  ⟨4, 1, [5], { run with plaza.ports := run.plaza.ports.set 2 { lanes := (Vector.replicate 5 {}).set 4 { stages := [1, 5] } } }, by decide +kernel, by decide +kernel⟩,
  ⟨.mbx, [7], [], { run with plaza.ports := run.plaza.ports.set 2 { backlog := [[7]] } }, by decide +kernel, by decide +kernel, by decide +kernel, by decide +kernel⟩,
  ⟨true, ({ port := .spi, high := true, words := [1], delivered := true, bytes := 4 } : StoredFrame), { run with rx.store := [({ port := .spi, high := true, words := [1], delivered := true, bytes := 4 } : StoredFrame)] }, by decide +kernel, by decide +kernel⟩⟩

/-! ### Hypotheses of HostReadTransactionsAnswer -/

theorem test_meets_hostReadTransactionsAnswer :
    (∃ (wire : Wire) (ctrl : Word) (clocked : Nat) (s0 : _), (portLive wire.isUart s0 = true) ∧ (typeOf ctrl = 2) ∧ (malformed ctrl = true)) ∧
    (∃ (wire : Wire) (ctrl : Word) (clocked : Nat) (s0 : _), (portLive wire.isUart s0 = true) ∧ (typeOf ctrl = 2) ∧ 
    let s := onWire wire s0
    
    let uart := wire.isUart
    
    let p := extPort uart
    
    let q := s.port p
    (malformed ctrl = false) ∧ ∃ (got : _) (left : _) (ended : _), (readMany (min (if uart then wordsOf ctrl else min (wordsOf ctrl) clocked) (availFor q ctrl)) q.lanes[laneIdx ctrl] =
        (got, left, ended))) :=
  ⟨⟨.spi, 0x80000080, 1, { run with plaza := { run.plaza with rdy := true, uartBitNs := some 1000 } }, by decide +kernel, by decide +kernel, by decide +kernel⟩,
  ⟨.spi, 0x81000001, 1, { run with plaza := { run.plaza with rdy := true, uartBitNs := some 1000 } }, by decide +kernel, by decide +kernel, by decide +kernel, (readMany (min (min (wordsOf 0x81000001) 1) (availFor (({ run with plaza := { run.plaza with rdy := true, uartBitNs := some 1000 } }).port (extPort false)) 0x81000001)) ((({ run with plaza := { run.plaza with rdy := true, uartBitNs := some 1000 } }).port (extPort false)).lanes[laneIdx 0x81000001])).1, (readMany (min (min (wordsOf 0x81000001) 1) (availFor (({ run with plaza := { run.plaza with rdy := true, uartBitNs := some 1000 } }).port (extPort false)) 0x81000001)) ((({ run with plaza := { run.plaza with rdy := true, uartBitNs := some 1000 } }).port (extPort false)).lanes[laneIdx 0x81000001])).2.1, (readMany (min (min (wordsOf 0x81000001) 1) (availFor (({ run with plaza := { run.plaza with rdy := true, uartBitNs := some 1000 } }).port (extPort false)) 0x81000001)) ((({ run with plaza := { run.plaza with rdy := true, uartBitNs := some 1000 } }).port (extPort false)).lanes[laneIdx 0x81000001])).2.2, by decide +kernel⟩⟩

/-! ### Hypotheses of WholePacketIsDelivered -/

theorem test_meets_wholePacketIsDelivered : ∃ (l : Lane) (w : _) (ps : _) (rest : _), (l.cursor = 0) ∧ (l.crcDue = none) ∧ (l.taken = []) ∧ (l.stages = (w :: ps) ++ rest) ∧ (ps.length = countOf w) :=
  ⟨({ stages := [1, 5, 6] } : Lane), 1, [5], [6], by decide +kernel, by decide +kernel, by decide +kernel, by decide +kernel, by decide +kernel⟩

/-! ### Hypotheses of LanesAreFifos -/

theorem test_meets_lanesAreFifos : ∃ (p : PortId) (i : Fin 5) (ws : List Word) (s : State), (((s.port p).lanes[i]).stages.length ≤ 64) :=
  ⟨.spi, 4, [5], run, by decide +kernel⟩

/-! ### Hypotheses of ResetsAct -/

theorem test_meets_resetsAct_1 :
    (∃ (lowNs : Nat) (strap : BitVec 2) (s : State), (s.sec.extest = false) ∧ (10000 ≤ lowNs)) ∧
    (∃ (lowNs : Nat) (strap : BitVec 2) (s : State), (s.sec.extest = false) ∧ (lowNs < 1000)) ∧
    (∃ (d : ResetDue) (s : State), (s.plaza.resetDue = some d) ∧ (d.upTo ≤ ((s.port d.port).lanes[laneResp]).out)) ∧
    (∃ (d : ResetDue) (since : DWord) (s : State), (s.plaza.resetDue = some d) ∧ (d.placed = some since) ∧ (elapsedBy since s.elapsed.now (msU 1) = true)) ∧
    (∃ (d : ResetDue) (s : State), (s.plaza.resetDue = some d) ∧ (((s.port d.port).lanes[laneResp]).out < d.upTo) ∧ (d.placed = none)) :=
  ⟨⟨10000, 0, run, by decide +kernel, by decide +kernel⟩,
  ⟨999, 0, run, by decide +kernel, by decide +kernel⟩,
  ⟨(⟨.spi, 0, none⟩ : ResetDue), { run with plaza.resetDue := some (⟨.spi, 0, none⟩ : ResetDue) }, by decide +kernel, by decide +kernel⟩,
  ⟨(⟨.spi, 5, (some 0)⟩ : ResetDue), 0, { run with plaza.resetDue := some (⟨.spi, 5, (some 0)⟩ : ResetDue), elapsed.now := 0x1000000000000#64 }, by decide +kernel, by decide +kernel, by decide +kernel⟩,
  ⟨(⟨.spi, 5, none⟩ : ResetDue), { run with plaza.resetDue := some (⟨.spi, 5, none⟩ : ResetDue) }, by decide +kernel, by decide +kernel, by decide +kernel⟩⟩

theorem test_meets_resetsAct_2 :
    (∃ (s : State), (s.plaza.resetDue = none)) ∧
    (∃ (s : State), (s.awake = true) ∧ (s.sec.debug ≠ .closed)) ∧
    (∃ (s : State), (s.sec.extest = true)) ∧
    (∃ (s : State), (s.power.lfxoDue = true) ∧ (s.sec.extest = false)) ∧
    (∃ (s : State), (s.power.lfxoDue = false)) :=
  ⟨⟨run, by decide +kernel⟩,
  ⟨{ run with sec.debug := .app }, by decide +kernel, by decide +kernel⟩,
  ⟨{ run with sec.extest := true }, by decide +kernel⟩,
  ⟨{ run with power.lfxoDue := true }, by decide +kernel, by decide +kernel⟩,
  ⟨run, by decide +kernel⟩⟩

/-! ### Hypotheses of coreArithmeticComputes -/

theorem test_meets_coreArithmeticComputes :
    (∃ row ∈ threeOperand, ∃ (rd : BitVec 5) (ra : BitVec 5) (rb : BitVec 5) (s : State) (b : State), (Executes s b) ∧ (settledIn b rd) ∧ (settledIn b ra) ∧ (settledIn b rb)) ∧
    (∃ row ∈ shiftsByCount, ∃ (rd : BitVec 5) (ra : BitVec 5) (sh : BitVec 5) (s : State) (b : State), (Executes s b) ∧ (settledIn b rd) ∧ (settledIn b ra)) ∧
    (∃ row ∈ immediates, ∃ (rd : BitVec 5) (ra : BitVec 5) (imm : BitVec 16) (s : State) (b : State), (Executes s b) ∧ (settledIn b rd) ∧ (settledIn b ra)) ∧
    (∃ (rd : BitVec 5) (ra : BitVec 5) (s : State) (b : State), (Executes s b) ∧ (settledIn b rd) ∧ (settledIn b ra)) ∧
    (∃ (rd : BitVec 5) (imm : BitVec 16) (s : State) (b : State), (Executes s b) ∧ (settledIn b rd)) ∧
    (∃ (rd : BitVec 5) (ra : BitVec 5) (imm : BitVec 16) (s : State) (b : State), (Executes s b) ∧ (ra ≠ 0#5)) :=
  ⟨⟨(threeOperand.get ⟨8, by decide⟩), List.get_mem _ _, 31, 1, 2, core, (begun (core)), begins (by decide +kernel), .inr (by decide +kernel), .inr (by decide +kernel), .inr (by decide +kernel)⟩,
  ⟨(shiftsByCount.get ⟨0, by decide⟩), List.get_mem _ _, 31, 1, 31, core, (begun (core)), begins (by decide +kernel), .inr (by decide +kernel), .inr (by decide +kernel)⟩,
  ⟨(immediates.get ⟨0, by decide⟩), List.get_mem _ _, 31, 1, 0xFFFF, core, (begun (core)), begins (by decide +kernel), .inr (by decide +kernel), .inr (by decide +kernel)⟩,
  ⟨0, 31, core, (begun (core)), begins (by decide +kernel), .inl rfl, .inr (by decide +kernel)⟩,
  ⟨31, 0xFFFF, core, (begun (core)), begins (by decide +kernel), .inr (by decide +kernel)⟩,
  ⟨31, 1, 5, core, (begun (core)), begins (by decide +kernel), by decide +kernel⟩⟩

/-! ### Hypotheses of coreMultipliesCompute -/

theorem test_meets_coreMultipliesCompute : ∃ row ∈ multiplies, ∃ (rd : BitVec 5) (ra : BitVec 5) (rb : BitVec 5) (s : State) (b : State), (Executes s b) ∧ (settledIn b rd) ∧ (settledIn b ra) ∧ (settledIn b rb) :=
  ⟨(multiplies.get ⟨0, by decide⟩), List.get_mem _ _, 31, 1, 2, core, (begun (core)), begins (by decide +kernel), .inr (by decide +kernel), .inr (by decide +kernel), .inr (by decide +kernel)⟩

/-! ### Hypotheses of CoreLoadsAndStoresAct -/

theorem test_meets_coreLoadsAndStoresAct :
    (∃ row ∈ loads, ∃ (rd : BitVec 5) (ra : BitVec 5) (imm : BitVec 16) (s : State) (b : State), (Executes s b) ∧ (settledIn b ra) ∧ 
    let a := accessAt ra imm b
    ∃ (w : _) (t : State), (a.toNat % row.2.1 = 0) ∧ (busRead a.toNat row.2.1 b = .ok (w, t)) ∧ (settledIn t rd)) ∧
    (∃ row ∈ loads, ∃ (rd : BitVec 5) (ra : BitVec 5) (imm : BitVec 16) (s : State) (b : State), (Executes s b) ∧ (settledIn b ra) ∧ 
    let a := accessAt ra imm b
    (a.toNat % row.2.1 ≠ 0)) ∧
    (∃ row ∈ loads, ∃ (rd : BitVec 5) (ra : BitVec 5) (imm : BitVec 16) (s : State) (b : State), (Executes s b) ∧ (settledIn b ra) ∧ 
    let a := accessAt ra imm b
    ∃ (k : _), (a.toNat % row.2.1 = 0) ∧ (busRead a.toNat row.2.1 b = .error k)) ∧
    (∃ row ∈ stores, ∃ (rs : BitVec 5) (ra : BitVec 5) (imm : BitVec 16) (s : State) (b : State), (Executes s b) ∧ (settledIn b ra) ∧ (settledIn b rs) ∧ 
    let a := accessAt ra imm b
    ∃ (t : State), (a.toNat % row.2 = 0) ∧ (busWrite a.toNat row.2 (valueOf rs b) b = .ok t)) ∧
    (∃ row ∈ stores, ∃ (rs : BitVec 5) (ra : BitVec 5) (imm : BitVec 16) (s : State) (b : State), (Executes s b) ∧ (settledIn b ra) ∧ (settledIn b rs) ∧ 
    let a := accessAt ra imm b
    (a.toNat % row.2 ≠ 0)) ∧
    (∃ row ∈ stores, ∃ (rs : BitVec 5) (ra : BitVec 5) (imm : BitVec 16) (s : State) (b : State), (Executes s b) ∧ (settledIn b ra) ∧ (settledIn b rs) ∧ 
    let a := accessAt ra imm b
    ∃ (k : _), (a.toNat % row.2 = 0) ∧ (busWrite a.toNat row.2 (valueOf rs b) b = .error k)) :=
  ⟨⟨(loads.get ⟨1, by decide⟩), List.get_mem _ _, 31, 30, 0xFFFE, core, (begun (core)), begins (by decide +kernel), .inr (by decide +kernel), (okOf (0, core) (busRead 0x20000FFE 2 (begun core))).1, (okOf (0, core) (busRead 0x20000FFE 2 (begun core))).2, by decide +kernel, ok_eq (d := (0, core)) _ (by decide +kernel), .inr (by decide +kernel)⟩,
  ⟨(loads.get ⟨1, by decide⟩), List.get_mem _ _, 31, 30, 0xFFFF, core, (begun (core)), begins (by decide +kernel), .inr (by decide +kernel), by decide +kernel⟩,
  ⟨(loads.get ⟨0, by decide⟩), List.get_mem _ _, 31, 0, 0xFFFC, core, (begun (core)), begins (by decide +kernel), .inl rfl, 0, by decide +kernel, rfl⟩,
  ⟨(stores.get ⟨2, by decide⟩), List.get_mem _ _, 31, 30, 1, core, (begun (core)), begins (by decide +kernel), .inr (by decide +kernel), .inr (by decide +kernel), (okOf core (busWrite 0x20001001 1 (valueOf 31 (begun core)) (begun core))), by decide +kernel, ok_eq _ (by decide +kernel)⟩,
  ⟨(stores.get ⟨0, by decide⟩), List.get_mem _ _, 31, 30, 2, core, (begun (core)), begins (by decide +kernel), .inr (by decide +kernel), .inr (by decide +kernel), by decide +kernel⟩,
  ⟨(stores.get ⟨0, by decide⟩), List.get_mem _ _, 31, 0, 0xFFFC, core, (begun (core)), begins (by decide +kernel), .inl rfl, .inr (by decide +kernel), 0, by decide +kernel, rfl⟩⟩

/-! ### Hypotheses of CoreTransfersAct -/

theorem test_meets_coreTransfersAct_1 :
    (∃ (s : State) (b : State), (Executes s b) ∧ (s.core.slot = none) ∧ (atLoopEnd s = false) ∧ ∃ row ∈ branches, ∃ (ra : BitVec 5) (rb : BitVec 5) (off : BitVec 16), (settledIn b ra) ∧ (settledIn b rb)) ∧
    (∃ (s : State) (b : State), (Executes s b) ∧ (s.core.slot = none) ∧ (atLoopEnd s = false)) ∧
    (∃ (s : State) (b : State), (Executes s b) ∧ (s.core.slot = none) ∧ (atLoopEnd s = false) ∧ ∃ (off : BitVec 26) (t : State), (pushWord (b.core.pc + 8) b = some t)) ∧
    (∃ (s : State) (b : State), (Executes s b) ∧ (s.core.slot = none) ∧ (atLoopEnd s = false) ∧ ∃ (ra : BitVec 5), (settledIn b ra) ∧ ((valueOf ra b).toNat % 4 = 0)) :=
  ⟨⟨core, (begun (core)), begins (by decide +kernel), by decide +kernel, by decide +kernel, (branches.get ⟨2, by decide⟩), List.get_mem _ _, 30, 0, 0xFFFF, .inr (by decide +kernel), .inl rfl⟩,
  ⟨core, (begun (core)), begins (by decide +kernel), by decide +kernel, by decide +kernel⟩,
  ⟨core, (begun (core)), begins (by decide +kernel), by decide +kernel, by decide +kernel, 5, ((pushWord ((begun core).core.pc + 8) (begun core)).getD core), some_eq _ (by decide +kernel)⟩,
  ⟨core, (begun (core)), begins (by decide +kernel), by decide +kernel, by decide +kernel, 30, .inr (by decide +kernel), by decide +kernel⟩⟩

theorem test_meets_coreTransfersAct_2 :
    (∃ (s : State) (b : State), (Executes s b) ∧ (s.core.slot = none) ∧ (atLoopEnd s = false) ∧ ∃ (ra : BitVec 5), (settledIn b ra) ∧ ((valueOf ra b).toNat % 4 ≠ 0)) ∧
    (∃ (s : State) (b : State), (Executes s b) ∧ (s.core.slot = none) ∧ (atLoopEnd s = false) ∧ ∃ (ra : BitVec 5) (t : State), (settledIn b ra) ∧ ((valueOf ra b).toNat % 4 = 0) ∧ (pushWord (b.core.pc + 8) b = some t)) ∧
    (∃ (s : State) (b : State), (Executes s b) ∧ (s.core.slot = none) ∧ (atLoopEnd s = false) ∧ ∃ (w : _) (t : State), (popWord b = some (w, t)) ∧ (w.toNat % 4 = 0)) ∧
    (∃ (s : State) (b : State), (Executes s b) ∧ (s.core.slot = none) ∧ (atLoopEnd s = false) ∧ ∃ (w : _) (t : State), (popWord b = some (w, t)) ∧ (w.toNat % 4 ≠ 0)) ∧
    (∃ (s : State) (b : State), (Executes s b) ∧ (s.core.slot = none) ∧ (atLoopEnd s = false) ∧ ∃ (st : Word) (w : Word) (t : State) (u : State), (popWord b = some (st, t)) ∧ (popWord t = some (w, u)) ∧ (w.toNat % 4 = 0)) :=
  ⟨⟨{ core with core.regs := core.core.regs.set 29 2 }, (begun ({ core with core.regs := core.core.regs.set 29 2 })), begins (by decide +kernel), by decide +kernel, by decide +kernel, 29, .inr (by decide +kernel), by decide +kernel⟩,
  ⟨core, (begun (core)), begins (by decide +kernel), by decide +kernel, by decide +kernel, 30, ((pushWord ((begun core).core.pc + 8) (begun core)).getD core), .inr (by decide +kernel), by decide +kernel, some_eq _ (by decide +kernel)⟩,
  ⟨core, (begun (core)), begins (by decide +kernel), by decide +kernel, by decide +kernel, ((popWord (begun (core))).getD (0, core)).1, ((popWord (begun (core))).getD (0, core)).2, some_eq (d := (0, core)) _ (by decide +kernel), by decide +kernel⟩,
  ⟨{ core with sram := [(0x1000, 1#8)] }, (begun ({ core with sram := [(0x1000, 1#8)] })), begins (by decide +kernel), by decide +kernel, by decide +kernel, ((popWord (begun ({ core with sram := [(0x1000, 1#8)] }))).getD (0, core)).1, ((popWord (begun ({ core with sram := [(0x1000, 1#8)] }))).getD (0, core)).2, some_eq (d := (0, core)) _ (by decide +kernel), by decide +kernel⟩,
  ⟨core, (begun (core)), begins (by decide +kernel), by decide +kernel, by decide +kernel, ((popWord (begun (core))).getD (0, core)).1, ((popWord ((popWord (begun (core))).getD (0, core)).2).getD (0, core)).1, ((popWord (begun (core))).getD (0, core)).2, ((popWord ((popWord (begun (core))).getD (0, core)).2).getD (0, core)).2, some_eq (d := (0, core)) _ (by decide +kernel), some_eq (d := (0, core)) _ (by decide +kernel), by decide +kernel⟩⟩

/-! ### Hypotheses of coreLoopsAndMovesAct -/

theorem test_meets_coreLoopsAndMovesAct_1 :
    (∃ (s : State) (b : State), (Executes s b) ∧ (s.core.slot = none) ∧ (atLoopEnd s = false) ∧ ∃ (n : BitVec 2) (len : BitVec 12), ∃ (h : n.toNat < 3) (ra : BitVec 5), (settledIn b ra) ∧ (2 ≤ len.toNat)) ∧
    (∃ (s : State) (b : State), (Executes s b) ∧ (s.core.slot = none) ∧ (atLoopEnd s = false) ∧ ∃ (n : BitVec 2) (len : BitVec 12), ∃ (h : n.toNat < 3) (cnt : BitVec 5), (2 ≤ len.toNat)) ∧
    (∃ (s : State) (b : State), (Executes s b) ∧ (s.core.slot = none) ∧ (atLoopEnd s = false) ∧ ∃ (n : BitVec 2) (len : BitVec 12), ∃ (ra : BitVec 5) (cnt : BitVec 5), ((n = 3#2 ∨ len.toNat < 2)) ∧ (settledIn b ra)) ∧
    (∃ (s : State) (b : State), (Executes s b) ∧ ∃ (sr : BitVec 5) (ra : BitVec 5), (badSr (BitVec.toNat sr) = false) ∧ (settledIn b ra)) :=
  ⟨⟨core, (begun (core)), begins (by decide +kernel), by decide +kernel, by decide +kernel, 2, 2, (by decide), 30, .inr (by decide +kernel), by decide +kernel⟩,
  ⟨core, (begun (core)), begins (by decide +kernel), by decide +kernel, by decide +kernel, 2, 4095, (by decide), 31, by decide +kernel⟩,
  ⟨core, (begun (core)), begins (by decide +kernel), by decide +kernel, by decide +kernel, 3, 2, 30, 31, .inl rfl, .inr (by decide +kernel)⟩,
  ⟨core, (begun (core)), begins (by decide +kernel), 2, 30, by decide +kernel, .inr (by decide +kernel)⟩⟩

theorem test_meets_coreLoopsAndMovesAct_2 :
    (∃ (s : State) (b : State), (Executes s b) ∧ ∃ (sr : BitVec 5) (r : BitVec 5), (badSr (BitVec.toNat sr) = true)) ∧
    (∃ (s : State) (b : State), (Executes s b) ∧ ∃ (rd : BitVec 5) (sr : BitVec 5) (w : Word) (t : State), (badSr (BitVec.toNat sr) = false) ∧ (readSr sr.toNat b = (w, t)) ∧ (settledIn t rd)) ∧
    (∃ (s : State) (b : State), (Executes s b) ∧ ∃ (rd : BitVec 5) (w : Word) (t : State), (readSr 21 b = (w, t)) ∧ (settledIn t rd)) ∧
    (∃ (s : State) (b : State), (Executes s b) ∧ ∃ (rd : BitVec 5), (settledIn b rd)) :=
  ⟨⟨core, (begun (core)), begins (by decide +kernel), 31, 30, by decide +kernel⟩,
  ⟨core, (begun (core)), begins (by decide +kernel), 31, 2, (readSr 2 (begun core)).1, (readSr 2 (begun core)).2, by decide +kernel, rfl, .inr (by decide +kernel)⟩,
  ⟨core, (begun (core)), begins (by decide +kernel), 31, (readSr 21 (begun core)).1, (readSr 21 (begun core)).2, rfl, .inr (by decide +kernel)⟩,
  ⟨core, (begun (core)), begins (by decide +kernel), 31, .inr (by decide +kernel)⟩⟩

/-! ### Hypotheses of coreStackActs -/

theorem test_meets_coreStackActs :
    (∃ (s : State) (b : State), (Executes s b) ∧ ∃ (ra : BitVec 5) (t : State), (settledIn b ra) ∧ (pushWord (valueOf ra b) b = some t)) ∧
    (∃ (s : State) (b : State), (Executes s b) ∧ ∃ (rd : BitVec 5) (w : Word) (t : State), (rd ≠ 30#5) ∧ (popWord b = some (w, t)) ∧ (settledIn t rd)) ∧
    (∃ (s : State) (b : State), (Executes s b) ∧ ∃ (mask : BitVec 3) (t : State), (pushWords ((List.finRange 3).flatMap fun n => if BitVec.getLsbD mask n.val
        then [b.core.ls[n], b.core.le[n], b.core.lc[n]] else []) b = some t)) ∧
    (∃ (s : State) (b : State), (Executes s b) ∧ ∃ (mask : BitVec 3) (t : State), (popLoopSets mask b = some t)) :=
  ⟨⟨core, (begun (core)), begins (by decide +kernel), 29, ((pushWord (valueOf 29 (begun core)) (begun core)).getD core), .inr (by decide +kernel), some_eq _ (by decide +kernel)⟩,
  ⟨core, (begun (core)), begins (by decide +kernel), 29, ((popWord (begun (core))).getD (0, core)).1, ((popWord (begun (core))).getD (0, core)).2, by decide +kernel, some_eq (d := (0, core)) _ (by decide +kernel), .inr (by decide +kernel)⟩,
  ⟨core, (begun (core)), begins (by decide +kernel), 0#3, (begun (core)), rfl⟩,
  ⟨core, (begun (core)), begins (by decide +kernel), 7, ((popLoopSets 7 (begun core)).getD core), some_eq _ (by decide +kernel)⟩⟩

/-! ### Hypotheses of CoreGoesOn -/

theorem test_meets_coreGoesOn :
    (∃ (s : State), (s.core.specHazards = []) ∧ (s.core.slot = none) ∧ (noLoopEnd s)) ∧
    (∃ (s : State), (s.core.specHazards = []) ∧ ∃ (n : Fin 3), (s.core.slot = none) ∧ (s.core.le[n] = s.core.pc) ∧ (s.core.lc[n] ≠ 0#32) ∧ ((∀ m : Fin 3, m < n → s.core.le[m] ≠ s.core.pc ∨ s.core.lc[m] = 0#32))) ∧
    (∃ (s : State), (s.core.specHazards = []) ∧ ∃ (a : _), (s.core.slot = some a) ∧ (s.core.slotTaken = true)) ∧
    (∃ (s : State), (s.core.specHazards = []) ∧ ∃ (a : _), (s.core.slot = some a) ∧ (s.core.slotTaken = false) ∧ (noLoopEnd s)) :=
  ⟨⟨core, by decide +kernel, by decide +kernel, by unfold noLoopEnd; decide +kernel⟩,
  ⟨{ core with core.lc := core.core.lc.set 1 5 }, by decide +kernel, 1, by decide +kernel, by decide +kernel, by decide +kernel, by decide +kernel⟩,
  ⟨{ core with core.slot := some 8, core.slotTaken := true }, by decide +kernel, 8, by decide +kernel, by decide +kernel⟩,
  ⟨{ core with core.slot := some 8 }, by decide +kernel, 8, by decide +kernel, by decide +kernel, by unfold noLoopEnd; decide +kernel⟩⟩

/-! ### Hypotheses of CoreExceptionsEnter -/

theorem test_meets_coreExceptionsEnter : ∃ (e : Exc) (s : State) (w : Word) (t : State), (s.core.specHazards = []) ∧ (s.core.slot = none) ∧ (s.core.slotStatus = none) ∧ (s.core.status.getLsbD 4 = false) ∧ (noLoopEnd s) ∧ (Framed e.vector (if e.next then s.core.pc + 4 else s.core.pc) s.core.status { s with
      core.fpc := s.core.pc, core.faddr := e.addr.getD s.core.faddr, core.cause := causeOf e false s.core.cause,
      core.slot := none, core.slotStatus := none, core.slotTaken := false } w t) :=
  ⟨({ vector := 5 } : Exc), core, (entered 5 (if (({ vector := 5 } : Exc)).next then core.core.pc + 4 else core.core.pc) core.core.status { core with core.fpc := core.core.pc, core.faddr := (({ vector := 5 } : Exc)).addr.getD core.core.faddr, core.cause := causeOf ({ vector := 5 } : Exc) false core.core.cause, core.slot := none, core.slotStatus := none, core.slotTaken := false }).1, (entered 5 (if (({ vector := 5 } : Exc)).next then core.core.pc + 4 else core.core.pc) core.core.status { core with core.fpc := core.core.pc, core.faddr := (({ vector := 5 } : Exc)).addr.getD core.core.faddr, core.cause := causeOf ({ vector := 5 } : Exc) false core.core.cause, core.slot := none, core.slotStatus := none, core.slotTaken := false }).2, by decide +kernel, by decide +kernel, by decide +kernel, by decide +kernel, by unfold noLoopEnd; decide +kernel, framed (by decide +kernel)⟩

/-! ### Hypotheses of CoreTrapsAndInterruptsAct -/

theorem test_meets_coreTrapsAndInterruptsAct :
    (∃ (s : State) (b : State), (Executes s b) ∧ (s.core.slot = none)) ∧
    (∃ (s : State) (b : State), (Executes s b) ∧ (s.core.slot = none) ∧ (b.sec.debug = .closed)) ∧
    (∃ (s : State) (b : State), (Executes s b) ∧ (s.core.slot = none) ∧ (b.sec.debug ≠ .closed)) ∧
    (∃ (s : State), ((coreRuns s = false ∨ s.core.slot ≠ none ∨ (intcTop s = none ∧ s.core.stale = [])))) ∧
    (∃ (s : State) (v : Nat) (l : Nat), (coreRuns s = true) ∧ (s.core.slot = none) ∧ (s.core.specHazards = []) ∧ (intcTop s = some (v, l)) ∧ (s.core.stale = []) ∧ ((s.core.status.getLsbD 0 = false ∨ l ≤ fld s.core.status 3 1 ∨ s.core.status.getLsbD 4 = true))) ∧
    (∃ (s : State) (v : Nat) (l : Nat), (coreRuns s = true) ∧ (s.core.slot = none) ∧ (s.core.specHazards = []) ∧ (intcTop s = some (v, l)) ∧ (s.core.status.getLsbD 0 = true) ∧ (fld s.core.status 3 1 < l) ∧ (s.core.status.getLsbD 4 = false) ∧ ∃ (w : Word) (t : State), (Framed v s.core.pc s.core.status { s with core.waiting := false } w t)) :=
  ⟨⟨core, (begun (core)), begins (by decide +kernel), by decide +kernel⟩,
  ⟨core, (begun (core)), begins (by decide +kernel), by decide +kernel, by decide +kernel⟩,
  ⟨{ core with sec.debug := .full }, (begun ({ core with sec.debug := .full })), begins (by decide +kernel), by decide +kernel, by decide +kernel⟩,
  ⟨core, by decide +kernel⟩,
  ⟨{ irq with core.status := 0 }, 24, 1, by decide +kernel, by decide +kernel, by decide +kernel, by decide +kernel, by decide +kernel, by decide +kernel⟩,
  ⟨irq, 24, 1, by decide +kernel, by decide +kernel, by decide +kernel, by decide +kernel, by decide +kernel, by decide +kernel, by decide +kernel, (entered 24 irq.core.pc irq.core.status { irq with core.waiting := false }).1, (entered 24 irq.core.pc irq.core.status { irq with core.waiting := false }).2, framed (by decide +kernel)⟩⟩

/-- Whichever the free value is, one of the last two clauses has its hypotheses met. -/
theorem test_meets_coreTrapsAndInterruptsAct_8 : ∃ (s : State) (h : StaleIrq), coreRuns s = true ∧ s.core.slot = none ∧ s.core.specHazards = [] ∧
    intcTop s = none ∧ (s.core.stale.find? fun k => decide (s.core.status.getLsbD 0 = true ∧ fld s.core.status 3 1 < k.level ∧
      s.core.status.getLsbD 4 = false)) = some h ∧
    let kept := { s with core.stale := s.core.stale.filter fun k => k.vector ≠ h.vector, free := s.free + 1 }
    (Config.freeBool s.free = false ∨ (Config.freeBool s.free = true ∧ ∃ w t,
      Framed h.vector s.core.pc s.core.status { kept with core.waiting := false } w t)) :=
  ⟨{ core with core.status := 1, core.stale := [⟨24, 1, 0, 3⟩] }, (⟨24, 1, 0, 3⟩ : StaleIrq), by decide +kernel, by decide +kernel, by decide +kernel, by decide +kernel, by decide +kernel,
    (Bool.eq_false_or_eq_true _).symm.imp_right fun e => ⟨e, _, _, framed (by decide +kernel)⟩⟩

/-! ### Hypotheses of CoreUndefinedPlacesStop -/

theorem test_meets_coreUndefinedPlacesStop :
    (∃ (i : Instr) (s : State), (isTransfer i ∨ isSystem i) ∧ (coreFetches s = true) ∧ (s.core.slot ≠ none)) ∧
    (∃ (i : Instr) (s : State), (isTransfer i) ∧ (coreFetches s = true) ∧ (s.core.slot = none) ∧ (atLoopEnd s = true)) :=
  ⟨⟨(.pbTrap 5), { core with core.slot := some 8 }, .inr (.inl ⟨5, rfl⟩), by decide +kernel, by decide +kernel⟩,
  ⟨.pbRet, { core with core.lc := core.core.lc.set 1 5 }, .inr (.inr (.inr (.inl rfl))), by decide +kernel, by decide +kernel, by decide +kernel⟩⟩

/-! ### Hypotheses of ppsEdgesAct -/

theorem test_meets_ppsEdgesAct :
    (∃ (r : Bool) (lf : Bool) (s : State), ((s.time.enable = false ∨ s.time.activeEdge r = false))) ∧
    (∃ (r : Bool) (lf : Bool) (l : DWord) (s : State), (s.time.enable = true) ∧ (s.power.vio = true) ∧ (s.time.activeEdge r = true) ∧ (s.time.lastEdge = some l) ∧ ((s.time.nt - l).toNat < 2 ^ 31)) ∧
    (∃ (r : Bool) (lf : Bool) (s : State), (s.time.enable = true) ∧ (s.power.vio = true) ∧ (s.time.activeEdge r = true) ∧ (s.time.setPending = none) ∧ ((∀ l, s.time.lastEdge = some l → 2 ^ 31 ≤ (s.time.nt - l).toNat))) :=
  ⟨⟨true, false, run, by decide +kernel⟩,
  ⟨true, false, 5, { run with time.enable := true, time.nt := 6, time.lastEdge := some 5 }, by decide +kernel, by decide +kernel, by decide +kernel, by decide +kernel, by decide +kernel⟩,
  ⟨true, false, { run with time.enable := true }, by decide +kernel, by decide +kernel, by decide +kernel, by decide +kernel, fun l h => nomatch h⟩⟩

/-! ### Hypotheses of servoJudgesEdges -/

theorem test_meets_servoJudgesEdges :
    (∃ (e : Int) (c : DWord) (s : State), (s.time.ppsState = .acquiring) ∧ (2 ^ 22 < e)) ∧
    (∃ (e : Int) (c : DWord) (s : State), (s.time.ppsState = .acquiring) ∧ (e < -2 ^ 22)) ∧
    (∃ (e : Int) (c : DWord) (s : State), (s.time.ppsState = .acquiring) ∧ (e.natAbs ≤ 2 ^ 22)) ∧
    (∃ (e : Int) (c : DWord) (s : State), (s.time.ppsState = .acquiring) ∧ (4295 < e.natAbs)) ∧
    (∃ (e : Int) (c : DWord) (s : State), (s.time.ppsState = .acquiring) ∧ (e.natAbs ≤ 4295) ∧ (s.time.lockCount.val < 3)) ∧
    (∃ (e : Int) (c : DWord) (s : State), (s.time.ppsState = .acquiring) ∧ (e.natAbs ≤ 4295) ∧ (3 ≤ s.time.lockCount.val)) :=
  ⟨⟨(2 ^ 22 + 1), 0, { run with time.ppsState := .acquiring }, by decide +kernel, by decide +kernel⟩,
  ⟨(-2 ^ 22 - 1), 0, { run with time.ppsState := .acquiring }, by decide +kernel, by decide +kernel⟩,
  ⟨(-2 ^ 22), 0, { run with time.ppsState := .acquiring }, by decide +kernel, by decide +kernel⟩,
  ⟨(-4296), 0, { run with time.ppsState := .acquiring }, by decide +kernel, by decide +kernel⟩,
  ⟨4295, 0, { run with time.ppsState := .acquiring, time.lockCount := 2 }, by decide +kernel, by decide +kernel, by decide +kernel⟩,
  ⟨(-4295), 0, { run with time.ppsState := .acquiring, time.lockCount := 3 }, by decide +kernel, by decide +kernel, by decide +kernel⟩⟩

/-! ### Hypotheses of TimeEventsAct -/

theorem test_meets_timeEventsAct_1 :
    (∃ (l : _) (s : State), (s.time.lossFrom = some l) ∧ (elapsedBy l s.time.nt lossUnits = true) ∧ ((s.time.ppsState = .acquiring ∨ s.time.ppsState = .locked))) ∧
    (∃ (q : _) (s : State), (s.time.setPending = some q) ∧ (elapsedBy q.since s.elapsed.now lossUnits = true)) ∧
    (∃ (sl : _) (s : State), (s.time.slew = some sl) ∧ (sl.reached = true)) :=
  ⟨⟨0, { run with time.nt := 0xFFFFFFFFFFFFFFFF#64, time.lossFrom := some 0, time.ppsState := .locked }, by decide +kernel, by decide +kernel, .inr rfl⟩,
  ⟨(⟨.spi, 0, 5, 0⟩ : SetPending), { run with elapsed.now := 0xFFFFFFFFFFFF#64, time.setPending := some (⟨.spi, 0, 5, 0⟩ : SetPending) }, by decide +kernel, by decide +kernel⟩,
  ⟨({ delta := 0, rate := 1, base := 0 } : Slew), { run with time.slew := some { delta := 0, rate := 1, base := 0 } }, by decide +kernel, by decide +kernel⟩⟩

theorem test_meets_timeEventsAct_2 :
    (∃ (s : State), (s.time.onLf = true) ∧ (s.awake = true)) ∧
    (∃ (m : Int) (s : State), (s.power.driftDue = true) ∧ (s.time.onLf = false)) ∧
    (∃ (s : State), (s.time.outEn = true) ∧ (s.time.onLf = false) ∧ (s.awake = true) ∧ (s.power.pll = true) ∧ (s.time.ppsOut = false) ∧ (secondPassed s = true)) ∧
    (∃ (s : State), (s.time.ppsOut = true) ∧ (elapsedBy s.time.ppsOutRise s.elapsed.now (usU s.time.width.toNat) = true)) :=
  ⟨⟨{ run with time.onLf := true }, by decide +kernel, by decide +kernel⟩,
  ⟨5, { run with power.driftDue := true }, by decide +kernel, by decide +kernel⟩,
  ⟨{ run with time.outEn := true }, by decide +kernel, by decide +kernel, by decide +kernel, by decide +kernel, by decide +kernel, by decide +kernel⟩,
  ⟨{ run with time.ppsOut := true, elapsed.now := 0xFFFFFFFFFFFF#64 }, by decide +kernel, by decide +kernel⟩⟩

/-! ### Hypotheses of MarkersAndCapturesAct -/

theorem test_meets_markersAndCapturesAct_1 :
    (∃ (n : Fin 16) (s : State), ((bitAt s.cmps.marks[n].ctrl 0 = false ∨ s.time.nt.toNat < s.cmps.marks[n].target.toNat))) ∧
    (∃ (n : Fin 16) (s : State), 
    let m := s.cmps.marks[n]
    (bitAt m.ctrl 0 = true) ∧ (m.target.toNat ≤ s.time.nt.toNat) ∧ (n.val < 8) ∧ (fld m.ctrl 7 3 = 0)) ∧
    (∃ (n : Fin 8) (ctrl : Word) (s : State), (pageOpen s 0 = true) ∧ 
    let i : Fin 16 := ⟨n.val + 8, by omega⟩
    
    let m := s.cmps.marks[i]
    (bitAt ctrl 0 = true ∨ bitAt m.ctrl 0 = false ∨ s.time.nt.toNat < m.target.toNat)) :=
  ⟨⟨15, { run with cmps.marks := run.cmps.marks.set 15 { ctrl := 1, target := 1 } }, by decide +kernel⟩,
  ⟨7, { run with cmps.marks := run.cmps.marks.set 7 { ctrl := 1 } }, by decide +kernel, by decide +kernel, by decide +kernel, by decide +kernel⟩,
  ⟨7, 0x18, { run with cmps.marks := run.cmps.marks.set 15 { ctrl := 1, target := 1 } }, by decide +kernel, by decide +kernel⟩⟩

theorem test_meets_markersAndCapturesAct_2 :
    (∃ (n : Fin 8) (ctrl : Word) (s : State), (pageOpen s 0 = true) ∧ 
    let i : Fin 16 := ⟨n.val + 8, by omega⟩
    ∃ (t : State), (bitAt ctrl 0 = false) ∧ (exec (.markerFired i) s = .next t)) ∧
    (∃ (u : Fin 4) (i : Instr) (s : State), ((i = .swtrig u ∧ pageOpen s 0 = true ∧ (if u = 0 then s.time.enable else bitAt s.cmps.caps[u].ctrl 0) = true ∨
      ∃ k : Fin 3, i = .capture k ∧ u.val = k.val + 1 ∧ bitAt s.cmps.caps[u].ctrl 0 = true ∧
        1 ≤ fld s.cmps.caps[u].ctrl 4 2 ∧ fld s.cmps.caps[u].ctrl 4 2 ≤ 4)) ∧ (s.cmps.caps[u].moveDue = false)) ∧
    (∃ (u : Fin 4) (s : State), (pageOpen s 0 = true) ∧ 
    let c0 := s.cmps.caps[u]
    
    let c := if c0.moveDue then { c0 with value := c0.slot.getD c0.value, new := c0.new || c0.slot.isSome, slot := none, moveDue := false }
      else c0
    (c.frozen = true)) ∧
    (∃ (u : Fin 4) (s : State), (pageOpen s 0 = true) ∧ 
    let c0 := s.cmps.caps[u]
    
    let c := if c0.moveDue then { c0 with value := c0.slot.getD c0.value, new := c0.new || c0.slot.isSome, slot := none, moveDue := false }
      else c0
    (c.frozen = false)) :=
  ⟨⟨7, 0x18, { run with cmps.marks := run.cmps.marks.set 15 { ctrl := 1 } }, by decide +kernel, (after (exec (.markerFired 15) ({ run with cmps.marks := run.cmps.marks.set 15 { ctrl := 1 } }))), by decide +kernel, after_eq (by decide +kernel)⟩,
  ⟨3, (.capture 2), { run with cmps.caps := run.cmps.caps.set 3 { ctrl := 0x11 } }, .inr ⟨2, by decide +kernel⟩, by decide +kernel⟩,
  ⟨3, { run with cmps.caps := run.cmps.caps.set 3 { frozen := true } }, by decide +kernel, by decide +kernel⟩,
  ⟨0, run, by decide +kernel, by decide +kernel⟩⟩

/-! ### Hypotheses of basicTimersAct -/

theorem test_meets_basicTimersAct_1 :
    (∃ (n : Fin 8) (s : State), (pageOpen s dPERI = true) ∧ 
    let b := s.peri.bt[n]
    (b.running = false)) ∧
    (∃ (n : Fin 8) (s : State), (pageOpen s dPERI = true) ∧ 
    let b := s.peri.bt[n]
    (b.running = true)) ∧
    (∃ (n : Fin 8) (s : State), (pageOpen s dPERI = true)) ∧
    (∃ (n : Fin 8) (s : State), 
    let b := s.peri.bt[n]
    (s.isUsable dPERI = true) ∧ (b.running = true) ∧ (b.endDue = true) ∧ (bitAt b.ctrl 17 = false) ∧ (bitAt b.ctrl 18 = false) ∧ ((∀ k : Fin 4, bitAt s.cmps.caps[k].ctrl 0 = false))) :=
  ⟨⟨7, run, by decide +kernel, by decide +kernel⟩,
  ⟨7, { run with peri.bt := run.peri.bt.set 7 { running := true } }, by decide +kernel, by decide +kernel⟩,
  ⟨7, run, by decide +kernel⟩,
  ⟨7, { run with peri.bt := run.peri.bt.set 7 { running := true, endDue := true } }, by decide +kernel, by decide +kernel, by decide +kernel, by decide +kernel, by decide +kernel, by decide +kernel⟩⟩

theorem test_meets_basicTimersAct_2 :
    (∃ (n : Fin 8) (s : State), ((s.peri.bt[n].running = false ∨ s.peri.bt[n].endDue = false))) ∧
    (∃ (b : BasicTimer) (gate : Bool), 
    let a := b.acc + 256
    (a < b.presc.toNat)) ∧
    (∃ (b : BasicTimer) (gate : Bool), 
    let a := b.acc + 256
    (b.presc.toNat ≤ a) ∧ (gate = false)) ∧
    (∃ (b : BasicTimer) (gate : Bool), 
    let a := b.acc + 256
    (b.presc.toNat ≤ a) ∧ (gate = true)) :=
  ⟨⟨0, run, by decide +kernel⟩,
  ⟨({ presc := 0x180#16 } : BasicTimer), true, by decide +kernel⟩,
  ⟨({} : BasicTimer), false, by decide +kernel, by decide +kernel⟩,
  ⟨({} : BasicTimer), true, by decide +kernel, by decide +kernel⟩⟩

/-! ### Hypotheses of pinsAndRegistersAct -/

theorem test_meets_pinsAndRegistersAct :
    (∃ (p : Fin 4) (w : Word) (s : State), (pageOpen s dPERI = true)) ∧
    (∃ (pin : Fin 64) (level : Bool) (cycles : Nat) (s : State), ((cycles < 2 ∨ pinPresent s (Fin.val pin) = false))) ∧
    (∃ (pin : Fin 64) (level : Bool) (cycles : Nat) (s : State), (2 ≤ cycles) ∧ (pinPresent s (Fin.val pin) = true)) ∧
    (∃ (w : Word) (s : State), (pageOpen s dAPP = true)) ∧
    (∃ (addr : Word) (value : Word) (s : State) (t : State), (s.awake = true) ∧ (s.on dAPP = true) ∧ (inDmaPages addr.toNat = true) ∧ (addr.toNat % 4 = 0) ∧ (busWrite addr.toNat 4 value s = .ok t)) ∧
    (∃ (addr : Word) (value : Word) (s : State) (k : Nat), (s.awake = true) ∧ (s.on dAPP = true) ∧ (inDmaPages addr.toNat = true) ∧ (addr.toNat % 4 = 0) ∧ (busWrite addr.toNat 4 value s = .error k)) :=
  ⟨⟨3, 5, run, by decide +kernel⟩,
  ⟨63, true, 1, run, .inl (by decide)⟩,
  ⟨0, true, 2, run, by decide +kernel, by decide +kernel⟩,
  ⟨5, run, by decide +kernel⟩,
  ⟨0x50000000, 1, run, (okOf run (busWrite 0x50000000 4 1 run)), by decide +kernel, by decide +kernel, by decide +kernel, by decide +kernel, ok_eq _ (by decide +kernel)⟩,
  ⟨0x4000F000, 1, run, 0, by decide +kernel, by decide +kernel, by decide +kernel, by decide +kernel, rfl⟩⟩

/-! ### Hypotheses of SerialControllersAct -/

theorem test_meets_serialControllersAct_1 :
    (∃ (c : Fin 2) (s : State), (pageOpen s dPERI = true) ∧ 
    let k := s.peri.spic[c]
    ∃ (w : Word), (k.tx.length < 8)) ∧
    (∃ (c : Fin 2) (s : State), (pageOpen s dPERI = true) ∧ 
    let k := s.peri.spic[c]
    ∃ (w : Word) (rest : List Word), (k.rx = w :: rest)) ∧
    (∃ (c : Fin 2) (s : State), (pageOpen s dPERI = true) ∧ 
    let k := s.peri.spic[c]
    (k.wire = none) ∧ (k.tx = [])) ∧
    (∃ (c : Fin 2) (s : State), (pageOpen s dPERI = true) ∧ 
    let k := s.peri.spic[c]
    (k.wire ≠ none ∨ k.tx ≠ [])) ∧
    (∃ (c : Fin 2) (miso : Word) (s : State), 
    let k := s.peri.spic[c]
    (s.isUsable dPERI = true) ∧ (k.wire ≠ none) ∧ (fld k.ctrl 5 4 < 3)) ∧
    (∃ (c : Fin 2) (s : State), (pageOpen s dPERI = true) ∧ 
    let k := s.peri.i2c[c]
    ∃ (w : Word), (k.cmd = none) ∧ (bitAt k.ctrl 0 = true) ∧ (fld w 15 8 ≠ 0)) :=
  ⟨⟨1, { run with peri.spic := run.peri.spic.set 1 { tx := List.replicate 7 0 } }, by decide +kernel, 5, by decide +kernel⟩,
  ⟨1, { run with peri.spic := run.peri.spic.set 1 { rx := [5] } }, by decide +kernel, 5, [], by decide +kernel⟩,
  ⟨1, run, by decide +kernel, by decide +kernel, by decide +kernel⟩,
  ⟨1, { run with peri.spic := run.peri.spic.set 1 { tx := [5] } }, by decide +kernel, .inr (by decide +kernel)⟩,
  ⟨1, 0xFFFFFFFF, { run with peri.spic := run.peri.spic.set 1 { wire := some 5, ctrl := 0x20 } }, by decide +kernel, by decide +kernel, by decide +kernel⟩,
  ⟨1, { run with peri.i2c := run.peri.i2c.set 1 { ctrl := 1 } }, by decide +kernel, 0x0100, by decide +kernel, by decide +kernel, by decide +kernel⟩⟩

theorem test_meets_serialControllersAct_2 :
    (∃ (c : Fin 2) (s : State), (pageOpen s dPERI = true) ∧ 
    let k := s.peri.i2c[c]
    ∃ (w : Byte), (k.tx.length < 8)) ∧
    (∃ (c : Fin 2) (s : State), (pageOpen s dPERI = true) ∧ 
    let k := s.peri.i2c[c]
    ∃ (b : Byte) (rest : List Byte), (k.rx = b :: rest)) ∧
    (∃ (c : Fin 2) (acked : Bool) (rx : Byte) (m : I2cCmd) (s : State), 
    let k := s.peri.i2c[c]
    (s.isUsable dPERI = true) ∧ (k.cmd = some m) ∧ (m.addressed = false) ∧ (acked = true)) ∧
    (∃ (c : Fin 2) (acked : Bool) (rx : Byte) (m : I2cCmd) (s : State), 
    let k := s.peri.i2c[c]
    (s.isUsable dPERI = true) ∧ (k.cmd = some m) ∧ (m.addressed = false) ∧ (acked = false)) ∧
    (∃ (c : Fin 2) (acked : Bool) (rx : Byte) (m : I2cCmd) (s : State), 
    let k := s.peri.i2c[c]
    (s.isUsable dPERI = true) ∧ (k.cmd = some m) ∧ (m.addressed = true) ∧ (m.read = true) ∧ (k.rx.length < 8)) ∧
    (∃ (c : Fin 2) (acked : Bool) (rx : Byte) (m : I2cCmd) (s : State), 
    let k := s.peri.i2c[c]
    (s.isUsable dPERI = true) ∧ (k.cmd = some m) ∧ ∃ (b : Byte) (rest : List Byte), (m.addressed = true) ∧ (m.read = false) ∧ (k.tx = b :: rest) ∧ (acked = true)) :=
  ⟨⟨1, run, by decide +kernel, 5, by decide +kernel⟩,
  ⟨1, { run with peri.i2c := run.peri.i2c.set 1 { rx := [5] } }, by decide +kernel, 5, [], by decide +kernel⟩,
  ⟨1, true, 5, ({ addr := 5, read := true, count := 2, stop := true, addressed := false } : I2cCmd), { run with peri.i2c := run.peri.i2c.set 1 { cmd := some ({ addr := 5, read := true, count := 2, stop := true, addressed := false } : I2cCmd) } }, by decide +kernel, by decide +kernel, by decide +kernel, by decide +kernel⟩,
  ⟨1, false, 5, ({ addr := 5, read := true, count := 2, stop := true, addressed := false } : I2cCmd), { run with peri.i2c := run.peri.i2c.set 1 { cmd := some ({ addr := 5, read := true, count := 2, stop := true, addressed := false } : I2cCmd) } }, by decide +kernel, by decide +kernel, by decide +kernel, by decide +kernel⟩,
  ⟨1, true, 5, ({ addr := 5, read := true, count := 2, stop := true, addressed := true } : I2cCmd), { run with peri.i2c := run.peri.i2c.set 1 { cmd := some ({ addr := 5, read := true, count := 2, stop := true, addressed := true } : I2cCmd) } }, by decide +kernel, by decide +kernel, by decide +kernel, by decide +kernel, by decide +kernel⟩,
  ⟨1, true, 5, ({ addr := 5, read := false, count := 2, stop := true, addressed := true } : I2cCmd), { run with peri.i2c := run.peri.i2c.set 1 { cmd := some ({ addr := 5, read := false, count := 2, stop := true, addressed := true } : I2cCmd), tx := [5] } }, by decide +kernel, by decide +kernel, 5, [], by decide +kernel, by decide +kernel, by decide +kernel, by decide +kernel⟩⟩

theorem test_meets_serialControllersAct_3 :
    (∃ (c : Fin 2) (acked : Bool) (rx : Byte) (m : I2cCmd) (s : State), 
    let k := s.peri.i2c[c]
    (s.isUsable dPERI = true) ∧ (k.cmd = some m) ∧ ∃ (b : Byte) (rest : List Byte), (m.addressed = true) ∧ (m.read = false) ∧ (k.tx = b :: rest) ∧ (acked = false)) ∧
    (∃ (u : Fin 3) (s : State), (pageOpen s dPERI = true) ∧ 
    let k := s.peri.uart[u]
    ∃ (w : Byte), (k.tx.length < 16)) ∧
    (∃ (u : Fin 3) (s : State), (pageOpen s dPERI = true) ∧ 
    let k := s.peri.uart[u]
    ∃ (c : BitVec 11) (rest : List (BitVec 11)), (k.rx = c :: rest)) ∧
    (∃ (u : Fin 3) (s : State), (pageOpen s dPERI = true) ∧ 
    let k := s.peri.uart[u]
    (k.rx = [])) ∧
    (∃ (u : Fin 3) (d : Byte) (ferr : Bool) (brk : Bool) (s : State), 
    let k := s.peri.uart[u]
    (s.isUsable dPERI = true) ∧ (s.awake = true) ∧ (bitAt k.ctrl 0 = true) ∧ (bitAt k.ctrl 1 = true) ∧ (k.active = true)) ∧
    (∃ (u : Fin 3) (d : Byte) (ferr : Bool) (brk : Bool) (s : State), 
    let k := s.peri.uart[u]
    (s.isUsable dPERI = true) ∧ (s.awake = true) ∧ (bitAt k.ctrl 0 = true) ∧ (bitAt k.ctrl 1 = true) ∧ ∃ (c : _), (s.power.hfxo = true) ∧ (k.wire = some c)) :=
  ⟨⟨1, false, 5, ({ addr := 5, read := false, count := 2, stop := true, addressed := true } : I2cCmd), { run with peri.i2c := run.peri.i2c.set 1 { cmd := some ({ addr := 5, read := false, count := 2, stop := true, addressed := true } : I2cCmd), tx := [5] } }, by decide +kernel, by decide +kernel, 5, [], by decide +kernel, by decide +kernel, by decide +kernel, by decide +kernel⟩,
  ⟨2, run, by decide +kernel, 5, by decide +kernel⟩,
  ⟨2, { run with peri.uart := run.peri.uart.set 2 { rx := [5] } }, by decide +kernel, 5, [], by decide +kernel⟩,
  ⟨2, run, by decide +kernel, by decide +kernel⟩,
  ⟨2, 5, true, false, { run with peri.uart := run.peri.uart.set 2 { ctrl := 3, active := true } }, by decide +kernel, by decide +kernel, by decide +kernel, by decide +kernel, by decide +kernel⟩,
  ⟨2, 5, true, false, { run with peri.uart := run.peri.uart.set 2 { ctrl := 3, wire := some 5 } }, by decide +kernel, by decide +kernel, by decide +kernel, by decide +kernel, 5, by decide +kernel, by decide +kernel⟩⟩

/-! ### Hypotheses of converterAndDmaAct -/

theorem test_meets_converterAndDmaAct_1 :
    (∃ (s : State), (pageOpen s dPERI = true) ∧ (bitAt s.peri.adc.ctrl 0 = true) ∧ (s.isUsable dKERB = true)) ∧
    (∃ (s : State), (pageOpen s dPERI = true) ∧ ∃ (r : BitVec 18) (rest : List (BitVec 18)), (s.peri.adc.fifo = r :: rest)) ∧
    (∃ (i : Nat) (r : BitVec 12) (n : Sensors) (s : State), 
    let a := s.peri.adc
    (a.busy = some i) ∧ (s.isUsable dPERI = true) ∧ (s.isUsable dKERB = true) ∧ (s.awake = true) ∧ (adcChannel a i ≠ 8)) ∧
    (∃ (s : State), (pageOpen s dPERI = true)) ∧
    (∃ (s : State), (pageOpen s dPERI = true) ∧ ∃ (ch : Fin 16), 
    let c := s.peri.dma[ch]
    (bitAt c.ctrl 0 = true)) ∧
    (∃ (s : State), (pageOpen s dPERI = true) ∧ ∃ (ch : Fin 16), 
    let c := s.peri.dma[ch]
    ∃ (ctrl : Word), (bitAt c.ctrl 0 = false) ∧ (bitAt ctrl 1 = false)) :=
  ⟨⟨{ run with peri.adc := { ctrl := 1 } }, by decide +kernel, by decide +kernel, by decide +kernel⟩,
  ⟨{ run with peri.adc := { fifo := [5] } }, by decide +kernel, 5, [], by decide +kernel⟩,
  ⟨0, 5, ⟨0, 0⟩, { run with peri.adc := { busy := some 0 } }, by decide +kernel, by decide +kernel, by decide +kernel, by decide +kernel, by decide +kernel⟩,
  ⟨run, by decide +kernel⟩,
  ⟨{ run with peri.dma := run.peri.dma.set 15 { ctrl := 1 } }, by decide +kernel, 15, by decide +kernel⟩,
  ⟨run, by decide +kernel, 15, 1, by decide +kernel, by decide +kernel⟩⟩

theorem test_meets_converterAndDmaAct_2 :
    (∃ (s : State), (s.peri.dmaEn = false ∨ dmaPick (fun _ => true) s = none)) ∧
    (∃ (ch : _) (s : State), (s.awake = true) ∧ (s.isUsable dPERI = true) ∧ (s.peri.dmaEn = true) ∧ (dmaPick (fun _ => true) s = some ch)) ∧
    (∃ (s : State), (pageOpen s dKERB = true) ∧ (s.kerb.running = false)) ∧
    (∃ (s : State), (pageOpen s dKERB = true) ∧ (s.kerb.running = true) ∧ (s.kerb.held = false)) ∧
    (∃ (s : State), (pageOpen s dKERB = true) ∧ (s.kerb.running = true) ∧ (s.kerb.held = true)) ∧
    (∃ (s : State), (pageOpen s 0 = true)) :=
  ⟨⟨run, .inl rfl⟩,
  ⟨15, { run with peri.dma := run.peri.dma.set 15 { ctrl := 0x0D, pend := true }, peri.dmaEn := true }, by decide +kernel, by decide +kernel, by decide +kernel, by decide +kernel⟩,
  ⟨run, by decide +kernel, by decide +kernel⟩,
  ⟨{ run with kerb.running := true }, by decide +kernel, by decide +kernel, by decide +kernel⟩,
  ⟨{ run with kerb.running := true, kerb.held := true }, by decide +kernel, by decide +kernel, by decide +kernel⟩,
  ⟨run, by decide +kernel⟩⟩

/-! ### Hypotheses of dmaServesTheHighestPriority -/

theorem test_meets_dmaServesTheHighestPriority : ∃ (s : State) (ch : _), (dmaPick (fun _ => true) s = some ch) ∧ ∃ (k : Fin 16), (dmaWork s k = true) ∧ (s.peri.dma[k].prio = s.peri.dma[ch].prio) ∧ (0 < s.peri.dma[k].burstLeft) :=
  ⟨{ run with peri.dma := run.peri.dma.set 15 { ctrl := 1, serving := true, burstLeft := 2 }, peri.dmaEn := true }, 15, by decide +kernel, 15, by decide +kernel, by decide +kernel, by decide +kernel⟩

/-! ### Hypotheses of ReceptionContextsAct -/

theorem test_meets_receptionContextsAct_1 :
    (∃ (d : Detect) (s : State), ((s.radio.mode ≠ .rx ∨ s.radio.blanked = true ∨ s.bg.drain ≠ none ∨ pathReception d.boulevard s = none))) ∧
    (∃ (d : Detect) (r : Reception) (s : State), (d.boulevard = false) ∧ (s.radio.mode = .rx) ∧ (s.radio.blanked = false) ∧ (s.bg.drain = none) ∧ (s.rx.alley = some r) ∧ (r.draining = none) ∧ ((s.phy.profiles[r.profile]).ofdm = false) ∧ (d.k = (s.phy.profiles[r.profile]).k) ∧ (40 ≤ d.metric) ∧ (s.rx.alleyCtx.st ≠ .committed) ∧ (s.rx.alleyCtx.provisional = false)) ∧
    (∃ (d : Detect) (r : Reception) (pl : Plan) (fc : BitVec 2) (mk : BitVec 9) (a : Bool) (b : BitVec 12) (c : Int) (s : State), (d.boulevard = true) ∧ (s.radio.mode = .rx) ∧ (s.radio.blanked = false) ∧ (s.bg.drain = none) ∧ (s.rx.blvd = some r) ∧ (r.draining = none) ∧ (s.rx.plan = some pl) ∧ (pl.entries[d.entry.val]? = some (.chirp fc mk a b c)) ∧ (6 ≤ d.k) ∧ (mk.getLsbD (d.k - 6) = true) ∧ ((pl.detThresh : Int) ≤ d.metric) ∧ ((∀ n : Fin 64, (s.rx.ctxs[n].entry = d.entry ∧ sameFrame d s.rx.ctxs[n] = true) → False)) ∧ (overlapped d s = none)) ∧
    (∃ (d : Detect) (e : Detect) (s : State) (s1 : State) (t : State), (d.boulevard = true) ∧ (e.boulevard = false) ∧ (exec (.detection e none) s = .next s1) ∧ (exec (.detection d none) s1 = .next t)) ∧
    (∃ (id : CtxId) (o : SymbolObs) (s : State), (ctxPresent id s = true) ∧ ((ctxOf id s).busy = true) ∧ 
    let x := ctxOf id s
    (x.ofdm = true)) ∧
    (∃ (id : CtxId) (o : SymbolObs) (s : State), (ctxPresent id s = true) ∧ ((ctxOf id s).busy = true) ∧ 
    let x := ctxOf id s
    (x.ofdm = false)) :=
  ⟨⟨({ boulevard := false, entry := 0, k := 9, bin := 0, offset := 0, chip := 0, metric := 40, power := 0, gain := 5 } : Detect), run, .inl (by decide +kernel)⟩,
  ⟨({ boulevard := false, entry := 0, k := 9, bin := 0, offset := 0, chip := 0, metric := 40, power := 0, gain := 5 } : Detect), ({ port := .spi, profile := 0, anyNet := false, monitor := false } : Reception), { run with radio.mode := .rx, rx.alley := some ({ port := .spi, profile := 0, anyNet := false, monitor := false } : Reception) }, by decide +kernel, by decide +kernel, by decide +kernel, by decide +kernel, by decide +kernel, by decide +kernel, by decide +kernel, by decide +kernel, by decide +kernel, by decide +kernel, by decide +kernel⟩,
  ⟨({ boulevard := true, entry := 0, k := 9, bin := 0, offset := 0, chip := 0, metric := 24, power := 0, gain := 5 } : Detect), ({ port := .spi, profile := 0, anyNet := false, monitor := false } : Reception), ({ entries := [.chirp 1 8 false 0x41 0], capture := false, cancelMin := 1, cancelMax := 10, captureDb := 0, centre := 868000000, detThresh := 24, gain := 0, gainFixed := false } : Plan), 1, 8, false, 0x41, 0, { run with radio.mode := .rx, rx.blvd := some ({ port := .spi, profile := 0, anyNet := false, monitor := false } : Reception), rx.plan := some ({ entries := [.chirp 1 8 false 0x41 0], capture := false, cancelMin := 1, cancelMax := 10, captureDb := 0, centre := 868000000, detThresh := 24, gain := 0, gainFixed := false } : Plan) }, by decide +kernel, by decide +kernel, by decide +kernel, by decide +kernel, by decide +kernel, by decide +kernel, by decide +kernel, by decide +kernel, by decide +kernel, by decide +kernel, by decide +kernel, by decide +kernel, by decide +kernel⟩,
  ⟨({ boulevard := true, entry := 0, k := 9, bin := 0, offset := 0, chip := 0, metric := 24, power := 0, gain := 5 } : Detect), ({ boulevard := false, entry := 0, k := 9, bin := 0, offset := 0, chip := 0, metric := 40, power := 0, gain := 5 } : Detect), { run with radio.mode := .rx, rx.blvd := some ({ port := .spi, profile := 0, anyNet := false, monitor := false } : Reception), rx.plan := some ({ entries := [.chirp 1 8 false 0x41 0], capture := false, cancelMin := 1, cancelMax := 10, captureDb := 0, centre := 868000000, detThresh := 24, gain := 0, gainFixed := false } : Plan), rx.alley := some ({ port := .spi, profile := 0, anyNet := false, monitor := false } : Reception) }, (after (exec (.detection ({ boulevard := false, entry := 0, k := 9, bin := 0, offset := 0, chip := 0, metric := 40, power := 0, gain := 5 } : Detect) none) ({ run with radio.mode := .rx, rx.blvd := some ({ port := .spi, profile := 0, anyNet := false, monitor := false } : Reception), rx.plan := some ({ entries := [.chirp 1 8 false 0x41 0], capture := false, cancelMin := 1, cancelMax := 10, captureDb := 0, centre := 868000000, detThresh := 24, gain := 0, gainFixed := false } : Plan), rx.alley := some ({ port := .spi, profile := 0, anyNet := false, monitor := false } : Reception) }))), (after (exec (.detection ({ boulevard := true, entry := 0, k := 9, bin := 0, offset := 0, chip := 0, metric := 24, power := 0, gain := 5 } : Detect) none) (after (exec (.detection ({ boulevard := false, entry := 0, k := 9, bin := 0, offset := 0, chip := 0, metric := 40, power := 0, gain := 5 } : Detect) none) ({ run with radio.mode := .rx, rx.blvd := some ({ port := .spi, profile := 0, anyNet := false, monitor := false } : Reception), rx.plan := some ({ entries := [.chirp 1 8 false 0x41 0], capture := false, cancelMin := 1, cancelMax := 10, captureDb := 0, centre := 868000000, detThresh := 24, gain := 0, gainFixed := false } : Plan), rx.alley := some ({ port := .spi, profile := 0, anyNet := false, monitor := false } : Reception) }))))), by decide +kernel, by decide +kernel, after_eq (by decide +kernel), after_eq (by decide +kernel)⟩,
  ⟨(.blvd 63), ({ peak := 0, metric := 30, power := 5, others := [], bins := [] } : SymbolObs), { run with rx.ctxs := run.rx.ctxs.set 63 { st := .header, ofdm := true }, rx.blvd := some ({ port := .spi, profile := 0, anyNet := false, monitor := false } : Reception), rx.plan := some ({ entries := [.chirp 1 8 false 0x41 0], capture := false, cancelMin := 1, cancelMax := 10, captureDb := 0, centre := 868000000, detThresh := 24, gain := 0, gainFixed := false } : Plan) }, by decide +kernel, by decide +kernel, by decide +kernel⟩,
  ⟨(.blvd 63), ({ peak := 0, metric := 30, power := 5, others := [], bins := [] } : SymbolObs), { run with rx.ctxs := run.rx.ctxs.set 63 { st := .header, k := 9 }, rx.blvd := some ({ port := .spi, profile := 0, anyNet := false, monitor := false } : Reception), rx.plan := some ({ entries := [.chirp 1 8 false 0x41 0], capture := false, cancelMin := 1, cancelMax := 10, captureDb := 0, centre := 868000000, detThresh := 24, gain := 0, gainFixed := false } : Plan) }, by decide +kernel, by decide +kernel, by decide +kernel⟩⟩

theorem test_meets_receptionContextsAct_2 :
    (∃ (id : CtxId) (first : Rat) (second : Rat) (s : State), (ctxPresent id s = true) ∧ ((ctxOf id s).st = .sync) ∧ ((ctxOf id s).synced = false) ∧ 
    let x := ctxOf id s
    
    let high := syncHalf x first
    
    let low := syncHalf x second
    
    let mine := if ctxAnyNet id s then high ≠ 0#6 && low ≠ 0#6 else high ++ low == x.profile.netid
    (x.symbols ≤ 60) ∧ (mine = true)) ∧
    (∃ (id : CtxId) (first : Rat) (second : Rat) (s : State), (ctxPresent id s = true) ∧ ((ctxOf id s).st = .sync) ∧ ((ctxOf id s).synced = false) ∧ 
    let x := ctxOf id s
    
    let high := syncHalf x first
    
    let low := syncHalf x second
    
    let mine := if ctxAnyNet id s then high ≠ 0#6 && low ≠ 0#6 else high ++ low == x.profile.netid
    (x.symbols ≤ 60) ∧ (mine = false)) ∧
    (∃ (id : CtxId) (first : Rat) (second : Rat) (s : State), (ctxPresent id s = true) ∧ ((ctxOf id s).st = .sync) ∧ ((ctxOf id s).synced = false) ∧ 
    let x := ctxOf id s
    (60 < x.symbols)) ∧
    (∃ (id : CtxId) (s : State), (ctxPresent id s = true) ∧ ((ctxOf id s).st = .sync) ∧ 
    let x := ctxOf id s
    ((x.synced = true ∨ 60 ≤ x.symbols))) ∧
    (∃ (id : CtxId) (s : State), (ctxPresent id s = true) ∧ ((ctxOf id s).st = .sync) ∧ 
    let x := ctxOf id s
    (x.synced = false) ∧ (x.symbols < 60)) ∧
    (∃ (id : CtxId) (s : State), (ctxPresent id s = true) ∧ ((ctxOf id s).st = .sync) ∧ 
    let x := ctxOf id s
    ∃ (first : Rat) (second : Rat), (x.synced = true)) :=
  ⟨⟨.alley, 8, 8, { run with rx.alley := some ({ port := .spi, profile := 0, anyNet := false, monitor := false } : Reception), rx.alleyCtx := { st := .sync, k := 9, profile := { netid := 0x41 } } }, by decide +kernel, by decide +kernel, by decide +kernel, by decide +kernel, by decide +kernel⟩,
  ⟨(.blvd 63), 8, 16, { run with rx.ctxs := run.rx.ctxs.set 63 { st := .sync, k := 9, profile := { netid := 0x41 } }, rx.blvd := some ({ port := .spi, profile := 0, anyNet := false, monitor := false } : Reception), rx.plan := some ({ entries := [.chirp 1 8 false 0x41 0], capture := false, cancelMin := 1, cancelMax := 10, captureDb := 0, centre := 868000000, detThresh := 24, gain := 0, gainFixed := false } : Plan) }, by decide +kernel, by decide +kernel, by decide +kernel, by decide +kernel, by decide +kernel⟩,
  ⟨.alley, 8, 8, { run with rx.alley := some ({ port := .spi, profile := 0, anyNet := false, monitor := false } : Reception), rx.alleyCtx := { st := .sync, k := 9, profile := { netid := 0x41 }, symbols := 61 } }, by decide +kernel, by decide +kernel, by decide +kernel, by decide +kernel⟩,
  ⟨.alley, { run with rx.alley := some ({ port := .spi, profile := 0, anyNet := false, monitor := false } : Reception), rx.alleyCtx := { st := .sync, symbols := 60 } }, by decide +kernel, by decide +kernel, .inr (by decide +kernel)⟩,
  ⟨.alley, { run with rx.alley := some ({ port := .spi, profile := 0, anyNet := false, monitor := false } : Reception), rx.alleyCtx := { st := .sync, symbols := 59 } }, by decide +kernel, by decide +kernel, by decide +kernel, by decide +kernel⟩,
  ⟨.alley, { run with rx.alley := some ({ port := .spi, profile := 0, anyNet := false, monitor := false } : Reception), rx.alleyCtx := { st := .sync, synced := true } }, by decide +kernel, by decide +kernel, 3, 5, by decide +kernel⟩⟩

theorem test_meets_receptionContextsAct_3 :
    (∃ (id : CtxId) (s : State), (ctxPresent id s = true) ∧ ((ctxOf id s).st = .header) ∧ (headerHeard (ctxOf id s) = true) ∧ 
    let x := ctxOf id s
    
    let bits := (headerBits x).1
    
    let ok := if x.ofdm then ofdmHeaderOk bits else chirpHeaderOk (BitVec.setWidth 32 bits) (headerBits x).2
    (ok = false)) ∧
    (∃ (id : CtxId) (s : State), (ctxPresent id s = true) ∧ ((ctxOf id s).st = .header) ∧ (headerHeard (ctxOf id s) = true) ∧ 
    let x := ctxOf id s
    
    let bits := (headerBits x).1
    
    let h := headerOf x bits s
    
    let ok := if x.ofdm then ofdmHeaderOk bits else chirpHeaderOk (BitVec.setWidth 32 bits) (headerBits x).2
    (ok = true) ∧ (x.ofdm = true) ∧ (mapContent s h.map.toNat = none)) ∧
    (∃ (id : CtxId) (s : State), (ctxPresent id s = true) ∧ ((ctxOf id s).st = .header) ∧ (headerHeard (ctxOf id s) = true) ∧ 
    let x := ctxOf id s
    
    let bits := (headerBits x).1
    
    let h := headerOf x bits s
    
    let ok := if x.ofdm then ofdmHeaderOk bits else chirpHeaderOk (BitVec.setWidth 32 bits) (headerBits x).2
    (ok = true) ∧ ((x.ofdm = false ∨ mapContent s h.map.toNat ≠ none))) ∧
    (∃ (id : CtxId) (level : FrameLevel) (r : Reception) (s : State), (ctxPresent id s = true) ∧ ((ctxOf id s).st = .committed) ∧ (pathReception (isBlvd id) s = some r) ∧ (payloadBits (ctxOf id s) s ≤ (ctxOf id s).bits.length)) ∧
    (∃ (up : Bool) (s : State), ((s.rx.blvd = none ∨ s.rx.plan = none ∨ s.radio.mode ≠ .rx))) ∧
    (∃ (up : Bool) (r : Reception) (pl : Plan) (s : State), (s.rx.blvd = some r) ∧ (s.rx.plan = some pl) ∧ (pl.gainFixed = false) ∧ (s.radio.mode = .rx) ∧ ((up = true → ∀ id ∈ allCtxs, (ctxOf id s).st ≠ .header ∧ (ctxOf id s).st ≠ .committed)) ∧ 
    let g := gainStep (s.radio.rfNow.extLna && s.radio.rfNow.lnaBypass) up s.rx.gain
    (g ≠ s.rx.gain)) :=
  ⟨⟨.alley, { run with rx.alley := some ({ port := .spi, profile := 0, anyNet := false, monitor := false } : Reception), rx.alleyCtx := { st := .header, k := 9, bits := List.replicate 112 false } }, by decide +kernel, by decide +kernel, by decide +kernel, by decide +kernel⟩,
  ⟨.alley, { run with rx.alley := some ({ port := .spi, profile := 0, anyNet := false, monitor := false } : Reception), rx.alleyCtx := { st := .header, ofdm := true, symbols := 4, soft := headerSoft } }, by decide +kernel, by decide +kernel, by decide +kernel, by decide +kernel, by decide +kernel, by decide +kernel⟩,
  ⟨.alley, { run with rx.alley := some ({ port := .spi, profile := 0, anyNet := false, monitor := false } : Reception), rx.alleyCtx := { st := .header, k := 9, bits := headerBitsSent } }, by decide +kernel, by decide +kernel, by decide +kernel, by decide +kernel, .inl (by decide +kernel)⟩,
  ⟨(.blvd 63), ⟨0, 0⟩, ({ port := .spi, profile := 0, anyNet := false, monitor := false } : Reception), { run with rx.ctxs := run.rx.ctxs.set 63 { st := .committed, k := 9, hdr := { length := 10 }, bits := List.replicate 1000 false }, rx.blvd := some ({ port := .spi, profile := 0, anyNet := false, monitor := false } : Reception), rx.plan := some ({ entries := [.chirp 1 8 false 0x41 0], capture := false, cancelMin := 1, cancelMax := 10, captureDb := 0, centre := 868000000, detThresh := 24, gain := 0, gainFixed := false } : Plan) }, by decide +kernel, by decide +kernel, by decide +kernel, by decide +kernel⟩,
  ⟨true, run, by decide +kernel⟩,
  ⟨false, ({ port := .spi, profile := 0, anyNet := false, monitor := false } : Reception), ({ entries := [.chirp 1 8 false 0x41 0], capture := false, cancelMin := 1, cancelMax := 10, captureDb := 0, centre := 868000000, detThresh := 24, gain := 0, gainFixed := false } : Plan), { run with radio.mode := .rx, rx.blvd := some ({ port := .spi, profile := 0, anyNet := false, monitor := false } : Reception), rx.plan := some ({ entries := [.chirp 1 8 false 0x41 0], capture := false, cancelMin := 1, cancelMax := 10, captureDb := 0, centre := 868000000, detThresh := 24, gain := 0, gainFixed := false } : Plan) }, by decide +kernel, by decide +kernel, by decide +kernel, by decide +kernel, fun h => absurd h (by decide), by decide +kernel⟩⟩

/-! ### Hypotheses of DecisionsAndAcksAct -/

theorem test_meets_decisionsAndAcksAct_1 :
    (∃ (err : Bool) (s : State), (s.rx.pipe = [])) ∧
    (∃ (err : Bool) (f : PipeFrame) (s : State), (nextPipe s.rx.pipe = some f)) ∧
    (∃ (f : PipeFrame) (s : State), (f.crcOk = true) ∧ ∃ (err : Bool), (parseMac f.psdu = none)) ∧
    (∃ (f : PipeFrame) (m : MacFrame) (s : State), (f.crcOk = true) ∧ ∃ (err : Bool), (parseMac f.psdu = some m) ∧ (forMe m s = false)) ∧
    (∃ (s : State), (s.link.acks = []) ∧ ((s.radio.mode ≠ .turnTx ∨ s.radio.speculative = false))) :=
  ⟨⟨true, run, by decide +kernel⟩,
  ⟨true, ({ ackAt := 0, decidedAt := 0, boulevard := false, entry := 0, context := 0, ofdm := false, pairWeak := false, pairStrong := false, stamp := 0, rssi := 0, k := 9, bw := 1, netid := 0x41, carrier := 869525000, hdr := {}, erased := 0, pilotsLost := 0, meas := ({ snr := 0, cfo := 0, sfo := 0, corrected := 0 } : Meas), psdu := [], crcOk := true, reserved := 0, port := .spi, monitor := false } : PipeFrame), { run with rx.pipe := [({ ackAt := 0, decidedAt := 0, boulevard := false, entry := 0, context := 0, ofdm := false, pairWeak := false, pairStrong := false, stamp := 0, rssi := 0, k := 9, bw := 1, netid := 0x41, carrier := 869525000, hdr := {}, erased := 0, pilotsLost := 0, meas := ({ snr := 0, cfo := 0, sfo := 0, corrected := 0 } : Meas), psdu := [], crcOk := true, reserved := 0, port := .spi, monitor := false } : PipeFrame)] }, by decide +kernel⟩,
  ⟨({ ackAt := 0, decidedAt := 0, boulevard := false, entry := 0, context := 0, ofdm := false, pairWeak := false, pairStrong := false, stamp := 0, rssi := 0, k := 9, bw := 1, netid := 0x41, carrier := 869525000, hdr := {}, erased := 0, pilotsLost := 0, meas := ({ snr := 0, cfo := 0, sfo := 0, corrected := 0 } : Meas), psdu := [], crcOk := true, reserved := 0, port := .spi, monitor := false } : PipeFrame), run, by decide +kernel, true, by decide +kernel⟩,
  ⟨({ ackAt := 0, decidedAt := 0, boulevard := false, entry := 0, context := 0, ofdm := false, pairWeak := false, pairStrong := false, stamp := 0, rssi := 0, k := 9, bw := 1, netid := 0x41, carrier := 869525000, hdr := {}, erased := 0, pilotsLost := 0, meas := ({ snr := 0, cfo := 0, sfo := 0, corrected := 0 } : Meas), psdu := [0x20, 0, 0, 0, 0, 0, 5, 0, 0, 7, 0, 0, 1, 2, 3, 4], crcOk := true, reserved := 0, port := .spi, monitor := false } : PipeFrame), ((parseMac [0x20, 0, 0, 0, 0, 0, 5, 0, 0, 7, 0, 0, 1, 2, 3, 4]).getD ⟨0, false, 0, false, false, false, false, 0, 0, 0, [], [], []⟩), run, by decide +kernel, true, by decide +kernel, by decide +kernel⟩,
  ⟨run, by decide +kernel, by decide +kernel⟩⟩

theorem test_meets_decisionsAndAcksAct_2 :
    (∃ (a : AckDue) (s : State), (firstAck s.link.acks = some a) ∧ (a.verdict = .late)) ∧
    (∃ (a : AckDue) (s : State), (firstAck s.link.acks = some a) ∧ (a.verdict = .suppressed)) ∧
    (∃ (a : AckDue) (s : State), (firstAck s.link.acks = some a) ∧ (a.verdict = .collided)) ∧
    (∃ (a : AckDue) (s : State), (firstAck s.link.acks = some a) ∧ ∃ (b : Fin 16) (t : Nat) (n : Nat), (a.verdict = .send b t n) ∧ (s.radio.mode = .turnTx) ∧ (s.radio.speculative = true) ∧ (s.radio.settleFor = none) ∧ ((s.power.bodWarn = false ∨ t ≤ 2000))) ∧
    (∃ (a : AckDue) (s : State), (firstAck s.link.acks = some a) ∧ ∃ (b : Fin 16) (t : Nat) (n : Nat), (a.verdict = .send b t n) ∧ (s.radio.mode = .turnTx) ∧ (s.radio.speculative = true) ∧ (s.radio.settleFor = none) ∧ (s.power.bodWarn = true) ∧ (2000 < t)) :=
  ⟨⟨({ at_ := 5, ends := 9, prof := {}, psdu := [], power := 0, verdict := .late } : AckDue), { run with link.acks := [({ at_ := 5, ends := 9, prof := {}, psdu := [], power := 0, verdict := .late } : AckDue)] }, by decide +kernel, by decide +kernel⟩,
  ⟨({ at_ := 5, ends := 9, prof := {}, psdu := [], power := 0, verdict := .suppressed } : AckDue), { run with link.acks := [({ at_ := 5, ends := 9, prof := {}, psdu := [], power := 0, verdict := .suppressed } : AckDue)] }, by decide +kernel, by decide +kernel⟩,
  ⟨({ at_ := 5, ends := 9, prof := {}, psdu := [], power := 0, verdict := .collided } : AckDue), { run with link.acks := [({ at_ := 5, ends := 9, prof := {}, psdu := [], power := 0, verdict := .collided } : AckDue)] }, by decide +kernel, by decide +kernel⟩,
  ⟨({ at_ := 5, ends := 9, prof := {}, psdu := [], power := 0, verdict := (.send 1 3000 3) } : AckDue), { run with link.acks := [({ at_ := 5, ends := 9, prof := {}, psdu := [], power := 0, verdict := (.send 1 3000 3) } : AckDue)], radio.mode := .turnTx, radio.speculative := true }, by decide +kernel, 1, 3000, 3, by decide +kernel, by decide +kernel, by decide +kernel, by decide +kernel, .inl (by decide +kernel)⟩,
  ⟨({ at_ := 5, ends := 9, prof := {}, psdu := [], power := 0, verdict := (.send 1 3000 3) } : AckDue), { run with link.acks := [({ at_ := 5, ends := 9, prof := {}, psdu := [], power := 0, verdict := (.send 1 3000 3) } : AckDue)], radio.mode := .turnTx, radio.speculative := true, power.bodWarn := true }, by decide +kernel, 1, 3000, 3, by decide +kernel, by decide +kernel, by decide +kernel, by decide +kernel, by decide +kernel, by decide +kernel⟩⟩

/-! ### Hypotheses of PipelineTakesTheFirst -/

theorem test_meets_pipelineTakesTheFirst : ∃ (l : List PipeFrame) (f : PipeFrame), (nextPipe l = some f) ∧ ∃ g ∈ l, (decidesFirst g f = true) :=
  ⟨[({ ackAt := 0, decidedAt := 5, boulevard := false, entry := 0, context := 0, ofdm := false, pairWeak := false, pairStrong := false, stamp := 0, rssi := 0, k := 9, bw := 1, netid := 0x41, carrier := 869525000, hdr := {}, erased := 0, pilotsLost := 0, meas := ({ snr := 0, cfo := 0, sfo := 0, corrected := 0 } : Meas), psdu := [1], crcOk := true, reserved := 0, port := .spi, monitor := false } : PipeFrame), ({ ackAt := 0, decidedAt := 4, boulevard := false, entry := 0, context := 0, ofdm := false, pairWeak := false, pairStrong := false, stamp := 0, rssi := 0, k := 9, bw := 1, netid := 0x41, carrier := 869525000, hdr := {}, erased := 0, pilotsLost := 0, meas := ({ snr := 0, cfo := 0, sfo := 0, corrected := 0 } : Meas), psdu := [2], crcOk := true, reserved := 0, port := .spi, monitor := false } : PipeFrame)], ({ ackAt := 0, decidedAt := 4, boulevard := false, entry := 0, context := 0, ofdm := false, pairWeak := false, pairStrong := false, stamp := 0, rssi := 0, k := 9, bw := 1, netid := 0x41, carrier := 869525000, hdr := {}, erased := 0, pilotsLost := 0, meas := ({ snr := 0, cfo := 0, sfo := 0, corrected := 0 } : Meas), psdu := [2], crcOk := true, reserved := 0, port := .spi, monitor := false } : PipeFrame), by decide +kernel, ({ ackAt := 0, decidedAt := 4, boulevard := false, entry := 0, context := 0, ofdm := false, pairWeak := false, pairStrong := false, stamp := 0, rssi := 0, k := 9, bw := 1, netid := 0x41, carrier := 869525000, hdr := {}, erased := 0, pilotsLost := 0, meas := ({ snr := 0, cfo := 0, sfo := 0, corrected := 0 } : Meas), psdu := [2], crcOk := true, reserved := 0, port := .spi, monitor := false } : PipeFrame), by decide +kernel, by decide +kernel⟩

/-! ### Hypotheses of transmissionsAct -/

theorem test_meets_transmissionsAct_1 :
    (∃ (s : State), (transmitterFree s = false)) ∧
    (∃ (s : State) (t : State) (cs : List Candidate), (transmitterFree s = true) ∧ (judgeAll s = (t, cs)) ∧ (bestOf cs = none)) ∧
    (∃ (s : State) (t : State) (cs : List Candidate), (transmitterFree s = true) ∧ (judgeAll s = (t, cs)) ∧ ∃ (c : Candidate), (bestOf cs = some c)) ∧
    (∃ (s : State), ((s.radio.mode ≠ .turnTx ∨ s.radio.settleFor ≠ none ∨ (∀ f ∈ s.link.frames, f.stage ≠ .prepared)))) ∧
    (∃ (f : TxFrame) (b : Fin 16) (s : State), (s.radio.mode = .turnTx) ∧ (s.radio.settleFor = none) ∧ ((s.link.frames.find? fun f => f.stage = .prepared) = some f) ∧ ((s.radio.region.bind fun r => admitBand r f.prof) = some b) ∧ 
    let t := airtimeOf s f.prof f.mapBits f.psdu.length
    
    let start := max f.startAt.toNat (s.time.nt.toNat + usUp s.radio.shape.rampUs.toNat)
    (budgetFits b t false s = true) ∧ ((s.power.bodWarn = false ∨ t ≤ 2000)) ∧ ((f.kind ≠ .beacon ∨ start = f.startAt.toNat))) ∧
    (∃ (f : TxFrame) (b : Fin 16) (s : State), (s.radio.mode = .turnTx) ∧ (s.radio.settleFor = none) ∧ ((s.link.frames.find? fun f => f.stage = .prepared) = some f) ∧ ((s.radio.region.bind fun r => admitBand r f.prof) = some b) ∧ 
    let t := airtimeOf s f.prof f.mapBits f.psdu.length
    
    let start := max f.startAt.toNat (s.time.nt.toNat + usUp s.radio.shape.rampUs.toNat)
    (budgetFits b t false s = true) ∧ ((s.power.bodWarn = false ∨ t ≤ 2000)) ∧ (f.kind = .beacon) ∧ (f.startAt.toNat < start)) :=
  ⟨⟨run, by decide +kernel⟩,
  ⟨{ run with radio.mode := .idle }, (judgeAll ({ run with radio.mode := .idle })).1, (judgeAll ({ run with radio.mode := .idle })).2, by decide +kernel, pair_eq _, by decide +kernel⟩,
  ⟨{ (linked [entry5]) with link.frames := [({ fid := 0, kind := .data, handle := 3, queue := 0, profile := 0, miclen := 1, dst := 5, link := some (5, 7), payload := [1], psdu := List.replicate 20 0, stage := .queued } : TxFrame)], radio.mode := .idle, radio.region := some (⟨1, [⟨868000000, 870000000, 28, 0xF#4, 0⟩], []⟩ : Region) }, (judgeAll ({ (linked [entry5]) with link.frames := [({ fid := 0, kind := .data, handle := 3, queue := 0, profile := 0, miclen := 1, dst := 5, link := some (5, 7), payload := [1], psdu := List.replicate 20 0, stage := .queued } : TxFrame)], radio.mode := .idle, radio.region := some (⟨1, [⟨868000000, 870000000, 28, 0xF#4, 0⟩], []⟩ : Region) })).1, (judgeAll ({ (linked [entry5]) with link.frames := [({ fid := 0, kind := .data, handle := 3, queue := 0, profile := 0, miclen := 1, dst := 5, link := some (5, 7), payload := [1], psdu := List.replicate 20 0, stage := .queued } : TxFrame)], radio.mode := .idle, radio.region := some (⟨1, [⟨868000000, 870000000, 28, 0xF#4, 0⟩], []⟩ : Region) })).2, by decide +kernel, pair_eq _, ((bestOf (judgeAll ({ (linked [entry5]) with link.frames := [({ fid := 0, kind := .data, handle := 3, queue := 0, profile := 0, miclen := 1, dst := 5, link := some (5, 7), payload := [1], psdu := List.replicate 20 0, stage := .queued } : TxFrame)], radio.mode := .idle, radio.region := some (⟨1, [⟨868000000, 870000000, 28, 0xF#4, 0⟩], []⟩ : Region) })).2).getD ⟨0, 0, false, (0, 0), 0, none⟩), some_eq _ (by decide +kernel)⟩,
  ⟨run, by decide +kernel⟩,
  ⟨({ fid := 0, kind := .data, handle := 3, queue := 0, profile := 0, miclen := 1, dst := 5, link := some (5, 7), payload := [1], psdu := List.replicate 20 0, stage := .prepared } : TxFrame), 0, { (linked [entry5]) with link.frames := [({ fid := 0, kind := .data, handle := 3, queue := 0, profile := 0, miclen := 1, dst := 5, link := some (5, 7), payload := [1], psdu := List.replicate 20 0, stage := .prepared } : TxFrame)], radio.mode := .turnTx, radio.region := some (⟨1, [⟨868000000, 870000000, 28, 0xF#4, 0⟩], []⟩ : Region) }, by decide +kernel, by decide +kernel, by decide +kernel, by decide +kernel, by decide +kernel, .inl (by decide +kernel), .inl (by decide +kernel)⟩,
  ⟨({ fid := 0, kind := .beacon, handle := 3, queue := 0, profile := 0, miclen := 1, dst := 5, link := some (5, 7), payload := [1], psdu := List.replicate 20 0, stage := .prepared } : TxFrame), 0, { (linked [entry5]) with link.frames := [({ fid := 0, kind := .beacon, handle := 3, queue := 0, profile := 0, miclen := 1, dst := 5, link := some (5, 7), payload := [1], psdu := List.replicate 20 0, stage := .prepared } : TxFrame)], radio.mode := .turnTx, radio.region := some (⟨1, [⟨868000000, 870000000, 28, 0xF#4, 0⟩], []⟩ : Region) }, by decide +kernel, by decide +kernel, by decide +kernel, by decide +kernel, by decide +kernel, .inl (by decide +kernel), by decide +kernel, by decide +kernel⟩⟩

theorem test_meets_transmissionsAct_2 :
    (∃ (f : TxFrame) (b : Fin 16) (s : State), (s.radio.mode = .turnTx) ∧ (s.radio.settleFor = none) ∧ ((s.link.frames.find? fun f => f.stage = .prepared) = some f) ∧ ((s.radio.region.bind fun r => admitBand r f.prof) = some b) ∧ 
    let t := airtimeOf s f.prof f.mapBits f.psdu.length
    (frameById f.fid s = some f) ∧ ((budgetFits b t false s = false ∨ (s.power.bodWarn = true ∧ 2000 < t)))) ∧
    (∃ (s : State), (s.radio.mode ≠ .tx)) ∧
    (∃ (f : TxFrame) (s : State), (s.radio.mode = .tx) ∧ (s.link.ackOnAir = none) ∧ ((s.link.frames.find? fun f => f.stage = .onAir) = some f) ∧ (f.ackReq = true)) ∧
    (∃ (f : TxFrame) (s : State), (s.radio.mode = .tx) ∧ (s.link.ackOnAir = none) ∧ ((s.link.frames.find? fun f => f.stage = .onAir) = some f) ∧ (f.ackReq = false) ∧ (f.flushing = false)) ∧
    (∃ (f : TxFrame) (s : State), (s.radio.mode = .tx) ∧ (s.link.ackOnAir = none) ∧ ((s.link.frames.find? fun f => f.stage = .onAir) = some f) ∧ (f.ackReq = false) ∧ (f.flushing = true)) ∧
    (∃ (a : AckDue) (s : State), (s.radio.mode = .tx) ∧ (s.link.ackOnAir = some a) ∧ (a.child = none)) :=
  ⟨⟨({ fid := 0, kind := .data, handle := 3, queue := 0, profile := 0, miclen := 1, dst := 5, link := some (5, 7), payload := [1], psdu := List.replicate 20 0, stage := .prepared } : TxFrame), 0, { { (linked [entry5]) with link.frames := [({ fid := 0, kind := .data, handle := 3, queue := 0, profile := 0, miclen := 1, dst := 5, link := some (5, 7), payload := [1], psdu := List.replicate 20 0, stage := .prepared } : TxFrame)], radio.mode := .turnTx, radio.region := some (⟨1, [⟨868000000, 870000000, 28, 0xF#4, 0⟩], []⟩ : Region) } with traffic.accounts := Vector.replicate 16 { limit := 0 } }, by decide +kernel, by decide +kernel, by decide +kernel, by decide +kernel, by decide +kernel, .inl (by decide +kernel)⟩,
  ⟨run, by decide +kernel⟩,
  ⟨({ fid := 0, kind := .data, handle := 3, queue := 0, profile := 0, miclen := 1, dst := 5, link := some (5, 7), payload := [1], psdu := List.replicate 20 0, stage := .onAir, ackReq := true } : TxFrame), { (linked [entry5]) with link.frames := [({ fid := 0, kind := .data, handle := 3, queue := 0, profile := 0, miclen := 1, dst := 5, link := some (5, 7), payload := [1], psdu := List.replicate 20 0, stage := .onAir, ackReq := true } : TxFrame)], radio.mode := .tx, radio.region := some (⟨1, [⟨868000000, 870000000, 28, 0xF#4, 0⟩], []⟩ : Region) }, by decide +kernel, by decide +kernel, by decide +kernel, by decide +kernel⟩,
  ⟨({ fid := 0, kind := .data, handle := 3, queue := 0, profile := 0, miclen := 1, dst := 5, link := some (5, 7), payload := [1], psdu := List.replicate 20 0, stage := .onAir } : TxFrame), { (linked [entry5]) with link.frames := [({ fid := 0, kind := .data, handle := 3, queue := 0, profile := 0, miclen := 1, dst := 5, link := some (5, 7), payload := [1], psdu := List.replicate 20 0, stage := .onAir } : TxFrame)], radio.mode := .tx, radio.region := some (⟨1, [⟨868000000, 870000000, 28, 0xF#4, 0⟩], []⟩ : Region) }, by decide +kernel, by decide +kernel, by decide +kernel, by decide +kernel, by decide +kernel⟩,
  ⟨({ fid := 0, kind := .data, handle := 3, queue := 0, profile := 0, miclen := 1, dst := 5, link := some (5, 7), payload := [1], psdu := List.replicate 20 0, stage := .onAir, flushing := true } : TxFrame), { (linked [entry5]) with link.frames := [({ fid := 0, kind := .data, handle := 3, queue := 0, profile := 0, miclen := 1, dst := 5, link := some (5, 7), payload := [1], psdu := List.replicate 20 0, stage := .onAir, flushing := true } : TxFrame)], radio.mode := .tx, radio.region := some (⟨1, [⟨868000000, 870000000, 28, 0xF#4, 0⟩], []⟩ : Region) }, by decide +kernel, by decide +kernel, by decide +kernel, by decide +kernel, by decide +kernel⟩,
  ⟨({ at_ := 5, ends := 9, prof := {}, psdu := [], power := 0, verdict := .late } : AckDue), { run with radio.mode := .tx, link.ackOnAir := some ({ at_ := 5, ends := 9, prof := {}, psdu := [], power := 0, verdict := .late } : AckDue) }, by decide +kernel, by decide +kernel, by decide +kernel⟩⟩

/-! ### Hypotheses of attemptsEnd -/

theorem test_meets_attemptsEnd_1 :
    (∃ (psdu : List Byte) (crc : Word) (w : DWord) (r : Int) (y : Bool) (s : State), ((awaiting s = none ∨ s.isUsable dALLEY = false))) ∧
    (∃ (s : State), (awaiting s = none)) ∧
    (∃ (f : TxFrame) (s : State), (awaiting s = some f) ∧ ∃ (psdu : List Byte) (crc : Word) (w : DWord) (r : Int) (y : Bool), (s.isUsable dALLEY = true) ∧ ((inAckWindow f w = false ∨ crc ≠ crc32 psdu ∨ ackMatches f psdu s = false))) ∧
    (∃ (f : TxFrame) (s : State), (awaiting s = some f) ∧ ∃ (psdu : List Byte) (w : DWord) (r : Int) (y : Bool) (i : BitVec 24 × DWord), (s.isUsable dALLEY = true) ∧ (inAckWindow f w = true) ∧ (ackMatches f psdu s = true) ∧ (f.link = some i) ∧ (frameRdv f s = none)) :=
  ⟨⟨[], 0, 0, 5, true, run, .inl (by decide +kernel)⟩,
  ⟨run, by decide +kernel⟩,
  ⟨({ fid := 0, kind := .data, handle := 3, queue := 0, profile := 0, miclen := 1, dst := 5, link := some (5, 7), payload := [1], psdu := List.replicate 20 0, stage := .awaitAck, counter := some 9 } : TxFrame), { (linked [entry5]) with link.frames := [({ fid := 0, kind := .data, handle := 3, queue := 0, profile := 0, miclen := 1, dst := 5, link := some (5, 7), payload := [1], psdu := List.replicate 20 0, stage := .awaitAck, counter := some 9 } : TxFrame)], radio.mode := .rx, radio.region := some (⟨1, [⟨868000000, 870000000, 28, 0xF#4, 0⟩], []⟩ : Region) }, by decide +kernel, [], 0, 0, 0, true, by decide +kernel, .inr (.inr (by decide +kernel))⟩,
  ⟨({ fid := 0, kind := .data, handle := 3, queue := 0, profile := 0, miclen := 1, dst := 5, link := some (5, 7), payload := [1], psdu := List.replicate 20 0, stage := .awaitAck, counter := some 9 } : TxFrame), { (linked [entry5]) with link.frames := [({ fid := 0, kind := .data, handle := 3, queue := 0, profile := 0, miclen := 1, dst := 5, link := some (5, 7), payload := [1], psdu := List.replicate 20 0, stage := .awaitAck, counter := some 9 } : TxFrame)], radio.mode := .rx, radio.region := some (⟨1, [⟨868000000, 870000000, 28, 0xF#4, 0⟩], []⟩ : Region) }, by decide +kernel, [0x21, 0, 9, 0, 0, 0, 120, 153, 131, 135], (BitVec.ofNat 64 (windowEnd ({ fid := 0, kind := .data, handle := 3, queue := 0, profile := 0, miclen := 1, dst := 5, link := some (5, 7), payload := [1], psdu := List.replicate 20 0, stage := .awaitAck, counter := some 9 } : TxFrame))), 0, true, (5, 7), by decide +kernel, by decide +kernel, by decide +kernel, by decide +kernel, by decide +kernel⟩⟩

theorem test_meets_attemptsEnd_2 :
    (∃ (f : TxFrame) (s : State), (f.flushing = true)) ∧
    (∃ (f : TxFrame) (s : State), (f.flushing = false) ∧ (1 + f.retries ≤ f.attempts)) ∧
    (∃ (f : TxFrame) (s : State), (f.flushing = false) ∧ (f.attempts < 1 + f.retries) ∧ ∃ (t : DWord), (f.ttlEnd = some t) ∧ (t.toNat ≤ s.elapsed.now.toNat)) ∧
    (∃ (n : Nat) (s : State), (frameById n s = none)) ∧
    (∃ (n : Nat) (f : TxFrame) (s : State), (frameById n s = some f) ∧ (f.stage = .backOff) ∧ (f.eligibleAt.toNat ≤ s.elapsed.now.toNat)) :=
  ⟨⟨({ fid := 0, kind := .data, handle := 3, queue := 0, profile := 0, miclen := 1, dst := 5, link := some (5, 7), payload := [1], psdu := List.replicate 20 0, stage := .awaitAck, flushing := true } : TxFrame), run, by decide +kernel⟩,
  ⟨({ fid := 0, kind := .data, handle := 3, queue := 0, profile := 0, miclen := 1, dst := 5, link := some (5, 7), payload := [1], psdu := List.replicate 20 0, stage := .awaitAck, attempts := 1 } : TxFrame), run, by decide +kernel, by decide +kernel⟩,
  ⟨({ fid := 0, kind := .data, handle := 3, queue := 0, profile := 0, miclen := 1, dst := 5, link := some (5, 7), payload := [1], psdu := List.replicate 20 0, stage := .awaitAck, ttlEnd := some 0 } : TxFrame), run, by decide +kernel, by decide +kernel, 0, by decide +kernel, by decide +kernel⟩,
  ⟨5, run, by decide +kernel⟩,
  ⟨0, ({ fid := 0, kind := .data, handle := 3, queue := 0, profile := 0, miclen := 1, dst := 5, link := some (5, 7), payload := [1], psdu := List.replicate 20 0, stage := .backOff } : TxFrame), { (linked [entry5]) with link.frames := [({ fid := 0, kind := .data, handle := 3, queue := 0, profile := 0, miclen := 1, dst := 5, link := some (5, 7), payload := [1], psdu := List.replicate 20 0, stage := .backOff } : TxFrame)], radio.mode := .idle, radio.region := some (⟨1, [⟨868000000, 870000000, 28, 0xF#4, 0⟩], []⟩ : Region) }, by decide +kernel, by decide +kernel, by decide +kernel⟩⟩

theorem test_meets_attemptsEnd_3 :
    (∃ (n : Nat) (f : TxFrame) (s : State), (frameById n s = some f) ∧ ∃ (t : DWord), (f.ttlEnd = some t) ∧ (t.toNat ≤ s.elapsed.now.toNat) ∧ ((f.stage = .queued ∨ f.stage = .backOff))) ∧
    (∃ (n : Nat) (f : TxFrame) (s : State), (frameById n s = some f) ∧ ∃ (t : DWord), (f.start = some t) ∧ (t.toNat + usU f.lateTol < s.time.nt.toNat) ∧ (f.attempts = 0) ∧ (f.stage = .queued)) ∧
    (∃ (s : State), (s.rx.pipe = []) ∧ (s.link.acks = [])) ∧
    (∃ (a : AckDue) (b : Fin 16) (t : Nat) (n : Nat) (s : State), (s.rx.pipe = []) ∧ (s.link.acks = [a]) ∧ (a.verdict = .send b t n) ∧ (s.isUsable dRFFE = true) ∧ (s.lifecycle ≠ .retired) ∧ (a.at_.toNat ≤ s.time.nt.toNat + unitsU (prepUnits a.prof.carrier s)) ∧ (s.radio.mode = .rx)) ∧
    (∃ (a : AckDue) (b : Fin 16) (t : Nat) (n : Nat) (s : State), (s.rx.pipe = []) ∧ (s.link.acks = [a]) ∧ (a.verdict = .send b t n) ∧ (s.isUsable dRFFE = true) ∧ (s.lifecycle ≠ .retired) ∧ (a.at_.toNat ≤ s.time.nt.toNat + unitsU (prepUnits a.prof.carrier s)) ∧ (s.radio.mode = .idle)) :=
  ⟨⟨0, ({ fid := 0, kind := .data, handle := 3, queue := 0, profile := 0, miclen := 1, dst := 5, link := some (5, 7), payload := [1], psdu := List.replicate 20 0, stage := .queued, ttlEnd := some 0 } : TxFrame), { (linked [entry5]) with link.frames := [({ fid := 0, kind := .data, handle := 3, queue := 0, profile := 0, miclen := 1, dst := 5, link := some (5, 7), payload := [1], psdu := List.replicate 20 0, stage := .queued, ttlEnd := some 0 } : TxFrame)], radio.mode := .idle, radio.region := some (⟨1, [⟨868000000, 870000000, 28, 0xF#4, 0⟩], []⟩ : Region) }, by decide +kernel, 0, by decide +kernel, by decide +kernel, by decide +kernel⟩,
  ⟨0, ({ fid := 0, kind := .data, handle := 3, queue := 0, profile := 0, miclen := 1, dst := 5, link := some (5, 7), payload := [1], psdu := List.replicate 20 0, stage := .queued, start := some 0 } : TxFrame), { { (linked [entry5]) with link.frames := [({ fid := 0, kind := .data, handle := 3, queue := 0, profile := 0, miclen := 1, dst := 5, link := some (5, 7), payload := [1], psdu := List.replicate 20 0, stage := .queued, start := some 0 } : TxFrame)], radio.mode := .idle, radio.region := some (⟨1, [⟨868000000, 870000000, 28, 0xF#4, 0⟩], []⟩ : Region) } with time.nt := 0xFFFFFFFFFF#64 }, by decide +kernel, 0, by decide +kernel, by decide +kernel, by decide +kernel, by decide +kernel⟩,
  ⟨run, by decide +kernel, by decide +kernel⟩,
  ⟨({ at_ := 5, ends := 9, prof := {}, psdu := [], power := 0, verdict := (.send 1 2 3) } : AckDue), 1, 2, 3, { run with link.acks := [({ at_ := 5, ends := 9, prof := {}, psdu := [], power := 0, verdict := (.send 1 2 3) } : AckDue)], radio.mode := .rx }, by decide +kernel, by decide +kernel, by decide +kernel, by decide +kernel, by decide +kernel, by decide +kernel, by decide +kernel⟩,
  ⟨({ at_ := 5, ends := 9, prof := {}, psdu := [], power := 0, verdict := (.send 1 2 3) } : AckDue), 1, 2, 3, { run with link.acks := [({ at_ := 5, ends := 9, prof := {}, psdu := [], power := 0, verdict := (.send 1 2 3) } : AckDue)], radio.mode := .idle }, by decide +kernel, by decide +kernel, by decide +kernel, by decide +kernel, by decide +kernel, by decide +kernel, by decide +kernel⟩⟩

/-! ### Hypotheses of GreenGoesBeforeYellow -/

theorem test_meets_greenGoesBeforeYellow : ∃ (l : List Candidate) (c : Candidate), (bestOf l = some c) ∧ (c.yellow = true) :=
  ⟨[(⟨1, 0, true, (5, 6), 0, none⟩ : Candidate)], (⟨1, 0, true, (5, 6), 0, none⟩ : Candidate), by decide +kernel, by decide +kernel⟩

/-! ### Hypotheses of radioTurnsAct -/

theorem test_meets_radioTurnsAct_1 :
    (∃ (s : State), (s.radio.settleFor = none)) ∧
    (∃ (s : State), (s.radio.mode ≠ .settle) ∧ (s.radio.mode ≠ .turnTx) ∧ (s.radio.mode ≠ .turnRx)) ∧
    (∃ (f : SettleFor) (s : State), (s.radio.settleFor = some f) ∧ (f = .rx) ∧ (s.radio.mode = .settle)) ∧
    (∃ (f : SettleFor) (s : State), (s.radio.settleFor = some f) ∧ (f = .ack) ∧ ((s.radio.mode = .settle ∨ s.radio.mode = .turnTx))) ∧
    (∃ (f : SettleFor) (s : State), (s.radio.settleFor = some f) ∧ 
    let s1 : State := { s with
      radio.lo := s.radio.loAsked, radio.loNominal := s.radio.askedHz, radio.settleFor := none, radio.lockFailed := false }
    
    let s2 := if s.radio.mode = .settle then startBlank { s1 with radio.mode := .turnTx } else s1
    ∃ (n : Nat) (fr : TxFrame), (f = .tx n) ∧ ((s.radio.mode = .settle ∨ s.radio.mode = .turnTx)) ∧ (frameById n s2 = some fr) ∧ (fr.stage = .prepared) ∧ 
    let start := max fr.startAt.toNat (s2.time.nt.toNat + unitsU (rampUnits s.radio.fem.txOn + 8 * s.radio.shape.rampUs.toNat))
    (lateAtSettle fr start = false)) :=
  ⟨⟨run, by decide +kernel⟩,
  ⟨run, by decide +kernel, by decide +kernel, by decide +kernel⟩,
  ⟨.rx, { run with radio.settleFor := some .rx, radio.mode := .settle }, by decide +kernel, by decide +kernel, by decide +kernel⟩,
  ⟨.ack, { run with radio.settleFor := some .ack, radio.mode := .turnTx }, by decide +kernel, by decide +kernel, .inr (by decide +kernel)⟩,
  ⟨(.tx 0), { { (linked [entry5]) with link.frames := [({ fid := 0, kind := .data, handle := 3, queue := 0, profile := 0, miclen := 1, dst := 5, link := some (5, 7), payload := [1], psdu := List.replicate 20 0, stage := .prepared } : TxFrame)], radio.mode := .turnTx, radio.region := some (⟨1, [⟨868000000, 870000000, 28, 0xF#4, 0⟩], []⟩ : Region) } with radio.settleFor := some (.tx 0) }, by decide +kernel, 0, ({ fid := 0, kind := .data, handle := 3, queue := 0, profile := 0, miclen := 1, dst := 5, link := some (5, 7), payload := [1], psdu := List.replicate 20 0, stage := .prepared } : TxFrame), by decide +kernel, .inr (by decide +kernel), by decide +kernel, by decide +kernel, by decide +kernel⟩⟩

theorem test_meets_radioTurnsAct_2 :
    (∃ (f : SettleFor) (s : State), (s.radio.settleFor = some f) ∧ 
    let s1 : State := { s with
      radio.lo := s.radio.loAsked, radio.loNominal := s.radio.askedHz, radio.settleFor := none, radio.lockFailed := false }
    
    let s2 := if s.radio.mode = .settle then startBlank { s1 with radio.mode := .turnTx } else s1
    ∃ (n : Nat) (fr : TxFrame), (f = .tx n) ∧ ((s.radio.mode = .settle ∨ s.radio.mode = .turnTx)) ∧ (frameById n s2 = some fr) ∧ (fr.stage = .prepared) ∧ 
    let start := max fr.startAt.toNat (s2.time.nt.toNat + unitsU (rampUnits s.radio.fem.txOn + 8 * s.radio.shape.rampUs.toNat))
    (lateAtSettle fr start = true)) ∧
    (∃ (f : SettleFor) (s : State), (s.radio.settleFor = some f) ∧ (s.radio.mode = .turnRx)) ∧
    (∃ (f : SettleFor) (w : Word) (s : State), (s.radio.settleFor = some f) ∧ ((s.radio.mode = .settle ∨ s.radio.mode = .turnTx ∨ s.radio.mode = .turnRx)) ∧ (s.radio.lockFailed = false)) ∧
    (∃ (f : SettleFor) (w : Word) (s : State), (s.radio.settleFor = some f) ∧ ((s.radio.mode = .settle ∨ s.radio.mode = .turnTx ∨ s.radio.mode = .turnRx)) ∧ (s.radio.lockFailed = true) ∧ (f = .rx)) ∧
    (∃ (f : SettleFor) (w : Word) (s : State), (s.radio.settleFor = some f) ∧ ((s.radio.mode = .settle ∨ s.radio.mode = .turnTx ∨ s.radio.mode = .turnRx)) ∧ (s.radio.lockFailed = true) ∧ (f = .back)) :=
  ⟨⟨(.tx 0), { { (linked [entry5]) with link.frames := [({ fid := 0, kind := .data, handle := 3, queue := 0, profile := 0, miclen := 1, dst := 5, link := some (5, 7), payload := [1], psdu := List.replicate 20 0, stage := .prepared, start := some 0 } : TxFrame)], radio.mode := .turnTx, radio.region := some (⟨1, [⟨868000000, 870000000, 28, 0xF#4, 0⟩], []⟩ : Region) } with radio.settleFor := some (.tx 0), time.nt := 0xFFFFFFFFFF#64 }, by decide +kernel, 0, ({ fid := 0, kind := .data, handle := 3, queue := 0, profile := 0, miclen := 1, dst := 5, link := some (5, 7), payload := [1], psdu := List.replicate 20 0, stage := .prepared, start := some 0 } : TxFrame), by decide +kernel, .inr (by decide +kernel), by decide +kernel, by decide +kernel, by decide +kernel⟩,
  ⟨.back, { run with radio.settleFor := some .back, radio.mode := .turnRx }, by decide +kernel, by decide +kernel⟩,
  ⟨.rx, 5, { run with radio.settleFor := some .rx, radio.mode := .settle }, by decide +kernel, .inl (by decide +kernel), by decide +kernel⟩,
  ⟨.rx, 5, { run with radio.settleFor := some .rx, radio.mode := .settle, radio.lockFailed := true }, by decide +kernel, .inl (by decide +kernel), by decide +kernel, by decide +kernel⟩,
  ⟨.back, 5, { run with radio.settleFor := some .back, radio.mode := .turnRx, radio.lockFailed := true }, by decide +kernel, .inr (.inr (by decide +kernel)), by decide +kernel, by decide +kernel⟩⟩

theorem test_meets_radioTurnsAct_3 :
    (∃ (f : SettleFor) (w : Word) (s : State), (s.radio.settleFor = some f) ∧ ((s.radio.mode = .settle ∨ s.radio.mode = .turnTx ∨ s.radio.mode = .turnRx)) ∧ ∃ (n : Nat), (s.radio.lockFailed = true) ∧ (f = .tx n)) ∧
    (∃ (f : SettleFor) (w : Word) (s : State), (s.radio.settleFor = some f) ∧ ((s.radio.mode = .settle ∨ s.radio.mode = .turnTx ∨ s.radio.mode = .turnRx)) ∧ ∃ (a : AckDue) (rest : List AckDue) (b : Fin 16) (t : Nat) (n : Nat), (s.radio.lockFailed = true) ∧ (f = .ack) ∧ (s.link.acks = a :: rest) ∧ (a.verdict = .send b t n)) ∧
    (∃ (s : State), ((s.radio.mode ≠ .turnRx ∨ s.radio.settleFor ≠ none))) ∧
    (∃ (s : State), (s.radio.mode = .turnRx) ∧ (s.radio.settleFor = none) ∧ 
    let s1 : State := { s with radio.speculative := false }
    ∃ (f : TxFrame), (awaiting s1 = some f)) ∧
    (∃ (s : State), (s.radio.mode = .turnRx) ∧ (s.radio.settleFor = none) ∧ 
    let s1 : State := { s with radio.speculative := false }
    (awaiting s1 = none)) :=
  ⟨⟨(.tx 0), 5, { { { (linked [entry5]) with link.frames := [({ fid := 0, kind := .data, handle := 3, queue := 0, profile := 0, miclen := 1, dst := 5, link := some (5, 7), payload := [1], psdu := List.replicate 20 0, stage := .prepared } : TxFrame)], radio.mode := .turnTx, radio.region := some (⟨1, [⟨868000000, 870000000, 28, 0xF#4, 0⟩], []⟩ : Region) } with radio.settleFor := some (.tx 0) } with radio.lockFailed := true }, by decide +kernel, .inr (.inl (by decide +kernel)), 0, by decide +kernel, by decide +kernel⟩,
  ⟨.ack, 5, { run with link.acks := [({ at_ := 5, ends := 9, prof := {}, psdu := [], power := 0, verdict := (.send 1 2 3) } : AckDue)], radio.settleFor := some .ack, radio.mode := .turnTx, radio.lockFailed := true }, by decide +kernel, .inr (.inl (by decide +kernel)), ({ at_ := 5, ends := 9, prof := {}, psdu := [], power := 0, verdict := (.send 1 2 3) } : AckDue), [], 1, 2, 3, by decide +kernel, by decide +kernel, by decide +kernel, by decide +kernel⟩,
  ⟨run, by decide +kernel⟩,
  ⟨{ (linked [entry5]) with link.frames := [({ fid := 0, kind := .data, handle := 3, queue := 0, profile := 0, miclen := 1, dst := 5, link := some (5, 7), payload := [1], psdu := List.replicate 20 0, stage := .awaitAck, counter := some 9 } : TxFrame)], radio.mode := .turnRx, radio.region := some (⟨1, [⟨868000000, 870000000, 28, 0xF#4, 0⟩], []⟩ : Region) }, by decide +kernel, by decide +kernel, ({ fid := 0, kind := .data, handle := 3, queue := 0, profile := 0, miclen := 1, dst := 5, link := some (5, 7), payload := [1], psdu := List.replicate 20 0, stage := .awaitAck, counter := some 9 } : TxFrame), by decide +kernel⟩,
  ⟨{ run with radio.mode := .turnRx }, by decide +kernel, by decide +kernel, by decide +kernel⟩⟩

/-! ### Hypotheses of calibrationActs -/

theorem test_meets_calibrationActs_1 :
    (∃ (s : State), ((nextCal s = none ∨ calAdmitted s = false))) ∧
    (∃ (k : CalKind) (s : State), (nextCal s = some k) ∧ (calAdmitted s = true)) ∧
    (∃ (r : List Word) (s : State), (s.radio.cal.running = none)) ∧
    (∃ (k : CalKind) (i : Nat) (r : List Word) (s : State), (s.radio.cal.running = some (k, i)) ∧ (i + 1 < calSteps k)) :=
  ⟨⟨run, by decide +kernel⟩,
  ⟨((nextCal ({ run with radio.mode := .idle, radio.cal.due := 0xF#4 })).getD .filter), { run with radio.mode := .idle, radio.cal.due := 0xF#4 }, some_eq _ (by decide +kernel), by decide +kernel⟩,
  ⟨[5], run, by decide +kernel⟩,
  ⟨.osc, 14, [5], { run with radio.cal.running := some (.osc, 14) }, by decide +kernel, by decide +kernel⟩⟩

theorem test_meets_calibrationActs_2 :
    (∃ (k : CalKind) (i : Nat) (r : List Word) (s : State), (s.radio.cal.running = some (k, i)) ∧ (calSteps k ≤ i + 1)) ∧
    (∃ (o : CalRunOp) (s : State), (s.radio.cal.calRun = some o) ∧ (elapsedBy o.since s.elapsed.now (msU o.waitMax.toNat) = true)) ∧
    (∃ (t : Int) (n : Sensors) (s : State), (s.radio.cal.periodCount.toNat < secU s.radio.rfNow.calPeriod.toNat)) ∧
    (∃ (t : Int) (n : Sensors) (s : State), (s.awake = true) ∧ (s.on dRFFE = true) ∧ (secU s.radio.rfNow.calPeriod.toNat ≤ s.radio.cal.periodCount.toNat)) :=
  ⟨⟨.filter, 1000, [5], { run with radio.cal.running := some (.filter, 1000) }, by decide +kernel, by decide +kernel⟩,
  ⟨({ port := .spi, handle := 0, select := 0xF, since := 0, waitMax := 1 } : CalRunOp), { run with radio.cal.calRun := some ({ port := .spi, handle := 0, select := 0xF, since := 0, waitMax := 1 } : CalRunOp), elapsed.now := 0xFFFFFFFFFF#64 }, by decide +kernel, by decide +kernel⟩,
  ⟨5, ⟨0, 0⟩, run, by decide +kernel⟩,
  ⟨5, ⟨0, 0⟩, { run with radio.cal.periodCount := 0xFFFFFFFFFFFF#64 }, by decide +kernel, by decide +kernel, by decide +kernel⟩⟩

/-! ### Hypotheses of rendezvousAndJoinAct -/

theorem test_meets_rendezvousAndJoinAct_1 :
    (∃ (a : BitVec 24) (s : State), (rdvOf a s = none)) ∧
    (∃ (a : BitVec 24) (r : Rdv) (s : State), (rdvOf a s = some r) ∧ (s.fwRun = true) ∧ (r.window = none) ∧ 
    let x := nextSlot r s
    (r.parent = true) ∧ (x ≤ s.time.nt.toNat + parentGuard r x s)) ∧
    (∃ (a : BitVec 24) (r : Rdv) (s : State), (rdvOf a s = some r) ∧ (s.fwRun = true) ∧ (r.window = none) ∧ 
    let x := nextSlot r s
    
    let g := guardAt r x s
    (r.parent = false) ∧ (r.stage = .slots) ∧ (r.slotFrame = none) ∧ (x ≤ s.time.nt.toNat + msU 2) ∧ (r.period.toNat / 4 < g)) ∧
    (∃ (a : BitVec 24) (r : Rdv) (s : State), (rdvOf a s = some r) ∧ (s.fwRun = true) ∧ (r.window = none) ∧ 
    let x := nextSlot r s
    
    let g := guardAt r x s
    (r.parent = false) ∧ (r.stage = .slots) ∧ (r.slotFrame = none) ∧ (x ≤ s.time.nt.toNat + msU 2) ∧ ∃ (f : TxFrame), (g ≤ r.period.toNat / 4) ∧ (slotCandidate r x s = some f)) ∧
    (∃ (a : BitVec 24) (r : Rdv) (s : State), (rdvOf a s = some r) ∧ (s.fwRun = true) ∧ (r.window = none) ∧ 
    let x := nextSlot r s
    ((if r.parent then s.time.nt.toNat + parentGuard r x s < x else s.time.nt.toNat + msU 2 < x))) :=
  ⟨⟨5, run, by decide +kernel⟩,
  ⟨5, ({ short := 5, port := .spi, maxMiss := 1, profile := 0, period := 0x400000000#64, offset := 0, listenMs := 1, peerBound := 5, lastContact := 0, parent := true } : Rdv), { run with rdv.rdvs := [({ short := 5, port := .spi, maxMiss := 1, profile := 0, period := 0x400000000#64, offset := 0, listenMs := 1, peerBound := 5, lastContact := 0, parent := true } : Rdv)], time.nt := 0x400000000#64 }, by decide +kernel, by decide +kernel, by decide +kernel, by decide +kernel, by decide +kernel⟩,
  ⟨5, ({ short := 5, port := .spi, maxMiss := 1, profile := 0, period := 0x400000000#64, offset := 0, listenMs := 1, peerBound := 5, lastContact := 0, parent := false } : Rdv), { run with rdv.rdvs := [({ short := 5, port := .spi, maxMiss := 1, profile := 0, period := 0x400000000#64, offset := 0, listenMs := 1, peerBound := 5, lastContact := 0, parent := false } : Rdv)], time.nt := 0x4000000000000000#64 }, by decide +kernel, by decide +kernel, by decide +kernel, by decide +kernel, by decide +kernel, by decide +kernel, by decide +kernel, by decide +kernel⟩,
  ⟨5, ({ short := 5, port := .spi, maxMiss := 1, profile := 0, period := 0x400000000#64, offset := 0, listenMs := 1, peerBound := 5, lastContact := 0, parent := false } : Rdv), { run with rdv.rdvs := [({ short := 5, port := .spi, maxMiss := 1, profile := 0, period := 0x400000000#64, offset := 0, listenMs := 1, peerBound := 5, lastContact := 0, parent := false } : Rdv)], time.nt := 0x400000000#64, link.links := [entry5], link.frames := [({ fid := 0, kind := .data, handle := 3, queue := 0, profile := 0, miclen := 1, dst := 5, link := some (5, 7), payload := [1], psdu := List.replicate 20 0, stage := .queued } : TxFrame)] }, by decide +kernel, by decide +kernel, by decide +kernel, by decide +kernel, by decide +kernel, by decide +kernel, by decide +kernel, ((slotCandidate ({ short := 5, port := .spi, maxMiss := 1, profile := 0, period := 0x400000000#64, offset := 0, listenMs := 1, peerBound := 5, lastContact := 0, parent := false } : Rdv) (nextSlot ({ short := 5, port := .spi, maxMiss := 1, profile := 0, period := 0x400000000#64, offset := 0, listenMs := 1, peerBound := 5, lastContact := 0, parent := false } : Rdv) ({ run with rdv.rdvs := [({ short := 5, port := .spi, maxMiss := 1, profile := 0, period := 0x400000000#64, offset := 0, listenMs := 1, peerBound := 5, lastContact := 0, parent := false } : Rdv)], time.nt := 0x400000000#64, link.links := [entry5], link.frames := [({ fid := 0, kind := .data, handle := 3, queue := 0, profile := 0, miclen := 1, dst := 5, link := some (5, 7), payload := [1], psdu := List.replicate 20 0, stage := .queued } : TxFrame)] })) ({ run with rdv.rdvs := [({ short := 5, port := .spi, maxMiss := 1, profile := 0, period := 0x400000000#64, offset := 0, listenMs := 1, peerBound := 5, lastContact := 0, parent := false } : Rdv)], time.nt := 0x400000000#64, link.links := [entry5], link.frames := [({ fid := 0, kind := .data, handle := 3, queue := 0, profile := 0, miclen := 1, dst := 5, link := some (5, 7), payload := [1], psdu := List.replicate 20 0, stage := .queued } : TxFrame)] })).getD ({ fid := 0, kind := .data, handle := 3, queue := 0, profile := 0, miclen := 1, dst := 5, link := some (5, 7), payload := [1], psdu := List.replicate 20 0, stage := .queued } : TxFrame)), by decide +kernel, some_eq _ (by decide +kernel)⟩,
  ⟨5, ({ short := 5, port := .spi, maxMiss := 1, profile := 0, period := 0x400000000#64, offset := 0, listenMs := 1, peerBound := 5, lastContact := 0, parent := true } : Rdv), { run with rdv.rdvs := [({ short := 5, port := .spi, maxMiss := 1, profile := 0, period := 0x400000000#64, offset := 0, listenMs := 1, peerBound := 5, lastContact := 0, parent := true } : Rdv)], time.nt := 0x400000001#64 }, by decide +kernel, by decide +kernel, by decide +kernel, by decide +kernel⟩⟩

theorem test_meets_rendezvousAndJoinAct_2 :
    (∃ (a : BitVec 24) (r : Rdv) (b : BeaconSource) (s : State), (rdvOf a s = some r) ∧ (sourceOf a s = some b) ∧ (s.fwRun = true) ∧ (r.parent = false) ∧ (r.stage = .windows) ∧ (r.window = none) ∧ 
    let c := expectedBeacon b s
    
    let half := halfWindow r b c s
    ((∀ l, r.lastSlot = some l → l.toNat < c)) ∧ (c ≤ s.time.nt.toNat + half)) ∧
    (∃ (a : BitVec 24) (r : Rdv) (s : State), (rdvOf a s = some r) ∧ (s.fwRun = true) ∧ (r.parent = false) ∧ (r.stage = .scan) ∧ (r.window = none) ∧ ((∀ l, r.lastSlot = some l → l.toNat + secU s.rdv.cfg.scanPeriod ≤ s.time.nt.toNat))) ∧
    (∃ (a : BitVec 24) (r : Rdv) (t : DWord) (e : DWord) (heard : Bool) (s : State), (rdvOf a s = some r) ∧ (r.parent = true) ∧ (r.eligibleUntil = none) ∧ (r.window = some (t, e, heard)) ∧ (s.time.nt.toNat < e.toNat)) ∧
    (∃ (a : BitVec 24) (r : Rdv) (t : DWord) (e : DWord) (heard : Bool) (s : State), (rdvOf a s = some r) ∧ (r.parent = true) ∧ (r.eligibleUntil = none) ∧ (r.window = some (t, e, heard)) ∧ (e.toNat ≤ s.time.nt.toNat) ∧ (stillReceiving e s = false) ∧ ((heard = true ∨ r.period.toNat / 4 < guardAt r t.toNat s))) ∧
    (∃ (s : State), ((s.fwRun = false ∨ s.rdv.cfg.send = false ∨ beaconTaken (beaconAfter s.rdv.cfg s.time.nt.toNat) s = true))) :=
  ⟨⟨5, ({ short := 5, port := .spi, maxMiss := 1, profile := 0, period := 0x400000000#64, offset := 0, listenMs := 1, peerBound := 5, lastContact := 0, parent := false, stage := .windows } : Rdv), ({ src := 5, rootEui := 0, depth := 0, timeErr := 0, interval := 1000, flags := 0, last := 0, base := (0, 0) } : BeaconSource), { run with rdv.rdvs := [({ short := 5, port := .spi, maxMiss := 1, profile := 0, period := 0x400000000#64, offset := 0, listenMs := 1, peerBound := 5, lastContact := 0, parent := false, stage := .windows } : Rdv)], rdv.sources := [({ src := 5, rootEui := 0, depth := 0, timeErr := 0, interval := 1000, flags := 0, last := 0, base := (0, 0) } : BeaconSource)], time.nt := BitVec.ofNat 64 (msU 1000 - usU (stampOffset ({} : Profile))) }, by decide +kernel, by decide +kernel, by decide +kernel, by decide +kernel, by decide +kernel, by decide +kernel, (fun l h => nomatch h), by decide +kernel⟩,
  ⟨5, ({ short := 5, port := .spi, maxMiss := 1, profile := 0, period := 0x400000000#64, offset := 0, listenMs := 1, peerBound := 5, lastContact := 0, parent := false, stage := .scan } : Rdv), { run with rdv.rdvs := [({ short := 5, port := .spi, maxMiss := 1, profile := 0, period := 0x400000000#64, offset := 0, listenMs := 1, peerBound := 5, lastContact := 0, parent := false, stage := .scan } : Rdv)] }, by decide +kernel, by decide +kernel, by decide +kernel, by decide +kernel, by decide +kernel, fun l h => nomatch h⟩,
  ⟨5, ({ short := 5, port := .spi, maxMiss := 1, profile := 0, period := 0x400000000#64, offset := 0, listenMs := 1, peerBound := 5, lastContact := 0, parent := true, window := some (0, 5, false) } : Rdv), 0, 5, false, { run with rdv.rdvs := [({ short := 5, port := .spi, maxMiss := 1, profile := 0, period := 0x400000000#64, offset := 0, listenMs := 1, peerBound := 5, lastContact := 0, parent := true, window := some (0, 5, false) } : Rdv)] }, by decide +kernel, by decide +kernel, by decide +kernel, by decide +kernel, by decide +kernel⟩,
  ⟨5, ({ short := 5, port := .spi, maxMiss := 1, profile := 0, period := 0x400000000#64, offset := 0, listenMs := 1, peerBound := 5, lastContact := 0, parent := true, window := some (0, 0, true) } : Rdv), 0, 0, true, { run with rdv.rdvs := [({ short := 5, port := .spi, maxMiss := 1, profile := 0, period := 0x400000000#64, offset := 0, listenMs := 1, peerBound := 5, lastContact := 0, parent := true, window := some (0, 0, true) } : Rdv)] }, by decide +kernel, by decide +kernel, by decide +kernel, by decide +kernel, by decide +kernel, by decide +kernel, by decide +kernel⟩,
  ⟨run, .inr (.inl (by decide +kernel))⟩⟩

theorem test_meets_rendezvousAndJoinAct_3 :
    (∃ (o : _) (s1 : State) (s : State), (s.fwRun = true) ∧ (s.rdv.cfg.send = true) ∧ (s.rdv.cfg.secured = false) ∧ (drawFw s = (o, s1)) ∧ 
    let t := beaconAfter s.rdv.cfg s.time.nt.toNat
    (beaconTaken t s = false)) ∧
    (∃ (s : State), ((s.rdv.node.due = none ∨ s.rdv.cfg.joinEn = false ∨ s.link.own ≠ noShort ∨ s.isUsable dCRYPTO = false))) ∧
    (∃ (root : DWord) (t : DWord) (s : State), (s.rdv.node.due = some (root, t)) ∧ (s.fwRun = true) ∧ (t.toNat ≤ s.elapsed.now.toNat) ∧ (s.rdv.cfg.joinEn = true) ∧ (s.link.own = noShort) ∧ (s.sec.trngOk = true) ∧ (s.isUsable dCRYPTO = true) ∧ ((∀ q, (s.sec.pka = some q ∨ q ∈ s.sec.pkaFirst) → q.job ≠ .joinRequest))) ∧
    (∃ (root : DWord) (t : DWord) (s : State), (s.rdv.node.due = some (root, t)) ∧ (s.fwRun = true) ∧ (t.toNat ≤ s.elapsed.now.toNat) ∧ (s.rdv.cfg.joinEn = true) ∧ (s.link.own = noShort) ∧ (s.sec.trngOk = true) ∧ (s.isUsable dCRYPTO = true) ∧ ∃ (r : PkaReq), (s.sec.pka = some r) ∧ (r.job = .joinRequest) ∧ (r.left ≤ 1)) ∧
    (∃ (i : Fin 8) (s : State), (s.rdv.joins[i] = none)) ∧
    (∃ (i : Fin 8) (p : JoinPlace) (s : State), (s.rdv.joins[i] = some p)) :=
  ⟨⟨(drawFw ({ run with rdv.cfg.send := true })).1, (drawFw ({ run with rdv.cfg.send := true })).2, { run with rdv.cfg.send := true }, by decide +kernel, by decide +kernel, by decide +kernel, pair_eq _, by decide +kernel⟩,
  ⟨run, .inl rfl⟩,
  ⟨5, 0, { run with rdv.node.due := some (5, 0), rdv.cfg.joinEn := true }, by decide +kernel, by decide +kernel, by decide +kernel, by decide +kernel, by decide +kernel, by decide +kernel, by decide +kernel, by intro q h; rcases h with h | h <;> cases h⟩,
  ⟨5, 0, { run with rdv.node.due := some (5, 0), rdv.cfg.joinEn := true, sec.pka := some (⟨.spi, 0, .joinRequest, 1⟩ : PkaReq) }, by decide +kernel, by decide +kernel, by decide +kernel, by decide +kernel, by decide +kernel, by decide +kernel, by decide +kernel, (⟨.spi, 0, .joinRequest, 1⟩ : PkaReq), by decide +kernel, by decide +kernel, by decide +kernel⟩,
  ⟨7, run, by decide +kernel⟩,
  ⟨7, ({ eui := 7, request := List.replicate 136 0, rssi := 0, since := 0 } : JoinPlace), { run with rdv.joins := run.rdv.joins.set 7 (some ({ eui := 7, request := List.replicate 136 0, rssi := 0, since := 0 } : JoinPlace)) }, by decide +kernel⟩⟩

/-! ### Hypotheses of trafficInstantsAct -/

theorem test_meets_trafficInstantsAct_1 :
    (∃ (s : State), ((s.awake = false ∨ s.traffic.admin = none))) ∧
    (∃ (a : AdminList) (s : State), (s.awake = true) ∧ (s.traffic.admin = some a) ∧ (s.time.nt.toNat < a.x.toNat)) ∧
    (∃ (a : AdminList) (s : State), (s.awake = true) ∧ (s.traffic.admin = some a) ∧ (a.x.toNat ≤ s.time.nt.toNat)) :=
  ⟨⟨run, by decide +kernel⟩,
  ⟨({ list := ⟨0, 0x10, []⟩, clear := false, x := 5, k := 0 } : AdminList), { run with traffic.admin := some ({ list := ⟨0, 0x10, []⟩, clear := false, x := 5, k := 0 } : AdminList) }, by decide +kernel, by decide +kernel, by decide +kernel⟩,
  ⟨({ list := ⟨0, 0x10, []⟩, clear := false, x := 5, k := 0 } : AdminList), { run with traffic.admin := some ({ list := ⟨0, 0x10, []⟩, clear := false, x := 5, k := 0 } : AdminList), time.nt := 5 }, by decide +kernel, by decide +kernel, by decide +kernel⟩⟩

theorem test_meets_trafficInstantsAct_2 :
    (∃ (s : State), (bucketOf s ≤ s.traffic.bucketNo)) ∧
    (∃ (s : State), (s.traffic.bucketNo < bucketOf s)) ∧
    (∃ (s : State), (s.inRun = true) ∧ (s.traffic.journalAt.toNat / secU 60 < s.elapsed.now.toNat / secU 60) ∧ (s.power.bodWarn = false)) ∧
    (∃ (s : State), (s.inRun = true) ∧ (s.traffic.journalAt.toNat / secU 60 < s.elapsed.now.toNat / secU 60) ∧ (s.power.bodWarn = true)) :=
  ⟨⟨run, by decide +kernel⟩,
  ⟨{ run with elapsed.now := 0xFFFFFFFFFFFF#64 }, by decide +kernel⟩,
  ⟨{ run with elapsed.now := 0xFFFFFFFFFFFF#64 }, by decide +kernel, by decide +kernel, by decide +kernel⟩,
  ⟨{ run with elapsed.now := 0xFFFFFFFFFFFF#64, power.bodWarn := true }, by decide +kernel, by decide +kernel, by decide +kernel⟩⟩

/-! ### Hypotheses of FlashOperationsEnd -/

theorem test_meets_flashOperationsEnd_1 :
    (∃ (b : Bool) (s : State), ((s.awake = false ∨ (s.flash.inner = none ∧ s.flash.op = none)))) ∧
    (∃ (b : Bool) (o : FlashOp) (s : State), (s.flash.inner = none) ∧ (s.flash.op = some o) ∧ (flashRuns s = false)) ∧
    (∃ (o : FlashOp) (s : State), (s.awake = true) ∧ (s.flash.inner = none) ∧ (s.flash.op = some o) ∧ (flashRuns s = true) ∧ (o.erase = true)) ∧
    (∃ (o : FlashOp) (s : State), (s.awake = true) ∧ (s.flash.inner = none) ∧ (s.flash.op = some o) ∧ (flashRuns s = true) ∧ 
    let s1 : State := { s with flash.op := none }
    (o.erase = false) ∧ ((∀ i (h : i < o.units.length), unitBlank ((o.units.take i).foldl (fun t u => writeUnit u.1 u.2 t) s1) o.units[i].1 = true))) :=
  ⟨⟨true, run, by decide +kernel⟩,
  ⟨true, ({ port := .spi, handle := 0, erase := true, sector := 1, left := 1 } : FlashOp), { run with flash.op := some ({ port := .spi, handle := 0, erase := true, sector := 1, left := 1 } : FlashOp), flash.suspCmd := true }, by decide +kernel, by decide +kernel, by decide +kernel⟩,
  ⟨({ port := .spi, handle := 0, erase := true, sector := 1, left := 1 } : FlashOp), { run with flash.op := some ({ port := .spi, handle := 0, erase := true, sector := 1, left := 1 } : FlashOp) }, by decide +kernel, by decide +kernel, by decide +kernel, by decide +kernel, by decide +kernel⟩,
  ⟨({ port := .spi, handle := 0, erase := false, units := [(0x2000, List.replicate 16 1), (0x2010, List.replicate 16 2)] } : FlashOp), { run with flash.op := some ({ port := .spi, handle := 0, erase := false, units := [(0x2000, List.replicate 16 1), (0x2010, List.replicate 16 2)] } : FlashOp) }, by decide +kernel, by decide +kernel, by decide +kernel, by decide +kernel, by decide +kernel, by decide +kernel⟩⟩

theorem test_meets_flashOperationsEnd_2 :
    (∃ (o : FlashOp) (s : State), (s.awake = true) ∧ (s.flash.inner = none) ∧ (s.flash.op = some o) ∧ (flashRuns s = true) ∧ 
    let s1 : State := { s with flash.op := none }
    ∃ (f : Nat) (bs : List Byte) (rest : List (Nat × List Byte)), (o.erase = false) ∧ (o.units = (f, bs) :: rest) ∧ (unitBlank s1 f = false)) ∧
    (∃ (o : FlashOp) (s : State), (s.flash.op = some o) ∧ (o.erase = true) ∧ (flashRuns s = true) ∧ (elapsedBy s.flash.eraseSince s.elapsed.now (msU 1) = true)) ∧
    (∃ (s : State), ((s.flash.op = none ∨ elapsedBy s.flash.eraseSince s.elapsed.now (msU 1) = false))) ∧
    (∃ (o : FlashOp) (s : State), (s.flash.inner = none) ∧ (s.flash.op = some o) ∧ (flashRuns s = true) ∧ (o.erase = true) ∧ (o.left ≤ 1)) ∧
    (∃ (o : FlashOp) (s : State), (s.flash.inner = none) ∧ (s.flash.op = some o) ∧ (flashRuns s = true) ∧ (o.erase = true) ∧ (1 < o.left)) :=
  ⟨⟨({ port := .spi, handle := 0, erase := false, units := [(0x2000, List.replicate 16 1)] } : FlashOp), { run with flash.op := some ({ port := .spi, handle := 0, erase := false, units := [(0x2000, List.replicate 16 1)] } : FlashOp), flash.cells := [(0x2000, 0)] }, by decide +kernel, by decide +kernel, by decide +kernel, by decide +kernel, 0x2000, (List.replicate 16 1), [], by decide +kernel, by decide +kernel, by decide +kernel⟩,
  ⟨({ port := .spi, handle := 0, erase := true, sector := 1, left := 1 } : FlashOp), { run with flash.op := some ({ port := .spi, handle := 0, erase := true, sector := 1, left := 1 } : FlashOp), elapsed.now := 0xFFFFFFFFFFFF#64 }, by decide +kernel, by decide +kernel, by decide +kernel, by decide +kernel⟩,
  ⟨run, .inl (by decide +kernel)⟩,
  ⟨({ port := .spi, handle := 0, erase := true, sector := 1, left := 1 } : FlashOp), { run with flash.op := some ({ port := .spi, handle := 0, erase := true, sector := 1, left := 1 } : FlashOp) }, by decide +kernel, by decide +kernel, by decide +kernel, by decide +kernel, by decide +kernel⟩,
  ⟨({ port := .spi, handle := 0, erase := true, sector := 1, left := 2 } : FlashOp), { run with flash.op := some ({ port := .spi, handle := 0, erase := true, sector := 1, left := 2 } : FlashOp) }, by decide +kernel, by decide +kernel, by decide +kernel, by decide +kernel, by decide +kernel⟩⟩

/-! ### Hypotheses of SecurityInstantsAct -/

theorem test_meets_securityInstantsAct_1 :
    (∃ (c : Fin 5) (s : State), (s.sec.ctxs[c] = none)) ∧
    (∃ (c : Fin 5) (m : CipherMsg) (s : State), (s.sec.ctxs[c] = some m) ∧ (s.sec.waiting = [])) ∧
    (∃ (test : Fin 3) (s : State), (s.isUsable dCRYPTO = true) ∧ ((test = 2 → startUpDue s = true))) ∧
    (∃ (s : State), (startUpDue s = true)) ∧
    (∃ (p : Bool) (s : State), (startUpDue s = false)) :=
  ⟨⟨4, run, by decide +kernel⟩,
  ⟨4, (newMsg (asCmd 0x704 (pkt ([0x30, 0, 0, 0] ++ List.replicate 8 0))) [] run), { run with sec.ctxs := run.sec.ctxs.set 4 (some (newMsg (asCmd 0x704 (pkt ([0x30, 0, 0, 0] ++ List.replicate 8 0))) [] run)) }, by decide +kernel, by decide +kernel⟩,
  ⟨2, { run with sec.trngOk := false, elapsed.now := 0xFFFFFFFFFFFF#64 }, by decide +kernel, fun _ => by decide +kernel⟩,
  ⟨{ run with sec.trngOk := false, elapsed.now := 0xFFFFFFFFFFFF#64 }, by decide +kernel⟩,
  ⟨true, run, by decide +kernel⟩⟩

theorem test_meets_securityInstantsAct_2 :
    (∃ (s : State), (s.isUsable dCRYPTO = true) ∧ (s.sec.ready = false) ∧ (elapsedBy s.sec.onAt s.elapsed.now (usU 120) = true)) ∧
    (∃ (s : State), ((s.isUsable dCRYPTO = false ∨ s.sec.ready = true))) ∧
    (∃ (s : State), (s.sec.pka = none)) ∧
    (∃ (r : PkaReq) (s : State), (s.sec.pka = some r) ∧ (1 < r.left)) ∧
    (∃ (r : PkaReq) (s : State), (s.sec.pka = some r) ∧ (r.left ≤ 1) ∧ ∃ (root : Bool) (key : BitVec 256 × BitVec 256) (d : BitVec 256) (x : BitVec 256) (y : BitVec 256), (r.job = .verify root key d x y)) :=
  ⟨⟨{ run with sec.ready := false, elapsed.now := 0xFFFFFFFFFFFF#64 }, by decide +kernel, by decide +kernel, by decide +kernel⟩,
  ⟨run, by decide +kernel⟩,
  ⟨run, by decide +kernel⟩,
  ⟨(⟨.spi, 0, .joinRequest, 2⟩ : PkaReq), { run with sec.pka := some (⟨.spi, 0, .joinRequest, 2⟩ : PkaReq) }, by decide +kernel, by decide +kernel⟩,
  ⟨(⟨.spi, 0, .verify true (1, 2) 3 4 5, 1⟩ : PkaReq), { run with sec.pka := some (⟨.spi, 0, .verify true (1, 2) 3 4 5, 1⟩ : PkaReq) }, by decide +kernel, by decide +kernel, true, (1, 2), 3, 4, 5, by decide +kernel⟩⟩

theorem test_meets_securityInstantsAct_3 :
    (∃ (r : PkaReq) (s : State), (s.sec.pka = some r) ∧ (r.left ≤ 1) ∧ ∃ (slot : Nat) (d : BitVec 256), (r.job = .sign slot d) ∧ (usableSlot slot (pkaGoesOn s) = none)) ∧
    (∃ (r : PkaReq) (s : State), (s.sec.pka = some r) ∧ (r.left ≤ 1) ∧ ∃ (slot : Nat) (d : BitVec 256) (k : KeySlot), (r.job = .sign slot d) ∧ (usableSlot slot (pkaGoesOn s) = some k)) ∧
    (∃ (r : PkaReq) (s : State), (s.sec.pka = some r) ∧ (r.left ≤ 1) ∧ ∃ (slot : Nat) (usage : BitVec 5) (persist : Bool), (r.job = .genKey slot usage persist) ∧ (s.sec.sealedSlots.getLsbD slot = false)) ∧
    (∃ (r : PkaReq) (s : State), (s.sec.pka = some r) ∧ (r.left ≤ 1) ∧ ∃ (slot : Nat) (priv : Nat) (peer : BitVec 256 × BitVec 256) (k : KeySlot), (r.job = .agree slot priv peer) ∧ (usableSlot priv (pkaGoesOn s) = some k)) ∧
    (∃ (r : PkaReq) (s : State), (s.sec.pka = some r) ∧ (r.left ≤ 1) ∧ (r.job = .joinRequest)) :=
  ⟨⟨(⟨.spi, 0, .sign 4 3, 1⟩ : PkaReq), { run with sec.pka := some (⟨.spi, 0, .sign 4 3, 1⟩ : PkaReq) }, by decide +kernel, by decide +kernel, 4, 3, by decide +kernel, by decide +kernel⟩,
  ⟨(⟨.spi, 0, .sign 4 3, 1⟩ : PkaReq), { keyed 4 priv with sec.pka := some (⟨.spi, 0, .sign 4 3, 1⟩ : PkaReq) }, by decide +kernel, by decide +kernel, 4, 3, priv, by decide +kernel, by decide +kernel⟩,
  ⟨(⟨.spi, 0, .genKey 4 31 false, 1⟩ : PkaReq), { run with sec.pka := some (⟨.spi, 0, .genKey 4 31 false, 1⟩ : PkaReq) }, by decide +kernel, by decide +kernel, 4, 31, false, by decide +kernel, by decide +kernel⟩,
  ⟨(⟨.spi, 0, .agree 24 4 (baseX, baseY), 1⟩ : PkaReq), { keyed 4 priv with sec.pka := some (⟨.spi, 0, .agree 24 4 (baseX, baseY), 1⟩ : PkaReq) }, by decide +kernel, by decide +kernel, 24, 4, (baseX, baseY), priv, by decide +kernel, by decide +kernel⟩,
  ⟨(⟨.spi, 0, .joinRequest, 1⟩ : PkaReq), { run with sec.pka := some (⟨.spi, 0, .joinRequest, 1⟩ : PkaReq) }, by decide +kernel, by decide +kernel, by decide +kernel⟩⟩

theorem test_meets_securityInstantsAct_4 :
    (∃ (r : PkaReq) (s : State), (s.sec.pka = some r) ∧ (r.left ≤ 1) ∧ ∃ (link : BitVec 24 × DWord) (ch : List Byte), (r.job = .remoteReport link ch)) ∧
    (∃ (r : PkaReq) (s : State), (s.sec.pka = some r) ∧ (r.left ≤ 1) ∧ ∃ (psdu : List Byte) (m : MacFrame), (r.job = .joinResponse psdu) ∧ (parseMac psdu = some m)) ∧
    (∃ (s : State), (s.power.phase = .stop)) ∧
    (∃ (s : State), ((s.power.phase = .run ∨ s.power.phase = .entering)) ∧ (s.sec.extest = false) ∧ (s.sec.ready = false) ∧ ∃ (scope : BitVec 2) (k : List Word) (g : List Word), ((scope = 0#2 ∨ scope = 3#2))) ∧
    (∃ (s : State), ((s.power.phase = .run ∨ s.power.phase = .entering)) ∧ (s.sec.extest = false) ∧ (s.sec.ready = false) ∧ ∃ (st : Status), (debugChallenge (if s.power.wakeArm.getLsbD 13 then holdWake 7 0 s else s) = .error st)) :=
  ⟨⟨(⟨.spi, 0, .remoteReport (5, 7) [1], 1⟩ : PkaReq), { run with sec.pka := some (⟨.spi, 0, .remoteReport (5, 7) [1], 1⟩ : PkaReq) }, by decide +kernel, by decide +kernel, (5, 7), [1], by decide +kernel⟩,
  ⟨(⟨.spi, 0, .joinResponse [0x20, 0, 0, 0, 0, 0, 5, 0, 0, 7, 0, 0, 1, 2, 3, 4], 1⟩ : PkaReq), { run with sec.pka := some (⟨.spi, 0, .joinResponse [0x20, 0, 0, 0, 0, 0, 5, 0, 0, 7, 0, 0, 1, 2, 3, 4], 1⟩ : PkaReq) }, by decide +kernel, by decide +kernel, [0x20, 0, 0, 0, 0, 0, 5, 0, 0, 7, 0, 0, 1, 2, 3, 4], ((parseMac [0x20, 0, 0, 0, 0, 0, 5, 0, 0, 7, 0, 0, 1, 2, 3, 4]).getD ⟨0, false, 0, false, false, false, false, 0, 0, 0, [], [], []⟩), by decide +kernel, by decide +kernel⟩,
  ⟨{ run with power.phase := .stop }, by decide +kernel⟩,
  ⟨{ run with sec.ready := false, power.phase := .entering }, .inr (by decide +kernel), by decide +kernel, by decide +kernel, 3, [], [], .inr rfl⟩,
  ⟨{ run with sec.ready := false, sec.trngOk := false }, .inl (by decide +kernel), by decide +kernel, by decide +kernel, .busy, rfl⟩⟩

/-! ### Hypotheses of supplyAndDomainsAct -/

theorem test_meets_supplyAndDomainsAct_1 :
    (∃ (mv : Nat) (s : State), ((s.power.bodWarn = true ∨ s.power.phase = .booting ∨ 2000 + 50 * s.power.bodLevel.toNat ≤ mv))) ∧
    (∃ (mv : Nat) (s : State), (s.power.bodWarn = false) ∧ (s.power.phase ≠ .booting) ∧ (mv < 2000 + 50 * s.power.bodLevel.toNat) ∧ ∃ (cut : _) (s1 : State), (abortAir s = (cut, s1))) ∧
    (∃ (mv : Nat) (s : State), ((s.power.bodWarn = false ∨ mv < 2000 + 50 * s.power.bodLevel.toNat + 50))) ∧
    (∃ (mv : Nat) (s : State), (s.power.bodWarn = true) ∧ (2000 + 50 * s.power.bodLevel.toNat + 50 ≤ mv)) ∧
    (∃ (s : State), (s.power.oppWait = none)) :=
  ⟨⟨2200, run, by decide +kernel⟩,
  ⟨2199, run, by decide +kernel, by decide +kernel, by decide +kernel, (abortAir run).1, (abortAir run).2, pair_eq _⟩,
  ⟨2249, { run with power.bodWarn := true }, .inr (by decide +kernel)⟩,
  ⟨2250, { run with power.bodWarn := true }, by decide +kernel, by decide +kernel⟩,
  ⟨run, by decide +kernel⟩⟩

theorem test_meets_supplyAndDomainsAct_2 :
    (∃ (p : PortId) (t : BitVec 6) (point : Bool) (since : DWord) (s : State), (s.power.oppWait = some (p, t, point, since)) ∧ (s.power.switching = true) ∧ (s.elapsed.now.toNat < since.toNat + usU (if point then 40 else 60))) ∧
    (∃ (p : PortId) (t : BitVec 6) (point : Bool) (since : DWord) (s : State), (s.power.oppWait = some (p, t, point, since)) ∧ (s.power.switching = true) ∧ (since.toNat + usU (if point then 40 else 60) ≤ s.elapsed.now.toNat)) ∧
    (∃ (p : PortId) (t : BitVec 6) (point : Bool) (since : DWord) (s : State), (s.power.oppWait = some (p, t, point, since)) ∧ (s.power.switching = false) ∧ (oppAllowed s = false)) ∧
    (∃ (p : PortId) (t : BitVec 6) (point : Bool) (since : DWord) (s : State), (s.power.oppWait = some (p, t, point, since)) ∧ (s.power.switching = false) ∧ (oppAllowed s = true) ∧ (point = true) ∧ (s.on dBLVD = true)) ∧
    (∃ (p : PortId) (t : BitVec 6) (point : Bool) (since : DWord) (s : State), (s.power.oppWait = some (p, t, point, since)) ∧ (s.power.switching = false) ∧ (oppAllowed s = true) ∧ ((point = false ∨ s.on dBLVD = false))) :=
  ⟨⟨.spi, 0, true, 0, { run with power.oppWait := some (.spi, 0, true, 0), power.switching := true }, by decide +kernel, by decide +kernel, by decide +kernel⟩,
  ⟨.spi, 0, true, 0, { run with power.oppWait := some (.spi, 0, true, 0), power.switching := true, elapsed.now := 0xFFFFFFFFFFFF#64 }, by decide +kernel, by decide +kernel, by decide +kernel⟩,
  ⟨.spi, 0, true, 0, { run with power.oppWait := some (.spi, 0, true, 0), radio.mode := .tx }, by decide +kernel, by decide +kernel, by decide +kernel⟩,
  ⟨.spi, 0, true, 0, { run with power.oppWait := some (.spi, 0, true, 0) }, by decide +kernel, by decide +kernel, by decide +kernel, by decide +kernel, by decide +kernel⟩,
  ⟨.spi, 0, false, 0, { run with power.oppWait := some (.spi, 0, false, 0) }, by decide +kernel, by decide +kernel, by decide +kernel, .inl rfl⟩⟩

theorem test_meets_supplyAndDomainsAct_3 :
    (∃ (p : PortId) (t : BitVec 6) (point : Bool) (since : DWord) (s : State), (s.power.oppWait = some (p, t, point, since)) ∧ (s.power.switching = false) ∧ (elapsedBy since s.elapsed.now (msU 100) = true)) ∧
    (∃ (d : Fin 12) (s : State), (s.on d.val = true) ∧ (s.isUsable d.val = false) ∧ (s.awake = true) ∧ ((needs d.val = 0 ∨ s.isUsable (needs d.val) = true)) ∧ (s.power.onAt[d].toNat + usU (usableUs d.val) ≤ s.elapsed.now.toNat)) ∧
    (∃ (d : Fin 12) (s : State), ((s.on d.val = false ∨ s.isUsable d.val = true ∨ s.awake = false ∨
    s.elapsed.now.toNat < s.power.onAt[d].toNat + usU (usableUs d.val)))) ∧
    (∃ (s : State), (s.awake = true) ∧ (s.power.pll = false) ∧ (s.power.hfxo = true)) ∧
    (∃ (s : State), (s.isUsable dPERI = false)) :=
  ⟨⟨.spi, 0, true, 0, { run with power.oppWait := some (.spi, 0, true, 0), elapsed.now := 0xFFFFFFFFFFFF#64 }, by decide +kernel, by decide +kernel, by decide +kernel⟩,
  ⟨1, { run with power.usable := 0xFFD#12, elapsed.now := 0xFFFFFFFFFFFF#64 }, by decide +kernel, by decide +kernel, by decide +kernel, .inl (by decide), by decide +kernel⟩,
  ⟨1, run, .inr (.inl (by decide +kernel))⟩,
  ⟨{ run with power.pll := false }, by decide +kernel, by decide +kernel, by decide +kernel⟩,
  ⟨{ run with power.usable := 0xFDF#12 }, by decide +kernel⟩⟩

/-! ### Hypotheses of stopAndWakeAct -/

theorem test_meets_stopAndWakeAct :
    (∃ (s : State), (s.power.stopPort = none)) ∧
    (∃ (p : PortId) (s : State), (s.power.stopPort = some p) ∧ (s.power.phase = .entering) ∧ (responseTaken (s.port p) = true)) ∧
    (∃ (src : BitVec 8) (d : BitVec 6) (f : BitVec 16) (c : Int) (n : Sensors) (s : State), (s.power.phase ≠ .stop) ∧ (s.power.phase ≠ .entering)) ∧
    (∃ (src : BitVec 8) (d : BitVec 6) (f : BitVec 16) (c : Int) (n : Sensors) (s : State), (s.power.phase = .entering) ∧ (armedSources (BitVec.toNat d) (src &&& 0xFE#8) s ≠ 0#8)) ∧
    (∃ (src : BitVec 8) (d : BitVec 6) (f : BitVec 16) (c : Int) (n : Sensors) (s : State), (s.power.phase = .stop) ∧ (s.power.heldWake = 0#8) ∧ (armedSources (BitVec.toNat d) (src &&& 0xFE#8) s = 0#8)) ∧
    (∃ (src : BitVec 8) (d : BitVec 6) (c : Int) (n : Sensors) (s : State), (s.power.phase = .stop) ∧ 
    let held := s.power.heldWake
    
    let m := if held = 0#8 then armedSources (BitVec.toNat d) (src &&& 0xFE#8) s else held
    (m ≠ 0#8) ∧ (s.sec.debugHeld = none) ∧ (s.power.atEntry &&& 0x040#12 = 0#12) ∧ (s.power.domains &&& 0x002#12 = 0#12) ∧ 
    let code := lowestCode m
    
    let on_ : BitVec 12 := (s.power.atEntry &&& 0x0F0#12) ||| 0x00D#12
    
    let record : WakeRecord := { s.power.wake with
      source := BitVec.ofNat 4 code, detail := if held ≠ 0#8 then s.power.heldDetail else if code ≤ 4 then d else 0#6
      duringEntry := held ≠ 0#8, sources := m, ntWake := if held ≠ 0#8 then s.power.wake.ntEntry else s.time.nt
      retFail := 0, saveArea := false, restored := s.power.atEntry }
    
    let away := s.elapsed.now - s.power.stopAt
    
    let s1 := clearBanks (~~~s.power.sealedBanks) { s with
      radio.cal.dueSince := s.radio.cal.dueSince + away, bg.lastPause := s.bg.lastPause.map fun p => (p.1 + away, p.2)
      bg.dueAt := s.bg.dueAt.map fun t => t + away }
    
    let s2 : State := { s1 with
      power := { s.power with phase := .run, domains := on_, usable := on_ ||| s.power.usable, wake := record, heldWake := 0, heldDetail := 0 }
      radio.refInUse := s.radio.rf.ref, radio.trimInUse := s.radio.rf.hfxoTrim, plaza.rdy := true
      plaza.uartBitNs := if m.getLsbD 6 then none else s.plaza.uartBitNs }
    
    let s2 := periReset (raise 0x004 ((wakeWords record).take 7) s2)
    
    let s3 := sampleTemp c n (raisePending (ageBuckets (if on_.getLsbD dXMEM then linksBack s2 else s2)))
    (s3.sec.debugHeld = none)) :=
  ⟨⟨run, by decide +kernel⟩,
  ⟨.spi, { run with power.stopPort := some .spi, power.phase := .entering }, by decide +kernel, by decide +kernel, by decide +kernel⟩,
  ⟨0, 0, 0, 0, ⟨0, 0⟩, run, by decide +kernel, by decide +kernel⟩,
  ⟨0x20, 0, 0, 0, ⟨0, 0⟩, { run with power.phase := .entering, power.wakeArm := 0x800#14 }, by decide +kernel, by decide +kernel⟩,
  ⟨0x20, 0, 0, 0, ⟨0, 0⟩, { run with power.phase := .stop }, by decide +kernel, by decide +kernel, by decide +kernel⟩,
  ⟨0x20, 0, 0, ⟨0, 0⟩, { run with power.phase := .stop, power.wakeArm := 0x800#14, power.domains := 0x00D#12 }, by decide +kernel, by decide +kernel, by decide +kernel, by decide +kernel, by decide +kernel, by decide +kernel⟩⟩

/-! ### Hypotheses of updateInstantsAct -/

theorem test_meets_updateInstantsAct_1 :
    (∃ (b : Bool) (s : State), ((s.upd.act = none ∨ s.inRun = false))) ∧
    (∃ (a : Activation) (b : Bool) (s : State), (s.upd.act = some a) ∧ (s.inRun = true) ∧ (s.upd.hand = none)) ∧
    (∃ (a : Activation) (h : Handover) (img : Image) (b : Bool) (s : State), (s.upd.act = some a) ∧ (s.inRun = true) ∧ (s.upd.hand = some h) ∧ (h.phase = .record) ∧ (s.upd.staged = some img) ∧ (s.power.bodWarn = true)) ∧
    (∃ (a : Activation) (h : Handover) (img : Image) (b : Bool) (s : State), (s.upd.act = some a) ∧ (s.inRun = true) ∧ (s.upd.hand = some h) ∧ (h.phase = .record) ∧ (s.upd.staged = some img) ∧ (s.power.bodWarn = false) ∧ (coreMidTransfer s = true)) ∧
    (∃ (a : Activation) (h : Handover) (img : Image) (b : Bool) (s : State), (s.upd.act = some a) ∧ (s.inRun = true) ∧ (s.upd.hand = some h) ∧ (h.phase = .record) ∧ (s.upd.staged = some img) ∧ (s.power.bodWarn = false) ∧ (coreMidTransfer s = false)) :=
  ⟨⟨true, run, .inl rfl⟩,
  ⟨({ port := .spi, handle := 0, since := 0, waitMax := 1, trialS := 10, rollbackOnFault := false } : Activation), true, { run with upd.act := some ({ port := .spi, handle := 0, since := 0, waitMax := 1, trialS := 10, rollbackOnFault := false } : Activation), upd.staged := some {} }, by decide +kernel, by decide +kernel, by decide +kernel⟩,
  ⟨({ port := .spi, handle := 0, since := 0, waitMax := 1, trialS := 10, rollbackOnFault := false } : Activation), ({ phase := .record, t0 := 0 } : Handover), {}, true, { run with upd.act := some ({ port := .spi, handle := 0, since := 0, waitMax := 1, trialS := 10, rollbackOnFault := false } : Activation), upd.staged := some {}, upd.hand := some ({ phase := .record, t0 := 0 } : Handover), power.bodWarn := true }, by decide +kernel, by decide +kernel, by decide +kernel, by decide +kernel, by decide +kernel, by decide +kernel⟩,
  ⟨({ port := .spi, handle := 0, since := 0, waitMax := 1, trialS := 10, rollbackOnFault := false } : Activation), ({ phase := .record, t0 := 0 } : Handover), {}, true, { run with upd.act := some ({ port := .spi, handle := 0, since := 0, waitMax := 1, trialS := 10, rollbackOnFault := false } : Activation), upd.staged := some {}, upd.hand := some ({ phase := .record, t0 := 0 } : Handover), core := { running := true, slot := some 8 } }, by decide +kernel, by decide +kernel, by decide +kernel, by decide +kernel, by decide +kernel, by decide +kernel, by decide +kernel⟩,
  ⟨({ port := .spi, handle := 0, since := 0, waitMax := 1, trialS := 10, rollbackOnFault := false } : Activation), ({ phase := .record, t0 := 0 } : Handover), {}, true, { run with upd.act := some ({ port := .spi, handle := 0, since := 0, waitMax := 1, trialS := 10, rollbackOnFault := false } : Activation), upd.staged := some {}, upd.hand := some ({ phase := .record, t0 := 0 } : Handover) }, by decide +kernel, by decide +kernel, by decide +kernel, by decide +kernel, by decide +kernel, by decide +kernel, by decide +kernel⟩⟩

theorem test_meets_updateInstantsAct_2 :
    (∃ (a : Activation) (h : Handover) (b : Bool) (s : State), (s.upd.act = some a) ∧ (s.inRun = true) ∧ (s.upd.hand = some h) ∧ (h.phase = .parked) ∧ (s.on dAPP = false)) ∧
    (∃ (a : Activation) (h : Handover) (b : Bool) (s : State), (s.upd.act = some a) ∧ (s.inRun = true) ∧ (s.upd.hand = some h) ∧ (h.phase = .parked) ∧ ∃ (e : Bool) (t : State), (s.on dAPP = true) ∧ (coreHandover s = (e, t))) ∧
    (∃ (a : Activation) (h : Handover) (s : State), (s.upd.act = some a) ∧ (s.inRun = true) ∧ (s.upd.hand = some h) ∧ (h.phase = .adopting)) ∧
    (∃ (s : State), (s.upd.act = none)) ∧
    (∃ (a : Activation) (s : State), (s.upd.act = some a) ∧ (s.inRun = true) ∧ (s.upd.hand = none) ∧ (elapsedBy a.since s.elapsed.now (msU a.waitMax) = true)) ∧
    (∃ (r : RollbackReason) (s : State), (s.upd.trial = none)) :=
  ⟨⟨({ port := .spi, handle := 0, since := 0, waitMax := 1, trialS := 10, rollbackOnFault := false } : Activation), ({ phase := .parked, t0 := 0 } : Handover), true, { run with upd.act := some ({ port := .spi, handle := 0, since := 0, waitMax := 1, trialS := 10, rollbackOnFault := false } : Activation), upd.staged := some {}, upd.hand := some ({ phase := .parked, t0 := 0 } : Handover), power.domains := 0xFEF#12 }, by decide +kernel, by decide +kernel, by decide +kernel, by decide +kernel, by decide +kernel⟩,
  ⟨({ port := .spi, handle := 0, since := 0, waitMax := 1, trialS := 10, rollbackOnFault := false } : Activation), ({ phase := .parked, t0 := 0 } : Handover), true, { run with upd.act := some ({ port := .spi, handle := 0, since := 0, waitMax := 1, trialS := 10, rollbackOnFault := false } : Activation), upd.staged := some {}, upd.hand := some ({ phase := .parked, t0 := 0 } : Handover) }, by decide +kernel, by decide +kernel, by decide +kernel, by decide +kernel, (coreHandover ({ run with upd.act := some ({ port := .spi, handle := 0, since := 0, waitMax := 1, trialS := 10, rollbackOnFault := false } : Activation), upd.staged := some {}, upd.hand := some ({ phase := .parked, t0 := 0 } : Handover) })).1, (coreHandover ({ run with upd.act := some ({ port := .spi, handle := 0, since := 0, waitMax := 1, trialS := 10, rollbackOnFault := false } : Activation), upd.staged := some {}, upd.hand := some ({ phase := .parked, t0 := 0 } : Handover) })).2, by decide +kernel, pair_eq _⟩,
  ⟨({ port := .spi, handle := 0, since := 0, waitMax := 1, trialS := 10, rollbackOnFault := false } : Activation), ({ phase := .adopting, t0 := 0 } : Handover), { run with upd.act := some ({ port := .spi, handle := 0, since := 0, waitMax := 1, trialS := 10, rollbackOnFault := false } : Activation), upd.staged := some {}, upd.hand := some ({ phase := .adopting, t0 := 0 } : Handover) }, by decide +kernel, by decide +kernel, by decide +kernel, by decide +kernel⟩,
  ⟨run, by decide +kernel⟩,
  ⟨({ port := .spi, handle := 0, since := 0, waitMax := 1, trialS := 10, rollbackOnFault := false } : Activation), { run with upd.act := some ({ port := .spi, handle := 0, since := 0, waitMax := 1, trialS := 10, rollbackOnFault := false } : Activation), upd.staged := some {}, elapsed.now := 0xFFFFFFFFFFFF#64 }, by decide +kernel, by decide +kernel, by decide +kernel, by decide +kernel⟩,
  ⟨.abort, run, by decide +kernel⟩⟩

theorem test_meets_updateInstantsAct_3 :
    (∃ (t : Trial) (s : State), (s.upd.trial = some t) ∧ (s.inRun = true) ∧ (s.upd.hand = none) ∧ (elapsedBy t.since s.elapsed.now (secU t.trialS) = true)) ∧
    (∃ (t : Trial) (s : State), (s.upd.trial = some t) ∧ (s.inRun = true) ∧ (s.elapsed.now.toNat ≤ t.since.toNat + secU 2)) ∧
    (∃ (r : RollbackReason) (t : Trial) (s : State), (s.upd.trial = some t) ∧ (s.inRun = true) ∧ (r ≠ .selfTest) ∧ (r ≠ .trialElapsed) ∧ (t.due = some (reasonCode r))) ∧
    (∃ (s : State), (s.upd.session = none)) ∧
    (∃ (u : UpdSession) (t : BitVec 6) (s : State), (s.upd.session = some u) ∧ (u.erasing = some t) ∧ (s.power.bodWarn = false) ∧ (s.inRun = true)) ∧
    (∃ (u : UpdSession) (p : PortId) (t : BitVec 6) (s : State), (s.upd.session = some u) ∧ (s.upd.verifying = some (p, t)) ∧ (s.inRun = true) ∧ ∃ (st : Status) (reason : Nat) (kind : Nat) (staged : Option Image), (checkPackage u s = (st, reason, kind, staged))) :=
  ⟨⟨({ since := 0, trialS := 10, rollbackOnFault := false, due := none } : Trial), { run with upd.trial := some { since := 0, trialS := 10, rollbackOnFault := false, due := none }, elapsed.now := 0xFFFFFFFFFFFF#64 }, by decide +kernel, by decide +kernel, by decide +kernel, by decide +kernel⟩,
  ⟨({ since := 0, trialS := 10, rollbackOnFault := false, due := none } : Trial), { run with upd.trial := some { since := 0, trialS := 10, rollbackOnFault := false, due := none } }, by decide +kernel, by decide +kernel, by decide +kernel⟩,
  ⟨.abort, ({ since := 0, trialS := 10, rollbackOnFault := false, due := some 5 } : Trial), { run with upd.trial := some { since := 0, trialS := 10, rollbackOnFault := false, due := some 5 } }, by decide +kernel, by decide +kernel, by decide +kernel, by decide +kernel, by decide +kernel⟩,
  ⟨run, by decide +kernel⟩,
  ⟨({ port := .spi, bytes := 4096, ownerSlot := 0, erasing := some 5 } : UpdSession), 5, { run with upd.session := some ({ port := .spi, bytes := 4096, ownerSlot := 0, erasing := some 5 } : UpdSession) }, by decide +kernel, by decide +kernel, by decide +kernel, by decide +kernel⟩,
  ⟨({ port := .spi, bytes := 4096, ownerSlot := 0, erasing := none } : UpdSession), .spi, 5, { run with upd.session := some ({ port := .spi, bytes := 4096, ownerSlot := 0, erasing := none } : UpdSession), upd.verifying := some (.spi, 5) }, by decide +kernel, by decide +kernel, by decide +kernel, (checkPackage ({ port := .spi, bytes := 4096, ownerSlot := 0, erasing := none } : UpdSession) ({ run with upd.session := some ({ port := .spi, bytes := 4096, ownerSlot := 0, erasing := none } : UpdSession), upd.verifying := some (.spi, 5) })).1, (checkPackage ({ port := .spi, bytes := 4096, ownerSlot := 0, erasing := none } : UpdSession) ({ run with upd.session := some ({ port := .spi, bytes := 4096, ownerSlot := 0, erasing := none } : UpdSession), upd.verifying := some (.spi, 5) })).2.1, (checkPackage ({ port := .spi, bytes := 4096, ownerSlot := 0, erasing := none } : UpdSession) ({ run with upd.session := some ({ port := .spi, bytes := 4096, ownerSlot := 0, erasing := none } : UpdSession), upd.verifying := some (.spi, 5) })).2.2.1, (checkPackage ({ port := .spi, bytes := 4096, ownerSlot := 0, erasing := none } : UpdSession) ({ run with upd.session := some ({ port := .spi, bytes := 4096, ownerSlot := 0, erasing := none } : UpdSession), upd.verifying := some (.spi, 5) })).2.2.2, quad_eq _⟩⟩

/-! ### Hypotheses of backgroundQuantaAct -/

theorem test_meets_backgroundQuantaAct_1 :
    (∃ (m : MemKind) (e : EccFound) (s : State), ((quantumMay .scrub s = false ∨ m = .flash))) ∧
    (∃ (m : MemKind) (s : State), (Quantum .scrub s) ∧ (m ≠ .flash)) ∧
    (∃ (e : EccFound) (b : Bool) (s : State), (quantumMay .refresh s = false)) ∧
    (∃ (s : State), (Quantum .refresh s) ∧ (s.flash.op = none) ∧ (bankErasing s = false)) ∧
    (∃ (x : Nat) (s : State), (quantumMay .compaction s = false)) :=
  ⟨⟨.flash, .none, run, .inr rfl⟩,
  ⟨.appSram, run, by unfold Quantum; decide +kernel, by decide +kernel⟩,
  ⟨.none, true, { run with bg.pause := some (0, 5) }, by decide +kernel⟩,
  ⟨run, by unfold Quantum; decide +kernel, by decide +kernel, by decide +kernel⟩,
  ⟨5, { run with bg.pause := some (0, 5) }, by decide +kernel⟩⟩

theorem test_meets_backgroundQuantaAct_2 :
    (∃ (s : State), (Quantum .compaction s) ∧ ∃ (x : Nat), (x < s.sectors) ∧ (arrayOf s x = 2)) ∧
    (∃ (t : Int) (n : Sensors) (mv : Nat) (s : State), (quantumMay .telemetry s = false)) ∧
    (∃ (t : Int) (n : Sensors) (mv : Nat) (s : State), (Quantum .telemetry s)) ∧
    (∃ (a : Activity) (s : State), ((s.inRun = false ∨ s.bg.pause ≠ none ∨ isUrgent a s = true))) ∧
    (∃ (a : Activity) (s : State), (a ≠ .calibration) ∧ (s.inRun = true) ∧ (s.bg.pause = none) ∧ (isUrgent a s = false) ∧ (s.power.bodWarn = false) ∧ (elapsedBy s.bg.dueAt[activityIdx a] s.elapsed.now (deferralBound a) = true)) ∧
    (∃ (s : State), (s.inRun = true) ∧ (s.bg.pause = none) ∧ (isUrgent .calibration s = false) ∧ (s.radio.cal.periodic ≠ 0#4) ∧ (elapsedBy s.radio.cal.dueSince s.elapsed.now (secU 30) = true) ∧ (calAdmitted s = false) ∧ (s.bg.drain = none)) :=
  ⟨⟨run, by unfold Quantum; decide +kernel, 511, by decide +kernel, by decide +kernel⟩,
  ⟨25, ⟨0, 0⟩, 3000, { run with bg.pause := some (0, 5) }, by decide +kernel⟩,
  ⟨25, ⟨0, 0⟩, 3000, run, by unfold Quantum; decide +kernel⟩,
  ⟨.scrub, { run with bg.pause := some (0, 5) }, .inr (.inl (by decide +kernel))⟩,
  ⟨.refresh, { run with elapsed.now := 0xFFFFFFFFFFFF#64 }, by decide +kernel, by decide +kernel, by decide +kernel, by decide +kernel, by decide +kernel, by decide +kernel⟩,
  ⟨{ run with radio.cal.periodic := 1, elapsed.now := 0xFFFFFFFFFFFF#64 }, by decide +kernel, by decide +kernel, by decide +kernel, by decide +kernel, by decide +kernel, by decide +kernel, by decide +kernel⟩⟩

/-! ### Hypotheses of testsAndPausesEnd -/

theorem test_meets_testsAndPausesEnd_1 :
    (∃ (s : State), (s.bg.pause = none)) ∧
    (∃ (t : DWord) (ms : Nat) (s : State), (s.bg.pause = some (t, ms)) ∧ (elapsedBy t s.elapsed.now (msU ms) = true)) ∧
    (∃ (p : Bool) (n : Nat) (s : State), (s.bg.ctxTest = none)) ∧
    (∃ (p : Bool) (n : Nat) (t : CtxTestOp) (s : State), (s.bg.ctxTest = some t) ∧ ((s.rx.ctxs[t.ctx]).st = .offline) ∧ (s.isUsable dBLVD = true) ∧ (elapsedBy t.offAt s.elapsed.now (usU 1500) = false)) ∧
    (∃ (p : Bool) (n : Nat) (t : CtxTestOp) (s : State), (s.bg.ctxTest = some t) ∧ ((s.rx.ctxs[t.ctx]).st = .offline) ∧ (s.isUsable dBLVD = true) ∧ (elapsedBy t.offAt s.elapsed.now (usU 1500) = true)) :=
  ⟨⟨run, by decide +kernel⟩,
  ⟨0, 5, { run with bg.pause := some (0, 5), elapsed.now := 0xFFFFFFFFFFFF#64 }, by decide +kernel, by decide +kernel⟩,
  ⟨true, 5, run, by decide +kernel⟩,
  ⟨true, 5, ({ port := .spi, handle := 0, ctx := 63, waitMax := 1, since := 0 } : CtxTestOp), { run with bg.ctxTest := some ({ port := .spi, handle := 0, ctx := 63, waitMax := 1, since := 0 } : CtxTestOp), rx.ctxs := run.rx.ctxs.set 63 { st := .offline } }, by decide +kernel, by decide +kernel, by decide +kernel, by decide +kernel⟩,
  ⟨true, 5, ({ port := .spi, handle := 0, ctx := 63, waitMax := 1, since := 0 } : CtxTestOp), { run with bg.ctxTest := some ({ port := .spi, handle := 0, ctx := 63, waitMax := 1, since := 0 } : CtxTestOp), rx.ctxs := run.rx.ctxs.set 63 { st := .offline }, elapsed.now := 0xFFFFFFFFFFFF#64 }, by decide +kernel, by decide +kernel, by decide +kernel, by decide +kernel⟩⟩

theorem test_meets_testsAndPausesEnd_2 :
    (∃ (p : Bool) (n : Nat) (t : CtxTestOp) (s : State), (s.bg.ctxTest = some t) ∧ ((s.rx.ctxs[t.ctx]).st ≠ .offline) ∧ (elapsedBy t.since s.elapsed.now (msU t.waitMax) = true)) ∧
    (∃ (n : Nat) (f : Nat) (s : State), (s.bg.bist = none)) ∧
    (∃ (n : Nat) (f : Nat) (t : BistOp) (s : State), (s.bg.bist = some t) ∧ (elapsedBy t.since s.elapsed.now (usU (if s.power.lp then 3410 else 1280)) = false)) ∧
    (∃ (n : Nat) (f : Nat) (t : BistOp) (s : State), (s.bg.bist = some t) ∧ (elapsedBy t.since s.elapsed.now (usU (if s.power.lp then 3410 else 1280)) = true)) ∧
    (∃ (p : Bool) (a : Word) (b : Word) (c : Word) (d : Word) (s : State), (s.bg.loop = none)) ∧
    (∃ (p : Bool) (a : Word) (b : Word) (c : Word) (d : Word) (o : LoopOp) (s : State), (s.bg.loop = some o) ∧ (elapsedBy o.since s.elapsed.now (usU o.durationUs) = false)) :=
  ⟨⟨true, 5, ({ port := .spi, handle := 0, ctx := 63, waitMax := 1, since := 0 } : CtxTestOp), { run with bg.ctxTest := some ({ port := .spi, handle := 0, ctx := 63, waitMax := 1, since := 0 } : CtxTestOp), elapsed.now := 0xFFFFFFFFFFFF#64 }, by decide +kernel, by decide +kernel, by decide +kernel⟩,
  ⟨5, 3, run, by decide +kernel⟩,
  ⟨5, 3, ({ port := .spi, handle := 0, bank := 15, since := 0 } : BistOp), { run with bg.bist := some ({ port := .spi, handle := 0, bank := 15, since := 0 } : BistOp) }, by decide +kernel, by decide +kernel⟩,
  ⟨5, 3, ({ port := .spi, handle := 0, bank := 15, since := 0 } : BistOp), { run with bg.bist := some ({ port := .spi, handle := 0, bank := 15, since := 0 } : BistOp), elapsed.now := 0xFFFFFFFFFFFF#64 }, by decide +kernel, by decide +kernel⟩,
  ⟨true, 1, 2, 3, 4, run, by decide +kernel⟩,
  ⟨true, 1, 2, 3, 4, ({ port := .spi, tag := 0, kerb := false, since := 0, durationUs := 7 } : LoopOp), { run with bg.loop := some ({ port := .spi, tag := 0, kerb := false, since := 0, durationUs := 7 } : LoopOp) }, by decide +kernel, by decide +kernel⟩⟩

theorem test_meets_testsAndPausesEnd_3 :
    (∃ (p : Bool) (a : Word) (b : Word) (c : Word) (d : Word) (o : LoopOp) (s : State), (s.bg.loop = some o) ∧ (elapsedBy o.since s.elapsed.now (usU o.durationUs) = true) ∧ (o.kerb = false)) ∧
    (∃ (p : Bool) (a : Word) (b : Word) (c : Word) (d : Word) (o : LoopOp) (s : State), (s.bg.loop = some o) ∧ (elapsedBy o.since s.elapsed.now (usU o.durationUs) = true) ∧ (o.kerb = true)) ∧
    (∃ (s : State), (s.dir.snapshot = none)) ∧
    (∃ (o : SnapshotOp) (s : State), (s.dir.snapshot = some o) ∧ (dirCfg s = none)) ∧
    (∃ (o : SnapshotOp) (d : DirConfig) (s : State), (s.dir.snapshot = some o) ∧ (dirCfg s = some d) ∧ (o.restore = false)) ∧
    (∃ (o : SnapshotOp) (d : DirConfig) (s : State), (s.dir.snapshot = some o) ∧ (dirCfg s = some d) ∧ (o.restore = true)) :=
  ⟨⟨true, 1, 2, 3, 4, ({ port := .spi, tag := 0, kerb := false, since := 0, durationUs := 7 } : LoopOp), { run with bg.loop := some ({ port := .spi, tag := 0, kerb := false, since := 0, durationUs := 7 } : LoopOp), elapsed.now := 0xFFFFFFFFFFFF#64 }, by decide +kernel, by decide +kernel, by decide +kernel⟩,
  ⟨true, 1, 2, 3, 4, ({ port := .spi, tag := 0, kerb := true, since := 0, durationUs := 7 } : LoopOp), { run with bg.loop := some ({ port := .spi, tag := 0, kerb := true, since := 0, durationUs := 7 } : LoopOp), elapsed.now := 0xFFFFFFFFFFFF#64 }, by decide +kernel, by decide +kernel, by decide +kernel⟩,
  ⟨run, by decide +kernel⟩,
  ⟨({ port := .spi, tag := 0, restore := false, first := 1, num := 1, words := [] } : SnapshotOp), { run with dir.snapshot := some ({ port := .spi, tag := 0, restore := false, first := 1, num := 1, words := [] } : SnapshotOp) }, by decide +kernel, by decide +kernel⟩,
  ⟨({ port := .spi, tag := 0, restore := false, first := 1, num := 1, words := [] } : SnapshotOp), ({ enable := true, volatile := false, dual := false, log2cap := 14, ext := false, base := 0, clkMhz := 100, dummy := 3 } : DirConfig), { run with dir.snapshot := some ({ port := .spi, tag := 0, restore := false, first := 1, num := 1, words := [] } : SnapshotOp), dir.cfg := some ({ enable := true, volatile := false, dual := false, log2cap := 14, ext := false, base := 0, clkMhz := 100, dummy := 3 } : DirConfig) }, by decide +kernel, by decide +kernel, by decide +kernel⟩,
  ⟨({ port := .spi, tag := 0, restore := true, first := 1, num := 1, words := [] } : SnapshotOp), ({ enable := true, volatile := false, dual := false, log2cap := 14, ext := false, base := 0, clkMhz := 100, dummy := 3 } : DirConfig), { run with dir.snapshot := some ({ port := .spi, tag := 0, restore := true, first := 1, num := 1, words := [] } : SnapshotOp), dir.cfg := some ({ enable := true, volatile := false, dual := false, log2cap := 14, ext := false, base := 0, clkMhz := 100, dummy := 3 } : DirConfig) }, by decide +kernel, by decide +kernel, by decide +kernel⟩⟩

/-! ### Hypotheses of kerbStepsAct -/

theorem test_meets_kerbStepsAct_1 :
    (∃ row ∈ valueSteps, ∃ (w : Word) (s : State), (AtStep row.2.1 w s)) ∧
    (∃ (w : Word) (s : State), (AtStep 0 w s)) ∧
    (∃ (r : BitVec 12) (n : Sensors) (w : Word) (s : State), (AtStep 1 w s) ∧ (s.kerb.bypass = none) ∧ (s.peri.adc.busy = none) ∧ (w.toNat % 16 ≠ 8)) ∧
    (∃ (w : Word) (s : State), (AtStep 2 w s)) :=
  ⟨⟨(valueSteps.get ⟨0, by decide⟩), List.get_mem _ _, 0x50000005, { run with kerb.running := true, kerb.inPass := true, kerb.prog := [0x50000005] }, by unfold AtStep; decide +kernel⟩,
  ⟨0, { run with kerb.running := true, kerb.inPass := true, kerb.prog := [0] }, by unfold AtStep; decide +kernel⟩,
  ⟨5, ⟨0, 0⟩, 0x10000005, { run with kerb.running := true, kerb.inPass := true, kerb.prog := [0x10000005] }, by unfold AtStep; decide +kernel, by decide +kernel, by decide +kernel, by decide +kernel⟩,
  ⟨0x20000000, { run with kerb.running := true, kerb.inPass := true, kerb.prog := [0x20000000] }, by unfold AtStep; decide +kernel⟩⟩

theorem test_meets_kerbStepsAct_2 :
    (∃ (w : Word) (s : State), (AtStep 3 w s) ∧ (w.getLsbD 25 = true)) ∧
    (∃ (w : Word) (s : State), (AtStep 3 w s) ∧ (w.getLsbD 25 = false)) ∧
    (∃ (w : Word) (s : State), (AtStep 4 w s)) ∧
    (∃ (w : Word) (s : State), (AtStep 10 w s)) :=
  ⟨⟨0x320000FF, { run with kerb.running := true, kerb.inPass := true, kerb.prog := [0x320000FF] }, by unfold AtStep; decide +kernel, by decide +kernel⟩,
  ⟨0x300000FF, { run with kerb.running := true, kerb.inPass := true, kerb.prog := [0x300000FF] }, by unfold AtStep; decide +kernel, by decide +kernel⟩,
  ⟨0x40000000, { run with kerb.running := true, kerb.inPass := true, kerb.prog := [0x40000000] }, by unfold AtStep; decide +kernel⟩,
  ⟨0xA0000000, { run with kerb.running := true, kerb.inPass := true, kerb.prog := [0xA0000000] }, by unfold AtStep; decide +kernel⟩⟩

theorem test_meets_kerbStepsAct_3 :
    (∃ (w : Word) (s : State), (AtStep 11 w s)) ∧
    (∃ (w : Word) (s : State), (AtStep 12 w s)) ∧
    (∃ (w : Word) (s : State), (AtStep 13 w s) ∧ 
    let rec_ := BitVec.ofNat 32 (s.kerb.step * 2 ^ 24 + (varD w).val * 2 ^ 21 + s.kerb.vars[varD w].toNat)
    
    let ws := if s.kerb.timeDue then [BitVec.ofNat 32 (2 ^ 31 + s.time.nt.toNat / 2 ^ 18 % 2 ^ 30), rec_] else [rec_]
    (s.kerb.log.length + ws.length ≤ 256)) ∧
    (∃ (w : Word) (s : State), (AtStep 13 w s) ∧ 
    let rec_ := BitVec.ofNat 32 (s.kerb.step * 2 ^ 24 + (varD w).val * 2 ^ 21 + s.kerb.vars[varD w].toNat)
    
    let ws := if s.kerb.timeDue then [BitVec.ofNat 32 (2 ^ 31 + s.time.nt.toNat / 2 ^ 18 % 2 ^ 30), rec_] else [rec_]
    (256 < s.kerb.log.length + ws.length)) ∧
    (∃ i ∈ [Instr.kerbEnd, .kerbDin, .kerbDout, .kerbWait, .kerbLoadi, .kerbAdd, .kerbSub, .kerbAbsd, .kerbIir, .kerbJgt, .kerbJle, .kerbJmp,
    .kerbLog, .kerbDecide, .kerbMov], ∃ (s : State), ((s.kerb.running = false ∨ s.kerb.inPass = false ∨ s.isUsable dKERB = false))) :=
  ⟨⟨0xB0000000, { run with kerb.running := true, kerb.inPass := true, kerb.prog := [0xB0000000] }, by unfold AtStep; decide +kernel⟩,
  ⟨0xC0000000, { run with kerb.running := true, kerb.inPass := true, kerb.prog := [0xC0000000] }, by unfold AtStep; decide +kernel⟩,
  ⟨0xD0000000, { run with kerb.running := true, kerb.inPass := true, kerb.prog := [0xD0000000], kerb.log := List.replicate 254 0, kerb.timeDue := true }, by unfold AtStep; decide +kernel, by decide +kernel⟩,
  ⟨0xD0000000, { run with kerb.running := true, kerb.inPass := true, kerb.prog := [0xD0000000], kerb.log := List.replicate 255 0, kerb.timeDue := true }, by unfold AtStep; decide +kernel, by decide +kernel⟩,
  ⟨.kerbEnd, by decide +kernel, run, by decide +kernel⟩⟩

/-! ### Hypotheses of kerbPassesAndDecisionsAct -/

theorem test_meets_kerbPassesAndDecisionsAct_1 :
    (∃ (t : KerbTrigger) (s : State), (s.isUsable dKERB = false)) ∧
    (∃ (t : KerbTrigger) (s : State), ((t = .marker ∨ t = .software ∨ t = .start ∨ t = .held)) ∧ (s.isUsable dKERB = true) ∧ (s.kerb.running = true) ∧ (s.kerb.held = true) ∧ (s.kerb.inPass = false)) ∧
    (∃ (t : KerbTrigger) (s : State), ((t = .marker ∨ t = .software ∨ t = .start ∨ t = .held)) ∧ (s.isUsable dKERB = true) ∧ ((s.kerb.running = false ∨ s.kerb.held = false ∨ s.kerb.inPass = true))) ∧
    (∃ (s : State), (s.isUsable dKERB = true) ∧ (s.kerb.running = true) ∧ (s.kerb.period ≠ 0) ∧ (s.kerb.inPass = false)) :=
  ⟨⟨.start, { run with power.usable := 0x00D#12 }, by decide +kernel⟩,
  ⟨.held, { run with kerb.running := true, kerb.period := 5, kerb.held := true }, by decide +kernel, by decide +kernel, by decide +kernel, by decide +kernel, by decide +kernel⟩,
  ⟨.marker, { run with kerb.running := true, kerb.period := 5, kerb.held := true, kerb.inPass := true }, by decide +kernel, by decide +kernel, by decide +kernel⟩,
  ⟨{ run with kerb.running := true, kerb.period := 5 }, by decide +kernel, by decide +kernel, by decide +kernel, by decide +kernel⟩⟩

theorem test_meets_kerbPassesAndDecisionsAct_2 :
    (∃ (s : State), (s.isUsable dKERB = true) ∧ (s.kerb.running = true) ∧ (s.kerb.period ≠ 0) ∧ (s.kerb.inPass = true) ∧ (s.kerb.held = false)) ∧
    (∃ (s : State), (s.isUsable dKERB = true) ∧ (s.kerb.running = true) ∧ (s.kerb.period ≠ 0) ∧ (s.kerb.inPass = true) ∧ (s.kerb.held = true)) ∧
    (∃ (pin : Fin 8) (up : Bool) (s : State), (s.isUsable dKERB = true) ∧ (s.kerb.running = false)) ∧
    (∃ (w : Word) (s : State), (AtStep 14 w s)) :=
  ⟨⟨{ run with kerb.running := true, kerb.period := 5, kerb.inPass := true }, by decide +kernel, by decide +kernel, by decide +kernel, by decide +kernel, by decide +kernel⟩,
  ⟨{ run with kerb.running := true, kerb.period := 5, kerb.inPass := true, kerb.held := true }, by decide +kernel, by decide +kernel, by decide +kernel, by decide +kernel, by decide +kernel⟩,
  ⟨7, true, run, by decide +kernel, by decide +kernel⟩,
  ⟨0xE0000000, { run with kerb.running := true, kerb.inPass := true, kerb.prog := [0xE0000000] }, by unfold AtStep; decide +kernel⟩⟩

end Sys2Proof.Tests
end

/-! Stop and XMEM off on a KR9680 that has nowhere to keep its link table (R20), and DOMAIN_SET around a handover (R12). -/

namespace Sys2Proof.LinkKeeping
open Sys2Proof.Machine Sys2Proof.Statements

theorem noKeeping_of_no_directory {s : State} (h80 : s.is80 = true) (hdir : dirCfg s = none) (hlinks : s.link.links ≠ []) :
    noKeeping s = true := by
  simp [noKeeping, h80, hdir, hlinks]

/-- The rows of R426 in order: past BUSY and BROWNOUT_HOLD comes R20's. -/
theorem stopEnterDo_noKeeping (c : Cmd) {s : State} (hbusy : stopBusy s = false) (hwarn : s.power.bodWarn = false)
    (hkeep : noKeeping s = true) : stopEnterDo c s = finish c .badState [] s := by
  simp only [stopEnterDo, hbusy, hwarn, hkeep, firstFail, Bool.false_eq_true, if_false, if_true]

theorem domainSetDo_no_handover (c : Cmd) {s : State} (hno : s.upd.hand = none) : domainSetDo c s = domainSetNow c s := by
  simp only [domainSetDo, hno]

/-- A DOMAIN_SET that names XMEM joins those that wait for the end of the handover (R12). -/
theorem domainSetDo_waits {c : Cmd} {w : Word} {h : Handover} {s : State} (hps : c.ps = [w]) (hxmem : bitAt w dXMEM = true)
    (hhand : s.upd.hand = some h) :
    domainSetDo c s = { s with upd.hand := some { h with domainSets := h.domainSets ++ [(c.port, c.tag, w)] } } := by
  have hw : param c.ps 1 = w := by rw [hps]; rfl
  simp only [domainSetDo, hhand, hw, hxmem, Bool.true_or, if_true]

/-- A command that waited alone is done as it came, with no handover in progress. -/
theorem afterHandover_one {c : Cmd} {w : Word} {h : Handover} {s : State} (hhand : s.upd.hand = some h)
    (hwaits : h.domainSets = [(c.port, c.tag, w)]) (hcode : c.code = 0x102) (hps : c.ps = [w]) :
    afterHandover s = domainSetNow c { s with upd.hand := none } := by
  obtain ⟨port, tag, code, ps⟩ := c
  obtain rfl : code = 0x102 := hcode
  obtain rfl : ps = [w] := hps
  simp only [afterHandover, hhand, hwaits, List.foldl_cons, List.foldl_nil]

theorem stopEnter_does {pre : Cmd → State → Prop} {out : Cmd → State → State}
    (h : ∀ c b, pre c b → c.ps.length = 0 ∧ stopEnterDo c b = out c b) : Does 0x101 .stopEnter pre out :=
  Does.plaza (lenOk := lenIs 0) (owner := stopEnterDo) (fun _ _ _ => rfl) fun c b _ hp =>
    ⟨decide_eq_true (h c b hp).1, (h c b hp).2⟩

theorem domainSet_does {pre : Cmd → State → Prop} {out : Cmd → State → State}
    (h : ∀ c b, pre c b → c.ps.length = 1 ∧ domainSetDo c b = out c b) : Does 0x102 .domainSet pre out :=
  Does.plaza (lenOk := lenIs 1) (owner := domainSetDo) (fun _ _ _ => rfl) fun c b _ hp =>
    ⟨decide_eq_true (h c b hp).1, (h c b hp).2⟩

/-- Settles O8: STOP_ENTER meets R20's row of R426; DOMAIN_SET is refused when it is done, at once without a handover and else at
the handover's end, which changes nothing that the refusal looks at. -/
theorem stopNeedsAPlaceForLinks : Obligations.StopNeedsAPlaceForLinks := by
  refine ⟨?stop, ?xmemOff, ?waits, ?handoverEnds⟩
  case stop =>
    refine stopEnter_does fun c b ⟨hlen, h80, hdir, hlinks, hbusy, hwarn⟩ => ⟨hlen, ?_⟩
    exact stopEnterDo_noKeeping c hbusy hwarn (noKeeping_of_no_directory h80 hdir hlinks)
  case xmemOff =>
    refine fun w => domainSet_does fun c b ⟨hps, hoff, hon, h80, hdir, hlinks, hno⟩ => ⟨by rw [hps]; rfl, ?_⟩
    rw [domainSetDo_no_handover c hno]
    exact domainSetNow_busy c b w hps hoff hon h80 hdir hlinks
  case waits =>
    exact fun h w => domainSet_does fun c b ⟨hps, hxmem, hhand⟩ => ⟨by rw [hps]; rfl, domainSetDo_waits hps hxmem hhand⟩
  case handoverEnds =>
    intro h w s c hhand hwaits hcode hps hoff hon h80 hdir hlinks
    rw [afterHandover_one hhand hwaits hcode hps]
    exact domainSetNow_busy c { s with upd.hand := none } w hps hoff hon h80 hdir hlinks

end Sys2Proof.LinkKeeping

/-! A tick's sum on NT with its sub-unit accumulator (R27, R28), and where a capture unit places an event (R49, R52). -/

namespace Sys2Proof.NetworkTime
open Sys2Proof.Machine

/-! ### The tick (R27, R28) -/

/-- What a tick adds to NT, in units of 2^-64 of a fraction unit (R27). -/
def ntStep (t : TimeState) : Nat := if t.onLf then lfStep t.stepLf else hfStep t.stepHf t.ntAdj

/-- On HFXO NTC_ADJ scales the step, which outside a slew is the register's own value (R28). -/
theorem ntStep_of_hfxo {t : TimeState} (hsrc : t.onLf = false) (hslew : t.slew = none) :
    ntStep t = t.stepHf.toNat * ((2 : Int) ^ 32 + t.adj.toInt).toNat := by
  simp only [ntStep, hsrc, Bool.false_eq_true, if_false, hfStep, TimeState.ntAdj, hslew]

theorem ntStep_of_lfxo {t : TimeState} (hsrc : t.onLf = true) : ntStep t = t.stepLf.toNat * 2 ^ 40 := by
  simp only [ntStep, hsrc, if_true, lfStep]

theorem step_of_pending_nil {s : State} (hidle : s.pending = []) : step s = .next (tick s) := by
  simp only [step, hidle]

/-- The carry out of the accumulator reaches NT: the two together are one 128-bit sum (R27). -/
theorem tick_adds_ntStep (s : State) :
    (tick s).time.nt ++ (tick s).time.ntSub = (s.time.nt ++ s.time.ntSub) + BitVec.ofNat 128 (ntStep s.time) := by
  rw [tick_time]
  exact addStep_eq s.time.nt s.time.ntSub (ntStep s.time)

/-- Settles O9: on an empty queue a step is a tick, which adds the step of the source that NT runs on. -/
theorem tickAdvancesNetworkTime : Obligations.TickAdvancesNetworkTime := by
  refine ⟨?hfxo, ?lfxo, ?resetHf, ?resetLf⟩
  case hfxo =>
    intro s hidle hsrc hslew
    refine ⟨tick s, step_of_pending_nil hidle, ?_⟩
    rw [tick_adds_ntStep, ntStep_of_hfxo hsrc hslew]
  case lfxo =>
    intro s hidle hsrc
    refine ⟨tick s, step_of_pending_nil hidle, ?_⟩
    rw [tick_adds_ntStep, ntStep_of_lfxo hsrc]
  case resetHf => rfl
  case resetLf => rfl

/-! ### Capture units (R49, R52) -/

/-- R49's first case: the readable value is consumed and not frozen. -/
theorem place_of_readable {c : CaptureUnit} (v : DWord) (hmove : c.moveDue = false) (hnew : c.new = false)
    (hfrozen : c.frozen = false) : c.place v = { c with value := v, new := true } := by
  rw [place_eq v c hmove, if_pos ⟨hnew, hfrozen⟩]

/-- A value that is new or frozen is not overwritten (R49). -/
theorem not_readable {c : CaptureUnit} (hheld : c.new = true ∨ c.frozen = true) : ¬(c.new = false ∧ c.frozen = false) := by
  rintro ⟨hnew, hfrozen⟩
  simp [hnew, hfrozen] at hheld

/-- R49's second case: the readable value stands, and the pending slot is empty. -/
theorem place_of_slot_empty {c : CaptureUnit} (v : DWord) (hmove : c.moveDue = false)
    (hheld : c.new = true ∨ c.frozen = true) (hslot : c.slot = none) : c.place v = { c with slot := some v } := by
  rw [place_eq v c hmove, if_neg (not_readable hheld), if_pos hslot]

/-- R49's third case: both are taken. -/
theorem place_of_full {c : CaptureUnit} (v : DWord) {w : DWord} (hmove : c.moveDue = false)
    (hheld : c.new = true ∨ c.frozen = true) (hslot : c.slot = some w) :
    c.place v = { c with ovr := true, lost := satInc16 c.lost } := by
  rw [place_eq v c hmove, if_neg (not_readable hheld), if_neg (by rw [hslot]; exact Option.some_ne_none w)]

theorem captureAt_caps_same (u : Fin 4) (v : DWord) (s : State) :
    (captureAt u v s).cmps.caps[u] = s.cmps.caps[u].place v :=
  Vector.getElem_set_self u.isLt

theorem exec_swtrig (u : Fin 4) (s : State) : exec (.swtrig u) s = .next (if pageOpen s 0 then swtrig u s else s) := rfl

theorem exec_capture (k : Fin 3) (s : State) : exec (.capture k) s = .next (captureEvent k s) := rfl

/-- SWTRIG of an enabled unit captures NT; PPS_CONFIG enables CP0 (R52, R59). -/
theorem exec_swtrig_of_enabled {u : Fin 4} {s : State} (hopen : pageOpen s 0 = true)
    (hen : (if u = 0 then s.time.enable else bitAt s.cmps.caps[u].ctrl 0) = true) :
    exec (.swtrig u) s = .next (captureAt u s.time.nt s) := by
  have hswtrig : swtrig u s = captureNow u s := by
    simp only [Fin.ext_iff] at hen
    exact if_pos hen
  rw [exec_swtrig, if_pos hopen, hswtrig, captureNow]

/-- The hardware source of CP1 to CP3 captures NT where CTRL enables the unit and SRC is not reserved (R52). -/
theorem exec_capture_of_selected {k : Fin 3} {s : State} (hen : bitAt s.cmps.caps[k.val + 1].ctrl 0 = true)
    (hlo : 1 ≤ fld s.cmps.caps[k.val + 1].ctrl 4 2) (hhi : fld s.cmps.caps[k.val + 1].ctrl 4 2 ≤ 4) :
    exec (.capture k) s = .next (captureAt ⟨k.val + 1, by omega⟩ s.time.nt s) := by
  have hselected : captureEvent k s = captureNow ⟨k.val + 1, by omega⟩ s :=
    if_pos (by simp [hen, hlo, hhi])
  rw [exec_capture, hselected, captureNow]

/-- Settles O10: an event is placed by R49's three cases, and both kinds of trigger place NT. -/
theorem captureUnitsKeepTheOldest : Obligations.CaptureUnitsKeepTheOldest := by
  refine ⟨?placed, ?software, ?hardware⟩
  case placed =>
    intro u v s hmove c t
    have hplaced : t.cmps.caps[u] = c.place v := captureAt_caps_same u v s
    rw [hplaced]
    refine ⟨?readable, ?slotEmpty, ?full⟩
    case readable =>
      intro hnew hfrozen
      rw [place_of_readable v hmove hnew hfrozen]
      exact ⟨rfl, rfl, rfl, rfl⟩
    case slotEmpty =>
      intro hheld hslot
      rw [place_of_slot_empty v hmove hheld hslot]
      exact ⟨rfl, rfl, rfl⟩
    case full =>
      intro w hheld hslot
      rw [place_of_full v hmove hheld hslot]
      exact ⟨rfl, hslot, rfl, rfl⟩
  case software => exact fun _ _ hopen hen => exec_swtrig_of_enabled hopen hen
  case hardware => exact fun _ _ hen hlo hhi => exec_capture_of_selected hen hlo hhi

end Sys2Proof.NetworkTime

/-! PROTECT_SET's checks in their order, and the one region that an accepted write replaces (R404, R405, R412). -/

namespace Sys2Proof.ProtectionRegions
open Sys2Proof.Machine Sys2Proof.Statements

/-- A reserved bit is set, FIRST lies above LAST, or LAST lies in the common region (R8, R404, R412). -/
def RegionMalformed (c : Cmd) (s : State) : Prop :=
  64 ≤ (param c.ps 1).toNat ∨ onlyBits (param c.ps 2) 0x01FF01FF#32 = false ∨
  fld (param c.ps 2) 24 16 < fld (param c.ps 2) 8 0 ∨ 2 * s.bankSectors ≤ fld (param c.ps 2) 24 16

/-- A password applies and this command's port is not unlocked (R405). -/
def PasswordLocks (c : Cmd) (s : State) : Prop := passwordSet s = true ∧ s.flash.unlocked[portIdx c.port] = false

/-- The region that the two parameter words describe (R412). -/
def regionOf (c : Cmd) : ProtRegion :=
  { first := BitVec.ofNat 9 (fld (param c.ps 2) 8 0), last := BitVec.ofNat 9 (fld (param c.ps 2) 24 16)
    en := bitAt (param c.ps 1) 3, wp := bitAt (param c.ps 1) 4, rp := bitAt (param c.ps 1) 5 }

/-- The state with the region that word 1 names replaced. -/
def withRegion (c : Cmd) (s : State) : State :=
  { s with flash.prot := s.flash.prot.set (Fin.ofNat 8 (fld (param c.ps 1) 2 0)) (regionOf c) }

/-! ### The checks -/

/-- Word 1's reserved bits are those from bit 6 on. -/
theorem onlyBits_3F_iff (w : Word) : onlyBits w 0x3F#32 = true ↔ w.toNat < 64 :=
  ⟨small_of_onlyBits64, fun hsmall => small_only (n := 6) hsmall (by decide)⟩

/-- The first check of PROTECT_SET is R412's own condition for BAD_PARAM. -/
theorem regionMalformed_iff (c : Cmd) (s : State) :
    (!onlyBits (param c.ps 1) 0x3F#32 || !onlyBits (param c.ps 2) 0x01FF01FF#32 ||
      decide (fld (param c.ps 2) 24 16 < fld (param c.ps 2) 8 0) || decide (2 * s.bankSectors ≤ fld (param c.ps 2) 24 16)) = true ↔
    RegionMalformed c s := by
  have hword1 : onlyBits (param c.ps 1) 0x3F#32 = false ↔ 64 ≤ (param c.ps 1).toNat := by
    rw [← Bool.not_eq_true, onlyBits_3F_iff, Nat.not_lt]
  simp only [Bool.or_eq_true, Bool.not_eq_true', decide_eq_true_eq, hword1, RegionMalformed, or_assoc]

theorem passwordLocks_iff (c : Cmd) (s : State) :
    (passwordSet s && !s.flash.unlocked[portIdx c.port]) = true ↔ PasswordLocks c s := by
  simp only [Bool.and_eq_true, Bool.not_eq_true', PasswordLocks]

theorem not_regionMalformed {c : Cmd} {s : State} (hword1 : (param c.ps 1).toNat < 64)
    (hword2 : onlyBits (param c.ps 2) 0x01FF01FF#32 = true) (horder : fld (param c.ps 2) 8 0 ≤ fld (param c.ps 2) 24 16)
    (hlast : fld (param c.ps 2) 24 16 < 2 * s.bankSectors) : ¬ RegionMalformed c s := by
  rintro (h | h | h | h)
  · omega
  · rw [hword2] at h; contradiction
  · omega
  · omega

theorem not_passwordLocks {c : Cmd} {s : State} (hfree : passwordSet s = true → s.flash.unlocked[portIdx c.port] = true) :
    ¬ PasswordLocks c s := by
  rintro ⟨hset, hlocked⟩
  rw [hfree hset] at hlocked
  contradiction

/-! ### What PROTECT_SET answers -/

theorem protectSetRun_malformed {c : Cmd} {s : State} (hbad : RegionMalformed c s) : protectSetRun c s = .error .badParam := by
  simp only [protectSetRun, firstFail, (regionMalformed_iff c s).mpr hbad, if_true]

theorem protectSetRun_locked {c : Cmd} {s : State} (hgood : ¬ RegionMalformed c s) (hlocked : PasswordLocks c s) :
    protectSetRun c s = .error .denied := by
  simp only [protectSetRun, firstFail, mt (regionMalformed_iff c s).mp hgood, (passwordLocks_iff c s).mpr hlocked,
    Bool.false_eq_true, if_false, if_true]

theorem protectSetRun_accepted {c : Cmd} {s : State} (hgood : ¬ RegionMalformed c s) (hfree : ¬ PasswordLocks c s)
    (hwarn : s.power.bodWarn = false) : protectSetRun c s = .ok ([], withRegion c s) := by
  simp only [protectSetRun, firstFail, mt (regionMalformed_iff c s).mp hgood, mt (passwordLocks_iff c s).mp hfree, hwarn,
    Bool.false_eq_true, if_false]
  rfl

theorem immediate_error {f : Cmd → State → Except Status (List Word × State)} {c : Cmd} {s : State} {st : Status}
    (h : f c s = .error st) : immediate f c s = finish c st [] s := by
  rw [immediate, h]

/-- A packet of two words is judged by protectSetRun alone. -/
theorem protectSet_does {pre : Cmd → State → Prop} {out : Cmd → State → State}
    (h : ∀ c b, pre c b → c.ps.length = 2 ∧ immediate protectSetRun c b = out c b) : Does 0x805 .protectSet pre out :=
  Does.plaza (lenOk := lenIs 2) (owner := immediate protectSetRun) (fun _ _ _ => rfl) fun c b _ hp =>
    ⟨decide_eq_true (h c b hp).1, (h c b hp).2⟩

/-- Settles O12: BAD_PARAM comes before DENIED, and past both (and with no brownout warning, R400) one region is written. -/
theorem protectSetGuardsRegions : Obligations.ProtectSetGuardsRegions := by
  refine ⟨?accepted, ?malformed, ?locked⟩
  case accepted =>
    refine protectSet_does fun c b ⟨hlen, hword1, hword2, horder, hlast, hfree, hwarn⟩ => ⟨hlen, ?_⟩
    exact immediate_ok (protectSetRun_accepted (not_regionMalformed hword1 hword2 horder hlast) (not_passwordLocks hfree) hwarn)
  case malformed =>
    exact protectSet_does fun c b ⟨hlen, hbad⟩ => ⟨hlen, immediate_error (protectSetRun_malformed hbad)⟩
  case locked =>
    refine protectSet_does fun c b ⟨hlen, hword1, hword2, horder, hlast, hset, hlocked⟩ => ⟨hlen, ?_⟩
    exact immediate_error (protectSetRun_locked (not_regionMalformed hword1 hword2 horder hlast) ⟨hset, hlocked⟩)

end Sys2Proof.ProtectionRegions

/-! SETTINGS_READ's three readings of KEY: a reserved bit set, a device item, a customer record (R474). It reads only. -/

namespace Sys2Proof.SettingsRecords
open Sys2Proof.Machine Sys2Proof.Statements
open Sys2Proof.ProtectionRegions (immediate_error)

/-- KEY is all of word 1 that is not reserved (R474). -/
theorem onlyBits_FFFF_iff (w : Word) : onlyBits w 0xFFFF#32 = true ↔ w.toNat < 65536 := by
  constructor
  · intro honly
    refine Nat.lt_pow_two_of_testBit (n := 16) w.toNat fun i hi => bit_of_only honly i ?_
    have hmask : 0xFFFF < 2 ^ i := lt_of_lt_of_le (by decide) (Nat.pow_le_pow_right Nat.two_pos hi)
    exact Nat.testBit_lt_two_pow hmask
  · exact fun hsmall => small_only (n := 16) hsmall (by decide)

/-- With no reserved bit set, KEY is word 1 itself. -/
theorem key_eq {w : Word} (hkey : w.toNat < 65536) : fld w 15 0 = w.toNat := fld_small (n := 16) hkey 15 rfl

/-! ### What SETTINGS_READ answers -/

theorem settingsReadRun_reserved {c : Cmd} {s : State} (hbad : 65536 ≤ (param c.ps 1).toNat) :
    settingsReadRun c s = .error .badParam := by
  have hreserved : onlyBits (param c.ps 1) 0xFFFF#32 = false := by
    rw [← Bool.not_eq_true, onlyBits_FFFF_iff, Nat.not_lt]
    exact hbad
  simp only [settingsReadRun, hreserved, Bool.not_false, if_true]

/-- A device item answers its format alone: presence, with LEN 0. -/
theorem settingsReadRun_device {c : Cmd} {s : State} (hdevice : (param c.ps 1).toNat < 8) :
    settingsReadRun c s = if (itemBits s.upd.settings).testBit (param c.ps 1).toNat
      then .ok ([(Config.itemFormat (param c.ps 1).toNat).setWidth 32], s) else .error .noEntry := by
  have hkey : (param c.ps 1).toNat < 65536 := by omega
  simp only [settingsReadRun, (onlyBits_FFFF_iff _).mpr hkey, key_eq hkey, hdevice, Bool.not_true, Bool.false_eq_true,
    if_false, if_true]

theorem settingsReadRun_customer_found {c : Cmd} {s : State} {r : BitVec 16 × BitVec 16 × List Byte}
    (hcustomer : 8 ≤ (param c.ps 1).toNat) (hkey : (param c.ps 1).toNat < 65536)
    (hfound : (s.upd.settings.customer.find? fun r => r.1.toNat = (param c.ps 1).toNat) = some r) :
    settingsReadRun c s = .ok (W (r.2.1.toNat + r.2.2.length * 2 ^ 16) :: packLE r.2.2, s) := by
  simp only [settingsReadRun, (onlyBits_FFFF_iff _).mpr hkey, key_eq hkey, Nat.not_lt.mpr hcustomer, hfound, Bool.not_true,
    Bool.false_eq_true, if_false]

theorem settingsReadRun_customer_absent {c : Cmd} {s : State} (hcustomer : 8 ≤ (param c.ps 1).toNat)
    (hkey : (param c.ps 1).toNat < 65536)
    (habsent : (s.upd.settings.customer.find? fun r => r.1.toNat = (param c.ps 1).toNat) = none) :
    settingsReadRun c s = .error .noEntry := by
  simp only [settingsReadRun, (onlyBits_FFFF_iff _).mpr hkey, key_eq hkey, Nat.not_lt.mpr hcustomer, habsent, Bool.not_true,
    Bool.false_eq_true, if_false]

/-- A packet of one word is judged by settingsReadRun alone. -/
theorem settingsRead_does {pre : Cmd → State → Prop} {out : Cmd → State → State}
    (h : ∀ c b, pre c b → c.ps.length = 1 ∧ immediate settingsReadRun c b = out c b) : Does 0x908 .settingsRead pre out :=
  Does.plaza (lenOk := lenIs 1) (owner := immediate settingsReadRun) (fun _ _ _ => rfl) fun c b _ hp =>
    ⟨decide_eq_true (h c b hp).1, (h c b hp).2⟩

/-- Settles O11: a reserved bit is refused first; then keys 0 to 7 are looked up in the item bits and all others among the
customer records, each found or NO_ENTRY. -/
theorem settingsReadReports : Obligations.SettingsReadReports := by
  refine ⟨?deviceHeld, ?deviceAbsent, ?customerFound, ?customerAbsent, ?reserved⟩
  case deviceHeld =>
    refine settingsRead_does fun c b ⟨hlen, hdevice, hheld⟩ => ⟨hlen, immediate_ok ?_⟩
    rw [settingsReadRun_device hdevice, if_pos hheld]
  case deviceAbsent =>
    refine settingsRead_does fun c b ⟨hlen, hdevice, habsent⟩ => ⟨hlen, immediate_error ?_⟩
    rw [settingsReadRun_device hdevice, habsent, if_neg Bool.false_ne_true]
  case customerFound =>
    exact fun r => settingsRead_does fun c b ⟨hlen, hcustomer, hkey, hfound⟩ =>
      ⟨hlen, immediate_ok (settingsReadRun_customer_found hcustomer hkey hfound)⟩
  case customerAbsent =>
    exact settingsRead_does fun c b ⟨hlen, hcustomer, hkey, habsent⟩ =>
      ⟨hlen, immediate_error (settingsReadRun_customer_absent hcustomer hkey habsent)⟩
  case reserved =>
    exact settingsRead_does fun c b ⟨hlen, hbad⟩ => ⟨hlen, immediate_error (settingsReadRun_reserved hbad)⟩

end Sys2Proof.SettingsRecords

/-! What a step keeps, and what every command answers: the front command and the queue's rest, the invariant, OTP bits (O1 to O7). -/

namespace Sys2Proof.StepLaws
open Sys2Proof.Machine Sys2Proof.Statements

/-! ### The step -/

theorem step_of_pending_cons {c : Instr} {rest : List Instr} {s : State} (h : s.pending = c :: rest) :
    step s = exec c { s with pending := rest } := by
  simp only [step, h]

theorem step_of_pending_nil {s : State} (h : s.pending = []) : step s = .next (tick s) := by
  simp only [step, h]

/-- Settles O1: the two branches of a step. -/
theorem stepRunsTheFrontCommand : Obligations.StepRunsTheFrontCommand :=
  ⟨fun _ _ _ => rfl, fun _ h => step_of_pending_nil h⟩

/-- Every step keeps what `Kept` says, but for the command that it takes from the queue's front. -/
theorem step_kept {s t : State} (h : step s = .next t) : Kept { s with pending := s.pending.tail } t := by
  cases hq : s.pending with
  | nil =>
    rw [step_of_pending_nil hq] at h
    have hs : { s with pending := [] } = s := by rw [← hq]
    rw [List.tail_nil, hs]
    exact next_kept h (tick_kept s (Kept.refl s))
  | cons c rest =>
    rw [step_of_pending_cons hq] at h
    exact exec_kept c _ t h

/-- Settles O5: the three parts of the invariant are three of those that every step keeps. -/
theorem everyStepKeepsTheInvariant : Obligations.EveryStepKeepsTheInvariant := by
  intro s t ⟨hmem, hledger, hlanes⟩ hstep
  have hkept := step_kept hstep
  exact ⟨hkept.memory hmem, hkept.ledger hledger, hkept.lanes hlanes⟩

/-- Settles O6: what is left of the queue is its tail. -/
theorem stepTakesOnlyTheFront : Obligations.StepTakesOnlyTheFront := by
  refine ⟨fun c rest s t hq hstep => ?taken, fun s t hq hstep => ?idle⟩
  case taken => rw [(step_kept hstep).pending, hq, List.tail_cons]
  case idle => rw [(step_kept hstep).pending, hq, List.tail_nil]

/-- Settles O7. -/
theorem otpBitsStaySet : Obligations.OtpBitsStaySet :=
  fun _ _ hstep => (step_kept hstep).otp

/-! ### The reset state -/

/-- Settles O3: each value is a default of the state's records. -/
theorem resetStateHoldsItsValues : Obligations.ResetStateHoldsItsValues := by
  refine ⟨rfl, rfl, rfl, rfl, rfl, rfl, rfl, rfl, ?bins, ?marks, ?caps, ?timers, ?ports, rfl, rfl, rfl, rfl, ?slots, rfl, rfl⟩
  case ports =>
    intro p
    cases p <;> exact ⟨rfl, by decide⟩
  all_goals decide

/-- Settles O4: the memories and Lanes are empty, and a ledger of zeros balances. -/
theorem resetMeetsTheInvariant : Obligations.ResetMeetsTheInvariant := by
  refine ⟨⟨rfl, rfl, rfl⟩, ⟨rfl, rfl⟩, ?lanes⟩
  case lanes =>
    unfold LanesOk
    decide +kernel

/-! ### What a command answers -/

/-- A command answers a next state at once, or is a PB32 instruction whose place decides. -/
theorem exec_form (i : Instr) (s : State) :
    (∃ t, exec i s = .next t) ∨ (∃ f, exec i s = pbTransfer f s) ∨ (∃ f, exec i s = pbNoSlot f s) := by
  cases i
  case pbBeq | pbBne | pbBlt | pbBge | pbBltu | pbBgeu | pbJmp | pbCall | pbJr | pbCallr | pbRet | pbReti | pbLoop | pbLoopi =>
    exact .inr (.inl ⟨_, rfl⟩)
  case pbTrap | pbWait | pbBreak => exact .inr (.inr ⟨_, rfl⟩)
  all_goals exact .inl ⟨_, rfl⟩

theorem pbNoSlot_of_no_slot {s : State} (f : State → Ended) (h : s.core.slot = none) : pbNoSlot f s = .next (pbRow f s) := by
  simp only [pbNoSlot, h, Option.isSome_none, Bool.and_false, Bool.false_eq_true, if_false]

theorem pbTransfer_of_no_slot {s : State} (f : State → Ended) (h : s.core.slot = none) (hloop : atLoopEnd s = false) :
    pbTransfer f s = .next (pbRow f s) := by
  simp only [pbTransfer, h, hloop, Option.isSome_none, Bool.and_false, Bool.false_eq_true, if_false]

theorem pbNoSlot_not_refused (f : State → Ended) (s : State) (r : Refusal) : pbNoSlot f s ≠ .refused r := by
  unfold pbNoSlot
  split <;> nofun

theorem pbTransfer_not_refused (f : State → Ended) (s : State) (r : Refusal) : pbTransfer f s ≠ .refused r := by
  unfold pbTransfer
  split
  · nofun
  · split <;> nofun

/-- Settles O2: the rows that a place can stop do go on outside a slot and a loop's end, and none is refused. -/
theorem commandsCompleteOutsideUndefinedPlaces : Obligations.CommandsCompleteOutsideUndefinedPlaces := by
  refine ⟨fun i s hslot hloop => ?completes, fun i s r => ?notRefused⟩
  case completes =>
    obtain hnext | ⟨f, hf⟩ | ⟨f, hf⟩ := exec_form i s
    · exact hnext
    · exact ⟨_, hf.trans (pbTransfer_of_no_slot f hslot (atLoopEnd_false s hslot hloop))⟩
    · exact ⟨_, hf.trans (pbNoSlot_of_no_slot f hslot)⟩
  case notRefused =>
    obtain ⟨t, ht⟩ | ⟨f, hf⟩ | ⟨f, hf⟩ := exec_form i s
    · rw [ht]
      nofun
    · rw [hf]
      exact pbTransfer_not_refused f s r
    · rw [hf]
      exact pbNoSlot_not_refused f s r

end Sys2Proof.StepLaws

/-! The Plaza: the order of a command's checks, refused packets, the transactions of the host ports, the mailbox, and Lanes as queues
(O26 to O32). -/

namespace Sys2Proof.PlazaLaws
open Sys2Proof.Machine Sys2Proof.Statements

/-! ### The checks of R70 -/

/-- A row of the command table meets R70's order of checks. -/
def InOrder (row : Nat × (Packet → Instr) × (List Word → Bool)) : Prop :=
  ∀ p s,
    (plazaOpen p.port s = false ∨ (s.parked = true ∧ inHardware row.1 = false) → exec (row.2.1 p) s = .next s) ∧
    (plazaOpen p.port s = true → (s.parked = true → inHardware row.1 = true) → (waitsForCal row.1 = true → s.radio.cal.full = false) →
      ∀ s1 crc, arrive 0 row.1 p s = some (s1, crc) →
      let allowed := !hostOnly row.1 || s.isHostPort p.port
      let clash := (s.port p.port).tags.contains p.tag
      (crc = false → exec (row.2.1 p) s = .next (refuseCrc p row.1 s1)) ∧
      (crc = true → allowed = false → exec (row.2.1 p) s = .next (refuseUnseen p.port row.1 p.tag .denied false s1)) ∧
      (crc = true → allowed = true → clash = true → exec (row.2.1 p) s = .next (refuseUnseen p.port row.1 p.tag .busy true s1)) ∧
      (crc = true → allowed = true → clash = false → row.2.2 p.params = false →
        exec (row.2.1 p) s = .next (finish (asCmd row.1 p) .badLength [] (markOutstanding p s1))))

theorem inOrder_of_plazaRun {row : Nat × (Packet → Instr) × (List Word → Bool)} {owner : Cmd → State → State}
    (h : ∀ p s, exec (row.2.1 p) s = .next (plazaRun row.1 row.2.2 owner p s)) : InOrder row :=
  fun p s => plaza_order (fun p s _ => h p s) (fun p s hclosed => by rw [h, plazaRun_closed hclosed]) p s

/-- The commands that a full calibration holds back (R111) pass the same checks once it is over. -/
theorem inOrder_of_waiting {row : Nat × (Packet → Instr) × (List Word → Bool)} {owner : Cmd → State → State}
    (h : ∀ p s, exec (row.2.1 p) s = .next (if s.radio.cal.full then s else plazaRun row.1 row.2.2 owner p s))
    (hw : waitsForCal row.1 = true) : InOrder row :=
  fun p s => plaza_order (fun p s hfree => by rw [h, hfree hw, if_neg Bool.false_ne_true])
    (fun p s hclosed => by rw [h, plazaRun_closed hclosed, ite_self]) p s

theorem commandsLow_inOrder : ∀ row ∈ commandsLow, InOrder row := by
  intro row hrow
  fin_cases hrow
  any_goals exact inOrder_of_plazaRun fun _ _ => rfl
  all_goals exact inOrder_of_waiting (fun _ _ => rfl) rfl

theorem commandsModem_inOrder : ∀ row ∈ commandsModem, InOrder row := by
  intro row hrow
  fin_cases hrow
  all_goals exact inOrder_of_plazaRun fun _ _ => rfl

theorem commandsTraffic_inOrder : ∀ row ∈ commandsTraffic, InOrder row := by
  intro row hrow
  fin_cases hrow
  all_goals exact inOrder_of_plazaRun fun _ _ => rfl

theorem commandsStorage_inOrder : ∀ row ∈ commandsStorage, InOrder row := by
  intro row hrow
  fin_cases hrow
  all_goals exact inOrder_of_plazaRun fun _ _ => rfl

/-- Settles O26: every row of the index is run by the Plaza's one procedure. -/
theorem commandChecksInOrder : Obligations.CommandChecksInOrder := by
  intro row hrow
  simp only [commandTable, List.mem_append] at hrow
  obtain ((hlow | hmodem) | htraffic) | hstorage := hrow
  · exact commandsLow_inOrder row hlow
  · exact commandsModem_inOrder row hmodem
  · exact commandsTraffic_inOrder row htraffic
  · exact commandsStorage_inOrder row hstorage

/-! ### Refused packets -/

/-- The opcodes that the Plaza knows are those of the index. -/
theorem opcodes_eq : opcodes = commandTable.map (·.1) := rfl

theorem badOpcode_refused {p : Packet} {cls : BitVec 4} {code : BitVec 12} {s s1 : State} (hopen : plazaOpen p.port s = true)
    (hbad : cls ≠ 0#4 ∨ code.toNat ∉ commandTable.map (·.1)) (harrive : arrive cls.toNat code.toNat p s = some (s1, true)) :
    badOpcode p cls code s = refuseUnseen p.port code.toNat p.tag .badOpcode false s1 := by
  have hunknown : (decide (cls = 0#4) && opcodes.contains code.toNat) = false := by
    rw [opcodes_eq, Bool.and_eq_false_iff, decide_eq_false_iff_not, ← Bool.not_eq_true, List.contains_iff_mem]
    exact hbad
  simp only [badOpcode, hopen, hunknown, harrive, Bool.not_true, Bool.or_self, Bool.false_eq_true, if_false]

theorem badCrc_refused {p : Packet} {code : BitVec 12} {s s1 : State} (hopen : plazaOpen p.port s = true)
    (harrive : arrive 0 code.toNat p s = some (s1, false)) : badCrc p code s = refuseCrc p code.toNat s1 := by
  simp only [badCrc, hopen, harrive, Bool.not_true, Bool.false_eq_true, if_false]

/-- Settles O27. -/
theorem refusedPacketsAnswer : Obligations.RefusedPacketsAnswer :=
  ⟨fun _ _ _ _ _ hopen hbad harrive => congrArg Host.Outcome.next (badOpcode_refused hopen hbad harrive),
   fun _ _ _ _ hopen harrive => congrArg Host.Outcome.next (badCrc_refused hopen harrive)⟩

/-! ### Transactions of the host ports -/

/-- A live port's answer to a write (R86, R88). -/
theorem hostWrite_live {uart : Bool} {ctrl : Word} {data : List Word} {s : State} (hlive : portLive uart s = true)
    (htype : typeOf ctrl = 1) :
    hostWrite uart ctrl data s =
      let q := s.port (extPort uart)
      let replied := s.setPort (extPort uart) { applyResync ctrl (afterStatus ctrl q) with
        out := statusWord q ctrl :: (if uart then [] else data.map fun _ => idleWord) }
      if malformed ctrl then replied else writeWords (extPort uart) q.cmd.free (data.take (wordsOf ctrl)) replied := by
  simp only [hostWrite, htype, hlive, ne_eq, not_true_eq_false, Bool.not_true, Bool.false_eq_true, if_false]

/-- A live port's answer to a poll (R89). -/
theorem hostPoll_live {uart : Bool} {ctrl : Word} {clocked : Nat} {s : State} (hlive : portLive uart s = true)
    (htype : typeOf ctrl = 3) (hgood : malformed ctrl = false) :
    hostPoll uart ctrl clocked s =
      let q := s.port (extPort uart)
      s.setPort (extPort uart) { applyResync ctrl { q with crcErr := false, overrun := false, protoErr := false } with
        out := statusWord q ctrl :: (if uart then pollWords q else (pollWords q ++ List.replicate clocked idleWord).take clocked) } := by
  simp only [hostPoll, htype, hlive, hgood, afterStatus, ne_eq, not_true_eq_false, Bool.not_true, Bool.false_eq_true, if_false]

/-- A live port's answer to a transaction of no operation (R86). -/
theorem hostNop_live {uart : Bool} {ctrl : Word} {clocked : Nat} {s : State} (hlive : portLive uart s = true)
    (htype : typeOf ctrl = 0) :
    hostNop uart ctrl clocked s =
      let q := s.port (extPort uart)
      s.setPort (extPort uart) { applyResync ctrl (afterStatus ctrl q) with
        out := statusWord q ctrl :: (if uart then [] else List.replicate clocked idleWord) } := by
  simp only [hostNop, htype, hlive, ne_eq, not_true_eq_false, Bool.not_true, Bool.false_eq_true, if_false]

/-- A read's malformed control word gets its status word and idle words only (R86). -/
theorem hostRead_malformed {uart : Bool} {ctrl : Word} {clocked : Nat} {s : State} (hlive : portLive uart s = true)
    (htype : typeOf ctrl = 2) (hbad : malformed ctrl = true) :
    hostRead uart ctrl clocked s =
      let q := s.port (extPort uart)
      s.setPort (extPort uart) { applyResync ctrl (afterStatus ctrl q) with
        out := statusWord q ctrl :: (if uart then [] else List.replicate clocked idleWord) } := by
  simp only [hostRead, htype, hlive, hbad, ne_eq, not_true_eq_false, Bool.not_true, Bool.false_eq_true, if_false, if_true]

/-- A well-formed read delivers words of its Lane (R87). -/
theorem hostRead_live {uart : Bool} {ctrl : Word} {clocked : Nat} {s : State} (hlive : portLive uart s = true)
    (htype : typeOf ctrl = 2) (hgood : malformed ctrl = false) {got : List Word} {left : Lane} {ended : Nat}
    (hread : readMany (min (if uart then wordsOf ctrl else min (wordsOf ctrl) clocked) (availFor (s.port (extPort uart)) ctrl))
      (s.port (extPort uart)).lanes[laneIdx ctrl] = (got, left, ended)) :
    hostRead uart ctrl clocked s =
      let q := s.port (extPort uart)
      let q1 := applyResync ctrl (afterStatus ctrl q)
      settleLane (extPort uart) (laneIdx ctrl) (iterate (packetTaken (extPort uart) (laneIdx ctrl)) ended
        (s.setPort (extPort uart) { q1 with
          lanes := q1.lanes.set (laneIdx ctrl) left
          out := statusWord q ctrl :: (got ++ if uart then [] else List.replicate (clocked - got.length) idleWord) })) := by
  simp only [hostRead, htype, hlive, hgood, hread, ne_eq, not_true_eq_false, Bool.not_true, Bool.false_eq_true, if_false]

theorem portLive_onWire {wire : Wire} {uart : Bool} {s : State} (h : portLive uart s = true) : portLive uart (onWire wire s) = true :=
  (onWire_live wire s uart).trans h

theorem onWire_uart {n : Nat} {s : State} (hlive : portLive true s = true) (hn : 0 < n) : onWire (.uart n) s = lineErrors n s := by
  simp only [onWire, hlive, Nat.ne_of_gt hn, decide_false, Bool.not_true, Bool.or_self, Bool.false_eq_true, if_false]

/-- A break in run (R92). -/
theorem uartBreak_live {n : Nat} {s : State} (hawake : s.awake = true) (hvio : s.power.vio = true) :
    uartBreak n s =
      let s0 := if 0 < n ∧ s.plaza.uartBitNs ≠ none then lineErrors 1 s else s
      { s0.setPort .uart (resync (s0.port .uart)) with plaza.uartBitNs := none, plaza.uartRateDue := true } := by
  simp only [uartBreak, hawake, hvio, Bool.not_true, Bool.or_self, Bool.false_eq_true, if_false, Bool.and_eq_true, decide_eq_true_eq,
    Option.isSome_iff_ne_none]

theorem uartBreak_off {n : Nat} {s : State} (hoff : s.awake = false ∨ s.power.vio = false) : uartBreak n s = s := by
  obtain h | h := hoff <;> simp [uartBreak, h]

theorem uartRateByte_due {byte : Byte} {cellsOk : Bool} {bitNs : Nat} {s : State} (hdue : s.plaza.uartRateDue = true) :
    uartRateByte byte cellsOk bitNs s =
      let s1 := { s with plaza.uartRateDue := false }
      if byte = 0x55#8 && cellsOk then { s1 with plaza.uartBitNs := some bitNs } else lineErrors 1 s1 := by
  simp only [uartRateByte, hdue, Bool.not_true, Bool.false_eq_true, if_false]

/-- Settles O28: one equation for each kind of transaction on a live port. -/
theorem hostPortTransactionsAnswer : Obligations.HostPortTransactionsAnswer := by
  refine ⟨?write, ?poll, ?nop, ?framing, ?lineBreak, ?breakOff, ?rate⟩
  case write =>
    exact fun _ _ _ _ hlive htype => congrArg Host.Outcome.next (hostWrite_live (portLive_onWire hlive) htype)
  case poll =>
    exact fun _ _ _ _ hlive htype hgood => congrArg Host.Outcome.next (hostPoll_live (portLive_onWire hlive) htype hgood)
  case nop =>
    exact fun _ _ _ _ hlive htype => congrArg Host.Outcome.next (hostNop_live (portLive_onWire hlive) htype)
  case framing => exact fun _ _ hlive hn => onWire_uart hlive hn
  case lineBreak => exact fun _ _ hawake hvio => congrArg Host.Outcome.next (uartBreak_live hawake hvio)
  case breakOff => exact fun _ _ hoff => congrArg Host.Outcome.next (uartBreak_off hoff)
  case rate => exact fun _ _ _ _ hdue => congrArg Host.Outcome.next (uartRateByte_due hdue)

/-- Settles O30. -/
theorem hostReadTransactionsAnswer : Obligations.HostReadTransactionsAnswer := by
  intro wire ctrl clocked s0 hlive htype
  refine ⟨fun hbad => ?malformed, fun hgood got left ended hread => ?delivered⟩
  case malformed => exact congrArg Host.Outcome.next (hostRead_malformed (portLive_onWire hlive) htype hbad)
  case delivered => exact congrArg Host.Outcome.next (hostRead_live (portLive_onWire hlive) htype hgood hread)

/-! ### The mailbox, the event backlog and the mover -/

theorem exec_mbxCmdWrite {w : Word} {s : State} (hopen : pageOpen s dLINK = true) : exec (.mbxCmdWrite w) s = .next (mbxStore w s) :=
  congrArg Host.Outcome.next (if_pos hopen)

/-- A store to MBX_CMD enters command-in, or holds the bus while that is full (R94). -/
theorem mbxStore_free {w : Word} {s : State} (hhold : s.plaza.mbxHold = none) (hdiscard : (s.port .mbx).cmd.discard = 0) :
    mbxStore w s =
      if (s.port .mbx).cmd.stages.length < 64 then
        s.setPort .mbx { s.port .mbx with cmd := (s.port .mbx).cmd.accept false (plazaRoom .mbx s) w }
      else { s with plaza.mbxHold := some w } := by
  simp only [mbxStore, hhold, hdiscard, Option.isSome_none, Bool.false_eq_true, Nat.lt_irrefl, if_false]

theorem mbxHoldExpiry_held {w : Word} {s : State} (hhold : s.plaza.mbxHold = some w) :
    mbxHoldExpiry s = overrunAt .mbx false w { s with plaza.mbxHold := none, plaza.mbxOverrun := true } := by
  simp only [mbxHoldExpiry, hhold]

theorem exec_mbxLaneRead {i : Fin 5} {s : State} (hopen : pageOpen s dLINK = true) :
    exec (.mbxLaneRead i) s = .next (busOut (mbxLane i s).1 (mbxLane i s).2) := by
  show Host.Outcome.next (pageReadAs dLINK (mbxLane i) s) = _
  simp only [pageReadAs, hopen, if_true]

theorem takeLane_of_empty {l : Lane} (h : l.stages = []) : takeLane l = none := by simp only [takeLane, h]

theorem takeLane_of_cons {l : Lane} {w : Word} {rest : List Word} (h : l.stages = w :: rest) :
    takeLane l =
      let left := if l.cursor = 0 then countOf w else l.cursor - 1
      some (w, { l with stages := rest, cursor := left, out := l.out + 1, complete := if left = 0 then l.complete - 1 else l.complete },
        decide (left = 0)) := by
  simp only [takeLane, h, decide_eq_true_eq]

theorem mbxLane_empty {i : Fin 5} {s : State} (h : ((s.port .mbx).lanes[i]).stages = []) : mbxLane i s = (idleWord, s) := by
  simp only [mbxLane, takeLane_of_empty h]

theorem mbxLane_cons {i : Fin 5} {s : State} {w : Word} {rest : List Word} (h : ((s.port .mbx).lanes[i]).stages = w :: rest) :
    mbxLane i s =
      let q := s.port .mbx
      let l := q.lanes[i]
      let left := if l.cursor = 0 then countOf w else l.cursor - 1
      let taken := s.setPort .mbx { q with lanes := q.lanes.set i { l with
        stages := rest, cursor := left, out := l.out + 1, complete := if left = 0 then l.complete - 1 else l.complete } }
      (w, settleLane .mbx i (if left = 0 then packetTaken .mbx i taken else taken)) := by
  simp only [mbxLane, takeLane_of_cons h, decide_eq_true_eq]

theorem backlogDrain_fits {p : PortId} {pkt : List Word} {rest : List (List Word)} {s : State} (hrun : s.inRun = true)
    (hbacklog : (s.port p).backlog = pkt :: rest) (hwait : ((s.port p).lanes[laneEvt]).waiting = [])
    (hroom : ((s.port p).lanes[laneEvt]).stages.length + pkt.length ≤ 64) :
    backlogDrain p s = placeLost p
      (produce p laneEvt (pkt.map fun w => (w, none)) (s.setPort p { s.port p with backlog := rest })) := by
  simp only [backlogDrain, hbacklog, hrun, hwait, hroom, List.isEmpty_nil, decide_true, Bool.and_self, if_true]

theorem frameStoreMove_next {high : Bool} {f : StoredFrame} {s : State} (hrun : s.inRun = true) (hnext : nextMove high s = some f) :
    frameStoreMove high s = produce f.port (if high then laneRxHigh else laneRxLow) (f.words.map fun w => (w, none))
      { s with rx.store := s.rx.store.replace f { f with moved := true } } := by
  simp only [frameStoreMove, hrun, hnext, Bool.not_true, Bool.false_eq_true, if_false]

/-- Settles O29. -/
theorem mailboxAndMoverAct : Obligations.MailboxAndMoverAct := by
  refine ⟨?store, ?holdEnds, ?readEmpty, ?readWord, ?drain, ?move⟩
  case store =>
    exact fun _ _ hopen hhold hdiscard => (exec_mbxCmdWrite hopen).trans (congrArg Host.Outcome.next (mbxStore_free hhold hdiscard))
  case holdEnds => exact fun _ _ hhold => congrArg Host.Outcome.next (mbxHoldExpiry_held hhold)
  case readEmpty =>
    intro i s hopen hempty
    rw [exec_mbxLaneRead hopen, mbxLane_empty hempty]
    rfl
  case readWord =>
    intro i w rest s hopen hword
    rw [exec_mbxLaneRead hopen, mbxLane_cons hword]
  case drain =>
    exact fun _ _ _ _ hrun hbacklog hwait hroom => congrArg Host.Outcome.next (backlogDrain_fits hrun hbacklog hwait hroom)
  case move => exact fun _ _ _ hrun hnext => congrArg Host.Outcome.next (frameStoreMove_next hrun hnext)

/-! ### Lanes as queues -/

/-- The port with the words that a producer leaves waiting at a Lane (R77). -/
theorem produce_eq_settle (p : PortId) (i : Fin 5) (ws : List (Word × Option (BitVec 6))) (s : State) :
    produce p i ws s = settleLane p i (s.setPort p { s.port p with
      lanes := (s.port p).lanes.set i { (s.port p).lanes[i] with waiting := (s.port p).lanes[i].waiting ++ ws } }) := rfl

theorem setPort_port_same (s : State) (p : PortId) (q : Port) : (s.setPort p q).port p = q := by
  simp [State.setPort, State.port]

/-- A settled Lane is the one that its stalled words fill, whatever else the settling lets begin. -/
theorem settleLane_lane (p : PortId) (i : Fin 5) (s : State) :
    ((settleLane p i s).port p).lanes[i] = (fillLane (s.port p).lanes[i].waiting (s.port p).lanes[i]).1 := by
  unfold settleLane
  extract_lets q before r s1 plaza s2 s3
  have h1 : (s1.port p).lanes[i] = r.1 := by
    simp only [s1, setPort_port_same, Fin.getElem_fin, Vector.getElem_set_self]
  have h2 : (s2.port p).lanes = (s1.port p).lanes := by
    simp only [s2]
    split <;> rfl
  have h3 : (s3.port p).lanes = (s2.port p).lanes := by
    simp only [s3]
    split
    · exact stampReset_lanes p r.1 s2 p
    · rfl
  have hall : ((if r.2.1.isEmpty = true then s3 else beginPorts s3).port p).lanes = (s3.port p).lanes := by
    split
    · rfl
    · exact beginPorts_lanes s3 p
  simp only [hall, h3, h2, h1, r, q]

/-- Settles O32: a Lane's own words, stalled and staged, stay in order as `fillLane` moves them. -/
theorem lanesAreFifos : Obligations.LanesAreFifos := by
  intro p i ws s hstages l m
  have hm : m = (fillLane (l.waiting ++ ws) { l with waiting := l.waiting ++ ws }).1 := by
    refine (congrArg (fun t : State => (t.port p).lanes[i]) (produce_eq_settle p i ws s)).trans ((settleLane_lane p i _).trans ?_)
    simp only [l, setPort_port_same, Fin.getElem_fin, Vector.getElem_set_self]
  obtain ⟨horder, hlength⟩ := fillLane_fifo (l.waiting ++ ws) { l with waiting := l.waiting ++ ws } hstages
  rw [hm, horder, hlength, List.map_append, List.length_append]
  exact ⟨(List.append_assoc _ _ _).symm, by rw [Nat.add_assoc]⟩

/-- The first word of a packet leaves the Lane, and COUNT words are still to come (R75, R87). -/
theorem readOne_first {l : Lane} {w v : Word} {ps : List Word} {rest : List Word} (hcursor : l.cursor = 0) (hcrc : l.crcDue = none)
    (htaken : l.taken = []) (hstages : l.stages = w :: v :: ps ++ rest) (hcount : ps.length + 1 = countOf w) :
    readOne l = some (w, { l with stages := v :: ps ++ rest, cursor := ps.length + 1, out := l.out + 1, taken := [w] }, false) := by
  have hmore : ps.length + 1 ≠ 0 := Nat.succ_ne_zero _
  simp only [readOne, hcrc, takeLane, hstages, List.cons_append, hcursor, if_true, ← hcount, hmore, decide_false, Bool.false_eq_true,
    if_false, htaken, List.nil_append]

/-- A packet of one word: its CRC word falls due with it. -/
theorem readMany_single {l : Lane} {w : Word} {rest : List Word} (hcursor : l.cursor = 0) (hcrc : l.crcDue = none)
    (htaken : l.taken = []) (hstages : l.stages = w :: rest) (hcount : countOf w = 0) :
    readMany 2 l = ([w, crcOfWords [w]], { l with stages := rest, complete := l.complete - 1, out := l.out + 1 }, 1) := by
  simp [readMany, readOne, hcrc, takeLane, hstages, hcursor, hcount, htaken, b2n]

/-- Settles O31: a read of a packet word by word, from its first one on. -/
theorem wholePacketIsDelivered : Obligations.WholePacketIsDelivered := by
  intro l w ps rest hcursor hcrc htaken hstages hcount
  cases ps with
  | nil => exact readMany_single hcursor hcrc htaken hstages hcount.symm
  | cons v ps =>
    have hrest := readMany_packet (ps.length + 1) ps rest [w]
      { l with stages := v :: ps ++ rest, cursor := ps.length + 1, out := l.out + 1, taken := [w] } rfl rfl v hcrc rfl rfl
    rw [List.length_cons, readMany, readOne_first hcursor hcrc htaken hstages hcount]
    simp only [hrest, b2n, hcursor, htaken]
    simp
    omega

end Sys2Proof.PlazaLaws

/-! PB32: arithmetic, loads and stores, where execution goes on, exceptions, and the places that stop it (O35 to O42). -/

namespace Sys2Proof.CoreLaws
open Sys2Proof.Machine Sys2Proof.Statements

/-! ### Arithmetic, logic, immediates (R345) -/

/-- An instruction of two register sources computes f. -/
def Computes2 (i : BitVec 5 → BitVec 5 → BitVec 5 → Instr) (f : Word → Word → Word) : Prop :=
  ∀ rd ra rb s b, Executes s b → settledIn b rd → settledIn b ra → settledIn b rb →
    exec (i rd ra rb) s = .next (advance (putReg rd (f (valueOf ra b) (valueOf rb b)) b))

/-- An instruction of one register source and an operand of its own computes f. -/
def Computes1 {α : Type} (i : BitVec 5 → BitVec 5 → α → Instr) (f : Word → α → Word) : Prop :=
  ∀ rd ra x s b, Executes s b → settledIn b rd → settledIn b ra →
    exec (i rd ra x) s = .next (advance (putReg rd (f (valueOf ra b) x) b))

theorem computes2_of_alu2 {i : BitVec 5 → BitVec 5 → BitVec 5 → Instr} {op f : Word → Word → Word}
    (hexec : ∀ rd ra rb s, exec (i rd ra rb) s = pb (alu2 op rd ra rb) s) (hop : ∀ a b, op a b = f a b) : Computes2 i f := by
  intro rd ra rb s b hrun hrd hra hrb
  rw [hexec, alu2_ok hrun hrd hra hrb, hop]

theorem computes1_of_alu1 {α : Type} {i : BitVec 5 → BitVec 5 → α → Instr} {op f : Word → α → Word}
    (hexec : ∀ rd ra x s, exec (i rd ra x) s = pb (alu1 (fun a => op a x) rd ra) s) (hop : ∀ a x, op a x = f a x) :
    Computes1 i f := by
  intro rd ra x s b hrun hrd hra
  rw [hexec, alu1_ok hrun hrd hra, hop]

/-- A signed or unsigned comparison chooses as its truth value does. -/
theorem choose_slt (a b x y : Word) : (if a.slt b then x else y) = if a.toInt < b.toInt then x else y := by
  simp only [BitVec.slt, decide_eq_true_eq]

theorem choose_ult (a b x y : Word) : (if a.ult b then x else y) = if a.toNat < b.toNat then x else y := by
  simp only [BitVec.ult, decide_eq_true_eq]

theorem threeOperand_compute : ∀ row ∈ threeOperand, Computes2 row.1 row.2 := by
  intro row hrow
  simp only [threeOperand, List.mem_cons, List.not_mem_nil, or_false] at hrow
  obtain rfl | rfl | rfl | rfl | rfl | rfl | rfl | rfl | rfl | rfl | rfl | rfl | rfl | rfl | rfl := hrow
  any_goals exact computes2_of_alu2 (fun _ _ _ _ => rfl) fun _ _ => rfl
  · exact computes2_of_alu2 (fun _ _ _ _ => rfl) slt_truth
  · exact computes2_of_alu2 (fun _ _ _ _ => rfl) ult_truth
  · exact computes2_of_alu2 (fun _ _ _ _ => rfl) fun a b => by rw [shiftCount_mod, shiftLeft_mul]
  · exact computes2_of_alu2 (fun _ _ _ _ => rfl) fun a b => by rw [shiftCount_mod, shiftRight_div]
  · exact computes2_of_alu2 (fun _ _ _ _ => rfl) fun a b => by rw [shiftCount_mod, sshiftRight_div]
  · exact computes2_of_alu2 (fun _ _ _ _ => rfl) fun a b => choose_slt a b a b
  · exact computes2_of_alu2 (fun _ _ _ _ => rfl) fun a b => choose_slt a b b a
  · exact computes2_of_alu2 (fun _ _ _ _ => rfl) fun a b => choose_ult a b a b
  · exact computes2_of_alu2 (fun _ _ _ _ => rfl) fun a b => choose_ult a b b a

theorem shiftsByCount_compute :
    ∀ row ∈ shiftsByCount, Computes1 row.1 (fun a (sh : BitVec 5) => row.2 a sh.toNat) := by
  intro row hrow
  simp only [shiftsByCount, List.mem_cons, List.not_mem_nil, or_false] at hrow
  obtain rfl | rfl | rfl := hrow
  · exact computes1_of_alu1 (fun _ _ _ _ => rfl) fun a sh => shiftLeft_mul a sh.toNat
  · exact computes1_of_alu1 (fun _ _ _ _ => rfl) fun a sh => shiftRight_div a sh.toNat
  · exact computes1_of_alu1 (fun _ _ _ _ => rfl) fun a sh => sshiftRight_div a sh.toNat

theorem add_sext (a : Word) (imm : BitVec 16) : a + sext imm = BitVec.ofInt 32 (a.toInt + imm.toInt) := by
  rw [BitVec.ofInt_add, BitVec.ofInt_toInt]
  rfl

theorem slt_sext (a : Word) (imm : BitVec 16) : ofBool (a.slt (sext imm)) = truth (a.toInt < imm.toInt) := by
  rw [← BitVec.toInt_signExtend_of_le (show 16 ≤ 32 by decide)]
  exact slt_truth a (sext imm)

theorem zext_toNat (imm : BitVec 16) : (zext imm).toNat = imm.toNat := by
  simp only [zext, BitVec.toNat_setWidth]
  omega

theorem and_zext (a : Word) (imm : BitVec 16) : a &&& zext imm = BitVec.ofNat 32 (a.toNat &&& imm.toNat) := by
  rw [← zext_toNat, ← BitVec.toNat_and, BitVec.ofNat_toNat, BitVec.setWidth_eq]

theorem or_zext (a : Word) (imm : BitVec 16) : a ||| zext imm = BitVec.ofNat 32 (a.toNat ||| imm.toNat) := by
  rw [← zext_toNat, ← BitVec.toNat_or, BitVec.ofNat_toNat, BitVec.setWidth_eq]

theorem xor_zext (a : Word) (imm : BitVec 16) : a ^^^ zext imm = BitVec.ofNat 32 (a.toNat ^^^ imm.toNat) := by
  rw [← zext_toNat, ← BitVec.toNat_xor, BitVec.ofNat_toNat, BitVec.setWidth_eq]

theorem immediates_compute : ∀ row ∈ immediates, Computes1 row.1 row.2 := by
  intro row hrow
  simp only [immediates, List.mem_cons, List.not_mem_nil, or_false] at hrow
  obtain rfl | rfl | rfl | rfl | rfl | rfl := hrow
  · exact computes1_of_alu1 (fun _ _ _ _ => rfl) add_sext
  · exact computes1_of_alu1 (fun _ _ _ _ => rfl) and_zext
  · exact computes1_of_alu1 (fun _ _ _ _ => rfl) or_zext
  · exact computes1_of_alu1 (fun _ _ _ _ => rfl) xor_zext
  · exact computes1_of_alu1 (fun _ _ _ _ => rfl) slt_sext
  · exact computes1_of_alu1 (fun _ _ _ _ => rfl) fun a imm => ult_truth a (sext imm)

theorem exec_pbLui_zero {rd : BitVec 5} {imm : BitVec 16} {s b : State} (hrun : Executes s b) (hrd : settledIn b rd) :
    exec (.pbLui rd 0#5 imm) s = .next (advance (putReg rd (BitVec.ofNat 32 (imm.toNat * 2 ^ 16)) b)) := by
  show Host.Outcome.next (pbRow _ s) = _
  rw [pbRow_runs hrun, if_pos rfl, wr_ok _ hrd, shiftLeft_mul, zext_toNat]
  rfl

theorem exec_pbLui_illegal {rd ra : BitVec 5} {imm : BitVec 16} {s b : State} (hrun : Executes s b) (hra : ra ≠ 0#5) :
    exec (.pbLui rd ra imm) s = .next (takeExc { vector := 1 } b) := by
  show Host.Outcome.next (pbRow _ s) = _
  rw [pbRow_runs hrun, if_neg hra]
  rfl

/-! ### Multiplies (R345, R348) -/

theorem mul2_ok {op : Word → Word → Word → Word} {acc : Bool} {rd ra rb : BitVec 5} {s b : State} (hrun : Executes s b)
    (hrd : settledIn b rd) (hra : settledIn b ra) (hrb : settledIn b rb) :
    pb (mul2 op acc rd ra rb) s = .next (advance (usableAt 3 rd
      (putReg rd (op (if acc then valueOf rd b else 0#32) (valueOf ra b) (valueOf rb b)) b))) := by
  have hacc : (if acc then rg rd b else (0#32, b)) = (if acc then valueOf rd b else 0#32, b) := by
    rw [rg_ok hrd]
    cases acc <;> rfl
  simp only [pb, pbRow_runs hrun, mul2, rg_ok hra, rg_ok hrb, hacc, wr_ok _ hrd]
  rfl

/-- Settles O35: each row of the tables names the model's operation and the manual's value of it. -/
theorem coreArithmeticComputes : Obligations.CoreArithmeticComputes := by
  refine ⟨⟨threeOperand_compute, shiftsByCount_compute, immediates_compute, ?extensions, ?lui, ?luiIllegal⟩, ?multiplies⟩
  case extensions =>
    intro rd ra s b hrun hrd hra
    refine ⟨alu1_ok hrun hrd hra, alu1_ok hrun hrd hra, ?_⟩
    obtain ⟨n, hn, hrange⟩ := clz_spec (valueOf ra b)
    exact ⟨n, by rw [← hn]; exact alu1_ok hrun hrd hra, hrange⟩
  case lui => exact fun _ _ _ _ hrun hrd => exec_pbLui_zero hrun hrd
  case luiIllegal => exact fun _ _ _ _ _ hrun hra => exec_pbLui_illegal hrun hra
  case multiplies =>
    intro row hrow rd ra rb s b hrun hrd hra hrb
    have hmul (op) (acc) := mul2_ok (op := op) (acc := acc) hrun hrd hra hrb
    simp only [multiplies, List.mem_cons, List.not_mem_nil, or_false] at hrow
    obtain rfl | rfl | rfl | rfl | rfl := hrow
    case inl => exact (hmul (fun _ a b => a * b) false).trans (by simp only [BitVec.ofNat_mul, BitVec.ofNat_toNat, BitVec.setWidth_eq])
    all_goals exact hmul _ _

/-! ### Loads and stores -/

/-- Settles O36: a row of the tables is `load` or `store` of its width. -/
theorem coreLoadsAndStoresAct : Obligations.CoreLoadsAndStoresAct := by
  refine ⟨?loads, ?stores⟩
  case loads =>
    intro row hrow rd ra imm s b hrun hra
    simp only [loads, List.mem_cons, List.not_mem_nil, or_false] at hrow
    obtain rfl | rfl | rfl | rfl | rfl := hrow
    all_goals exact load_ok hrun hra
  case stores =>
    intro row hrow rs ra imm s b hrun hra hrs
    simp only [stores, List.mem_cons, List.not_mem_nil, or_false] at hrow
    obtain rfl | rfl | rfl := hrow
    all_goals exact store_ok hrun hra hrs

/-! ### Transfers -/

/-- The condition of a branch row is the comparison that the model makes. -/
theorem branches_condition : ∀ row ∈ branches, ∃ cond : Word → Word → Bool,
    (∀ ra rb off s, exec (row.1 ra rb off) s = pbTransfer (branch cond ra rb off) s) ∧ cond = row.2 := by
  intro row hrow
  simp only [branches, List.mem_cons, List.not_mem_nil, or_false] at hrow
  obtain rfl | rfl | rfl | rfl | rfl | rfl := hrow
  · exact ⟨_, fun _ _ _ _ => rfl, rfl⟩
  · exact ⟨_, fun _ _ _ _ => rfl, by funext a b; by_cases h : a = b <;> simp [h]⟩
  · exact ⟨_, fun _ _ _ _ => rfl, rfl⟩
  · exact ⟨_, fun _ _ _ _ => rfl, by funext a b; simp [BitVec.slt, ← decide_not]⟩
  · exact ⟨_, fun _ _ _ _ => rfl, rfl⟩
  · exact ⟨_, fun _ _ _ _ => rfl, by funext a b; simp [BitVec.ult, ← decide_not]⟩

theorem jTarget_eq (off : BitVec 26) (s : State) : jTarget off s = s.core.pc + BitVec.ofInt 32 (4 * off.toInt) := by
  rw [jTarget, offset_words 26 (by decide)]

theorem conclude_transfer (a : Word) (taken : Bool) (status : Option Word) (b : State) :
    conclude (.transfer a taken status b) = slotThen a taken status b := rfl

theorem toAddr_aligned {a : Word} {f : State → Ended} {s : State} (h : a.toNat % 4 = 0) : toAddr a f s = f s :=
  if_neg (not_not_intro h)

theorem toAddr_misaligned {a : Word} {f : State → Ended} {s : State} (h : a.toNat % 4 ≠ 0) : toAddr a f s = alignExc a s :=
  if_pos h

/-- Settles O37. -/
theorem coreTransfersAct : Obligations.CoreTransfersAct := by
  intro s b hrun hslot hloop
  have htransfer (f) := pbTransfer_runs (f := f) hrun hslot hloop
  refine ⟨?branch, ?jmp, ?call, ?jr, ?jrMisaligned, ?callr, ?ret, ?retMisaligned, ?reti⟩
  case branch =>
    intro row hrow ra rb off hra hrb
    obtain ⟨cond, hexec, rfl⟩ := branches_condition row hrow
    rw [hexec]
    exact branch_ok hrun hslot hloop hra hrb
  case jmp =>
    intro off
    refine (htransfer _).trans ?_
    rw [conclude_transfer, jTarget_eq]
  case call =>
    intro off t hpush
    refine (htransfer _).trans ?_
    rw [pushed_ok hpush, conclude_transfer, jTarget_eq]
  case jr =>
    intro ra hra haligned
    refine (htransfer _).trans ?_
    simp only [rg_ok hra, toAddr_aligned haligned, conclude_transfer]
  case jrMisaligned =>
    intro ra hra hmis
    refine (htransfer _).trans ?_
    simp only [rg_ok hra, toAddr_misaligned hmis]
    rfl
  case callr =>
    intro ra t hra haligned hpush
    refine (htransfer _).trans ?_
    simp only [rg_ok hra, toAddr_aligned haligned, pushed_ok hpush, conclude_transfer]
  case ret =>
    intro w t hpop haligned
    refine (htransfer _).trans ?_
    rw [popped_ok hpop, if_neg (not_not_intro haligned), conclude_transfer]
  case retMisaligned =>
    intro w t hpop hmis
    refine (htransfer _).trans ?_
    rw [popped_ok hpop, if_pos hmis]
    rfl
  case reti =>
    intro st w t u hstatus hpop haligned
    refine (htransfer _).trans ?_
    rw [popped_ok hstatus, popped_ok hpop, if_neg (not_not_intro haligned), conclude_transfer]

end Sys2Proof.CoreLaws

/-! PB32: loops, special registers, the stack, where execution goes on, exceptions, interrupts and undefined places (O38 to O42). -/

namespace Sys2Proof.CoreFlow
open Sys2Proof.Machine Sys2Proof.Statements

/-! ### Loops, moves and the stack -/

theorem pb_runs {f : State → Ended} {s b : State} (hrun : Executes s b) : pb f s = .next (conclude (f b)) := by
  rw [pb, pbRow_runs hrun]

/-- A MOVE of a register that the part does not have is illegal (R346). -/
theorem move_illegal {n : Nat} {f : State → Ended} {s b : State} (hrun : Executes s b) (hbad : badSr n = true) :
    pb (fun s => if badSr n then illegal s else f s) s = .next (takeExc { vector := 1 } b) := by
  rw [pb_runs hrun, if_pos hbad]
  rfl

theorem move_runs {n : Nat} {f : State → Ended} {s b : State} (hrun : Executes s b) (hgood : badSr n = false) :
    pb (fun s => if badSr n then illegal s else f s) s = .next (conclude (f b)) := by
  rw [pb_runs hrun, if_neg (Bool.not_eq_true _ ▸ hgood)]

theorem cachectl_inv_word (en : Bool) : W (2 + b2n en) = if en then 3#32 else 2#32 := by cases en <;> rfl

theorem coreLoopsAndMoves_act : coreLoopsAndMovesAct := by
  refine ⟨fun s b hrun hslot hloop n len => ⟨?loop, ?loopi, ?loopIllegal⟩, fun s b hrun =>
    ⟨?moveTo, ?moveIllegal, ?moveFrom, ?cycle, ?miss, ?invalidate, ?icinv, ?fence⟩⟩
  case loop =>
    intro hn ra hra hlen
    refine (pbTransfer_runs hrun hslot hloop).trans ?_
    rw [rg_ok hra]
    exact congrArg Host.Outcome.next (startLoop_ok hn hlen)
  case loopi =>
    intro hn cnt hlen
    exact (pbTransfer_runs hrun hslot hloop).trans (congrArg Host.Outcome.next (startLoop_ok hn hlen))
  case loopIllegal =>
    intro ra cnt hbad hra
    refine ⟨(pbTransfer_runs hrun hslot hloop).trans ?_,
      (pbTransfer_runs hrun hslot hloop).trans (congrArg Host.Outcome.next (startLoop_illegal hbad))⟩
    rw [rg_ok hra]
    exact congrArg Host.Outcome.next (startLoop_illegal hbad)
  case moveTo =>
    intro sr ra hgood hra
    refine (move_runs hrun hgood).trans ?_
    rw [rg_ok hra]
    rfl
  case moveIllegal => exact fun sr r hbad => ⟨move_illegal hrun hbad, move_illegal hrun hbad⟩
  case moveFrom =>
    intro rd sr w t hgood hread hrd
    refine (move_runs hrun hgood).trans ?_
    simp only [hread, wr_ok _ hrd]
    rfl
  case cycle =>
    intro rd w t hread hrd
    have hcycle : readCycle b = (w, t) := hread
    refine (pb_runs hrun).trans ?_
    simp only [hcycle, wr_ok _ hrd]
    rfl
  case miss =>
    intro rd hrd
    refine (pb_runs hrun).trans ?_
    simp only [readMiss]
    rw [wr_ok _ (b := { b with core.cacheMiss := 0 }) hrd]
    rfl
  case invalidate =>
    refine (pb_runs hrun).trans ?_
    rw [cachectl_inv_word]
    rfl
  case icinv => exact pb_runs hrun
  case fence => exact pb_runs hrun

/-- One loop set is restored as its three words are popped (R357). -/
theorem popSet_ok {n : Nat} {k : State → Ended} {b t : State} (h : popLoopSet n b = some t) : popSet n k b = k t := by
  obtain ⟨c, hc, h⟩ := Option.bind_eq_some_iff.mp h
  obtain ⟨e, he, h⟩ := Option.bind_eq_some_iff.mp h
  obtain ⟨l, hl, h⟩ := Option.bind_eq_some_iff.mp h
  obtain rfl := Option.some.inj h
  rw [popSet, popped_ok hc, popped_ok he, popped_ok hl]

/-- A set of the mask is popped, another one left. -/
theorem popSets_succ {mask : BitVec 3} {n : Nat} {b t : State}
    (h : (if mask.getLsbD n then popLoopSet n b else some b) = some t) : popSets mask (n + 1) b = popSets mask n t := by
  rw [popSets]
  split at h
  · rw [if_pos ‹_›, popSet_ok h]
  · rw [if_neg ‹_›, Option.some.inj h]

theorem popSets_ok {mask : BitVec 3} {b t : State} (h : popLoopSets mask b = some t) : popSets mask 3 b = .seq t := by
  obtain ⟨b2, h2, h⟩ := Option.bind_eq_some_iff.mp h
  obtain ⟨b1, h1, h⟩ := Option.bind_eq_some_iff.mp h
  rw [popSets_succ h2, popSets_succ h1, popSets_succ h, popSets]

theorem coreStack_acts : coreStackActs := by
  refine fun s b hrun => ⟨?push, ?pop, ?pushl, ?popl⟩
  case push =>
    intro ra t hra hpush
    refine (pb_runs hrun).trans ?_
    simp only [rg_ok hra, pushed_ok hpush]
    rfl
  case pop =>
    intro rd w t hrd hpop hsettled
    refine (pb_runs hrun).trans ?_
    rw [popped_ok hpop, if_neg hrd]
    simp only []
    rw [wr_ok _ (b := { t with core.busRead := w }) hsettled]
    rfl
  case pushl =>
    intro mask t hpush
    have hwords : pushWords (loopWords mask b) b = some t := hpush
    refine (pb_runs hrun).trans ?_
    rw [pushAll_ok hwords]
    rfl
  case popl =>
    intro mask t hpop
    refine (pb_runs hrun).trans ?_
    rw [popSets_ok hpop]
    rfl

/-- Settles O38. -/
theorem coreLoopsMovesAndStackAct : Obligations.CoreLoopsMovesAndStackAct := ⟨coreLoopsAndMoves_act, coreStack_acts⟩

/-! ### Where execution goes on (R350, R352) -/

/-- A loop set that does not end at the pc, or is not active, is passed over. -/
theorem loopNext_miss {k : Nat} {s : State} (hsettled : s.core.specHazards = []) (n : Fin 3) (hn : n = Fin.ofNat 3 (2 - k))
    (h : s.core.le[n] ≠ s.core.pc ∨ s.core.lc[n] = 0#32) : loopNext (k + 1) s = loopNext k s := by
  subst hn
  simp only [loopNext, settled_none hsettled]
  rw [if_neg]
  simp only [Bool.and_eq_true, decide_eq_true_eq]
  rintro ⟨hle, hlc⟩
  exact h.elim (absurd hle) hlc

/-- The first active loop that ends at the pc counts down and decides where execution goes on (R352). -/
theorem loopNext_hit {k : Nat} {s : State} (hsettled : s.core.specHazards = []) (n : Fin 3) (hn : n = Fin.ofNat 3 (2 - k))
    (hle : s.core.le[n] = s.core.pc) (hlc : s.core.lc[n] ≠ 0#32) :
    loopNext (k + 1) s = (if s.core.lc[n] = 1#32 then s.core.pc + 4 else s.core.ls[n],
      { s with core.lc := s.core.lc.set n (s.core.lc[n] - 1) }) := by
  subst hn
  simp only [loopNext, settled_none hsettled]
  rw [if_pos (by simp only [Bool.and_eq_true, decide_eq_true_eq]; exact ⟨hle, hlc⟩), hsettled]
  rfl

/-- Of two active loops with one end address the lower-numbered set decides (log 26). -/
theorem loopNext_first {s : State} (hsettled : s.core.specHazards = []) (n : Fin 3) (hle : s.core.le[n] = s.core.pc)
    (hlc : s.core.lc[n] ≠ 0#32) (hbefore : ∀ m : Fin 3, m < n → s.core.le[m] ≠ s.core.pc ∨ s.core.lc[m] = 0#32) :
    loopNext 3 s = (if s.core.lc[n] = 1#32 then s.core.pc + 4 else s.core.ls[n],
      { s with core.lc := s.core.lc.set n (s.core.lc[n] - 1) }) := by
  match n with
  | 0 => exact loopNext_hit hsettled 0 rfl hle hlc
  | 1 =>
    rw [loopNext_miss hsettled 0 rfl (hbefore 0 (by decide))]
    exact loopNext_hit hsettled 1 rfl hle hlc
  | 2 =>
    rw [loopNext_miss hsettled 0 rfl (hbefore 0 (by decide)), loopNext_miss hsettled 1 rfl (hbefore 1 (by decide))]
    exact loopNext_hit hsettled 2 rfl hle hlc

/-- Outside a delay slot the loop decision alone says where execution goes on. -/
theorem advance_of_no_slot {s : State} (hslot : s.core.slot = none) :
    advance s = age { (loopNext 3 s).2 with core.pc := (loopNext 3 s).1 } := by
  simp only [advance, hslot]

theorem advance_of_taken {s : State} {a : Word} (hslot : s.core.slot = some a) (htaken : s.core.slotTaken = true) :
    advance s = age { s with
      core.pc := a, core.status := s.core.slotStatus.getD s.core.status, core.slot := none, core.slotStatus := none,
      core.slotTaken := false } := by
  simp only [advance, hslot, htaken, if_true]
  cases s.core.slotStatus <;> rfl

theorem advance_of_not_taken {s : State} {a : Word} (hslot : s.core.slot = some a) (htaken : s.core.slotTaken = false) :
    advance s = age { (loopNext 3 s).2 with
      core.pc := (loopNext 3 s).1, core.slot := none, core.slotStatus := none, core.slotTaken := false } := by
  simp only [advance, hslot, htaken, Bool.false_eq_true, if_false]

/-- Settles O39. -/
theorem coreGoesOn : Obligations.CoreGoesOn := by
  refine fun s hsettled => ⟨?sequence, ?loopEnd, ?taken, ?notTaken⟩
  case sequence =>
    intro hslot hloop
    rw [advance_of_no_slot hslot, loopNext_none hsettled hloop 3 le_rfl]
  case loopEnd =>
    intro n hslot hle hlc hbefore
    rw [advance_of_no_slot hslot, loopNext_first hsettled n hle hlc hbefore]
  case taken => exact fun a hslot htaken => advance_of_taken hslot htaken
  case notTaken =>
    intro a hslot htaken hloop
    rw [advance_of_not_taken hslot htaken, loopNext_none hsettled hloop 3 le_rfl]

/-! ### Exceptions and interrupts (R355, R356) -/

/-- Where an exception outside a slot resumes: at the pc, or at the next instruction. -/
theorem resume_eq {e : Exc} {s : State} (hsettled : s.core.specHazards = []) (hloop : noLoopEnd s) :
    (if e.next then loopNext 3 s else (s.core.pc, s)) = (if e.next then s.core.pc + 4 else s.core.pc, s) := by
  rw [loopNext_none hsettled hloop 3 le_rfl]
  split <;> rfl

/-- Settles O40. -/
theorem coreExceptionsEnter : Obligations.CoreExceptionsEnter := by
  intro e s w t hsettled hslot hstatus hexc hloop hframe
  have hnested : excOf s.core.status = false := hexc
  simp only [takeExc, settled_none hsettled, resume_eq hsettled hloop, hslot, hstatus, hnested, Option.isSome_none, Bool.false_eq_true,
    if_false, noteExc]
  rw [entryFrame_ok hframe]

/-- An interrupt whose frame is written is entered (R356). -/
theorem takeIrq_framed {v l : Nat} {s t : State} {w : Word}
    (hframe : Framed v s.core.pc s.core.status { s with core.waiting := false } w t) :
    takeIrq v l s = { t with
      core.status := (s.core.status &&& ~~~0xE#32) ||| BitVec.ofNat 32 (l * 2)
      core.cause := (t.core.cause &&& ~~~0x1F#32) ||| BitVec.ofNat 32 v, core.pc := w } := by
  rw [takeIrq, entryFrame_ok hframe]
  rfl

theorem pbNoSlot_runs {f : State → Ended} {s b : State} (hrun : Executes s b) (hslot : s.core.slot = none) :
    pbNoSlot f s = .next (conclude (f b)) := by
  simp only [pbNoSlot, hslot, Option.isSome_none, Bool.and_false, Bool.false_eq_true, if_false, pbRow_runs hrun]

/-- STATUS lets through an interrupt of level l (R356). -/
theorem admitsIrq_iff (st : Word) (l : Nat) :
    admitsIrq st l = true ↔ st.getLsbD 0 = true ∧ fld st 3 1 < l ∧ st.getLsbD 4 = false := by
  simp only [admitsIrq, ieOf, iplOf, excOf, bitAt, Bool.and_eq_true, Bool.not_eq_true', and_assoc]
  exact and_congr_right fun _ => and_congr_left fun _ => decide_eq_true_iff

theorem interruptEntry_closed {s : State}
    (h : coreRuns s = false ∨ s.core.slot ≠ none ∨ (intcTop s = none ∧ s.core.stale = [])) : interruptEntry s = s := by
  obtain hstopped | hslot | ⟨hnone, hstale⟩ := h
  · simp [interruptEntry, hstopped]
  · simp [interruptEntry, Option.isSome_iff_ne_none.mpr hslot]
  · simp [interruptEntry, hnone, hstale]

/-- The source that the interrupt controller shows is entered where STATUS lets it through. -/
theorem interruptEntry_shown {v l : Nat} {s : State} (hruns : coreRuns s = true) (hslot : s.core.slot = none)
    (hsettled : s.core.specHazards = []) (htop : intcTop s = some (v, l)) :
    interruptEntry s = if admitsIrq s.core.status l then takeIrq v l s else staleEntry s.core.status s := by
  simp only [interruptEntry, hruns, hslot, htop, settled_none hsettled, Option.isSome_none, Bool.not_true, Bool.or_self,
    Bool.false_eq_true, if_false]

theorem staleEntry_nil {st : Word} {s : State} (h : s.core.stale = []) : staleEntry st s = s := by
  simp only [staleEntry, h, List.find?_nil]

theorem coreTraps_act : ∀ s b, Executes s b → s.core.slot = none →
    (∀ code, exec (.pbTrap code) s = .next (takeExc { vector := 4, trap := some code, next := true } b)) ∧
    exec .pbWait s = .next (advance { b with core.waiting := true }) ∧
    (b.sec.debug = .closed → exec .pbBreak s = .next (takeExc { vector := 5, next := true } b)) ∧
    (b.sec.debug ≠ .closed → exec .pbBreak s = .next (advance { b with core.halted := true })) := by
  intro s b hrun hslot
  refine ⟨fun code => pbNoSlot_runs hrun hslot, pbNoSlot_runs hrun hslot, fun hclosed => ?_, fun hopen => ?_⟩
  all_goals refine (pbNoSlot_runs hrun hslot).trans ?_
  · rw [if_pos hclosed]
    rfl
  · rw [if_neg hopen]
    rfl

/-- Settles O41. -/
theorem coreTrapsAndInterruptsAct : Obligations.CoreTrapsAndInterruptsAct := by
  refine ⟨coreTraps_act, ?closed, ?shown, ?stale⟩
  case closed => exact fun s hclosed => congrArg Host.Outcome.next (interruptEntry_closed hclosed)
  case shown =>
    intro s v l hruns hslot hsettled htop
    have hentry := congrArg (Host.Outcome.next (φ := Fault) (ρ := Refusal)) (interruptEntry_shown hruns hslot hsettled htop)
    refine ⟨fun hstale hmasked => hentry.trans ?_, fun hie hipl hexc w t hframe => hentry.trans ?_⟩
    · have hrefused : ¬ admitsIrq s.core.status l = true := by
        rw [admitsIrq_iff]
        rintro ⟨hie, hipl, hexc⟩
        obtain h | h | h := hmasked
        · rw [hie] at h
          contradiction
        · omega
        · rw [hexc] at h
          contradiction
      rw [if_neg hrefused, staleEntry_nil hstale]
    · rw [if_pos ((admitsIrq_iff _ _).mpr ⟨hie, hipl, hexc⟩), takeIrq_framed hframe]
  case stale =>
    intro s h hruns hslot hsettled htop hfind
    have hentry := staleEntry_ok hruns hslot hsettled htop hfind
    refine ⟨fun hfree => hentry.trans ?_, fun hfree w t hframe => hentry.trans ?_⟩
    · rw [drawBool_value, if_neg (Bool.not_eq_true _ ▸ hfree)]
      rfl
    · rw [drawBool_value, if_pos hfree]
      exact congrArg Host.Outcome.next (takeIrq_framed hframe)

/-! ### Undefined places (R350, R353) -/

/-- A transfer or a loop is one of the rows that a slot and a loop's end stop. -/
theorem exec_isTransfer {i : Instr} (h : isTransfer i) (s : State) : ∃ f, exec i s = pbTransfer f s := by
  obtain ⟨_, _, _, rfl | rfl | rfl | rfl | rfl | rfl⟩ | ⟨_, rfl | rfl⟩ | ⟨_, rfl | rfl⟩ | rfl | rfl | ⟨_, _, _, rfl⟩ | ⟨_, _, _, rfl⟩ := h
  all_goals exact ⟨_, rfl⟩

theorem exec_isSystem {i : Instr} (h : isSystem i) (s : State) : ∃ f, exec i s = pbNoSlot f s := by
  obtain ⟨_, rfl⟩ | rfl | rfl := h
  all_goals exact ⟨_, rfl⟩

/-- Settles O42. -/
theorem coreUndefinedPlacesStop : Obligations.CoreUndefinedPlacesStop := by
  refine ⟨fun i s hi hfetch hslot => ?slot, fun i s hi hfetch hslot hloop => ?loopEnd⟩
  case slot =>
    have hin : (coreFetches s && s.core.slot.isSome) = true := by
      rw [hfetch, Option.isSome_iff_ne_none.mpr hslot]
      rfl
    obtain hi | hi := hi
    · obtain ⟨f, hf⟩ := exec_isTransfer hi s
      rw [hf, pbTransfer, if_pos hin]
    · obtain ⟨f, hf⟩ := exec_isSystem hi s
      rw [hf, pbNoSlot, if_pos hin]
  case loopEnd =>
    obtain ⟨f, hf⟩ := exec_isTransfer hi s
    simp only [hf, pbTransfer, hfetch, hslot, hloop, Option.isSome_none, Bool.and_false, Bool.and_self, Bool.false_eq_true, if_false,
      if_true]

end Sys2Proof.CoreFlow

/-! How a taken command answers: from what its meaning computes to the statement's form; and facts about parameter words. -/

namespace Sys2Proof.CommandRules
open Sys2Proof.Machine Sys2Proof.Statements

theorem lenIs_of {n : Nat} {ps : List Word} (h : ps.length = n) : lenIs n ps = true := decide_eq_true h

/-- A command with an immediate meaning answers what the meaning computes. -/
theorem answers_of_immediate {code : Nat} {i : Packet → Instr} {lenOk : List Word → Bool} {f : Cmd → State → Except Status (List Word × State)}
    {pre : Cmd → State → Prop} {res : Cmd → State → List Word} {eff : Cmd → State → State}
    (e : ∀ p s, exec (i p) s = .next (plazaRun code lenOk (immediate f) p s))
    (h : ∀ c b, pre c b → lenOk c.ps = true ∧ f c b = .ok (res c b, eff c b)) : Answers code i pre .ok res eff :=
  Does.plaza (fun p s _ => e p s) fun c b _ hpre => ⟨(h c b hpre).1, immediate_ok (h c b hpre).2⟩

/-- A command whose meaning is a change of the state does that. -/
theorem does_of_owner {code : Nat} {i : Packet → Instr} {lenOk : List Word → Bool} {owner : Cmd → State → State} {pre : Cmd → State → Prop}
    {out : Cmd → State → State} (e : ∀ p s, exec (i p) s = .next (plazaRun code lenOk owner p s))
    (h : ∀ c b, pre c b → lenOk c.ps = true ∧ owner c b = out c b) : Does code i pre out :=
  Does.plaza (fun p s _ => e p s) fun c b _ hpre => h c b hpre

/-- A radio command waits for no calibration that runs through (R111), so it answers as the others do. -/
theorem answers_of_radio {code : Nat} {i : Packet → Instr} {lenOk : List Word → Bool} {f : Cmd → State → Except Status (List Word × State)}
    {pre : Cmd → State → Prop} {res : Cmd → State → List Word} {eff : Cmd → State → State}
    (e : ∀ p s, exec (i p) s = .next (radioRun code lenOk f p s)) (w : waitsForCal code = true)
    (h : ∀ c b, pre c b → lenOk c.ps = true ∧ f c b = .ok (res c b, eff c b)) : Answers code i pre .ok res eff :=
  Does.radio e w fun c b _ hpre => ⟨(h c b hpre).1, immediate_ok (h c b hpre).2⟩

/-- What happens after a context may have come free depends on the meaning's outcome alone (R310). -/
theorem thenFree_congr {f g : Cmd → State → State} {c : Cmd} {s : State} (h : f c s = g c s) : thenFree f c s = thenFree g c s := by
  simp only [thenFree, h]

/-! ### Words -/

theorem onlyBits_byte {w : Word} (h : w.toNat < 2 ^ 8) : onlyBits w 0xFF#32 = true := small_only h (by decide)

theorem onlyBits_zero (m : Word) : onlyBits 0#32 m = true := by simp [onlyBits]

theorem onlyBits_self (m : Word) : onlyBits m m = true := by simp [onlyBits]

theorem bitAt_zero (k : Nat) : bitAt 0#32 k = false := by simp [bitAt]

theorem bitAt_one_zero : bitAt 1#32 0 = true := rfl

theorem small_bit {w : Word} {n : Nat} (h : w.toNat < 2 ^ n) {k : Nat} (hk : n ≤ k) : bitAt w k = false := by
  rw [bitAt_eq, BitVec.getLsbD]
  exact Nat.testBit_lt_two_pow (lt_of_lt_of_le h (Nat.pow_le_pow_right (by decide) hk))

end Sys2Proof.CommandRules

/-! Network time: PPS edges and the servo, the events of the time base, the time commands (O43, O44, O15). -/

namespace Sys2Proof.TimeLaws
open Sys2Proof.Machine Sys2Proof.Statements Sys2Proof.CommandRules

/-! ### Edges on PPS_IN (R31, R38, R61) -/

theorem ppsEdge_ignored {r : Bool} {lf : Nat} {s : State} (h : s.time.enable = false ∨ s.time.activeEdge r = false) :
    ppsEdge r lf s = s := by
  obtain h | h := h <;> simp [ppsEdge, h]

/-- An edge less than 0.5 s after the last accepted one is a glitch (R31). -/
theorem ppsEdge_glitch {r : Bool} {lf : Nat} {l : DWord} {s : State} (hen : s.time.enable = true) (hvio : s.power.vio = true)
    (hedge : s.time.activeEdge r = true) (hlast : s.time.lastEdge = some l) (hnear : (s.time.nt - l).toNat < 2 ^ 31) :
    ppsEdge r lf s = { s with time.glitch := satInc16 s.time.glitch } := by
  simp only [ppsEdge, hen, hvio, hedge, hlast, hnear, Bool.not_true, Bool.or_self, Bool.false_eq_true, decide_true, if_false, if_true]

/-- Where an accepted edge with no load pending leads. -/
theorem ppsEdge_accepted {r : Bool} {lf : Nat} {s : State} (hen : s.time.enable = true) (hvio : s.power.vio = true)
    (hedge : s.time.activeEdge r = true) (hload : s.time.setPending = none)
    (hfar : ∀ l, s.time.lastEdge = some l → 2 ^ 31 ≤ (s.time.nt - l).toNat) :
    ppsEdge r lf s =
      let e := (lo32 s.time.nt).toInt
      let s1 := captureAt 0 s.time.nt { s with time.lastEdge := some s.time.nt, time.edges := s.time.edges + 1, time.ppsErr := WI e }
      let s2 := if s.time.lastEdge = none then s1 else { s1 with time := edgeSample lf s1.time }
      let s3 := if s2.time.servo = true ∧ s2.awake = true ∧ s2.time.onLf = false then judgeEdge e s.time.nt s2 else s2
      { s3 with time.lossFrom := some s.time.nt } := by
  have hload' : loadAtEdge s = s := by simp only [loadAtEdge, hload]
  cases hlast : s.time.lastEdge with
  | none =>
    simp only [ppsEdge, hen, hvio, hedge, hload', hlast, Option.isNone_none, Bool.not_true, Bool.or_self, Bool.false_eq_true,
      Bool.and_eq_true, Bool.not_eq_true', if_false, if_true, and_assoc]
  | some l =>
    have hnear : ¬(s.time.nt - l).toNat < 2 ^ 31 := Nat.not_lt.mpr (hfar l hlast)
    simp only [ppsEdge, hen, hvio, hedge, hload', hlast, hnear, decide_false, Option.isNone_some, Bool.not_true, Bool.or_self, Bool.false_eq_true,
      Bool.and_eq_true, Bool.not_eq_true', if_false, reduceCtorEq, and_assoc]

/-! ### The servo in ACQUIRING (R32, R33, R34) -/

/-- LOCK_COUNT after an edge of phase error e (R34). -/
def lockAfter (e : Int) (t : TimeState) : Fin 5 :=
  if inWindow e then (if t.lockCount = 4 then 4 else t.lockCount + 1) else 0

theorem servoAct_ppsState (e : Int) (t : TimeState) : (servoAct e t).ppsState = t.ppsState := by
  unfold servoAct
  split <;> rfl

theorem servoAct_lockCount (e : Int) (t : TimeState) : (servoAct e t).lockCount = t.lockCount := by
  unfold servoAct
  split <;> rfl

/-- In ACQUIRING the servo acts and counts, and the fourth edge in the window enters LOCKED, which touches nothing else of the servo. -/
theorem judgeEdge_acquiring {e : Int} {c : DWord} {s : State} (hacq : s.time.ppsState = .acquiring) :
    let t := (judgeEdge e c s).time
    t.integ = (servoAct e s.time).integ ∧ t.adj = (servoAct e s.time).adj ∧ t.lockCount = lockAfter e s.time ∧
    t.ppsState = if lockAfter e s.time = 4 then .locked else .acquiring := by
  have hstate : (servoAct e s.time).ppsState = .acquiring := (servoAct_ppsState e s.time).trans hacq
  have hcount : (if inWindow e then (if (servoAct e s.time).lockCount = 4 then (4 : Fin 5) else (servoAct e s.time).lockCount + 1)
      else 0) = lockAfter e s.time := by
    rw [servoAct_lockCount]
    rfl
  simp only [judgeEdge, hacq, hstate, hcount, reduceCtorEq, if_false]
  split
  · simp only [(raise_only _ _ _).time, setPps, reduceCtorEq, if_false, ntcIrq, and_self]
  · simp only [and_self]

/-- A phase error beyond 2^22 sets NTC_ADJ against its sign (R32). -/
theorem servoAct_far {e : Int} {t : TimeState} (hfar : 2 ^ 22 < e.natAbs) :
    servoAct e t = { t with adj := WI (if 0 < e then -858993 else 858993) } := if_pos hfar

theorem servoAct_near {e : Int} {t : TimeState} (hnear : e.natAbs ≤ 2 ^ 22) :
    servoAct e t =
      let i := clampI (-(2 ^ 31 - 1)) (2 ^ 31 - 1) (t.integ.toInt + e)
      { t with integ := WI i, adj := WI (clampI (-858993) 858993 (-(e >>> t.kp.toNat) - (i >>> t.ki.toNat))) } :=
  if_neg (Nat.not_lt.mpr hnear)

theorem lockAfter_out {e : Int} {t : TimeState} (hout : 4295 < e.natAbs) : lockAfter e t = 0 := by
  have hwin : inWindow e = false := decide_eq_false (Nat.not_le.mpr hout)
  rw [lockAfter, hwin, if_neg Bool.false_ne_true]

theorem lockAfter_in {e : Int} {t : TimeState} (hin : e.natAbs ≤ 4295) :
    lockAfter e t = if t.lockCount = 4 then 4 else t.lockCount + 1 := by
  have hwin : inWindow e = true := decide_eq_true hin
  rw [lockAfter, if_pos hwin]

/-- The servo's clauses follow from what `servoAct` and `lockAfter` compute. -/
theorem servo_judgesEdges : servoJudgesEdges := by
  intro e c s hacq t i
  obtain ⟨hinteg, hadj, hcount, hstate⟩ := judgeEdge_acquiring (e := e) (c := c) hacq
  refine ⟨fun hfar => ?above, fun hfar => ?below, fun hnear => ?near, fun hout => ?out, fun hin hfew => ?counted, fun hin hmany => ?locked⟩
  case above =>
    rw [hinteg, hadj, servoAct_far (by omega), if_pos (by omega)]
    exact ⟨rfl, rfl⟩
  case below =>
    rw [hinteg, hadj, servoAct_far (by omega), if_neg (by omega)]
    exact ⟨rfl, rfl⟩
  case near =>
    rw [hinteg, hadj, servoAct_near hnear]
    exact ⟨rfl, rfl⟩
  case out =>
    rw [hcount, hstate, lockAfter_out hout]
    exact ⟨rfl, rfl⟩
  case counted =>
    have hnext : lockAfter e s.time = s.time.lockCount + 1 := by
      rw [lockAfter_in hin, if_neg (by omega)]
    have hnot4 : s.time.lockCount + 1 ≠ 4 := by omega
    rw [hcount, hstate, hnext, if_neg hnot4]
    exact ⟨rfl, rfl⟩
  case locked =>
    have hnext : lockAfter e s.time = 4 := by
      rw [lockAfter_in hin]
      split <;> omega
    rw [hcount, hstate, hnext]
    exact ⟨rfl, rfl⟩

/-- Settles O43. -/
theorem ppsEdgesSteerTheServo : Obligations.PpsEdgesSteerTheServo := by
  refine ⟨⟨?ignored, ?glitch, ?accepted⟩, servo_judgesEdges⟩
  case ignored => exact fun _ _ _ h => congrArg Host.Outcome.next (ppsEdge_ignored h)
  case glitch =>
    exact fun _ _ _ _ hen hvio hedge hlast hnear => congrArg Host.Outcome.next (ppsEdge_glitch hen hvio hedge hlast hnear)
  case accepted =>
    exact fun _ _ _ hen hvio hedge hload hfar => congrArg Host.Outcome.next (ppsEdge_accepted hen hvio hedge hload hfar)

/-! ### The other events of the time base -/

/-- No edge within 1.5 s of NT while the servo follows edges: HOLDOVER (R34). -/
theorem ppsLost_holdover {l : DWord} {s : State} (hfrom : s.time.lossFrom = some l) (hlong : elapsedBy l s.time.nt lossUnits = true)
    (hfollows : s.time.ppsState = .acquiring ∨ s.time.ppsState = .locked) :
    ppsLost s = raise 0x020 [0#32] (ntcIrq 12 { s with time.lossFrom := none, time.ppsState := .holdover }) := by
  have hnot : s.time.ppsState ≠ .holdover := by
    obtain h | h := hfollows <;> simp [h]
  simp only [ppsLost, hfrom, hlong, Bool.and_true, Bool.or_eq_true, decide_eq_true_eq, hfollows, if_true, setPps, hnot, if_false]

theorem ntSetExpired_late {q : SetPending} {s : State} (hpending : s.time.setPending = some q)
    (hlong : elapsedBy q.since s.elapsed.now lossUnits = true) :
    ntSetExpired s = finish ⟨q.port, q.tag, 0x201, []⟩ .expired [] { s with time.setPending := none } := by
  simp only [ntSetExpired, hpending, hlong, if_true]

theorem ntSlewComplete_reached {sl : Slew} {s : State} (hslew : s.time.slew = some sl) (hreached : sl.reached = true) :
    ntSlewComplete s = { s with time.adj := WI sl.base, time.slew := none } := by
  simp only [ntSlewComplete, hslew, hreached, if_true, endSlew]

/-- Settles O44: each event's condition holds, so its row has its effect. -/
theorem timeEventsAct : Obligations.TimeEventsAct := by
  refine ⟨?lost, ?expired, ?slewDone, ?toHfxo, ?wakeSample, ?rise, ?fall⟩
  case lost => exact fun _ _ hfrom hlong hfollows => congrArg Host.Outcome.next (ppsLost_holdover hfrom hlong hfollows)
  case expired => exact fun _ _ hpending hlong => congrArg Host.Outcome.next (ntSetExpired_late hpending hlong)
  case slewDone => exact fun _ _ hslew hreached => congrArg Host.Outcome.next (ntSlewComplete_reached hslew hreached)
  case toHfxo => exact fun s hlf hawake => congrArg Host.Outcome.next (if_pos (by simp [hlf, hawake]))
  case wakeSample => exact fun m s hdue hlf => congrArg Host.Outcome.next (if_pos (by simp [hdue, hlf]))
  case rise =>
    exact fun s hen hlf hawake hpll hlow hpassed => congrArg Host.Outcome.next (if_pos (by simp [hen, hlf, hawake, hpll, hlow, hpassed]))
  case fall => exact fun s hhigh hlong => congrArg Host.Outcome.next (if_pos (by simp [hhigh, hlong]))

/-! ### The time commands (R37 to R41, R60 to R62) -/

theorem ntSetRun_now {c : Cmd} {b : State} (hnow : param c.ps 3 = 0#32) (harmed : anyArmed b = false) (hpending : b.time.setPending = none) :
    ntSetRun c b = finish c .ok [] { b with time.nt := mk64 (param c.ps 2) (param c.ps 1), time.isSet := true } := by
  simp [ntSetRun, hnow, harmed, hpending, bitAt_zero, onlyBits_zero, firstFail]

theorem ntSetRun_atEdge {c : Cmd} {b : State} (hedge : param c.ps 3 = 1#32) (hlow : param c.ps 2 = 0#32) (harmed : anyArmed b = false)
    (hen : b.time.enable = true) (hpending : b.time.setPending = none) :
    ntSetRun c b = { b with time.setPending := some ⟨c.port, c.tag, param c.ps 1, b.elapsed.now⟩ } := by
  simp [ntSetRun, hedge, hlow, harmed, hen, hpending, bitAt_one_zero, onlyBits_self, firstFail]

theorem ppsConfigRun_accepted {c : Cmd} {b : State} (h1 : onlyBits (param c.ps 1) 0x001F1F0F#32 = true)
    (h2 : onlyBits (param c.ps 2) 0xFFFF#32 = true) (hwidth : bitAt (param c.ps 1) 3 = true → fld (param c.ps 2) 15 0 ≠ 0) :
    ppsConfigRun c b = .ok ([],
      let w := param c.ps 1
      let t := if bitAt w 2 then endSlew b.time else b.time
      ppsRestate { b with time := { t with
        enable := bitAt w 0, pol := bitAt w 1, servo := bitAt w 2, outEn := bitAt w 3, kp := w.extractLsb' 8 5,
        ki := w.extractLsb' 16 5, width := (param c.ps 2).setWidth 16, ppsOut := t.ppsOut && bitAt w 3 } }) := by
  have h3 : (bitAt (param c.ps 1) 3 && decide (fld (param c.ps 2) 15 0 = 0)) = false := by
    simpa using hwidth
  simp only [ppsConfigRun, h1, h2, h3, firstFail, Bool.not_true, Bool.false_eq_true, if_false]

theorem ntSlewRun_starts {c : Cmd} {b : State} (hlow : 1 ≤ (param c.ps 2).toNat) (hhigh : (param c.ps 2).toNat ≤ 200) (hservo : b.time.servo = false) :
    ntSlewRun c b = .ok ([WI ((b.time.slew.map (·.remainder)).getD 0)],
      { b with time := startSlew (param c.ps 1).toInt (param c.ps 2).toNat b.time }) := by
  have hbyte : (param c.ps 2).toNat < 2 ^ 8 := by omega
  have hrate : (decide ((param c.ps 2).toNat = 0) || decide (200 < (param c.ps 2).toNat)) = false := by
    simp only [Bool.or_eq_false_iff, decide_eq_false_iff_not]
    omega
  simp only [ntSlewRun, fld_small hbyte 7 rfl, onlyBits_byte hbyte, hrate, hservo, firstFail, Bool.not_true, Bool.false_eq_true, if_false]
  cases b.time.slew <;> rfl

theorem ntJumpRun_jumps {c : Cmd} {b : State} (h : param c.ps 3 = 1#32 ∨ param c.ps 3 = 0#32 ∧ anyArmed b = false) :
    ntJumpRun c b =
      let before := b.time.nt
      let after := before + mk64 (param c.ps 1) (param c.ps 2)
      let both := [lo32 before, hi32 before, lo32 after, hi32 after]
      raise 0x0C0 (both ++ [W (lateCount before after b)])
        (finish c .ok both (jumpNt (mk64 (param c.ps 1) (param c.ps 2)) b)) := by
  obtain h | ⟨h, harmed⟩ := h
  · simp only [ntJumpRun, h, bitAt_one_zero, onlyBits_self, firstFail, Bool.not_true, Bool.false_and, Bool.false_eq_true, if_false]
    rfl
  · simp only [ntJumpRun, h, harmed, onlyBits_zero, firstFail, Bool.not_true, Bool.and_false, Bool.false_eq_true, if_false]
    rfl

/-- Settles O15. -/
theorem timeCommandsAnswer : Obligations.TimeCommandsAnswer := by
  refine ⟨?setNow, ?setAtEdge, ?capture, ?config, ?status, ?slew, ?jump⟩
  case setNow =>
    exact does_of_owner (fun _ _ => rfl) fun c b ⟨hlen, hnow, harmed, hpending⟩ => ⟨lenIs_of hlen, ntSetRun_now hnow harmed hpending⟩
  case setAtEdge =>
    exact does_of_owner (fun _ _ => rfl) fun c b ⟨hlen, hedge, hlow, harmed, hen, hpending⟩ =>
      ⟨lenIs_of hlen, ntSetRun_atEdge hedge hlow harmed hen hpending⟩
  case capture => exact answers_of_immediate (fun _ _ => rfl) fun c b hlen => ⟨lenIs_of hlen, rfl⟩
  case config =>
    exact answers_of_immediate (fun _ _ => rfl) fun c b ⟨hlen, h1, h2, hwidth⟩ => ⟨lenIs_of hlen, ppsConfigRun_accepted h1 h2 hwidth⟩
  case status => exact answers_of_immediate (fun _ _ => rfl) fun c b hlen => ⟨lenIs_of hlen, rfl⟩
  case slew =>
    exact answers_of_immediate (fun _ _ => rfl) fun c b ⟨hlen, hlow, hhigh, hservo⟩ => ⟨lenIs_of hlen, ntSlewRun_starts hlow hhigh hservo⟩
  case jump => exact does_of_owner (fun _ _ => rfl) fun c b ⟨hlen, h⟩ => ⟨lenIs_of hlen, ntJumpRun_jumps h⟩

end Sys2Proof.TimeLaws

/-! The PHY's bit coding and the choice among the queues' heads (O13, O53). -/

namespace Sys2Proof.CodingLaws
open Sys2Proof.Machine Sys2Proof.Statements

/-! ### Coding (R137, R142, R167) -/

/-- The generator does not depend on the data, so the second run takes away what the first one added. -/
theorem scramble15_twice (r : BitVec 15) (bs : List Bool) : scramble15 r (scramble15 r bs) = bs := by
  induction bs generalizing r with
  | nil => rfl
  | cons b bs ih => simp only [scramble15, ih, Bool.xor_assoc, Bool.xor_self, Bool.xor_false]

/-- Above its highest bit a number's bits are those of its Gray code, and each bit follows from the one above it. -/
theorem testBit_eq_of_gray_eq {a b : Nat} (h : gray a = gray b) (i : Nat) : a.testBit i = b.testBit i := by
  by_cases hi : max a b ≤ i
  · have hsmall (n : Nat) (hn : n ≤ i) : n.testBit i = false := Nat.testBit_lt_two_pow (lt_of_le_of_lt hn Nat.lt_two_pow_self)
    rw [hsmall a (by omega), hsmall b (by omega)]
  · have habove : a.testBit (i + 1) = b.testBit (i + 1) := testBit_eq_of_gray_eq h (i + 1)
    have hcode : (a.testBit i ^^ a.testBit (i + 1)) = (b.testBit i ^^ b.testBit (i + 1)) := by
      rw [← gray_testBit, ← gray_testBit, h]
    rw [habove] at hcode
    exact Bool.xor_left_inj.mp hcode
termination_by max a b - i

theorem gray_injective {a b : Nat} (h : gray a = gray b) : a = b :=
  Nat.eq_of_testBit_eq (testBit_eq_of_gray_eq h)

theorem length_rsSplit (t n big sz : Nat) (bs : List Byte) : (rsSplit t n big sz bs).length = n := by
  induction n generalizing big bs with
  | zero => rfl
  | succ n ih => simp only [rsSplit, List.length_cons, ih]

/-- Settles O13. -/
theorem phyCodingInverts : Obligations.PhyCodingInverts :=
  ⟨scramble15_twice, fun _ _ => gray_injective, length_rsSplit, by decide⟩

/-! ### The preferred head (R279, R301) -/

theorem goesBefore_green {a b : Candidate} (ha : a.yellow = false) (hb : b.yellow = true) : goesBefore a b = true := by
  simp [goesBefore, ha, hb]

theorem not_goesBefore_yellow {a b : Candidate} (ha : a.yellow = true) (hb : b.yellow = false) : goesBefore a b = false := by
  simp [goesBefore, ha, hb]

theorem bestOf_eq_none {l : List Candidate} : bestOf l = none ↔ l = [] := by
  cases l with
  | nil => exact iff_of_true rfl rfl
  | cons c rest => simp only [bestOf]; split <;> simp

/-- Settles O53, by induction on the heads: the winner over the rest meets the first head. -/
theorem greenGoesBeforeYellow : Obligations.GreenGoesBeforeYellow := by
  intro l
  induction l with
  | nil => exact fun c h => nomatch h
  | cons a rest ih =>
    intro c hbest
    simp only [bestOf] at hbest
    cases hrest : bestOf rest with
    | none =>
      rw [hrest] at hbest
      obtain rfl : a = c := Option.some.inj hbest
      rw [bestOf_eq_none.mp hrest]
      exact ⟨List.mem_singleton_self a, fun hy d hd => (List.mem_singleton.mp hd) ▸ hy⟩
    | some b =>
      obtain ⟨hmem, hall⟩ := ih b hrest
      rw [hrest] at hbest
      have hc : (if goesBefore a b then a else b) = c := Option.some.inj hbest
      by_cases hwins : goesBefore a b = true
      · obtain rfl : a = c := (if_pos hwins).symm.trans hc
        refine ⟨List.mem_cons_self, fun hy => List.forall_mem_cons.mpr ⟨hy, hall ?_⟩⟩
        exact Bool.of_not_eq_false fun hb => Bool.false_ne_true ((not_goesBefore_yellow hy hb).symm.trans hwins)
      · obtain rfl : b = c := (if_neg hwins).symm.trans hc
        refine ⟨List.mem_cons_of_mem a hmem, fun hy => List.forall_mem_cons.mpr ⟨?_, hall hy⟩⟩
        exact Bool.of_not_eq_false fun ha => hwins (goesBefore_green ha hy)

end Sys2Proof.CodingLaws

/-! CIPHER_RUN and the resets (O21, O33, O34). -/

namespace Sys2Proof.ResetLaws
open Sys2Proof.Machine Sys2Proof.Statements Sys2Proof.CommandRules

/-! ### CIPHER_RUN (R309 to R314) -/

/-- Settles O21. -/
theorem cipherRunAnswers : Obligations.CipherRunAnswers := by
  refine ⟨fun single n m1 s1 => ?opens, fun final m => ?continues⟩
  case opens =>
    exact Does.plaza (fun _ _ _ => rfl) fun c b _ hmay =>
      ⟨hmay.1, thenFree_congr ((cipherOwner_opens c b single n m1 s1 hmay).trans (runStep_done ..))⟩
  case continues =>
    exact Does.plaza (fun _ _ _ => rfl) fun c b _ hmeets =>
      ⟨hmeets.1, thenFree_congr ((cipherOwner_continues c b final m hmeets).trans (runStep_done ..))⟩

/-! ### When a reset happens -/

theorem resetn_long {lowNs : Nat} {strap : Bool} {s : State} (hext : s.sec.extest = false) (hlong : 10000 ≤ lowNs) :
    resetn lowNs strap s = warmResetTo 2 none strap s := by
  have hshort : ¬lowNs < 1000 := by omega
  simp [resetn, hext, hlong, hshort]

theorem resetn_short {lowNs : Nat} {strap : Bool} {s : State} (hshort : lowNs < 1000) : resetn lowNs strap s = s := by
  simp [resetn, hshort]

theorem warmReset_taken {d : ResetDue} {s : State} (hdue : s.plaza.resetDue = some d) (htaken : d.upTo ≤ ((s.port d.port).lanes[laneResp]).out) :
    warmReset s = warmResetTo 3 none (strapLevel s) s := by
  simp only [warmReset, hdue, htaken, decide_true, Bool.true_or, if_true]

theorem warmReset_waited {d : ResetDue} {since : DWord} {s : State} (hdue : s.plaza.resetDue = some d) (hplaced : d.placed = some since)
    (hlong : elapsedBy since s.elapsed.now (msU 1) = true) : warmReset s = warmResetTo 3 none (strapLevel s) s := by
  simp [warmReset, hdue, hplaced, hlong]

theorem warmReset_waits {d : ResetDue} {s : State} (hdue : s.plaza.resetDue = some d)
    (htaken : ((s.port d.port).lanes[laneResp]).out < d.upTo) (hplaced : d.placed = none) : warmReset s = s := by
  have hnot : ¬d.upTo ≤ ((s.port d.port).lanes[laneResp]).out := Nat.not_le.mpr htaken
  simp only [warmReset, hdue, hplaced, hnot, decide_false, Bool.or_self, Bool.false_eq_true, if_false]

/-- Selecting EXTEST holds everything: nothing is usable that CRYPTO's domain feeds (R331). -/
theorem extest_selects {s : State} (hext : s.sec.extest = false) :
    (extest true s).sec.extest = true ∧ (extest true s).power.phase = .booting ∧ (extest true s).plaza.rdy = false ∧
    (extest true s).isUsable dCRYPTO = false := by
  have hdom (x : BitVec 12) : (x &&& ~~~domBit dCRYPTO).getLsbD dCRYPTO = false := by
    rw [BitVec.getLsbD_and]
    simp [domBit, dCRYPTO]
  simp [extest, hext, coreHold, State.isUsable, hdom]

/-- Settles O33. -/
theorem resetsAct : Obligations.ResetsAct := by
  refine ⟨fun _ => rfl, fun _ _ => rfl, fun lowNs strap s hext => ⟨?long, ?short⟩, ?taken, ?waited, ?waits, ?none, ?debug, ?leaves, ?selects,
    ?starts, ?stands⟩
  case long => exact fun hlong => congrArg Host.Outcome.next (resetn_long hext hlong)
  case short => exact fun hshort => congrArg Host.Outcome.next (resetn_short hshort)
  case taken => exact fun _ _ hdue htaken => congrArg Host.Outcome.next (warmReset_taken hdue htaken)
  case waited => exact fun _ _ _ hdue hplaced hlong => congrArg Host.Outcome.next (warmReset_waited hdue hplaced hlong)
  case waits => exact fun _ _ hdue htaken hplaced => congrArg Host.Outcome.next (warmReset_waits hdue htaken hplaced)
  case none => exact fun s hdue => congrArg Host.Outcome.next (by simp only [warmReset, hdue])
  case debug => exact fun s hawake hopen => congrArg Host.Outcome.next (if_pos (by simp [hawake, hopen]))
  case leaves => exact fun s hext => congrArg Host.Outcome.next (if_pos hext)
  case selects => exact fun s hext => ⟨_, rfl, extest_selects hext⟩
  case starts => exact fun s hdue hext => congrArg Host.Outcome.next (by simp [lfxoRunning, hdue, hext])
  case stands => exact fun s hdue => congrArg Host.Outcome.next (by simp [lfxoRunning, hdue])

/-! ### What the resets keep -/

theorem abandonFlash_eq (s : State) : ∃ fl r, abandonFlash s = { s with flash := fl, free := r } ∧
    fl.otp = s.flash.otp ∧ fl.bootCount = s.flash.bootCount ∧ fl.op = none := by
  obtain ⟨c, f, r, h⟩ := abandonFlash_onlyCells s
  exact ⟨_, r, h, rfl, rfl, rfl⟩

theorem cold_startsOver : coldResetStartsOver := by
  intro cause s
  obtain ⟨fl, r, hflash, hotp, hboot, hop⟩ := abandonFlash_eq { s with upd.trial := s.upd.trial.map fun (t : Trial) => { t with due := none } }
  simp [coldReset, coldState, drawBool, hflash, hotp, hboot, hop]

theorem warm_keepsTime : warmResetKeepsTime := by
  intro s
  obtain ⟨fl, r, hflash, hotp, -, -⟩ := abandonFlash_eq s
  have hledger : flushLedger { s with flash := fl, free := r } = flushLedger s := flushFrames_ledger _ _ _ rfl
  simp [warmState, hflash, hotp, lostFrames, hledger]

/-- Settles O34. -/
theorem resetsKeepAndClear : Obligations.ResetsKeepAndClear :=
  ⟨cold_startsOver, warm_keepsTime⟩

end Sys2Proof.ResetLaws

/-! The ADC, the DMA engine and the read-to-clear counts (O48). -/

namespace Sys2Proof.DmaLaws
open Sys2Proof.Machine Sys2Proof.Statements

/-! ### The ADC (R379, R380) -/

theorem adcTrigger_starts {s : State} (hen : bitAt s.peri.adc.ctrl 0 = true) (hkerb : s.isUsable dKERB = true) :
    adcTrigger s =
      let a := s.peri.adc
      let a1 : Adc := if a.busy = none then { a with busy := some 0, delayed := false }
        else if a.pend = false then { a with pend := true } else { a with trigLost := satInc16 a.trigLost, lostSeen := true }
      { s with peri.adc := a1 } := by
  cases hbusy : s.peri.adc.busy with
  | none => simp [adcTrigger, hen, hkerb, hbusy]
  | some i => cases hpend : s.peri.adc.pend <;> simp [adcTrigger, hen, hkerb, hbusy, hpend]

theorem adcData_takes {r : BitVec 18} {rest : List (BitVec 18)} {s : State} (hfifo : s.peri.adc.fifo = r :: rest) :
    adcData s = (r.setWidth 32, { s with peri.adc.fifo := rest }) := by
  simp only [adcData, hfifo]

/-- A conversion that is not a die-temperature sample changes the ADC alone. -/
theorem adcConversionEnd_places {i : Nat} {r : BitVec 12} {n : Sensors} {s : State} (hbusy : s.peri.adc.busy = some i)
    (hperi : s.isUsable dPERI = true) (hkerb : s.isUsable dKERB = true) (hawake : s.awake = true) (hch : adcChannel s.peri.adc i ≠ 8) :
    adcConversionEnd r n s =
      let a := s.peri.adc
      let a1 : Adc := if a.fifo.length < 8 then { a with fifo := a.fifo ++ [BitVec.ofNat 18 (BitVec.toNat r + adcChannel a i * 2 ^ 12 + 2 ^ 16 + b2n a.delayed * 2 ^ 17)] } else { a with resLost := satInc16 a.resLost, lostSeen := true }
      let a2 : Adc := if i < fld a.seq 17 16 then { a1 with busy := some (i + 1) }
        else if a.pend = true then { a1 with busy := some 0, pend := false, delayed := false }
        else { a1 with busy := none, delayed := false }
      { s with peri.adc := a2 } := by
  simp only [adcConversionEnd, hbusy, hperi, hkerb, hawake, hch, Bool.and_self, Bool.not_true, Bool.false_eq_true, if_false]
  by_cases hroom : s.peri.adc.fifo.length < 8 <;> simp only [hroom, if_true, if_false, Nat.reducePow]

/-! ### Writes of a channel's control word (R381, R385) -/

theorem abort_ctrl (c : Word) : ((c ||| 2#32) &&& 0x1FFC#32) ||| W (b2n false) = c &&& 0x1FFC#32 := by
  rw [BitVec.and_or_distrib_right]
  simp [W, b2n]

theorem enable_ctrl (c : Word) : ((c ||| 1#32) &&& 0x1FFC#32) ||| W (b2n true) = (c &&& 0x1FFC#32) ||| 1#32 := by
  rw [BitVec.and_or_distrib_right]
  simp [W, b2n]

theorem abort_bit (c : Word) : bitAt (c ||| 2#32) 1 = true := by
  simp [bitAt]

theorem enable_bits {c : Word} (h : bitAt c 1 = false) : bitAt (c ||| 1#32) 1 = false ∧ bitAt (c ||| 1#32) 0 = true := by
  simpa [bitAt] using h

theorem dmaAbort_stopped {ch : Fin 16} {s : State} (hoff : bitAt s.peri.dma[ch].ctrl 0 = false) :
    writeChCtrl ch (s.peri.dma[ch].ctrl ||| 2#32) s =
      { s with peri.dma := s.peri.dma.set ch { s.peri.dma[ch] with ctrl := s.peri.dma[ch].ctrl &&& 0x1FFC#32 } } := by
  simp only [writeChCtrl, abort_bit, hoff, abort_ctrl, Bool.false_eq_true, if_false, if_true, setCh]

theorem dmaAbort_running {ch : Fin 16} {s : State} (hon : bitAt s.peri.dma[ch].ctrl 0 = true) :
    writeChCtrl ch (s.peri.dma[ch].ctrl ||| 2#32) s =
      setCh ch (fun k => { k with ctrl := s.peri.dma[ch].ctrl &&& 0x1FFC#32 }) (dmaStop ch 0 true (dmaWriteBack ch 3 s)) := by
  simp only [writeChCtrl, abort_bit, hon, abort_ctrl, if_true, dmaHalt]

theorem setCh_setCh (ch : Fin 16) (f g : DmaCh → DmaCh) (s : State) : setCh ch g (setCh ch f s) = setCh ch (fun c => g (f c)) s := by
  simp only [setCh, Fin.getElem_fin, Vector.getElem_set_self, Vector.set_set]

theorem channelEnable_arms {ch : Fin 16} {ctrl : Word} {s : State} (hoff : bitAt s.peri.dma[ch].ctrl 0 = false) (hctrl : bitAt ctrl 1 = false) :
    writeChCtrl ch (ctrl ||| 1#32) s = dmaLoad ch s.peri.dma[ch].desc
      (setCh ch (fun c => { c with ctrl := (ctrl &&& 0x1FFC#32) ||| 1#32, halted := false, err := 0, total := 0 }) s) := by
  obtain ⟨habort, harm⟩ := enable_bits hctrl
  simp only [writeChCtrl, habort, harm, hoff, enable_ctrl, Bool.false_eq_true, if_false, if_true, setCh_setCh]

/-! ### Which channel is served (R386) -/

theorem prio_le_foldl_max (p : Fin 16 → Nat) (l : List (Fin 16)) (m : Nat) :
    m ≤ l.foldl (fun m ch => max m (p ch)) m ∧ ∀ k ∈ l, p k ≤ l.foldl (fun m ch => max m (p ch)) m := by
  induction l generalizing m with
  | nil => exact ⟨le_rfl, fun _ h => nomatch h⟩
  | cons a rest ih =>
    obtain ⟨hstart, hrest⟩ := ih (max m (p a))
    refine ⟨(le_max_left _ _).trans hstart, fun k hk => ?_⟩
    obtain rfl | hk := List.mem_cons.mp hk
    · exact (le_max_right _ _).trans hstart
    · exact hrest k hk

/-- The order of turns names every channel. -/
theorem mem_turns (last k : Fin 16) : k ∈ (List.finRange 16).map fun (i : Fin 16) => last + i + 1 :=
  List.mem_map.mpr ⟨k - last - 1, List.mem_finRange _, by rw [add_assoc, sub_add_cancel, add_sub_cancel]⟩

/-- What the channel that is picked satisfies: it is one of the best, and in the midst of a burst if one of them is. -/
theorem dmaPick_spec {s : State} {ch : Fin 16} (hpick : dmaPick (fun _ => true) s = some ch) :
    dmaWork s ch = true ∧ ∀ k : Fin 16, dmaWork s k = true →
      s.peri.dma[k].prio ≤ s.peri.dma[ch].prio ∧
      (s.peri.dma[k].prio = s.peri.dma[ch].prio → 0 < s.peri.dma[k].burstLeft → 0 < s.peri.dma[ch].burstLeft) := by
  unfold dmaPick at hpick
  extract_lets order ws top best at hpick
  have hworks (k : Fin 16) : k ∈ ws ↔ dmaWork s k = true := by
    simp only [ws, order, List.mem_filter, mem_turns, true_and, Bool.true_and]
  have hbest (k : Fin 16) : k ∈ best ↔ dmaWork s k = true ∧ s.peri.dma[k].prio = top := by
    simp only [best, List.mem_filter, hworks, decide_eq_true_eq]
  have hchosen : ch ∈ best ∧ ∀ k ∈ best, 0 < s.peri.dma[k].burstLeft → 0 < s.peri.dma[ch].burstLeft := by
    split at hpick
    next c hfound =>
      obtain rfl : c = ch := Option.some.inj hpick
      exact ⟨List.mem_of_find?_eq_some hfound, fun _ _ _ => by simpa using List.find?_some hfound⟩
    next hnone =>
      exact ⟨List.mem_of_mem_head? hpick, fun k hk hleft => absurd (decide_eq_true hleft) (List.find?_eq_none.mp hnone k hk)⟩
  obtain ⟨hmem, hburst⟩ := hchosen
  obtain ⟨hwork, htop⟩ := (hbest ch).mp hmem
  refine ⟨hwork, fun k hk => ⟨?_, fun heq => hburst k ((hbest k).mpr ⟨hk, heq.trans htop⟩)⟩⟩
  rw [htop]
  exact (prio_le_foldl_max (fun c => s.peri.dma[c].prio) ws 0).2 k ((hworks k).mpr hk)

/-! ### A burst, and the registers' side effects -/

theorem pageReadAs_open {d : Nat} {f : State → Word × State} {s : State} (hopen : pageOpen s d = true) :
    pageReadAs d f s = busOut (f s).1 (f s).2 := if_pos hopen

theorem dmaBurst_none {s : State} (h : s.peri.dmaEn = false ∨ dmaPick (fun _ => true) s = none) : dmaBurst s = s := by
  obtain h | h := h <;> simp [dmaBurst, h]

theorem dmaBurst_serves {ch : Fin 16} {s : State} (hawake : s.awake = true) (hperi : s.isUsable dPERI = true) (hen : s.peri.dmaEn = true)
    (hpick : dmaPick (fun _ => true) s = some ch) :
    dmaBurst s =
      let c := s.peri.dma[ch]
      let n := if 0 < c.burstLeft then c.burstLeft else if c.serving = true ∧ c.block = true then c.left.toNat else c.burst
      let r := dmaItems ch c.serving n { s with peri.dmaLast := ch }
      let t := setCh ch (fun k => { k with burstLeft := if bitAt k.ctrl 0 then r.2 else 0 }) r.1
      if r.2 = 0 ∧ c.serving = true ∧ bitAt t.peri.dma[ch].ctrl 0 = true then
        setCh ch (fun k => { k with serving := k.pend, pend := false }) t else t := by
  simp only [dmaBurst, hawake, hperi, hen, hpick, Bool.and_self, Bool.not_true, Bool.false_eq_true, if_false, Bool.and_eq_true,
    decide_eq_true_eq, and_assoc]

/-- A trigger by register: held by a running Kerb, lost when one is already held (R447). -/
theorem kerbTrigger_kerb (s : State) : (kerbTrigger s).kerb =
    if s.kerb.running then (if s.kerb.held then { s.kerb with trigLost := satInc16 s.kerb.trigLost } else { s.kerb with held := true })
    else s.kerb := by
  cases hrun : s.kerb.running <;> cases hheld : s.kerb.held <;> simp [kerbTrigger, hrun, hheld]

theorem converter_and_dma_act : converterAndDmaAct := by
  refine ⟨?start, fun s hopen => ⟨?data, ?lost⟩, ?conversion, fun s hopen => ⟨?swreq, fun ch => ⟨?status, ?abort, ?abortRun, ?enable⟩⟩,
    ?noBurst, ?burst, fun s hopen => ⟨?stopped, ?held, ?trigLost, ?trigs, ?decided⟩, ?pmu⟩
  case start => exact fun s hopen hen hkerb => congrArg Host.Outcome.next ((if_pos hopen).trans (adcTrigger_starts hen hkerb))
  case data =>
    intro r rest hfifo
    exact congrArg Host.Outcome.next ((pageReadAs_open hopen).trans (by rw [adcData_takes hfifo]))
  case lost => exact congrArg Host.Outcome.next (pageReadAs_open hopen)
  case conversion =>
    exact fun i r n s hbusy hperi hkerb hawake hch => congrArg Host.Outcome.next (adcConversionEnd_places hbusy hperi hkerb hawake hch)
  case swreq => exact fun w => congrArg Host.Outcome.next (if_pos hopen)
  case status => exact congrArg Host.Outcome.next (pageReadAs_open hopen)
  case abort => exact fun hoff => congrArg Host.Outcome.next ((if_pos hopen).trans (dmaAbort_stopped hoff))
  case abortRun => exact fun hon => congrArg Host.Outcome.next ((if_pos hopen).trans (dmaAbort_running hon))
  case enable => exact fun ctrl hoff hctrl => congrArg Host.Outcome.next ((if_pos hopen).trans (channelEnable_arms hoff hctrl))
  case noBurst => exact fun s h => congrArg Host.Outcome.next (dmaBurst_none h)
  case burst => exact fun ch s hawake hperi hen hpick => congrArg Host.Outcome.next (dmaBurst_serves hawake hperi hen hpick)
  case stopped =>
    intro hrun
    refine ⟨_, congrArg Host.Outcome.next (if_pos hopen), ?_⟩
    simp [kerbSync, kerbTrigger_kerb, hrun]
  case held =>
    intro hrun hheld
    refine ⟨_, congrArg Host.Outcome.next (if_pos hopen), ?_⟩
    simp [kerbSync, kerbTrigger_kerb, hrun, hheld]
  case trigLost =>
    intro hrun hheld
    refine ⟨_, congrArg Host.Outcome.next (if_pos hopen), ?_⟩
    simp [kerbSync, kerbTrigger_kerb, hrun, hheld]
  case trigs => exact congrArg Host.Outcome.next (pageReadAs_open hopen)
  case decided => exact congrArg Host.Outcome.next (pageReadAs_open hopen)
  case pmu => exact fun s hopen => congrArg Host.Outcome.next (pageReadAs_open hopen)

/-- Settles O48. -/
theorem converterAndDmaAct : Obligations.ConverterAndDmaAct :=
  ⟨converter_and_dma_act, fun _ _ => dmaPick_spec⟩

end Sys2Proof.DmaLaws

/-! The system and the power commands (O14). -/

namespace Sys2Proof.SystemLaws
open Sys2Proof.Machine Sys2Proof.Statements Sys2Proof.CommandRules

/-! ### The system commands (R95, R246, R247, R307, R449) -/

theorem devInfoRun_eq (c : Cmd) (b : State) :
    devInfoRun c b = .ok ([W (b.power.variant.toNat + 0x0B * 256 + lifecycleCode b.lifecycle * 65536 + b2n b.flash.hostApp * 262144),
      lo32 b.eui, hi32 b.eui, ((activeImage b).map (·.linkVersion)).getD 0, ((activeImage b).map (·.appVersion)).getD 0], b) := by
  unfold devInfoRun
  cases activeImage b <;> rfl

/-- The scope that LEDGER_READ names (R308). -/
theorem ledgerReadRun_eq {c : Cmd} {b : State} {k : Nat} (hk : k < 3) (hps : c.ps = [W k]) :
    ledgerReadRun c b = .ok (ledgerWords (if k = 0 then b.ledger.app.add b.ledger.fw else if k = 1 then b.ledger.app else b.ledger.fw), b) := by
  unfold ledgerReadRun
  rw [hps]
  interval_cases k <;> rfl

/-- A group's number, alone or with the bit that clears it. -/
theorem statsReadRun_eq {c : Cmd} {b : State} {g : Nat} (clear : Bool) (hg : g ≤ 4) (hblvd : g = 1 → b.is20 = false)
    (hps : c.ps = [W (g + if clear then 8 else 0)]) :
    statsReadRun c b = .ok (statsWords g b, if clear then clearStats g b else b) := by
  have hpar : param c.ps 1 = W (g + if clear then 8 else 0) := by rw [hps]; rfl
  have hgroup : fld (W (g + if clear then 8 else 0)) 2 0 = g := by cases clear <;> interval_cases g <;> rfl
  have honly : onlyBits (W (g + if clear then 8 else 0)) 0xF#32 = true := by cases clear <;> interval_cases g <;> rfl
  have hbit : bitAt (W (g + if clear then 8 else 0)) 3 = clear := by cases clear <;> interval_cases g <;> rfl
  have hon : (decide (g = 1) && b.is20) = false := by simpa using hblvd
  have hnot : ¬4 < g := Nat.not_lt.mpr hg
  simp only [statsReadRun, hpar, hgroup, honly, hbit, hon, hnot, firstFail, Bool.not_true, decide_false, Bool.or_self, Bool.false_eq_true, if_false]

theorem onlyBits_of_le_one {w : Word} (h : w ≤ 1#32) : onlyBits w 1#32 = true ∧ bitAt w 0 = decide (w = 1#32) := by
  have hw : w = 0#32 ∨ w = 1#32 := by
    have : w.toNat ≤ 1 := by simpa [BitVec.le_def] using h
    rcases Nat.le_one_iff_eq_zero_or_eq_one.mp this with h0 | h1
    · exact .inl (BitVec.eq_of_toNat_eq h0)
    · exact .inr (BitVec.eq_of_toNat_eq h1)
  obtain rfl | rfl := hw <;> exact ⟨rfl, rfl⟩

theorem eventMaskRun_sets {c : Cmd} {b : State} (hmask : maskOf c.ps &&& ~~~definedEvents = 0#256) (h9 : param c.ps 9 ≤ 1#32) :
    eventMaskRun c b = .ok ([], b.setPort c.port { b.port c.port with mask := maskOf c.ps, diagEn := param c.ps 9 = 1#32 }) := by
  obtain ⟨honly, hbit⟩ := onlyBits_of_le_one h9
  rw [eventMaskRun_ok c b (by simp [hmask]) honly, hbit]

theorem system_commands_answer : systemCommandsAnswer := by
  refine ⟨?ping, ?info, ?reset, ?both, ?app, ?fw, ?stats, ?cleared, ?mask, ?telemetry⟩
  case ping => exact answers_of_immediate (fun _ _ => rfl) fun c b hlen => ⟨decide_eq_true hlen, rfl⟩
  case info => exact answers_of_immediate (fun _ _ => rfl) fun c b hlen => ⟨lenIs_of hlen, devInfoRun_eq c b⟩
  case reset => exact answers_of_immediate (fun _ _ => rfl) fun c b hlen => ⟨lenIs_of hlen, rfl⟩
  case both =>
    exact answers_of_immediate (fun _ _ => rfl) fun c b hps => ⟨lenIs_of (by rw [hps]; rfl), ledgerReadRun_eq (k := 0) (by decide) hps⟩
  case app =>
    exact answers_of_immediate (fun _ _ => rfl) fun c b hps => ⟨lenIs_of (by rw [hps]; rfl), ledgerReadRun_eq (k := 1) (by decide) hps⟩
  case fw =>
    exact answers_of_immediate (fun _ _ => rfl) fun c b hps => ⟨lenIs_of (by rw [hps]; rfl), ledgerReadRun_eq (k := 2) (by decide) hps⟩
  case stats =>
    refine answers_of_immediate (fun _ _ => rfl) fun c b ⟨g, hg, hblvd, hps⟩ => ⟨lenIs_of (by rw [hps]; rfl), ?_⟩
    rw [statsReadRun_eq false hg hblvd hps, hps]
    exact congrArg (fun n => Except.ok (statsWords n b, b)) (W_toNat g (by omega)).symm
  case cleared =>
    refine answers_of_immediate (fun _ _ => rfl) fun c b ⟨g, hg, hblvd, hps⟩ => ⟨lenIs_of (by rw [hps]; rfl), ?_⟩
    rw [statsReadRun_eq true hg hblvd hps, hps]
    have hgroup : (W (g + 8)).toNat - 8 = g := by rw [W_toNat _ (by omega), Nat.add_sub_cancel]
    exact congrArg (fun n => Except.ok (statsWords n b, clearStats n b)) hgroup.symm
  case mask =>
    exact answers_of_immediate (fun _ _ => rfl) fun c b ⟨hlen, hmask, h9⟩ => ⟨lenIs_of hlen, eventMaskRun_sets hmask h9⟩
  case telemetry => exact answers_of_immediate (fun _ _ => rfl) fun c b hlen => ⟨lenIs_of hlen, rfl⟩

/-! ### The power commands (R420 to R435) -/

theorem stopEnterDo_enters {c : Cmd} {b : State} (hbusy : stopBusy b = false) (hwarn : b.power.bodWarn = false) (hkeep : noKeeping b = false)
    (hwake : canWake b = true) :
    stopEnterDo c b =
      let kept := budgetWrite (if b.isUsable dXMEM then flushDirty 0 (2 ^ 24) b else b)
      finish c .ok [] { kept with
        power.phase := .entering, power.stopPort := some c.port, power.heldWake := 0, power.heldDetail := 0 } := by
  simp only [stopEnterDo, hbusy, hwarn, hkeep, hwake, firstFail, Bool.not_true, Bool.false_eq_true, if_false]

/-- During a handover a DOMAIN_SET with steps of link firmware waits (R12). -/
theorem domainSetDo_waits {c : Cmd} {b : State} (hhand : b.upd.hand ≠ none)
    (hsteps : bitAt (param c.ps 1) dXMEM = true ∨ (bitAt (param c.ps 1) dRFFE = true ∧ bitAt (param c.ps 1) 12 = true)) :
    domainSetDo c b = { b with upd.hand := b.upd.hand.map fun h =>
      { h with domainSets := h.domainSets ++ [(c.port, c.tag, param c.ps 1)] } } := by
  obtain ⟨h, hh⟩ := Option.ne_none_iff_exists'.mp hhand
  have hsteps' : (bitAt (param c.ps 1) dXMEM || (bitAt (param c.ps 1) dRFFE && bitAt (param c.ps 1) 12)) = true := by
    simpa using hsteps
  simp only [domainSetDo, hh, hsteps', if_true, Option.map_some]

/-- A bit of the domains that a DOMAIN_SET names. -/
theorem setWidth_bit (w : Word) {n : Nat} (hn : n < 12) : (w.setWidth 12).getLsbD n = bitAt w n := by
  rw [bitAt_eq, BitVec.getLsbD_setWidth, decide_eq_true hn, Bool.true_and]

theorem domainSetNow_on {c : Cmd} {b : State} (honly : onlyBits (param c.ps 1) 0x1FFE#32 = true) (hon : bitAt (param c.ps 1) 12 = true)
    (hsome : (param c.ps 1).setWidth 12 ≠ 0#12) (hpresent : (param c.ps 1).setWidth 12 &&& ~~~b.present = 0#12)
    (hclosed : closed (b.power.domains ||| (param c.ps 1).setWidth 12) = true) (hpoint : bitAt (param c.ps 1) dBLVD = true → b.power.lp = false) :
    domainSetNow c b = answerDomains { b with
      power.domains := b.power.domains ||| (param c.ps 1).setWidth 12
      power.onAt := stampOn ((b.power.domains ||| (param c.ps 1).setWidth 12) &&& ~~~b.power.domains) b
      power.domainOps := b.power.domainOps ++ [⟨c.port, c.tag, (param c.ps 1).setWidth 12⟩] } := by
  have hwide : onlyBits (param c.ps 1) 0x3FFF#32 = true := only_mono honly rfl
  have hforce : bitAt (param c.ps 1) 13 = false := bit_of_only honly 13 rfl
  have hcore : ((param c.ps 1).setWidth 12).getLsbD 0 = false := (setWidth_bit _ (by decide)).trans (bit_of_only honly 0 rfl)
  have hlp : (((param c.ps 1).setWidth 12).getLsbD dBLVD && b.power.lp) = false := by
    rw [setWidth_bit _ (by decide)]
    simpa using hpoint
  simp only [domainSetNow, hwide, hon, hforce, hcore, hsome, hpresent, hclosed, hlp, firstFail, Bool.not_true, Bool.true_and, Bool.false_and,
    ne_eq, not_true, decide_false, Bool.or_self, Bool.false_eq_true, if_false, if_true]

theorem domainSetNow_off {c : Cmd} {b : State} (honly : onlyBits (param c.ps 1) 0xFF2#32 = true) (hsome : (param c.ps 1).setWidth 12 ≠ 0#12)
    (happ : bitAt (param c.ps 1) dAPP = true → b.flash.hostApp = false)
    (hclosed : closed (b.power.domains &&& ~~~(param c.ps 1).setWidth 12) = true)
    (hfree : ∀ n < 12, ((param c.ps 1).setWidth 12 &&& b.power.domains).getLsbD n = true →
      domainBusy n b = false ∧ ∀ ch, dmaUses b n ch = false) :
    domainSetNow c b = finish c .ok (domainWords 0 (answerDomains (switchOff ((param c.ps 1).setWidth 12) b)))
      (answerDomains (switchOff ((param c.ps 1).setWidth 12) b)) := by
  have hwide : onlyBits (param c.ps 1) 0x3FFF#32 = true := only_mono honly rfl
  have hon : bitAt (param c.ps 1) 12 = false := bit_of_only honly 12 rfl
  have hforce : bitAt (param c.ps 1) 13 = false := bit_of_only honly 13 rfl
  have hbit (n : Nat) (hn : n < 12) (hm : (0xFF2#32 : Word).getLsbD n = false) : ((param c.ps 1).setWidth 12).getLsbD n = false :=
    (setWidth_bit _ hn).trans (bit_of_only honly n hm)
  have hhost : (((param c.ps 1).setWidth 12).getLsbD dAPP && b.flash.hostApp) = false := by
    rw [setWidth_bit _ (by decide)]
    simpa using happ
  have hbusy : ((List.range 12).any fun n => ((param c.ps 1).setWidth 12 &&& b.power.domains).getLsbD n && domainBusy n b) = false := by
    simp only [List.any_eq_false, List.mem_range, Bool.and_eq_true, not_and, Bool.not_eq_true]
    exact fun n hn hgoing => (hfree n hn hgoing).1
  have hdma : ((List.finRange 16).filter fun ch => (List.range 12).any fun n =>
      ((param c.ps 1).setWidth 12 &&& b.power.domains).getLsbD n && dmaUses b n ch) = [] := by
    simp only [List.filter_eq_nil_iff, List.any_eq_true, List.mem_range, Bool.and_eq_true, not_exists, not_and, Bool.not_eq_true]
    exact fun ch _ n hn hgoing => (hfree n hn hgoing).2 ch
  simp only [domainSetNow, hwide, hon, hforce, hbit 0 (by decide) rfl, hbit dFLASH (by decide) rfl, hbit dLINK (by decide) rfl, hsome, hhost, hclosed,
    hbusy, hdma, firstFail, List.isEmpty_nil, List.length_nil, List.foldl_nil, Bool.not_true, Bool.not_false, Bool.true_and, Bool.false_and,
    decide_false, Bool.or_self, Bool.false_eq_true, if_false]

theorem wakeArmRun_arms {c : Cmd} {b : State} (h1 : onlyBits (param c.ps 1) 0x3FFF#32 = true) (h2 : onlyBits (param c.ps 2) 0xFFFF#32 = true) :
    wakeArmRun c b = .ok ([], { b with power.wakeArm := (param c.ps 1).setWidth 14, power.kerbCodes := (param c.ps 2).setWidth 16 }) := by
  simp only [wakeArmRun, h1, h2, Bool.not_true, Bool.or_self, Bool.false_eq_true, if_false]

theorem padReleaseRun_present {c : Cmd} {b : State}
    (h : ∀ k ∈ allPins, (mk64 (param c.ps 1) (param c.ps 2)).getLsbD k = true → pinPresent b k.val = true) :
    padReleaseRun c b =
      let t := if b.isUsable dPERI then withEdges (fun x => { x with
        pads.latched := x.pads.latched &&& ~~~mk64 (param c.ps 1) (param c.ps 2) }) b else b
      .ok (words64 t.pads.latched, t) := by
  have hpins : (allPins.any fun k => (mk64 (param c.ps 1) (param c.ps 2)).getLsbD k && !pinPresent b k.val) = false := by
    simp only [List.any_eq_false, Bool.and_eq_true, not_and, Bool.not_eq_true', Bool.not_eq_false]
    exact h
  simp only [padReleaseRun, hpins, Bool.false_eq_true, if_false]

theorem onlyBits_flag (q : Bool) : onlyBits (W (b2n q)) 1#32 = true := by cases q <;> rfl

theorem bitAt_flag (q : Bool) : bitAt (W (b2n q)) 0 = q := by cases q <;> rfl

theorem oppointSetDo_same {c : Cmd} {b : State} (hps : c.ps = [W (b2n b.power.lp)]) (hwait : b.power.oppWait = none) :
    oppointSetDo c b = finish c .ok [] b := by
  have hpar : param c.ps 1 = W (b2n b.power.lp) := by rw [hps]; rfl
  simp only [oppointSetDo, hpar, onlyBits_flag, bitAt_flag, hwait, Option.isSome_none, Bool.not_true, Bool.false_eq_true, if_false, if_true]

theorem oppointSetDo_other {c : Cmd} {b : State} (hps : c.ps = [W (b2n !b.power.lp)]) (hwait : b.power.oppWait = none)
    (hblvd : b.power.lp = false → b.on dBLVD = false) :
    oppointSetDo c b = { b with power.oppWait := some (c.port, c.tag, !b.power.lp, b.elapsed.now) } := by
  have hpar : param c.ps 1 = W (b2n !b.power.lp) := by rw [hps]; rfl
  have hoff : ((!b.power.lp) && b.on dBLVD) = false := by simpa using hblvd
  have hother : ¬(!b.power.lp) = b.power.lp := by simp
  simp only [oppointSetDo, hpar, onlyBits_flag, bitAt_flag, hwait, hoff, hother, Option.isSome_none, Bool.not_true, Bool.false_eq_true, if_false]

theorem bodConfigRun_sets {c : Cmd} {b : State} (h : (param c.ps 1).toNat ≤ 16) :
    bodConfigRun c b = .ok ([], { b with power.bodLevel := (param c.ps 1).setWidth 5 }) := by
  have honly : onlyBits (param c.ps 1) 0x1F#32 = true := small_only (n := 5) (by omega) (by decide)
  have hnot : ¬16 < (param c.ps 1).toNat := Nat.not_lt.mpr h
  simp only [bodConfigRun, honly, hnot, decide_false, Bool.not_true, Bool.or_self, Bool.false_eq_true, if_false]

theorem retainSetRun_sets {c : Cmd} {b : State} (honly : onlyBits (param c.ps 1) 0xFFFF#32 = true)
    (hbanks : (param c.ps 1).setWidth 16 &&& ~~~b.bankMask = 0#16) :
    retainSetRun c b = .ok ([((param c.ps 1).setWidth 16 ||| b.saveBanks).setWidth 32], { b with power.retain := (param c.ps 1).setWidth 16 }) := by
  simp only [retainSetRun, honly, hbanks, ne_eq, not_true, decide_false, Bool.not_true, Bool.or_self, Bool.false_eq_true, if_false]

theorem power_commands_answer : powerCommandsAnswer := by
  refine ⟨?stop, ?waits, ?switchOn, ?switchOff, ?wakeArm, ?record, ?padsOff, ?pads, ?samePoint, ?otherPoint, ?bod, ?retain⟩
  case stop =>
    exact does_of_owner (fun _ _ => rfl) fun c b ⟨hlen, hbusy, hwarn, hkeep, hwake⟩ =>
      ⟨lenIs_of hlen, stopEnterDo_enters hbusy hwarn hkeep hwake⟩
  case waits =>
    exact does_of_owner (fun _ _ => rfl) fun c b ⟨hlen, hhand, hsteps⟩ => ⟨lenIs_of hlen, domainSetDo_waits hhand hsteps⟩
  case switchOn =>
    exact does_of_owner (fun _ _ => rfl) fun c b ⟨hlen, hhand, honly, hon, hsome, hpresent, hclosed, hpoint⟩ =>
      ⟨lenIs_of hlen, (LinkKeeping.domainSetDo_no_handover c hhand).trans (domainSetNow_on honly hon hsome hpresent hclosed hpoint)⟩
  case switchOff =>
    exact does_of_owner (fun _ _ => rfl) fun c b ⟨hlen, hhand, honly, hsome, happ, hclosed, hfree⟩ =>
      ⟨lenIs_of hlen, (LinkKeeping.domainSetDo_no_handover c hhand).trans (domainSetNow_off honly hsome happ hclosed hfree)⟩
  case wakeArm => exact answers_of_immediate (fun _ _ => rfl) fun c b ⟨hlen, h1, h2⟩ => ⟨lenIs_of hlen, wakeArmRun_arms h1 h2⟩
  case record => exact answers_of_immediate (fun _ _ => rfl) fun c b hlen => ⟨lenIs_of hlen, rfl⟩
  case padsOff =>
    exact answers_of_immediate (fun _ _ => rfl) fun c b ⟨hlen, hperi, hpins⟩ =>
      ⟨lenIs_of hlen, (padReleaseRun_present hpins).trans (by rw [hperi]; rfl)⟩
  case pads =>
    exact answers_of_immediate (fun _ _ => rfl) fun c b ⟨hlen, hperi, hpins⟩ =>
      ⟨lenIs_of hlen, (padReleaseRun_present hpins).trans (by rw [hperi]; rfl)⟩
  case samePoint =>
    exact does_of_owner (fun _ _ => rfl) fun c b ⟨hps, hwait⟩ => ⟨lenIs_of (by rw [hps]; rfl), oppointSetDo_same hps hwait⟩
  case otherPoint =>
    exact does_of_owner (fun _ _ => rfl) fun c b ⟨hps, hwait, hblvd⟩ => ⟨lenIs_of (by rw [hps]; rfl), oppointSetDo_other hps hwait hblvd⟩
  case bod => exact answers_of_immediate (fun _ _ => rfl) fun c b ⟨hlen, h⟩ => ⟨lenIs_of hlen, bodConfigRun_sets h⟩
  case retain =>
    exact answers_of_immediate (fun _ _ => rfl) fun c b ⟨hlen, honly, hbanks⟩ => ⟨lenIs_of hlen, retainSetRun_sets honly hbanks⟩

/-- Settles O14. -/
theorem systemAndPowerCommandsAnswer : Obligations.SystemAndPowerCommandsAnswer :=
  ⟨system_commands_answer, power_commands_answer⟩

end Sys2Proof.SystemLaws

/-! The radio commands (O16). -/

namespace Sys2Proof.RadioLaws
open Sys2Proof.Machine Sys2Proof.Statements Sys2Proof.CommandRules

/-! ### CAL_RUN and CAL_READ (R116, R117) -/

theorem nonzero_of_pos {w : Word} (h : 1 ≤ w.toNat) : w ≠ 0#32 := by
  rintro rfl
  exact absurd h (by decide)

theorem calRunRun_accepted {c : Cmd} {b : State} (hon : b.isUsable dRFFE = true) (hsel : 1 ≤ (param c.ps 1).toNat) (hsel' : (param c.ps 1).toNat ≤ 15)
    (hwait : 1 ≤ (param c.ps 2).toNat) (hwait' : (param c.ps 2).toNat ≤ 65535) (hnone : b.radio.cal.calRun = none)
    (hroom : canAccept c.port b = true) :
    calRunRun c b =
      let h := takeHandle c.port b
      respondAccepted c h.1 { h.2 with
        radio.cal.due := h.2.radio.cal.due ||| (param c.ps 1).setWidth 4
        radio.cal.calRun := some { port := c.port, handle := h.1, select := (param c.ps 1).setWidth 4, since := b.elapsed.now,
                                   waitMax := (param c.ps 2).setWidth 16 } } := by
  have honly1 : onlyBits (param c.ps 1) 0xF#32 = true := small_only (n := 4) (by omega) (by decide)
  have honly2 : onlyBits (param c.ps 2) 0xFFFF#32 = true := small_only (n := 16) (by omega) (by decide)
  simp only [calRunRun, hon, honly1, honly2, nonzero_of_pos hsel, nonzero_of_pos hwait, hnone, hroom, firstFail, Option.isSome_none, decide_false,
    Bool.not_true, Bool.or_self, Bool.false_eq_true, if_false]

theorem calRun_open {p : Packet} {s : State} (hfree : waitsForCal 0x302 = true → s.radio.cal.full = false) :
    exec (.calRun p) s = .next (plazaRun 0x302 (lenIs 2) calRunRun p s) :=
  congrArg Host.Outcome.next (if_neg (by rw [hfree rfl]; exact Bool.false_ne_true))

/-- CAL_READ's first word and the time of the block's last run. -/
def calReadHead (k : Fin 4) (b : State) : List Word :=
  W (b2n b.radio.cal.results[0].valid + b2n b.radio.cal.results[1].valid * 2 + b2n b.radio.cal.results[2].valid * 4 +
      b2n b.radio.cal.results[3].valid * 8 + modeCode b.radio.mode * 16 + b2n b.radio.region.isSome * 128 +
      b.radio.cal.results[k].temp.toNat * 256 + ((b.radio.region.map (·.id.toNat)).getD 0) * 65536) ::
    words64 b.radio.cal.results[k].nt

theorem calReadRun_reads {c : Cmd} {b : State} {k : Fin 4} (hps : c.ps = [W k.val]) :
    calReadRun c b =
      let q := if b.radio.cal.results[k].valid then (b.radio.cal.results[k].words, b) else drawWords (blockLen k.val) b
      .ok (calReadHead k b ++ q.1, q.2) := by
  have hpar : param c.ps 1 = W k.val := by rw [hps]; rfl
  have honly : onlyBits (W k.val) 0x3#32 = true := by fin_cases k <;> rfl
  have hblock : Fin.ofNat 4 (fld (W k.val) 1 0) = k := by fin_cases k <;> rfl
  have hvalid : (List.finRange 4).foldl (fun a i => a + b2n b.radio.cal.results[i].valid * 2 ^ i.val) 0 =
      b2n b.radio.cal.results[0].valid + b2n b.radio.cal.results[1].valid * 2 + b2n b.radio.cal.results[2].valid * 4 +
      b2n b.radio.cal.results[3].valid * 8 := by
    have hrange : List.finRange 4 = [0, 1, 2, 3] := by decide
    simp [hrange]
  simp only [calReadRun, calReadHead, hpar, honly, hblock, hvalid, Bool.not_true, Bool.false_eq_true, if_false]
  cases b.radio.region <;> simp [b2n]

theorem calReadRun_valid {c : Cmd} {b : State} {k : Fin 4} (hps : c.ps = [W k.val]) (hvalid : b.radio.cal.results[k].valid = true) :
    calReadRun c b = .ok (calReadHead k b ++ b.radio.cal.results[k].words, b) := by
  rw [calReadRun_reads hps, hvalid]
  rfl

theorem calReadRun_unmeasured {c : Cmd} {b : State} {k : Fin 4} (hps : c.ps = [W k.val]) (hvalid : b.radio.cal.results[k].valid = false) :
    calReadRun c b = .ok (calReadHead k b ++ (drawWords (blockLen k.val) b).1, (drawWords (blockLen k.val) b).2) := by
  rw [calReadRun_reads hps, hvalid]
  rfl

/-! ### TXSHAPE_SET, FEM_SEQ_SET and REGION_LOAD (R118 to R122) -/

theorem txshapeSetRun_accepted {c : Cmd} {b : State} (honly : onlyBits (param c.ps 1) 0x011F0F1F#32 = true) (hramp : 2 ≤ fld (param c.ps 1) 4 0)
    (hramp' : fld (param c.ps 1) 4 0 ≤ 16) (hwin : fld (param c.ps 1) 11 8 ≤ 8) (htaper : fld (param c.ps 1) 20 16 ≤ 16)
    (hturns : turnsOk b.radio.fem (fld (param c.ps 1) 4 0) = true) (hair : txInFlight b = false) (hack : b.link.ackOnAir = none) :
    txshapeSetRun c b = .ok ([], { b with radio.shapeNext := some {
      rampUs := BitVec.ofNat 5 (fld (param c.ps 1) 4 0)
      ofdmWin := BitVec.ofNat 4 (fld (param c.ps 1) 11 8)
      chirpTaper := BitVec.ofNat 5 (fld (param c.ps 1) 20 16)
      fir := if bitAt (param c.ps 1) 24 then firOf (c.ps.drop 1) else (shapeFor b).fir } }) := by
  simp only [txshapeSetRun, honly, Nat.not_lt.mpr hramp, Nat.not_lt.mpr hramp', Nat.not_lt.mpr hwin, Nat.not_lt.mpr htaper, hturns, hair, hack,
    firstFail, Option.isSome_none, decide_false, Bool.not_true, Bool.or_self, Bool.false_eq_true, if_false]

theorem femSeqSetRun_loads {c : Cmd} {b : State} {f : Fem} (hfem : femOf c.ps b.radio.fem (rampUs b) = some f)
    (hidle : b.radio.mode = .off ∨ b.radio.mode = .idle) :
    femSeqSetRun c b = .ok ([], if fld (param c.ps 1) 2 0 = 4 then
      femPins (if b.radio.mode = .off then f.offLevel else f.idleLevel) { b with radio.fem := f } else { b with radio.fem := f }) := by
  have hbusy : (decide (b.radio.mode ≠ .off) && decide (b.radio.mode ≠ .idle)) = false := by
    obtain h | h := hidle <;> simp [h]
  simp only [femSeqSetRun, hfem, hbusy, Bool.false_eq_true, if_false]

theorem regionLoadRun_accepted {c : Cmd} {b : State} {r : Region} (hregion : regionOf c.ps = some r) (hframes : b.link.frames = []) :
    regionLoadRun c b = .ok ([], takeRegion c.ps r { b with
      radio.cal.due := b.radio.cal.due ||| 8#4, radio.cal.unchanged := false, upd.settings.region := some c.ps }) := by
  simp only [regionLoadRun, hregion, hframes, List.isEmpty_nil, Bool.not_true, Bool.false_eq_true, if_false]

/-- COUNT of a FEM_SEQ_SET. -/
def femLen (ps : List Word) : Bool :=
  if fld (param ps 1) 2 0 = 4 then ps.length = 2 else decide (1 ≤ ps.length) && ps.length = 1 + fld (param ps 1) 11 8

theorem femLen_sequence {ps : List Word} (hseq : fld (param ps 1) 2 0 < 4) (hlen : ps.length = 1 + fld (param ps 1) 11 8) : femLen ps = true := by
  have hnot : fld (param ps 1) 2 0 ≠ 4 := Nat.ne_of_lt hseq
  simp [femLen, hnot, hlen]

theorem femLen_levels {ps : List Word} (hseq : fld (param ps 1) 2 0 = 4) (hlen : ps.length = 2) : femLen ps = true := by
  simp [femLen, hseq, hlen]

/-- Settles O16. -/
theorem radioCommandsAnswer : Obligations.RadioCommandsAnswer := by
  refine ⟨fun r => ?config, ?calRun, fun k => ⟨?valid, ?unmeasured⟩, ?shape, fun f => ?sequence, fun f => ?levels, fun r => ?region⟩
  case config =>
    exact answers_of_radio (fun _ _ => rfl) rfl fun c b ⟨hlen, hfields⟩ => ⟨lenIs_of hlen, rfConfigRun_ok hfields⟩
  case calRun =>
    exact Does.plaza (fun _ _ => calRun_open) fun c b _ ⟨hlen, hon, hsel, hsel', hwait, hwait', hnone, hroom⟩ =>
      ⟨lenIs_of hlen, calRunRun_accepted hon hsel hsel' hwait hwait' hnone hroom⟩
  case valid =>
    exact answers_of_radio (fun _ _ => rfl) rfl fun c b ⟨hps, hvalid⟩ => ⟨lenIs_of (by rw [hps]; rfl), calReadRun_valid hps hvalid⟩
  case unmeasured =>
    exact answers_of_radio (fun _ _ => rfl) rfl fun c b ⟨hps, hvalid⟩ => ⟨lenIs_of (by rw [hps]; rfl), calReadRun_unmeasured hps hvalid⟩
  case shape =>
    exact answers_of_immediate (fun _ _ => rfl) fun c b ⟨hlen, honly, hramp, hramp', hwin, htaper, hturns, hair, hack⟩ =>
      ⟨decide_eq_true hlen, txshapeSetRun_accepted honly hramp hramp' hwin htaper hturns hair hack⟩
  case sequence =>
    refine answers_of_immediate (lenOk := femLen) (fun _ _ => rfl) fun c b ⟨hseq, hlen, hfem, hidle⟩ => ⟨femLen_sequence hseq hlen, ?_⟩
    rw [femSeqSetRun_loads hfem hidle, if_neg (Nat.ne_of_lt hseq)]
  case levels =>
    refine answers_of_immediate (lenOk := femLen) (fun _ _ => rfl) fun c b ⟨hseq, hlen, hfem, hidle⟩ => ⟨femLen_levels hseq hlen, ?_⟩
    rw [femSeqSetRun_loads hfem hidle, if_pos hseq]
    rfl
  case region =>
    refine answers_of_radio (fun _ _ => rfl) rfl fun c b ⟨hlen, hregion, hframes⟩ => ⟨?_, regionLoadRun_accepted hregion hframes⟩
    simp only [Bool.and_eq_true, decide_eq_true_eq]
    omega

end Sys2Proof.RadioLaws

/-! The modem's commands: profiles, maps, receptions, Lanes, transmissions (O17). -/

namespace Sys2Proof.ModemLaws
open Sys2Proof.Machine Sys2Proof.Statements Sys2Proof.CommandRules

/-! ### PHY_PROFILE_SET, LOADMAP_SET, BLVD_CONFIG (R188, R189, R216) -/

theorem phyProfileSetRun_sets {c : Cmd} {b : State} {r : Profile}
    (hfields : profileOf b.phy.profiles[Fin.ofNat 16 (fld (param c.ps 1) 3 0)] (param c.ps 1) (param c.ps 2) (param c.ps 3) = some r)
    (hfree : profileInUse b (Fin.ofNat 16 (fld (param c.ps 1) 3 0)) = false) :
    phyProfileSetRun c b =
      .ok ([], { b with phy.profiles := b.phy.profiles.set (Fin.ofNat 16 (fld (param c.ps 1) 3 0)) r }) := by
  simp only [phyProfileSetRun, hfields, hfree, Bool.false_and, Bool.false_eq_true, if_false]

theorem loadmapSetRun_loads {c : Cmd} {b : State} {maps : List (Nat × BitVec 288)} {id : BitVec 16}
    (hmaps : loadMaps c.ps b.phy.maps = some (maps, id)) (hwarn : b.power.bodWarn = false) :
    loadmapSetRun c b = .ok ([W (id.toNat + maps.length * 2 ^ 16)],
      let item : LibraryItem := ⟨maps, id, if bitAt (param c.ps 2) 16 || b.phy.maps.isEmpty then some c.ps else none⟩
      let loaded := setLibraryId id { b with phy.maps := maps }
      extendMr 3 0x32#8 (digestWords c.ps) { loaded with upd.settings.library := some item }) := by
  simp only [loadmapSetRun, hmaps, hwarn, Bool.false_eq_true, if_false]

theorem blvdConfigRun_sets {c : Cmd} {b : State} {plan : Plan} (hon : b.isUsable dBLVD = true) (hplan : planOf c.ps b = some plan)
    (hfree : b.rx.blvd = none) : blvdConfigRun c b = .ok ([], { b with rx.plan := some plan }) := by
  simp only [blvdConfigRun, hon, hplan, hfree, Option.isSome_none, Bool.not_true, Bool.false_eq_true, if_false]

/-! ### RX_START (R217) -/

theorem rxStartRun_alley {c : Cmd} {b : State} (honly : onlyBits (param c.ps 1) 0x7E#32 = true)
    (hdomains : ∀ d ∈ [dRFFE, dCRYPTO, dXMEM, dALLEY], b.isUsable d = true)
    (hofdm : b.phy.profiles[Fin.ofNat 16 (fld (param c.ps 1) 4 1)].ofdm = true → b.isUsable dOFDM = true)
    (hany : (b.phy.profiles[Fin.ofNat 16 (fld (param c.ps 1) 4 1)].ofdm && bitAt (param c.ps 1) 5) = false) (hfree : b.rx.alley = none)
    (hfits : ∀ plan, b.rx.plan = some plan → b.rx.blvd = none ∨
      alleyFits b.phy.profiles[Fin.ofNat 16 (fld (param c.ps 1) 4 1)] plan = true) :
    rxStartRun c b = .ok ([], retuneReceptions { b with rx.alley := some {
      port := c.port, profile := Fin.ofNat 16 (fld (param c.ps 1) 4 1), anyNet := bitAt (param c.ps 1) 5
      monitor := bitAt (param c.ps 1) 6 } }) := by
  have hpath : bitAt (param c.ps 1) 0 = false := bit_of_only honly 0 rfl
  have hwide : onlyBits (param c.ps 1) 0x7F#32 = true := only_mono honly rfl
  obtain ⟨hrffe, hcrypto, hxmem, halley⟩ : b.isUsable dRFFE = true ∧ b.isUsable dCRYPTO = true ∧ b.isUsable dXMEM = true ∧ b.isUsable dALLEY = true := by
    simpa using hdomains
  have hmodem : modemUsable b.phy.profiles[Fin.ofNat 16 (fld (param c.ps 1) 4 1)] b = true := by
    simp only [modemUsable, halley, Bool.true_and]
    simpa [Bool.or_eq_true, or_iff_not_imp_left] using hofdm
  have hsame : pathReception false b = none := hfree
  simp only [rxStartRun, hpath, hwide, hrffe, hcrypto, hxmem, hmodem, hany, hsame, firstFail, Option.isSome_none, Bool.and_self, Bool.not_true,
    Bool.not_false, Bool.true_and, Bool.false_and, Bool.or_self, Bool.false_eq_true, if_false]
  cases hplan : b.rx.plan with
  | none => rfl
  | some pl =>
    have hfit : (b.rx.blvd.isNone || alleyFits b.phy.profiles[Fin.ofNat 16 (fld (param c.ps 1) 4 1)] pl) = true := by
      simpa using hfits pl hplan
    simp only [hfit, Bool.not_true, Bool.false_eq_true, if_false]

/-- A plan without OFDM entries passes no test that chirp entries fail. -/
theorem any_eq_false_of_chirps {entries : List PlanEntry} {f : PlanEntry → Bool} (hno : ∀ width grid, PlanEntry.ofdm width grid ∉ entries)
    (hchirp : ∀ bw kmask any net offset, f (.chirp bw kmask any net offset) = false) : entries.any f = false := by
  refine List.any_eq_false.mpr fun e hmem => ?_
  cases e with
  | ofdm width grid => exact absurd hmem (hno width grid)
  | chirp bw kmask any net offset => exact (hchirp bw kmask any net offset) ▸ Bool.false_ne_true

theorem rxStartRun_boulevard {c : Cmd} {b : State} {plan : Plan} (hps : c.ps = [1] ∨ c.ps = [0x41])
    (hdomains : ∀ d ∈ [dRFFE, dCRYPTO, dXMEM, dBLVD], b.isUsable d = true)
    (hofdm : ∀ width grid, PlanEntry.ofdm width grid ∈ plan.entries → b.isUsable dOFDM = true) (hplan : b.rx.plan = some plan)
    (hfree : b.rx.blvd = none) (hfits : ∀ a, b.rx.alley = some a → alleyFits b.phy.profiles[a.profile] plan = true) :
    rxStartRun c b = .ok ([], retuneReceptions { b with
      rx.blvd := some { port := c.port, profile := 0, anyNet := false, monitor := bitAt (param c.ps 1) 6 }
      rx.gain := if plan.gainFixed then plan.gain else b.rx.gain
      radio.alleyGain := if plan.gainFixed then plan.gain else b.rx.gain }) := by
  obtain ⟨hpath, hwide, hprofile, hany⟩ : bitAt (param c.ps 1) 0 = true ∧ onlyBits (param c.ps 1) 0x7F#32 = true ∧
      (Fin.ofNat 16 (fld (param c.ps 1) 4 1) : Fin 16) = 0 ∧ bitAt (param c.ps 1) 5 = false := by
    obtain h | h := hps <;> rw [h] <;> decide
  obtain ⟨hrffe, hcrypto, hxmem, hblvd⟩ : b.isUsable dRFFE = true ∧ b.isUsable dCRYPTO = true ∧ b.isUsable dXMEM = true ∧ b.isUsable dBLVD = true := by
    simpa using hdomains
  have hsame : pathReception true b = none := hfree
  have hmodem : b.isUsable dOFDM = true ∨ ∀ width grid, PlanEntry.ofdm width grid ∉ plan.entries := by
    rw [or_iff_not_imp_left]
    exact fun hoff width grid hmem => hoff (hofdm width grid hmem)
  simp only [rxStartRun, hpath, hwide, hprofile, hany, hrffe, hcrypto, hxmem, hblvd, hplan, hsame, firstFail, Option.isSome_none,
    Option.isNone_some, Bool.and_self, Bool.true_and, Bool.not_true, Bool.false_and, Bool.or_self, ne_eq, not_true,
    decide_false, Bool.false_eq_true, if_false, if_true]
  obtain husable | hchirps := hmodem
  · cases halley : b.rx.alley <;> simp [-Fin.getElem_fin, husable, hfits, halley]
  · cases halley : b.rx.alley <;> simp [-Fin.getElem_fin, any_eq_false_of_chirps hchirps, hfits, halley]

/-! ### RX_STOP (R218) -/

/-- The contexts that an RX_STOP releases: the path's provisional ones, and without DRAIN its committed ones. -/
def stopReleases (boulevard drain : Bool) (id : CtxId) (x : Context) : Bool :=
  isBlvd id = boulevard && (x.provisional || (!drain && x.st = .committed))

theorem rxStopRun_stops {c : Cmd} {b : State} {boulevard drain : Bool} {r : Reception} (hps : c.ps = [W (b2n boulevard + b2n drain * 2)])
    (hpath : pathReception boulevard b = some r) (hlink : r.byLink = false) (hdrain : r.draining = none) :
    rxStopRun c b =
      let n := allCtxs.countP fun id => stopReleases boulevard drain id (ctxOf id b)
      let s1 := releaseWhere (stopReleases boulevard drain) .stopped b
      let left := allCtxs.countP fun id => isBlvd id = boulevard && (ctxOf id s1).st = .committed
      if left = 0 then finish c .ok [W n] (endReception boulevard s1)
      else if boulevard then { s1 with rx.blvd := some { r with draining := some (c.port, c.tag, n, left) } }
      else { s1 with rx.alley := some { r with draining := some (c.port, c.tag, n, left) } } := by
  have hpar : param c.ps 1 = W (b2n boulevard + b2n drain * 2) := by rw [hps]; rfl
  obtain ⟨honly, h0, h1⟩ : onlyBits (W (b2n boulevard + b2n drain * 2)) 0x3#32 = true ∧ bitAt (W (b2n boulevard + b2n drain * 2)) 0 = boulevard ∧
      bitAt (W (b2n boulevard + b2n drain * 2)) 1 = drain := by
    cases boulevard <;> cases drain <;> decide
  simp only [rxStopRun, hpar, honly, h0, h1, hpath, hlink, hdrain, Option.isSome_none, Bool.not_true, Bool.or_self, Bool.false_eq_true, if_false]
  rfl

/-! ### LANE_DROP (R78) -/

theorem laneDropRun_eq {c : Cmd} {b : State} {i : Fin 5} (hps : c.ps = [W (i.val + 1)]) :
    laneDropRun c b =
      let n := (b.port c.port).lanes[i].cursor
      if n = 0 then .ok ([0#32], b)
      else
        let s1 := iterate (dropWord c.port i) n b
        .ok ([W (n + 2 ^ 16)], if i = laneRxHigh ∨ i = laneRxLow then
          s1.setPort c.port { s1.port c.port with rxDropped := satInc (s1.port c.port).rxDropped } else s1) := by
  have hpar : param c.ps 1 = W (i.val + 1) := by rw [hps]; rfl
  obtain ⟨honly, hzero, hbig, hlane⟩ : onlyBits (W (i.val + 1)) 7#32 = true ∧ decide (fld (W (i.val + 1)) 2 0 = 0) = false ∧
      decide (5 < fld (W (i.val + 1)) 2 0) = false ∧ (Fin.ofNat 5 (fld (W (i.val + 1)) 2 0 - 1) : Fin 5) = i := by
    fin_cases i <;> decide
  simp only [laneDropRun, hpar, honly, hzero, hbig, hlane, Bool.not_true, Bool.or_self, Bool.false_eq_true, if_false, Bool.or_eq_true, decide_eq_true_eq]

/-! ### TX_SUBMIT and TX_CANCEL (R242, R243, R304) -/

/-- What TX_SUBMIT does once its destination's entry has been read. -/
def submitTo (c : Cmd) (r : DirRead × State) : State :=
  match r.1 with
  | .free => finish c .noEntry [] r.2
  | .fault _ => finish c .directoryFault [] r.2
  | .entry e =>
    let f0 := submittedFrame c 0 e.id r.2
    let first := firstFail [(e.deleting.isSome, .noEntry),
      (decide (0xFFFFFFFF ≤ e.outCtr.toNat + e.reserved + 1), .counterExhausted),
      (decide (128 ≤ r.2.link.frames.length), .queueFull)]
    match first, trafficRefusal f0 r.2 with
    | some st, _ => finish c st [] r.2
    | none, some st => finish c st [] r.2
    | none, none =>
      if !canAccept c.port r.2 then finish c .busy [] r.2
      else
        let h := takeHandle c.port r.2
        respondAccepted c h.1 (submitFrame { f0 with handle := h.1 } h.2)

theorem txSubmitRun_admitted {c : Cmd} {b : State} {region : Region}
    (hdomains : radioDomains (profileFor (submittedFrame c 0 (0, 0) b) b) b = true) (hregion : b.radio.region = some region)
    (hlife : b.lifecycle ≠ .retired) (hfields : submitBad c (submittedFrame c 0 (0, 0) b) b = false)
    (hband : (admitBand region (profileFor (submittedFrame c 0 (0, 0) b) b)).isSome = true)
    (hnotch : (profileFor (submittedFrame c 0 (0, 0) b) b).ofdm = true → notchOk region (profileFor (submittedFrame c 0 (0, 0) b) b) = true) :
    txSubmitRun c b = submitTo c (txDestination c b) := by
  have hadmit : (!(profileFor (submittedFrame c 0 (0, 0) b) b).ofdm || notchOk region (profileFor (submittedFrame c 0 (0, 0) b) b)) = true := by
    simpa [or_iff_not_imp_left] using hnotch
  simp only [txSubmitRun, hdomains, hregion, hlife, hfields, hband, hadmit, firstFail, Option.isNone_some, decide_false, Bool.and_self, Bool.not_true,
    Bool.or_self, Bool.false_eq_true, if_false]
  rfl

theorem submitTo_entry {c : Cmd} {r : DirRead × State} {e : LinkEntry} (hentry : r.1 = .entry e) (hdel : e.deleting = none)
    (hctr : e.outCtr.toNat + e.reserved + 1 < 0xFFFFFFFF) (hroom : r.2.link.frames.length < 128)
    (htraffic : trafficRefusal (submittedFrame c 0 e.id r.2) r.2 = none) (hhandle : canAccept c.port r.2 = true) :
    submitTo c r =
      let h := takeHandle c.port r.2
      respondAccepted c h.1 (submitFrame { submittedFrame c 0 e.id r.2 with handle := h.1 } h.2) := by
  simp only [submitTo, hentry, hdel, Nat.not_le.mpr hctr, Nat.not_le.mpr hroom, htraffic, hhandle, firstFail, Option.isSome_none, decide_false,
    Bool.not_true, Bool.false_eq_true, if_false]

theorem low_half {w : Word} (h : w.toNat < 65536) : BitVec.ofNat 16 (fld w 15 0) = w.setWidth 16 := by
  rw [fld_small (n := 16) h 15 rfl]
  apply BitVec.eq_of_toNat_eq
  simp

theorem txCancelRun_found {c : Cmd} {b : State} {f : TxFrame} (hsmall : (param c.ps 1).toNat < 65536)
    (hfound : (b.link.frames.find? fun g => g.kind = .data && g.port = c.port && g.handle = (param c.ps 1).setWidth 16) = some f) :
    txCancelRun c b =
      if f.stage = .queued ∨ f.stage = .backOff then finish c .ok [] (endFrame f.fid .cancelled b) else finish c .busy [] b := by
  have honly : onlyBits (param c.ps 1) 0xFFFF#32 = true := small_only (n := 16) hsmall (by decide)
  simp only [txCancelRun, honly, low_half hsmall, hfound, Bool.not_true, Bool.false_eq_true, if_false, Bool.or_eq_true, decide_eq_true_eq]

/-! ### The commands -/

theorem profile_and_reception_commands_answer : profileAndReceptionCommandsAnswer := by
  refine ⟨fun r => ?profile, fun maps id => ?maps, ?alley, fun plan => ?boulevard, fun boulevard drain r => ⟨?ends, ?drains⟩, fun plan => ?plan,
    fun i => ⟨?atStart, ?within⟩⟩
  case profile =>
    exact answers_of_immediate (fun _ _ => rfl) fun c b ⟨hlen, hfields, hfree⟩ => ⟨lenIs_of hlen, phyProfileSetRun_sets hfields hfree⟩
  case maps =>
    refine answers_of_immediate (fun _ _ => rfl) fun c b ⟨hmin, hlen, hmaps, hwarn⟩ => ⟨?_, loadmapSetRun_loads hmaps hwarn⟩
    simp only [Bool.and_eq_true, decide_eq_true_eq]
    exact ⟨hmin, hlen⟩
  case alley =>
    exact answers_of_immediate (fun _ _ => rfl) fun c b ⟨hlen, honly, hdomains, hofdm, hany, hfree, hfits⟩ =>
      ⟨lenIs_of hlen, rxStartRun_alley honly hdomains hofdm hany hfree hfits⟩
  case boulevard =>
    refine answers_of_immediate (fun _ _ => rfl) fun c b ⟨hps, hdomains, hofdm, hplan, hfree, hfits⟩ =>
      ⟨lenIs_of ?_, rxStartRun_boulevard hps hdomains hofdm hplan hfree hfits⟩
    obtain h | h := hps <;> rw [h] <;> rfl
  case ends =>
    refine does_of_owner (fun _ _ => rfl) fun c b ⟨⟨hps, hpath, hlink, hdrain⟩, hleft⟩ => ⟨lenIs_of (by rw [hps]; rfl), ?_⟩
    exact (rxStopRun_stops hps hpath hlink hdrain).trans (if_pos hleft)
  case drains =>
    refine does_of_owner (fun _ _ => rfl) fun c b ⟨⟨hps, hpath, hlink, hdrain⟩, hleft⟩ => ⟨lenIs_of (by rw [hps]; rfl), ?_⟩
    exact (rxStopRun_stops hps hpath hlink hdrain).trans (if_neg hleft)
  case plan =>
    refine answers_of_immediate (fun _ _ => rfl) fun c b ⟨hlen, hon, hplan, hfree⟩ => ⟨?_, blvdConfigRun_sets hon hplan hfree⟩
    simp only [Bool.and_eq_true, decide_eq_true_eq]
    omega
  case atStart =>
    exact answers_of_immediate (fun _ _ => rfl) fun c b ⟨hps, hcursor⟩ =>
      ⟨lenIs_of (by rw [hps]; rfl), (laneDropRun_eq hps).trans (if_pos hcursor)⟩
  case within =>
    exact answers_of_immediate (fun _ _ => rfl) fun c b ⟨hps, hcursor⟩ =>
      ⟨lenIs_of (by rw [hps]; rfl), (laneDropRun_eq hps).trans (if_neg hcursor)⟩

theorem transmit_commands_answer : transmitCommandsAnswer := by
  refine ⟨fun region e => ?submit, fun f => ?cancel, fun f => ?late⟩
  case submit =>
    refine does_of_owner (fun _ _ => rfl) fun c b
      ⟨hmin, hlen, hdomains, hregion, hlife, hfields, hband, hnotch, hentry, hdel, hctr, hroom, htraffic, hhandle⟩ => ⟨?_, ?_⟩
    · simp only [Bool.and_eq_true, decide_eq_true_eq]
      exact ⟨hmin, hlen⟩
    · exact (txSubmitRun_admitted hdomains hregion hlife hfields hband hnotch).trans (submitTo_entry hentry hdel hctr hroom htraffic hhandle)
  case cancel =>
    exact does_of_owner (fun _ _ => rfl) fun c b ⟨hlen, hsmall, hfound, hstage⟩ =>
      ⟨lenIs_of hlen, (txCancelRun_found hsmall hfound).trans (if_pos hstage)⟩
  case late =>
    exact does_of_owner (fun _ _ => rfl) fun c b ⟨hlen, hsmall, hfound, hqueued, hback⟩ =>
      ⟨lenIs_of hlen, (txCancelRun_found hsmall hfound).trans (if_neg (not_or.mpr ⟨hqueued, hback⟩))⟩

/-- Settles O17. -/
theorem receptionAndTransmitCommandsAnswer : Obligations.ReceptionAndTransmitCommandsAnswer :=
  ⟨profile_and_reception_commands_answer, transmit_commands_answer⟩

end Sys2Proof.ModemLaws

/-! The link table's commands and those of the network (O18). -/

namespace Sys2Proof.NetworkLaws
open Sys2Proof.Machine Sys2Proof.Statements Sys2Proof.CommandRules

/-! ### LINK_ADD (R244) -/

/-- What LINK_ADD does once its key is unwrapped. -/
def linkAddPlace (c : Cmd) (key : BitVec 256) (s : State) : State :=
  let w1 := param c.ps 1
  let short : BitVec 24 := BitVec.ofNat 24 (fld w1 23 0)
  let eui := mk64 (param c.ps 2) (param c.ps 3)
  let old := namedEntry short eui s
  let replace := bitAt w1 25
  if belongsToOther short eui (if replace then old else none) s || (replace && old.isNone) then finish c .badParam [] s
  else
    let e := addedEntry c (if replace then old else none) key s
    let was := match old with | some o => pinned s o | none => false
    if (dirCfg s).isSome && (short = groupShort || bitAt w1 24) && !was && decide (15360 ≤ pinnedCount s) then finish c .tableFull [] s
    else match replace, old with
      | true, some o => finish c .ok [] (writeThrough e.id (replaceEntry o e s))
      | _, _ =>
        let r := placeLink e s
        if r.1 then finish c .ok [] (writeThrough e.id r.2) else finish c .tableFull [] r.2

theorem linkAddDo_unwrapped {c : Cmd} {b : State} {key : BitVec 256} (hmay : linkAddMay c b key) :
    linkAddDo c b = linkAddPlace c key (linkAddMeets c b) := by
  obtain ⟨-, htable, hcrypto, -, h1, h4, h8, hgroup, hext, hslot, ⟨kek, kb, hkek, hkb, rfl⟩, -, -⟩ := hmay
  have hbad : (decide (BitVec.ofNat 24 (fld (param c.ps 1) 23 0) = groupShort) && decide (mk64 (param c.ps 2) (param c.ps 3) ≠ 0#64)) = false := by
    simpa using hgroup
  cases hdir : dirCfg b with
  | none =>
    simp only [linkAddDo, htable, hcrypto, h1, h4, h8, hbad, hdir, hslot, hkek, hkb, firstFail, Bool.and_false, Bool.not_true, Bool.or_self,
      Bool.false_eq_true, if_false]
    simp only [linkAddMeets, hdir]
    rfl
  | some d =>
    have hnoExt : (bitAt (param c.ps 1) 24 && !d.ext) = false := by simpa using fun h => hext h d hdir
    simp only [linkAddDo, htable, hcrypto, h1, h4, h8, hbad, hdir, hnoExt, hslot, hkek, hkb, firstFail, Bool.not_true, Bool.or_self,
      Bool.false_eq_true, if_false]
    simp only [linkAddMeets, hdir]
    rfl

/-- R244's limit of pinned entries does not refuse the entry. -/
theorem pins_allowed {c : Cmd} {b : State} {key : BitVec 256} (hmay : linkAddMay c b key) :
    ((dirCfg (linkAddMeets c b)).isSome && (decide (BitVec.ofNat 24 (fld (param c.ps 1) 23 0) = groupShort) || bitAt (param c.ps 1) 24) &&
      !((namedEntry (BitVec.ofNat 24 (fld (param c.ps 1) 23 0)) (mk64 (param c.ps 2) (param c.ps 3)) (linkAddMeets c b)).map
        (pinned (linkAddMeets c b))).getD false && decide (15360 ≤ pinnedCount (linkAddMeets c b))) = false := by
  obtain ⟨-, -, -, -, -, -, -, -, -, -, -, -, hpins⟩ := hmay
  obtain hno | ⟨hshort, h128⟩ | hwas | hroom := hpins
  · rw [Option.isNone_iff_eq_none.mp hno]
    rfl
  · rw [decide_eq_false hshort, h128, Bool.or_self, Bool.and_false, Bool.false_and, Bool.false_and]
  · rw [hwas, Bool.not_true, Bool.and_false, Bool.false_and]
  · rw [decide_eq_false (Nat.not_le.mpr hroom), Bool.and_false]

theorem linkAddDo_adds {c : Cmd} {b : State} {key : BitVec 256} (hmay : linkAddMay c b key) (hnew : bitAt (param c.ps 1) 25 = false)
    (hplaced : (placeLink (addedEntry c none key (linkAddMeets c b)) (linkAddMeets c b)).1 = true) :
    linkAddDo c b =
      let e := addedEntry c none key (linkAddMeets c b)
      finish c .ok [] (writeThrough e.id (placeLink e (linkAddMeets c b)).2) := by
  have hpins := pins_allowed hmay
  have hreplaces : linkAddReplaces c b = none := by
    rw [linkAddReplaces, hnew]
    rfl
  have hother : belongsToOther (BitVec.ofNat 24 (fld (param c.ps 1) 23 0)) (mk64 (param c.ps 2) (param c.ps 3)) none (linkAddMeets c b) = false := by
    obtain ⟨-, -, -, -, -, -, -, -, -, -, -, hother, -⟩ := hmay
    rwa [hreplaces] at hother
  rw [linkAddDo_unwrapped hmay]
  cases hnamed : namedEntry (BitVec.ofNat 24 (fld (param c.ps 1) 23 0)) (mk64 (param c.ps 2) (param c.ps 3)) (linkAddMeets c b) with
  | none =>
    rw [hnamed, Option.map_none, Option.getD_none] at hpins
    simp only [linkAddPlace, hnew, hnamed, hother, hpins, hplaced, Bool.false_and, Bool.or_self, Bool.false_eq_true, if_false, if_true]
  | some o =>
    rw [hnamed, Option.map_some, Option.getD_some] at hpins
    simp only [linkAddPlace, hnew, hnamed, hother, hpins, hplaced, Bool.false_and, Bool.or_self, Bool.false_eq_true, if_false, if_true]

theorem linkAddDo_replaces {c : Cmd} {b : State} {key : BitVec 256} {old : LinkEntry} (hmay : linkAddMay c b key)
    (hold : linkAddReplaces c b = some old) :
    linkAddDo c b =
      let e := addedEntry c (some old) key (linkAddMeets c b)
      finish c .ok [] (writeThrough e.id (replaceEntry old e (linkAddMeets c b))) := by
  have hpins := pins_allowed hmay
  obtain ⟨-, -, -, -, -, -, -, -, -, -, -, hother, -⟩ := id hmay
  rw [hold] at hother
  have hreplace : bitAt (param c.ps 1) 25 = true := by
    by_contra h
    rw [linkAddReplaces, if_neg h] at hold
    exact nomatch hold
  have hnamed : namedEntry (BitVec.ofNat 24 (fld (param c.ps 1) 23 0)) (mk64 (param c.ps 2) (param c.ps 3)) (linkAddMeets c b) = some old := by
    rwa [linkAddReplaces, if_pos hreplace] at hold
  rw [hnamed, Option.map_some, Option.getD_some] at hpins
  rw [linkAddDo_unwrapped hmay]
  simp only [linkAddPlace, hreplace, hnamed, hother, hpins, Option.isNone_some, Bool.and_false, Bool.or_self, Bool.false_eq_true, if_false, if_true]

/-! ### LINK_DEL and LINK_READ (R245, R246) -/

theorem linkDelRun_entry {c : Cmd} {b : State} {e : LinkEntry} (hon : tableOn b = true) (hsel : selectorOk 0x03FFFFFF#32 c.ps = true)
    (hentry : (selectEntry c.ps b).1 = .entry e) (hdel : e.deleting = none) :
    linkDelRun c b =
      let t := (selectEntry c.ps b).2
      let busy := t.link.frames.any fun f => f.link = some e.id
      if busy && !bitAt (param c.ps 1) 25 then finish c .busy [] t
      else if busy then flushLink e.id (updateLink e.id (fun e => { e with deleting := some (c.port, c.tag) }) t)
      else finish c .ok [] (dropLink e t) := by
  simp only [linkDelRun, hon, hsel, hentry, hdel, firstFail, Option.isSome_none, Bool.not_true, Bool.false_or, Bool.false_eq_true, if_false]

theorem linkDelRun_free {c : Cmd} {b : State} {e : LinkEntry} (hon : tableOn b = true) (hsel : selectorOk 0x03FFFFFF#32 c.ps = true)
    (hentry : (selectEntry c.ps b).1 = .entry e) (hdel : e.deleting = none)
    (hfree : ((selectEntry c.ps b).2.link.frames.any fun f => f.link = some e.id) = false) :
    linkDelRun c b = finish c .ok [] (dropLink e (selectEntry c.ps b).2) := by
  rw [linkDelRun_entry hon hsel hentry hdel]
  simp only [hfree, Bool.false_and, Bool.false_eq_true, if_false]

theorem linkDelRun_flushes {c : Cmd} {b : State} {e : LinkEntry} (hon : tableOn b = true) (hsel : selectorOk 0x03FFFFFF#32 c.ps = true)
    (hentry : (selectEntry c.ps b).1 = .entry e) (hdel : e.deleting = none) (hflush : bitAt (param c.ps 1) 25 = true)
    (hbusy : ((selectEntry c.ps b).2.link.frames.any fun f => f.link = some e.id) = true) :
    linkDelRun c b = flushLink e.id
      (updateLink e.id (fun e => { e with deleting := some (c.port, c.tag) }) (selectEntry c.ps b).2) := by
  rw [linkDelRun_entry hon hsel hentry hdel]
  simp only [hbusy, hflush, Bool.not_true, Bool.and_false, Bool.false_eq_true, if_false, if_true]

theorem linkReadRun_held {c : Cmd} {b : State} {e : LinkEntry} (hon : tableOn b = true) (hsel : selectorOk 0x01FFFFFF#32 c.ps = true)
    (hentry : (if bitAt (param c.ps 1) 24 then linkByEui (mk64 (param c.ps 2) (param c.ps 3)) b
      else linkByShort (BitVec.ofNat 24 (fld (param c.ps 1) 23 0)) b) = some e) :
    linkReadRun c b = finish c .ok (linkWords e b.is80) b := by
  simp only [linkReadRun, hon, hsel, hentry, firstFail, Bool.not_true, Bool.false_eq_true, if_false]

theorem toNat_ofNat_fld (w : Word) : (BitVec.ofNat 24 (fld w 23 0)).toNat = fld w 23 0 := by
  rw [BitVec.toNat_ofNat, Nat.mod_eq_of_lt]
  exact Nat.mod_lt _ (by decide)

/-- An address that only the directory may hold is read there (R246). -/
theorem linkReadRun_directory {c : Cmd} {b : State} {d : DirConfig} (hon : tableOn b = true) (hsel : selectorOk 0x01FFFFFF#32 c.ps = true)
    (hshort : bitAt (param c.ps 1) 24 = false) (hmissing : linkByShort (BitVec.ofNat 24 (fld (param c.ps 1) 23 0)) b = none)
    (hdir : dirCfg b = some d) (hgroup : BitVec.ofNat 24 (fld (param c.ps 1) 23 0) ≠ groupShort)
    (hno : BitVec.ofNat 24 (fld (param c.ps 1) 23 0) ≠ noShort) (hzero : BitVec.ofNat 24 (fld (param c.ps 1) 23 0) ≠ 0#24)
    (hhigh : (BitVec.ofNat 24 (fld (param c.ps 1) 23 0)).toNat ≤ b.dir.highWater) :
    linkReadRun c b =
      let a := fld (param c.ps 1) 23 0
      let t := (xspiFails b).2
      match dirRead d a (xspiFails b).1 t with
      | .entry e => finish c .ok (linkWords e false) t
      | .free => finish c .noEntry [] t
      | .fault n => finish c .directoryFault [] (dirFault a n t) := by
  have hheld : ¬b.dir.highWater < fld (param c.ps 1) 23 0 := Nat.not_lt.mpr (toNat_ofNat_fld _ ▸ hhigh)
  simp only [linkReadRun, hon, hsel, hshort, hmissing, hdir, hgroup, hno, hzero, hheld, firstFail, toNat_ofNat_fld, decide_false,
    Bool.not_true, Bool.or_self, Bool.false_eq_true, if_false] <;> rfl

theorem link_table_commands_answer : linkTableCommandsAnswer := by
  refine ⟨fun key => ?adds, fun key old => ?replaces, fun e => ?drops, fun e => ?flushes, fun e => ?reads, fun d => ?readsDirectory⟩
  case adds =>
    refine does_of_owner (fun _ _ => rfl) fun c b ⟨hmay, hnew, hplaced⟩ => ?_
    obtain ⟨hlen, -, hcrypto, hready, -⟩ := id hmay
    exact ⟨decide_eq_true hlen, (waitKeys_ready hcrypto hready).trans (linkAddDo_adds hmay hnew hplaced)⟩
  case replaces =>
    refine does_of_owner (fun _ _ => rfl) fun c b ⟨hmay, hold⟩ => ?_
    obtain ⟨hlen, -, hcrypto, hready, -⟩ := id hmay
    exact ⟨decide_eq_true hlen, (waitKeys_ready hcrypto hready).trans (linkAddDo_replaces hmay hold)⟩
  case drops =>
    exact does_of_owner (fun _ _ => rfl) fun c b ⟨hlen, hon, hsel, hentry, hdel, hfree⟩ =>
      ⟨lenIs_of hlen, linkDelRun_free hon hsel hentry hdel hfree⟩
  case flushes =>
    exact does_of_owner (fun _ _ => rfl) fun c b ⟨hlen, hon, hsel, hentry, hdel, hflush, hbusy⟩ =>
      ⟨lenIs_of hlen, linkDelRun_flushes hon hsel hentry hdel hflush hbusy⟩
  case reads =>
    exact does_of_owner (fun _ _ => rfl) fun c b ⟨hlen, hon, hsel, hentry⟩ => ⟨lenIs_of hlen, linkReadRun_held hon hsel hentry⟩
  case readsDirectory =>
    exact does_of_owner (fun _ _ => rfl) fun c b ⟨hlen, hon, hsel, hshort, hmissing, hdir, hgroup, hno, hzero, hhigh⟩ =>
      ⟨lenIs_of hlen, linkReadRun_directory hon hsel hshort hmissing hdir hgroup hno hzero hhigh⟩

/-! ### ADDR_ASSIGN (R251, R252) -/

theorem addrAssignDo_asks {c : Cmd} {b : State} (h80 : b.is80 = true) (hcrypto : b.isUsable dCRYPTO = true)
    (hplace : b.rdv.joins[(Fin.ofNat 8 (fld (param c.ps 1) 2 0) : Fin 8)] ≠ none) :
    addrAssignDo c b =
      let r : PkaReq := ⟨c.port, c.tag, .command 0x504#12 c.ps, if bitAt (param c.ps 1) 3 then 1 else 4⟩
      if b.sec.pka = none then { b with sec.pka := some r } else { b with sec.pkaFirst := b.sec.pkaFirst ++ [r] } := by
  have hsome : (b.rdv.joins[(Fin.ofNat 8 (fld (param c.ps 1) 2 0) : Fin 8)]).isSome = true := Option.isSome_iff_ne_none.mpr hplace
  simp only [addrAssignDo, h80, hcrypto, hsome, Bool.and_self, if_true, pkaFirst, Option.isNone_iff_eq_none, answerOps]

/-- A refusal is signed and answered (R252). -/
theorem addrAssignWork_refuses {c : Cmd} {b : State} {p : JoinPlace} {k : KeySlot} (hrefuse : bitAt (param c.ps 1) 3 = true)
    (honly : onlyBits (param c.ps 1) 0x1F#32 = true) (h80 : b.is80 = true) (hcrypto : b.isUsable dCRYPTO = true) (hon : tableOn b = true)
    (hwarn : b.power.bodWarn = false) (hplace : b.rdv.joins[(Fin.ofNat 8 (fld (param c.ps 1) 2 0) : Fin 8)] = some p)
    (hslot : slotRefusal b.rdv.cfg.joinSignSlot.val 4 [.p256] b = none) (hkey : usableSlot b.rdv.cfg.joinSignSlot.val b = some k) :
    addrAssignWork c b = finish c .ok [0#32] (answerJoin (Fin.ofNat 8 (fld (param c.ps 1) 2 0)) p k.key ([0x03#8] ++ zeros 6 ++ zeros 64) b) := by
  simp only [addrAssignWork, hrefuse, honly, h80, hcrypto, hon, hwarn, hplace, hslot, hkey, firstFail, Option.isNone_some, Bool.not_true,
    Bool.false_and, Bool.or_self, Bool.false_eq_true, if_false, if_true]

theorem addrAssignWork_accepts {c : Cmd} {b : State} {p : JoinPlace} {k : KeySlot} {a : BitVec 24} {old : Option LinkEntry}
    (h1 : onlyBits (param c.ps 1) 0x17#32 = true) (h2 : onlyBits (param c.ps 2) 0xFFFFFF#32 = true) (h3 : onlyBits (param c.ps 3) 0xFFFF#32 = true)
    (hnode : onCurve (pair256 (c.ps.drop 3)).1.toNat (pair256 (c.ps.drop 3)).2.toNat = true) (h80 : b.is80 = true)
    (hcrypto : b.isUsable dCRYPTO = true) (hon : tableOn b = true) (hwarn : b.power.bodWarn = false)
    (hplace : b.rdv.joins[(Fin.ofNat 8 (fld (param c.ps 1) 2 0) : Fin 8)] = some p)
    (hslot : slotRefusal b.rdv.cfg.joinSignSlot.val 4 [.p256] b = none) (hkey : usableSlot b.rdv.cfg.joinSignSlot.val b = some k)
    (hsigned : verifies (pair256 (c.ps.drop 3)) (sha256 (p.request.take 72 ++ bytesOfBE 8 b.eui.toNat)) (pairBytes (p.request.drop 72)).1
      (pairBytes (p.request.drop 72)).2 = true)
    (hcurve : onCurve (pairBytes (p.request.drop 4)).1.toNat (pairBytes (p.request.drop 4)).2.toNat = true)
    (haddr : (joinAddress c p b).1 = .ok (a, old)) (htrng : b.sec.trngOk = true) :
    addrAssignWork c b = acceptJoin c (Fin.ofNat 8 (fld (param c.ps 1) 2 0)) p k.key a old (joinAddress c p b).2 := by
  have haccept : bitAt (param c.ps 1) 3 = false := bit_of_only h1 3 rfl
  have hwide : onlyBits (param c.ps 1) 0x1F#32 = true := only_mono h1 rfl
  simp only [addrAssignWork, haccept, hwide, h2, h3, hnode, h80, hcrypto, hon, hwarn, hplace, hslot, hkey, hsigned, hcurve, haddr, htrng, firstFail,
    Option.isNone_some, Bool.not_true, Bool.not_false, Bool.and_false, Bool.or_self, Bool.false_eq_true, if_false]

/-! ### DIR_CONFIG and DIR_SNAPSHOT (R268, R269) -/

theorem dirConfigRun_sets {c : Cmd} {b : State} {d : DirConfig} (h80 : b.is80 = true) (hon : tableOn b = true) (hfields : dirConfigOf c.ps = some d)
    (hrx : receptionInForce b = false) (hsnap : b.dir.snapshot = none) (hstate : dirConfigBlocked (bitAt (param c.ps 1) 1) d b = false) :
    dirConfigRun c b = .ok ([], { b with
      dir.cfg := some d, upd.settings.dir := some d, dir.epochDue := b.dir.epochDue || d.enable
      dir.highWater := if bitAt (param c.ps 1) 1 then 0 else b.dir.highWater }) := by
  simp only [dirConfigRun, h80, hon, hfields, hrx, hsnap, hstate, firstFail, Option.isSome_none, Bool.not_true, Bool.or_self, Bool.false_eq_true,
    if_false]

theorem dirSnapshotRun_starts {c : Cmd} {b : State} {d : DirConfig}
    (hlen : c.ps.length = 3 + (if bitAt (param c.ps 1) 0 then (if d.ext then 32 else 16) * fld (param c.ps 3) 12 0 else 0)) (h80 : b.is80 = true)
    (hon : tableOn b = true) (hdir : dirCfg b = some d) (hsnap : b.dir.snapshot = none) (h1 : onlyBits (param c.ps 1) 1#32 = true)
    (h2 : onlyBits (param c.ps 2) 0xFFFFFF#32 = true) (h3 : onlyBits (param c.ps 3) 0x1FFF#32 = true) (hsome : 1 ≤ fld (param c.ps 3) 12 0)
    (hmost : fld (param c.ps 3) 12 0 ≤ (if bitAt (param c.ps 1) 0 then (if d.ext then 31 else 63) else 4096))
    (hfirst : 1 ≤ fld (param c.ps 2) 23 0) (hlast : fld (param c.ps 2) 23 0 + fld (param c.ps 3) 12 0 ≤ b.dir.highWater + 1) :
    dirSnapshotRun c b = { b with dir.snapshot := some {
      port := c.port, tag := c.tag, restore := bitAt (param c.ps 1) 0, first := fld (param c.ps 2) 23 0
      num := fld (param c.ps 3) 12 0, words := c.ps.drop 3 } } := by
  have hlength : c.ps.length = if bitAt (param c.ps 1) 0 then 3 + (if d.ext then 32 else 16) * fld (param c.ps 3) 12 0 else 3 := by
    rw [hlen]
    split <;> rfl
  have hnum : fld (param c.ps 3) 12 0 ≠ 0 := by omega
  have hstart : fld (param c.ps 2) 23 0 ≠ 0 := by omega
  have hmost' : ¬(if !bitAt (param c.ps 1) 0 then 4096 else if d.ext then 31 else 63) < fld (param c.ps 3) 12 0 := by
    refine Nat.not_lt.mpr (hmost.trans (le_of_eq ?_))
    cases bitAt (param c.ps 1) 0 <;> rfl
  simp only [dirSnapshotRun, hdir, ← hlength, h80, hon, hsnap, h1, h2, h3, hnum, hstart, hmost', Nat.not_lt.mpr hlast, firstFail, Option.isNone_some,
    Option.isSome_none, ne_eq, not_true, decide_false, Bool.not_true, Bool.or_self, Bool.false_eq_true, if_false]

/-! ### RDV_SET, RDV_CLEAR and BEACON_CONFIG (R259, R270, R272) -/

theorem rdvSetRun_sets {c : Cmd} {b : State} {e : LinkEntry} (hon : tableOn b = true) (hfields : rdvSetBad c.ps = false)
    (hparent : bitAt (param c.ps 1) 24 = true → b.is20 = false)
    (hentry : (selectEntry [param c.ps 1 &&& 0xFFFFFF#32, 0, 0] b).1 = .entry e)
    (hroom : (rdvOf (BitVec.ofNat 24 (fld (param c.ps 1) 23 0)) (selectEntry [param c.ps 1 &&& 0xFFFFFF#32, 0, 0] b).2).isSome = true ∨
      (selectEntry [param c.ps 1 &&& 0xFFFFFF#32, 0, 0] b).2.rdv.rdvs.length < rdvCapacity b)
    (hpins : (dirCfg (selectEntry [param c.ps 1 &&& 0xFFFFFF#32, 0, 0] b).2).isNone = true ∨
      pinned (selectEntry [param c.ps 1 &&& 0xFFFFFF#32, 0, 0] b).2 e = true ∨
      pinnedCount (selectEntry [param c.ps 1 &&& 0xFFFFFF#32, 0, 0] b).2 < 15360) :
    rdvSetRun c b = finish c .ok []
      (let a : BitVec 24 := BitVec.ofNat 24 (fld (param c.ps 1) 23 0)
      let s1 := (selectEntry [param c.ps 1 &&& 0xFFFFFF#32, 0, 0] b).2
      let n := rdvFrom c (rdvOf a s1) s1
      tellParent n (closeListening { s1 with rdv.rdvs := (s1.rdv.rdvs.filter fun x => x.short ≠ a) ++ [n] })) := by
  have hmodel : (bitAt (param c.ps 1) 24 && b.is20) = false := by simpa using hparent
  generalize hfound : selectEntry [param c.ps 1 &&& 0xFFFFFF#32, 0, 0] b = found at *
  have hfull : ((rdvOf (BitVec.ofNat 24 (fld (param c.ps 1) 23 0)) found.2).isNone && decide (rdvCapacity b ≤ found.2.rdv.rdvs.length)) = false := by
    obtain hold | hfree := hroom
    · rw [Option.isNone_eq_false_iff.mpr hold, Bool.false_and]
    · rw [decide_eq_false (Nat.not_le.mpr hfree), Bool.and_false]
  have hpinned : ((dirCfg found.2).isSome && !pinned found.2 e && decide (15360 ≤ pinnedCount found.2)) = false := by
    obtain hno | hwas | hfree := hpins
    · rw [Option.isNone_iff_eq_none.mp hno]
      rfl
    · rw [hwas, Bool.not_true, Bool.and_false, Bool.false_and]
    · rw [decide_eq_false (Nat.not_le.mpr hfree), Bool.and_false]
  simp only [rdvSetRun, hon, hfields, hmodel, hfound, hentry, hfull, hpinned, firstFail, Bool.not_true, Bool.or_self, Bool.false_eq_true, if_false]

theorem rdvClearRun_clears {c : Cmd} {b : State} {all : Bool} (honly : onlyBits (param c.ps 1) 0x01FFFFFF#32 = true)
    (hall : bitAt (param c.ps 1) 24 = all) :
    let gone (r : Rdv) : Bool := all || r.short = BitVec.ofNat 24 (fld (param c.ps 1) 23 0)
    rdvClearRun c b = .ok ([W (b.rdv.rdvs.filter gone).length], closeListening { b with
      rdv.rdvs := b.rdv.rdvs.filter fun r => !gone r
      link.links := b.link.links.map fun e =>
        if e.stale && (b.rdv.rdvs.filter gone).any (fun r => r.short = e.short) then { e with stale := false, dirty := true }
        else e }) := by
  simp only [rdvClearRun, honly, hall, Bool.not_true, Bool.false_eq_true, if_false]

theorem beaconConfigRun_sets {c : Cmd} {b : State} (hfields : beaconBad c.ps = false)
    (hopen : bitAt (param c.ps 1) 2 = true → 4 ≤ fld (param c.ps 1) 17 13 ∧ b.is80 = true) :
    beaconConfigRun c b = .ok ([], { b with
      rdv.cfg := beaconFrom c.ps
      link.own := if bitAt (param c.ps 1) 2 && b.link.own = noShort then 0#24 else b.link.own
      rdv.node := if bitAt (param c.ps 1) 3 then b.rdv.node else {}
      rdv.lastBeacon := none }) := by
  have hslot : (bitAt (param c.ps 1) 2 && decide (fld (param c.ps 1) 17 13 < 4)) = false :=
    Bool.and_eq_false_imp.mpr fun h => decide_eq_false (Nat.not_lt.mpr (hopen h).1)
  have hpart : (bitAt (param c.ps 1) 2 && !b.is80) = false :=
    Bool.and_eq_false_imp.mpr fun h => by rw [(hopen h).2, Bool.not_true]
  unfold beaconConfigRun
  simp only [hfields, hslot, hpart, firstFail, Bool.false_eq_true, if_false]

theorem network_commands_answer : networkCommandsAnswer := by
  refine ⟨?asks, fun p k => ?refuses, fun p k a old => ?accepts, fun d => ?config, fun d => ?snapshot, fun e => ?rdvSet, fun all => ?rdvClear, ?beacon⟩
  case asks =>
    exact does_of_owner (fun _ _ => rfl) fun c b ⟨hlen, h80, hcrypto, hready, hplace⟩ =>
      ⟨decide_eq_true hlen, (waitKeys_ready hcrypto hready).trans (addrAssignDo_asks h80 hcrypto hplace)⟩
  case refuses =>
    exact WorkDone.of addrAssignWork (fun r ps s hjob => by simp only [pkaFinish, hjob]; rfl)
      fun c b _ ⟨hrefuse, honly, h80, hcrypto, hon, hwarn, hplace, hslot, hkey⟩ =>
        addrAssignWork_refuses hrefuse honly h80 hcrypto hon hwarn hplace hslot hkey
  case accepts =>
    exact WorkDone.of addrAssignWork (fun r ps s hjob => by simp only [pkaFinish, hjob]; rfl)
      fun c b _ ⟨h1, h2, h3, hnode, h80, hcrypto, hon, hwarn, hplace, hslot, hkey, hsigned, hcurve, haddr, htrng⟩ =>
        addrAssignWork_accepts h1 h2 h3 hnode h80 hcrypto hon hwarn hplace hslot hkey hsigned hcurve haddr htrng
  case config =>
    exact answers_of_immediate (fun _ _ => rfl) fun c b ⟨hlen, h80, hon, hfields, hrx, hsnap, hstate⟩ =>
      ⟨lenIs_of hlen, dirConfigRun_sets h80 hon hfields hrx hsnap hstate⟩
  case snapshot =>
    exact does_of_owner (fun _ _ => rfl) fun c b ⟨hlen, h80, hon, hdir, hsnap, h1, h2, h3, hsome, hmost, hfirst, hlast⟩ =>
      ⟨decide_eq_true (hlen ▸ Nat.le_add_right _ _), dirSnapshotRun_starts hlen h80 hon hdir hsnap h1 h2 h3 hsome hmost hfirst hlast⟩
  case rdvSet =>
    exact does_of_owner (fun _ _ => rfl) fun c b ⟨hlen, hon, hfields, hparent, hentry, hroom, hpins⟩ =>
      ⟨lenIs_of hlen, rdvSetRun_sets hon hfields hparent hentry hroom hpins⟩
  case rdvClear =>
    exact answers_of_immediate (fun _ _ => rfl) fun c b ⟨hlen, honly, hall⟩ => ⟨lenIs_of hlen, rdvClearRun_clears honly hall⟩
  case beacon =>
    exact answers_of_immediate (fun _ _ => rfl) fun c b ⟨hlen, hfields, hopen⟩ => ⟨decide_eq_true hlen, beaconConfigRun_sets hfields hopen⟩

/-- Settles O18. -/
theorem linkAndNetworkCommandsAnswer : Obligations.LinkAndNetworkCommandsAnswer :=
  ⟨link_table_commands_answer, network_commands_answer⟩

end Sys2Proof.NetworkLaws

/-! The traffic commands (O19). -/

namespace Sys2Proof.TrafficLaws
open Sys2Proof.Machine Sys2Proof.Statements Sys2Proof.CommandRules

/-! ### QUEUE_CONFIG (R275) -/

theorem queueConfigRun_sets {c : Cmd} {b : State} (honly : onlyBits (param c.ps 1) 0x07F7FFFF#32 = true) (hweight : fld (param c.ps 1) 15 8 ≠ 0)
    (haction : fld (param c.ps 1) 17 16 ≠ 3)
    (hfree : (queueFrames (Fin.ofNat 32 (fld (param c.ps 1) 4 0)) b).length = 0 ∨
      b.traffic.queues[(Fin.ofNat 32 (fld (param c.ps 1) 4 0) : Fin 32)].cls = Fin.ofNat 8 (fld (param c.ps 1) 7 5) ∧
        (fld (param c.ps 1) 26 20 = 0 ∨ (queueFrames (Fin.ofNat 32 (fld (param c.ps 1) 4 0)) b).length ≤ fld (param c.ps 1) 26 20)) :
    queueConfigRun c b = .ok ([],
      let w := param c.ps 1
      let q : Fin 32 := Fin.ofNat 32 (fld w 4 0)
      { b with traffic.queues := b.traffic.queues.set q { b.traffic.queues[q] with
          cls := Fin.ofNat 8 (fld w 7 5), weight := BitVec.ofNat 8 (fld w 15 8), redAction := BitVec.ofNat 2 (fld w 17 16)
          preYellow := bitAt w 18, depth := BitVec.ofNat 7 (fld w 26 20) } }) := by
  have hbusy : (decide (0 < (queueFrames (Fin.ofNat 32 (fld (param c.ps 1) 4 0)) b).length) &&
      (decide (b.traffic.queues[(Fin.ofNat 32 (fld (param c.ps 1) 4 0) : Fin 32)].cls ≠ Fin.ofNat 8 (fld (param c.ps 1) 7 5)) ||
        (decide (0 < fld (param c.ps 1) 26 20) &&
          decide (fld (param c.ps 1) 26 20 < (queueFrames (Fin.ofNat 32 (fld (param c.ps 1) 4 0)) b).length)))) = false := by
    obtain hempty | ⟨hcls, hdepth⟩ := hfree
    · rw [hempty]
      rfl
    · have hfits : (decide (0 < fld (param c.ps 1) 26 20) &&
          decide (fld (param c.ps 1) 26 20 < (queueFrames (Fin.ofNat 32 (fld (param c.ps 1) 4 0)) b).length)) = false := by
        rw [Bool.and_eq_false_imp]
        intro hpos
        have := of_decide_eq_true hpos
        exact decide_eq_false (by omega)
      rw [hfits, hcls, decide_eq_false (not_not.mpr rfl), Bool.or_self, Bool.and_false]
  simp only [queueConfigRun, honly, hweight, haction, hbusy, firstFail, decide_false, Bool.not_true, Bool.or_self, Bool.false_eq_true, if_false]

/-! ### METER_SET (R281) -/

/-- COUNT of a METER_SET. -/
def meterLen (ps : List Word) : Bool := if bitAt (param ps 1) 2 then ps.length = 2 else ps.length = 6

theorem meterLen_of {ps : List Word} {n : Nat} {del : Bool} (hdel : bitAt (param ps 1) 2 = del) (hlen : ps.length = n)
    (hn : n = if del then 2 else 6) : meterLen ps = true := by
  subst hn
  cases del <;> simp [meterLen, hdel, hlen]

theorem meterSetRun_inbound {c : Cmd} {b : State} {m : MeterConfig} (honly : onlyBits (param c.ps 1) 0x00FF0003#32 = true)
    (hin : bitAt (param c.ps 1) 0 = true) (h2 : param c.ps 2 = 0#32) (hprofile : fld (param c.ps 1) 23 16 ≠ 0)
    (hm : meterOf (param c.ps 1) c.ps = some m) :
    meterSetRun c b = .ok ([W (b.traffic.meters.length * 2 ^ 8)], loadProfile (fld (param c.ps 1) 23 16) m b) := by
  have hwide : onlyBits (param c.ps 1) 0x00FF0F07#32 = true := only_mono honly rfl
  have hdel : bitAt (param c.ps 1) 2 = false := bit_of_only honly 2 rfl
  have hany : bitAt (param c.ps 1) 11 = false := bit_of_only honly 11 rfl
  have hcls : fld (param c.ps 1) 10 8 = 0 := fld_of_only honly 10 8 fun k hlo hhi => by interval_cases k <;> rfl
  simp only [meterSetRun, hwide, hin, hdel, hany, hcls, h2, hprofile, hm, onlyBits_zero, ne_eq, not_true, decide_false, Bool.not_true, Bool.and_self,
    Bool.or_self, Bool.false_eq_true, if_false, if_true]

/-- What METER_SET's words say of the meter of a class and a destination (R281). -/
structure NamesMeter (any del : Bool) (bound : Option (Fin 256 × TxMeter)) (c : Cmd) (b : State) : Prop where
  word1 : onlyBits (param c.ps 1) 0x00000F06#32 = true
  word2 : onlyBits (param c.ps 2) 0xFFFFFF#32 = true
  anyZero : any = true → param c.ps 2 = 0#32
  bit11 : bitAt (param c.ps 1) 11 = any
  bit2 : bitAt (param c.ps 1) 2 = del
  found : (b.traffic.meters.find? fun m => m.2.cls = (Fin.ofNat 8 (fld (param c.ps 1) 10 8) : Fin 8) &&
    m.2.dst = if any then none else some ((param c.ps 2).setWidth 24)) = bound

/-- Such words are well formed, and name no inbound profile. -/
theorem NamesMeter.wellFormed {any del : Bool} {bound : Option (Fin 256 × TxMeter)} {c : Cmd} {b : State} (h : NamesMeter any del bound c b) :
    onlyBits (param c.ps 1) 0x00FF0F07#32 = true ∧ bitAt (param c.ps 1) 0 = false ∧ fld (param c.ps 1) 23 16 = 0 ∧
      (any && decide (param c.ps 2 ≠ 0#32)) = false :=
  ⟨only_mono h.word1 rfl, bit_of_only h.word1 0 rfl, fld_of_only h.word1 23 16 fun k hlo hhi => by interval_cases k <;> rfl,
    Bool.and_eq_false_imp.mpr fun hany => decide_eq_false (not_not.mpr (h.anyZero hany))⟩

theorem meterSetRun_unbinds {any : Bool} {o : Fin 256 × TxMeter} {c : Cmd} {b : State} (h : NamesMeter any true (some o) c b) :
    meterSetRun c b = .ok ([W (o.1.val + (b.traffic.meters.length - 1) * 2 ^ 8)],
      { b with traffic.meters := b.traffic.meters.filter fun m => m.1 ≠ o.1 }) := by
  obtain ⟨hwide, hin, hprofile, hbad⟩ := h.wellFormed
  simp only [meterSetRun, hwide, h.word2, hin, hprofile, h.bit11, h.bit2, hbad, h.found, ne_eq, not_true, decide_false, Bool.not_true, Bool.or_self,
    Bool.false_eq_true, if_false, if_true]

theorem meterSetRun_rebinds {any : Bool} {o : Fin 256 × TxMeter} {m : MeterConfig} {c : Cmd} {b : State} (h : NamesMeter any false (some o) c b)
    (hm : meterOf (param c.ps 1) c.ps = some m) :
    meterSetRun c b = .ok ([W (o.1.val + b.traffic.meters.length * 2 ^ 8)],
      { b with traffic.meters := b.traffic.meters.map fun x =>
        if x.1 = o.1 then (o.1, { o.2 with cfg := m, buckets := rebucket o.2.cfg m b.elapsed.now o.2.buckets }) else x }) := by
  obtain ⟨hwide, hin, hprofile, hbad⟩ := h.wellFormed
  simp only [meterSetRun, hwide, h.word2, hin, hprofile, h.bit11, h.bit2, hbad, h.found, hm, ne_eq, not_true, decide_false, Bool.not_true, Bool.or_self,
    Bool.false_eq_true, if_false]

theorem meterSetRun_binds {any : Bool} {m : MeterConfig} {i : Fin 256} {c : Cmd} {b : State} (h : NamesMeter any false none c b)
    (hm : meterOf (param c.ps 1) c.ps = some m) (hi : freeMeter b = some i) :
    meterSetRun c b = .ok ([W (i.val + (b.traffic.meters.length + 1) * 2 ^ 8)],
      { b with traffic.meters := b.traffic.meters ++ [(i, ⟨Fin.ofNat 8 (fld (param c.ps 1) 10 8),
        if any then none else some ((param c.ps 2).setWidth 24), m, fullBuckets m b.elapsed.now⟩)] }) := by
  obtain ⟨hwide, hin, hprofile, hbad⟩ := h.wellFormed
  simp only [meterSetRun, hwide, h.word2, hin, hprofile, h.bit11, h.bit2, hbad, h.found, hm, hi, ne_eq, not_true, decide_false, Bool.not_true,
    Bool.or_self, Bool.false_eq_true, if_false]

/-! ### GATELIST_LOAD and GATELIST_STATUS (R286, R289, R290) -/

theorem gatelistLoadRun_loads {c : Cmd} {b : State} {clear : Bool} (honly : onlyBits (param c.ps 1) 0x3FF#32 = true)
    (hclear : bitAt (param c.ps 1) 9 = clear)
    (hcount : if clear then fld (param c.ps 1) 8 0 = 0 else 1 ≤ fld (param c.ps 1) 8 0 ∧ fld (param c.ps 1) 8 0 ≤ 256)
    (hshort : 2 ^ 32 ≤ (mk64 (param c.ps 4) (param c.ps 5)).toNat * 1000) (hlong : (mk64 (param c.ps 4) (param c.ps 5)).toNat ≤ secU 86400)
    (hwords : gateWordsOk (c.ps.drop 5) = true) (hwarn : b.power.bodWarn = false) :
    gatelistLoadRun c b =
      let list : GateList := ⟨mk64 (param c.ps 2) (param c.ps 3), mk64 (param c.ps 4) (param c.ps 5), gateEntries (c.ps.drop 5)⟩
      let x := swapInstant list.base.toNat list.cycle.toNat (b.time.nt.toNat + msU 1)
      let loaded := loadGates list clear b
      .ok (words64 (BitVec.ofNat 64 x.1) ++ [W (min x.2 0xFFFFFFFF)],
        { loaded with upd.settings.gate := if clear then none else some list }) := by
  have hn : (if clear then decide (fld (param c.ps 1) 8 0 ≠ 0)
      else decide (fld (param c.ps 1) 8 0 = 0) || decide (256 < fld (param c.ps 1) 8 0)) = false := by
    cases clear with
    | true =>
      have h0 : fld (param c.ps 1) 8 0 = 0 := hcount
      rw [if_pos rfl, h0]
      rfl
    | false =>
      obtain ⟨hlo, hhi⟩ : 1 ≤ fld (param c.ps 1) 8 0 ∧ fld (param c.ps 1) 8 0 ≤ 256 := hcount
      rw [if_neg Bool.false_ne_true, decide_eq_false (Nat.one_le_iff_ne_zero.mp hlo), decide_eq_false (Nat.not_lt.mpr hhi), Bool.or_self]
  simp only [gatelistLoadRun, honly, hclear, hn, Nat.not_lt.mpr hshort, Nat.not_lt.mpr hlong, hwords, hwarn, firstFail, decide_false, Bool.not_true,
    Bool.or_self, Bool.false_eq_true, if_false]

/-! ### BUDGET_LOAD and BUDGET_READ (R296, R297) -/

theorem budgetLoadRun_applies {c : Cmd} {b : State} (h1 : onlyBits (param c.ps 1) 0x00FF01FF#32 = true) (h2 : onlyBits (param c.ps 2) 0xFFF#32 = true)
    (hsub : 1 ≤ fld (param c.ps 1) 8 4) (hlast : fld (param c.ps 1) 3 0 + fld (param c.ps 1) 8 4 ≤ 16) (hn : 1 ≤ fld (param c.ps 1) 23 16)
    (hn' : fld (param c.ps 1) 23 16 ≤ 120) (hs : 1 ≤ fld (param c.ps 2) 11 0) (hs' : fld (param c.ps 2) 11 0 ≤ 3600)
    (hwindow : fld (param c.ps 1) 23 16 * fld (param c.ps 2) 11 0 ≤ 4000) (hlimits : limitsOk (c.ps.drop 2) = true)
    (hwarn : b.power.bodWarn = false) :
    budgetLoadRun c b = .ok ([],
      let applied := applyBudget c.ps b
      let item := budgetInForce (if fld (param c.ps 1) 8 4 = 16 then some c.ps else none) applied
      budgetWrite (extendMr 3 0x33#8 (digestWords c.ps) { applied with upd.settings.budget := some item })) := by
  have hmost : ¬16 < fld (param c.ps 1) 8 4 := by omega
  unfold budgetLoadRun
  simp only [h1, h2, Nat.one_le_iff_ne_zero.mp hsub, hmost, Nat.not_lt.mpr hlast, Nat.one_le_iff_ne_zero.mp hn, Nat.not_lt.mpr hn',
    Nat.one_le_iff_ne_zero.mp hs, Nat.not_lt.mpr hs', Nat.not_lt.mpr hwindow, hlimits, hwarn, firstFail, decide_false, Bool.not_true, Bool.or_self,
    Bool.false_eq_true, if_false]

theorem budgetReadRun_reads {c : Cmd} {b : State} {i : Fin 16} (hps : c.ps = [W i.val]) :
    let credit := signedUs (frameCredit i b) b
    let rest := signedUs ((allowance i b : Int) - useOf i b) credit.2
    budgetReadRun c b = .ok ([W b.traffic.accounts[i].limit, W (useOf i b), credit.1, rest.1,
      W (ceilDiv ((secU ((b.traffic.bucketNo + 1) * b.traffic.s) - b.elapsed.now.toNat) * 1000000) (2 ^ 32)),
      W (b.traffic.accounts[i].buckets.getD b.traffic.n 0),
      W (min (b.link.frames.countP fun f => f.held && frameBand f b = some i) 255)], rest.2) := by
  have hpar : param c.ps 1 = W i.val := by rw [hps]; rfl
  obtain ⟨honly, hband⟩ : onlyBits (W i.val) 0xF#32 = true ∧ (Fin.ofNat 16 (fld (W i.val) 3 0) : Fin 16) = i := by
    fin_cases i <;> decide
  simp only [budgetReadRun, hpar, honly, hband, Bool.not_true, Bool.false_eq_true, if_false]

/-- Settles O19. -/
theorem trafficCommandsAnswer : Obligations.TrafficCommandsAnswer := by
  refine ⟨?queue, fun m => ?inbound, fun any bound => ⟨?unbind, ?rebind, ?bind⟩, fun clear => ?gates, ?gateStatus, ?budget, fun i => ?budgetRead⟩
  case queue =>
    exact answers_of_immediate (fun _ _ => rfl) fun c b ⟨hlen, honly, hweight, haction, hfree⟩ =>
      ⟨lenIs_of hlen, queueConfigRun_sets honly hweight haction hfree⟩
  case inbound =>
    refine answers_of_immediate (lenOk := meterLen) (fun _ _ => rfl) fun c b ⟨hlen, honly, hin, h2, hprofile, hm⟩ => ⟨?_, ?_⟩
    · exact meterLen_of (del := false) (bit_of_only honly 2 rfl) hlen rfl
    · exact meterSetRun_inbound honly hin h2 hprofile hm
  case unbind =>
    rintro o rfl
    exact answers_of_immediate (lenOk := meterLen) (fun _ _ => rfl) fun c b ⟨hlen, h1, h2, hzero, hany, hdel, hbound⟩ =>
      ⟨meterLen_of hdel hlen rfl, meterSetRun_unbinds ⟨h1, h2, hzero, hany, hdel, hbound⟩⟩
  case rebind =>
    rintro o m rfl
    exact answers_of_immediate (lenOk := meterLen) (fun _ _ => rfl) fun c b ⟨hlen, ⟨h1, h2, hzero, hany, hdel, hbound⟩, hm⟩ =>
      ⟨meterLen_of hdel hlen rfl, meterSetRun_rebinds ⟨h1, h2, hzero, hany, hdel, hbound⟩ hm⟩
  case bind =>
    rintro m i rfl
    exact answers_of_immediate (lenOk := meterLen) (fun _ _ => rfl) fun c b ⟨hlen, ⟨h1, h2, hzero, hany, hdel, hbound⟩, hm, hi⟩ =>
      ⟨meterLen_of hdel hlen rfl, meterSetRun_binds ⟨h1, h2, hzero, hany, hdel, hbound⟩ hm hi⟩
  case gates =>
    refine answers_of_immediate (fun _ _ => rfl) fun c b ⟨hlen, honly, hclear, hcount, hshort, hlong, hwords, hwarn⟩ =>
      ⟨?_, gatelistLoadRun_loads honly hclear hcount hshort hlong hwords hwarn⟩
    simp only [Bool.and_eq_true, decide_eq_true_eq]
    omega
  case gateStatus => exact answers_of_immediate (fun _ _ => rfl) fun c b hlen => ⟨lenIs_of hlen, rfl⟩
  case budget =>
    refine answers_of_immediate (fun _ _ => rfl) fun c b ⟨hlen, h1, h2, hsub, hlast, hn, hn', hs, hs', hwindow, hlimits, hwarn⟩ =>
      ⟨?_, budgetLoadRun_applies h1 h2 hsub hlast hn hn' hs hs' hwindow hlimits hwarn⟩
    simp only [Bool.and_eq_true, decide_eq_true_eq]
    omega
  case budgetRead =>
    exact answers_of_immediate (fun _ _ => rfl) fun c b hps => ⟨lenIs_of (by rw [hps]; rfl), budgetReadRun_reads hps⟩

end Sys2Proof.TrafficLaws

/-! The key store's commands, the public-key commands, attestation, lifecycle and debug (O20, O22). -/

namespace Sys2Proof.SecurityLaws
open Sys2Proof.Machine Sys2Proof.Statements Sys2Proof.CommandRules

/-! ### Slots that are written (R318, R320, R323, R333) -/

theorem targetRefusal_none {slot : Nat} {persist bad : Bool} {s : State} (hon : s.isUsable dCRYPTO = true) (hbad : bad = false)
    (hpersist : persist = true → isSession slot = false) (hlife : s.lifecycle ≠ .retired) (hslot : 4 ≤ slot) :
    targetRefusal slot persist bad s = none := by
  have hsession : (persist && isSession slot) = false := Bool.and_eq_false_imp.mpr hpersist
  simp only [targetRefusal, hon, hbad, hsession, hlife, Nat.not_lt.mpr hslot, firstFail, decide_false, Bool.not_true, Bool.or_self,
    Bool.false_eq_true, if_false]

/-! ### KEY_LOAD (R333) -/

/-- What KEY_LOAD's fields and the slot it names must satisfy for its key material to be loaded. -/
structure MayLoad (material : List Byte) (c : Cmd) (b : State) : Prop where
  usable : b.isUsable dCRYPTO = true
  word1 : onlyBits (param c.ps 1) 0x000FFFFF#32 = true
  type : fld (param c.ps 1) 6 5 ≠ 3
  source : fld (param c.ps 1) 13 12 ≠ 3
  persist : bitAt (param c.ps 1) 14 = true → isSession (fld (param c.ps 1) 4 0) = false
  life : b.lifecycle ≠ .retired
  slot : 4 ≤ fld (param c.ps 1) 4 0
  unsealed : b.sec.sealedSlots.getLsbD (fld (param c.ps 1) 4 0) = false
  plain : fld (param c.ps 1) 13 12 = 0 → fld (param c.ps 1) 4 0 < 12 → b.lifecycle ≠ .secured
  key : loadedKey c b = .ok material
  closed : slotOpen (fld (param c.ps 1) 4 0) b = false
  warn : bitAt (param c.ps 1) 14 = true → b.power.bodWarn = false

/-- The state after KEY_LOAD has put its material in the slot. -/
def loadedSlot (material : List Byte) (c : Cmd) (b : State) : State :=
  let w := param c.ps 1
  let t := typeOfCode (fld w 6 5)
  putSlot (fld w 4 0) { type := t, usage := BitVec.ofNat 5 (fld w 11 7), key := keyOf material, persist := bitAt w 14
                        pub := if t = .p256 then some (publicOf (keyOf material)) else none } b

theorem keyLoadWork_loads {material : List Byte} {c : Cmd} {b : State} (h : MayLoad material c b) :
    keyLoadWork c b = finish c .ok [] (loadedSlot material c b) := by
  have htarget := targetRefusal_none (bad := !onlyBits (param c.ps 1) 0x000FFFFF#32 || decide (fld (param c.ps 1) 6 5 = 3) ||
      decide (fld (param c.ps 1) 13 12 = 3)) h.usable
    (by rw [h.word1, decide_eq_false h.type, decide_eq_false h.source]; rfl) h.persist h.life h.slot
  have hplain : (decide (fld (param c.ps 1) 13 12 = 0) && decide (fld (param c.ps 1) 4 0 < 12) && decide (b.lifecycle = .secured)) = false := by
    rw [Bool.and_eq_false_imp, Bool.and_eq_true]
    exact fun ⟨hsrc, hslot⟩ => decide_eq_false (h.plain (of_decide_eq_true hsrc) (of_decide_eq_true hslot))
  have hwarn : (bitAt (param c.ps 1) 14 && b.power.bodWarn) = false := Bool.and_eq_false_imp.mpr h.warn
  simp only [keyLoadWork, htarget, h.unsealed, hplain, h.key, h.closed, hwarn, firstFail, Bool.or_self, Bool.false_eq_true, if_false]
  rfl

theorem keyLoadDo_unsigned {c : Cmd} {b : State} (hsrc : fld (param c.ps 1) 13 12 ≠ 2) : keyLoadDo c b = keyLoadWork c b := by
  simp only [keyLoadDo, hsrc, decide_false, Bool.false_and, Bool.false_eq_true, if_false]

theorem keyLoadDo_signed {c : Cmd} {b : State} (hsrc : fld (param c.ps 1) 13 12 = 2) (hon : b.isUsable dCRYPTO = true) :
    keyLoadDo c b = askPka c b := by
  rw [← askPka_eq]
  simp only [keyLoadDo, hsrc, hon, decide_true, Bool.and_self, if_true]

/-! ### KEY_DERIVE, KEY_ZERO, RANDOM_READ (R317, R334, R335) -/

theorem keyDeriveDo_derives {c : Cmd} {b : State} {k : KeySlot} (hon : b.isUsable dCRYPTO = true) (h1 : onlyBits (param c.ps 1) 0x0003FFFF#32 = true)
    (h2 : onlyBits (param c.ps 2) 0x0000FF7F#32 = true) (htype : fld (param c.ps 1) 11 10 < 2) (hlabel : 1 ≤ fld (param c.ps 2) 6 0)
    (hlabel' : fld (param c.ps 2) 6 0 ≤ 64) (hcontext : fld (param c.ps 2) 15 8 ≤ 128)
    (hpersist : bitAt (param c.ps 1) 17 = true → isSession (fld (param c.ps 1) 9 5) = false) (hlife : b.lifecycle ≠ .retired)
    (hslot : 4 ≤ fld (param c.ps 1) 9 5) (hsealed : b.sec.sealedSlots.getLsbD (fld (param c.ps 1) 9 5) = false)
    (hsource : slotRefusal (fld (param c.ps 1) 4 0) 3 [.aes128, .aes256, .secret256] b = none)
    (hkey : usableSlot (fld (param c.ps 1) 4 0) b = some k) (hclosed : slotOpen (fld (param c.ps 1) 9 5) b = false)
    (hwarn : bitAt (param c.ps 1) 17 = true → b.power.bodWarn = false) :
    keyDeriveDo c b = finish c .ok []
      (let w := param c.ps 1
      let nl := fld (param c.ps 2) 6 0
      let t := typeOfCode (fld w 11 10)
      let label := (unpackLE (c.ps.drop 2)).take nl
      let context := (unpackLE (c.ps.drop (2 + (nl + 3) / 4))).take (fld (param c.ps 2) 15 8)
      putSlot (fld w 9 5) { type := t, usage := BitVec.ofNat 5 (fld w 16 12), persist := bitAt w 17
                            key := keyOf (kdf k.kdfBytes label context (keyBytes t)) } b) := by
  have htarget := targetRefusal_none (bad := !onlyBits (param c.ps 1) 0x0003FFFF#32 || !onlyBits (param c.ps 2) 0x0000FF7F#32 ||
      decide (2 ≤ fld (param c.ps 1) 11 10) || decide (fld (param c.ps 2) 6 0 = 0) || decide (64 < fld (param c.ps 2) 6 0) ||
      decide (128 < fld (param c.ps 2) 15 8)) hon
    (by rw [h1, h2, decide_eq_false (Nat.not_le.mpr htype), decide_eq_false (Nat.one_le_iff_ne_zero.mp hlabel),
          decide_eq_false (Nat.not_lt.mpr hlabel'), decide_eq_false (Nat.not_lt.mpr hcontext)]; rfl) hpersist hlife hslot
  have hhold : (bitAt (param c.ps 1) 17 && b.power.bodWarn) = false := Bool.and_eq_false_imp.mpr hwarn
  simp only [keyDeriveDo, htarget, hsealed, hsource, hkey, hclosed, hhold, firstFail, Bool.false_eq_true, if_false]

theorem keyZeroDo_erases {c : Cmd} {b : State} (hon : b.isUsable dCRYPTO = true) (honly : onlyBits (param c.ps 1) 0x3F#32 = true)
    (hslot : 4 ≤ fld (param c.ps 1) 4 0) (hsealed : b.sec.sealedSlots.getLsbD (fld (param c.ps 1) 4 0) = false)
    (hclosed : slotOpen (fld (param c.ps 1) 4 0) b = false ∨ bitAt (param c.ps 1) 5 = true) :
    keyZeroDo c b =
      finish c .ok [] (eraseSlot (fld (param c.ps 1) 4 0) (abandonSlots (fun n => n = fld (param c.ps 1) 4 0) b)) := by
  have hbusy : (slotOpen (fld (param c.ps 1) 4 0) b && !bitAt (param c.ps 1) 5) = false := by
    obtain h | h := hclosed <;> simp [h]
  simp only [keyZeroDo, hon, honly, Nat.not_lt.mpr hslot, hsealed, hbusy, firstFail, decide_false, Bool.not_true, Bool.false_eq_true, if_false]

theorem rngReadRun_draws {c : Cmd} {b : State} (hon : b.isUsable dCRYPTO = true) (hn : 1 ≤ (param c.ps 1).toNat) (hn' : (param c.ps 1).toNat ≤ 1020)
    (htrng : b.sec.trngOk = true) : rngReadRun c b = .ok (drbgWords (param c.ps 1).toNat b) := by
  have hsmall : (param c.ps 1).toNat < 2 ^ 10 := by omega
  have honly : onlyBits (param c.ps 1) 0x3FF#32 = true := small_only hsmall (by decide)
  simp only [rngReadRun, hon, honly, fld_small hsmall 9 rfl, Nat.one_le_iff_ne_zero.mp hn, Nat.not_lt.mpr hn', htrng, firstFail, decide_false,
    Bool.not_true, Bool.or_self, Bool.false_eq_true, if_false]

theorem mayLoad_of {material : List Byte} {c : Cmd} {b : State}
    (h : b.isUsable dCRYPTO = true ∧ onlyBits (param c.ps 1) 0x000FFFFF#32 = true ∧ fld (param c.ps 1) 6 5 ≠ 3 ∧ fld (param c.ps 1) 13 12 ≠ 3 ∧
      (bitAt (param c.ps 1) 14 = true → isSession (fld (param c.ps 1) 4 0) = false) ∧ b.lifecycle ≠ .retired ∧ 4 ≤ fld (param c.ps 1) 4 0 ∧
      b.sec.sealedSlots.getLsbD (fld (param c.ps 1) 4 0) = false ∧
      (fld (param c.ps 1) 13 12 = 0 → fld (param c.ps 1) 4 0 < 12 → b.lifecycle ≠ .secured) ∧ loadedKey c b = .ok material ∧
      slotOpen (fld (param c.ps 1) 4 0) b = false ∧ (bitAt (param c.ps 1) 14 = true → b.power.bodWarn = false)) : MayLoad material c b := by
  obtain ⟨h1, h2, h3, h4, h5, h6, h7, h8, h9, h10, h11, h12⟩ := h
  exact ⟨h1, h2, h3, h4, h5, h6, h7, h8, h9, h10, h11, h12⟩

/-- Settles O20. -/
theorem keyStoreCommandsAnswer : Obligations.KeyStoreCommandsAnswer := by
  refine ⟨fun material => ?load, ?signed, fun material => ?verified, fun k => ?derive, ?zero, ?random⟩
  case load =>
    refine does_of_owner (fun _ _ => rfl) fun c b ⟨hlen, hready, hsrc, hmay⟩ => ⟨hlen, ?_⟩
    have hload := mayLoad_of hmay
    exact (waitKeys_ready hload.usable hready).trans ((keyLoadDo_unsigned hsrc).trans (keyLoadWork_loads hload))
  case signed =>
    exact does_of_owner (fun _ _ => rfl) fun c b ⟨hlen, hready, hsrc, hon⟩ =>
      ⟨hlen, (waitKeys_ready hon hready).trans (keyLoadDo_signed hsrc hon)⟩
  case verified =>
    exact WorkDone.of keyLoadWork (fun r ps s hjob => by simp only [pkaFinish, hjob]; rfl) fun c b _ hmay => keyLoadWork_loads (mayLoad_of hmay)
  case derive =>
    exact does_of_owner (fun _ _ => rfl) fun c b ⟨hlen, hon, hready, h1, h2, htype, hlabel, hlabel', hcontext, hpersist, hlife, hslot, hsealed, hsource,
      hkey, hclosed, hwarn⟩ => ⟨hlen, (waitKeys_ready hon hready).trans
        (keyDeriveDo_derives hon h1 h2 htype hlabel hlabel' hcontext hpersist hlife hslot hsealed hsource hkey hclosed hwarn)⟩
  case zero =>
    exact does_of_owner (fun _ _ => rfl) fun c b ⟨hlen, hon, hready, honly, hslot, hsealed, hclosed⟩ =>
      ⟨lenIs_of hlen, thenFree_congr ((waitKeys_ready hon hready).trans (keyZeroDo_erases hon honly hslot hsealed hclosed))⟩
  case random =>
    exact answers_of_immediate (fun _ _ => rfl) fun c b ⟨hlen, hon, hn, hn', htrng⟩ => ⟨lenIs_of hlen, rngReadRun_draws hon hn hn' htrng⟩

end Sys2Proof.SecurityLaws

/-! The public-key commands, attestation, lifecycle and debug (O22). -/

namespace Sys2Proof.AttestationLaws
open Sys2Proof.Machine Sys2Proof.Statements Sys2Proof.CommandRules Sys2Proof.SecurityLaws

/-! ### Commands that join the PKA (R315, R331, R338, R340) -/

/-- A request of one operation takes the PKA if it is free, else it waits behind the others. -/
theorem pkaPut_eq (c : Cmd) (j : PkaJob) (b : State) :
    pkaPut c j b = if b.sec.pka = none then { b with sec.pka := some ⟨c.port, c.tag, j, 1⟩ }
      else { b with sec.pkaQueue := b.sec.pkaQueue ++ [⟨c.port, c.tag, j, 1⟩] } := by
  simp only [pkaPut, Option.isNone_iff_eq_none]

theorem ecdhDo_generates {c : Cmd} {b : State} (hon : b.isUsable dCRYPTO = true) (h1 : onlyBits (param c.ps 1) 0x0001FFFE#32 = true)
    (hpersist : bitAt (param c.ps 1) 16 = true → isSession (fld (param c.ps 1) 5 1) = false ∧ b.power.bodWarn = false)
    (husage : BitVec.ofNat 5 (fld (param c.ps 1) 15 11) &&& 7#5 = 0#5) (hlife : b.lifecycle ≠ .retired) (hslot : 4 ≤ fld (param c.ps 1) 5 1)
    (hsealed : b.sec.sealedSlots.getLsbD (fld (param c.ps 1) 5 1) = false) (htrng : b.sec.trngOk = true) :
    ecdhDo c b = pkaPut c (.genKey (fld (param c.ps 1) 5 1) (BitVec.ofNat 5 (fld (param c.ps 1) 15 11)) (bitAt (param c.ps 1) 16)) b := by
  have hop : bitAt (param c.ps 1) 0 = false := bit_of_only h1 0 rfl
  have hwide : onlyBits (param c.ps 1) 0x0001FFFF#32 = true := only_mono h1 rfl
  have htarget := targetRefusal_none hon rfl (fun h => (hpersist h).1) hlife hslot
  have hwarn : (bitAt (param c.ps 1) 16 && b.power.bodWarn) = false := Bool.and_eq_false_imp.mpr fun h => (hpersist h).2
  simp only [ecdhDo, hop, hwide, husage, hsealed, htrng, hwarn, htarget, firstFail, ne_eq, not_true, decide_false, Bool.not_true, Bool.not_false,
    Bool.and_true, Bool.or_self, Bool.false_eq_true, if_false]

theorem ecdhDo_agrees {c : Cmd} {b : State} {k : KeySlot} (hop : bitAt (param c.ps 1) 0 = true) (hon : b.isUsable dCRYPTO = true)
    (h1 : onlyBits (param c.ps 1) 0x0001FFFF#32 = true) (hsession : isSession (fld (param c.ps 1) 5 1) = true) (hslot : 4 ≤ fld (param c.ps 1) 5 1)
    (hcurve : onCurve (pair256 (c.ps.drop 1)).1.toNat (pair256 (c.ps.drop 1)).2.toNat = true) (hlife : b.lifecycle ≠ .retired)
    (hsealed : b.sec.sealedSlots.getLsbD (fld (param c.ps 1) 5 1) = false) (hpriv : 4 ≤ fld (param c.ps 1) 10 6)
    (hkey : usableSlot (fld (param c.ps 1) 10 6) b = some k) (htype : k.type = .p256) :
    ecdhDo c b = pkaPut c (.agree (fld (param c.ps 1) 5 1) (fld (param c.ps 1) 10 6) (pair256 (c.ps.drop 1))) b := by
  have htarget := targetRefusal_none (persist := false) hon rfl nofun hlife hslot
  simp only [ecdhDo, hop, h1, hsession, hcurve, hsealed, Nat.not_lt.mpr hpriv, hkey, htype, htarget, ne_eq, not_true, Bool.not_true, Bool.and_false,
    Bool.or_self, Bool.false_eq_true, if_false, if_true]

theorem signDo_queues {c : Cmd} {b : State} (hon : b.isUsable dCRYPTO = true) (hsmall : (param c.ps 1).toNat < 32)
    (hslot : slotRefusal (param c.ps 1).toNat 4 [.p256] b = none) :
    signDo c b = pkaPut c (.sign (param c.ps 1).toNat (mk256 (c.ps.drop 1))) b := by
  have honly : onlyBits (param c.ps 1) 0x1F#32 = true := small_only (n := 5) hsmall (by decide)
  simp only [signDo, hon, honly, fld_small (n := 5) hsmall 4 rfl, hslot, firstFail, Bool.not_true, Bool.false_eq_true, if_false]

theorem verifyDo_queues {c : Cmd} {b : State} (hon : b.isUsable dCRYPTO = true) (hsmall : (param c.ps 1).toNat < 3)
    (hcurve : onCurve (pair256 (c.ps.drop 1)).1.toNat (pair256 (c.ps.drop 1)).2.toNat = true) :
    verifyDo c b = pkaPut c (.verify (rootMeets (param c.ps 1).toNat (pair256 (c.ps.drop 1)) b) (pair256 (c.ps.drop 1))
      (mk256 ((c.ps.drop 17).take 8)) (pair256 (c.ps.drop 25)).1 (pair256 (c.ps.drop 25)).2) b := by
  have hbits : (param c.ps 1).toNat < 2 ^ 2 := by omega
  have honly : onlyBits (param c.ps 1) 0x3#32 = true := small_only hbits (by decide)
  have hroot : (param c.ps 1).toNat ≠ 3 := by omega
  simp only [verifyDo, hon, honly, fld_small hbits 1 rfl, hroot, hcurve, firstFail, decide_false, Bool.not_true, Bool.or_self, Bool.false_eq_true,
    if_false]

theorem public_key_commands_queue : publicKeyCommandsQueue := by
  refine ⟨?generate, fun k => ?agree, ?sign, ?verify⟩
  case generate =>
    refine does_of_owner (fun _ _ => rfl) fun c b ⟨hlen, hon, hready, h1, hpersist, husage, hlife, hslot, hsealed, htrng⟩ => ⟨?_, ?_⟩
    · rw [show bitAt (param c.ps 1) 0 = false from bit_of_only h1 0 rfl]
      exact decide_eq_true hlen
    · exact (waitKeys_ready hon hready).trans ((ecdhDo_generates hon h1 hpersist husage hlife hslot hsealed htrng).trans (pkaPut_eq ..))
  case agree =>
    refine does_of_owner (fun _ _ => rfl) fun c b
      ⟨hlen, hop, hon, hready, h1, hsession, hslot, hcurve, hlife, hsealed, hpriv, hkey, htype⟩ => ⟨?_, ?_⟩
    · rw [hop]
      exact decide_eq_true hlen
    · exact (waitKeys_ready hon hready).trans
        ((ecdhDo_agrees hop hon h1 hsession hslot hcurve hlife hsealed hpriv hkey htype).trans (pkaPut_eq ..))
  case sign =>
    exact does_of_owner (fun _ _ => rfl) fun c b ⟨hlen, hon, hready, hsmall, hslot⟩ =>
      ⟨lenIs_of hlen, (waitKeys_ready hon hready).trans ((signDo_queues hon hsmall hslot).trans (pkaPut_eq ..))⟩
  case verify =>
    exact does_of_owner (fun _ _ => rfl) fun c b ⟨hlen, hon, hsmall, hcurve⟩ =>
      ⟨lenIs_of hlen, (verifyDo_queues hon hsmall hcurve).trans (pkaPut_eq ..)⟩

/-! ### ATTEST (R325 to R327, R337) -/

theorem attestDo_asks {c : Cmd} {b : State} (hop : param c.ps 1 = 0#32) (hon : b.isUsable dCRYPTO = true) : attestDo c b = askPka c b := by
  rw [← askPka_eq]
  simp only [attestDo, hop, hon, decide_true, Bool.and_self, if_true]

theorem attestDo_works {c : Cmd} {b : State} (hop : param c.ps 1 ≠ 0#32) : attestDo c b = attestWork c b := by
  simp only [attestDo, hop, decide_false, Bool.false_and, Bool.false_eq_true, if_false]

theorem attestWork_reports {c : Cmd} {b : State} (hop : param c.ps 1 = 0#32) (hon : b.isUsable dCRYPTO = true) :
    attestWork c b = attestServed 0xFFFFFF#24 false false (finish c .ok (packLE (report (unpackBE (c.ps.drop 1)) b)) b) := by
  have hfld : fld 0#32 1 0 = 0 := rfl
  simp only [attestWork, hop, hon, hfld, onlyBits_zero, Bool.not_true, Bool.false_eq_true, if_false]

theorem attestWork_remote {c : Cmd} {b : State} (hop : param c.ps 1 = 1#32) (hon : b.isUsable dCRYPTO = true)
    (h2 : onlyBits (param c.ps 2) 0x0FFF1F01#32 = true) (hrate : fld (param c.ps 2) 27 20 ≠ 0) :
    attestWork c b = finish c .ok []
      (let w := param c.ps 2
      { b with
        sec.remoteEn := bitAt w 0, sec.remoteQueue := Fin.ofNat 32 (fld w 12 8)
        sec.remoteProfile := Fin.ofNat 16 (fld w 19 16), sec.remoteRate := fld w 27 20
        upd.settings.attest := some (Fin.ofNat 32 (fld w 12 8), Fin.ofNat 16 (fld w 19 16), fld w 27 20) }) := by
  have hfld : fld 1#32 1 0 = 1 := rfl
  have honly : onlyBits 1#32 0x3#32 = true := rfl
  simp only [attestWork, hop, hon, hfld, honly, h2, hrate, decide_false, Bool.not_true, Bool.or_self, Bool.false_eq_true, if_false]

theorem attestWork_log {c : Cmd} {b : State} (hop : param c.ps 1 = 2#32) (hon : b.isUsable dCRYPTO = true) (hsmall : (param c.ps 2).toNat < 256) :
    attestWork c b = segments c (logPackets (param c.ps 2).toNat b) b := by
  have hfld : fld 2#32 1 0 = 2 := rfl
  have honly : onlyBits 2#32 0x3#32 = true := rfl
  simp only [attestWork, hop, hon, hfld, honly, onlyBits_byte hsmall, fld_small (n := 8) hsmall 7 rfl, Bool.not_true, Bool.false_eq_true, if_false]

theorem attestWork_certificate {c : Cmd} {b : State} (hop : param c.ps 1 = 3#32) (hon : b.isUsable dCRYPTO = true) :
    attestWork c b = finish c .ok (W certificateBytes.length :: packLE certificateBytes) b := by
  have hfld : fld 3#32 1 0 = 3 := rfl
  have honly : onlyBits 3#32 0x3#32 = true := rfl
  simp only [attestWork, hop, hon, hfld, honly, Bool.not_true, Bool.false_eq_true, if_false]

theorem attestLen_of {ps : List Word} {op n : Nat} (hop : param ps 1 = W op) (hlen : ps.length = n)
    (h : op = 0 ∧ n = 5 ∨ op = 1 ∧ n = 2 ∨ op = 2 ∧ n = 2 ∨ op = 3 ∧ n = 1) : attestLen ps = true := by
  obtain ⟨rfl, rfl⟩ | ⟨rfl, rfl⟩ | ⟨rfl, rfl⟩ | ⟨rfl, rfl⟩ := h <;> exact (by rw [attestLen, hop]; exact decide_eq_true hlen)

/-! ### LIFECYCLE_ADVANCE (R322, R323, R338) -/

theorem lifecycleDo_works {c : Cmd} {b : State} (h : bitAt (param c.ps 1) 0 = false ∨ b.lifecycle ≠ .secured) :
    lifecycleDo c b = lifecycleWork c b := by
  obtain h | h := h <;> simp [lifecycleDo, advanceSigned, h]

theorem lifecycleDo_asks {c : Cmd} {b : State} (hlen : c.ps.length = 33) (hop : bitAt (param c.ps 1) 0 = true) (hlife : b.lifecycle = .secured)
    (hon : b.isUsable dCRYPTO = true) : lifecycleDo c b = askPka c b := by
  rw [← askPka_eq]
  simp only [lifecycleDo, advanceSigned, hlen, hop, hlife, hon, decide_true, Bool.and_self, if_true]

theorem lifecycleWork_challenges {c : Cmd} {b : State} (hlen : c.ps.length = 1) (h1 : onlyBits (param c.ps 1) 0x6#32 = true)
    (hhost : b.isHostPort c.port = true) (hon : b.isUsable dCRYPTO = true) (hwarn : b.power.bodWarn = false) (htrng : b.sec.trngOk = true) :
    lifecycleWork c b = finish c .ok (words256 (freshChal b).1) { (freshChal b).2 with sec.lifeChal := some ((freshChal b).1, b.elapsed.now) } := by
  have hop : bitAt (param c.ps 1) 0 = false := bit_of_only h1 0 rfl
  have hwide : onlyBits (param c.ps 1) 0x7#32 = true := only_mono h1 rfl
  simp only [lifecycleWork, hlen, hop, hwide, hhost, hon, hwarn, htrng, firstFail, ne_eq, not_true, decide_false, Bool.not_true, Bool.not_false,
    Bool.false_and, Bool.and_false, Bool.or_self, Bool.false_eq_true, if_false, if_true]

theorem lifecycleWork_advances {c : Cmd} {b : State} (hlen : c.ps.length = 1) (h1 : onlyBits (param c.ps 1) 0x7#32 = true)
    (hop : bitAt (param c.ps 1) 0 = true) (htarget : fld (param c.ps 1) 2 1 ≠ 0) (hhost : b.isHostPort c.port = true)
    (hmay : mayAdvance (fld (param c.ps 1) 2 1) b = true) (hlife : b.lifecycle ≠ .secured) (hwarn : b.power.bodWarn = false) :
    lifecycleWork c b = finish c .ok [] (oweReset c.port (advanceEffects (fld (param c.ps 1) 2 1) b)) := by
  simp only [lifecycleWork, advanceSigned, hlen, h1, hop, htarget, hhost, hmay, hlife, hwarn, firstFail, ne_eq, not_true, decide_false, Bool.not_true,
    Bool.not_false, Bool.false_and, Bool.and_false, Bool.or_self, Bool.true_or, Bool.false_eq_true, if_false]

theorem lifecycleWork_retires {c : Cmd} {b : State} {ch : BitVec 256} (hlen : c.ps.length = 33) (h1 : param c.ps 1 = 7#32)
    (hhost : b.isHostPort c.port = true) (hon : b.isUsable dCRYPTO = true) (hlife : b.lifecycle = .secured) (hwarn : b.power.bodWarn = false)
    (hcurve : onCurve (pair256 (c.ps.drop 1)).1.toNat (pair256 (c.ps.drop 1)).2.toNat = true) (hchal : validChal b.sec.lifeChal b = some ch)
    (hsigned : ownerSigned (pair256 (c.ps.drop 1)) (pair256 (c.ps.drop 17)) (textBytes "KR96-RETIRE" ++ bytesOfBE 8 b.eui.toNat ++ bytes256 ch) b = true) :
    lifecycleWork c b = finish c .ok [] (oweReset c.port (advanceEffects 3 { b with sec.lifeChal := none })) := by
  have hfld : fld 7#32 2 1 = 3 := rfl
  have honly : onlyBits 7#32 0x7#32 = true := rfl
  have hbit : bitAt 7#32 0 = true := rfl
  have hmay : mayAdvance 3 b = true := by simp only [mayAdvance, hlife]
  have h30 : ¬3 = 0 := by decide
  simp only [lifecycleWork, advanceSigned, hlen, h1, hfld, honly, hbit, hhost, hon, hlife, hmay, hwarn, hcurve, hchal, hsigned, h30, firstFail, ne_eq,
    not_true, decide_true, decide_false, Bool.not_true, Bool.and_self, Bool.and_false, Bool.or_true, Bool.or_self, Bool.false_and,
    Bool.false_eq_true, if_false, if_true]

/-! ### DEBUG_UNLOCK (R328, R329, R339) -/

theorem debugUnlockDo_works {c : Cmd} {b : State} (h : bitAt (param c.ps 1) 0 = false ∨ b.lifecycle ≠ .secured) :
    debugUnlockDo c b = debugUnlockWork c b := by
  obtain h | h := h <;> simp [debugUnlockDo, h]

theorem debugUnlockDo_asks {c : Cmd} {b : State} (hlen : c.ps.length = 33) (hop : bitAt (param c.ps 1) 0 = true) (hlife : b.lifecycle = .secured)
    (hon : b.isUsable dCRYPTO = true) : debugUnlockDo c b = askPka c b := by
  rw [← askPka_eq]
  simp only [debugUnlockDo, hlen, hop, hlife, hon, decide_true, Bool.and_self, if_true]

theorem askPka_ctxs (c : Cmd) (b : State) : (askPka c b).sec.ctxs = b.sec.ctxs := by
  unfold askPka
  split <;> rfl

/-- A meaning that leaves the contexts as they are frees none. -/
theorem thenFree_of_ctxs {f : Cmd → State → State} {c : Cmd} {b : State} (h : (f c b).sec.ctxs = b.sec.ctxs) : thenFree f c b = f c b := by
  simp only [thenFree, h, lt_irrefl, decide_false, Bool.false_and, Bool.false_eq_true, if_false]

theorem debugUnlockWork_challenges {c : Cmd} {b : State} (hlen : c.ps.length = 1) (h1 : onlyBits (param c.ps 1) 0x6#32 = true)
    (hon : b.isUsable dCRYPTO = true) (hlife : b.lifecycle ≠ .retired) (htrng : b.sec.trngOk = true) :
    debugUnlockWork c b = finish c .ok (words256 (freshChal b).1)
      { (freshChal b).2 with sec.debugChal := some ((freshChal b).1, b.elapsed.now) } := by
  have hop : bitAt (param c.ps 1) 0 = false := bit_of_only h1 0 rfl
  have hwide : onlyBits (param c.ps 1) 0x7#32 = true := only_mono h1 rfl
  simp only [debugUnlockWork, debugChallenge, hlen, hop, hwide, hon, hlife, htrng, firstFail, decide_true, decide_false, Bool.not_true, Bool.false_and,
    Bool.or_self, Bool.false_eq_true, if_false]

theorem debugUnlockWork_develop {c : Cmd} {b : State} {scope : Nat} (hscope : scope = 1 ∨ scope = 2) (hps : c.ps = [W (1 + 2 * scope)])
    (hlife : b.lifecycle = .develop) : debugUnlockWork c b = finish c .ok [] (grantUnlock scope (zeros 64) false b) := by
  have hpar : param c.ps 1 = W (1 + 2 * scope) := by rw [hps]; rfl
  have hlen : c.ps.length = 1 := by rw [hps]; rfl
  obtain ⟨honly, hbit, hfld, hone⟩ : onlyBits (W (1 + 2 * scope)) 0x7#32 = true ∧ bitAt (W (1 + 2 * scope)) 0 = true ∧
      fld (W (1 + 2 * scope)) 2 1 = scope ∧ (decide (scope = 0) || decide (scope = 3)) = false := by
    obtain rfl | rfl := hscope <;> decide
  simp only [debugUnlockWork, tryUnlock, hpar, hlen, honly, hbit, hfld, hone, hlife, decide_true, Bool.not_true, Bool.and_false, Bool.or_self,
    Bool.false_eq_true, if_false, if_true]

theorem debugUnlockWork_signed {c : Cmd} {b : State} {ch : BitVec 256} (hlen : c.ps.length = 33) (h1 : param c.ps 1 = 3#32)
    (hlife : b.lifecycle = .secured) (hfailed : b.sec.failedSigs < 3) (hon : b.isUsable dCRYPTO = true)
    (hcurve : onCurve (pair256 (c.ps.drop 1)).1.toNat (pair256 (c.ps.drop 1)).2.toNat = true) (hchal : validChal b.sec.debugChal b = some ch)
    (hsigned : ownerSigned (pair256 (c.ps.drop 1)) (pair256 (c.ps.drop 17))
      (textBytes "KR96-DEBUG" ++ bytesOfBE 8 b.eui.toNat ++ bytes256 ch ++ [1#8]) b = true) :
    debugUnlockWork c b = finish c .ok [] (grantUnlock 1 (pubBytes (pair256 (c.ps.drop 1))) false { b with sec.debugChal := none }) := by
  have hfld : fld 3#32 2 1 = 1 := rfl
  have honly : onlyBits 3#32 0x7#32 = true := rfl
  have hbit : bitAt 3#32 0 = true := rfl
  have hone : (decide (1 = 0) || decide (1 = 3)) = false := rfl
  have h12 : ¬1 = 2 := by decide
  simp only [debugUnlockWork, tryUnlock, h1, hlen, honly, hbit, hfld, hone, h12, hlife, Nat.not_le.mpr hfailed, hon, hcurve, hchal, hsigned,
    decide_true, Bool.not_true, Bool.and_false, Bool.or_self, Bool.false_eq_true, if_false, if_true]

theorem attestation_commands_answer : attestationCommandsAnswer := by
  refine ⟨?ask, ?report, ?remote, ?log, ?certificate, ?challenge, ?advance, ?askRetire, fun ch => ?retire, ?debugChallenge, fun scope hscope => ?develop,
    ?askDebug, fun ch => ?debug⟩
  case ask =>
    exact does_of_owner (fun _ _ => rfl) fun c b ⟨hlen, hop, hon, hready⟩ =>
      ⟨attestLen_of (op := 0) hop hlen (by decide), (waitKeys_ready hon hready).trans (attestDo_asks hop hon)⟩
  case report =>
    exact WorkDone.of attestWork (fun r ps s hjob => by simp only [pkaFinish, hjob]; rfl) fun c b _ ⟨hop, hon⟩ => attestWork_reports hop hon
  case remote =>
    exact does_of_owner (fun _ _ => rfl) fun c b ⟨hlen, hop, hon, hready, h2, hrate⟩ =>
      ⟨attestLen_of (op := 1) hop hlen (by decide), (waitKeys_ready hon hready).trans
        ((attestDo_works (by rw [hop]; decide)).trans (attestWork_remote hop hon h2 hrate))⟩
  case log =>
    exact does_of_owner (fun _ _ => rfl) fun c b ⟨hlen, hop, hon, hready, hsmall⟩ =>
      ⟨attestLen_of (op := 2) hop hlen (by decide), (waitKeys_ready hon hready).trans
        ((attestDo_works (by rw [hop]; decide)).trans (attestWork_log hop hon hsmall))⟩
  case certificate =>
    exact does_of_owner (fun _ _ => rfl) fun c b ⟨hlen, hop, hon, hready⟩ =>
      ⟨attestLen_of (op := 3) hop hlen (by decide), (waitKeys_ready hon hready).trans
        ((attestDo_works (by rw [hop]; decide)).trans (attestWork_certificate hop hon))⟩
  case challenge =>
    exact does_of_owner (fun _ _ => rfl) fun c b ⟨hlen, h1, hhost, hon, hwarn, htrng⟩ =>
      ⟨by rw [hlen]; rfl, (lifecycleDo_works (.inl (bit_of_only h1 0 rfl))).trans (lifecycleWork_challenges hlen h1 hhost hon hwarn htrng)⟩
  case advance =>
    exact does_of_owner (fun _ _ => rfl) fun c b ⟨hlen, h1, hop, htarget, hhost, hmay, hlife, hwarn⟩ =>
      ⟨by rw [hlen]; rfl, (lifecycleDo_works (.inr hlife)).trans (lifecycleWork_advances hlen h1 hop htarget hhost hmay hlife hwarn)⟩
  case askRetire =>
    exact does_of_owner (fun _ _ => rfl) fun c b ⟨hlen, hop, hlife, hon⟩ => ⟨by rw [hlen]; rfl, lifecycleDo_asks hlen hop hlife hon⟩
  case retire =>
    exact WorkDone.of lifecycleWork (fun r ps s hjob => by simp only [pkaFinish, hjob]; rfl)
      fun c b _ ⟨hlen, h1, hhost, hon, hlife, hwarn, hcurve, hchal, hsigned⟩ =>
        lifecycleWork_retires hlen h1 hhost hon hlife hwarn hcurve hchal hsigned
  case debugChallenge =>
    exact does_of_owner (fun _ _ => rfl) fun c b ⟨hlen, h1, hon, hlife, htrng⟩ =>
      ⟨by rw [hlen]; rfl, thenFree_congr
        ((debugUnlockDo_works (.inl (bit_of_only h1 0 rfl))).trans (debugUnlockWork_challenges hlen h1 hon hlife htrng))⟩
  case develop =>
    exact does_of_owner (fun _ _ => rfl) fun c b ⟨hps, hlife⟩ =>
      ⟨by rw [hps]; rfl, thenFree_congr
        ((debugUnlockDo_works (.inr (by rw [hlife]; decide))).trans (debugUnlockWork_develop hscope hps hlife))⟩
  case askDebug =>
    refine does_of_owner (fun _ _ => rfl) fun c b ⟨hlen, hop, hlife, hon⟩ => ⟨by rw [hlen]; rfl, ?_⟩
    have hasks := debugUnlockDo_asks hlen hop hlife hon
    exact (thenFree_of_ctxs (by rw [hasks, askPka_ctxs])).trans hasks
  case debug =>
    exact WorkDone.of debugUnlockWork (fun r ps s hjob => by simp only [pkaFinish, hjob]; rfl)
      fun c b _ ⟨hlen, h1, hlife, hfailed, hon, hcurve, hchal, hsigned⟩ =>
        debugUnlockWork_signed hlen h1 hlife hfailed hon hcurve hchal hsigned

/-- Settles O22. -/
theorem publicKeyAndAttestationCommandsAct : Obligations.PublicKeyAndAttestationCommandsAct :=
  ⟨public_key_commands_queue, attestation_commands_answer⟩

end Sys2Proof.AttestationLaws

/-! The flash and OTP commands (O23). -/

namespace Sys2Proof.FlashLaws
open Sys2Proof.Machine Sys2Proof.Statements Sys2Proof.CommandRules

/-! ### FLASH_PROGRAM (R392, R409) -/

/-- COUNT of a FLASH_PROGRAM. -/
def programLen (ps : List Word) : Bool := decide (2 ≤ ps.length) && ps.length = 2 + 4 * fld (param ps 2) 8 0

theorem programLen_of {ps : List Word} (h : ps.length = 2 + 4 * fld (param ps 2) 8 0) : programLen ps = true := by
  simp only [programLen, Bool.and_eq_true, decide_eq_true_eq]
  omega

/-- The sectors that a program's units lie in. -/
def programSectors (c : Cmd) : List Nat :=
  sectorRange ((param c.ps 1).toNat / 8192)
    (((param c.ps 1).toNat + 16 * fld (param c.ps 2) 8 0 - 1) / 8192 + 1 - (param c.ps 1).toNat / 8192)

theorem flashProgramRun_accepts {c : Cmd} {b : State} (h2 : onlyBits (param c.ps 2) 0x1FF#32 = true) (haligned : (param c.ps 1).toNat % 16 = 0)
    (hn : 1 ≤ fld (param c.ps 2) 8 0) (hmost : fld (param c.ps 2) 8 0 ≤ 252) (hsize : (param c.ps 1).toNat + 16 * fld (param c.ps 2) 8 0 ≤ b.flashSize)
    (harray : arrayOf b ((param c.ps 1).toNat / 8192) = arrayOf b (((param c.ps 1).toNat + 16 * fld (param c.ps 2) 8 0 - 1) / 8192))
    (hsecs : ∀ x ∈ programSectors c, inDataArea b x = true ∧ protectedFor b c.port (·.wp) x = false ∧ staleFlag b x = false)
    (hwarn : b.power.bodWarn = false) (hfree : flashBusy b (some (programSectors c)) = false) (haccept : canAccept c.port b = true) :
    flashProgramRun c b =
      let h := takeHandle c.port b
      let o : FlashOp := { port := c.port, handle := h.1, erase := false
                           units := unitsOf (param c.ps 1).toNat (chunks 16 (unpackLE (c.ps.drop 2))) }
      respondAccepted c h.1 (if b.flash.op.isSome then { h.2 with flash.inner := some o } else { h.2 with flash.op := some o }) := by
  have hopen : ((programSectors c).any fun x => !inDataArea b x || protectedFor b c.port (·.wp) x) = false :=
    any_false_of_forall fun x hx => ⟨(hsecs x hx).1, (hsecs x hx).2.1⟩
  have hfresh : (programSectors c).any (staleFlag b) = false := List.any_eq_false.mpr fun x hx => by simp [(hsecs x hx).2.2]
  simp only [programSectors] at hopen hfresh hfree
  unfold flashProgramRun
  simp only [h2, haligned, Nat.one_le_iff_ne_zero.mp hn, Nat.not_lt.mpr hmost, Nat.not_lt.mpr hsize, harray, hopen, hfresh, hwarn, hfree, haccept,
    firstFail, ne_eq, not_true, decide_false, Bool.not_true, Bool.or_self, Bool.false_eq_true, if_false]

/-! ### FLASH_ERASE (R401, R410) -/

theorem flashBusy_idle {b : State} (hop : b.flash.op = none) (herase : ∀ u, b.upd.session = some u → u.erasing = none) :
    flashBusy b none = false := by
  have hbank : bankErasing b = false := by
    unfold bankErasing
    cases hs : b.upd.session with
    | none => rfl
    | some u => simp only [herase u hs, Option.isSome_none]
  simp only [flashBusy, hbank, hop, Bool.or_self]

theorem flashEraseRun_accepts {c : Cmd} {b : State} (haligned : (param c.ps 1).toNat % 8192 = 0) (hn : 1 ≤ (param c.ps 2).toNat)
    (hmost : (param c.ps 2).toNat ≤ 248) (hsize : (param c.ps 1).toNat / 8192 + (param c.ps 2).toNat ≤ b.sectors)
    (harray : arrayOf b ((param c.ps 1).toNat / 8192) = arrayOf b ((param c.ps 1).toNat / 8192 + (param c.ps 2).toNat - 1))
    (hsecs : ∀ x ∈ sectorRange ((param c.ps 1).toNat / 8192) (param c.ps 2).toNat, inDataArea b x = true ∧ protectedFor b c.port (·.wp) x = false)
    (hwarn : b.power.bodWarn = false) (hfree : flashBusy b none = false) (haccept : canAccept c.port b = true) :
    flashEraseRun c b =
      let h := takeHandle c.port b
      let first := (param c.ps 1).toNat / 8192
      let o : FlashOp := { port := c.port, handle := h.1, erase := true, sector := first, left := (param c.ps 2).toNat }
      respondAccepted c h.1 { h.2 with
        flash.op := some o, flash.eraseSince := b.elapsed.now + BitVec.ofNat 64 (usU 20), flash.flags := h.2.flash.flags ||| 1#512 <<< first } := by
  have hsmall : (param c.ps 2).toNat < 2 ^ 9 := by omega
  have h2 : onlyBits (param c.ps 2) 0x1FF#32 = true := small_only hsmall (by decide)
  have hopen := any_false_of_forall hsecs
  unfold flashEraseRun
  simp only [h2, fld_small hsmall 8 rfl, haligned, Nat.one_le_iff_ne_zero.mp hn, Nat.not_lt.mpr hmost, Nat.not_lt.mpr hsize, harray, hopen, hwarn,
    hfree, haccept, firstFail, ne_eq, not_true, decide_false, Bool.not_true, Bool.or_self, Bool.false_eq_true, if_false, setFlag, if_true]

/-! ### FLASH_SUSPEND and FLASH_RESUME (R397, R399) -/

theorem flashSuspendRun_suspends {c : Cmd} {b : State} (hop : (if b.flash.suspCmd then b else flashProgress b).flash.op.isSome = true) :
    flashSuspendRun c b =
      finish c .ok [] { (if b.flash.suspCmd then b else flashProgress b) with flash.suspCmd := true, flash.resumeAfter := false } := by
  have hsome : (if b.flash.suspCmd then b else flashProgress b).flash.op.isNone = false := by rw [Option.isNone_eq_false_iff]; exact hop
  simp only [flashSuspendRun, hsome, Bool.false_eq_true, if_false]

theorem flashResumeRun_resumes {c : Cmd} {b : State} (hop : b.flash.op.isSome = true) (hcmd : b.flash.suspCmd = true)
    (hafter : b.flash.resumeAfter = false) (hwarn : b.power.bodWarn = false) :
    flashResumeRun c b = .ok ([], if b.flash.inner.isSome then { b with flash.resumeAfter := true }
      else { b with flash.suspCmd := false, flash.eraseSince := b.elapsed.now }) := by
  have hsome : b.flash.op.isNone = false := by rw [Option.isNone_eq_false_iff]; exact hop
  simp only [flashResumeRun, resumeErase, hsome, hcmd, hafter, hwarn, firstFail, Bool.not_true, Bool.or_self, Bool.false_eq_true, if_false]
  split <;> rfl

/-! ### PROTECT_UNLOCK (R405, R413) -/

/-- COUNT of a PROTECT_UNLOCK. -/
def unlockLen (ps : List Word) : Bool := decide (1 ≤ ps.length) && ps.length = (if bitAt (param ps 1) 0 then 1 else 5)

theorem unlockLen_of_password {ps : List Word} (hlen : ps.length = 5) (h1 : param ps 1 = 0#32) : unlockLen ps = true := by
  simp only [unlockLen, hlen, h1, bitAt_zero]
  rfl

theorem protectUnlockRun_locks {c : Cmd} {b : State} (h1 : param c.ps 1 = 1#32) :
    protectUnlockRun c b = finish c .ok [] (setUnlocked c.port false b) := by
  simp only [protectUnlockRun, h1, onlyBits_self, bitAt_one_zero, Bool.not_true, Bool.false_eq_true, if_false, if_true]

/-- Past its checks the digest of the password given decides. -/
theorem protectUnlockRun_password {c : Cmd} {b : State} (h1 : param c.ps 1 = 0#32) (hset : passwordSet b = true) (hwrong : b.flash.wrongPw < 3) :
    protectUnlockRun c b = if sha256 (unpackLE (c.ps.drop 1)) = otpHash b 32 then finish c .ok [] (setUnlocked c.port true b)
      else finish c .authFail [] { b with flash.wrongPw := b.flash.wrongPw + 1 } := by
  simp only [protectUnlockRun, h1, onlyBits_zero, bitAt_zero, hset, Nat.not_le.mpr hwrong, Bool.not_true, Bool.false_eq_true, if_false]

/-! ### The OTP row (R407, R408, R414, R415) -/

theorem otpReadRun_reads {c : Cmd} {b : State} (h1 : onlyBits (param c.ps 1) 0x01FF01FF#32 = true) (hn : 1 ≤ fld (param c.ps 1) 24 16)
    (hmost : fld (param c.ps 1) 24 16 ≤ 256) (hrow : fld (param c.ps 1) 8 0 + fld (param c.ps 1) 24 16 ≤ 512) :
    otpReadRun c b = .ok ((List.range (fld (param c.ps 1) 24 16)).map fun k => otpRead b (fld (param c.ps 1) 8 0 + k), b) := by
  simp only [otpReadRun, h1, Nat.one_le_iff_ne_zero.mp hn, Nat.not_lt.mpr hmost, Nat.not_lt.mpr hrow, decide_false, Bool.not_true, Bool.or_self,
    Bool.false_eq_true, if_false]

/-- COUNT of an OTP_PROGRAM. -/
def otpLen (ps : List Word) : Bool := decide (1 ≤ ps.length) && ps.length = 1 + fld (param ps 1) 19 16

theorem otpLen_of {ps : List Word} (h : ps.length = 1 + fld (param ps 1) 19 16) : otpLen ps = true := by
  simp only [otpLen, Bool.and_eq_true, decide_eq_true_eq]
  omega

theorem otpProgramRun_programs {c : Cmd} {b : State} (h1 : onlyBits (param c.ps 1) 0x000F01FF#32 = true) (hn : 1 ≤ fld (param c.ps 1) 19 16)
    (hmost : fld (param c.ps 1) 19 16 ≤ 8) (hfield : inOneField (fld (param c.ps 1) 8 0) (fld (param c.ps 1) 19 16) = true)
    (hconfig : fld (param c.ps 1) 8 0 = 2 → onlyBits (param c.ps 2) 7#32 = true ∧ fld (otpWord b 2 ||| param c.ps 2) 1 0 ≠ 3)
    (htarget : fld (param c.ps 1) 8 0 = 2 ∨ 24 ≤ fld (param c.ps 1) 8 0 ∧ fld (param c.ps 1) 8 0 < 40)
    (hlife : b.lifecycle = .blank ∨ b.lifecycle = .develop) (hhost : b.isHostPort c.port = true) (hwarn : b.power.bodWarn = false) :
    otpProgramRun c b =
      let r := otpProgramWords (fld (param c.ps 1) 8 0) (c.ps.drop 1) 0 b
      finish c (if r.2.1 then .ok else .verifyFail) [W r.1] r.2.2 := by
  have hdata : (c.ps.drop 1).getD 0 0#32 = param c.ps 2 := by simp [param, List.getD_eq_getElem?_getD]
  have hcfg : (decide (fld (param c.ps 1) 8 0 = 2) && (!onlyBits (param c.ps 2) 7#32 || decide (fld (otpWord b 2 ||| param c.ps 2) 1 0 = 3))) = false :=
    Bool.and_eq_false_imp.mpr fun h => by
      obtain ⟨honly, hfree⟩ := hconfig (of_decide_eq_true h)
      rw [honly, decide_eq_false hfree]
      rfl
  have htgt : (decide (fld (param c.ps 1) 8 0 = 2) || decide (24 ≤ fld (param c.ps 1) 8 0) && decide (fld (param c.ps 1) 8 0 < 40)) = true := by
    simpa only [Bool.or_eq_true, Bool.and_eq_true, decide_eq_true_eq] using htarget
  have hopen : (decide (b.lifecycle = .blank) || decide (b.lifecycle = .develop)) = true := by
    simpa only [Bool.or_eq_true, decide_eq_true_eq] using hlife
  unfold otpProgramRun
  simp only [h1, Nat.one_le_iff_ne_zero.mp hn, Nat.not_lt.mpr hmost, hfield, hdata, hcfg, htgt, hopen, hhost, hwarn, firstFail, decide_false,
    Bool.not_true, Bool.or_self, Bool.false_eq_true, if_false]

/-! ### FLASH_STATUS (R396, R416) -/

/-- The sectors that a read-back of `n` words touches. -/
def readSectors (addr n : Nat) : List Nat := sectorRange (addr / 8192) ((addr + 4 * n - 1) / 8192 + 1 - addr / 8192)

/-- The erase that a read-back of these sectors stops. -/
def readStops (secs : List Nat) (t : State) (o : FlashOp) : Bool :=
  o.erase && flashRuns t && secs.any fun x => arrayOf t x = arrayOf t o.sector && x ≠ o.sector

theorem readSuspends_eq (secs : List Nat) (t : State) :
    readSuspends secs t = if (t.flash.op.map (readStops secs t)).getD false = true then { t with flash.suspAuto := true } else t := by
  unfold readSuspends
  cases t.flash.op <;> rfl

theorem flashStatusRun_reports {c : Cmd} {b : State} (hmost : (param c.ps 1).toNat ≤ 256) (haligned : (param c.ps 2).toNat % 4 = 0)
    (hnone : (param c.ps 1).toNat = 0 → (param c.ps 2).toNat = 0)
    (hread : (param c.ps 1).toNat ≠ 0 → (param c.ps 2).toNat + 4 * (param c.ps 1).toNat ≤ (flashProgress b).flashSize ∧
      ∀ x ∈ readSectors (param c.ps 2).toNat (param c.ps 1).toNat,
        inDataArea (flashProgress b) x = true ∧ protectedFor (flashProgress b) c.port (·.rp) x = false) :
    flashStatusRun c b = .ok (flashStatusWords c.port (flashProgress b) ++
        (List.range (param c.ps 1).toNat).map fun k => flashWord (flashProgress b) ((param c.ps 2).toNat + 4 * k),
      if (param c.ps 1).toNat = 0 then flashProgress b
      else readSuspends (readSectors (param c.ps 2).toNat (param c.ps 1).toNat) (flashProgress b)) := by
  have hsmall : (param c.ps 1).toNat < 2 ^ 9 := by omega
  have h1 : onlyBits (param c.ps 1) 0x1FF#32 = true := small_only hsmall (by decide)
  have hzero : (decide ((param c.ps 1).toNat = 0) && decide ((param c.ps 2).toNat ≠ 0)) = false :=
    Bool.and_eq_false_imp.mpr fun h => decide_eq_false (not_not.mpr (hnone (of_decide_eq_true h)))
  have hopen : (decide ((param c.ps 1).toNat ≠ 0) && (decide ((flashProgress b).flashSize < (param c.ps 2).toNat + 4 * (param c.ps 1).toNat) ||
      (readSectors (param c.ps 2).toNat (param c.ps 1).toNat).any fun x =>
        !inDataArea (flashProgress b) x || protectedFor (flashProgress b) c.port (·.rp) x)) = false :=
    Bool.and_eq_false_imp.mpr fun h => by
      obtain ⟨hsize, hsecs⟩ := hread (of_decide_eq_true h)
      rw [decide_eq_false (Nat.not_lt.mpr hsize), any_false_of_forall hsecs]
      rfl
  simp only [readSectors] at hopen
  unfold flashStatusRun
  simp only [h1, fld_small hsmall 8 rfl, Nat.not_lt.mpr hmost, haligned, hzero, hopen, readSectors, firstFail, ne_eq, not_true, decide_false,
    Bool.not_true, Bool.or_self, Bool.false_eq_true, if_false]

/-- Settles O23. -/
theorem flashCommandsAnswer : Obligations.FlashCommandsAnswer := by
  refine ⟨?program, ?erase, ?suspend, ?resume, ?protectSet, ?lock, ?unlock, ?wrong, ?otpRead, ?otpProgram, ?status⟩
  case program =>
    exact does_of_owner (lenOk := programLen) (fun _ _ => rfl)
      fun c b ⟨hlen, h2, haligned, hn, hmost, hsize, harray, hsecs, hwarn, hfree, haccept⟩ =>
        ⟨programLen_of hlen, flashProgramRun_accepts h2 haligned hn hmost hsize harray hsecs hwarn hfree haccept⟩
  case erase =>
    exact does_of_owner (fun _ _ => rfl) fun c b ⟨hlen, haligned, hn, hmost, hsize, harray, hsecs, hwarn, hop, herase, haccept⟩ =>
      ⟨lenIs_of hlen, flashEraseRun_accepts haligned hn hmost hsize harray hsecs hwarn (flashBusy_idle hop herase) haccept⟩
  case suspend =>
    exact does_of_owner (fun _ _ => rfl) fun c b ⟨hlen, hop⟩ => ⟨lenIs_of hlen, flashSuspendRun_suspends hop⟩
  case resume =>
    exact answers_of_immediate (fun _ _ => rfl) fun c b ⟨hlen, hop, hcmd, hafter, hwarn⟩ =>
      ⟨lenIs_of hlen, flashResumeRun_resumes hop hcmd hafter hwarn⟩
  case protectSet =>
    exact answers_of_immediate (fun _ _ => rfl) fun c b ⟨hlen, hword1, hword2, horder, hlast, hfree, hwarn⟩ =>
      ⟨lenIs_of hlen, ProtectionRegions.protectSetRun_accepted (ProtectionRegions.not_regionMalformed hword1 hword2 horder hlast)
        (ProtectionRegions.not_passwordLocks hfree) hwarn⟩
  case lock =>
    exact does_of_owner (lenOk := unlockLen) (fun _ _ => rfl) fun c b hps => ⟨by rw [hps]; rfl, protectUnlockRun_locks (by rw [hps]; rfl)⟩
  case unlock =>
    exact does_of_owner (lenOk := unlockLen) (fun _ _ => rfl) fun c b ⟨hlen, h1, hset, hwrong, hmatch⟩ =>
      ⟨unlockLen_of_password hlen h1, (protectUnlockRun_password h1 hset hwrong).trans (if_pos hmatch)⟩
  case wrong =>
    exact does_of_owner (lenOk := unlockLen) (fun _ _ => rfl) fun c b ⟨hlen, h1, hset, hwrong, hmatch⟩ =>
      ⟨unlockLen_of_password hlen h1, (protectUnlockRun_password h1 hset hwrong).trans (if_neg hmatch)⟩
  case otpRead =>
    exact answers_of_immediate (fun _ _ => rfl) fun c b ⟨hlen, h1, hn, hmost, hrow⟩ => ⟨lenIs_of hlen, otpReadRun_reads h1 hn hmost hrow⟩
  case otpProgram =>
    exact does_of_owner (lenOk := otpLen) (fun _ _ => rfl) fun c b ⟨hlen, h1, hn, hmost, hfield, hconfig, htarget, hlife, hhost, hwarn⟩ =>
      ⟨otpLen_of hlen, otpProgramRun_programs h1 hn hmost hfield hconfig htarget hlife hhost hwarn⟩
  case status =>
    refine answers_of_immediate (fun _ _ => rfl) fun c b ⟨hlen, hmost, haligned, hnone, hread⟩ =>
      ⟨lenIs_of hlen, (flashStatusRun_reports hmost haligned hnone hread).trans ?_⟩
    rw [readSuspends_eq]
    by_cases hn : (param c.ps 1).toNat = 0
    · rw [if_pos hn, if_neg fun h => h.1 hn]
    · simp only [hn, if_false, ne_eq, not_false_iff, true_and]
      rfl

end Sys2Proof.FlashLaws

/-! The update and settings commands (O24). -/

namespace Sys2Proof.UpdateLaws
open Sys2Proof.Machine Sys2Proof.Statements Sys2Proof.CommandRules Sys2Proof.SettingsRecords

/-! ### The update commands (R458 to R468) -/

theorem updBeginRun_begins {c : Cmd} {b : State} (h1 : onlyBits (param c.ps 1) 0x1FFFFF#32 = true) (hbytes : fld (param c.ps 1) 20 0 % 16 = 0)
    (hmost : fld (param c.ps 1) 20 0 ≤ b.bankSectors * 8192) (hslot : (param c.ps 2).toNat = 0 ∨ 4 ≤ (param c.ps 2).toNat ∧ (param c.ps 2).toNat < 32)
    (hlife : b.lifecycle ≠ .retired) (htrial : b.upd.trial = none) (hact : b.upd.act = none) (hsession : b.upd.session = none)
    (hprot : inactiveProtected b = false) (hwarn : b.power.bodWarn = false) (hop : b.flash.op = none) :
    updBeginRun c b =
      let u : UpdSession := { port := c.port, bytes := fld (param c.ps 1) 20 0, ownerSlot := (param c.ps 2).toNat, erasing := some c.tag }
      setFlag (inactiveFirst b) true (setBank (!b.upd.activeB) none { b with upd.session := some u, upd.staged := none }) := by
  have hsmall : (param c.ps 2).toNat < 2 ^ 5 := by omega
  have h2 : onlyBits (param c.ps 2) 0x1F#32 = true := small_only hsmall (by decide)
  have hheld : (decide (1 ≤ (param c.ps 2).toNat) && decide ((param c.ps 2).toNat ≤ 3)) = false :=
    Bool.and_eq_false_imp.mpr fun h => decide_eq_false (by have := of_decide_eq_true h; omega)
  simp only [updBeginRun, h1, h2, fld_small hsmall 4 rfl, hbytes, Nat.not_lt.mpr hmost, hheld, hlife, htrial, hact, hsession, hprot, hwarn, hop,
    firstFail, ne_eq, not_true, decide_false, Option.isSome_none, Bool.not_true, Bool.or_self, Bool.false_eq_true, if_false]

theorem bankErasing_of_session {b : State} {u : UpdSession} (hsession : b.upd.session = some u) (herase : u.erasing = none) :
    bankErasing b = false := by
  simp only [bankErasing, hsession, herase, Option.isSome_none]

/-- COUNT of an UPD_CHUNK. -/
def chunkLen (ps : List Word) : Bool := decide (2 ≤ ps.length) && ps.length = 2 + fld (param ps 2) 12 0 / 4

theorem chunkLen_of {ps : List Word} (h : ps.length = 2 + fld (param ps 2) 12 0 / 4) : chunkLen ps = true := by
  simp only [chunkLen, Bool.and_eq_true, decide_eq_true_eq]
  omega

theorem updChunkRun_writes {c : Cmd} {b : State} {u : UpdSession} (h1 : onlyBits (param c.ps 1) 0x1FFFFF#32 = true)
    (h2 : onlyBits (param c.ps 2) 0x1FFF#32 = true) (hoff : fld (param c.ps 1) 20 0 % 16 = 0) (hlen : fld (param c.ps 2) 12 0 % 16 = 0)
    (hleast : 16 ≤ fld (param c.ps 2) 12 0) (hmost : fld (param c.ps 2) 12 0 ≤ 4064) (hfits : fld (param c.ps 1) 20 0 + fld (param c.ps 2) 12 0 ≤ u.bytes)
    (hsession : b.upd.session = some u) (hport : u.port = c.port) (herase : u.erasing = none) (hstaged : b.upd.staged = none)
    (hverify : b.upd.verifying = none) (hwarn : b.power.bodWarn = false) :
    updChunkRun c b =
      let units := unitsOf (inactiveFirst b * 8192 + fld (param c.ps 1) 20 0) (chunks 16 (unpackLE (c.ps.drop 2)))
      let fails := drawBool b
      let bad := pickBad fails.1 units.length fails.2
      let r := programUnits units bad.1 0 bad.2
      finish c (if r.1.failed.isSome then .verifyFail else .ok) [] r.2 := by
  unfold updChunkRun
  simp only [h1, h2, hoff, hlen, Nat.not_lt.mpr hleast, Nat.not_lt.mpr hmost, Nat.not_lt.mpr hfits, hsession, hport,
    bankErasing_of_session hsession herase, hstaged, hverify, hwarn, firstFail, ne_eq, not_true, decide_true, decide_false, Option.isSome_none,
    Option.isNone_some, Bool.not_true, Bool.or_self, Bool.false_eq_true, if_false]

theorem updVerifyRun_starts {c : Cmd} {b : State} {u : UpdSession} (hsession : b.upd.session = some u) (herase : u.erasing = none)
    (hact : b.upd.act = none) (hverify : b.upd.verifying = none) : updVerifyRun c b = { b with upd.verifying := some (c.port, c.tag) } := by
  simp only [updVerifyRun, hsession, bankErasing_of_session hsession herase, hact, hverify, firstFail, Option.isSome_none, Option.isNone_some,
    Bool.or_self, Bool.false_eq_true, if_false]

theorem updActivateRun_accepts {c : Cmd} {b : State} (h1 : onlyBits (param c.ps 1) 0x1FFFFFFF#32 = true) (hwait : fld (param c.ps 1) 15 0 ≠ 0)
    (hleast : 10 ≤ fld (param c.ps 1) 27 16) (hmost : fld (param c.ps 1) 27 16 ≤ 3600) (hstaged : b.upd.staged.isSome = true)
    (hact : b.upd.act = none) (hwarn : b.power.bodWarn = false) (haccept : canAccept c.port b = true) :
    updActivateRun c b =
      let h := takeHandle c.port b
      let w := param c.ps 1
      let a : Activation := { port := c.port, handle := h.1, since := b.elapsed.now, waitMax := fld w 15 0, trialS := fld w 27 16
                              rollbackOnFault := bitAt w 28 }
      respondAccepted c h.1 { h.2 with upd.act := some a } := by
  have hsome : b.upd.staged.isNone = false := Option.isNone_eq_false_iff.mpr hstaged
  simp only [updActivateRun, h1, hwait, Nat.not_lt.mpr hleast, Nat.not_lt.mpr hmost, hsome, hact, hwarn, haccept, firstFail, decide_false,
    Option.isSome_none, Bool.not_true, Bool.or_self, Bool.false_eq_true, if_false]

theorem updCommitRun_commits {c : Cmd} {b : State} (htrial : b.upd.trial.isSome = true) (hwarn : b.power.bodWarn = false) :
    updCommitRun c b = finish c .ok []
      (let arb := match activeImage b with | some i => (i.linkArb, i.appArb) | none => (0, 0)
      let raised := raiseThermo 96 arb.2 (raiseThermo 64 arb.1 b)
      setBank (!b.upd.activeB) none { raised with upd.trial := none, upd.preSettings := none }) := by
  have hsome : b.upd.trial.isNone = false := Option.isNone_eq_false_iff.mpr htrial
  simp only [updCommitRun, hsome, hwarn, firstFail, Bool.false_eq_true, if_false] <;> rfl

theorem updAbortRun_closes {c : Cmd} {b : State} (hact : b.upd.act = none) (hopen : b.upd.session.isSome = true ∨ b.upd.staged.isSome = true) :
    updAbortRun c b = finish c .ok [] (closeSession b) := by
  have hor : (b.upd.session.isSome || b.upd.staged.isSome) = true := by simpa only [Bool.or_eq_true] using hopen
  simp only [updAbortRun, hact, hor, Option.isSome_none, Bool.false_eq_true, if_false, if_true]

theorem updAbortRun_trial {c : Cmd} {b : State} {t : Trial} (hact : b.upd.act = none) (hsession : b.upd.session = none)
    (hstaged : b.upd.staged = none) (htrial : b.upd.trial = some t) :
    updAbortRun c b = finish c .ok [] { b with upd.trial := some { t with due := some (t.due.getD 5) } } := by
  simp only [updAbortRun, hact, hsession, hstaged, htrial, Option.isSome_none, Bool.or_self, Bool.false_eq_true, if_false]

theorem update_commands_answer : updateCommandsAnswer := by
  refine ⟨?begin, fun u => ?chunk, fun u => ?verify, ?activate, ?commit, ?close, fun t => ?abort⟩
  case begin =>
    exact does_of_owner (fun _ _ => rfl) fun c b ⟨hlen, h1, hbytes, hmost, hslot, hlife, htrial, hact, hsession, hprot, hwarn, hop⟩ =>
      ⟨lenIs_of hlen, updBeginRun_begins h1 hbytes hmost hslot hlife htrial hact hsession hprot hwarn hop⟩
  case chunk =>
    exact does_of_owner (lenOk := chunkLen) (fun _ _ => rfl)
      fun c b ⟨hps, h1, h2, hoff, hlen, hleast, hmost, hfits, hsession, hport, herase, hstaged, hverify, hwarn⟩ =>
        ⟨chunkLen_of hps, updChunkRun_writes h1 h2 hoff hlen hleast hmost hfits hsession hport herase hstaged hverify hwarn⟩
  case verify =>
    exact does_of_owner (fun _ _ => rfl) fun c b ⟨hlen, hsession, herase, hact, hverify⟩ =>
      ⟨lenIs_of hlen, updVerifyRun_starts hsession herase hact hverify⟩
  case activate =>
    exact does_of_owner (fun _ _ => rfl) fun c b ⟨hlen, h1, hwait, hleast, hmost, hstaged, hact, hwarn, haccept⟩ =>
      ⟨lenIs_of hlen, updActivateRun_accepts h1 hwait hleast hmost hstaged hact hwarn haccept⟩
  case commit =>
    exact does_of_owner (fun _ _ => rfl) fun c b ⟨hlen, htrial, hwarn⟩ => ⟨lenIs_of hlen, updCommitRun_commits htrial hwarn⟩
  case close =>
    exact does_of_owner (fun _ _ => rfl) fun c b ⟨hlen, hact, hopen⟩ => ⟨lenIs_of hlen, updAbortRun_closes hact hopen⟩
  case abort =>
    exact does_of_owner (fun _ _ => rfl) fun c b ⟨hlen, hact, hsession, hstaged, htrial⟩ =>
      ⟨lenIs_of hlen, updAbortRun_trial hact hsession hstaged htrial⟩

/-! ### SETTINGS_WRITE (R470, R473) -/

/-- COUNT of a SETTINGS_WRITE. -/
def settingsLen (ps : List Word) : Bool := decide (2 ≤ ps.length) && ps.length = 2 + ceilDiv (fld (param ps 2) 26 16) 4

theorem settingsLen_of {ps : List Word} (h : ps.length = 2 + ceilDiv (fld (param ps 2) 26 16) 4) : settingsLen ps = true := by
  simp only [settingsLen, Bool.and_eq_true, decide_eq_true_eq]
  omega

/-- Without a record's bytes two words are all. -/
theorem settingsLen_of_empty {ps : List Word} (h2 : onlyBits (param ps 2) 0xFFFF#32 = true) (hlen : ps.length = 2) : settingsLen ps = true := by
  refine settingsLen_of ?_
  rw [fld_of_only h2 26 16 fun k hlo hhi => by interval_cases k <;> rfl]
  exact hlen

theorem settingsWriteRun_writes {c : Cmd} {b : State} (h1 : onlyBits (param c.ps 1) 0xFFFF0000#32 = true)
    (h2 : onlyBits (param c.ps 2) 0x07FFFFFF#32 = true) (hkey : 0x100 ≤ (BitVec.ofNat 16 (fld (param c.ps 1) 31 16)).toNat)
    (hlen : fld (param c.ps 2) 26 16 ≤ 1024) (hwarn : b.power.bodWarn = false)
    (hroom : otherBytes (BitVec.ofNat 16 (fld (param c.ps 1) 31 16)) b + fld (param c.ps 2) 26 16 ≤ Config.settingsRoom) :
    settingsWriteRun c b = .ok ([], { b with
      upd.settings.customer := putRecord (BitVec.ofNat 16 (fld (param c.ps 1) 31 16)) (BitVec.ofNat 16 (fld (param c.ps 2) 15 0))
        ((unpackLE (c.ps.drop 2)).take (fld (param c.ps 2) 26 16)) b.upd.settings.customer }) := by
  have hwide : onlyBits (param c.ps 1) 0xFFFF0003#32 = true := only_mono h1 rfl
  have hop : fld (param c.ps 1) 1 0 = 0 := fld_of_only h1 1 0 fun k hlo hhi => by interval_cases k <;> rfl
  have h03 : ¬0 = 3 := by decide
  have h01 : ¬0 = 1 := by decide
  have h02 : ¬0 = 2 := by decide
  unfold settingsWriteRun
  simp only [hwide, h2, hop, h03, h01, h02, Nat.not_lt.mpr hkey, Nat.not_lt.mpr hlen, Nat.not_lt.mpr hroom, hwarn, firstFail, decide_false,
    Bool.not_true, Bool.or_self, Bool.false_and, Bool.and_false, Bool.false_eq_true, if_false, if_true]

theorem settingsWriteRun_keeps {c : Cmd} {b : State} (h1 : param c.ps 1 = 1#32) (h2 : (param c.ps 2).toNat < 256)
    (hprov : b.upd.provisioning.isSome = true) (hwarn : b.power.bodWarn = false) :
    settingsWriteRun c b = .ok ([], keepLive ((param c.ps 2).setWidth 8) b) := by
  have hbyte : onlyBits (param c.ps 2) 0xFF#32 = true := onlyBits_byte h2
  have hwide : onlyBits (param c.ps 2) 0x07FFFFFF#32 = true := only_mono hbyte rfl
  have hlen : fld (param c.ps 2) 26 16 = 0 := fld_of_only hbyte 26 16 fun k hlo hhi => by interval_cases k <;> rfl
  have hversion : fld (param c.ps 2) 15 0 = (param c.ps 2).toNat := fld_small (n := 16) (by omega) 15 rfl
  have hnat : (BitVec.ofNat 16 (param c.ps 2).toNat).toNat = (param c.ps 2).toNat := by rw [BitVec.toNat_ofNat]; omega
  have hmost : ¬255 < (param c.ps 2).toNat := by omega
  have hitems : (BitVec.ofNat 16 (param c.ps 2).toNat).setWidth 8 = (param c.ps 2).setWidth 8 := by
    apply BitVec.eq_of_toNat_eq
    simp only [BitVec.toNat_setWidth, hnat]
  have hop : fld 1#32 1 0 = 1 := rfl
  have hkey : BitVec.ofNat 16 (fld 1#32 31 16) = 0#16 := rfl
  have honly : onlyBits 1#32 0xFFFF0003#32 = true := rfl
  have h13 : ¬1 = 3 := by decide
  have h10 : ¬1 = 0 := by decide
  have h12 : ¬1 = 2 := by decide
  have hsome : b.upd.provisioning.isNone = false := Option.isNone_eq_false_iff.mpr hprov
  unfold settingsWriteRun
  simp only [h1, honly, hwide, hop, hkey, hlen, hversion, hnat, hmost, hitems, h13, h10, h12, hsome, hwarn, firstFail, ne_eq, not_true, decide_false,
    Bool.not_true, Bool.or_self, Bool.false_and, Bool.and_false, Bool.false_eq_true, if_false, if_true]

theorem settingsWriteRun_erases {c : Cmd} {b : State} (h1 : onlyBits (param c.ps 1) 0xFFFF0003#32 = true) (hop : fld (param c.ps 1) 1 0 = 2)
    (h2 : onlyBits (param c.ps 2) 0xFFFF#32 = true) (hkey : 0x100 ≤ (BitVec.ofNat 16 (fld (param c.ps 1) 31 16)).toNat)
    (hfound : (b.upd.settings.customer.any fun r => r.1 = BitVec.ofNat 16 (fld (param c.ps 1) 31 16)) = true) (hwarn : b.power.bodWarn = false) :
    settingsWriteRun c b = .ok ([], { b with
      upd.settings.customer := b.upd.settings.customer.filter fun r => r.1 ≠ BitVec.ofNat 16 (fld (param c.ps 1) 31 16) }) := by
  have hwide : onlyBits (param c.ps 2) 0x07FFFFFF#32 = true := only_mono h2 rfl
  have hlen : fld (param c.ps 2) 26 16 = 0 := fld_of_only h2 26 16 fun k hlo hhi => by interval_cases k <;> rfl
  have h23 : ¬2 = 3 := by decide
  have h20 : ¬2 = 0 := by decide
  have h21 : ¬2 = 1 := by decide
  unfold settingsWriteRun
  simp only [h1, hwide, hop, hlen, h23, h20, h21, Nat.not_lt.mpr hkey, hfound, hwarn, firstFail, ne_eq, not_true, decide_false,
    Bool.not_true, Bool.or_self, Bool.false_and, Bool.and_false, Bool.false_eq_true, if_false, if_true]

theorem settings_commands_answer : settingsCommandsAnswer := by
  refine ⟨?write, ?keep, ?erase, ?device, fun r => ?customer⟩
  case write =>
    exact answers_of_immediate (lenOk := settingsLen) (fun _ _ => rfl) fun c b ⟨hps, h1, h2, hkey, hlen, hwarn, hroom⟩ =>
      ⟨settingsLen_of hps, settingsWriteRun_writes h1 h2 hkey hlen hwarn hroom⟩
  case keep =>
    exact answers_of_immediate (lenOk := settingsLen) (fun _ _ => rfl) fun c b ⟨hps, h1, h2, hprov, hwarn⟩ =>
      ⟨settingsLen_of_empty (only_mono (onlyBits_byte h2) rfl) hps, settingsWriteRun_keeps h1 h2 hprov hwarn⟩
  case erase =>
    exact answers_of_immediate (lenOk := settingsLen) (fun _ _ => rfl) fun c b ⟨hps, h1, hop, h2, hkey, hfound, hwarn⟩ =>
      ⟨settingsLen_of_empty h2 hps, settingsWriteRun_erases h1 hop h2 hkey hfound hwarn⟩
  case device =>
    exact answers_of_immediate (fun _ _ => rfl) fun c b ⟨hlen, hdevice, hheld⟩ =>
      ⟨lenIs_of hlen, (settingsReadRun_device hdevice).trans (if_pos hheld)⟩
  case customer =>
    exact answers_of_immediate (fun _ _ => rfl) fun c b ⟨hlen, hcustomer, hkey, hfound⟩ =>
      ⟨lenIs_of hlen, settingsReadRun_customer_found hcustomer hkey hfound⟩

/-- Settles O24. -/
theorem updateAndSettingsCommandsAnswer : Obligations.UpdateAndSettingsCommandsAnswer := ⟨update_commands_answer, settings_commands_answer⟩

end Sys2Proof.UpdateLaws

/-! The Kerb, background and test commands (O25). -/

namespace Sys2Proof.TestLaws
open Sys2Proof.Machine Sys2Proof.Statements Sys2Proof.CommandRules

/-! ### The Kerb commands (R452, R453) -/

/-- COUNT of a KERB_LOAD. -/
def kerbLen (ps : List Word) : Bool := decide (4 ≤ ps.length) && ps.length = 4 + fld (param ps 1) 6 0

theorem kerbLen_of {ps : List Word} (h : ps.length = 4 + fld (param ps 1) 6 0) : kerbLen ps = true := by
  simp only [kerbLen, Bool.and_eq_true, decide_eq_true_eq]
  omega

theorem kerbLoadRun_loads {c : Cmd} {b : State} (hon : b.isUsable dKERB = true) (hgood : badKerbLoad c.ps = false) (hstopped : b.kerb.running = false)
    (hwarn : b.power.bodWarn = false) :
    kerbLoadRun c b = .ok ([], extendMr 3 0x34#8 (digestWords (c.ps.drop 4))
      { b with kerb := kerbTake c.ps b.kerb, upd.settings.kerb := some c.ps }) := by
  simp only [kerbLoadRun, hon, hgood, hstopped, hwarn, firstFail, Bool.not_true, Bool.false_eq_true, if_false]

theorem kerbStartRun_starts {c : Cmd} {b : State} {clear : Bool} (hps : c.ps = [W (b2n clear)]) (hon : b.isUsable dKERB = true)
    (hprog : b.kerb.prog ≠ []) (hstopped : b.kerb.running = false) : kerbStartRun c b = .ok ([], { b with kerb := kerbGo clear b.kerb }) := by
  have hpar : param c.ps 1 = W (b2n clear) := by rw [hps]; rfl
  obtain ⟨honly, hbit⟩ : onlyBits (W (b2n clear)) 1#32 = true ∧ bitAt (W (b2n clear)) 0 = clear := by cases clear <;> decide
  have hsome : b.kerb.prog.isEmpty = false := List.isEmpty_eq_false_iff.mpr hprog
  simp only [kerbStartRun, hpar, honly, hbit, hsome, hon, hstopped, firstFail, Bool.not_true, Bool.false_eq_true, if_false]

/-- KERB_STOP of a running program ends it at once between passes, and waits for the end of a pass (R453). -/
theorem kerbStopRun_running {c : Cmd} {b : State} (hrun : b.kerb.running = true) :
    kerbStopRun c b = if b.kerb.inPass = true then { b with kerb.stopWait := b.kerb.stopWait ++ [(c.port, c.tag)] }
      else finish c .ok [] { b with kerb := kerbHalt b.kerb } := by
  simp only [kerbStopRun, hrun, Bool.not_true, Bool.false_eq_true, if_false]

theorem kerbLogReadRun_reads {c : Cmd} {b : State} (hon : b.isUsable dKERB = true) (hn : 1 ≤ (param c.ps 1).toNat) (hmost : (param c.ps 1).toNat ≤ 256) :
    kerbLogReadRun c b = .ok (W ((b.kerb.log.take (param c.ps 1).toNat).length + b.kerb.lost.toNat * 2 ^ 16) :: b.kerb.log.take (param c.ps 1).toNat,
      { b with kerb.log := b.kerb.log.drop (param c.ps 1).toNat, kerb.lost := 0 }) := by
  have hsmall : (param c.ps 1).toNat < 2 ^ 9 := by omega
  have h1 : onlyBits (param c.ps 1) 0x1FF#32 = true := small_only hsmall (by decide)
  simp only [kerbLogReadRun, hon, h1, fld_small hsmall 8 rfl, Nat.one_le_iff_ne_zero.mp hn, Nat.not_lt.mpr hmost, decide_false, Bool.not_true,
    Bool.or_self, Bool.false_eq_true, if_false]

theorem kerb_commands_answer : kerbCommandsAnswer := by
  refine ⟨?load, fun clear => ?start, ?stop, ?stopLater, ?log⟩
  case load =>
    exact answers_of_immediate (lenOk := kerbLen) (fun _ _ => rfl) fun c b ⟨hlen, hon, hgood, hstopped, hwarn⟩ =>
      ⟨kerbLen_of hlen, kerbLoadRun_loads hon hgood hstopped hwarn⟩
  case start =>
    exact answers_of_immediate (fun _ _ => rfl) fun c b ⟨hps, hon, hprog, hstopped⟩ =>
      ⟨lenIs_of (by rw [hps]; rfl), kerbStartRun_starts hps hon hprog hstopped⟩
  case stop =>
    exact does_of_owner (fun _ _ => rfl) fun c b ⟨hlen, hrun, hpass⟩ =>
      ⟨lenIs_of hlen, (kerbStopRun_running hrun).trans (if_neg (by rw [hpass]; exact Bool.false_ne_true))⟩
  case stopLater =>
    exact does_of_owner (fun _ _ => rfl) fun c b ⟨hlen, hrun, hpass⟩ => ⟨lenIs_of hlen, (kerbStopRun_running hrun).trans (if_pos hpass)⟩
  case log =>
    exact answers_of_immediate (fun _ _ => rfl) fun c b ⟨hlen, hon, hn, hmost⟩ => ⟨lenIs_of hlen, kerbLogReadRun_reads hon hn hmost⟩

/-! ### CTX_TEST and BIST_RUN (R485, R486) -/

theorem ctxTestDo_accepts {c : Cmd} {b : State} (hon : b.isUsable dBLVD = true) (h1 : onlyBits (param c.ps 1) 0x3F#32 = true)
    (hctx : fld (param c.ps 1) 5 0 < b.ctxCount) (hwait : 1 ≤ (param c.ps 2).toNat) (hmost : (param c.ps 2).toNat < 65536)
    (hnone : b.bg.ctxTest = none) (haccept : canAccept c.port b = true) :
    ctxTestDo c b =
      let n : Fin 64 := Fin.ofNat 64 (fld (param c.ps 1) 5 0)
      let h := takeHandle c.port b
      let t : CtxTestOp := { port := c.port, handle := h.1, ctx := n, waitMax := (param c.ps 2).toNat, since := b.elapsed.now,
                             offAt := b.elapsed.now }
      let asked : State := { h.2 with bg.ctxTest := some t }
      respondAccepted c h.1 (if (b.rx.ctxs[n]).st = .free then setCtx (.blvd n) { st := .offline } asked else asked) := by
  have h2 : onlyBits (param c.ps 2) 0xFFFF#32 = true := small_only (n := 16) hmost (by decide)
  have hnz : param c.ps 2 ≠ 0#32 := fun h => by rw [h] at hwait; exact absurd hwait (by decide)
  have hin : ¬b.ctxCount ≤ (Fin.ofNat 64 (fld (param c.ps 1) 5 0)).val := Nat.not_le.mpr (lt_of_le_of_lt (Nat.mod_le _ _) hctx)
  simp only [ctxTestDo, hon, h1, h2, hnz, hin, hnone, haccept, firstFail, decide_false, Option.isSome_none, Bool.not_true, Bool.or_self,
    Bool.false_eq_true, if_false]
  rfl

theorem bistRunDo_accepts {c : Cmd} {b : State} (hbank : (param c.ps 1).toNat < 16) (hin : (param c.ps 1).toNat < b.banks)
    (hsave : b.saveBanks.getLsbD (param c.ps 1).toNat = false) (hdma : b.peri.dma.toList.any (dmaInBank (param c.ps 1).toNat) = false)
    (hnone : b.bg.bist = none) (haccept : canAccept c.port b = true) :
    bistRunDo c b =
      let bank := (param c.ps 1).toNat
      let h := takeHandle c.port b
      respondAccepted c h.1 { h.2 with
        bg.bist := some { port := c.port, handle := h.1, bank := Fin.ofNat 16 bank, since := b.elapsed.now }
        sram := b.sram.filter fun x => !(1#16 <<< bank).getLsbD (x.1 / 65536) } := by
  have h1 : onlyBits (param c.ps 1) 0xF#32 = true := small_only (n := 4) hbank (by decide)
  have hfld : fld (param c.ps 1) 3 0 = (param c.ps 1).toNat := fld_small (n := 4) hbank 3 rfl
  simp only [bistRunDo, h1, hfld, Nat.not_le.mpr hin, hsave, hdma, hnone, haccept, firstFail, decide_false, Option.isSome_none, Bool.not_true,
    Bool.or_self, Bool.false_eq_true, if_false]
  rfl

/-! ### LOOPBACK (R487) -/

theorem loopbackDo_kerb {c : Cmd} {b : State} (h1 : onlyBits (param c.ps 1) 0x1FFFF#32 = true) (hkerb : bitAt (param c.ps 1) 0 = true)
    (h2 : onlyBits (param c.ps 2) 0x0FFF07FF#32 = true) (hms : 1 ≤ (param c.ps 3).toNat) (hmost : (param c.ps 3).toNat < 65536)
    (hon : b.isUsable dKERB = true) (hnone : b.bg.loop = none) :
    loopbackDo c b =
      let o : LoopOp := { port := c.port, tag := c.tag, kerb := true, passes := b.kerb.passes, decisions := decisionCount b
                          since := b.elapsed.now, durationUs := 1000 * (param c.ps 3).toNat }
      kerbLevelEdge b { b with
        bg.loop := some o
        kerb.bypass := some (Fin.ofNat 8 (fld (param c.ps 1) 16 14), BitVec.ofNat 12 (fld (param c.ps 2) 27 16)) } := by
  have h3 : onlyBits (param c.ps 3) 0xFFFF#32 = true := small_only (n := 16) hmost (by decide)
  have hlast : ¬65535 < (param c.ps 3).toNat := by omega
  simp only [loopbackDo, loopKerbDo, h1, h2, h3, hkerb, Nat.one_le_iff_ne_zero.mp hms, hlast, hon, hnone, firstFail, decide_false,
    Option.isSome_none, Bool.not_true, Bool.or_self, Bool.false_eq_true, if_false, if_true]

/-- The conditions under which a frame may be looped through the transmitter and the receiver. -/
structure MayLoop (c : Cmd) (b : State) : Prop where
  len : 1 ≤ fld (param c.ps 2) 10 0
  least : -20 ≤ sfld (param c.ps 1) 13 6
  most : sfld (param c.ps 1) 13 6 ≤ 30
  airtime : loopAirtime (Fin.ofNat 16 (fld (param c.ps 1) 4 1)) (fld (param c.ps 2) 10 0) b ≤ 30000000
  rffe : b.isUsable dRFFE = true
  alley : b.isUsable dALLEY = true
  ofdm : b.phy.profiles[(Fin.ofNat 16 (fld (param c.ps 1) 4 1) : Fin 16)].ofdm = true → b.isUsable dOFDM = true
  mode : b.radio.mode = .idle ∨ b.radio.mode = .rx ∧ anyCommitted b = false
  unused : b.bg.loop = none
  noAck : ackPendingNow b = false
  noWait : awaiting b = none
  noStart : fixedStartBefore (b.time.nt.toNat + usUp (loopAirtime (Fin.ofNat 16 (fld (param c.ps 1) 4 1)) (fld (param c.ps 2) 10 0) b) + msU 2) b = false

theorem loopRfDo_starts {c : Cmd} {b : State} (h3 : param c.ps 3 = 0#32) (h : MayLoop c b) :
    loopRfDo c b =
      let us := loopAirtime (Fin.ofNat 16 (fld (param c.ps 1) 4 1)) (fld (param c.ps 2) 10 0) b
      let looped : State := { b with bg.loop := some { port := c.port, tag := c.tag, kerb := false, since := b.elapsed.now, durationUs := us } }
      if b.radio.mode = .rx then startBlank looped else looped := by
  have hofdm : (b.phy.profiles[(Fin.ofNat 16 (fld (param c.ps 1) 4 1) : Fin 16)].ofdm && !b.isUsable dOFDM) = false :=
    Bool.and_eq_false_imp.mpr fun hprofile => by rw [h.ofdm hprofile]; rfl
  have hmode : (decide (b.radio.mode = .idle) || decide (b.radio.mode = .rx) && !anyCommitted b) = true := by
    simpa only [Bool.or_eq_true, Bool.and_eq_true, decide_eq_true_eq, Bool.not_eq_true'] using h.mode
  unfold loopRfDo
  simp only [h3, Nat.one_le_iff_ne_zero.mp h.len, not_lt.mpr h.least, not_lt.mpr h.most, Nat.not_lt.mpr h.airtime, h.rffe, h.alley, hofdm, hmode,
    h.unused, h.noAck, h.noWait, h.noStart, firstFail, ne_eq, not_true, decide_false, Option.isSome_none, Bool.not_true, Bool.or_self,
    Bool.false_eq_true, if_false]

theorem loopbackDo_radio {c : Cmd} {b : State} (h1 : onlyBits (param c.ps 1) 0x1FFFF#32 = true) (hradio : bitAt (param c.ps 1) 0 = false)
    (h2 : onlyBits (param c.ps 2) 0x0FFF07FF#32 = true) (h3 : param c.ps 3 = 0#32) : loopbackDo c b = loopRfDo c b := by
  simp only [loopbackDo, h1, h2, h3, hradio, onlyBits_zero, Bool.not_true, Bool.or_self, Bool.false_eq_true, if_false]

/-! ### BG_PAUSE and BG_CONFIG (R481, R482) -/

theorem bgPauseRun_pauses {c : Cmd} {b : State} (hms : 1 ≤ (param c.ps 1).toNat) (hmost : (param c.ps 1).toNat ≤ 10000) (hnone : b.bg.pause = none)
    (hlast : ∀ t n, b.bg.lastPause = some (t, n) → t.toNat + msU n ≤ b.elapsed.now.toNat) :
    bgPauseRun c b = .ok ([], { endDrain b with bg.pause := some (b.elapsed.now, (param c.ps 1).toNat) }) := by
  have hsmall : (param c.ps 1).toNat < 2 ^ 14 := by omega
  have h1 : onlyBits (param c.ps 1) 0x3FFF#32 = true := small_only hsmall (by decide)
  unfold bgPauseRun
  cases hwas : b.bg.lastPause with
  | none =>
    simp only [h1, fld_small hsmall 13 rfl, Nat.one_le_iff_ne_zero.mp hms, Nat.not_lt.mpr hmost, hnone, decide_false, Option.isSome_none,
      Bool.not_true, Bool.or_self, Bool.false_eq_true, if_false]
  | some was =>
    obtain ⟨t, n⟩ := was
    have hover : elapsedBy t b.elapsed.now (msU n) = true := decide_eq_true (hlast t n hwas)
    simp only [h1, fld_small hsmall 13 rfl, Nat.one_le_iff_ne_zero.mp hms, Nat.not_lt.mpr hmost, hnone, hover, decide_false, Option.isSome_none,
      Bool.not_true, Bool.or_self, Bool.false_eq_true, if_false]

/-- MS = 0 ends the pause in force, if there is one. -/
theorem bgPauseRun_zero {c : Cmd} {b : State} (hps : c.ps = [0]) {p : Option (DWord × Nat)} (hpause : b.bg.pause = p) :
    bgPauseRun c b = .ok ([], match p with | some (t, n) => pauseEnds (min n (msBetween t b.elapsed.now)) b | none => b) := by
  have hpar : param c.ps 1 = 0#32 := by rw [hps]; rfl
  have hfld : fld 0#32 13 0 = 0 := rfl
  have hmost : ¬10000 < 0 := by decide
  obtain _ | ⟨t, n⟩ := p <;>
  simp only [bgPauseRun, hpar, hfld, hmost, hpause, onlyBits_zero, decide_false, Bool.not_true, Bool.or_self, Bool.false_eq_true, if_false, if_true]

/-- The three bytes of BG_CONFIG's word. -/
theorem config_bytes (a r t : BitVec 8) :
    (W (a.toNat + r.toNat * 2 ^ 8 + t.toNat * 2 ^ 16)).extractLsb' 0 8 = a ∧ (W (a.toNat + r.toNat * 2 ^ 8 + t.toNat * 2 ^ 16)).extractLsb' 8 8 = r ∧
      (W (a.toNat + r.toNat * 2 ^ 8 + t.toNat * 2 ^ 16)).extractLsb' 16 8 = t ∧
      onlyBits (W (a.toNat + r.toNat * 2 ^ 8 + t.toNat * 2 ^ 16)) 0xFFFFFF#32 = true := by
  have ha := a.isLt
  have hr := r.isLt
  have ht := t.isLt
  have hword : (W (a.toNat + r.toNat * 2 ^ 8 + t.toNat * 2 ^ 16)).toNat = a.toNat + r.toNat * 2 ^ 8 + t.toNat * 2 ^ 16 := W_toNat _ (by omega)
  refine ⟨?_, ?_, ?_, small_only (n := 24) (by omega) (by decide)⟩ <;>
  · apply BitVec.eq_of_toNat_eq
    rw [BitVec.extractLsb'_toNat, hword, Nat.shiftRight_eq_div_pow]
    omega

theorem bgConfigRun_sets {c : Cmd} {b : State} {a r t : BitVec 8} (hnz : a ≠ 0 ∧ r ≠ 0 ∧ t ≠ 0)
    (hps : c.ps = [W (a.toNat + r.toNat * 2 ^ 8 + t.toNat * 2 ^ 16)]) :
    bgConfigRun c b = .ok ([], { b with bg.scrubS := a, bg.refreshH := r, bg.telemS := t, upd.settings.bg := some (a, r, t) }) := by
  have hpar : param c.ps 1 = W (a.toNat + r.toNat * 2 ^ 8 + t.toNat * 2 ^ 16) := by rw [hps]; rfl
  obtain ⟨ha, hr, ht, honly⟩ := config_bytes a r t
  obtain ⟨hanz, hrnz, htnz⟩ : ¬a = 0#8 ∧ ¬r = 0#8 ∧ ¬t = 0#8 := hnz
  simp only [bgConfigRun, hpar, ha, hr, ht, honly, hanz, hrnz, htnz, decide_false, Bool.not_true, Bool.or_self, Bool.false_eq_true, if_false]

theorem test_commands_answer : testCommandsAnswer := by
  refine ⟨?ctxTest, ?bist, ?loopKerb, ?loopRadio, ?pause, fun t n => ?resume, ?noPause, fun a r t hnz => ?config⟩
  case ctxTest =>
    exact does_of_owner (fun _ _ => rfl) fun c b ⟨hlen, hon, h1, hctx, hwait, hmost, hnone, haccept⟩ =>
      ⟨lenIs_of hlen, ctxTestDo_accepts hon h1 hctx hwait hmost hnone haccept⟩
  case bist =>
    exact does_of_owner (fun _ _ => rfl) fun c b ⟨hlen, hbank, hin, hsave, hdma, hnone, haccept⟩ =>
      ⟨lenIs_of hlen, bistRunDo_accepts hbank hin hsave hdma hnone haccept⟩
  case loopKerb =>
    exact does_of_owner (fun _ _ => rfl) fun c b ⟨hlen, h1, hkerb, h2, hms, hmost, hon, hnone⟩ =>
      ⟨lenIs_of hlen, loopbackDo_kerb h1 hkerb h2 hms hmost hon hnone⟩
  case loopRadio =>
    exact does_of_owner (fun _ _ => rfl)
      fun c b ⟨hps, h1, hradio, h2, h3, hlen, hleast, hmost, hair, hrffe, halley, hofdm, hmode, hunused, hack, hwait, hstart⟩ =>
        ⟨lenIs_of hps, (loopbackDo_radio h1 hradio h2 h3).trans
          (loopRfDo_starts h3 ⟨hlen, hleast, hmost, hair, hrffe, halley, hofdm, hmode, hunused, hack, hwait, hstart⟩)⟩
  case pause =>
    exact answers_of_immediate (fun _ _ => rfl) fun c b ⟨hlen, hms, hmost, hnone, hlast⟩ =>
      ⟨lenIs_of hlen, bgPauseRun_pauses hms hmost hnone hlast⟩
  case resume =>
    exact answers_of_immediate (fun _ _ => rfl) fun c b ⟨hps, hpause⟩ => ⟨lenIs_of (by rw [hps]; rfl), bgPauseRun_zero hps hpause⟩
  case noPause =>
    exact answers_of_immediate (fun _ _ => rfl) fun c b ⟨hps, hpause⟩ => ⟨lenIs_of (by rw [hps]; rfl), bgPauseRun_zero hps hpause⟩
  case config =>
    exact answers_of_immediate (fun _ _ => rfl) fun c b hps => ⟨lenIs_of (by rw [hps]; rfl), bgConfigRun_sets hnz hps⟩

/-- Settles O25. -/
theorem kerbAndTestCommandsAnswer : Obligations.KerbAndTestCommandsAnswer := ⟨kerb_commands_answer, test_commands_answer⟩

end Sys2Proof.TestLaws

/-! Markers that fire and are armed, capture units and their reads (O45). -/

namespace Sys2Proof.MarkerLaws
open Sys2Proof.Machine Sys2Proof.Statements Sys2Proof.CommandRules Sys2Proof.DmaLaws

/-- A field that is zero has no bit set. -/
theorem bitAt_of_fld_zero {w : Word} {hi lo k : Nat} (h : fld w hi lo = 0) (hlo : lo ≤ k) (hhi : k ≤ hi) : bitAt w k = false := by
  have hbit : (fld w hi lo).testBit (k - lo) = w.toNat.testBit k := by
    rw [fld, Nat.testBit_mod_two_pow, Nat.testBit_shiftRight, decide_eq_true (by omega), Bool.true_and]
    congr 1
    omega
  rw [h, Nat.zero_testBit] at hbit
  exact hbit.symm

/-! ### A marker fires (R45, R47, R48) -/

/-- What a firing leaves of the marker but for DROPPED (R45, R59). -/
def fired (m : Marker) : Marker := { m with ctrl := m.ctrl &&& ~~~1#32, fired := true, late := m.late || m.jumped, jumped := false }

/-- A marker that is not armed, or not due, does not fire. -/
theorem markerFired_idle {n : Fin 16} {s : State} (h : bitAt s.cmps.marks[n].ctrl 0 = false ∨ s.time.nt.toNat < s.cmps.marks[n].target.toNat) :
    markerFired n s = s := by
  have hidle : (bitAt s.cmps.marks[n].ctrl 0 && decide (s.cmps.marks[n].target.toNat ≤ s.time.nt.toNat)) = false := by
    obtain h | h := h
    · rw [h, Bool.false_and]
    · rw [decide_eq_false (Nat.not_le.mpr h), Bool.and_false]
  exact if_neg (by rw [hidle]; exact Bool.false_ne_true)

/-- The event at a firing's end changes no marker. -/
theorem raised_cmps (c : Bool) (code : Nat) (body : List Word) (t : State) : (if c then raise code body t else t).cmps = t.cmps := by
  split
  · rw [raise_only code body t]
  · rfl

/-- Whatever the actions do, the marker stands as fired; only whether one of them was dropped depends on them. -/
theorem markerFired_marks {n : Fin 16} {s : State} (harmed : bitAt s.cmps.marks[n].ctrl 0 = true)
    (hdue : s.cmps.marks[n].target.toNat ≤ s.time.nt.toNat) :
    ∃ d, (markerFired n s).cmps.marks[n] = { fired s.cmps.marks[n] with dropped := d } := by
  have hfires : (bitAt s.cmps.marks[n].ctrl 0 && decide (s.cmps.marks[n].target.toNat ≤ s.time.nt.toNat)) = true := by
    rw [harmed, decide_eq_true hdue, Bool.and_self]
  unfold markerFired
  dsimp only
  rw [if_pos hfires, raised_cmps]
  exact ⟨_, Vector.getElem_set_self n.isLt⟩

/-- MK0 to MK7 without an action have nothing but their event (R47). -/
theorem markerFired_plain {n : Fin 16} {s : State} (harmed : bitAt s.cmps.marks[n].ctrl 0 = true)
    (hdue : s.cmps.marks[n].target.toNat ≤ s.time.nt.toNat) (hlow : n.val < 8) (hplain : fld s.cmps.marks[n].ctrl 7 3 = 0) :
    let m := s.cmps.marks[n]
    let t := { s with cmps.marks := s.cmps.marks.set n (fired m) }
    markerFired n s = if bitAt m.ctrl 1 then raise 0x0C1 (W (n.val + b2n m.jumped * 16) :: words64 m.target) t else t := by
  have hfires : (bitAt s.cmps.marks[n].ctrl 0 && decide (s.cmps.marks[n].target.toNat ≤ s.time.nt.toNat)) = true := by
    rw [harmed, decide_eq_true hdue, Bool.and_self]
  have hhigh : ¬8 ≤ n.val := Nat.not_le.mpr hlow
  have h3 := bitAt_of_fld_zero hplain (k := 3) (by decide) (by decide)
  have h4 := bitAt_of_fld_zero hplain (k := 4) (by decide) (by decide)
  have h5 := bitAt_of_fld_zero hplain (k := 5) (by decide) (by decide)
  have h6 := bitAt_of_fld_zero hplain (k := 6) (by decide) (by decide)
  have h7 := bitAt_of_fld_zero hplain (k := 7) (by decide) (by decide)
  have hword : b2n false * 32 = 0 := rfl
  simp only [markerFired, markerAct, hfires, hhigh, h3, h4, h5, h6, h7, hword, decide_false, Bool.and_false, Bool.or_false, Bool.false_eq_true, if_false,
    if_true, Nat.add_zero, Vector.set_set, fired]

/-! ### A marker is armed (R45, R46, R59) -/

theorem writeMkCtrl_kept {n : Fin 8} {i : Fin 16} {ctrl : Word} {s : State} (hi : i = ⟨n.val + 8, by omega⟩)
    (h : bitAt ctrl 0 = true ∨ bitAt s.cmps.marks[i].ctrl 0 = false ∨ s.time.nt.toNat < s.cmps.marks[i].target.toNat) :
    writeMkCtrl n ctrl s = { s with cmps.marks := s.cmps.marks.set i { s.cmps.marks[i] with
      ctrl := ctrl &&& 0x003F7FFF#32
      jumped := if bitAt ctrl 0 && !bitAt s.cmps.marks[i].ctrl 0 then decide (s.cmps.marks[i].target.toNat ≤ s.time.nt.toNat)
        else s.cmps.marks[i].jumped && bitAt ctrl 0 } } := by
  subst hi
  have hstate : (if bitAt ctrl 0 then s else markerFired ⟨n.val + 8, by omega⟩ s) = s := by
    obtain h | h := h
    · exact if_pos h
    · rw [markerFired_idle h, ite_self]
  unfold writeMkCtrl
  simp only [hstate]

theorem writeMkCtrl_disarm {n : Fin 8} {ctrl : Word} {s : State} (hoff : bitAt ctrl 0 = false) :
    let i : Fin 16 := ⟨n.val + 8, by omega⟩
    let t := markerFired i s
    writeMkCtrl n ctrl s = { t with cmps.marks := t.cmps.marks.set i { t.cmps.marks[i] with ctrl := ctrl &&& 0x003F7FFF#32, jumped := false } } := by
  simp only [writeMkCtrl, hoff, Bool.false_and, Bool.and_false, Bool.false_eq_true, if_false]

/-! ### Captures and their reads (R49, R50, R52) -/

theorem captureAt_eq {u : Fin 4} {v : DWord} {s : State} (hmove : s.cmps.caps[u].moveDue = false) :
    let c := s.cmps.caps[u]
    captureAt u v s = ntcIrq (capBit u.val) { s with cmps.caps := s.cmps.caps.set u (
      if c.new = false ∧ c.frozen = false then { c with value := v, new := true }
      else if c.slot = none then { c with slot := some v }
      else { c with ovr := true, lost := satInc16 c.lost }) } := by
  intro c
  rw [captureAt, place_eq v _ hmove]

/-- What stands readable once a value whose move is due has moved in (R50). -/
theorem settle_eq (c : CaptureUnit) :
    c.settle = if c.moveDue then { c with value := c.slot.getD c.value, new := c.new || c.slot.isSome, slot := none, moveDue := false } else c := by
  unfold CaptureUnit.settle
  cases hslot : c.slot <;> simp only [Option.getD_some, Option.getD_none, Option.isSome_some, Option.isSome_none, Bool.or_true, Bool.or_false]

/-- The low word of a capture freezes the pair, once the value whose move is due has moved in. -/
theorem readCpLo_eq {u : Fin 4} {c : CaptureUnit} {s : State} (hc : s.cmps.caps[u].settle = c) :
    readCpLo u s = (lo32 c.value, { s with cmps.caps := s.cmps.caps.set u { c with frozen := true } }) := by
  subst hc
  rfl

theorem readCpHi_frozen {u : Fin 4} {c : CaptureUnit} {s : State} (hc : s.cmps.caps[u].settle = c) (hfrozen : c.frozen = true) :
    readCpHi u s = (hi32 c.value, { s with cmps.caps := s.cmps.caps.set u { c with frozen := false, new := false, moveDue := c.slot.isSome } }) := by
  subst hc
  simp only [readCpHi, hfrozen, if_true]

theorem readCpHi_free {u : Fin 4} {c : CaptureUnit} {s : State} (hc : s.cmps.caps[u].settle = c) (hfree : c.frozen = false) :
    readCpHi u s = (hi32 c.value, s) := by
  subst hc
  simp only [readCpHi, hfree, Bool.false_eq_true, if_false]

/-- A read through an open page puts its word on the bus and leaves what the read leaves. -/
theorem pageReadAs_of {d : Nat} {f : State → Word × State} {s t : State} {w : Word} (hopen : pageOpen s d = true) (h : f s = (w, t)) :
    pageReadAs d f s = busOut w t := by
  rw [pageReadAs_open hopen, h]

/-- Settles O45. -/
theorem markersAndCapturesAct : Obligations.MarkersAndCapturesAct := by
  refine ⟨fun n s h => ?idle, fun n s => ?fires, fun n ctrl s hopen => ⟨?arm, ?disarm⟩, fun u i s htrigger hmove => ?captures, fun u s hopen => ?reads⟩
  case idle => exact congrArg Host.Outcome.next (markerFired_idle h)
  case fires =>
    intro m harmed hdue
    refine ⟨⟨_, rfl, ?_⟩, fun hlow hplain => congrArg Host.Outcome.next (markerFired_plain harmed hdue hlow hplain)⟩
    obtain ⟨d, hm⟩ := markerFired_marks harmed hdue
    rw [hm]
    exact ⟨rfl, rfl, rfl, rfl⟩
  case arm => exact fun h => congrArg Host.Outcome.next ((if_pos hopen).trans (writeMkCtrl_kept rfl h))
  case disarm =>
    intro t hoff hfired
    obtain rfl := Host.Outcome.next.inj hfired
    exact congrArg Host.Outcome.next ((if_pos hopen).trans (writeMkCtrl_disarm hoff))
  case captures =>
    have hcapture : exec i s = .next (captureAt u s.time.nt s) := by
      obtain ⟨rfl, hopen, hen⟩ | ⟨k, rfl, hu, hen, hlo, hhi⟩ := htrigger
      · exact NetworkTime.exec_swtrig_of_enabled hopen hen
      · obtain rfl : u = ⟨k.val + 1, Nat.succ_lt_succ k.isLt⟩ := Fin.ext hu
        exact NetworkTime.exec_capture_of_selected hen hlo hhi
    exact hcapture.trans (congrArg Host.Outcome.next (captureAt_eq hmove))
  case reads =>
    intro c0 c put
    have hc : c0.settle = c := settle_eq c0
    refine ⟨?low, fun hfrozen => ?high, fun hfree => ?highFree, ?lost, ?glitch⟩
    case low => exact congrArg Host.Outcome.next (pageReadAs_of hopen (readCpLo_eq hc))
    case high => exact congrArg Host.Outcome.next (pageReadAs_of hopen (readCpHi_frozen hc hfrozen))
    case highFree => exact congrArg Host.Outcome.next (pageReadAs_of hopen (readCpHi_free hc hfree))
    case lost => exact congrArg Host.Outcome.next (pageReadAs_open hopen)
    case glitch => exact congrArg Host.Outcome.next (pageReadAs_open hopen)

end Sys2Proof.MarkerLaws

/-! Basic timers, pins and register writes (O46), the serial controllers (O47). -/

namespace Sys2Proof.PeripheralLaws
open Sys2Proof.Machine Sys2Proof.Statements Sys2Proof.CommandRules Sys2Proof.DmaLaws Sys2Proof.MarkerLaws

/-! ### Basic timers (R54 to R57) -/

theorem setBt_open {n : Fin 8} {f : BasicTimer → BasicTimer} {s : State} (hopen : pageOpen s dPERI = true) :
    setBt n f s = { s with peri.bt := s.peri.bt.set n (f s.peri.bt[n]) } := if_pos hopen

/-- START is ignored while the timer runs (R57). -/
theorem setBt_start_running {n : Fin 8} {s : State} (hrun : s.peri.bt[n].running = true) : setBt n BasicTimer.start s = s := by
  have hstart : s.peri.bt[n].start = s.peri.bt[n] := if_pos hrun
  have hset : s.peri.bt.set n s.peri.bt[n] = s.peri.bt := Vector.set_getElem_self n.isLt
  unfold setBt
  rw [hstart, hset, ite_self]

/-- With every unit disabled nothing is captured. -/
theorem captureFrom_disabled {f : Word → Bool} {s : State} (h : ∀ k : Fin 4, bitAt s.cmps.caps[k].ctrl 0 = false) : captureFrom f s = s := by
  have h1 : bitAt s.cmps.caps[(1 : Fin 4)].ctrl 0 = false := h 1
  have h2 : bitAt s.cmps.caps[(2 : Fin 4)].ctrl 0 = false := h 2
  have h3 : bitAt s.cmps.caps[(3 : Fin 4)].ctrl 0 = false := h 3
  simp only [captureFrom, h1, h2, h3, Bool.false_and, Bool.false_eq_true, if_false]

theorem btEnd_ends {n : Fin 8} {s : State} (hon : s.isUsable dPERI = true) (hrun : s.peri.bt[n].running = true) (hdue : s.peri.bt[n].endDue = true)
    (hadc : bitAt s.peri.bt[n].ctrl 17 = false) (hdma : bitAt s.peri.bt[n].ctrl 18 = false)
    (hcaps : ∀ k : Fin 4, bitAt s.cmps.caps[k].ctrl 0 = false) :
    btEnd n s = btTrigger n.val { s with peri.bt := s.peri.bt.set n { s.peri.bt[n] with
      running := false, ended := true, endDue := false, shortDue := false, short := s.peri.bt[n].short || s.peri.bt[n].shortDue } } := by
  simp only [btEnd, hon, hrun, hdue, hadc, hdma, Bool.and_self, Bool.false_eq_true, if_false, if_true]
  exact congrArg (btTrigger n.val) (captureFrom_disabled hcaps)

theorem btEnd_idle {n : Fin 8} {s : State} (h : s.peri.bt[n].running = false ∨ s.peri.bt[n].endDue = false) : btEnd n s = s := by
  have hidle : (s.isUsable dPERI && s.peri.bt[n].running && s.peri.bt[n].endDue) = false := by
    obtain h | h := h <;> simp only [h, Bool.and_false, Bool.false_and]
  exact if_neg (by rw [hidle]; exact Bool.false_ne_true)

/-- Below the prescaler's step a source tick only adds to the accumulator (R56). -/
theorem sourceTick_below {b : BasicTimer} {gate : Bool} (h : b.acc + 256 < b.presc.toNat) :
    (b.sourceTick gate).acc = b.acc + 256 ∧ (b.sourceTick gate).count = b.count ∧ (b.sourceTick gate).endDue = b.endDue := by
  simp only [BasicTimer.sourceTick, Nat.not_le.mpr h, if_false, and_self]

/-- At the step the prescaled tick is counted if the gate is open (R57). -/
theorem sourceTick_step {b : BasicTimer} (gate : Bool) (h : b.presc.toNat ≤ b.acc + 256) :
    b.sourceTick gate = let b1 := { b with past := (b.count :: b.past).take 3, acc := b.acc + 256 - b.presc.toNat }
      if gate then b1.count1 else b1 := by
  simp only [BasicTimer.sourceTick, h, if_true]

theorem basic_timers_act : basicTimersAct := by
  refine ⟨fun n s hopen => ⟨fun hstopped => ?start, fun hrun => ?running, ?stop, fun period => ?period⟩,
    fun n s hon hrun hdue hadc hdma hcaps => ?ends, fun n s h => ?idle, fun b gate => ⟨fun hbelow => ?below, fun hstep => ?step⟩⟩
  case start =>
    have hstart : s.peri.bt[n].start = s.peri.bt[n].restart := if_neg (by rw [hstopped]; exact Bool.false_ne_true)
    refine congrArg Host.Outcome.next ((setBt_open hopen).trans ?_)
    rw [hstart]
    rfl
  case running => exact congrArg Host.Outcome.next (setBt_start_running hrun)
  case stop => exact congrArg Host.Outcome.next (setBt_open hopen)
  case period => exact congrArg Host.Outcome.next (setBt_open hopen)
  case ends => exact congrArg Host.Outcome.next (btEnd_ends hon hrun hdue hadc hdma hcaps)
  case idle => exact congrArg Host.Outcome.next (btEnd_idle h)
  case below => exact sourceTick_below hbelow
  case step =>
    rw [sourceTick_step gate hstep]
    cases gate with
    | false => exact ⟨rfl, fun _ => ⟨rfl, rfl⟩, fun h => absurd h Bool.false_ne_true⟩
    | true => exact ⟨rfl, fun h => absurd h.symm Bool.false_ne_true, fun _ => ⟨rfl, rfl, rfl⟩⟩

/-! ### Pins and registers (R360, R365, R371, R373, R374) -/

theorem set_same {v : Vector GpioPort 4} {q : Fin 4} {g : GpioPort} : (v.set q g)[q] = g := Vector.getElem_set_self q.isLt

/-- A port replaced by one with the same OUT. -/
theorem set_out {v : Vector GpioPort 4} {q p : Fin 4} {g : GpioPort} (h : g.out = v[q].out) : (v.set q g)[p].out = v[p].out := by
  by_cases hp : q.val = p.val
  · obtain rfl : q = p := Fin.ext hp
    rw [set_same, h]
  · exact congrArg GpioPort.out (Vector.getElem_set_ne q.isLt p.isLt hp)

/-- A write of a port's OUT keeps the pins that the part has (R371). -/
theorem gpioWrite_out {p : Fin 4} {f : BitVec 16 → BitVec 16} {s : State} (hopen : pageOpen s dPERI = true) :
    (gpioWrite p f s).peri.gpio[p].out = f s.peri.gpio[p].out &&& portMask s p.val := by
  rw [gpioWrite, if_pos hopen, setOut, (withEdges_gpio _ s p).1, set_same]

theorem gpioEdge_ignored {k : Fin 64} {level : Bool} {cycles : Nat} {s : State} (h : cycles < 2 ∨ pinPresent s k.val = false) :
    gpioEdge k level cycles s = s :=
  if_pos (by simpa only [Bool.or_eq_true, decide_eq_true_eq, Bool.not_eq_true'] using h)

/-- LEVEL of a port with one pin's bit as the world drives it. -/
def levelWith (k : Fin 64) (level : Bool) (w : BitVec 16) : BitVec 16 :=
  if level then w ||| 1#16 <<< bitOf k else w &&& ~~~(1#16 <<< bitOf k)

theorem levelWith_bit (k : Fin 64) (level : Bool) (w : BitVec 16) : (levelWith k level w).getLsbD (bitOf k) = level := by
  have hk : bitOf k < 16 := Nat.mod_lt _ (by decide)
  cases level <;> simp [levelWith, hk]

theorem gpioEdge_taken {k : Fin 64} {level : Bool} {cycles : Nat} {s : State} (hcycles : 2 ≤ cycles) (hpin : pinPresent s k.val = true) :
    (gpioEdge k level cycles s).peri.gpio[portOf k].level = levelWith k level s.peri.gpio[portOf k].level ∧
      ∀ p : Fin 4, (gpioEdge k level cycles s).peri.gpio[p].out = s.peri.gpio[p].out := by
  have hgo : (decide (cycles < 2) || !pinPresent s k.val) = false := by
    rw [hpin, decide_eq_false (Nat.not_lt.mpr hcycles)]
    rfl
  simp only [gpioEdge, hgo, Bool.false_eq_true, if_false]
  refine ⟨(withEdges_gpio _ s (portOf k)).2.trans ?_, fun p => (withEdges_gpio _ s p).1.trans (set_out rfl)⟩
  simp only [set_same]
  rfl

/-- A word stored to an open register page is a write on the bus; one that the bus refuses does nothing (R365). -/
theorem registerWrite_open {addr value : Word} {s : State} (hawake : s.awake = true) (happ : s.on dAPP = true)
    (hpage : inDmaPages addr.toNat = true) (haligned : addr.toNat % 4 = 0) :
    (∀ t, busWrite addr.toNat 4 value s = .ok t → registerWrite addr value s = t) ∧
      ∀ k, busWrite addr.toNat 4 value s = .error k → registerWrite addr value s = s := by
  have hgo : (s.awake && s.on dAPP && inDmaPages addr.toNat && decide (addr.toNat % 4 = 0)) = true := by
    rw [hawake, happ, hpage, decide_eq_true haligned]
    rfl
  constructor <;>
  · intro x hx
    simp only [registerWrite, hgo, if_true, hx]

theorem pins_and_registers_act : pinsAndRegistersAct := by
  refine ⟨fun p w s hopen => ⟨?set, ?clear, ?toggle⟩, fun pin level cycles s h => ?noEdge, fun pin level cycles s hcycles hpin => ?edge,
    fun w s hopen => ⟨?swset, ?swclr⟩, fun addr value s t hawake happ hpage haligned hbus => ?stored, fun addr value s k hawake happ hpage haligned hbus => ?refused⟩
  case set => exact ⟨_, rfl, gpioWrite_out hopen⟩
  case clear => exact ⟨_, rfl, gpioWrite_out hopen⟩
  case toggle => exact ⟨_, rfl, gpioWrite_out hopen⟩
  case noEdge => exact congrArg Host.Outcome.next (gpioEdge_ignored h)
  case edge =>
    obtain ⟨hlevel, hout⟩ := gpioEdge_taken (level := level) hcycles hpin
    exact ⟨_, rfl, (congrArg (fun w : BitVec 16 => w.getLsbD (bitOf pin)) hlevel).trans (levelWith_bit pin level _), hout⟩
  case swset => exact congrArg Host.Outcome.next (if_pos hopen)
  case swclr => exact congrArg Host.Outcome.next (if_pos hopen)
  case stored => exact congrArg Host.Outcome.next ((registerWrite_open hawake happ hpage haligned).1 t hbus)
  case refused => exact congrArg Host.Outcome.next ((registerWrite_open hawake happ hpage haligned).2 k hbus)

/-- Settles O46. -/
theorem timersPinsAndRegistersAct : Obligations.TimersPinsAndRegistersAct := ⟨basic_timers_act, pins_and_registers_act⟩

/-! ### The SPI controllers (R375) -/

/-- A controller changed by a write through an open page. -/
theorem written {f : State → State} {s t : State} (hopen : pageOpen s dPERI = true) (h : f s = t) : (if pageOpen s dPERI then f s else s) = t :=
  (if_pos hopen).trans h

theorem spicRx_takes {i : Fin 2} {s : State} {w : Word} {rest : List Word} (hrx : s.peri.spic[i].rx = w :: rest) :
    spicRx i s = (w, { s with peri.spic := s.peri.spic.set i { s.peri.spic[i] with rx := rest } }) := by
  simp only [spicRx, setSpic, hrx, List.headD_cons, List.tail_cons]

theorem spicCsEnd_idle {k : Spic} (hwire : k.wire = none) (htx : k.tx = []) : spicCsEnd k = { k with csActive := false, csEnd := false } :=
  if_pos (by rw [hwire, htx]; rfl)

theorem spicCsEnd_busy {k : Spic} (h : k.wire ≠ none ∨ k.tx ≠ []) : spicCsEnd k = { k with csEnd := true } := by
  refine if_neg fun hidle => ?_
  rw [Bool.and_eq_true, Option.isNone_iff_eq_none, List.isEmpty_iff] at hidle
  exact h.elim (· hidle.1) (· hidle.2)

/-- The bits of a received frame that SIZE selects. -/
def sizeMask (size : Nat) : Word := if size = 0 then 0xFF#32 else if size = 1 then 0xFFFF#32 else 0xFFFFFFFF#32

theorem spicMask_sized {k : Spic} (w : Word) (s : State) (hsize : fld k.ctrl 5 4 < 3) : spicMask k w s = (w &&& sizeMask (fld k.ctrl 5 4), s) := by
  have hall : w &&& 0xFFFFFFFF#32 = w := BitVec.and_allOnes
  have h : fld k.ctrl 5 4 = 0 ∨ fld k.ctrl 5 4 = 1 ∨ fld k.ctrl 5 4 = 2 := by omega
  unfold spicMask
  obtain h | h | h := h <;> rw [h]
  · rfl
  · rfl
  · exact congrArg (·, s) hall.symm

theorem spicFrameEnd_ends {i : Fin 2} {miso : Word} {s : State} (hon : s.isUsable dPERI = true) (hwire : s.peri.spic[i].wire ≠ none)
    (hsize : fld s.peri.spic[i].ctrl 5 4 < 3) :
    let k := s.peri.spic[i]
    let k1 : Spic := { k with wire := none, done := k.done || k.tx.isEmpty }
    let k2 : Spic := if k.rx.length < 8 then { k1 with rx := k.rx ++ [miso &&& sizeMask (fld k.ctrl 5 4)] } else { k1 with rxovr := true }
    spicFrameEnd i miso s = { s with peri.spic := s.peri.spic.set i k2.advance } := by
  have hgo : (s.isUsable dPERI && s.peri.spic[i].wire.isSome) = true := by
    rw [hon, Option.isSome_iff_ne_none.mpr hwire]
    rfl
  unfold spicFrameEnd
  simp only [hgo, spicMask_sized miso s hsize, setSpic, if_true]
  by_cases hroom : s.peri.spic[i].rx.length < 8
  · simp only [hroom, Nat.not_le.mpr hroom, decide_false, Bool.or_false, Bool.false_eq_true, if_false, if_true]
  · simp only [hroom, Nat.not_lt.mp hroom, decide_true, Bool.or_true, if_false, if_true]

/-! ### The I²C controllers (R376, R377) -/

theorem i2cCmd_starts {i : Fin 2} {w : Word} {s : State} (hidle : s.peri.i2c[i].cmd = none) (hen : bitAt s.peri.i2c[i].ctrl 0 = true)
    (hcount : fld w 15 8 ≠ 0) :
    i2cCmd i w s = { s with peri.i2c := s.peri.i2c.set i { s.peri.i2c[i] with
      cmd := some { addr := w.setWidth 7, read := bitAt w 7, count := fld w 15 8, stop := bitAt w 16 }, doneBytes := 0, held := false } } := by
  simp only [i2cCmd, setI2c, hidle, hen, hcount, Option.isSome_none, Bool.not_true, Bool.or_self, Bool.false_eq_true, if_false]

theorem i2cRx_takes {i : Fin 2} {s : State} {b : Byte} {rest : List Byte} (hrx : s.peri.i2c[i].rx = b :: rest) :
    i2cRx i s = (b.setWidth 32, { s with peri.i2c := s.peri.i2c.set i { s.peri.i2c[i] with rx := rest } }) := by
  simp only [i2cRx, setI2c, hrx, List.headD_cons, List.tail_cons]

/-- The address byte: acknowledged, or the end of the command. -/
theorem byteEnd_address {k : I2c} {m : I2cCmd} {acked : Bool} {rx : Byte} (hcmd : k.cmd = some m) (haddr : m.addressed = false) :
    k.byteEnd acked rx = if acked then { k with cmd := some { m with addressed := true } } else { k.fail with nackAddr := true } := by
  simp only [I2c.byteEnd, hcmd, haddr, Bool.not_false, if_true]

theorem byteEnd_read {k : I2c} {m : I2cCmd} {acked : Bool} {rx : Byte} (hcmd : k.cmd = some m) (haddr : m.addressed = true) (hread : m.read = true)
    (hroom : k.rx.length < 8) : k.byteEnd acked rx = I2c.stepData { k with rx := k.rx ++ [rx] } m := by
  simp only [I2c.byteEnd, hcmd, haddr, hread, hroom, Bool.not_true, Bool.false_eq_true, if_false, if_true]

/-- A byte written: acknowledged, or the end of the command. -/
theorem byteEnd_write {k : I2c} {m : I2cCmd} {acked : Bool} {rx b : Byte} {rest : List Byte} (hcmd : k.cmd = some m) (haddr : m.addressed = true)
    (hwrite : m.read = false) (htx : k.tx = b :: rest) :
    k.byteEnd acked rx = if acked then I2c.stepData { k with tx := rest } m else { I2c.fail { k with tx := rest } with nackData := true } := by
  simp only [I2c.byteEnd, hcmd, haddr, hwrite, htx, Bool.not_true, Bool.false_eq_true, if_false]

theorem timedOut_busy {k : I2c} {m : I2cCmd} (hcmd : k.cmd = some m) : k.timedOut = { k.fail with timeout := true } :=
  if_pos (by rw [hcmd]; rfl)

/-- What a byte's end leaves of a controller, on the bus (R376). -/
theorem i2cByteEnd_of {c : Fin 2} {acked : Bool} {rx : Byte} {s : State} {k : I2c} (hon : s.isUsable dPERI = true)
    (h : s.peri.i2c[c].byteEnd acked rx = k) : exec (.i2cByteEnd c acked rx) s = .next { s with peri.i2c := s.peri.i2c.set c k } := by
  subst h
  exact congrArg Host.Outcome.next (if_pos hon)

/-! ### The UARTs (R378) -/

theorem uartRx_takes {i : Fin 3} {s : State} {c : BitVec 11} {rest : List (BitVec 11)} (hrx : s.peri.uart[i].rx = c :: rest) :
    uartRx i s = (c.setWidth 32, { s with peri.uart := s.peri.uart.set i { s.peri.uart[i] with rx := rest } }) := by
  simp only [uartRx, setUart, hrx]

theorem uartRx_empty {i : Fin 3} {s : State} (hrx : s.peri.uart[i].rx = []) : uartRx i s = (0x800#32, s) := by
  simp only [uartRx, hrx]

theorem uartChar_received {k : Uart} {d : Byte} {ferr brk : Bool} (hen : bitAt k.ctrl 0 = true) (hrx : bitAt k.ctrl 1 = true) :
    uartChar d false ferr brk k =
      let k1 : Uart := { k with err := k.err || ferr || brk, active := true }
      if k.rx.length < 16 then { k1 with rx := k.rx ++ [BitVec.ofNat 11 (d.toNat + b2n ferr * 512 + b2n brk * 1024)] }
      else { k1 with rxovr := true, lost := satInc16 k.lost } := by
  have hparity : b2n false * 256 = 0 := rfl
  simp only [uartChar, hen, hrx, hparity, Bool.and_self, Bool.false_and, Bool.or_false, if_true, Nat.add_zero]

theorem uartIdle_active {k : Uart} (hactive : k.active = true) (hen : bitAt k.ctrl 0 = true) (hrx : bitAt k.ctrl 1 = true) :
    uartIdle k = { k with rxidle := true, active := false } := if_pos (by rw [hactive, hen, hrx]; rfl)

theorem uartSent_next {k : Uart} {c : Byte} (hwire : k.wire = some c) : uartSent k = Uart.advance { k with wire := none } :=
  if_pos (by rw [hwire]; rfl)

/-- A change of a UART by the line, in run. -/
theorem setUart_of {u : Fin 3} {f : Uart → Uart} {s : State} {k : Uart} (h : f s.peri.uart[u] = k) :
    setUart u f s = { s with peri.uart := s.peri.uart.set u k } := by
  subst h
  rfl

/-- Settles O47. -/
theorem serialControllersAct : Obligations.SerialControllersAct := by
  refine ⟨fun c s hopen => ⟨fun w hroom => ?spicTx, fun w rest hrx => ?spicRx, fun hwire htx => ?csIdle, fun hbusy => ?csBusy⟩,
    fun c miso s => ?frameEnd, fun c s hopen => ⟨fun w hidle hen hcount => ?i2cCmd, fun w hroom => ?i2cTx, fun b rest hrx => ?i2cRx⟩,
    fun c acked rx m s => ?i2cBytes,
    fun u s hopen => ⟨fun w hroom => ?uartTx, fun c rest hrx => ?uartRx, fun hrx => ?uartEmpty, ?uartLost⟩, fun u d ferr brk s => ?uartLine⟩
  case spicTx =>
    have htx : spicTx w s.peri.spic[c] = Spic.advance { s.peri.spic[c] with tx := s.peri.spic[c].tx ++ [w] } := if_pos hroom
    exact congrArg Host.Outcome.next (written hopen (by rw [setSpic, htx]))
  case spicRx => exact congrArg Host.Outcome.next (pageReadAs_of hopen (spicRx_takes hrx))
  case csIdle => exact congrArg Host.Outcome.next (written hopen (by rw [setSpic, spicCsEnd_idle hwire htx]))
  case csBusy => exact congrArg Host.Outcome.next (written hopen (by rw [setSpic, spicCsEnd_busy hbusy]))
  case frameEnd => exact fun hon hwire hsize => congrArg Host.Outcome.next (spicFrameEnd_ends hon hwire hsize)
  case i2cCmd => exact congrArg Host.Outcome.next (written hopen (i2cCmd_starts hidle hen hcount))
  case i2cTx =>
    have htx : i2cTx w s.peri.i2c[c] = { s.peri.i2c[c] with tx := s.peri.i2c[c].tx ++ [w.setWidth 8] } := if_pos hroom
    exact congrArg Host.Outcome.next (written hopen (by rw [setI2c, htx]))
  case i2cRx => exact congrArg Host.Outcome.next (pageReadAs_of hopen (i2cRx_takes hrx))
  case i2cBytes =>
    intro k hon hcmd put failed counted
    refine ⟨fun haddr hack => ?address, fun haddr hnack => ?nackAddress, fun haddr hread hroom => ?read, fun b rest haddr hwrite htx hack => ?write,
      fun b rest haddr hwrite htx hnack => ?nackData, ?timeout⟩
    case address => exact i2cByteEnd_of hon ((byteEnd_address hcmd haddr).trans (if_pos hack))
    case nackAddress => exact i2cByteEnd_of hon ((byteEnd_address hcmd haddr).trans (if_neg (by rw [hnack]; exact Bool.false_ne_true)))
    case read => exact i2cByteEnd_of hon (byteEnd_read hcmd haddr hread hroom)
    case write => exact i2cByteEnd_of hon ((byteEnd_write hcmd haddr hwrite htx).trans (if_pos hack))
    case nackData => exact i2cByteEnd_of hon ((byteEnd_write hcmd haddr hwrite htx).trans (if_neg (by rw [hnack]; exact Bool.false_ne_true)))
    case timeout => exact congrArg Host.Outcome.next ((if_pos hon).trans (by rw [setI2c, timedOut_busy hcmd]; rfl))
  case uartTx =>
    have htx : uartTx w s.peri.uart[u] = Uart.advance { s.peri.uart[u] with tx := s.peri.uart[u].tx ++ [w.setWidth 8] } := if_pos hroom
    exact congrArg Host.Outcome.next (written hopen (setUart_of htx))
  case uartRx => exact congrArg Host.Outcome.next (pageReadAs_of hopen (uartRx_takes hrx))
  case uartEmpty => exact congrArg Host.Outcome.next (pageReadAs_of hopen (uartRx_empty hrx))
  case uartLost => exact congrArg Host.Outcome.next (pageReadAs_open hopen)
  case uartLine =>
    intro k hon hawake hen hrx put k1
    have hgo : (s.isUsable dPERI && s.awake) = true := by rw [hon, hawake]; rfl
    refine ⟨?character, fun hactive => ?idle, fun c hclock hwire => ?sent⟩
    case character => exact congrArg Host.Outcome.next ((if_pos hgo).trans (setUart_of (uartChar_received hen hrx)))
    case idle => exact congrArg Host.Outcome.next ((if_pos hgo).trans (setUart_of (uartIdle_active hactive hen hrx)))
    case sent =>
      have hclocked : (s.isUsable dPERI && s.awake && s.power.hfxo) = true := by rw [hgo, hclock]; rfl
      exact congrArg Host.Outcome.next ((if_pos hclocked).trans (setUart_of (uartSent_next hwire)))

end Sys2Proof.PeripheralLaws

/-! How reception contexts begin, go on and end (O49). -/

namespace Sys2Proof.ReceptionLaws
open Sys2Proof.Machine Sys2Proof.Statements

/-! ### Detections (R195, R196, R198, R209, R210) -/

theorem detectOne_idle {d : Detect} {s : State}
    (h : s.radio.mode ≠ .rx ∨ s.radio.blanked = true ∨ s.bg.drain ≠ none ∨ pathReception d.boulevard s = none) : detectOne d s = s := by
  unfold detectOne
  obtain h | h | h | h := h
  · exact if_pos (by rw [decide_eq_true h, Bool.true_or, Bool.true_or])
  · exact if_pos (by rw [h, Bool.or_true, Bool.true_or])
  · exact if_pos (by rw [Option.isSome_iff_ne_none.mpr h, Bool.or_true])
  · simp only [h, ite_self]

/-- Nothing keeps the reception of a path from a detection. -/
structure Listens (d : Detect) (r : Reception) (s : State) : Prop where
  mode : s.radio.mode = .rx
  clear : s.radio.blanked = false
  drain : s.bg.drain = none
  path : pathReception d.boulevard s = some r
  open_ : r.draining = none

theorem detectOne_alley {d : Detect} {r : Reception} {s : State} (h : Listens d r s) (hpath : d.boulevard = false) :
    detectOne d s = detectAlley d r s := by
  have hr : pathReception false s = some r := hpath ▸ h.path
  simp only [detectOne, h.mode, h.clear, h.drain, hr, h.open_, hpath, ne_eq, not_true, decide_false, Option.isSome_none, Bool.or_self,
    Bool.false_eq_true, if_false]

theorem detectOne_blvd {d : Detect} {r : Reception} {pl : Plan} {s : State} (h : Listens d r s) (hpath : d.boulevard = true)
    (hplan : s.rx.plan = some pl) : detectOne d s = detectBlvd d pl s := by
  have hr : pathReception true s = some r := hpath ▸ h.path
  simp only [detectOne, h.mode, h.clear, h.drain, hr, h.open_, hpath, hplan, ne_eq, not_true, decide_false, Option.isSome_none, Bool.or_self,
    Bool.false_eq_true, if_false, if_true]

theorem detectAlley_seats {d : Detect} {r : Reception} {s : State} (hchirp : (s.phy.profiles[r.profile]).ofdm = false)
    (hk : d.k = (s.phy.profiles[r.profile]).k) (hmetric : 40 ≤ d.metric) (hfree : s.rx.alleyCtx.st ≠ .committed)
    (hnew : s.rx.alleyCtx.provisional = false) : detectAlley d r s = seatAlley { d with entry := 0 } s.phy.profiles[r.profile] s := by
  simp only [detectAlley, hchirp, hk, not_lt.mpr hmetric, hfree, hnew, ne_eq, not_true, decide_false, Bool.or_self, Bool.false_and,
    Bool.false_eq_true, if_false]

theorem detectBlvd_claims {d : Detect} {pl : Plan} {s : State} {bw mask any net thr} (hentry : pl.entries[d.entry.val]? = some (.chirp bw mask any net thr))
    (hk : 6 ≤ d.k) (hmask : mask.getLsbD (d.k - 6) = true) (hthresh : (pl.detThresh : Int) ≤ d.metric)
    (hnew : ∀ n : Fin 64, (s.rx.ctxs[n].entry = d.entry ∧ sameFrame d s.rx.ctxs[n] = true) → False) (hover : overlapped d s = none) :
    detectBlvd d pl s = claimFor d (entryProfile pl (.chirp bw mask any net thr) d.k) s := by
  have hfresh : (s.rx.ctxs.toList.any fun x => decide (x.entry = d.entry) && sameFrame d x) = false := by
    refine List.any_eq_false.mpr fun x hx hsame => ?_
    obtain ⟨i, hi, rfl⟩ := List.getElem_of_mem hx
    rw [Vector.length_toList] at hi
    exact hnew ⟨i, hi⟩ (by simpa using hsame)
  simp only [detectBlvd, hentry, Nat.not_lt.mpr hk, hmask, not_lt.mpr hthresh, hfresh, hover, decide_false, Bool.not_true, Bool.or_self,
    Bool.false_eq_true, if_false]

/-- Of two detections in one sample period the Alley path's is served first (R210). -/
theorem detection_rival {d e : Detect} (hd : d.boulevard = true) (he : e.boulevard = false) (s : State) :
    detection d (some e) s = detectOne d (detectOne e s) := by
  simp only [detection, hd, he, Bool.not_false, Bool.and_self, if_true]

/-! ### Symbols (R198, R203, R212) -/

theorem symbolDecision_ofdm {id : CtxId} {o : SymbolObs} {s : State} (hpresent : ctxPresent id s = true) (hbusy : (ctxOf id s).busy = true)
    (hofdm : (ctxOf id s).ofdm = true) :
    symbolDecision id o s =
      setCtx id { ofdmSymbol s.radio.region o.bins (countSymbol o (ctxOf id s)) with symbols := (ctxOf id s).symbols + 1 } s := by
  simp only [symbolDecision, hpresent, hbusy, hofdm, Bool.not_true, Bool.or_self, Bool.false_eq_true, if_false, if_true]

/-- A block with more erasures than its code carries releases the context (R212). -/
theorem symbolDecision_chirp {id : CtxId} {o : SymbolObs} {s : State} (hpresent : ctxPresent id s = true) (hbusy : (ctxOf id s).busy = true)
    (hchirp : (ctxOf id s).ofdm = false) :
    let x := ctxOf id s
    let hit := symbolHit x s
    symbolDecision id o s =
      if hit = true ∧ x.st ≠ .sync ∧ erasureLimit x < blockSpent hit x then checkDrains (release id .blanked s)
      else setCtx id (nextSymbol s.radio.blanked (chirpSymbol (strongDb id s) (throughLine o x s) hit x)) (feedLine (throughLine o x s) hit x s) := by
  intro x hit
  have hcond : (hit && decide (x.st ≠ .sync) && decide (erasureLimit x < blockSpent hit x)) = true ↔
      hit = true ∧ x.st ≠ .sync ∧ erasureLimit x < blockSpent hit x := by
    simp only [Bool.and_eq_true, decide_eq_true_eq, and_assoc]
  unfold symbolDecision
  simp only [hpresent, hbusy, hchirp, Bool.not_true, Bool.or_self, Bool.false_eq_true, if_false]
  exact if_congr hcond rfl rfl

/-! ### Sync, mark and header (R130, R135, R144, R197, R199, R213) -/

/-- The NETID that two sync symbols show is one that the context accepts (R192, R210). -/
def accepts (id : CtxId) (first second : Rat) (s : State) : Bool :=
  let high := syncHalf (ctxOf id s) first
  let low := syncHalf (ctxOf id s) second
  if ctxAnyNet id s then high ≠ 0#6 && low ≠ 0#6 else high ++ low == (ctxOf id s).profile.netid

theorem syncDecision_within {id : CtxId} {first second : Rat} {s : State} (hpresent : ctxPresent id s = true) (hst : (ctxOf id s).st = .sync)
    (hnew : (ctxOf id s).synced = false) (hsoon : (ctxOf id s).symbols ≤ 60) :
    syncDecision id first second s =
      if accepts id first second s = true then
        setCtx id { ctxOf id s with synced := true, netid := syncHalf (ctxOf id s) first ++ syncHalf (ctxOf id s) second } s
      else release id .foreign s := by
  simp only [syncDecision, accepts, hpresent, hst, hnew, Nat.not_lt.mpr hsoon, ne_eq, not_true, decide_false, Bool.not_true, Bool.or_self,
    Bool.false_eq_true, if_false]
  cases ctxAnyNet id s <;> simp

theorem syncDecision_late {id : CtxId} {first second : Rat} {s : State} (hpresent : ctxPresent id s = true) (hst : (ctxOf id s).st = .sync)
    (hnew : (ctxOf id s).synced = false) (hlate : 60 < (ctxOf id s).symbols) : syncDecision id first second s = release id .noMark s := by
  simp only [syncDecision, hpresent, hst, hnew, hlate, ne_eq, not_true, decide_false, Bool.not_true, Bool.or_self, Bool.false_eq_true, if_false,
    if_true]

theorem noMark_releases {id : CtxId} {s : State} (hpresent : ctxPresent id s = true) (hst : (ctxOf id s).st = .sync)
    (h : (ctxOf id s).synced = true ∨ 60 ≤ (ctxOf id s).symbols) : noMark id s = release id .noMark s :=
  if_pos (by simpa only [hpresent, hst, decide_true, Bool.true_and, Bool.or_eq_true, decide_eq_true_eq] using h)

theorem noMark_early {id : CtxId} {s : State} (hnew : (ctxOf id s).synced = false) (hsoon : (ctxOf id s).symbols < 60) : noMark id s = s :=
  if_neg (by simp only [hnew, Nat.not_le.mpr hsoon, decide_false, Bool.or_self, Bool.and_false, Bool.false_eq_true, not_false_iff])

theorem timingMark_starts {id : CtxId} {first second : Rat} {s : State} (hpresent : ctxPresent id s = true) (hst : (ctxOf id s).st = .sync)
    (hsynced : (ctxOf id s).synced = true) :
    let x := ctxOf id s
    let track := trackMark x.preamble ((first + second) / 2)
    timingMark id first second s = setCtx id { x with
      st := .header, blockPos := 0, blockErased := 0, cols := [], bits := [], track, markCarrier := track.carrier
      stamp := s.time.nt - BitVec.ofNat 64 (usU ((if x.late then 4 else 2) * symbolUs x.k x.profile.bw)) } s := by
  simp only [timingMark, hpresent, hst, hsynced, ne_eq, not_true, decide_false, Bool.not_true, Bool.or_self, Bool.false_eq_true, if_false]

/-- The header's check, of its waveform (R135, R164). -/
def headerOk (x : Context) : Bool :=
  if x.ofdm then ofdmHeaderOk (headerBits x).1 else chirpHeaderOk (BitVec.setWidth 32 (headerBits x).1) (headerBits x).2

/-- The map that an OFDM header names is absent (R164). -/
def mapMissing (x : Context) (s : State) : Bool := x.ofdm && (mapContent s (headerOf x (headerBits x).1 s).map.toNat).isNone

/-- A header is refused for its check, for its map, for the Frame Store's room, or commits the context. -/
theorem headerDecision_heard {id : CtxId} {s : State} (hpresent : ctxPresent id s = true) (hst : (ctxOf id s).st = .header)
    (hheard : headerHeard (ctxOf id s) = true) :
    let x := ctxOf id s
    let h := headerOf x (headerBits x).1 s
    headerDecision id s =
      if !headerOk x then release id .headerFail s
      else if mapMissing x s = true then release id .mapAbsent s
      else if storeFree s < storeNeed h.length then release id .storeFull s
      else setCtx id { x with st := .committed, hdr := h, bits := [], reserved := storeNeed h.length } s := by
  have hgo : (!ctxPresent id s || decide ((ctxOf id s).st ≠ .header) || !headerHeard (ctxOf id s)) = false := by
    rw [hpresent, hst, hheard]
    rfl
  exact if_neg (by rw [hgo]; exact Bool.false_ne_true)

theorem mapMissing_false {x : Context} {s : State} (h : x.ofdm = false ∨ mapContent s (headerOf x (headerBits x).1 s).map.toNat ≠ none) :
    ¬mapMissing x s = true := by
  rw [mapMissing, Bool.and_eq_true, Option.isNone_iff_eq_none]
  rintro ⟨hofdm, hnone⟩
  exact h.elim (fun hchirp => Bool.false_ne_true (hchirp.symm.trans hofdm)) (· hnone)

/-! ### The last decision (R199) and the gain (R194) -/

theorem lastDecision_passes {id : CtxId} {level : FrameLevel} {r : Reception} {s : State} (hpresent : ctxPresent id s = true)
    (hst : (ctxOf id s).st = .committed) (hpath : pathReception (isBlvd id) s = some r)
    (hall : payloadBits (ctxOf id s) s ≤ (ctxOf id s).bits.length) :
    lastDecision id level s = checkDrains { freeCtx id s with
      rx.pipe := (freeCtx id s).rx.pipe ++ [pipeFrameOf id (ctxOf id s) r level s] } := by
  simp only [lastDecision, hpresent, hst, hpath, Nat.not_lt.mpr hall, ne_eq, not_true, decide_false, Bool.not_true, Bool.or_self,
    Bool.false_eq_true, if_false]

theorem gainChange_idle {up : Bool} {s : State} (h : s.rx.blvd = none ∨ s.rx.plan = none ∨ s.radio.mode ≠ .rx) : gainChange up s = s := by
  unfold gainChange
  obtain h | h | h := h
  · rw [h]
  · cases s.rx.blvd <;> rw [h]
  · cases s.rx.blvd <;> cases s.rx.plan <;> simp [h]

theorem gainChange_steps {up : Bool} {r : Reception} {pl : Plan} {s : State} (hblvd : s.rx.blvd = some r) (hplan : s.rx.plan = some pl)
    (hfree : pl.gainFixed = false) (hmode : s.radio.mode = .rx)
    (hidle : up = true → ∀ id ∈ allCtxs, (ctxOf id s).st ≠ .header ∧ (ctxOf id s).st ≠ .committed)
    {g : Nat} (hg : gainStep (s.radio.rfNow.extLna && s.radio.rfNow.lnaBypass) up s.rx.gain = g) (hstep : g ≠ s.rx.gain) {t : State}
    (ht : releaseWhere (fun _ x => x.busy && x.ofdm) .gain { s with rx.gain := g, radio.alleyGain := g } = t) :
    gainChange up s = checkDrains { t with
      rx.alleyCtx := loseSymbol t.elapsed.now (some s.elapsed.now) t.rx.alleyCtx
      rx.ctxs := t.rx.ctxs.map (loseSymbol t.elapsed.now (some s.elapsed.now)) } := by
  have hheld : (up && allCtxs.any fun id => decide ((ctxOf id s).st = .header) || decide ((ctxOf id s).st = .committed)) = false := by
    refine Bool.and_eq_false_imp.mpr fun hup => List.any_eq_false.mpr fun id hid => ?_
    obtain ⟨hheader, hcommitted⟩ := hidle hup id hid
    simp only [hheader, hcommitted, decide_false, Bool.or_self, Bool.false_eq_true, not_false_iff]
  have hgo : (pl.gainFixed || decide (s.radio.mode ≠ .rx) ||
      (up && allCtxs.any fun id => decide ((ctxOf id s).st = .header) || decide ((ctxOf id s).st = .committed)) || decide (g = s.rx.gain)) = false := by
    rw [hfree, hmode, hheld, decide_eq_false hstep]
    rfl
  unfold gainChange
  split
  case h_1 p q hr hp =>
    obtain rfl : q = pl := Option.some.inj (hp.symm.trans hplan)
    dsimp only
    rw [hg, if_neg (by rw [hgo]; exact Bool.false_ne_true), ht]
    rfl
  case h_2 hno => exact absurd hplan (hno r pl hblvd)

/-- Settles O49. -/
theorem receptionContextsAct : Obligations.ReceptionContextsAct := by
  refine ⟨fun d s h => ?quiet, fun d r s hpath hmode hclear hdrain halley hopen hchirp hk hmetric hst hnew => ?alley,
    fun d r pl fc mk a b c s hpath hmode hclear hdrain hblvd hopen hplan hentry hk hmask hthresh hnew hover => ?boulevard,
    fun d e s s1 t hd he hfirst hsecond => ?both, fun id o s hpresent hbusy => ⟨fun hofdm => ?ofdm, fun hchirp => ?chirp⟩,
    fun id first second s hpresent hst hnew => ⟨fun hsoon hmine => ?synced, fun hsoon hother => ?foreign, fun hlate => ?late⟩,
    fun id s hpresent hst => ⟨fun h => ?noMark, fun hnew hsoon => ?early, fun first second hsynced => ?mark⟩,
    fun id s hpresent hst hheard => ⟨fun hbad => ?badHeader, fun hok hofdm hmap => ?noMap, fun hok hmap => ?commits⟩,
    fun id level r s hpresent hst hpath hall => ?last, fun up s h => ?noGain, fun up r pl s hblvd hplan hfree hmode hidle => ?gain⟩
  case quiet => exact congrArg Host.Outcome.next (detectOne_idle h)
  case alley =>
    have hlistens : Listens d r s := ⟨hmode, hclear, hdrain, by rw [hpath]; exact halley, hopen⟩
    exact congrArg Host.Outcome.next ((detectOne_alley hlistens hpath).trans (detectAlley_seats hchirp hk hmetric hst hnew))
  case boulevard =>
    have hlistens : Listens d r s := ⟨hmode, hclear, hdrain, by rw [hpath]; exact hblvd, hopen⟩
    exact congrArg Host.Outcome.next ((detectOne_blvd hlistens hpath hplan).trans (detectBlvd_claims hentry hk hmask hthresh hnew hover))
  case both =>
    obtain rfl := Host.Outcome.next.inj hfirst
    obtain rfl := Host.Outcome.next.inj hsecond
    exact congrArg Host.Outcome.next (detection_rival hd he s)
  case ofdm => exact congrArg Host.Outcome.next (symbolDecision_ofdm hpresent hbusy hofdm)
  case chirp => exact congrArg Host.Outcome.next (symbolDecision_chirp hpresent hbusy hchirp)
  case synced => exact congrArg Host.Outcome.next ((syncDecision_within hpresent hst hnew hsoon).trans (if_pos hmine))
  case foreign =>
    refine congrArg Host.Outcome.next ((syncDecision_within hpresent hst hnew hsoon).trans (if_neg fun hmine => ?_))
    exact Bool.false_ne_true (hother.symm.trans hmine)
  case late => exact congrArg Host.Outcome.next (syncDecision_late hpresent hst hnew hlate)
  case noMark => exact congrArg Host.Outcome.next (noMark_releases hpresent hst h)
  case early => exact congrArg Host.Outcome.next (noMark_early hnew hsoon)
  case mark => exact congrArg Host.Outcome.next (timingMark_starts hpresent hst hsynced)
  case badHeader =>
    have hrefused : (!headerOk (ctxOf id s)) = true := by rw [Bool.not_eq_true']; exact hbad
    exact congrArg Host.Outcome.next ((headerDecision_heard hpresent hst hheard).trans (if_pos hrefused))
  case noMap =>
    have hgood : ¬(!headerOk (ctxOf id s)) = true := by rw [Bool.not_eq_true']; exact fun hbad => Bool.false_ne_true (hbad.symm.trans hok)
    have hmissing : mapMissing (ctxOf id s) s = true := by
      rw [mapMissing, hofdm, Bool.true_and]
      exact Option.isNone_iff_eq_none.mpr hmap
    exact congrArg Host.Outcome.next ((headerDecision_heard hpresent hst hheard).trans ((if_neg hgood).trans (if_pos hmissing)))
  case commits =>
    have hgood : ¬(!headerOk (ctxOf id s)) = true := by rw [Bool.not_eq_true']; exact fun hbad => Bool.false_ne_true (hbad.symm.trans hok)
    exact congrArg Host.Outcome.next ((headerDecision_heard hpresent hst hheard).trans ((if_neg hgood).trans (if_neg (mapMissing_false hmap))))
  case last => exact congrArg Host.Outcome.next (lastDecision_passes hpresent hst hpath hall)
  case noGain => exact congrArg Host.Outcome.next (gainChange_idle h)
  case gain =>
    intro g hstep s1
    exact congrArg Host.Outcome.next (gainChange_steps hblvd hplan hfree hmode hidle rfl hstep rfl)

end Sys2Proof.ReceptionLaws

/-! The decision pipeline and the instants of acks (O50). -/

namespace Sys2Proof.DecisionLaws
open Sys2Proof.Machine Sys2Proof.Statements

/-! ### The decision pipeline (R234, R236) -/

theorem decisionPipeline_empty {err : Bool} {s : State} (h : s.rx.pipe = []) : decisionPipeline err s = s := by
  simp only [decisionPipeline, h, nextPipe]

theorem decisionPipeline_takes {err : Bool} {f : PipeFrame} {s : State} (h : nextPipe s.rx.pipe = some f) :
    decisionPipeline err s = endSpeculation (decideFrame f err { s with rx.pipe := s.rx.pipe.erase f }) := by
  simp only [decisionPipeline, h]

theorem decideFrame_malformed {f : PipeFrame} {err : Bool} {s : State} (hcrc : f.crcOk = true) (hparse : parseMac f.psdu = none) :
    decideFrame f err s = bumpPipe .malformed s := by
  simp only [decideFrame, hcrc, hparse, Bool.not_true, Bool.false_eq_true, if_false]

theorem decideFrame_notForMe {f : PipeFrame} {m : MacFrame} {err : Bool} {s : State} (hcrc : f.crcOk = true) (hparse : parseMac f.psdu = some m)
    (hother : forMe m s = false) : decideFrame f err s = bumpPipe .notForMe s := by
  simp only [decideFrame, hcrc, hparse, hother, Bool.not_true, Bool.not_false, Bool.false_eq_true, if_false, if_true]

/-! ### The instants of acks (R105, R233, R438) -/

/-- The turnaround for an ack stands (R105). -/
def ackTurned (s : State) : Bool := s.radio.mode = .turnTx && s.radio.speculative && s.radio.settleFor.isNone

theorem ackTurned_of {s : State} (hmode : s.radio.mode = .turnTx) (hspec : s.radio.speculative = true) (hsettled : s.radio.settleFor = none) :
    ackTurned s = true := by
  simp only [ackTurned, hmode, hspec, hsettled, decide_true, Option.isNone_none, Bool.and_self]

theorem ackRow_none {s : State} (hnone : s.link.acks = []) (h : s.radio.mode ≠ .turnTx ∨ s.radio.speculative = false) : ackRow s = s := by
  have hready : ackTurned s = false := by
    obtain h | h := h <;> simp only [ackTurned, h, decide_false, Bool.false_and, Bool.and_false]
  simp only [ackTurned] at hready
  simp only [ackRow, hnone, firstAck, hready, Bool.false_eq_true, if_false]

/-- An ack that is not to be sent is only counted at its instant. -/
theorem ackRow_counted {a : AckDue} {s : State} (hfirst : firstAck s.link.acks = some a) :
    (a.verdict = .late → ackRow s = endSpeculation (bumpPipe .lateDecision { s with link.acks := s.link.acks.erase a })) ∧
    (a.verdict = .suppressed → ackRow s = endSpeculation (bumpPipe .ackSuppressed { s with link.acks := s.link.acks.erase a })) ∧
    (a.verdict = .collided → ackRow s = endSpeculation (bumpPipe .ackCollided { s with link.acks := s.link.acks.erase a })) := by
  refine ⟨fun hverdict => ?_, fun hverdict => ?_, fun hverdict => ?_⟩ <;> simp only [ackRow, hfirst, hverdict]

/-- Once the turnaround stands, an ack to be sent leaves, unless a brown-out warning holds a long one back (R438). -/
theorem ackRow_turned {a : AckDue} {b : Fin 16} {t n : Nat} {s : State} (hfirst : firstAck s.link.acks = some a) (hverdict : a.verdict = .send b t n)
    (hready : ackTurned s = true) :
    let s1 : State := { s with link.acks := s.link.acks.erase a }
    ackRow s = if (s.power.bodWarn && decide (2000 < t)) = true then endSpeculation (bumpPipe .ackSuppressed (refund b t n s1)) else sendAck a t s1 := by
  simp only [ackTurned] at hready
  simp only [ackRow, hfirst, hverdict, hready]
  cases s.power.bodWarn && decide (2000 < t) <;> rfl

/-- Settles O50. -/
theorem decisionsAndAcksAct : Obligations.DecisionsAndAcksAct := by
  refine ⟨fun err s hnone => ?empty, fun err f s hnext => ?takes, fun f s hcrc err hparse => ?malformed,
    fun f m s hcrc err hparse hother => ?notForMe, fun s hnone h => ?noAck, fun a s hfirst => ?acks⟩
  case empty => exact congrArg Host.Outcome.next (decisionPipeline_empty hnone)
  case takes => exact congrArg Host.Outcome.next (decisionPipeline_takes hnext)
  case malformed => exact decideFrame_malformed hcrc hparse
  case notForMe => exact decideFrame_notForMe hcrc hparse hother
  case noAck => exact congrArg Host.Outcome.next (ackRow_none hnone h)
  case acks =>
    intro s1
    obtain ⟨hlate, hsuppressed, hcollided⟩ := ackRow_counted hfirst
    refine ⟨fun hverdict => ?late, fun hverdict => ?suppressed, fun hverdict => ?collided,
      fun b t n hverdict hmode hspec hsettled hmay => ?sent, fun b t n hverdict hmode hspec hsettled hwarn hlong => ?refunded⟩
    case late => exact congrArg Host.Outcome.next (hlate hverdict)
    case suppressed => exact congrArg Host.Outcome.next (hsuppressed hverdict)
    case collided => exact congrArg Host.Outcome.next (hcollided hverdict)
    case sent =>
      refine congrArg Host.Outcome.next ((ackRow_turned hfirst hverdict (ackTurned_of hmode hspec hsettled)).trans (if_neg ?_))
      rw [Bool.and_eq_true, decide_eq_true_eq]
      rintro ⟨hwarn, hlong⟩
      exact hmay.elim (fun hoff => Bool.false_ne_true (hoff.symm.trans hwarn)) (Nat.not_le.mpr hlong)
    case refunded =>
      refine congrArg Host.Outcome.next ((ackRow_turned hfirst hverdict (ackTurned_of hmode hspec hsettled)).trans (if_pos ?_))
      rw [hwarn, decide_eq_true hlong, Bool.and_self]

end Sys2Proof.DecisionLaws

/-! What the transmitter's instants do, and how attempts end (O52). -/

namespace Sys2Proof.TransmissionLaws
open Sys2Proof.Machine Sys2Proof.Statements

/-! ### The choice (R300, R301) -/

theorem txChoice_busy {s : State} (hbusy : transmitterFree s = false) : txChoice s = s := by
  simp only [txChoice, hbusy, Bool.not_false, if_true]

/-- With the transmitter free every head is judged, and the one that R301 prefers is prepared. -/
theorem txChoice_judged {s t : State} {cs : List Candidate} (hfree : transmitterFree s = true) (hjudged : judgeAll s = (t, cs)) :
    (bestOf cs = none → txChoice s = t) ∧ ∀ c, bestOf cs = some c → txChoice s = prepare c t := by
  constructor
  · intro hbest
    simp only [txChoice, hfree, hjudged, hbest, Bool.not_true, Bool.false_eq_true, if_false]
  · intro c hbest
    simp only [txChoice, hfree, hjudged, hbest, Bool.not_true, Bool.false_eq_true, if_false]

/-! ### The attempt (R101, R254, R293, R438) -/

/-- The frame that is prepared. -/
def preparedFrame (s : State) : Option TxFrame := s.link.frames.find? fun f => f.stage = .prepared

/-- The instant at which a frame's attempt starts: not before its ramp can end. -/
def rampStart (f : TxFrame) (s : State) : Nat := max f.startAt.toNat (s.time.nt.toNat + usUp s.radio.shape.rampUs.toNat)

/-- A frame's airtime in this attempt. -/
def attemptAirtime (f : TxFrame) (s : State) : Nat := airtimeOf s f.prof f.mapBits f.psdu.length

/-- A frame put on the air in sub-band b. -/
def onAir (f : TxFrame) (b : Fin 16) (s : State) (g : TxFrame) : TxFrame :=
  { g with
    stage := .onAir, startAt := BitVec.ofNat 64 (rampStart f s), endAt := BitVec.ofNat 64 (rampStart f s + usUp (attemptAirtime f s))
    charged := some (b, attemptAirtime f s, s.traffic.bucketNo), powerUsed := (powerFor f.power (some b) s).2
    paSetting := (powerFor f.power (some b) s).1 }

theorem txAttempt_idle {s : State} (h : s.radio.mode ≠ .turnTx ∨ s.radio.settleFor ≠ none ∨ ∀ f ∈ s.link.frames, f.stage ≠ .prepared) :
    txAttempt s = s := by
  unfold txAttempt
  obtain h | h | h := h
  · exact if_pos (by rw [decide_eq_true h, Bool.true_or])
  · exact if_pos (by rw [Option.isSome_iff_ne_none.mpr h, Bool.or_true])
  · have hnone : (s.link.frames.find? fun f => decide (f.stage = .prepared)) = none :=
      List.find?_eq_none.mpr fun f hf hstage => h f hf (of_decide_eq_true hstage)
    simp only [hnone, ite_self]

/-- A frame whose ramp may start, in sub-band b. -/
structure Ramps (f : TxFrame) (b : Fin 16) (s : State) : Prop where
  mode : s.radio.mode = .turnTx
  settled : s.radio.settleFor = none
  frame : preparedFrame s = some f
  band : (s.radio.region.bind fun r => admitBand r f.prof) = some b

/-- The budget does not allow an attempt, or a brown-out warning holds it back (R293, R438). -/
def held (f : TxFrame) (b : Fin 16) (s : State) : Bool :=
  !budgetFits b (attemptAirtime f s) false s || (s.power.bodWarn && decide (2000 < attemptAirtime f s))

/-- A beacon that cannot keep its planned instant (R254). -/
def beaconLate (f : TxFrame) (s : State) : Bool := f.kind = .beacon && decide (f.startAt.toNat < rampStart f s)

theorem txAttempt_ramps {f : TxFrame} {b : Fin 16} {s : State} (h : Ramps f b s) :
    txAttempt s =
      if held f b s then startReturn (sendBack f.fid s)
      else if beaconLate f s then startReturn (endFrame f.fid .late s)
      else proposalSent f (markSlotSent f.fid (charge b (attemptAirtime f s)
        { updateFrame f.fid (onAir f b s) s with radio.mode := .tx, radio.air := frameSymbols f s, radio.airRate := airRateOf f.prof s })) := by
  have hframe := h.frame
  simp only [preparedFrame] at hframe
  have hgo : (decide (s.radio.mode ≠ .turnTx) || s.radio.settleFor.isSome) = false := by
    rw [h.mode, h.settled]
    rfl
  unfold txAttempt
  rw [if_neg (by rw [hgo]; exact Bool.false_ne_true), hframe]
  dsimp only
  rw [h.band]
  rfl

theorem held_false {f : TxFrame} {b : Fin 16} {s : State} (hfits : budgetFits b (attemptAirtime f s) false s = true)
    (hpower : s.power.bodWarn = false ∨ attemptAirtime f s ≤ 2000) : held f b s = false := by
  rw [held, hfits]
  obtain h | h := hpower
  · rw [h]
    rfl
  · rw [decide_eq_false (Nat.not_lt.mpr h), Bool.and_false]
    rfl

theorem held_true {f : TxFrame} {b : Fin 16} {s : State}
    (h : budgetFits b (attemptAirtime f s) false s = false ∨ s.power.bodWarn = true ∧ 2000 < attemptAirtime f s) : held f b s = true := by
  rw [held]
  obtain h | ⟨hwarn, hlong⟩ := h
  · rw [h]
    rfl
  · rw [hwarn, decide_eq_true hlong, Bool.and_self, Bool.or_true]

theorem beaconLate_false {f : TxFrame} {s : State} (h : f.kind ≠ .beacon ∨ rampStart f s = f.startAt.toNat) : beaconLate f s = false := by
  rw [beaconLate]
  obtain h | h := h
  · rw [decide_eq_false h, Bool.false_and]
  · rw [h, decide_eq_false (lt_irrefl _), Bool.and_false]

theorem sendBack_of {f : TxFrame} {s : State} (hframe : frameById f.fid s = some f) :
    sendBack f.fid s = if f.flushing = true then endFrame f.fid .flushed s else returnFrame f.fid s := by
  simp only [sendBack, hframe]

/-! ### The end of a transmission (R106, R109, R241) -/

/-- The frame that is on the air. -/
def airFrame (s : State) : Option TxFrame := s.link.frames.find? fun f => f.stage = .onAir

theorem txEnd_idle {s : State} (h : s.radio.mode ≠ .tx) : txEnd s = s := if_pos h

theorem txEnd_frame {f : TxFrame} {s : State} (hmode : s.radio.mode = .tx) (hack : s.link.ackOnAir = none) (hframe : airFrame s = some f) :
    let sent (g : TxFrame) : TxFrame := { g with
      attempts := g.attempts + 1, airtime := g.airtime + airtimeOf s f.prof f.mapBits f.psdu.length
      stage := if g.ackReq then .awaitAck else .onAir, stamp := g.startAt + BitVec.ofNat 64 (usU (stampOffset g.prof)) }
    let s1 := startReturn (updateFrame f.fid sent s)
    txEnd s = if f.ackReq = true then s1 else endFrame f.fid (if f.flushing then .flushed else .sent) s1 := by
  simp only [airFrame] at hframe
  unfold txEnd
  rw [if_neg (not_not.mpr hmode), hack]
  dsimp only
  rw [hframe]

theorem txEnd_ack {a : AckDue} {s : State} (hmode : s.radio.mode = .tx) (hack : s.link.ackOnAir = some a) (hchild : a.child = none) :
    txEnd s = startReturn { s with link.ackOnAir := none } := by
  unfold txEnd
  rw [if_neg (not_not.mpr hmode), hack]
  dsimp only
  rw [hchild]

theorem transmissions_act : transmissionsAct := by
  refine ⟨fun s hbusy => ?busy, fun s t cs hfree hjudged => ?choice, fun s h => ?noAttempt, fun f b s hmode hsettled hframe hband => ?attempt,
    fun s h => ?noEnd, fun f s hmode hack hframe => ?ends, fun a s hmode hack hchild => ?ackEnds⟩
  case busy => exact congrArg Host.Outcome.next (txChoice_busy hbusy)
  case choice =>
    obtain ⟨hnone, hsome⟩ := txChoice_judged hfree hjudged
    exact ⟨fun hbest => congrArg Host.Outcome.next (hnone hbest), fun c hbest => congrArg Host.Outcome.next (hsome c hbest)⟩
  case noAttempt => exact congrArg Host.Outcome.next (txAttempt_idle h)
  case attempt =>
    intro t start s1
    have hramps := txAttempt_ramps (f := f) (b := b) ⟨hmode, hsettled, hframe, hband⟩
    refine ⟨fun hfits hpower hbeacon => ?sent, fun hfits hpower hkind hlate => ?late, fun hid hheld => ?back⟩
    case sent =>
      have hgo : ¬held f b s = true := by rw [held_false hfits hpower]; exact Bool.false_ne_true
      have hnow : ¬beaconLate f s = true := by rw [beaconLate_false hbeacon]; exact Bool.false_ne_true
      exact congrArg Host.Outcome.next (hramps.trans ((if_neg hgo).trans (if_neg hnow)))
    case late =>
      have hgo : ¬held f b s = true := by rw [held_false hfits hpower]; exact Bool.false_ne_true
      have hmissed : beaconLate f s = true := by
        rw [beaconLate, hkind, decide_eq_true rfl, Bool.true_and]
        exact decide_eq_true hlate
      exact congrArg Host.Outcome.next (hramps.trans ((if_neg hgo).trans (if_pos hmissed)))
    case back =>
      exact congrArg Host.Outcome.next (hramps.trans ((if_pos (held_true hheld)).trans (congrArg startReturn (sendBack_of hid))))
  case noEnd => exact congrArg Host.Outcome.next (txEnd_idle h)
  case ends =>
    intro sent s1
    have hend := txEnd_frame hmode hack hframe
    refine ⟨fun hreq => ?awaits, fun hno hkeeps => ?sentEnds, fun hno hflush => ?flushes⟩
    case awaits => exact congrArg Host.Outcome.next (hend.trans (if_pos hreq))
    case sentEnds =>
      refine congrArg Host.Outcome.next (hend.trans ((if_neg (by rw [hno]; exact Bool.false_ne_true)).trans ?_))
      rw [hkeeps]
      rfl
    case flushes =>
      refine congrArg Host.Outcome.next (hend.trans ((if_neg (by rw [hno]; exact Bool.false_ne_true)).trans ?_))
      rw [hflush]
      rfl
  case ackEnds => exact congrArg Host.Outcome.next (txEnd_ack hmode hack hchild)

/-! ### Acks of own frames (R229, R231, R232) -/

theorem ackReception_none {psdu : List Byte} {crc : Word} {w : DWord} {r : Int} {y : Bool} {s : State}
    (h : awaiting s = none ∨ s.isUsable dALLEY = false) : ackReception psdu crc w r y s = s := by
  have hnone : ((awaiting s).filter fun _ => s.isUsable dALLEY) = none := by
    obtain h | h := h
    · rw [h]
      rfl
    · rw [h]
      cases awaiting s <;> rfl
  simp only [ackReception, hnone]

/-- An ack that comes outside its window, damaged or not the frame's fails the attempt (R231). -/
theorem ackReception_bad {psdu : List Byte} {crc : Word} {w : DWord} {r : Int} {y : Bool} {f : TxFrame} {s : State} (hawait : awaiting s = some f)
    (hon : s.isUsable dALLEY = true) (hbad : inAckWindow f w = false ∨ crc ≠ crc32 psdu ∨ ackMatches f psdu s = false) :
    ackReception psdu crc w r y s = leaveWindow f.prof.carrier (attemptFailed f (bumpPipe .ackRxBad s)) := by
  have hok : (inAckWindow f w && decide (crc = crc32 psdu) && ackMatches f psdu s) = false := by
    obtain h | h | h := hbad
    · rw [h, Bool.false_and, Bool.false_and]
    · rw [decide_eq_false h, Bool.and_false, Bool.false_and]
    · rw [h, Bool.and_false]
  simp only [ackReception, hawait, hon, hok, Option.filter_some, if_true, Bool.not_false]

theorem ackReception_good {psdu : List Byte} {w : DWord} {r : Int} {y : Bool} {f : TxFrame} {i : BitVec 24 × DWord} {s : State}
    (hawait : awaiting s = some f) (hon : s.isUsable dALLEY = true) (hwindow : inAckWindow f w = true) (hmatch : ackMatches f psdu s = true)
    (hlink : f.link = some i) (hrdv : frameRdv f s = none) :
    ackReception psdu (crc32 psdu) w r y s = leaveWindow f.prof.carrier (endFrame f.fid .acked
      (updateLink i (fun e => { e with lastMargin := psdu.getD 4 0#8 }) (updateFrame f.fid (fun g => { g with
        ackPending := bitAt ((psdu.getD 5 0#8).setWidth 32) 0, ackMargin := psdu.getD 4 0#8, ackRssi :=
          aerialRssi r (y && s.radio.rfNow.extLna && s.radio.rfNow.lnaBypass) s }) s))) := by
  simp only [ackReception, hawait, hon, hwindow, hmatch, hlink, hrdv, Option.filter_some, decide_true, Bool.and_self, Bool.not_true,
    Bool.false_eq_true, if_false, if_true]

theorem ackWindowClose_none {s : State} (h : awaiting s = none) : ackWindowClose s = s := by
  simp only [ackWindowClose, h]

theorem ackWindowClose_fails {f : TxFrame} {s : State} (h : awaiting s = some f) :
    ackWindowClose s = leaveWindow f.prof.carrier (attemptFailed f s) := by
  simp only [ackWindowClose, h]

/-! ### Waiting frames (R231, R302, R303) -/

theorem attemptFailed_flushing {f : TxFrame} {s : State} (h : f.flushing = true) : attemptFailed f s = endFrame f.fid .flushed s := if_pos h

theorem attemptFailed_last {f : TxFrame} {s : State} (hkeeps : f.flushing = false) (hlast : 1 + f.retries ≤ f.attempts) :
    attemptFailed f s = endFrame f.fid .noAck s := by
  simp only [attemptFailed, hkeeps, hlast, Bool.false_eq_true, if_false, if_true]

theorem attemptFailed_expired {f : TxFrame} {t : DWord} {s : State} (hkeeps : f.flushing = false) (hmore : f.attempts < 1 + f.retries)
    (httl : f.ttlEnd = some t) (hpast : t.toNat ≤ s.elapsed.now.toNat) : attemptFailed f s = endFrame f.fid .expired s := by
  simp only [attemptFailed, hkeeps, Nat.not_le.mpr hmore, httl, hpast, decide_true, Bool.false_eq_true, if_false, if_true]

/-- A frame number that names no frame: its instants do nothing. -/
theorem waits_none {n : Nat} {s : State} (h : frameById n s = none) : retryDelayExpiry n s = s ∧ expired n s = s ∧ lateFrame n s = s := by
  simp only [retryDelayExpiry, expired, lateFrame, h, and_self]

theorem retryDelayExpiry_over {n : Nat} {f : TxFrame} {s : State} (hframe : frameById n s = some f) (hstage : f.stage = .backOff)
    (hover : f.eligibleAt.toNat ≤ s.elapsed.now.toNat) :
    retryDelayExpiry n s = updateFrame n (fun g => { g with stage := .queued }) s := by
  simp only [retryDelayExpiry, hframe, hstage, hover, decide_true, Bool.and_self, if_true]

theorem expired_ends {n : Nat} {f : TxFrame} {t : DWord} {s : State} (hframe : frameById n s = some f) (httl : f.ttlEnd = some t)
    (hpast : t.toNat ≤ s.elapsed.now.toNat) (hstage : f.stage = .queued ∨ f.stage = .backOff) : expired n s = endFrame n .expired s := by
  have hwaits : (decide (f.stage = .queued) || decide (f.stage = .backOff)) = true := by
    simpa only [Bool.or_eq_true, decide_eq_true_eq] using hstage
  simp only [expired, hframe, httl, hpast, hwaits, decide_true, Bool.and_self, if_true]

theorem lateFrame_ends {n : Nat} {f : TxFrame} {t : DWord} {s : State} (hframe : frameById n s = some f) (hstart : f.start = some t)
    (hpast : t.toNat + usU f.lateTol < s.time.nt.toNat) (hfirst : f.attempts = 0) (hstage : f.stage = .queued) :
    lateFrame n s = endFrame n .late s := by
  simp only [lateFrame, hframe, hstart, hpast, hfirst, hstage, decide_true, Bool.and_self, if_true]

/-! ### Speculative turnarounds (R105, R108) -/

theorem speculativeTurnaround_none {s : State} (hpipe : s.rx.pipe = []) (hacks : s.link.acks = []) : speculativeTurnaround s = s := by
  simp only [speculativeTurnaround, hpipe, hacks, List.filter_nil, List.map_nil, List.append_nil, List.foldl_nil]

/-- The one ack that is due turns a receiving or idle radio toward it (R105). -/
theorem speculativeTurnaround_one {a : AckDue} {b : Fin 16} {t n : Nat} {s : State} (hpipe : s.rx.pipe = []) (hacks : s.link.acks = [a])
    (hverdict : a.verdict = .send b t n) (hon : s.isUsable dRFFE = true) (hlife : s.lifecycle ≠ .retired)
    (hdue : a.at_.toNat ≤ s.time.nt.toNat + unitsU (prepUnits a.prof.carrier s)) (hmode : s.radio.mode = .rx ∨ s.radio.mode = .idle) :
    speculativeTurnaround s =
      let s1 := if s.radio.mode = .rx then turnToTx a.prof.carrier .ack s else idleToTx a.prof.carrier .ack s
      { s1 with radio.speculative := true, radio.backToRx := receptionInForce s } := by
  have hsends : a.sends = true := by rw [AckDue.sends, hverdict]
  have hfree : (decide (s.radio.mode = .rx) || decide (s.radio.mode = .idle) ||
      decide (s.radio.mode = .settle) && decide (s.radio.settleFor = some .rx)) = true := by
    obtain h | h := hmode <;> rw [h] <;> rfl
  have hacked : List.filter AckDue.sends [a] = [a] := by rw [List.filter_cons_of_pos hsends, List.filter_nil]
  simp only [speculativeTurnaround, hpipe, hacks, hacked, hon, hlife, Nat.not_lt.mpr hdue, hfree, List.filter_nil, List.map_nil, List.map_cons,
    List.nil_append, List.foldl_cons, List.foldl_nil, decide_false, Bool.not_true, Bool.or_self, Bool.false_eq_true, if_false]

theorem attempts_end : attemptsEnd := by
  refine ⟨fun psdu crc w r y s h => ?noAck, fun s h => ?noWindow, fun f s hawait => ⟨?closes, fun psdu crc w r y hon hbad => ?bad,
    fun psdu w r y i hon hwindow hmatch hlink hrdv => ?acked⟩, fun f s => ⟨attemptFailed_flushing, attemptFailed_last, fun hkeeps hmore t httl hpast =>
    attemptFailed_expired hkeeps hmore httl hpast⟩, fun n s h => ?absent, fun n f s hframe => ⟨fun hstage hover => ?retry,
    fun t httl hpast hstage => ?expires, fun t hstart hpast hfirst hstage => ?late⟩, fun s hpipe hacks => ?noneDue,
    fun a b t n s hpipe hacks hverdict hon hlife hdue => ⟨fun hrx => ?fromRx, fun hidle => ?fromIdle⟩⟩
  case noAck => exact congrArg Host.Outcome.next (ackReception_none h)
  case noWindow => exact congrArg Host.Outcome.next (ackWindowClose_none h)
  case closes => exact congrArg Host.Outcome.next (ackWindowClose_fails hawait)
  case bad => exact congrArg Host.Outcome.next (ackReception_bad hawait hon hbad)
  case acked => exact congrArg Host.Outcome.next (ackReception_good hawait hon hwindow hmatch hlink hrdv)
  case absent =>
    obtain ⟨hretry, hexpired, hlate⟩ := waits_none h
    exact ⟨congrArg Host.Outcome.next hretry, congrArg Host.Outcome.next hexpired, congrArg Host.Outcome.next hlate⟩
  case retry => exact congrArg Host.Outcome.next (retryDelayExpiry_over hframe hstage hover)
  case expires => exact congrArg Host.Outcome.next (expired_ends hframe httl hpast hstage)
  case late => exact congrArg Host.Outcome.next (lateFrame_ends hframe hstart hpast hfirst hstage)
  case noneDue => exact congrArg Host.Outcome.next (speculativeTurnaround_none hpipe hacks)
  case fromRx =>
    refine congrArg Host.Outcome.next ((speculativeTurnaround_one hpipe hacks hverdict hon hlife hdue (.inl hrx)).trans ?_)
    rw [if_pos hrx]
  case fromIdle =>
    refine congrArg Host.Outcome.next ((speculativeTurnaround_one hpipe hacks hverdict hon hlife hdue (.inr hidle)).trans ?_)
    rw [if_neg (by rw [hidle]; decide)]

/-- Settles O52. -/
theorem transmissionsActAndEnd : Obligations.TransmissionsActAndEnd := ⟨transmissions_act, attempts_end⟩

end Sys2Proof.TransmissionLaws

/-! The synthesiser, the turnarounds and calibration (O54). -/

namespace Sys2Proof.TurnaroundLaws
open Sys2Proof.Machine Sys2Proof.Statements

/-! ### Settling (R104, R109, R113) -/

/-- The synthesiser stands at the frequency that was asked for. -/
def settled (s : State) : State :=
  { s with radio.lo := s.radio.loAsked, radio.loNominal := s.radio.askedHz, radio.settleFor := none, radio.lockFailed := false }

/-- A settled radio that leaves SETTLE for a transmission blanks its receptions. -/
def turned (s : State) : State := if s.radio.mode = .settle then startBlank { settled s with radio.mode := .turnTx } else settled s

theorem settleDone_none {s : State} (h : s.radio.settleFor = none) : settleDone s = s := by
  simp only [settleDone, h]

theorem lockTimeout_none {w : Word} {s : State} (h : s.radio.settleFor = none) : lockTimeout w s = s := by
  simp only [lockTimeout, h]

/-- Outside SETTLE and the turns no settling is under way. -/
theorem settleDone_elsewhere {s : State} (h1 : s.radio.mode ≠ .settle) (h2 : s.radio.mode ≠ .turnTx) (h3 : s.radio.mode ≠ .turnRx) :
    settleDone s = s := by
  unfold settleDone
  cases s.radio.settleFor with
  | none => rfl
  | some f =>
    dsimp only
    split
    case h_1 h => exact absurd h h1
    case h_2 h => exact absurd h h2
    case h_3 h => exact absurd h h3
    case h_4 => rfl

theorem lockTimeout_elsewhere {w : Word} {s : State} (h1 : s.radio.mode ≠ .settle) (h2 : s.radio.mode ≠ .turnTx) (h3 : s.radio.mode ≠ .turnRx) :
    lockTimeout w s = s := by
  unfold lockTimeout
  cases s.radio.settleFor with
  | none => rfl
  | some f => exact if_pos (by rw [decide_eq_true h1, decide_eq_true h2, decide_eq_true h3]; rfl)

theorem settleDone_rx {s : State} (hfor : s.radio.settleFor = some .rx) (hmode : s.radio.mode = .settle) :
    settleDone s = runSeq s.radio.fem.rxOn (endBlank { settled s with radio.mode := .rx }) := by
  unfold settleDone
  rw [hfor]
  dsimp only
  split
  case h_1 => rfl
  case h_2 h => exact absurd (hmode.symm.trans h) (by decide)
  case h_3 h => exact absurd (hmode.symm.trans h) (by decide)
  case h_4 h _ _ => exact absurd hmode h

/-- A settle for anything but a reception ends in the TX_ON steps. -/
theorem settleDone_tx {f : SettleFor} {s : State} (hfor : s.radio.settleFor = some f) (hf : f ≠ .rx)
    (hmode : s.radio.mode = .settle ∨ s.radio.mode = .turnTx) : settleDone s = readyTx f (onUnits s) (turned s) := by
  unfold settleDone
  rw [hfor]
  dsimp only
  split
  case h_1 h =>
    have ht : turned s = startBlank { settled s with radio.mode := .turnTx } := if_pos h
    rw [if_neg hf, ht]
    rfl
  case h_2 h =>
    have ht : turned s = settled s := if_neg (by rw [h]; decide)
    rw [ht]
    rfl
  case h_3 h =>
    rw [h] at hmode
    exact absurd hmode (by decide)
  case h_4 h1 h2 _ => exact absurd hmode (not_or.mpr ⟨h1, h2⟩)

theorem settleDone_back {f : SettleFor} {s : State} (hfor : s.radio.settleFor = some f) (hmode : s.radio.mode = .turnRx) :
    settleDone s = settled s := by
  unfold settleDone
  rw [hfor]
  dsimp only
  split
  case h_1 h => exact absurd (hmode.symm.trans h) (by decide)
  case h_2 h => exact absurd (hmode.symm.trans h) (by decide)
  case h_3 => rfl
  case h_4 _ _ h => exact absurd hmode h

/-! ### A lock that is missed (R114) -/

theorem turning_of {s : State} (h : s.radio.mode = .settle ∨ s.radio.mode = .turnTx ∨ s.radio.mode = .turnRx) :
    ¬(decide (s.radio.mode ≠ .settle) && decide (s.radio.mode ≠ .turnTx) && decide (s.radio.mode ≠ .turnRx)) = true := by
  obtain h | h | h := h <;> rw [h] <;> decide

/-- The unlock is counted. -/
def unlocked (s : State) : State :=
  { s with rx.radioCnt := s.rx.radioCnt.set 0 (satInc s.rx.radioCnt[0]), radio.lockFailed := false }

/-- What a second missed lock does: a reception tries again, an ack or a frame is given up. -/
def secondMiss (f : SettleFor) (s : State) : State :=
  match f with
  | .rx => startSettle (rxFrequency s) .rx s
  | .back => startSettle (rxFrequency s) .back s
  | .ack =>
    giveUpTx (match s.link.acks with
      | a :: rest => (match a.verdict with
        | .send b t n => bumpPipe .ackSuppressed (refund b t n { s with link.acks := rest })
        | _ => s)
      | [] => s)
  | .tx fid => giveUpTx (sendBack fid s)

/-- A missed lock is followed by an OSC step and a second try, or is the second. -/
theorem lockTimeout_missed {f : SettleFor} {w : Word} {s : State} (hfor : s.radio.settleFor = some f)
    (hmode : s.radio.mode = .settle ∨ s.radio.mode = .turnTx ∨ s.radio.mode = .turnRx) :
    lockTimeout w s = if !s.radio.lockFailed then { startSettle s.radio.askedHz f (oscStep w s) with radio.lockFailed := true }
      else secondMiss f (unlocked s) := by
  unfold lockTimeout
  split
  case h_1 h => exact absurd (hfor.symm.trans h) (Option.some_ne_none f)
  case h_2 g h =>
    obtain rfl : f = g := Option.some.inj (hfor.symm.trans h)
    rw [if_neg (turning_of hmode)]
    cases f <;> rfl

theorem secondMiss_ack {a : AckDue} {rest : List AckDue} {b : Fin 16} {t n : Nat} {s : State} (hacks : s.link.acks = a :: rest)
    (hverdict : a.verdict = .send b t n) : secondMiss .ack s = giveUpTx (bumpPipe .ackSuppressed (refund b t n { s with link.acks := rest })) := by
  unfold secondMiss
  dsimp only
  split
  case h_1 c cs h =>
    obtain ⟨rfl, rfl⟩ := List.cons.inj (hacks.symm.trans h)
    rw [hverdict]
  case h_2 h => exact absurd (hacks.symm.trans h) (List.cons_ne_nil a rest)

/-! ### The end of TURN_RX (R106, R108, R109, R232) -/

/-- RX_ON runs on a radio that receives. -/
def heard (s : State) : State := runSeq s.radio.fem.rxOn { s with radio.mode := .rx }

/-- A turnaround that was speculative is one no longer. -/
def returned (s : State) : State := { s with radio.speculative := false }

theorem turnRxDone_idle {s : State} (h : s.radio.mode ≠ .turnRx ∨ s.radio.settleFor ≠ none) : turnRxDone s = s := by
  refine if_pos ?_
  obtain h | h := h
  · rw [decide_eq_true h, Bool.true_or]
  · rw [Option.isSome_iff_ne_none.mpr h, Bool.or_true]

theorem turnRxDone_going {s : State} (hmode : s.radio.mode = .turnRx) (hsettled : s.radio.settleFor = none) :
    ¬(decide (s.radio.mode ≠ .turnRx) || s.radio.settleFor.isSome) = true := by
  rw [hmode, hsettled]
  decide

theorem turnRxDone_awaits {f : TxFrame} {s : State} (hmode : s.radio.mode = .turnRx) (hsettled : s.radio.settleFor = none)
    (hawait : awaiting (returned s) = some f) :
    turnRxDone s = if receptionInForce (heard (returned s)) = true ∧ needsRetune f.prof.carrier (heard (returned s)) = true
      then heard (returned s) else endBlank (heard (returned s)) := by
  unfold turnRxDone
  rw [if_neg (turnRxDone_going hmode hsettled)]
  simp only [returned] at hawait
  dsimp only
  rw [hawait]
  exact if_congr (Bool.and_eq_true _ _).to_iff rfl rfl

theorem turnRxDone_leaves {s : State} (hmode : s.radio.mode = .turnRx) (hsettled : s.radio.settleFor = none)
    (hawait : awaiting (returned s) = none) :
    turnRxDone s = if receptionInForce (endBlank (returned s)) = false then toIdle (endBlank (returned s))
      else if s.radio.moved = true ∨ s.radio.loNominal ≠ rxFrequency (endBlank (returned s)) then settleRx (endBlank (returned s))
      else heard (endBlank (returned s)) := by
  unfold turnRxDone
  rw [if_neg (turnRxDone_going hmode hsettled)]
  simp only [returned] at hawait
  dsimp only
  rw [hawait]
  refine if_congr (Bool.not_eq_true' _).to_iff rfl (if_congr ?_ rfl rfl)
  rw [Bool.or_eq_true, decide_eq_true_eq]
  rfl

theorem radio_turns_act : radioTurnsAct := by
  refine ⟨fun s hnone => ⟨?noSettle, fun w => ?noLock⟩, fun s h1 h2 h3 => ⟨?elsewhere, fun w => ?lockElsewhere⟩, fun f s hfor => ?settles,
    fun f w s hfor hmode => ?locks, fun s h => ?noTurn, fun s hmode hsettled => ⟨fun f hawait => ?awaits, fun hawait => ?leaves⟩⟩
  case noSettle => exact congrArg Host.Outcome.next (settleDone_none hnone)
  case noLock => exact congrArg Host.Outcome.next (lockTimeout_none hnone)
  case elsewhere => exact congrArg Host.Outcome.next (settleDone_elsewhere h1 h2 h3)
  case lockElsewhere => exact congrArg Host.Outcome.next (lockTimeout_elsewhere h1 h2 h3)
  case settles =>
    change let s1 := settled s; let s2 := turned s; _
    intro s1 s2
    refine ⟨fun hf hmode => ?rx, fun hf hmode => ?ack, fun n fr hf hmode hframe hstage => ?tx, fun hmode => ?back⟩
    case rx => exact congrArg Host.Outcome.next (settleDone_rx (hf ▸ hfor) hmode)
    case ack => exact congrArg Host.Outcome.next ((settleDone_tx hfor (by rw [hf]; decide) hmode).trans (by rw [hf]; rfl))
    case tx =>
      subst hf
      have hready := (settleDone_tx hfor (fun h => nomatch h) hmode).trans (readyFrame_prepared (onUnits s) hframe hstage)
      refine ⟨fun htimely => ?timely, fun hlate => ?late⟩
      case timely => exact congrArg Host.Outcome.next (hready.trans (if_neg (Bool.eq_false_iff.mp htimely)))
      case late => exact congrArg Host.Outcome.next (hready.trans (if_pos hlate))
    case back => exact congrArg Host.Outcome.next (settleDone_back hfor hmode)
  case locks =>
    intro s1 block
    have hmissed := lockTimeout_missed (w := w) hfor hmode
    have hretry : s.radio.lockFailed = true → lockTimeout w s = secondMiss f (unlocked s) :=
      fun hsecond => hmissed.trans (if_neg (by rw [hsecond]; decide))
    refine ⟨fun hfirst => ?first, fun hsecond hf => ?rx, fun hsecond hf => ?back, fun n hsecond hf => ?tx, fun a rest b t n hsecond hf hacks hverdict => ?ack⟩
    case first => exact congrArg Host.Outcome.next (hmissed.trans (if_pos (by rw [hfirst]; rfl)))
    case rx => exact congrArg Host.Outcome.next ((hretry hsecond).trans (by rw [hf]; rfl))
    case back => exact congrArg Host.Outcome.next ((hretry hsecond).trans (by rw [hf]; rfl))
    case tx => exact congrArg Host.Outcome.next ((hretry hsecond).trans (by rw [hf]; rfl))
    case ack => exact congrArg Host.Outcome.next ((hretry hsecond).trans (by rw [hf]; exact secondMiss_ack hacks hverdict))
  case noTurn => exact congrArg Host.Outcome.next (turnRxDone_idle h)
  case awaits => exact congrArg Host.Outcome.next (turnRxDone_awaits hmode hsettled hawait)
  case leaves => exact congrArg Host.Outcome.next (turnRxDone_leaves hmode hsettled hawait)

/-! ### Calibration (R103, R109 to R112, R116) -/

theorem calStep_none {s : State} (h : nextCal s = none ∨ calAdmitted s = false) : calStep s = s := by
  unfold calStep
  cases hnext : nextCal s with
  | none => rfl
  | some k =>
    obtain h | h := h
    · rw [hnext] at h
      exact absurd h (Option.some_ne_none k)
    · exact if_pos (by rw [h]; rfl)

theorem calStep_enters {k : CalKind} {s t : State} (hnext : nextCal s = some k) (hadmitted : calAdmitted s = true)
    (ht : releaseWhere (fun _ x => x.provisional) .calibration s = t) :
    calStep s = femPins t.radio.fem.idleLevel { t with
      radio.mode := .cal, radio.cal.running := some (k, s.radio.cal.progress[k.idx])
      radio.cal.enteredFrom := if s.radio.mode = .cal then s.radio.cal.enteredFrom else s.radio.mode } := by
  subst ht
  unfold calStep
  rw [hnext]
  exact if_neg (by rw [hadmitted]; decide)

theorem calStepEnd_none {r : List Word} {s : State} (h : s.radio.cal.running = none) : calStepEnd r s = s := by
  simp only [calStepEnd, h]

/-- A step's end keeps its word, and completes the block with the last one. -/
theorem calStepEnd_step {k : CalKind} {i : Nat} {r : List Word} {s : State} (h : s.radio.cal.running = some (k, i)) :
    let words := s.radio.cal.partials[k.idx] ++ [stepWord k (r.headD 0#32)]
    let s1 := endDrain { s with radio.cal.running := none }
    calStepEnd r s = afterStep (if i + 1 < calSteps k then
        { s1 with radio.cal.progress := s1.radio.cal.progress.set k.idx (i + 1), radio.cal.partials := s1.radio.cal.partials.set k.idx words }
      else finishCal k words s1) := by
  unfold calStepEnd
  rw [h]

theorem calRunExpired_ends {o : CalRunOp} {s : State} (hrun : s.radio.cal.calRun = some o)
    (hpast : elapsedBy o.since s.elapsed.now (msU o.waitMax.toNat) = true) : calRunExpired s = calDone o .expired s := by
  simp only [calRunExpired, hrun, hpast, if_true]

theorem calPeriodExpiry_early {t : Int} {n : Sensors} {s : State} (h : s.radio.cal.periodCount.toNat < secU s.radio.rfNow.calPeriod.toNat) :
    calPeriodExpiry t n s = s := if_neg (by rw [decide_eq_false (Nat.not_le.mpr h), Bool.and_false]; exact Bool.false_ne_true)

theorem calPeriodExpiry_due {t : Int} {n : Sensors} {s : State} (hawake : s.awake = true) (hon : s.on dRFFE = true)
    (h : secU s.radio.rfNow.calPeriod.toNat ≤ s.radio.cal.periodCount.toNat) :
    let c := s.radio.cal
    calPeriodExpiry t n s = sampleTemp t n { s with radio.cal := { c with
      due := c.due ||| 0b1101#4, periodic := 0b1101#4
      periodCount := c.periodCount - BitVec.ofNat 64 (secU s.radio.rfNow.calPeriod.toNat)
      dueSince := if c.periodic = 0#4 then s.elapsed.now else c.dueSince } } :=
  if_pos (by rw [hawake, hon, decide_eq_true h]; rfl)

theorem calibration_acts : calibrationActs := by
  refine ⟨fun s h => ?none, fun k s hnext hadmitted => ?enters, fun r s h => ?noEnd, fun k i r s hrun => ?step, fun o s hrun hpast => ?expires,
    fun t n s h => ?early, fun t n s hawake hon h => ?period⟩
  case none => exact congrArg Host.Outcome.next (calStep_none h)
  case enters => exact congrArg Host.Outcome.next (calStep_enters hnext hadmitted rfl)
  case noEnd => exact congrArg Host.Outcome.next (calStepEnd_none h)
  case step =>
    intro words s1
    have hend := calStepEnd_step (r := r) hrun
    exact ⟨fun hmore => congrArg Host.Outcome.next (hend.trans (congrArg afterStep (if_pos hmore))),
      fun hlast => congrArg Host.Outcome.next (hend.trans (congrArg afterStep (if_neg (Nat.not_lt.mpr hlast))))⟩
  case expires => exact congrArg Host.Outcome.next (calRunExpired_ends hrun hpast)
  case early => exact congrArg Host.Outcome.next (calPeriodExpiry_early h)
  case period => exact congrArg Host.Outcome.next (calPeriodExpiry_due hawake hon h)

/-- Settles O54. -/
theorem radioTurnsAndCalibrationAct : Obligations.RadioTurnsAndCalibrationAct := ⟨radio_turns_act, calibration_acts⟩

end Sys2Proof.TurnaroundLaws

/-! Rendezvous, beacon, join, gate and budget instants (O55). -/

namespace Sys2Proof.LinkInstants
open Sys2Proof.Machine Sys2Proof.Statements

/-! ### Slots (R258, R260, R261) -/

/-- Without the rendezvous its instants do nothing. -/
theorem instants_none {a : BitVec 24} {s : State} (h : rdvOf a s = none) :
    rdvSlot a s = s ∧ reacquisitionWindow a s = s ∧ scan a s = s ∧ rdvWindowClose a s = s := by
  simp only [rdvSlot, reacquisitionWindow, scan, rdvWindowClose, h, and_self]

/-- How long before its slot a rendezvous acts (R258, R260). -/
def slotLead (r : Rdv) (s : State) : Nat := if r.parent then parentGuard r (nextSlot r s) s else msU 2

theorem slotLead_parent {r : Rdv} {s : State} (h : r.parent = true) : slotLead r s = parentGuard r (nextSlot r s) s := if_pos h

theorem slotLead_child {r : Rdv} {s : State} (h : r.parent = false) : slotLead r s = msU 2 := if_neg (by rw [h]; exact Bool.false_ne_true)

/-- At a slot without a window the parent listens, and a child in its slots sends. -/
theorem rdvSlot_open {a : BitVec 24} {r : Rdv} {s : State} (hrdv : rdvOf a s = some r) (hrun : s.fwRun = true) (hclosed : r.window = none) :
    rdvSlot a s = if s.time.nt.toNat + slotLead r s < nextSlot r s then s
      else if r.parent then parentSlot r (nextSlot r s) s
      else if r.stage = .slots && r.slotFrame.isNone then childSlot r (nextSlot r s) s else s := by
  unfold rdvSlot
  rw [hrdv]
  refine if_congr ?_ rfl rfl
  rw [hrun, hclosed, Option.isSome_none, Bool.not_true, Bool.or_self, Bool.false_or, decide_eq_true_eq]
  exact Iff.rfl

theorem childSlot_takes {r : Rdv} {x : Nat} {f : TxFrame} {s : State} (hfresh : guardAt r x s ≤ r.period.toNat / 4)
    (hframe : slotCandidate r x s = some f) :
    childSlot r x s = updateRdv r.short (fun r => { r with lastSlot := some (BitVec.ofNat 64 x), slotFrame := some f.fid, slotSent := false })
      (updateFrame f.fid (fun f => { f with ackReq := f.ackReq || !f.inFlight }) s) := by
  simp only [childSlot, Nat.not_lt.mpr hfresh, hframe, if_false]

/-! ### Re-acquisition and scan (R261) -/

theorem reacquisitionWindow_opens {a : BitVec 24} {r : Rdv} {b : BeaconSource} {s : State} (hrdv : rdvOf a s = some r) (hsource : sourceOf a s = some b)
    (hrun : s.fwRun = true) (hchild : r.parent = false) (hstage : r.stage = .windows) (hclosed : r.window = none)
    (hnew : ∀ l, r.lastSlot = some l → l.toNat < expectedBeacon b s)
    (hdue : expectedBeacon b s ≤ s.time.nt.toNat + halfWindow r b (expectedBeacon b s) s) :
    let c := expectedBeacon b s
    let half := halfWindow r b c s
    reacquisitionWindow a s = openWindow r c (c + half + sixTs s.rdv.cfg.scanProfile s) s.rdv.cfg.scanProfile
      (updateRdv a (fun r => { r with guard0 := firstGuard r c s }) s) := by
  unfold reacquisitionWindow
  cases hlast : r.lastSlot with
  | none =>
    simp only [hrdv, hsource, hrun, hchild, hstage, hclosed, hlast, Nat.not_lt.mpr hdue, ne_eq, not_true, decide_false, Option.isSome_none,
      Bool.not_true, Bool.or_self, Bool.false_eq_true, if_false]
  | some l =>
    simp only [hrdv, hsource, hrun, hchild, hstage, hclosed, hlast, Nat.not_lt.mpr hdue, Nat.not_le.mpr (hnew l hlast), ne_eq, not_true, decide_false,
      Option.isSome_none, Bool.not_true, Bool.or_self, Bool.false_eq_true, if_false]

theorem scan_opens {a : BitVec 24} {r : Rdv} {s : State} (hrdv : rdvOf a s = some r) (hrun : s.fwRun = true) (hchild : r.parent = false)
    (hstage : r.stage = .scan) (hclosed : r.window = none)
    (hdue : ∀ l, r.lastSlot = some l → l.toNat + secU s.rdv.cfg.scanPeriod ≤ s.time.nt.toNat) :
    scan a s = openWindow r s.time.nt.toNat (s.time.nt.toNat + msU s.rdv.cfg.scanMs) s.rdv.cfg.scanProfile s := by
  unfold scan
  cases hlast : r.lastSlot with
  | none =>
    simp only [hrdv, hrun, hchild, hstage, hclosed, hlast, ne_eq, not_true, decide_false, Option.isSome_none, Bool.not_true, Bool.or_self,
      Bool.false_eq_true, if_false]
  | some l =>
    simp only [hrdv, hrun, hchild, hstage, hclosed, hlast, hdue l hlast, ne_eq, not_true, decide_true, decide_false, Option.isSome_none,
      Bool.not_true, Bool.or_self, Bool.false_eq_true, if_false]

/-! ### The end of a parent's window (R260, R261) -/

theorem rdvWindowClose_parent {a : BitVec 24} {r : Rdv} {s : State} (hrdv : rdvOf a s = some r) (hparent : r.parent = true)
    (hno : r.eligibleUntil = none) : rdvWindowClose a s = endWindow r s := by
  have hkeep : endEligible r s = s := by simp only [endEligible, hno]
  simp only [rdvWindowClose, hrdv, hparent, hkeep, if_true]

theorem endWindow_early {r : Rdv} {t e : DWord} {heard : Bool} {s : State} (hwindow : r.window = some (t, e, heard))
    (hearly : s.time.nt.toNat < e.toNat) : endWindow r s = s := by
  simp only [endWindow, hwindow, hearly, decide_true, Bool.true_or, if_true]

/-- A window in which the child was heard, or whose guard exempts it, ends without a miss. -/
theorem endWindow_met {r : Rdv} {t e : DWord} {heard : Bool} {s : State} (hwindow : r.window = some (t, e, heard)) (hover : e.toNat ≤ s.time.nt.toNat)
    (hquiet : stillReceiving e s = false) (hparent : r.parent = true) (h : heard = true ∨ r.period.toNat / 4 < guardAt r t.toNat s) :
    endWindow r s = closeListening (updateRdv r.short (fun r => { r with window := none }) s) := by
  have hmet : (heard || missExempt r t.toNat s) = true := by
    rw [Bool.or_eq_true, missExempt, hparent, Bool.true_and, decide_eq_true_eq]
    exact h
  simp only [endWindow, hwindow, Nat.not_lt.mpr hover, hquiet, hmet, decide_false, Bool.or_self, Bool.false_eq_true, if_false, if_true]

/-! ### Beacons (R254) -/

theorem beacon_idle {s : State} (h : s.fwRun = false ∨ s.rdv.cfg.send = false ∨ beaconTaken (beaconAfter s.rdv.cfg s.time.nt.toNat) s = true) :
    beacon s = s := by
  refine if_pos ?_
  obtain h | h | h := h <;> rw [h] <;> simp only [Bool.not_false, Bool.true_or, Bool.or_true]

theorem beacon_queues {o : FwOpen} {s1 s : State} (hrun : s.fwRun = true) (hsend : s.rdv.cfg.send = true) (hplain : s.rdv.cfg.secured = false)
    (hdraw : drawFw s = (o, s1)) (hnew : beaconTaken (beaconAfter s.rdv.cfg s.time.nt.toNat) s = false) :
    let t := beaconAfter s.rdv.cfg s.time.nt.toNat
    let f : TxFrame := { fwFrame .beacon { o with queue := s.rdv.cfg.queue, retries := 0 } s.rdv.cfg.profile s1 with
      start := some (BitVec.ofNat 64 t), lateTol := 0, payload := beaconPayload s, dst := 0xFFFFFF#64 }
    beacon s = fwQueue f { s1 with rdv.lastBeacon := some (BitVec.ofNat 64 t) } := by
  simp only [beacon, hrun, hsend, hplain, hdraw, hnew, Bool.not_true, Bool.not_false, Bool.or_self, Bool.false_eq_true, if_false, if_true]

/-! ### The node's join request (R249, R259, R316) -/

theorem joinRequestSend_idle {s : State}
    (h : s.rdv.node.due = none ∨ s.rdv.cfg.joinEn = false ∨ s.link.own ≠ noShort ∨ s.isUsable dCRYPTO = false) : joinRequestSend s = s := by
  have hno : joinDue s = false := by
    unfold joinDue
    cases hdue : s.rdv.node.due with
    | none => rfl
    | some d =>
      obtain h | h | h | h := h
      · exact absurd (hdue.symm.trans h) (Option.some_ne_none d)
      · simp only [h, Bool.and_false, Bool.false_and]
      · simp only [h, decide_false, Bool.and_false, Bool.false_and]
      · simp only [h, Bool.and_false]
  exact if_neg (by rw [hno, Bool.false_and]; exact Bool.false_ne_true)

/-- A join request is due, and the device can make it. -/
structure JoinDue (root t : DWord) (s : State) : Prop where
  due : s.rdv.node.due = some (root, t)
  run : s.fwRun = true
  time : t.toNat ≤ s.elapsed.now.toNat
  allowed : s.rdv.cfg.joinEn = true
  unaddressed : s.link.own = noShort
  random : s.sec.trngOk = true
  crypto : s.isUsable dCRYPTO = true

theorem joinRequestSend_asks {root t : DWord} {s : State} (h : JoinDue root t s)
    (hnew : ∀ q, (s.sec.pka = some q ∨ q ∈ s.sec.pkaFirst) → q.job ≠ .joinRequest) :
    let r : PkaReq := { port := .spi, tag := 0, job := .joinRequest, left := 2 }
    joinRequestSend s = if s.sec.pka = none then { s with sec.pka := some r } else { s with sec.pkaFirst := s.sec.pkaFirst ++ [r] } := by
  have hdue : joinDue s = true := by
    simp only [joinDue, h.due, h.run, h.time, h.allowed, h.unaddressed, h.random, h.crypto, decide_true, Bool.and_self]
  have hwaits : (s.sec.pkaFirst.any fun r => decide (r.job = .joinRequest)) = false :=
    List.any_eq_false.mpr fun q hq => by simpa only [decide_eq_true_eq] using hnew q (.inr hq)
  have hhas : pkaHas (fun j => j = .joinRequest) s = false := by
    unfold pkaHas
    rw [hwaits, Bool.or_false]
    cases hpka : s.sec.pka with
    | none => rfl
    | some q => exact decide_eq_false (hnew q (.inl hpka))
  simp only [joinRequestSend, hdue, hhas, Bool.not_false, Bool.and_self, if_true, pkaOwn, pkaFirst, Option.isNone_iff_eq_none]

/-- The request formed in state `s`, signed by the device's attestation key. -/
def joinPayload (root : DWord) (s : State) : List Byte :=
  let head := [0x01#8, 0x01#8, 0#8, 0#8] ++ pubBytes (publicOf (freshKey s).1) ++ bytesBE (hi32 s.time.nt)
  head ++ signBytes (attestKey s) (head ++ bytesOfBE 8 root.toNat)

theorem joinRequestWork_queues {root t again : DWord} {payload : List Byte} {s : State} (h : JoinDue root t s)
    (hpayload : joinPayload root s = payload) (hagain : retryAt root s.rdv.node.backoff s = again) :
    let k := freshKey s
    let o := drawFw k.2
    joinRequestWork s = fwQueue
      { fwFrame .join { o.1 with retries := 0 } s.rdv.cfg.scanProfile o.2 with srcLong := true, payload := payload }
      { o.2 with rdv.node := {
          due := some (root, again)
          sent := some (k.1, pubBytes (publicOf k.1), hi32 s.time.nt, root, s.elapsed.now)
          backoff := min 8 (2 * s.rdv.node.backoff) } } := by
  subst hpayload hagain
  simp only [joinRequestWork, h.due, h.run, Nat.not_lt.mpr h.time, h.allowed, h.unaddressed, h.random, h.crypto, ne_eq, not_true, decide_false,
    Bool.not_true, Bool.or_self, Bool.false_eq_true, if_false, joinPayload]

/-- The PKA's requests are no part of what signs a join request or places its next one. -/
theorem attestKey_pkaGoesOn (s : State) : attestKey (pkaGoesOn s) = attestKey s := rfl

theorem retryAt_pkaGoesOn (root : DWord) (backoff : Nat) (s : State) : retryAt root backoff (pkaGoesOn s) = retryAt root backoff s := rfl

/-- What the PKA's next request changes leaves the join request due. -/
theorem JoinDue.goesOn {root t : DWord} {s : State} (h : JoinDue root t s) : JoinDue root t (pkaGoesOn s) :=
  ⟨h.due, h.run, h.time, h.allowed, h.unaddressed, h.random, h.crypto⟩

/-- With its last operation the request is queued. -/
theorem pkaDone_joinRequest {root t : DWord} {r : PkaReq} {s : State} (h : JoinDue root t s) (hpka : s.sec.pka = some r)
    (hjob : r.job = .joinRequest) (hlast : r.left ≤ 1) :
    let k := freshKey (pkaGoesOn s)
    let o := drawFw k.2
    let head := [0x01#8, 0x01#8, 0#8, 0#8] ++ pubBytes (publicOf k.1) ++ bytesBE (hi32 s.time.nt)
    let request := head ++ signBytes (attestKey s) (head ++ bytesOfBE 8 root.toNat)
    exec .pkaDone s = .next (thenFree (fun _ _ => fwQueue
      { fwFrame .join { o.1 with retries := 0 } s.rdv.cfg.scanProfile o.2 with srcLong := true, payload := request }
      { o.2 with rdv.node := {
          due := some (root, retryAt root s.rdv.node.backoff s)
          sent := some (k.1, pubBytes (publicOf k.1), hi32 s.time.nt, root, s.elapsed.now)
          backoff := min 8 (2 * s.rdv.node.backoff) } }) ⟨r.port, r.tag, 0, []⟩ (pkaGoesOn s)) := by
  intro k o head request
  have hpayload : joinPayload root (pkaGoesOn s) = request := by
    unfold joinPayload
    rw [attestKey_pkaGoesOn, show (pkaGoesOn s).time = s.time from rfl]
  have hfinish : pkaFinish r (pkaGoesOn s) = joinRequestWork (pkaGoesOn s) := by
    unfold pkaFinish
    rw [hjob]
  have hwork := joinRequestWork_queues h.goesOn hpayload (retryAt_pkaGoesOn root s.rdv.node.backoff s)
  exact pkaDone_ends hpka hlast ⟨r.port, r.tag, 0, []⟩ _ (hfinish.trans hwork)

theorem joinPlaceExpiry_none {i : Fin 8} {s : State} (h : s.rdv.joins[i] = none) : joinPlaceExpiry i s = s := by
  unfold joinPlaceExpiry
  rw [h]

theorem joinPlaceExpiry_taken {i : Fin 8} {p : JoinPlace} {s : State} (h : s.rdv.joins[i] = some p) :
    joinPlaceExpiry i s = if elapsedBy p.since s.elapsed.now (secU 10) = true then { s with rdv.joins := s.rdv.joins.set i none } else s := by
  unfold joinPlaceExpiry
  rw [h]

theorem rendezvous_and_join_act : rendezvousAndJoinAct := by
  refine ⟨fun a s hnone => ?none, fun a r s hrdv hrun hclosed => ?slot, fun a r b s hrdv hsource hrun hchild hstage hclosed => ?window,
    fun a r s hrdv hrun hchild hstage hclosed hdue => ?scan, fun a r t e heard s hrdv hparent hno hwindow => ?closes, fun s h => ?noBeacon,
    fun o s1 s hrun hsend hplain hdraw => ?beacon, fun s h => ?noJoin, fun root t s hdue hrun htime hallowed hown hrandom hcrypto => ?join,
    fun i s h => ?noPlace, fun i p s h => ?place⟩
  case none =>
    obtain ⟨hslot, hwindow, hscan, hclose⟩ := instants_none hnone
    exact ⟨congrArg Host.Outcome.next hslot, congrArg Host.Outcome.next hwindow, congrArg Host.Outcome.next hscan, congrArg Host.Outcome.next hclose⟩
  case slot =>
    intro x g
    have hslot := rdvSlot_open hrdv hrun hclosed
    refine ⟨fun hparent hdue => ?parent, fun hchild hstage hno hdue => ?child, fun hearly => ?early⟩
    case parent =>
      have hgo : ¬s.time.nt.toNat + slotLead r s < nextSlot r s := by rw [slotLead_parent hparent]; exact Nat.not_lt.mpr hdue
      exact congrArg Host.Outcome.next (hslot.trans ((if_neg hgo).trans (if_pos hparent)))
    case child =>
      have hgo : ¬s.time.nt.toNat + slotLead r s < nextSlot r s := by rw [slotLead_child hchild]; exact Nat.not_lt.mpr hdue
      have hsends : (decide (r.stage = .slots) && r.slotFrame.isNone) = true := by rw [hstage, hno]; rfl
      have hchildSlot : rdvSlot a s = childSlot r x s :=
        hslot.trans ((if_neg hgo).trans ((if_neg (by rw [hchild]; exact Bool.false_ne_true)).trans (if_pos hsends)))
      exact ⟨fun hgrown => congrArg Host.Outcome.next (hchildSlot.trans (if_pos hgrown)),
        fun f hfresh hframe => congrArg Host.Outcome.next (hchildSlot.trans (childSlot_takes hfresh hframe))⟩
    case early =>
      refine congrArg Host.Outcome.next (hslot.trans (if_pos ?_))
      cases hc : r.parent with
      | true =>
        rw [slotLead_parent hc]
        rwa [hc, if_pos rfl] at hearly
      | false =>
        rw [slotLead_child hc]
        rwa [hc, if_neg Bool.false_ne_true] at hearly
  case window =>
    intro c half hnew hdue
    exact congrArg Host.Outcome.next (reacquisitionWindow_opens hrdv hsource hrun hchild hstage hclosed hnew hdue)
  case scan => exact congrArg Host.Outcome.next (scan_opens hrdv hrun hchild hstage hclosed hdue)
  case closes =>
    have hclose := rdvWindowClose_parent hrdv hparent hno
    exact ⟨fun hearly => congrArg Host.Outcome.next (hclose.trans (endWindow_early hwindow hearly)),
      fun hover hquiet hmet => congrArg Host.Outcome.next (hclose.trans (endWindow_met hwindow hover hquiet hparent hmet))⟩
  case noBeacon => exact congrArg Host.Outcome.next (beacon_idle h)
  case beacon =>
    intro t hnew
    exact congrArg Host.Outcome.next (beacon_queues hrun hsend hplain hdraw hnew)
  case noJoin => exact congrArg Host.Outcome.next (joinRequestSend_idle h)
  case join =>
    have hready : JoinDue root t s := ⟨hdue, hrun, htime, hallowed, hown, hrandom, hcrypto⟩
    exact ⟨fun hnew => congrArg Host.Outcome.next (joinRequestSend_asks hready hnew),
      fun r hpka hjob hlast => pkaDone_joinRequest hready hpka hjob hlast⟩
  case noPlace => exact congrArg Host.Outcome.next (joinPlaceExpiry_none h)
  case place => exact congrArg Host.Outcome.next (joinPlaceExpiry_taken h)

/-! ### Gates and budgets (R286, R288, R291, R292, R295) -/

theorem gateSwap_early {a : AdminList} {s : State} (hadmin : s.traffic.admin = some a) (hearly : s.time.nt.toNat < a.x.toNat) : gateSwap s = s := by
  unfold gateSwap
  rw [hadmin]
  exact if_pos hearly

/-- At X the waiting list becomes the operational one; queues, ledger and frames stand but for their marks. -/
theorem gateSwap_swaps {a : AdminList} {s : State} (hadmin : s.traffic.admin = some a) (hdue : a.x.toNat ≤ s.time.nt.toNat) :
    (gateSwap s).traffic.admin = none ∧ (gateSwap s).traffic.oper = a.result.map (fun l => (l, a.x)) ∧
      (gateSwap s).traffic.queues = s.traffic.queues ∧ (gateSwap s).ledger = s.ledger ∧
      (gateSwap s).link.frames.length = s.link.frames.length := by
  unfold gateSwap
  rw [hadmin]
  dsimp only
  rw [if_neg (Nat.not_lt.mpr hdue), raise_only]
  exact ⟨rfl, rfl, rfl, rfl, List.length_map _⟩

theorem bucketRoll_rolls {s : State} (h : s.traffic.bucketNo < bucketOf s) : bucketRoll s = checkAllLow (rollBuckets s) := if_pos h

theorem budgetJournalWrite_due {s : State} (hrun : s.inRun = true) (hdue : s.traffic.journalAt.toNat / secU 60 < s.elapsed.now.toNat / secU 60) :
    budgetJournalWrite s = budgetWrite { s with traffic.journalAt := s.elapsed.now } :=
  if_pos (by rw [hrun, decide_eq_true hdue, Bool.and_self])

theorem traffic_instants_act : trafficInstantsAct := by
  refine ⟨fun s h => ?noSwap, fun a s hawake hadmin hearly => ?early, fun a s hawake hadmin hdue => ?swaps, fun s h => ?noRoll, fun s h => ?rolls,
    fun s hrun hdue => ?journal⟩
  case noSwap =>
    refine congrArg Host.Outcome.next ?_
    obtain h | h := h
    · exact if_neg (by rw [h]; exact Bool.false_ne_true)
    · have hkeep : gateSwap s = s := by
        unfold gateSwap
        rw [h]
      rw [hkeep, ite_self]
  case early => exact congrArg Host.Outcome.next ((if_pos hawake).trans (gateSwap_early hadmin hearly))
  case swaps => exact ⟨_, congrArg Host.Outcome.next (if_pos hawake), gateSwap_swaps hadmin hdue⟩
  case noRoll => exact congrArg Host.Outcome.next (if_neg (Nat.not_lt.mpr h))
  case rolls => exact congrArg Host.Outcome.next (bucketRoll_rolls h)
  case journal =>
    intro s1
    have hwrite := budgetJournalWrite_due hrun hdue
    exact ⟨fun hoff => congrArg Host.Outcome.next (hwrite.trans (if_neg (by rw [show s1.power.bodWarn = false from hoff]; exact Bool.false_ne_true))),
      fun hwarn => congrArg Host.Outcome.next (hwrite.trans (if_pos hwarn))⟩

/-- Settles O55. -/
theorem linkInstantsAct : Obligations.LinkInstantsAct := ⟨rendezvous_and_join_act, traffic_instants_act⟩

end Sys2Proof.LinkInstants

/-! Operations on flash and what stops and resumes them (O56). -/

namespace Sys2Proof.FlashOperationLaws
open Sys2Proof.Machine Sys2Proof.Statements

/-! ### FLASH_DONE (R392, R401, R411) -/

theorem flashDone_idle {b : Bool} {s : State} (h : s.awake = false ∨ (s.flash.inner = none ∧ s.flash.op = none)) : flashDone b s = s := by
  obtain h | ⟨hinner, hop⟩ := h
  · exact if_pos (by rw [h]; rfl)
  · unfold flashDone
    rw [hinner, hop]
    exact ite_self s

theorem flashDone_suspended {b : Bool} {o : FlashOp} {s : State} (hinner : s.flash.inner = none) (hop : s.flash.op = some o)
    (hstops : flashRuns s = false) : flashDone b s = s := by
  unfold flashDone
  rw [hinner, hop]
  dsimp only
  rw [hstops, if_neg Bool.false_ne_true, ite_self]

theorem flashDone_runs {b : Bool} {o : FlashOp} {s : State} (hawake : s.awake = true) (hinner : s.flash.inner = none) (hop : s.flash.op = some o)
    (hruns : flashRuns s = true) : flashDone b s = runFlashOp o b { s with flash.op := none } := by
  unfold flashDone
  rw [hinner, hop, hawake]
  dsimp only
  rw [hruns, Bool.not_true, if_neg Bool.false_ne_true, if_pos rfl]

/-- FLASH_DONE with a status, a number of units or sectors done, and an address. -/
def doneEvent (o : FlashOp) (st : Status) (n a : Nat) (s : State) : State :=
  completeEvent o.port 0x050 o.handle
    [o.handle.setWidth 32, W (statusCode st + b2n o.erase * 2 ^ 16), W n, W a] s

theorem runFlashOp_erases {o : FlashOp} {s : State} (herase : o.erase = true) :
    runFlashOp o false s = doneEvent o .ok (o.done + o.left) 0 ((List.range' o.sector o.left).foldl (fun t k => eraseSector k t) s) := by
  simp only [runFlashOp, pickBad, herase, eraseSectors_all, if_true, Bool.false_eq_true, if_false, flashDoneEvent, doneEvent, Option.isSome_none,
    Option.getD_none]

theorem runFlashOp_programs {o : FlashOp} {s : State} (hprogram : o.erase = false)
    (hblank : ∀ i (h : i < o.units.length), unitBlank ((o.units.take i).foldl (fun t u => writeUnit u.1 u.2 t) s) o.units[i].1 = true) :
    runFlashOp o false s = doneEvent o .ok (o.done + o.units.length) 0 (o.units.foldl (fun t u => writeUnit u.1 u.2 t) s) := by
  simp only [runFlashOp, pickBad, hprogram, programUnits_all o.units o.done s hblank, Bool.false_eq_true, if_false, flashDoneEvent, doneEvent,
    Option.isSome_none, Option.getD_none]

/-- A unit that is not blank ends the program there, itself unchanged. -/
theorem runFlashOp_notBlank {o : FlashOp} {f : Nat} {bs : List Byte} {rest : List (Nat × List Byte)} {s : State} (hprogram : o.erase = false)
    (hunits : o.units = (f, bs) :: rest) (hfull : unitBlank s f = false) : runFlashOp o false s = doneEvent o .verifyFail o.done f s := by
  simp only [runFlashOp, pickBad, hprogram, hunits, programUnits, hfull, Bool.not_false, if_true, Bool.false_eq_true, if_false, flashDoneEvent,
    doneEvent, Option.isSome_some, Option.getD_some]

/-! ### Suspensions (R396) -/

theorem flashAutoSuspend_suspends {o : FlashOp} {s : State} (hop : s.flash.op = some o) (herase : o.erase = true) (hruns : flashRuns s = true)
    (hlong : elapsedBy s.flash.eraseSince s.elapsed.now (msU 1) = true) :
    flashAutoSuspend s = { flashProgress s with flash.suspAuto := true } := by
  unfold flashAutoSuspend
  rw [hop]
  exact if_pos (by rw [herase, hruns, hlong]; rfl)

theorem flashAutoSuspend_keeps {s : State} (h : s.flash.op = none ∨ elapsedBy s.flash.eraseSince s.elapsed.now (msU 1) = false) :
    flashAutoSuspend s = s := by
  unfold flashAutoSuspend
  cases hop : s.flash.op with
  | none => rfl
  | some o =>
    have hshort := h.resolve_left (hop ▸ Option.some_ne_none o)
    exact if_neg (by rw [hshort, Bool.and_false]; exact Bool.false_ne_true)

/-! ### How far an erase has come (R393, log 5) -/

theorem flashProgress_runs {o : FlashOp} {s : State} (hinner : s.flash.inner = none) (hop : s.flash.op = some o) (hruns : flashRuns s = true) :
    flashProgress s = { (progressed o s).2 with flash.op := (progressed o s).1 } := by
  unfold flashProgress
  rw [hinner, hop]
  exact if_pos hruns

theorem progressed_last {o : FlashOp} {s : State} (herase : o.erase = true) (hlast : o.left ≤ 1) : progressed o s = (some o, s) := by
  simp only [progressed, herase, if_true, hlast]

/-- An erase with more to do has come to an open number of sectors, short of all. -/
theorem progressed_erase {o : FlashOp} {s : State} (herase : o.erase = true) (hmore : 1 < o.left) :
    progressed o s =
      let k := (Config.freeWord s.free).toNat % o.left
      (some { o with sector := o.sector + k, left := o.left - k, done := o.done + k },
        setFlag (o.sector + k) true ((List.range' o.sector k).foldl (fun t j => eraseSector j t) { s with free := s.free + 1 })) := by
  simp only [progressed, stepOp, herase, if_true, Nat.not_le.mpr hmore, if_false, eraseSectors_all, drawWord]

/-- Settles O56. -/
theorem flashOperationsEnd : Obligations.FlashOperationsEnd := by
  refine ⟨fun b s h => congrArg Host.Outcome.next (flashDone_idle h),
    fun b o s hinner hop hstops => congrArg Host.Outcome.next (flashDone_suspended hinner hop hstops),
    fun o s hawake hinner hop hruns => ?done,
    fun o s hop herase hruns hlong => congrArg Host.Outcome.next (flashAutoSuspend_suspends hop herase hruns hlong),
    fun s h => congrArg Host.Outcome.next (flashAutoSuspend_keeps h), fun _ => rfl, fun o s hinner hop hruns herase => ?progress⟩
  case done =>
    have hdone := flashDone_runs (b := false) hawake hinner hop hruns
    exact ⟨fun herase => congrArg Host.Outcome.next (hdone.trans (runFlashOp_erases herase)),
      fun hprogram hblank => congrArg Host.Outcome.next (hdone.trans (runFlashOp_programs hprogram hblank)),
      fun f bs rest hprogram hunits hfull => congrArg Host.Outcome.next (hdone.trans (runFlashOp_notBlank hprogram hunits hfull))⟩
  case progress =>
    have hcome := flashProgress_runs hinner hop hruns
    refine ⟨fun hlast => ?last, fun hmore => ?more⟩
    case last =>
      rw [hcome, progressed_last herase hlast, ← hop]
    case more =>
      rw [hcome, progressed_erase herase hmore]

end Sys2Proof.FlashOperationLaws

/-! What the security unit's instants do (O57). -/

namespace Sys2Proof.SecurityInstants
open Sys2Proof.Machine Sys2Proof.Statements

/-! ### Open messages (R315) -/

theorem runWaiting_none {s : State} (h : s.sec.waiting = []) : runWaiting s = s := by
  have hsame : ({ s with sec.waiting := [] } : State) = s := by rw [← h]
  rw [runWaiting, h, List.foldl_nil, hsame]

theorem context_at (c : Fin 5) (s : State) : s.sec.ctxs.toList.getD c.val none = s.sec.ctxs[c] := by
  rw [List.getD_eq_getElem?_getD, Vector.getElem?_toList, Vector.getElem?_eq_getElem c.isLt]
  rfl

theorem set!_context (c : Fin 5) (m : Option CipherMsg) (s : State) : s.sec.ctxs.set! c.val m = s.sec.ctxs.set c m :=
  Vector.toList_inj.mp (Vector.toList_set!.trans (Vector.toList_set c.isLt).symm)

theorem openMessageTimeout_none {c : Fin 5} {s : State} (h : s.sec.ctxs[c] = none) : openMessageTimeout ⟨c.val, by omega⟩ s = s := by
  unfold openMessageTimeout
  rw [context_at, h]

theorem openMessageTimeout_abandons {c : Fin 5} {m : CipherMsg} {s : State} (h : s.sec.ctxs[c] = some m) (hnone : s.sec.waiting = []) :
    openMessageTimeout ⟨c.val, by omega⟩ s =
      if elapsedBy m.last s.elapsed.now (secU 10) = true then { s with sec.ctxs := s.sec.ctxs.set c none } else s := by
  unfold openMessageTimeout
  rw [context_at, h]
  dsimp only
  rw [set!_context, runWaiting_none (s := { s with sec.ctxs := s.sec.ctxs.set c none }) hnone]

/-! ### Health tests of the TRNG (R317) -/

theorem trngHealthFail_stops {test : Fin 3} {s : State} (hon : s.isUsable dCRYPTO = true) (hdue : test = 2 → startUpDue s = true) :
    trngHealthFail test s = trngFail test.val s := by
  refine if_neg ?_
  rw [hon, Bool.not_true, Bool.false_or, Bool.and_eq_true, decide_eq_true_eq, Bool.not_eq_true']
  exact fun h => Bool.false_ne_true (h.2.symm.trans (hdue h.1))

theorem trngStartUpTest_early {pass : Bool} {s : State} (h : startUpDue s = false) : trngStartUpTest pass s = s :=
  if_pos (by rw [h]; rfl)

theorem trngStartUpTest_ends {s : State} (h : startUpDue s = true) :
    trngStartUpTest true s = { s with sec.trngOk := true, sec.trngFailAt := none } ∧ trngStartUpTest false s = trngFail 2 s := by
  simp only [trngStartUpTest, h, Bool.not_true, Bool.false_eq_true, if_false, if_true, and_self]

/-! ### The key store (R320) -/

theorem keyStoreReady_loads {s : State} (hon : s.isUsable dCRYPTO = true) (hnew : s.sec.ready = false)
    (hdue : elapsedBy s.sec.onAt s.elapsed.now (usU 120) = true) :
    keyStoreReady s = runWaiting { s with sec.ready := true, sec.slots := loadedSlots s } :=
  if_pos (by rw [hon, hnew, hdue]; rfl)

theorem keyStoreReady_keeps {s : State} (h : s.isUsable dCRYPTO = false ∨ s.sec.ready = true) : keyStoreReady s = s := by
  refine if_neg ?_
  obtain h | h := h <;> rw [h] <;> simp only [Bool.false_and, Bool.not_true, Bool.and_false, Bool.false_eq_true, not_false_eq_true]

/-! ### The PKA (R316) -/

theorem pkaDone_none {s : State} (h : s.sec.pka = none) : pkaDone s = s := by
  unfold pkaDone
  rw [h]

theorem pkaDone_counts {r : PkaReq} {s : State} (h : s.sec.pka = some r) (hmore : 1 < r.left) :
    pkaDone s = { s with sec.pka := some { r with left := r.left - 1 } } := by
  unfold pkaDone
  rw [h]
  exact if_pos hmore

section
variable {r : PkaReq} {t : State}

theorem pkaFinish_verify {root : Bool} {key : BitVec 256 × BitVec 256} {d x y : BitVec 256} (h : r.job = .verify root key d x y) :
    pkaFinish r t = finish ⟨r.port, r.tag, 0x70B, []⟩ (if root = true ∧ verifies key d x y = true then .ok else .authFail) [] t := by
  simp only [pkaFinish, h, Bool.and_eq_true]

theorem pkaFinish_sign_absent {slot : Nat} {d : BitVec 256} (h : r.job = .sign slot d) (hslot : usableSlot slot t = none) :
    pkaFinish r t = finish ⟨r.port, r.tag, 0x70A, []⟩ .keyAbsent [] t := by
  simp only [pkaFinish, h, hslot]

theorem pkaFinish_sign {slot : Nat} {d : BitVec 256} {k : KeySlot} (h : r.job = .sign slot d) (hslot : usableSlot slot t = some k) :
    pkaFinish r t =
      let sg := privResult k.key (fun e => words512 (ecdsaSign e d)) t
      finish ⟨r.port, r.tag, 0x70A, []⟩ .ok sg.1 sg.2 := by
  simp only [pkaFinish, h, hslot]

theorem pkaFinish_genKey {slot : Nat} {usage : BitVec 5} {persist : Bool} (h : r.job = .genKey slot usage persist)
    (hopen : t.sec.sealedSlots.getLsbD slot = false) :
    pkaFinish r t =
      let k := freshKey t
      finish ⟨r.port, r.tag, 0x709, []⟩ .ok (words512 (publicOf k.1))
        (putSlot slot { type := .p256, usage, key := k.1, pub := some (publicOf k.1), persist } k.2) := by
  simp only [pkaFinish, h, hopen, Bool.false_eq_true, if_false]

theorem pkaFinish_agree {slot priv : Nat} {peer : BitVec 256 × BitVec 256} {k : KeySlot} (h : r.job = .agree slot priv peer)
    (hslot : usableSlot priv t = some k) :
    pkaFinish r t =
      let z := privResult k.key (fun d => words256 (ecdh d peer)) t
      finish ⟨r.port, r.tag, 0x709, []⟩ .ok (words512 k.publicKey) (putSlot slot
        { type := .secret256, usage := 0b01000#5, key := mk256 z.1, pub := some k.publicKey, fromEcdh := true } z.2) := by
  simp only [pkaFinish, h, hslot]

theorem pkaFinish_joinRequest (h : r.job = .joinRequest) : pkaFinish r t = joinRequestWork t := by
  simp only [pkaFinish, h]

theorem pkaFinish_remoteReport {link : BitVec 24 × DWord} {ch : List Byte} (h : r.job = .remoteReport link ch) :
    pkaFinish r t = remoteReport link ch t := by
  simp only [pkaFinish, h]

theorem pkaFinish_joinResponse {psdu : List Byte} {m : MacFrame} (h : r.job = .joinResponse psdu) (hframe : parseMac psdu = some m) :
    pkaFinish r t = joinResponseWork m m.body t := by
  simp only [pkaFinish, h, hframe]

end

/-! ### Debug requests through JTAG (R328, R330) -/

theorem jtagRequest_held {h : HeldDebug} {s : State} (hstop : s.power.phase = .stop) :
    jtagRequest h s = { s with sec.debugHeld := some h } := if_pos hstop

/-- The state in which a request is judged: where JTAG is armed as a wake source, its edge is held for the entry into stop. -/
def requested (s : State) : State := if s.power.wakeArm.getLsbD 13 then holdWake 7 0 s else s

theorem requested_ready (s : State) : (requested s).sec.ready = s.sec.ready := by
  unfold requested holdWake
  split
  · split <;> rfl
  · rfl

/-- A request that is refused leaves its status, and nothing waits for the key store. -/
theorem jtagRequest_refused {h : HeldDebug} {st : Status} {s : State} (hphase : s.power.phase = .run ∨ s.power.phase = .entering)
    (hextest : s.sec.extest = false) (hready : s.sec.ready = false) (hdo : jtagDo h (requested s) = dapEnd st (requested s)) :
    jtagRequest h s = dapEnd st (requested s) := by
  have hstop : s.power.phase ≠ .stop := by obtain h | h := hphase <;> rw [h] <;> decide
  have hboot : s.power.phase ≠ .booting := by obtain h | h := hphase <;> rw [h] <;> decide
  have hidle : ¬(dapEnd st (requested s)).sec.ready = true := by
    rw [show (dapEnd st (requested s)).sec.ready = (requested s).sec.ready from rfl, requested_ready, hready]
    exact Bool.false_ne_true
  unfold jtagRequest
  rw [if_neg hstop, if_neg (by rw [decide_eq_false hboot, hextest]; exact Bool.false_ne_true)]
  dsimp only
  rw [show (if s.power.wakeArm.getLsbD 13 then holdWake 7 0 s else s) = requested s from rfl, hdo, if_neg hidle]

theorem jtagDo_badScope {scope : BitVec 2} {key sig : List Word} {s : State} (h : scope = 0#2 ∨ scope = 3#2) :
    jtagDo (.resp scope key sig) s = dapEnd .badParam s :=
  if_pos (by rw [Bool.or_eq_true, decide_eq_true_eq, decide_eq_true_eq]; exact h)

theorem jtagDo_noChallenge {st : Status} {s : State} (h : debugChallenge s = .error st) : jtagDo .chal s = dapEnd st s := by
  simp only [jtagDo, h]

/-- Settles O57. -/
theorem securityInstantsAct : Obligations.SecurityInstantsAct := by
  refine ⟨fun c s h => congrArg Host.Outcome.next (openMessageTimeout_none h),
    fun c m s h hnone => congrArg Host.Outcome.next (openMessageTimeout_abandons h hnone),
    fun test s hon hdue => congrArg Host.Outcome.next (trngHealthFail_stops hon hdue), fun s hdue => ?startUp, fun p s hearly => ?early,
    fun s hon hnew hdue => congrArg Host.Outcome.next (keyStoreReady_loads hon hnew hdue),
    fun s h => congrArg Host.Outcome.next (keyStoreReady_keeps h), fun s h => congrArg Host.Outcome.next (pkaDone_none h),
    fun r s h hmore => congrArg Host.Outcome.next (pkaDone_counts h hmore), fun r s hpka hlast => ?ends, fun s hstop => ?held,
    fun s hphase hextest hready => ?refused⟩
  case startUp =>
    obtain ⟨hpasses, hfails⟩ := trngStartUpTest_ends hdue
    exact ⟨congrArg Host.Outcome.next hpasses, congrArg Host.Outcome.next hfails⟩
  case early => exact congrArg Host.Outcome.next (trngStartUpTest_early hearly)
  case ends =>
    have hends : ∀ f : State → State, pkaFinish r (pkaGoesOn s) = f (pkaGoesOn s) →
        exec .pkaDone s = .next (thenFree (fun _ t => f t) ⟨r.port, r.tag, 0, []⟩ (pkaGoesOn s)) :=
      fun f h => pkaDone_ends hpka hlast _ _ h
    intro done
    exact ⟨fun root key d x y hjob => hends _ (pkaFinish_verify hjob), fun slot d hjob habsent => hends _ (pkaFinish_sign_absent hjob habsent),
      fun slot d k hjob hslot => hends _ (pkaFinish_sign hjob hslot), fun slot usage persist hjob hopen => hends _ (pkaFinish_genKey hjob hopen),
      fun slot priv peer k hjob hslot => hends _ (pkaFinish_agree hjob hslot), fun hjob => hends _ (pkaFinish_joinRequest hjob),
      fun link ch hjob => hends _ (pkaFinish_remoteReport hjob),
      fun psdu m hjob hframe => hends _ (pkaFinish_joinResponse hjob hframe)⟩
  case held => exact ⟨congrArg Host.Outcome.next (jtagRequest_held hstop), fun _ _ _ => congrArg Host.Outcome.next (jtagRequest_held hstop)⟩
  case refused =>
    exact ⟨fun scope k g hscope => congrArg Host.Outcome.next (jtagRequest_refused hphase hextest hready (jtagDo_badScope hscope)),
      fun st hno => congrArg Host.Outcome.next (jtagRequest_refused hphase hextest hready (jtagDo_noChallenge hno))⟩

end Sys2Proof.SecurityInstants

/-! The supply, the domains and the operating point (O58, first part). -/

namespace Sys2Proof.SupplyLaws
open Sys2Proof.Machine Sys2Proof.Statements

theorem elapsedBy_iff {since now : DWord} {d : Nat} : elapsedBy since now d = true ↔ since.toNat + d ≤ now.toNat := decide_eq_true_iff

/-! ### Brown-out (R437, R438, R440) -/

theorem bodWarn_idle {mv : Nat} {s : State} (h : s.power.bodWarn = true ∨ s.power.phase = .booting ∨ warnLevel s ≤ mv) : bodWarn mv s = s := by
  refine if_pos ?_
  rw [Bool.or_eq_true, Bool.or_eq_true, decide_eq_true_eq, decide_eq_true_eq, or_assoc]
  exact h

theorem bodWarn_warns {mv : Nat} {cut : Bool} {s s1 : State} (hnew : s.power.bodWarn = false) (hup : s.power.phase ≠ .booting)
    (hlow : mv < warnLevel s) (habort : abortAir s = (cut, s1)) :
    let p := flashProgress s1
    bodWarn mv s = raise 0x002 (W (s.power.bodLevel.toNat + b2n cut * 32) :: words64 s.time.nt) { p with
      flash.suspBod := p.flash.op.isSome || p.flash.inner.isSome
      power.bodWarn := true, power.bodSince := s.elapsed.now, power.bodLowest := mv, power.vbat := BitVec.ofNat 12 mv
      power.pmuEvents := s1.power.pmuEvents ||| 1#4 } := by
  have hgo : ¬(s.power.bodWarn || decide (s.power.phase = .booting) || decide (warnLevel s ≤ mv)) = true := by
    rw [hnew, decide_eq_false hup, decide_eq_false (Nat.not_le.mpr hlow)]
    exact Bool.false_ne_true
  unfold bodWarn
  rw [if_neg hgo, habort]

theorem bodClear_idle {mv : Nat} {s : State} (h : s.power.bodWarn = false ∨ mv < warnLevel s + 50) : bodClear mv s = s := by
  refine if_pos ?_
  rw [Bool.or_eq_true, Bool.not_eq_true', decide_eq_true_eq]
  exact h

theorem budgetWrite_writes {s : State} (h : s.power.bodWarn = false) :
    budgetWrite s = { s with traffic.journal := some (journalNow s), traffic.journalDue := false } :=
  if_neg (by rw [h]; exact Bool.false_ne_true)

/-- The warning ended: flash goes on. -/
def warningOver (s : State) : State :=
  { s with flash.eraseSince := s.elapsed.now, flash.suspBod := false, power.bodWarn := false, power.pmuEvents := s.power.pmuEvents ||| 2#4 }

/-- The journal write that the warning deferred. -/
def journalCaughtUp (s : State) : State :=
  if s.traffic.journalDue = true then { s with traffic.journal := some (journalNow s), traffic.journalDue := false } else s

theorem journalCaughtUp_bg (s : State) : (journalCaughtUp s).bg = s.bg := by
  unfold journalCaughtUp
  split <;> rfl

theorem bodClear_clears {mv : Nat} {s : State} (hwarn : s.power.bodWarn = true) (hhigh : warnLevel s + 50 ≤ mv) :
    bodClear mv s = raise 0x003
      [W (min (inUs (s.elapsed.now.toNat - s.power.bodSince.toNat)) 0xFFFFFFFF), W s.power.bodLowest]
      { journalCaughtUp (warningOver s) with
        bg.dueAt := s.bg.dueAt.mapFinIdx fun i t _ => if i = 1 || i = 2 then t + (s.elapsed.now - s.power.bodSince) else t } := by
  have hgo : ¬(!s.power.bodWarn || decide (mv < warnLevel s + 50)) = true := by
    rw [hwarn, decide_eq_false (Nat.not_lt.mpr hhigh)]
    exact Bool.false_ne_true
  have hjournal : (if (warningOver s).traffic.journalDue then budgetWrite (warningOver s) else warningOver s) = journalCaughtUp (warningOver s) := by
    rw [budgetWrite_writes rfl]
    rfl
  have hdue : (journalCaughtUp (warningOver s)).bg.dueAt = s.bg.dueAt := congrArg (·.dueAt) (journalCaughtUp_bg (warningOver s))
  rw [← hdue, ← hjournal]
  exact if_neg hgo

/-! ### The operating point (R418, R419) -/

theorem oppoint_none {s : State} (h : s.power.oppWait = none) : oppointSwitch s = s ∧ oppointTimeout s = s := by
  simp only [oppointSwitch, oppointTimeout, h, and_self]

section
variable {p : PortId} {t : BitVec 6} {point : Bool} {since : DWord} {s : State} (hwait : s.power.oppWait = some (p, t, point, since))
include hwait

theorem oppointTimeout_switching (h : s.power.switching = true) : oppointTimeout s = s := by
  simp only [oppointTimeout, hwait, h, Bool.not_true, Bool.false_and, Bool.false_eq_true, if_false]

theorem oppointTimeout_busy (h : s.power.switching = false) (hlate : elapsedBy since s.elapsed.now (msU 100) = true) :
    oppointTimeout s = finish ⟨p, t, 0x106, []⟩ .busy [] { s with power.oppWait := none } := by
  unfold oppointTimeout
  rw [hwait]
  exact if_pos (by rw [h, hlate]; rfl)

/-- What OPPOINT_SWITCH does while a change waits or runs. -/
theorem oppointSwitch_eq : oppointSwitch s =
    if s.power.switching then
      if elapsedBy since s.elapsed.now (usU (if point then 40 else 60)) = true then finish ⟨p, t, 0x106, []⟩ .ok []
        (endOppBlank { s with power.switching := false, power.oppWait := none, power.lp := point, power.pmuEvents := s.power.pmuEvents ||| 8#4 })
      else s
    else if oppAllowed s = true then
      if point && s.on dBLVD then finish ⟨p, t, 0x106, []⟩ .badState [] { s with power.oppWait := none }
      else startBlank { s with power.switching := true, power.oppWait := some (p, t, point, s.elapsed.now) }
    else s := by
  unfold oppointSwitch
  rw [hwait]
  dsimp only
  cases elapsedBy since s.elapsed.now (usU (if point then 40 else 60)) <;> cases oppAllowed s <;> rfl

end

/-! ### Domains (R420, R422, R433) -/

theorem domainUsable_comes {d : Fin 12} {s : State} (hon : s.on d.val = true) (hnew : s.isUsable d.val = false) (hawake : s.awake = true)
    (hneeds : needs d.val = 0 ∨ s.isUsable (needs d.val) = true)
    (hdue : s.power.onAt[d].toNat + usU (usableUs d.val) ≤ s.elapsed.now.toNat) :
    domainUsable d s = answerDomains (domainOn d.val { s with
      power.usable := s.power.usable ||| domBit d.val, power.onAt := stampOn (dependants d.val s) s }) := by
  have hok : (decide (needs d.val = 0) || s.isUsable (needs d.val)) = true := by rw [Bool.or_eq_true, decide_eq_true_eq]; exact hneeds
  exact if_pos (by rw [hon, hnew, hawake, hok, elapsedBy_iff.mpr hdue]; rfl)

theorem domainUsable_keeps {d : Fin 12} {s : State} (h : s.on d.val = false ∨ s.isUsable d.val = true ∨ s.awake = false ∨
    s.elapsed.now.toNat < s.power.onAt[d].toNat + usU (usableUs d.val)) : domainUsable d s = s := by
  refine if_neg ?_
  simp only [Bool.and_eq_true, Bool.not_eq_true', elapsedBy_iff]
  rintro ⟨⟨⟨⟨hon, hnew⟩, hawake⟩, _⟩, hdue⟩
  obtain h | h | h | h := h
  · exact Bool.false_ne_true (h.symm.trans hon)
  · exact Bool.false_ne_true (hnew.symm.trans h)
  · exact Bool.false_ne_true (h.symm.trans hawake)
  · exact absurd hdue (Nat.not_le.mpr h)

theorem sysplllocked_locks {s : State} (hawake : s.awake = true) (hnew : s.power.pll = false) (hxo : s.power.hfxo = true) :
    sysplllocked s = { s with
      power.pll := true, power.domains := s.power.domains ||| (s.power.atEntry &&& 0xF00#12)
      power.onAt := stampOn (s.power.atEntry &&& 0xF00#12) s } :=
  if_pos (by rw [hawake, hnew, hxo]; rfl)

theorem supply_and_domains_act : supplyAndDomainsAct := by
  refine ⟨fun mv s h => congrArg Host.Outcome.next (bodWarn_idle h),
    fun mv s hnew hup hlow cut s1 habort => congrArg Host.Outcome.next (bodWarn_warns hnew hup hlow habort),
    fun mv s h => congrArg Host.Outcome.next (bodClear_idle h), fun mv s hwarn hhigh => congrArg Host.Outcome.next (bodClear_clears hwarn hhigh),
    fun _ _ => rfl, fun s h => ?noChange, fun p t point since s hwait => ?change,
    fun d s hon hnew hawake hneeds hdue => congrArg Host.Outcome.next (domainUsable_comes hon hnew hawake hneeds hdue),
    fun d s h => congrArg Host.Outcome.next (domainUsable_keeps h),
    fun s hawake hnew hxo => congrArg Host.Outcome.next (sysplllocked_locks hawake hnew hxo), fun s hoff => ?vio⟩
  case noChange =>
    obtain ⟨hswitch, htimeout⟩ := oppoint_none h
    exact ⟨congrArg Host.Outcome.next hswitch, congrArg Host.Outcome.next htimeout⟩
  case change =>
    have hswitch := oppointSwitch_eq hwait
    have hnot : ∀ {b : Bool}, b = false → ¬b = true := fun h => by rw [h]; exact Bool.false_ne_true
    refine ⟨fun hgoing => congrArg Host.Outcome.next (oppointTimeout_switching hwait hgoing), fun hgoing hearly => ?early, fun hgoing hdue => ?ends,
      fun hidle hno => ?notAllowed, fun hidle hok hpoint hblvd => ?refused, fun hidle hok h => ?begins,
      fun hidle hlate => congrArg Host.Outcome.next (oppointTimeout_busy hwait hidle hlate)⟩
    case early =>
      have hyet : ¬elapsedBy since s.elapsed.now (usU (if point then 40 else 60)) = true := fun h => absurd (elapsedBy_iff.mp h) (Nat.not_le.mpr hearly)
      exact congrArg Host.Outcome.next (hswitch.trans ((if_pos hgoing).trans (if_neg hyet)))
    case ends => exact congrArg Host.Outcome.next (hswitch.trans ((if_pos hgoing).trans (if_pos (elapsedBy_iff.mpr hdue))))
    case notAllowed => exact congrArg Host.Outcome.next (hswitch.trans ((if_neg (hnot hidle)).trans (if_neg (hnot hno))))
    case refused =>
      have hlow : (point && s.on dBLVD) = true := by rw [hpoint, hblvd]; rfl
      exact congrArg Host.Outcome.next (hswitch.trans ((if_neg (hnot hidle)).trans ((if_pos hok).trans (if_pos hlow))))
    case begins =>
      have hmay : (point && s.on dBLVD) = false := Bool.and_eq_false_iff.mpr h
      exact congrArg Host.Outcome.next (hswitch.trans ((if_neg (hnot hidle)).trans ((if_pos hok).trans (if_neg (hnot hmay)))))
  case vio =>
    have hset : ∀ v, setVio v s = { s with power.vio := v } := fun v => if_neg (by rw [hoff, Bool.false_and]; exact Bool.false_ne_true)
    exact ⟨congrArg Host.Outcome.next (hset false), congrArg Host.Outcome.next (hset true)⟩

end Sys2Proof.SupplyLaws

/-! Stop and wake (O58, second part). -/

namespace Sys2Proof.StopLaws
open Sys2Proof.Machine Sys2Proof.Statements

/-! ### Entry into stop (R428 to R430) -/

theorem stopEntry_none {s : State} (h : s.power.stopPort = none) : stopEntry s = s := by
  unfold stopEntry
  rw [h]

/-- A state in stop since `s`: on LFXO, its entry recorded, its retained banks sealed. -/
def InStop (s t : State) : Prop :=
  t.power.phase = .stop ∧ t.power.stopPort = none ∧ t.power.hfxo = false ∧ t.power.pll = false ∧ t.time.onLf = true ∧
    t.power.stopAt = s.elapsed.now ∧ t.power.atEntry = s.power.domains ∧ t.power.domains = (s.power.domains &&& 0x003#12) ||| 1#12 ∧
    t.power.sealedBanks = s.power.retain ||| s.saveBanks ∧ t.power.wake.ntEntry = s.time.nt ∧ t.power.wake.entries = s.power.wake.entries + 1

theorem toLfxo_onLf (s : State) : (toLfxo s).time.onLf = true := rfl

theorem stopEntry_enters {p : PortId} {s : State} (hport : s.power.stopPort = some p) (hphase : s.power.phase = .entering)
    (htaken : responseTaken (s.port p) = true) : InStop s (stopEntry s) := by
  have hgo : ¬(decide (s.power.phase ≠ .entering) || !responseTaken (s.port p)) = true := by
    rw [htaken, decide_eq_false (not_not.mpr hphase)]
    exact Bool.false_ne_true
  unfold stopEntry
  rw [hport]
  dsimp only
  rw [if_neg hgo]
  exact ⟨rfl, rfl, rfl, rfl, toLfxo_onLf _, rfl, rfl, rfl, rfl, rfl, rfl⟩

/-! ### Edges during the entry (R429) -/

theorem wake_elsewhere {src : BitVec 8} {d : BitVec 6} {f : BitVec 16} {c : Int} {n : Sensors} {s : State} (hstop : s.power.phase ≠ .stop)
    (hentering : s.power.phase ≠ .entering) : wake src d f c n s = s :=
  (if_neg hentering).trans (if_pos (by rw [decide_eq_true hstop, Bool.true_or]))

theorem wake_held {src : BitVec 8} {d : BitVec 6} {f : BitVec 16} {c : Int} {n : Sensors} {s : State} (hentering : s.power.phase = .entering)
    (harmed : armedSources d.toNat (src &&& 0xFE#8) s ≠ 0#8) :
    let m := armedSources d.toNat (src &&& 0xFE#8) s
    wake src d f c n s = { s with
      power.heldWake := s.power.heldWake ||| m
      power.heldDetail := if s.power.heldWake = 0#8 ∨ lowestCode m < lowestCode s.power.heldWake
        then (if lowestCode m ≤ 4 then d else 0#6) else s.power.heldDetail } := by
  intro m
  have hheld : wake src d f c n s = holdWakes m d s := if_pos hentering
  rw [hheld, holdWakes, if_neg harmed]
  simp only [Bool.or_eq_true, decide_eq_true_eq]
  rfl

/-- The sources that a wake in stop goes by: those held through the entry, else the armed ones of the edge. -/
def wakeSources (src : BitVec 8) (d : BitVec 6) (s : State) : BitVec 8 :=
  if s.power.heldWake = 0#8 then armedSources d.toNat (src &&& 0xFE#8) s else s.power.heldWake

theorem wake_unarmed {src : BitVec 8} {d : BitVec 6} {f : BitVec 16} {c : Int} {n : Sensors} {s : State} (hstop : s.power.phase = .stop)
    (hnone : wakeSources src d s = 0#8) : wake src d f c n s = s := by
  have hentering : s.power.phase ≠ .entering := by rw [hstop]; decide
  refine (if_neg hentering).trans (if_pos ?_)
  rw [Bool.or_eq_true, decide_eq_true_eq, decide_eq_true_eq]
  exact .inr hnone

/-! ### The wake (R433 to R436) -/

/-- The domains that a wake from `s` switches on, with the Kerb off. -/
def wakeDomains (s : State) : BitVec 12 := (s.power.atEntry &&& 0x0F0#12) ||| 0x00D#12

/-- The record of a wake whose seals all hold. -/
def wakeRecordOf (m : BitVec 8) (d : BitVec 6) (s : State) : WakeRecord :=
  { s.power.wake with
    source := BitVec.ofNat 4 (lowestCode m)
    detail := if s.power.heldWake ≠ 0#8 then s.power.heldDetail else if lowestCode m ≤ 4 then d else 0#6
    duringEntry := s.power.heldWake ≠ 0#8
    sources := m
    ntWake := if s.power.heldWake ≠ 0#8 then s.power.wake.ntEntry else s.time.nt
    retFail := 0
    saveArea := false
    restored := s.power.atEntry }

/-- The woken device past WAKE, its links, events and temperature brought back. -/
def restoredAfterWake (on_ : BitVec 12) (record : WakeRecord) (c : Int) (n : Sensors) (s : State) : State :=
  let s1 := periReset (raise 0x004 ((wakeWords record).take 7) (woken on_ record s))
  sampleTemp c n (raisePending (ageBuckets (if on_.getLsbD dXMEM then linksBack s1 else s1)))

theorem woken_sealed {on_ : BitVec 12} {record : WakeRecord} {s : State} (h : record.retFail = 0#16) :
    woken on_ record s =
      let away := s.elapsed.now - s.power.stopAt
      let s1 := clearBanks (~~~s.power.sealedBanks) { s with
        radio.cal.dueSince := s.radio.cal.dueSince + away, bg.lastPause := s.bg.lastPause.map fun p => (p.1 + away, p.2)
        bg.dueAt := s.bg.dueAt.map fun t => t + away }
      { s1 with
        power := { s.power with phase := .run, domains := on_, usable := on_ ||| s.power.usable, wake := record, heldWake := 0, heldDetail := 0 }
        radio.refInUse := s.radio.rf.ref, radio.trimInUse := s.radio.rf.hfxoTrim, plaza.rdy := true
        plaza.uartBitNs := if record.sources.getLsbD 6 then none else s.plaza.uartBitNs } := by
  simp only [woken, h, BitVec.zero_or, ne_eq, not_true, if_false]
  rfl

theorem crypto_off {s : State} (h : s.power.atEntry &&& 0x040#12 = 0#12) : (wakeDomains s).getLsbD dCRYPTO = false := by
  have hbit : (s.power.atEntry &&& 0x040#12).getLsbD 6 = false := by rw [h]; rfl
  simpa [wakeDomains, dCRYPTO] using hbit

theorem wake_wakes {src : BitVec 8} {d : BitVec 6} {c : Int} {n : Sensors} {m : BitVec 8} {s : State} (hstop : s.power.phase = .stop)
    (hm : wakeSources src d s = m) (hsome : m ≠ 0#8) (hcrypto : s.power.atEntry &&& 0x040#12 = 0#12)
    (hkerb : s.power.domains &&& 0x002#12 = 0#12) :
    let t := serveHeld (restoredAfterWake (wakeDomains s) (wakeRecordOf m d s) c n s)
    wake src d 0#16 c n s = if (wakeDomains s).getLsbD dAPP then coreStart 1 t else t := by
  have hentering : s.power.phase ≠ .entering := by rw [hstop]; decide
  have hgo : ¬(decide (s.power.phase ≠ .stop) || decide (m = 0#8)) = true := by
    rw [decide_eq_false (not_not.mpr hstop), decide_eq_false hsome]
    exact Bool.false_ne_true
  have hon : (s.power.atEntry &&& 0x0F0#12) ||| 0x00D#12 ||| (s.power.domains &&& 0x002#12) = wakeDomains s := by rw [hkerb, BitVec.or_zero]; rfl
  have hnoFail : ¬(0#16 ≠ 0#16) := not_not.mpr rfl
  unfold wake
  dsimp only
  rw [show (if s.power.heldWake = 0#8 then armedSources d.toNat (src &&& 0xFE#8) s else s.power.heldWake) = m from hm, if_neg hentering, if_neg hgo,
    hon, BitVec.zero_and, BitVec.zero_and, crypto_off hcrypto, decide_eq_false hnoFail, if_neg hnoFail, if_neg Bool.false_ne_true]
  rfl

theorem serveHeld_none {s : State} (h : s.sec.debugHeld = none) : serveHeld s = s := by
  unfold serveHeld
  rw [h]

theorem stop_and_wake_act : stopAndWakeAct := by
  refine ⟨fun s h => congrArg Host.Outcome.next (stopEntry_none h), fun p s hport hphase htaken => ⟨_, rfl, stopEntry_enters hport hphase htaken⟩,
    fun src d f c n s hstop hentering => congrArg Host.Outcome.next (wake_elsewhere hstop hentering),
    fun src d f c n s hentering harmed => congrArg Host.Outcome.next (wake_held hentering harmed),
    fun src d f c n s hstop hheld hnone => congrArg Host.Outcome.next (wake_unarmed hstop ((if_pos hheld).trans hnone)),
    fun src d c n s hstop => ?wakes⟩
  intro held m hsome hdebug hcrypto hkerb code on_ record away s1 s2 s2' s3 hserved
  have hwoken : woken on_ record s = s2 := woken_sealed rfl
  have hrestored : restoredAfterWake (wakeDomains s) (wakeRecordOf m d s) c n s = s3 := by
    show restoredAfterWake on_ record c n s = s3
    rw [restoredAfterWake, hwoken]
  have hwake := wake_wakes (c := c) (n := n) (m := m) hstop rfl hsome hcrypto hkerb
  rw [hrestored, serveHeld_none hserved] at hwake
  exact congrArg Host.Outcome.next hwake

/-- Settles O58. -/
theorem powerInstantsAct : Obligations.PowerInstantsAct := ⟨SupplyLaws.supply_and_domains_act, stop_and_wake_act⟩

end Sys2Proof.StopLaws

/-! The instants of an update (O59, first part). -/

namespace Sys2Proof.UpdateInstants
open Sys2Proof.Machine Sys2Proof.Statements

/-! ### The handover (R461 to R463) -/

theorem handover_idle {b : Bool} {s : State} (h : s.upd.act = none ∨ s.inRun = false) : handover b s = s := by
  unfold handover
  cases hact : s.upd.act with
  | none => rfl
  | some a =>
    have hout := h.resolve_left (hact ▸ Option.some_ne_none a)
    exact if_pos (by rw [hout]; rfl)

section
variable {a : Activation} {b : Bool} {s : State} (hact : s.upd.act = some a) (hrun : s.inRun = true)
include hact hrun

/-- Before the handover it begins at a gap with the package staged. -/
theorem handover_begins (hnew : s.upd.hand = none) :
    handover b s = if s.upd.staged ≠ none ∧ gapNow s = true then { s with upd.hand := some { phase := .record, t0 := s.elapsed.now } } else s := by
  unfold handover
  rw [hact]
  dsimp only
  rw [hrun, hnew, Bool.not_true, if_neg Bool.false_ne_true]
  refine if_congr ?_ rfl rfl
  rw [Bool.and_eq_true, Option.isSome_iff_ne_none]

variable {h : Handover} (hhand : s.upd.hand = some h)
include hhand

theorem handover_record {img : Image} (hphase : h.phase = .record) (hstaged : s.upd.staged = some img) :
    handover b s = if s.power.bodWarn then handoverEnds a .brownoutHold s else if coreMidTransfer s then s else flip img a h s := by
  unfold handover
  rw [hact]
  dsimp only
  rw [hrun, hhand, Bool.not_true, if_neg Bool.false_ne_true]
  dsimp only
  rw [hphase, hstaged]

theorem handover_parked (hphase : h.phase = .parked) : handover b s = unpark h s := by
  unfold handover
  rw [hact]
  dsimp only
  rw [hrun, hhand, Bool.not_true, if_neg Bool.false_ne_true]
  dsimp only
  rw [hphase]

theorem handover_adopting (hphase : h.phase = .adopting) : handover b s = if b then adopt a h s else rollBack 1 s := by
  unfold handover
  rw [hact]
  dsimp only
  rw [hrun, hhand, Bool.not_true, if_neg Bool.false_ne_true]
  dsimp only
  rw [hphase]

end

/-- With the application core off it has no entry to take. -/
theorem unpark_off {h : Handover} {s : State} (hoff : s.on dAPP = false) :
    unpark h s = { s with upd.hand := some { h with phase := .adopting, entry := false } } := by
  unfold unpark
  rw [hoff, if_neg Bool.false_ne_true]

theorem unpark_on {h : Handover} {e : Bool} {s t : State} (hon : s.on dAPP = true) (hcore : coreHandover s = (e, t)) :
    unpark h s = { t with upd.hand := some { h with phase := .adopting, entry := e } } := by
  unfold unpark
  rw [hon, if_pos rfl, hcore]

theorem handoverWaitExpiry_none {s : State} (h : s.upd.act = none) : handoverWaitExpiry s = s := by
  unfold handoverWaitExpiry
  rw [h]

theorem handoverWaitExpiry_expires {a : Activation} {s : State} (hact : s.upd.act = some a) (hrun : s.inRun = true) (hnew : s.upd.hand = none)
    (hlong : elapsedBy a.since s.elapsed.now (msU a.waitMax) = true) : handoverWaitExpiry s = handoverEnds a .expired s := by
  unfold handoverWaitExpiry
  rw [hact]
  exact if_pos (by rw [hrun, hnew, hlong]; rfl)

/-! ### Trial and rollback (R465, R466) -/

theorem trial_none {s : State} (h : s.upd.trial = none) (r : RollbackReason) : trialExpiry s = s ∧ rollback r s = s := by
  simp only [trialExpiry, rollback, h, and_self]

theorem trialExpiry_rollsBack {t : Trial} {s : State} (htrial : s.upd.trial = some t) (hrun : s.inRun = true) (hnew : s.upd.hand = none)
    (hlong : elapsedBy t.since s.elapsed.now (secU t.trialS) = true) : trialExpiry s = rollBack 4 s := by
  unfold trialExpiry
  rw [htrial]
  exact if_pos (by rw [hrun, hnew, hlong]; rfl)

theorem rollback_selfTest {t : Trial} {s : State} (htrial : s.upd.trial = some t) (hrun : s.inRun = true)
    (hsoon : s.elapsed.now.toNat ≤ t.since.toNat + secU 2) : rollback .selfTest s = rollBack (reasonCode .selfTest) s := by
  unfold rollback
  rw [htrial]
  exact if_pos (by rw [hrun, Bool.true_and]; exact decide_eq_true hsoon)

theorem rollback_due {r : RollbackReason} {t : Trial} {s : State} (htrial : s.upd.trial = some t) (hrun : s.inRun = true) (htest : r ≠ .selfTest)
    (helapsed : r ≠ .trialElapsed) (hdue : t.due = some (reasonCode r)) : rollback r s = rollBack (reasonCode r) s := by
  unfold rollback
  rw [htrial]
  refine if_pos ?_
  rw [hrun, Bool.true_and]
  cases r with
  | selfTest => exact absurd rfl htest
  | trialElapsed => exact absurd rfl helapsed
  | adoption | faultRestart | abort => exact decide_eq_true hdue

/-! ### The erase and the checks of a package (R458, R460) -/

theorem session_none {s : State} (h : s.upd.session = none) : inactiveBankErased s = s ∧ updVerifyDone s = s := by
  refine ⟨?_, ?_⟩
  · unfold inactiveBankErased
    rw [h]
  · unfold updVerifyDone
    rw [h]
    cases s.upd.verifying <;> rfl

theorem inactiveBankErased_answers {u : UpdSession} {t : BitVec 6} {s : State} (hsession : s.upd.session = some u) (herasing : u.erasing = some t)
    (hpower : s.power.bodWarn = false) (hrun : s.inRun = true) :
    let s1 := (List.range' (inactiveFirst s) s.bankSectors).foldl (fun v k => eraseSector k v) s
    inactiveBankErased s = finish ⟨u.port, t, 0x901, []⟩ .ok [] { s1 with upd.session := some { u with erasing := none } } := by
  have hgo : ¬(s.power.bodWarn || !s.inRun) = true := by
    rw [hpower, hrun]
    exact Bool.false_ne_true
  unfold inactiveBankErased
  rw [hsession]
  dsimp only
  rw [herasing]
  dsimp only
  rw [if_neg hgo, eraseSectors_all]

theorem updVerifyDone_answers {u : UpdSession} {p : PortId} {t : BitVec 6} {st : Status} {reason kind : Nat} {staged : Option Image} {s : State}
    (hsession : s.upd.session = some u) (hverifying : s.upd.verifying = some (p, t)) (hrun : s.inRun = true)
    (hchecks : checkPackage u s = (st, reason, kind, staged)) :
    let m := bankBytes s (1 - activeArray s) 0 1024
    updVerifyDone s = finish ⟨p, t, 0x903, []⟩ st [W (reason + kind % 8 * 16), W (mNum m 8 4), W (mNum m 248 4)]
      { s with upd.verifying := none, upd.staged := staged } := by
  unfold updVerifyDone
  rw [hsession, hverifying]
  dsimp only
  rw [hrun, Bool.not_true, if_neg Bool.false_ne_true, hchecks]

theorem update_instants_act : updateInstantsAct := by
  refine ⟨fun b s h => congrArg Host.Outcome.next (handover_idle h),
    fun a b s hact hrun hnew => congrArg Host.Outcome.next (handover_begins hact hrun hnew),
    fun a h img b s hact hrun hhand hphase hstaged => ?record, fun a h b s hact hrun hhand hphase => ?parked,
    fun a h s hact hrun hhand hphase => ?adopting, fun s h => congrArg Host.Outcome.next (handoverWaitExpiry_none h),
    fun a s hact hrun hnew hlong => congrArg Host.Outcome.next (handoverWaitExpiry_expires hact hrun hnew hlong), fun r s h => ?noTrial,
    fun t s htrial hrun hnew hlong => congrArg Host.Outcome.next (trialExpiry_rollsBack htrial hrun hnew hlong),
    fun t s htrial hrun hsoon => congrArg Host.Outcome.next (rollback_selfTest htrial hrun hsoon),
    fun r t s htrial hrun htest helapsed hdue => congrArg Host.Outcome.next (rollback_due htrial hrun htest helapsed hdue), fun s h => ?noSession,
    fun u t s hsession herasing hpower hrun => congrArg Host.Outcome.next (inactiveBankErased_answers hsession herasing hpower hrun),
    fun u p t s hsession hverifying hrun st reason kind staged hchecks =>
      congrArg Host.Outcome.next (updVerifyDone_answers hsession hverifying hrun hchecks)⟩
  case record =>
    have hhandover := handover_record (b := b) hact hrun hhand hphase hstaged
    have hnot : ∀ {c : Bool}, c = false → ¬c = true := fun h => by rw [h]; exact Bool.false_ne_true
    exact ⟨fun hwarn => congrArg Host.Outcome.next (hhandover.trans (if_pos hwarn)),
      fun hpower hmid => congrArg Host.Outcome.next (hhandover.trans ((if_neg (hnot hpower)).trans (if_pos hmid))),
      fun hpower hat => congrArg Host.Outcome.next (hhandover.trans ((if_neg (hnot hpower)).trans (if_neg (hnot hat))))⟩
  case parked =>
    have hhandover := handover_parked (b := b) hact hrun hhand hphase
    exact ⟨fun hoff => congrArg Host.Outcome.next (hhandover.trans (unpark_off hoff)),
      fun e t hon hcore => congrArg Host.Outcome.next (hhandover.trans (unpark_on hon hcore))⟩
  case adopting =>
    have hadopts := handover_adopting (b := true) hact hrun hhand hphase
    have hfails := handover_adopting (b := false) hact hrun hhand hphase
    exact ⟨congrArg Host.Outcome.next (hadopts.trans (if_pos rfl)), congrArg Host.Outcome.next (hfails.trans (if_neg Bool.false_ne_true))⟩
  case noTrial =>
    obtain ⟨hexpiry, hrollback⟩ := trial_none h r
    exact ⟨congrArg Host.Outcome.next hexpiry, congrArg Host.Outcome.next hrollback⟩
  case noSession =>
    obtain ⟨herased, hverified⟩ := session_none h
    exact ⟨congrArg Host.Outcome.next herased, congrArg Host.Outcome.next hverified⟩

end Sys2Proof.UpdateInstants

/-! The quanta of the background activities (O59, second part). -/

namespace Sys2Proof.BackgroundQuanta
open Sys2Proof.Machine Sys2Proof.Statements

theorem quantumDone_eq (a : Activity) (s : State) : quantumDone a s = afterQuantum a s := rfl

/-! ### The scrub (R475, R479) -/

/-- A scrub quantum of 64 words done, before what it found. -/
def scrubbed (s : State) : State :=
  let s1 := afterQuantum .scrub s
  if s.bg.scrubPos + 64 < scrubWords s then { s1 with bg.scrubPos := s.bg.scrubPos + 64 }
  else { s1 with bg.scrubPos := 0, bg.scrubPasses := satInc s1.bg.scrubPasses, bg.scrubNow := s1.bg.scrubS }

theorem scrubQuantum_keeps {m : MemKind} {e : EccFound} {s : State} (h : quantumMay .scrub s = false ∨ m = .flash) : scrubQuantum m e s = s := by
  refine if_pos ?_
  rw [Bool.or_eq_true, Bool.not_eq_true', decide_eq_true_eq]
  exact h

theorem scrubQuantum_goes {m : MemKind} {s : State} (h : quantumMay .scrub s = true) (hm : m ≠ .flash) :
    scrubQuantum m .none s = scrubbed s ∧
      ∀ a, scrubQuantum m (.corrected a) s = { scrubbed s with bg.scrubCorrected := satInc (scrubbed s).bg.scrubCorrected } := by
  have hgo : ¬(!quantumMay .scrub s || decide (m = .flash)) = true := by
    rw [h, decide_eq_false hm]
    exact Bool.false_ne_true
  exact ⟨if_neg hgo, fun a => if_neg hgo⟩

/-! ### The refresh of flash (R403, R475) -/

/-- A refresh quantum of one sector done, before what it found. -/
def refreshed (s : State) : State :=
  let s1 := afterQuantum .refresh s
  if s.bg.refreshPos + 1 < s.sectors then { s1 with bg.refreshPos := s.bg.refreshPos + 1 }
  else { s1 with bg.refreshPos := 0, bg.refreshNow := s1.bg.refreshH }

theorem flashRefreshQuantum_keeps {e : EccFound} {b : Bool} {s : State} (h : quantumMay .refresh s = false) : flashRefreshQuantum e b s = s :=
  if_pos (by rw [h]; rfl)

/-- With no array in use the sector is margin-read, and what was found is counted. -/
theorem flashRefreshQuantum_goes {s : State} (h : quantumMay .refresh s = true) (hop : s.flash.op = none) (hbank : bankErasing s = false) :
    flashRefreshQuantum .none false s = refreshed s ∧
      flashRefreshQuantum .none true s = { refreshed s with bg.refreshMargin := satInc (refreshed s).bg.refreshMargin } ∧
      ∀ a, flashRefreshQuantum (.corrected a) false s = { refreshed s with flash.corrected := satInc (refreshed s).flash.corrected } := by
  have hgo : ¬(!quantumMay .refresh s) = true := by
    rw [h]
    exact Bool.false_ne_true
  unfold flashRefreshQuantum
  rw [if_neg hgo, if_neg hgo, hop, hbank]
  refine ⟨rfl, rfl, fun a => ?_⟩
  rw [if_neg hgo]
  rfl

/-! ### Compaction and telemetry (R394, R475, R483) -/

theorem journalCompactionQuantum_keeps {x : Option Nat} {s : State} (h : quantumMay .compaction s = false) : journalCompactionQuantum x s = s :=
  if_pos (by rw [h]; rfl)

theorem journalCompactionQuantum_goes {s : State} (h : quantumMay .compaction s = true) :
    journalCompactionQuantum none s = afterQuantum .compaction s ∧
      ∀ x, x < s.sectors → arrayOf s x = 2 → journalCompactionQuantum (some x) s = eraseSector x (afterQuantum .compaction s) := by
  have hgo : ¬(!quantumMay .compaction s) = true := by
    rw [h]
    exact Bool.false_ne_true
  refine ⟨if_neg hgo, fun x hx hcommon => (if_neg hgo).trans (if_pos ?_)⟩
  rw [decide_eq_true hx, decide_eq_true hcommon]
  rfl

theorem telemetryQuantum_keeps {t : Int} {n : Sensors} {mv : Nat} {s : State} (h : quantumMay .telemetry s = false) :
    telemetryQuantum t n mv s = s := if_pos (by rw [h]; rfl)

theorem telemetryQuantum_goes {t : Int} {n : Sensors} {mv : Nat} {s : State} (h : quantumMay .telemetry s = true) :
    telemetryQuantum t n mv s =
      { sampleTemp t n (afterQuantum .telemetry s) with bg.temp := BitVec.ofInt 16 t, bg.vbat := BitVec.ofNat 16 mv } :=
  if_neg (by rw [h]; exact Bool.false_ne_true)

/-! ### Urgency (R475, R477, R481) -/

theorem urgent_keeps {a : Activity} {s : State} (h : s.inRun = false ∨ s.bg.pause ≠ none ∨ isUrgent a s = true) : urgent a s = s := by
  refine if_pos ?_
  obtain h | h | h := h
  · simp only [h, Bool.not_false, Bool.true_or]
  · simp only [Option.isSome_iff_ne_none.mpr h, Bool.or_true, Bool.true_or]
  · simp only [h, Bool.or_true, Bool.true_or]

theorem urgent_overdue {a : Activity} {s : State} (hother : a ≠ .calibration) (hrun : s.inRun = true) (hpause : s.bg.pause = none)
    (hnew : isUrgent a s = false) (hpower : s.power.bodWarn = false)
    (hdue : elapsedBy s.bg.dueAt[activityIdx a] s.elapsed.now (deferralBound a) = true) :
    urgent a s = { s with bg.urgent := s.bg.urgent ||| (1#5 <<< activityBit a), bg.urgentCount := satInc s.bg.urgentCount } := by
  unfold urgent
  rw [if_neg hother]
  dsimp only
  rw [if_neg (by rw [hrun, hpause, hnew, hdue, hpower]; exact Bool.false_ne_true),
    if_neg (by rw [decide_eq_false hother]; exact Bool.false_ne_true)]

/-- An overdue calibration step drains the radio. -/
theorem urgent_drains {s : State} (hrun : s.inRun = true) (hpause : s.bg.pause = none) (hnew : isUrgent .calibration s = false)
    (hperiodic : s.radio.cal.periodic ≠ 0#4) (hdue : elapsedBy s.radio.cal.dueSince s.elapsed.now (secU 30) = true)
    (hadmitted : calAdmitted s = false) (hdrain : s.bg.drain = none) :
    urgent .calibration s = { s with
      bg.urgent := s.bg.urgent ||| (1#5 <<< activityBit .calibration), bg.urgentCount := satInc s.bg.urgentCount
      bg.drain := some s.elapsed.now, bg.drains := satInc s.bg.drains } := by
  have hlong : (decide (s.radio.cal.periodic ≠ 0#4) && elapsedBy s.radio.cal.dueSince s.elapsed.now (deferralBound .calibration)) = true := by
    rw [decide_eq_true hperiodic, show deferralBound .calibration = secU 30 from rfl, hdue]
    rfl
  unfold urgent
  rw [if_pos rfl]
  dsimp only
  rw [if_neg (by rw [hrun, hpause, hnew, hlong, decide_eq_false (by decide), decide_eq_false (by decide), Bool.or_self, Bool.and_false]; exact Bool.false_ne_true),
    if_pos (by rw [hadmitted, hdrain]; rfl)]

theorem background_quanta_act : backgroundQuantaAct := by
  refine ⟨fun m e s h => congrArg Host.Outcome.next (scrubQuantum_keeps h), fun m s h hm => ?scrub,
    fun e b s h => congrArg Host.Outcome.next (flashRefreshQuantum_keeps h), fun s h hop hbank => ?refresh,
    fun x s h => congrArg Host.Outcome.next (journalCompactionQuantum_keeps h), fun s h => ?compaction,
    fun t n mv s h => congrArg Host.Outcome.next (telemetryQuantum_keeps h), fun t n mv s h => congrArg Host.Outcome.next (telemetryQuantum_goes h),
    fun a s h => congrArg Host.Outcome.next (urgent_keeps h),
    fun a s hother hrun hpause hnew hpower hdue => congrArg Host.Outcome.next (urgent_overdue hother hrun hpause hnew hpower hdue),
    fun s hrun hpause hnew hperiodic hdue hadmitted hdrain =>
      congrArg Host.Outcome.next (urgent_drains hrun hpause hnew hperiodic hdue hadmitted hdrain)⟩
  case scrub =>
    obtain ⟨hclean, hcorrected⟩ := scrubQuantum_goes h hm
    exact ⟨congrArg Host.Outcome.next hclean, fun a => congrArg Host.Outcome.next (hcorrected a)⟩
  case refresh =>
    obtain ⟨hclean, hmargin, hcorrected⟩ := flashRefreshQuantum_goes h hop hbank
    exact ⟨congrArg Host.Outcome.next hclean, congrArg Host.Outcome.next hmargin, fun a => congrArg Host.Outcome.next (hcorrected a)⟩
  case compaction =>
    obtain ⟨hcopies, herases⟩ := journalCompactionQuantum_goes h
    exact ⟨congrArg Host.Outcome.next hcopies, fun x hx hcommon => congrArg Host.Outcome.next (herases x hx hcommon)⟩

end Sys2Proof.BackgroundQuanta

/-! What pauses, context tests, bank tests, loopbacks and directory snapshots end with (O59, third part). -/

namespace Sys2Proof.TestEnds
open Sys2Proof.Machine Sys2Proof.Statements

/-! ### Pauses (R481) -/

theorem bgPauseEnd_none {s : State} (h : s.bg.pause = none) : bgPauseEnd s = s := by
  unfold bgPauseEnd
  rw [h]

theorem bgPauseEnd_ends {t : DWord} {ms : Nat} {s : State} (h : s.bg.pause = some (t, ms)) (hover : elapsedBy t s.elapsed.now (msU ms) = true) :
    bgPauseEnd s = pauseEnds ms s := by
  unfold bgPauseEnd
  rw [h]
  exact if_pos hover

/-! ### Context tests (R485) -/

theorem ctxTestDone_none {p : Bool} {n : Nat} {s : State} (h : s.bg.ctxTest = none) : ctxTestDone p n s = s := by
  unfold ctxTestDone
  rw [h]

section
variable {p : Bool} {n : Nat} {t : CtxTestOp} {s : State} (htest : s.bg.ctxTest = some t)
include htest

/-- The OFFLINE context decodes its frame in 1.5 ms. -/
theorem ctxTestDone_offline (hoffline : (s.rx.ctxs[t.ctx]).st = .offline) (hon : s.isUsable dBLVD = true) :
    ctxTestDone p n s =
      if !elapsedBy t.offAt s.elapsed.now (usU 1500) then s
      else completeEvent t.port 0x0CB t.handle
        [t.handle.setWidth 32, W (statusCode .ok + b2n p * 2 ^ 16 + t.ctx.val * 2 ^ 17), W n]
        { s with bg.ctxTest := none, rx.ctxs := s.rx.ctxs.set t.ctx {} } := by
  unfold ctxTestDone
  rw [htest]
  exact if_pos (by rw [decide_eq_true hoffline, hon]; rfl)

/-- A context that did not become FREE within WAIT_MAX ends the test. -/
theorem ctxTestDone_expires (hbusy : (s.rx.ctxs[t.ctx]).st ≠ .offline) (hlong : elapsedBy t.since s.elapsed.now (msU t.waitMax) = true) :
    ctxTestDone p n s = completeEvent t.port 0x0CB t.handle
      [t.handle.setWidth 32, W (statusCode .expired + b2n false * 2 ^ 16 + t.ctx.val * 2 ^ 17), W 0] { s with bg.ctxTest := none } := by
  unfold ctxTestDone
  rw [htest]
  exact (if_neg (by rw [decide_eq_false hbusy]; exact Bool.false_ne_true)).trans (if_pos hlong)

end

theorem statusCode_ok : statusCode .ok = 0 := rfl

/-! ### Bank tests (R486) -/

/-- The one bit of a set that names a bank. -/
theorem names_bank (b : Fin 16) (k : Nat) : (!(1#16 <<< b.val).getLsbD k) = decide (k ≠ b.val) := by
  have hb := b.isLt
  rw [Bool.eq_iff_iff]
  simp only [BitVec.getLsbD_shiftLeft, BitVec.getLsbD_one, Bool.not_eq_true', Bool.and_eq_false_iff, decide_eq_false_iff_not, decide_eq_true_eq,
    Bool.not_eq_false', ne_eq]
  omega

theorem clearBanks_one (b : Fin 16) (s : State) : clearBanks (1#16 <<< b.val) s = { s with sram := s.sram.filter fun c => c.1 / 65536 ≠ b.val } := by
  simp only [clearBanks, names_bank]

theorem bistDone_none {n : Nat} {f : Word} {s : State} (h : s.bg.bist = none) : bistDone n f s = s := by
  unfold bistDone
  rw [h]

theorem bistDone_early {n : Nat} {f : Word} {t : BistOp} {s : State} (h : s.bg.bist = some t)
    (hearly : elapsedBy t.since s.elapsed.now (usU (if s.power.lp then 3410 else 1280)) = false) : bistDone n f s = s := by
  unfold bistDone
  rw [h]
  exact if_pos (by rw [hearly]; rfl)

theorem bistDone_ends {n : Nat} {f : Word} {t : BistOp} {s : State} (h : s.bg.bist = some t)
    (hover : elapsedBy t.since s.elapsed.now (usU (if s.power.lp then 3410 else 1280)) = true) :
    bistDone n f s = completeEvent t.port 0x0CC t.handle
      [t.handle.setWidth 32, W (b2n (decide (n = 0)) * 2 ^ 16), W (min n 0xFFFFFFFF), if n = 0 then 0#32 else f]
      { s with bg.bist := none, sram := s.sram.filter fun c => c.1 / 65536 ≠ t.bank.val } := by
  have hgo : ¬(!elapsedBy t.since s.elapsed.now (usU (if s.power.lp then 3410 else 1280))) = true := by
    rw [hover]
    exact Bool.false_ne_true
  unfold bistDone
  rw [h]
  dsimp only
  rw [if_neg hgo, clearBanks_one]

/-! ### Loopbacks (R487) -/

theorem loopbackEnd_none {p : Bool} {a b c d : Word} {s : State} (h : s.bg.loop = none) : loopbackEnd p a b c d s = s := by
  unfold loopbackEnd
  rw [h]

section
variable {p : Bool} {a b c d : Word} {o : LoopOp} {s : State} (hloop : s.bg.loop = some o)
include hloop

theorem loopbackEnd_early (hearly : elapsedBy o.since s.elapsed.now (usU o.durationUs) = false) : loopbackEnd p a b c d s = s := by
  unfold loopbackEnd
  rw [hloop]
  exact if_pos (by rw [hearly]; rfl)

variable (hover : elapsedBy o.since s.elapsed.now (usU o.durationUs) = true)
include hover

theorem loopbackEnd_radio (hradio : o.kerb = false) :
    loopbackEnd p a b c d s = finish ⟨o.port, o.tag, 0xB03, []⟩ .ok [W (b2n p), a, b, c, d]
      (if s.radio.blanked = true ∧ s.radio.mode = .rx then endBlank { s with bg.loop := none } else { s with bg.loop := none }) := by
  unfold loopbackEnd
  rw [hloop]
  dsimp only
  rw [hover, Bool.not_true, if_neg Bool.false_ne_true, hradio, if_neg Bool.false_ne_true]
  simp only [Bool.and_eq_true, decide_eq_true_eq]

theorem loopbackEnd_kerb (hkerb : o.kerb = true) :
    loopbackEnd p a b c d s = finish ⟨o.port, o.tag, 0xB03, []⟩ .ok
      [1#32, (s.kerb.passes - o.passes).setWidth 32, W (decisionCount s - o.decisions), 0#32, 0#32]
      (kerbLevelEdge s { s with bg.loop := none, kerb.bypass := none }) := by
  have hpasses : W (s.kerb.passes - o.passes).toNat = (s.kerb.passes - o.passes).setWidth 32 := BitVec.ofNat_toNat _ _
  unfold loopbackEnd
  rw [hloop]
  dsimp only
  rw [hover, Bool.not_true, if_neg Bool.false_ne_true, hkerb, if_pos rfl, hpasses]
  rfl

end

/-! ### Directory snapshots (R238) -/

theorem dirSnapshotDone_none {s : State} (h : s.dir.snapshot = none) : dirSnapshotDone s = s := by
  unfold dirSnapshotDone
  rw [h]

theorem dirSnapshotDone_noDirectory {o : SnapshotOp} {s : State} (h : s.dir.snapshot = some o) (hcfg : dirCfg s = none) :
    dirSnapshotDone s = finish ⟨o.port, o.tag, 0x506, []⟩ .badState [] { s with dir.snapshot := none } := by
  unfold dirSnapshotDone
  rw [h, hcfg]

theorem dirSnapshotDone_saves {o : SnapshotOp} {d : DirConfig} {s : State} (h : s.dir.snapshot = some o) (hcfg : dirCfg s = some d)
    (hsave : o.restore = false) :
    let c : Cmd := ⟨o.port, o.tag, 0x506, []⟩
    let x := xspiFails (flushDirty o.first (o.first + o.num) { s with dir.snapshot := none })
    dirSnapshotDone s = if x.1 then finish c .directoryFault [] (dirFault o.first 2 x.2)
      else sendEntries c (if d.ext then 31 else 63) o.num 0 ((List.range o.num).map fun i => storedEntry d (o.first + i) x.2) x.2 := by
  unfold dirSnapshotDone
  rw [h, hcfg]
  dsimp only
  rw [hsave]
  simp only [Bool.false_eq_true, if_false]

theorem dirSnapshotDone_restores {o : SnapshotOp} {d : DirConfig} {s : State} (h : s.dir.snapshot = some o) (hcfg : dirCfg s = some d)
    (hrestore : o.restore = true) :
    let c : Cmd := ⟨o.port, o.tag, 0x506, []⟩
    let x := xspiFails { s with dir.snapshot := none }
    let r := restoreAll d o.first (chunks (4 * entryWords d) (unpackLE o.words))
      { x.2 with dir.epoch := x.2.dir.epoch + 1, dir.seq := 0, dir.epochDue := false }
    dirSnapshotDone s = if x.1 then finish c .directoryFault [] (dirFault o.first 3 x.2)
      else finish c .ok [W (r.2.1 + r.2.2 * 2 ^ 16)] r.1 := by
  unfold dirSnapshotDone
  rw [h, hcfg]
  dsimp only
  rw [hrestore]
  simp only [if_true]

theorem tests_and_pauses_end : testsAndPausesEnd := by
  refine ⟨fun s h => congrArg Host.Outcome.next (bgPauseEnd_none h), fun t ms s h hover => congrArg Host.Outcome.next (bgPauseEnd_ends h hover),
    fun p n s h => congrArg Host.Outcome.next (ctxTestDone_none h), fun p n t s htest => ?context,
    fun n f s h => congrArg Host.Outcome.next (bistDone_none h), fun n f t s h hearly => congrArg Host.Outcome.next (bistDone_early h hearly),
    fun n f t s h hover => congrArg Host.Outcome.next (bistDone_ends h hover),
    fun p a b c d s h => congrArg Host.Outcome.next (loopbackEnd_none h),
    fun p a b c d o s h hearly => congrArg Host.Outcome.next (loopbackEnd_early h hearly),
    fun p a b c d o s h hover => ⟨fun hradio => congrArg Host.Outcome.next (loopbackEnd_radio h hover hradio),
      fun hkerb => congrArg Host.Outcome.next (loopbackEnd_kerb h hover hkerb)⟩,
    fun s h => congrArg Host.Outcome.next (dirSnapshotDone_none h),
    fun o s h hcfg => congrArg Host.Outcome.next (dirSnapshotDone_noDirectory h hcfg),
    fun o d s h hcfg hsave => congrArg Host.Outcome.next (dirSnapshotDone_saves h hcfg hsave),
    fun o d s h hcfg hrestore => congrArg Host.Outcome.next (dirSnapshotDone_restores h hcfg hrestore)⟩
  case context =>
    refine ⟨fun hoffline hon hearly => ?early, fun hoffline hon hover => ?tested, fun hbusy hlong => ?expired⟩
    case early =>
      have htested := ctxTestDone_offline (p := p) (n := n) htest hoffline hon
      exact congrArg Host.Outcome.next (htested.trans (if_pos (by rw [hearly]; rfl)))
    case tested =>
      have htested := ctxTestDone_offline (p := p) (n := n) htest hoffline hon
      rw [statusCode_ok, Nat.zero_add] at htested
      exact congrArg Host.Outcome.next (htested.trans (if_neg (by rw [hover]; exact Bool.false_ne_true)))
    case expired =>
      have hexpired := ctxTestDone_expires (p := p) (n := n) htest hbusy hlong
      rw [show b2n false = 0 from rfl, Nat.zero_mul, Nat.add_zero] at hexpired
      exact congrArg Host.Outcome.next hexpired

/-- Settles O59. -/
theorem updateBackgroundAndTestsAct : Obligations.UpdateBackgroundAndTestsAct :=
  ⟨UpdateInstants.update_instants_act, BackgroundQuanta.background_quanta_act, tests_and_pauses_end⟩

end Sys2Proof.TestEnds
